-- ==== Sys2Proof/Word.lean ====
section
/-! DEFINITION. The word types of the block: bytes, 32-bit register words, 16-bit levels. -/

namespace Sys2Proof

/-- A byte of a memory, a packet or a descriptor. -/
abbrev Byte := BitVec 8

/-- A 16-bit level: a slot value, a pixel's drive, a lane of the Xhnk extension. -/
abbrev Level := BitVec 16

/-- A 32-bit word: a BAR0 register (R9), a cue-core register, a descriptor word (R55). -/
abbrev Word := BitVec 32

end Sys2Proof
end

