-- ==== Sys2Proof/Machine/Crypto.lean ====
section
/-! DEFINITION. The standard algorithms that chapter 17 names: SHA-384, HMAC and HKDF (RFC 5869), AES-256 in GCM, and ECDSA
over P-384. The spec names them and does not repeat them, so their contents are PRESUMED: FIPS 180-4, FIPS 197, SP 800-38D,
FIPS 186-4. -/

namespace Sys2Proof.Machine

open Sys2Proof

/-! ### Bytes and numbers -/

/-- Little-endian bytes as a number (R12). -/
def leNat : List Byte → Nat
  | [] => 0
  | b :: t => b.toNat + 256 * leNat t

/-- A number as `n` little-endian bytes (R12). -/
def leBytes (v : Nat) : Nat → List Byte
  | 0 => []
  | n + 1 => BitVec.ofNat 8 v :: leBytes (v / 256) n

/-- Big-endian bytes as a number: network packets keep their standard's order (R12). -/
def beNat (l : List Byte) : Nat := leNat l.reverse

def beBytes (v n : Nat) : List Byte := (leBytes v n).reverse

/-- The bytes of an ASCII string without a terminator. -/
def ascii (s : String) : List Byte := s.toList.map (fun c => BitVec.ofNat 8 c.toNat)

def xorBytes (a b : List Byte) : List Byte := List.zipWith (fun x y => x ^^^ y) a b

/-- Pieces of `n` bytes; `fuel` bounds their number. -/
def chunksOf (n : Nat) : Nat → List Byte → List (List Byte)
  | 0, _ => []
  | _ + 1, [] => []
  | f + 1, l => l.take n :: chunksOf n f (l.drop n)

/-! ### SHA-384 -/

/-- The primes below 410: the first eighty. No larger divisor than 19 has to be tried. -/
def shaPrimes : List Nat :=
  (List.range 410).filter (fun n => decide (1 < n) && [2, 3, 5, 7, 11, 13, 17, 19].all (fun d => n = d || n % d ≠ 0))

/-- The greatest `r` above `low` whose `deg`-th power is at most `v`, by its `bits` lowest binary places. -/
def rootFrom (deg v : Nat) : Nat → Nat → Nat
  | 0, low => low
  | n + 1, low => rootFrom deg v n (if (low + 2 ^ n) ^ deg ≤ v then low + 2 ^ n else low)

/-- The first 64 bits of the fractional part of the `deg`-th root of a number below 512: how FIPS 180-4 gives the constants. -/
def rootWord (deg p : Nat) : Nat := rootFrom deg (p * 2 ^ (64 * deg)) 69 0 % 2 ^ 64

/-- The eighty constants of the rounds: cube roots of the first eighty primes. -/
def shaConst : List Nat := shaPrimes.map (rootWord 3)

/-- The initial hash value of SHA-384: square roots of the ninth to the sixteenth prime. -/
def shaInit : List Nat := ((shaPrimes.drop 8).take 8).map (rootWord 2)

def m64 (x : Nat) : Nat := x % 2 ^ 64

/-- The exclusive or of a word's rotations to the right by each of `l`, and of `z`. -/
def shaTurn (l : List Nat) (z x : Nat) : Nat := l.foldl (fun a n => a ^^^ m64 (x / 2 ^ n + x * 2 ^ (64 - n))) z

/-- The message schedule, newest word first: `n` more words. -/
def shaSchedule : Nat → List Nat → List Nat
  | 0, w => w
  | n + 1, w =>
    let near := w.getD 1 0
    let far := w.getD 14 0
    shaSchedule n (m64 (w.getD 15 0 + w.getD 6 0 + shaTurn [1, 8] (far / 2 ^ 7) far + shaTurn [19, 61] (near / 2 ^ 6) near) :: w)

/-- One round over the eight working words, with the round's constant and message word added up in `kw`. -/
def shaRound (h : List Nat) (kw : Nat) : List Nat :=
  match h with
  | [a, b, c, d, e, f, g, i] =>
    let t := kw + i + shaTurn [14, 18, 41] 0 e + ((e &&& f) ^^^ ((2 ^ 64 - 1 - e) &&& g))
    m64 (t + shaTurn [28, 34, 39] 0 a + ((a &&& (b ^^^ c)) ^^^ (b &&& c))) :: a :: b :: c :: m64 (d + t) :: [e, f, g]
  | l => l

def shaBlock (h : List Nat) (b : List Byte) : List Nat :=
  let w := (shaSchedule 64 ((chunksOf 8 16 b).map beNat).reverse).reverse
  List.zipWith (fun x y => m64 (x + y)) h ((List.zipWith (· + ·) shaConst w).foldl shaRound h)

/-- SHA-384. -/
def sha384 (m : List Byte) : List Byte :=
  let pad := (239 - m.length % 128) % 128
  let l := m ++ [0x80] ++ List.replicate pad 0 ++ beBytes (8 * m.length) 16
  let h := (chunksOf 128 (l.length / 128) l).foldl shaBlock shaInit
  ((h.take 6).map (fun x => beBytes x 8)).flatten

/-! ### HMAC and HKDF -/

def hmac384 (key m : List Byte) : List Byte :=
  let k0 := if key.length ≤ 128 then key else sha384 key
  let k := k0 ++ List.replicate (128 - k0.length) 0
  sha384 (k.map (fun b => b ^^^ 0x5C) ++ sha384 (k.map (fun b => b ^^^ 0x36) ++ m))

/-- HKDF's expansion: `n` more blocks after `t`, counted from `i`. -/
def hkdfBlocks (prk info : List Byte) : Nat → Nat → List Byte → List Byte
  | 0, _, _ => []
  | n + 1, i, t =>
    let u := hmac384 prk (t ++ info ++ [BitVec.ofNat 8 i])
    u ++ hkdfBlocks prk info n (i + 1) u

/-- HKDF-SHA-384 (R488): `len` bytes. No salt is 48 zero bytes. -/
def hkdf (ikm salt info : List Byte) (len : Nat) : List Byte :=
  let prk := hmac384 (if salt = [] then List.replicate 48 0 else salt) ikm
  (hkdfBlocks prk info ((len + 47) / 48) 1 []).take len

/-! ### AES-256 -/

/-- Multiplication by x in GF(2^8). -/
def xtime (b : Byte) : Byte := if b.getLsbD 7 then (b <<< 1) ^^^ 0x1B else b <<< 1

def gmul8 (a : Byte) : Nat → Byte → Byte
  | 0, _ => 0
  | n + 1, b => (if b.getLsbD 0 then a else 0) ^^^ gmul8 (xtime a) n (b >>> 1)

/-- The inverse in GF(2^8), 0 for 0: the power 254. -/
def ginv (a : Byte) : Byte :=
  let sq (x : Byte) : Byte := gmul8 x 8 x
  let a2 := sq a
  let a4 := sq a2
  let a8 := sq a4
  let a16 := sq a8
  let a32 := sq a16
  let a64 := sq a32
  let a128 := sq a64
  gmul8 (gmul8 (gmul8 (gmul8 (gmul8 (gmul8 a2 8 a4) 8 a8) 8 a16) 8 a32) 8 a64) 8 a128

def sboxByte (a : Byte) : Byte :=
  let b := ginv a
  b ^^^ b.rotateLeft 1 ^^^ b.rotateLeft 2 ^^^ b.rotateLeft 3 ^^^ b.rotateLeft 4 ^^^ 0x63

def sboxTable : List Byte := (List.range 256).map (fun i => sboxByte (BitVec.ofNat 8 i))

/-- The key schedule: words newest first, `n` more from word `i`. -/
def aesWords (sb : List Byte) : Nat → Nat → Byte → List (List Byte) → List (List Byte)
  | 0, _, _, w => w
  | n + 1, i, rc, w =>
    let t := w.getD 0 []
    let sub (l : List Byte) : List Byte := l.map (fun b => sb.getD b.toNat 0)
    let (u, rc') :=
      if i % 8 = 0 then (xorBytes (sub (t.drop 1 ++ t.take 1)) [rc, 0, 0, 0], xtime rc)
      else if i % 8 = 4 then (sub t, rc)
      else (t, rc)
    aesWords sb n (i + 1) rc' (xorBytes (w.getD 7 []) u :: w)

def aesKeys (key : List Byte) : List (List Byte) :=
  let w := (aesWords sboxTable 52 8 1 (chunksOf 4 8 key).reverse).reverse
  (List.range 15).map (fun r => (w.drop (4 * r)).take 4 |>.flatten)

def mixColumn (c : List Byte) : List Byte :=
  match c with
  | [a, b, d, e] =>
    let t := a ^^^ b ^^^ d ^^^ e
    [a ^^^ t ^^^ xtime (a ^^^ b), b ^^^ t ^^^ xtime (b ^^^ d), d ^^^ t ^^^ xtime (d ^^^ e), e ^^^ t ^^^ xtime (e ^^^ a)]
  | l => l

def shiftRows (s : List Byte) : List Byte := (List.range 16).map (fun i => s.getD (5 * i % 16) 0)

def aesRounds (sb : List Byte) : List (List Byte) → List Byte → List Byte
  | [], s => s
  | [k], s => xorBytes (shiftRows (s.map (fun b => sb.getD b.toNat 0))) k
  | k :: ks, s =>
    aesRounds sb ks (xorBytes ((chunksOf 4 4 (shiftRows (s.map (fun b => sb.getD b.toNat 0)))).flatMap mixColumn) k)

/-- One block under AES-256. -/
def aes256 (key block : List Byte) : List Byte :=
  match aesKeys key with
  | [] => block
  | k0 :: ks => aesRounds sboxTable ks (xorBytes block k0)

/-! ### GCM -/

/-- A product in GF(2^128) with GCM's bit order, bit by bit over `n` bits of `x` from the highest. -/
def gmul128 (x : Nat) : Nat → Nat → Nat → Nat
  | 0, _, z => z
  | n + 1, v, z =>
    let z' := if x / 2 ^ n % 2 = 1 then Nat.xor z v else z
    let v' := if v % 2 = 1 then Nat.xor (v / 2) 0xE1000000000000000000000000000000 else v / 2
    gmul128 x n v' z'

def ghash (h : Nat) (l : List (List Byte)) : Nat :=
  l.foldl (fun y b => gmul128 (Nat.xor y (beNat (b ++ List.replicate (16 - b.length) 0))) 128 h 0) 0

/-- The counter's key stream over a text. -/
def ctrBlocks (key iv : List Byte) : Nat → List (List Byte) → List Byte
  | _, [] => []
  | i, b :: t => xorBytes b (aes256 key (iv ++ beBytes i 4)) ++ ctrBlocks key iv (i + 1) t

def blocks16 (l : List Byte) : List (List Byte) := chunksOf 16 (l.length / 16 + 1) l

def gcmCrypt (key iv text : List Byte) : List Byte := ctrBlocks key iv 2 (blocks16 text)

/-- The 16-byte tag over a cipher text and additional data. -/
def gcmTag (key iv aad cipher : List Byte) : List Byte :=
  let h := beNat (aes256 key (List.replicate 16 0))
  let g := ghash h (blocks16 aad ++ blocks16 cipher ++ [beBytes (8 * aad.length) 8 ++ beBytes (8 * cipher.length) 8])
  xorBytes (beBytes g 16) (aes256 key (iv ++ beBytes 1 4))

/-- Seal a text: its cipher text and its tag. -/
def gcmSeal (key iv aad text : List Byte) : List Byte × List Byte :=
  let c := gcmCrypt key iv text
  (c, gcmTag key iv aad c)

/-- Open a cipher text; `none` where its tag fails. -/
def gcmOpen (key iv aad cipher tag : List Byte) : Option (List Byte) :=
  if gcmTag key iv aad cipher = tag then some (gcmCrypt key iv cipher) else none

/-! ### ECDSA over P-384 -/

def p384P : Nat := 2 ^ 384 - 2 ^ 128 - 2 ^ 96 + 2 ^ 32 - 1
def p384N : Nat :=
  0xffffffffffffffffffffffffffffffffffffffffffffffffc7634d81f4372ddf581a0db248b0a77aecec196accc52973
def p384B : Nat :=
  0xb3312fa7e23ee7e4988e056be3f82d19181d9c6efe8141120314088f5013875ac656398d8a2ed19d2a85c8edd3ec2aef
def p384G : Nat × Nat :=
  (0xaa87ca22be8b05378eb1c71ef320ad746e1d3b628ba79b9859f741e082542a385502f25dbf55296c3a545e3872760ab7,
   0x3617de4a96262c6f5d9e98bf9292dc29f8f41dbd289a147ce9da3113b5f0b8c00a60b1ce1d7e819d7a431d7c90ea0e5f)

/-- A power modulo `m`, over `n` bits of the exponent. -/
def powMod (m b e : Nat) : Nat → Nat
  | 0 => 1 % m
  | n + 1 =>
    let r := powMod m (b * b % m) (e / 2) n
    if e % 2 = 1 then r * b % m else r

/-- The inverse modulo a prime. -/
def invMod (m a : Nat) : Nat := powMod m (a % m) (m - 2) 384

def subMod (m a b : Nat) : Nat := (a + (m - b % m)) % m

/-- The group's sum; `none` is the point at infinity. -/
def ecAdd (a b : Option (Nat × Nat)) : Option (Nat × Nat) :=
  match a, b with
  | none, b => b
  | a, none => a
  | some (x1, y1), some (x2, y2) =>
    if x1 = x2 ∧ (y1 + y2) % p384P = 0 then none
    else
      let l :=
        if x1 = x2 then subMod p384P (3 * x1 * x1) 3 * invMod p384P (2 * y1) % p384P
        else subMod p384P y2 y1 * invMod p384P (subMod p384P x2 x1) % p384P
      let x3 := subMod p384P (l * l) (x1 + x2)
      some (x3, subMod p384P (l * subMod p384P x1 x3) y1)

/-- A multiple of a point, over `n` bits of the scalar. -/
def ecMul (k : Nat) (q : Option (Nat × Nat)) : Nat → Option (Nat × Nat)
  | 0 => none
  | n + 1 =>
    let r := ecMul (k / 2) (ecAdd q q) n
    if k % 2 = 1 then ecAdd q r else r

def ecX (q : Option (Nat × Nat)) : Nat :=
  match q with
  | some (x, _) => x
  | none => 0

/-- Whether a point lies on the curve, with coordinates in range. -/
def ecOn (x y : Nat) : Bool :=
  decide (x < p384P ∧ y < p384P ∧ y * y % p384P = (x * x * x + (p384P - 3) * x + p384B) % p384P)

/-- Whether `sig` (r ‖ s) signs a message under the key x ‖ y. -/
def ecdsaGood (key sig m : List Byte) : Bool :=
  let x := beNat (key.take 48)
  let y := beNat (key.drop 48)
  let r := beNat (sig.take 48)
  let t := beNat (sig.drop 48)
  let w := invMod p384N t
  let z := beNat (sha384 m)
  let q := ecAdd (ecMul (z * w % p384N) (some p384G) 384) (ecMul (r * w % p384N) (some (x, y)) 384)
  key.length = 96 && sig.length = 96 && ecOn x y && decide (0 < r ∧ r < p384N ∧ 0 < t ∧ t < p384N) &&
    q.isSome && decide (ecX q % p384N = r)

/-- A signature under the private key `d` with the secret number `k`. -/
def ecdsaSign (d k : Nat) (m : List Byte) : List Byte :=
  let r := ecX (ecMul k (some p384G) 384) % p384N
  let t := invMod p384N k * (beNat (sha384 m) + r * d) % p384N
  beBytes r 48 ++ beBytes t 48

/-- The public key x ‖ y of a private key. -/
def ecPublic (d : Nat) : List Byte :=
  match ecMul d (some p384G) 384 with
  | some (x, y) => beBytes x 48 ++ beBytes y 48
  | none => List.replicate 96 0

end Sys2Proof.Machine
end

