-- ==== Sys2Proof/Config.lean ====
section
/-! DEFINITION. What a device fixes (its fuses) and what the spec leaves open (free values: constants without a body,
so that nothing can be proved of their value). Each is named in the assumption log. -/

namespace Sys2Proof

/-- The twelve power domains of R18, in the table's order. -/
inductive Domain where
  | tend | sluice | sys | coreA | coreB | pix | cistern | latLo | latHi | net | host | res
deriving DecidableEq, Repr

/-- The fuse-loaded register fields (R14): which fuse a field's reset value comes from. -/
inductive FuseId where
  | grade | serialLo | serialHi | macLo | macHi
  | thWarn | thThrottle | thCrit | thLow | thLowRelease | thRise
  | calOhms | calSlew | calSlices | calSkew | sensorOffset | tendRcTrim
  | slcLifecycle | slcRollback | slcIdentity
deriving DecidableEq, Repr

namespace Config

/-- GLB_GRADE (R562): `true` for HN8256-X0, `false` for HN8256-C0. Which one a part is, is fused. -/
opaque gradeX0 : Bool

/-- The 64-bit serial number that GLB_SERIAL shows (R562). -/
opaque serial : BitVec 64

/-- The fused Ethernet address of a MAC, byte 0 highest (R354). -/
opaque macAddr : Nat → BitVec 48

/-- Which of two 64-bit frame numbers equally near to GLB_FRAME_NUMBER a descriptor's `target_frame` names (R56). -/
opaque nearTieLow : Bool

/-- Which of several equal candidates the device takes where the spec does not say (R535: a FREE entry of the Silt
trap). -/
opaque pick : Nat → Nat

/-- The cap of a run whose zero-drive and full-drive voltages are equal (R248's formula divides by their difference). -/
opaque capFlat : Nat → Nat

/-- H_ack of a zone none of whose commands has ever been acknowledged. -/
opaque ackNone : Nat → Nat

/-- A flume `par` with a parameter number that R277 does not list. -/
opaque flumePar : Nat → Word

/-- The bits that a flume `move` with a count above 16 appends for a 16-bit value. -/
opaque flumeWide : Nat → Nat → Nat

/-- The event code that a block posts for one of its events where its rule names none (R71). -/
opaque eventCode : Nat → Nat → Nat

/-- How many K28.5 symbols fill a Furrow line before a frame: the spec gives the instants of some frames only. -/
opaque idleFill : Nat → Nat

/-- A word of the flumes' catalogue ROM, at its address, outside the SINGLE_WIRE program of R277. -/
opaque flumeRom : Nat → Word

/-- A word of flume `f`'s program RAM that nothing has written. -/
opaque flumeRam : Nat → Nat → Word

/-- The ROM word at which the catalogue program of a mode starts, counted from 0x2000 (R276). -/
opaque romEntry : Nat → Nat

/-- What `mtval` holds after an illegal instruction. -/
opaque illegalTval : Word → Word

/-- What `mtval` holds after EBREAK at a pc. -/
opaque breakTval : Word → Word

/-- What a store of neither 0 nor 1 makes of a core's `msip` (R89). -/
opaque msipOther : Word → Bool → Bool

/-- The code that IDCODE shifts out; R500 names the instruction and gives no code. -/
opaque idcode : Word

/-- By how much the device's converted YCbCr component differs from R187's exact value, before its bound of 1 is
applied; the argument names the codes and the component. -/
opaque yccDelta : Nat → Int

/-- That difference: at most 1 either way. -/
def yccOff (key : Nat) : Int := if yccDelta key < 0 then -1 else if 0 < yccDelta key then 1 else 0

/-- The factory driver resistance, slew setting and slice set of a port (R479). -/
opaque portOhms : Nat → BitVec 8
opaque portSlew : Nat → BitVec 2
opaque portSlices : Nat → BitVec 16

/-- The fused launch skew of a port, the fused offset of a sensor and the fused trim of TEND_RC (R479). The spec gives their widths and units
nowhere: 16 bits (log entry 119). -/
opaque portSkew : Nat → BitVec 16
opaque sensorOffset : Nat → BitVec 16
opaque tendRcTrim : BitVec 16

/-- The trim that a calibration run gives a launch stage: free value `n` (R476). -/
opaque launchTrim : Nat → BitVec 16

/-- DS, the device secret (R487). -/
opaque deviceSecret : BitVec 384

/-- DS as HKDF takes it. -/
def secretBytes : List Byte := Machine.beBytes deviceSecret.toNat 48

/-- The private identity key d (R488). -/
def identityD : Nat :=
  Machine.beNat (Machine.hkdf secretBytes [] (Machine.ascii "HNK id") 56) % (Machine.p384N - 1) + 1

/-- The identity public key, 96 bytes x ‖ y. -/
def identityBytes : List Byte := Machine.ecPublic identityD

/-- The SHA-384 of the vendor key, in the boot ROM (R491). -/
opaque vendorHash : BitVec 384

/-- Bytes 4i..4i+3 of the identity public key (R510). -/
def identityKey (i : Nat) : Word := BitVec.ofNat 32 (Machine.leNat ((identityBytes.drop (4 * i)).take 4))

/-- A byte that the DRBG or a unit's noise gives: `n` numbers the request. -/
opaque random : Nat → Byte

/-- The byte in which an attestation holds the lifecycle and the debug level (R491). -/
opaque attestByte : Nat → Nat → Byte

/-- The first word of a show package's header (R495). -/
opaque packageMagic : Word

/-- A byte of the boot flash as the factory left it. -/
opaque flashByte : Nat → Byte

/-- Where the loader configuration of an image, given as its bytes, says that the key blob lies in the flash (R515): the
spec gives the segment's contents and not its layout. -/
opaque blobPlace : List Byte → Option Nat

/-- The DRAM stack, `true` for 1, that holds a Reservoir offset: the spec does not say how the stacks share them. -/
opaque stackOne : Nat → Bool

/-- The PCIe Subsystem Vendor ID and Subsystem ID that an image's loader configuration gives, if it gives them (R39, R515): the
spec names them among the segment's contents and gives no layout. -/
opaque subsystemIds : List Byte → Option (BitVec 16 × BitVec 16)

/-- A word of the PCIe configuration space that R39 does not describe: the standard's capabilities, at places the spec does not
give. -/
opaque pcieConfigWord : Nat → Word

/-- The source block ID in the events of a block to which neither R452 nor R538 gives one: 0 thermal, 1 power. -/
opaque blockId : Nat → BitVec 16

/-- What the flash's SFDP tables say: UPD_FLASH_INFO (R525). -/
opaque flashInfo : Word

/-- The bytes of a frame ledger record's body: R428 gives its kind, its key and what it holds, and no layout. -/
opaque ledgerBody : Nat → Nat → List Nat → List Byte

/-- The bytes of a staged frame as the Reservoir holds it (R429), given its pixels and its universe image. -/
opaque stagedBytes : List Nat → List Nat → List Byte

/-- The body of a heartbeat or FENCE, its tag apart, the address it goes to on the Ethernet path, and the initialization vector of
its GMAC tag (R435, R497): the spec gives their contents and not their layout. -/
opaque heartbeatBody : List Nat → List Byte
opaque heartbeatDest : Nat
opaque heartbeatIv : Nat → List Byte

/-- The bytes of a Siphon message of a kind: the spec gives what it carries and not its layout. -/
opaque siphonText : Nat → List Nat → List Byte

/-- SHA-384 of the peer's identity public key, from which K_hb is derived (R488); the spec does not say how a device comes to know
it. -/
opaque peerIdentity : BitVec 384

/-- A fuse's value for instance `k`, as the field that it loads holds it. The thermal thresholds are those of R466, in
0.01 °C, two's complement in 16 bits, with `low_release` of R474. `slcLifecycle`, `slcRollback` and `slcIdentity` are read from the fuse state
itself, so their entries here are those of a device whose fuses are blank. -/
def fuse (f : FuseId) (k : Nat) : Nat :=
  match f with
  | .grade => if gradeX0 then 1 else 0
  | .serialLo => serial.toNat % 2 ^ 32
  | .serialHi => serial.toNat / 2 ^ 32
  | .macLo => (macAddr k).toNat % 2 ^ 32
  | .macHi => (macAddr k).toNat / 2 ^ 32
  | .thWarn => if gradeX0 then 9500 else 8500
  | .thThrottle => if gradeX0 then 10200 else 9200
  | .thCrit => if gradeX0 then 11000 else 10000
  | .thLow => if gradeX0 then 2 ^ 16 - 4000 else 0
  | .thLowRelease => if gradeX0 then 2 ^ 16 - 3000 else 500
  | .thRise => 500
  | .calOhms => (portOhms k).toNat
  | .calSlew => (portSlew k).toNat
  | .calSlices => (portSlices k).toNat
  | .calSkew => (portSkew k).toNat
  | .sensorOffset => (sensorOffset k).toNat
  | .tendRcTrim => tendRcTrim.toNat
  | .slcLifecycle => 0
  | .slcRollback => 0
  | .slcIdentity => (identityKey k).toNat

end Config

end Sys2Proof
end

