-- ==== Sys2Proof/Syntax.lean ====
section
/-! DEFINITION. The commands of the block and the data they bring. Operands that a field limits are `Fin` or `BitVec`, so
that every term is a command that the outside can give; what remains to be checked of lists stands in WellFormed. -/

namespace Sys2Proof

/-- Host memory as the device finds it while the command runs: the bytes it may read (an unlisted byte reads 0), and the
address ranges (first byte, length) at which an access fails. -/
structure HostView where
  cells : List (Nat × Byte) := []
  fails : List (Nat × Nat) := []
deriving DecidableEq, Repr

/-- A cue core's ordinary access (R115..R121): `rd` takes a load's result, `rs2` gives a store's or an AMO's value. `run` is the
fetch at the core's pc whose instruction the core executes (R86). -/
inductive CoreAccess where
  | fetch
  | run
  | load (rd : Fin 32) (bytes : Fin 5) (signed : Bool)
  | store (rs2 : Fin 32) (bytes : Fin 5)
  | lr (rd : Fin 32)
  | sc (rd rs2 : Fin 32)
  | amo (op : Fin 9) (rd rs2 : Fin 32)
  | flw (rd : Fin 32)
  | fsw (rs2 : Fin 32)
deriving DecidableEq, Repr

/-- The requesters of a register access (R557): a cue core, the host, the management port, the TAP. -/
inductive Requester where
  | core (n : Fin 64)
  | host
  | smbus
  | tap
deriving DecidableEq, Repr

/-- What the host does through the PCIe function beside BAR0 and BAR2 (R39, R551): configuration requests and BAR4 accesses by
32-bit word, and the two control bits of the MSI-X capability, whose place the spec does not give. -/
inductive PcieAccess where
  | configRead (word : BitVec 10)
  | configWrite (word : BitVec 10) (value : Word)
  | msixControl (enable mask : Bool)
  | bar4Read (word : BitVec 12)
  | bar4Write (word : BitVec 12) (value : Word)
deriving DecidableEq, Repr

/-- A JTAG instruction (R500): boundary scan (IEEE 1149.1), the debug of a core, a BAR0 access, a read or write of a memory, and
a manufacturing test access. A core's register is an integer one (0..31), its pc (32) or a floating one (33..64). -/
inductive JtagOp where
  | bypass | idcode | samplePreload | extest
  | coreHalt (n : Fin 64)
  | coreResume (n : Fin 64)
  | coreStep (n : Fin 64)
  | coreRead (n : Fin 64) (reg : Fin 65)
  | coreWrite (n : Fin 64) (reg : Fin 65) (value : Word)
  | csrRead (n : Fin 64) (number : BitVec 12)
  | csrWrite (n : Fin 64) (number : BitVec 12) (value : Word)
  | padRead (n : Fin 64) (addr : BitVec 21)
  | padWrite (n : Fin 64) (addr : BitVec 21) (value : Word)
  | poolRead (clusterB : Bool) (addr : BitVec 23)
  | poolWrite (clusterB : Bool) (addr : BitVec 23) (value : Word)
  | barRead (offset : BitVec 24)
  | barWrite (offset : BitVec 24) (value : Word)
  | memRead (cistern : Bool) (addr : BitVec 34)
  | memWrite (cistern : Bool) (addr : BitVec 34) (value : Word)
  | testAccess
deriving DecidableEq, Repr


/-- A piece of the engine state that catching up sends (R434): which part, its key in it, and its values. -/
structure EngineRec where
  part : Nat
  key : Nat
  words : List Nat
deriving DecidableEq, Repr

/-- The commands the block takes, one constructor per row of spec/opcode_table.json. An event's command is issued when the
spec's time for it has come; the operands are what the outside world brings to it. -/
inductive Instr where
  /-- INPUT_CUT (R22): At T_f − 2P the frame's inputs are sampled, its ledger opens, and descriptors, commits and writers take effect for the frame. -/
  | inputCut
  /-- CUE_DEADLINE (R104): At sub-tick 20 frame-bound tasks not yet dispatched are cancelled, running ones are marked late, and fade queue tails are latched. -/
  | cueDeadline
  /-- MEMBER_PASS_END (R152): The fabric finishes the member pass, writing the universe image and allowing FABRIC layers to be fetched. -/
  | memberPassEnd
  /-- FRAME_STAGED (R588): The staged frame and its Cistern pictures become complete. -/
  | frameStaged (host after : HostView)
  /-- FLATTEN_REFILL_DONE (R196): A flatten-cache refill ends, and its copy is swapped in at the next input cut. -/
  | flattenRefillDone (canvas : Fin 4) (host after : HostView)
  /-- STAGING_DEADLINE (R588): At T_f − P the Watermaster fixes scale factors, the ledger closes and its transfer begins, and an unstaged frame is repeated; `fetched` are
  the layer buffers that such a frame has fetched by then (R210), from host memory as `host` and `after` show it. -/
  | stagingDeadline (fetched : List (Fin 4 × Fin 8)) (host after : HostView)
  /-- READOUT_START (R276): After the Watermaster arithmetic ends, every enabled port's flume context restarts for the frame. -/
  | readoutStart
  /-- LINE_START (R265): A SINGLE_WIRE or CLOCKED line starts at T_f − t_e − D if its whole frame is buffered, and is otherwise treated as starved. -/
  | lineStart (port : Fin 256)
  /-- PORT_COMMIT_EVENT (R264): A port's launch stage fires its commit event at T_f − t_e: a DMX break, a line's last bit or a Furrow COMMIT. -/
  | portCommitEvent (port : Fin 256)
  /-- SUPPLY_RISE_SEND (R246): Rising supply set-points of the frame are sent at T_f − L. -/
  | supplyRiseSend
  /-- SUPPLY_FALL_SEND (R246): Falling supply set-points are sent at T_f + G when neither frame needs a rise. -/
  | supplyFallSend
  /-- FRAME_INSTANT (R22): At T_f light changes, GLB_FRAME_NUMBER increments and repeat_last is updated. -/
  | frameInstant
  /-- HOST_POLL (R50): The device reads the doorbell pages, checks indices and fetches eligible descriptors. -/
  | hostPoll (host : HostView)
  /-- HOST_NUDGE (R51): A write to HOST_NUDGE starts a poll within 100 ns, merging nudges and restarting the interval. -/
  | hostNudge (req : Requester) (value : Word)
  /-- NOP (R59): The NOP descriptor completes at fetch with result 0. -/
  | nop
  /-- WRITE_TABLE (R61): WRITE_TABLE stages table bytes in the staging area without changing any live table. -/
  | writeTable (host : HostView)
  /-- WRITE_TABLE_STAGED (R62): A WRITE_TABLE's last byte is staged and it receives its staging number and completion. -/
  | writeTableStaged (id : Nat)
  /-- READ_TABLE (R59): READ_TABLE copies the live table as of the latest input cut to memory. -/
  | readTable (host : HostView)
  /-- TRANSFER_DONE (R59): A form A transfer other than staging finishes its DMA and posts its completion. -/
  | transferDone (id : Nat)
  /-- COMMIT (R61): COMMIT checks the staged writes of its scope and makes them live at the target input cut, or refuses. -/
  | commit
  /-- LAYER_FRAME (R72): LAYER_FRAME submits a layer buffer that is fetched from its target frame until replaced. -/
  | layerFrame
  /-- SET_VALUES (R138): SET_VALUES writes host contribution records, or releases positions, at the target input cut. -/
  | setValues
  /-- POST_TASK (R97): POST_TASK posts a host ONE_SHOT task released with the target frame's cue tasks. -/
  | postTask
  /-- CANCEL_TASK (R106): CANCEL_TASK cancels an undispatched host task or completes with TASK_UNKNOWN. -/
  | cancelTask
  /-- RX_BUFFER (R331): RX_BUFFER posts a host receive buffer to a MAC and class. -/
  | rxBuffer (host : HostView)
  /-- TX_FRAME (R351): TX_FRAME queues a host frame for untimed or timed launch on a MAC. -/
  | txFrame (host : HostView)
  /-- RDM_REQUEST (R267): RDM_REQUEST queues an RDM transaction on a DMX port. -/
  | rdmRequest (host : HostView)
  /-- TIME_QUERY (R358): TIME_QUERY writes the four time bases, read in one cycle, to memory. -/
  | timeQuery (host : HostView)
  /-- POWER_REQUEST (R455): POWER_REQUEST asks the Tender for SHOW, IDLE, WATCH or DORMANT. -/
  | powerRequest
  /-- POWER_REQUEST_ABORT (R456): POWER_REQUEST with arg 4 aborts a prepare phase in progress and clears the pending slot. -/
  | powerRequestAbort
  /-- SERVICE_REACH_BEGIN (R511): SERVICE_REACH with arg bit 0 set takes a reach into service at its target input cut. -/
  | serviceReachBegin
  /-- SERVICE_REACH_END (R511): SERVICE_REACH with arg bit 0 clear ends service of a reach and takes in its held settings. -/
  | serviceReachEnd
  /-- UPDATE_CHUNK_STORE (R517): UPDATE_CHUNK class STORE writes bytes into an image slot. -/
  | updateChunkStore (host : HostView)
  /-- UPDATE_CHUNK_VERIFY (R517): UPDATE_CHUNK class VERIFY stores bytes and checks the slot's image. -/
  | updateChunkVerify (host : HostView)
  /-- UPDATE_CHUNK_INSTALL (R518): UPDATE_CHUNK class INSTALL checks the image, hands the clusters over live and writes the boot flash. -/
  | updateChunkInstall (host : HostView)
  /-- READ_COUNTERS (R540): READ_COUNTERS writes a snapshot of every spillway counter. -/
  | readCounters (host : HostView)
  /-- UNKNOWN_OPCODE (R69): A descriptor with an unknown opcode completes with BAD_OPCODE. -/
  | unknownOpcode
  /-- CQ_MOD_TIMEOUT (R70): The oldest unsignalled completion reaches time_us and the CQ vector is raised. -/
  | cqModTimeout (ring : Fin 32)
  /-- EVENT_POST (R71): An event waiting in the event FIFO is posted to the event ring when a free CQ slot appears. -/
  | eventPost
  /-- RING_ENABLE (R74): Writing enable 1 starts a ring, resuming or restarting it, or puts it in ERROR for bad geometry. -/
  | ringEnable (req : Requester) (ring : Fin 32) (value : Word)
  /-- RING_DISABLE (R74): Writing enable 0 puts a running ring into DRAINING and withdraws its buffers. -/
  | ringDisable (req : Requester) (ring : Fin 32) (value : Word)
  /-- RING_DRAINED (R74): A DRAINING ring posts its last reserved completion and becomes DISABLED. -/
  | ringDrained (ring : Fin 32)
  /-- PCIE_LINK_LOSS (R74): Loss of the PCIe link halts every host-memory ring. -/
  | pcieLinkLoss
  /-- FUNCTION_LEVEL_RESET (R43): A Function Level Reset resets PD_HOST and halts every host-memory ring. -/
  | functionLevelReset
  /-- MSIX_DELIVERY_RESUME (R565): When MSI-X can deliver again, one message is sent per set vector and per CQ holding unread completions. -/
  | msixDeliveryResume (mask : BitVec 64) (accesses : List PcieAccess)
  /-- HK_ADDSU (R94): hk.addsu adds two lane pairs with saturation. -/
  | hkAddsu (core : Fin 64) (rd rs1 rs2 : Fin 32)
  /-- HK_SUBSU (R94): hk.subsu subtracts two lane pairs with saturation. -/
  | hkSubsu (core : Fin 64) (rd rs1 rs2 : Fin 32)
  /-- HK_MULQ (R94): hk.mulq multiplies lanes with rounding. -/
  | hkMulq (core : Fin 64) (rd rs1 rs2 : Fin 32)
  /-- HK_MAXU (R94): hk.maxu takes the lane maxima. -/
  | hkMaxu (core : Fin 64) (rd rs1 rs2 : Fin 32)
  /-- HK_MINU (R94): hk.minu takes the lane minima. -/
  | hkMinu (core : Fin 64) (rd rs1 rs2 : Fin 32)
  /-- HK_AVGU (R94): hk.avgu averages lanes, rounding up. -/
  | hkAvgu (core : Fin 64) (rd rs1 rs2 : Fin 32)
  /-- HK_SCL (R94): hk.scl scales both lanes by lane 0 of rs2. -/
  | hkScl (core : Fin 64) (rd rs1 rs2 : Fin 32)
  /-- HK_PACK (R94): hk.pack packs lane 0 of two registers. -/
  | hkPack (core : Fin 64) (rd rs1 rs2 : Fin 32)
  /-- HK_NAR8 (R94): hk.nar8 narrows two lanes to bytes with rounding. -/
  | hkNar8 (core : Fin 64) (rd rs1 : Fin 32)
  /-- HK_WID8 (R94): hk.wid8 widens two bytes to lanes. -/
  | hkWid8 (core : Fin 64) (rd rs1 : Fin 32)
  /-- HK_LERP (R94): hk.lerp interpolates between two lanes by a third. -/
  | hkLerp (core : Fin 64) (rd rs1 rs2 rs3 : Fin 32)
  /-- HK_MAC (R94): hk.mac adds a rounded lane product to an accumulator with saturation. -/
  | hkMac (core : Fin 64) (rd rs1 rs2 rs3 : Fin 32)
  /-- XHNK_ILLEGAL_ENCODING (R95): Any other custom-0 or custom-1 encoding raises an illegal-instruction exception. -/
  | xhnkIllegalEncoding (core : Fin 64) (word : Word)
  /-- DR_TAKE (R92): A read of dr.take returns the dispatched task's handle or stops the core until dispatch or an interrupt. -/
  | drTake (core : Fin 64) (rd : Fin 32)
  /-- DR_POLL (R110): A read of dr.poll takes a task in the cycle it reaches the Ditchrider or returns 0. -/
  | drPoll (core : Fin 64) (rd : Fin 32)
  /-- DR_DONE (R93): A write to dr.done retires the current task, posting any completion and held release. -/
  | drDone (core : Fin 64) (rs1 : Fin 32)
  /-- DR_POST (R99): A dr.post swap posts a core task or refuses it. -/
  | drPost (core : Fin 64) (rd rs1 : Fin 32)
  /-- DR_CANCEL (R107): A dr.cancel swap cancels a task release or ends a PERIODIC or EVENT task. -/
  | drCancel (core : Fin 64) (rd rs1 : Fin 32)
  /-- DR_LEDGER (R109): A dr.ledger swap appends a word to the frame ledger or returns the active's word on a standby. -/
  | drLedger (core : Fin 64) (rd rs1 : Fin 32)
  /-- HK_LS_READ (R90): A read of hk.ls returns LOCAL seconds and latches hk.lns. -/
  | hkLsRead (core : Fin 64) (rd : Fin 32)
  /-- MSIP_STORE (R89): A store to a core's msip word raises or clears its machine software interrupt. -/
  | msipStore (core : Fin 64) (target : Fin 32) (rs2 : Fin 32)
  /-- FABRIC_WINDOW_STORE (R135): A core store to the fabric window records a cue snap for its task's frame. -/
  | fabricWindowStore (core : Fin 64) (addr : BitVec 24) (wide : Bool) (rs2 : Fin 32)
  /-- BIT_SET_STORE (R118): A store to the bit-set alias ORs the value into a pool word atomically. -/
  | bitSetStore (core : Fin 64) (offset : BitVec 23) (bytes : Fin 5) (rs2 : Fin 32)
  /-- BIT_CLEAR_STORE (R118): A store to the bit-clear alias clears the value's bits in a pool word atomically. -/
  | bitClearStore (core : Fin 64) (offset : BitVec 23) (bytes : Fin 5) (rs2 : Fin 32)
  /-- DISPATCH (R110): In a SYS cycle the Ditchrider dispatches at most one ready task per cluster to its longest-waiting core. -/
  | dispatch
  /-- DR_CORE_RUN_WRITE (R127): A write of DR_CORE_RUN releases cores from reset or returns them to reset, cancelling their releases. -/
  | drCoreRunWrite (req : Requester) (clusterB : Bool) (value : Word)
  /-- ECC_SCRUB (R120): The background scrubber reads scratchpad and pool words, correcting single-bit errors and reporting double-bit ones. -/
  | eccScrub (pool : Bool) (addr : Nat) (errors : Fin 3)
  /-- PF_FADEQ_TAIL_WRITE (R136): A write of PF_FADEQ_TAIL publishes fade queue entries or is discarded as an overflow. -/
  | pfFadeqTailWrite (req : Requester) (queue : Fin 64) (value : Word)
  /-- PF_CTRL_WRITE (R158): A write of PF_CTRL sets eval_enable and fadeq_enable, refusing fade queues that overlap the staging area. -/
  | pfCtrlWrite (req : Requester) (value : Word)
  /-- CMP_CTRL_WRITE (R213): A write of CMP_CTRL sets compose_enable, refusing a flatten cache that overlaps the staging area. -/
  | cmpCtrlWrite (req : Requester) (value : Word)
  /-- CLR_CTRL_WRITE (R231): A write of CLR_CTRL sets colour_enable and dither_hold, refusing a colour region that overlaps the staging area. -/
  | clrCtrlWrite (req : Requester) (value : Word)
  /-- CLR_TABLE_BASE_WRITE (R229): A write of CLR_TABLE_BASE moves the colour region and clears every loaded flag. -/
  | clrTableBaseWrite (req : Requester) (value : Word)
  /-- WM_CTRL_WRITE (R242): A write of WM_CTRL sets the Watermaster enables, restarting sent_f when wm_enable becomes 1. -/
  | wmCtrlWrite (req : Requester) (value : Word)
  /-- WM_LEG_ACK_WRITE (R250): A write of WM_LEG_ACK acknowledges a latched legibility group at the next staging deadline. -/
  | wmLegAckWrite (req : Requester) (value : Word)
  /-- PMBUS_COMMAND_DONE (R247): A PMBus set-point command ends, acknowledged or repeated once, with a second failure marking the zone faulted. -/
  | pmbusCommandDone (bus : Fin 2) (ack : Bool)
  /-- FL_NOP (R277): Flume nop does nothing. -/
  | flNop (port : Fin 256)
  /-- FL_LI (R277): Flume li loads a 16-bit immediate. -/
  | flLi (port : Fin 256) (d : Fin 16) (imm16 : BitVec 16)
  /-- FL_LUI (R277): Flume lui loads an immediate into the upper half. -/
  | flLui (port : Fin 256) (d : Fin 16) (imm16 : BitVec 16)
  /-- FL_ADD (R277): Flume add adds two registers. -/
  | flAdd (port : Fin 256) (d a b : Fin 16)
  /-- FL_SUB (R277): Flume sub subtracts two registers. -/
  | flSub (port : Fin 256) (d a b : Fin 16)
  /-- FL_AND (R277): Flume and combines two registers bitwise. -/
  | flAnd (port : Fin 256) (d a b : Fin 16)
  /-- FL_OR (R277): Flume or combines two registers bitwise. -/
  | flOr (port : Fin 256) (d a b : Fin 16)
  /-- FL_XOR (R277): Flume xor combines two registers bitwise. -/
  | flXor (port : Fin 256) (d a b : Fin 16)
  /-- FL_SHL (R277): Flume shl shifts a register left. -/
  | flShl (port : Fin 256) (d a b : Fin 16)
  /-- FL_SHR (R277): Flume shr shifts a register right logically. -/
  | flShr (port : Fin 256) (d a b : Fin 16)
  /-- FL_ADDI (R277): Flume addi adds a signed immediate. -/
  | flAddi (port : Fin 256) (d a : Fin 16) (imm : BitVec 14)
  /-- FL_MIN (R277): Flume min takes the unsigned minimum. -/
  | flMin (port : Fin 256) (d a b : Fin 16)
  /-- FL_MAX (R277): Flume max takes the unsigned maximum. -/
  | flMax (port : Fin 256) (d a b : Fin 16)
  /-- FL_MULQ (R277): Flume mulq takes the rounded lane product. -/
  | flMulq (port : Fin 256) (d a b : Fin 16)
  /-- FL_TAKE (R277): Flume take reads the next intake value, yielding if it is not yet read out. -/
  | flTake (port : Fin 256) (d : Fin 16)
  /-- FL_PUTV (R277): Flume putv appends the top bits of a value to the outfall, yielding while the buffer is full. -/
  | flPutv (port : Fin 256) (a b : Fin 16)
  /-- FL_PUTB (R277): Flume putb appends low bits of a register to the outfall. -/
  | flPutb (port : Fin 256) (a b : Fin 16)
  /-- FL_MOVE (R277): Flume move carries intake values to the outfall, yielding and repeating while blocked. -/
  | flMove (port : Fin 256) (d a b : Fin 16)
  /-- FL_EMIT (R277): Flume emit marks a packet start, flushes to a byte or closes a Furrow block. -/
  | flEmit (port : Fin 256) (imm : BitVec 14)
  /-- FL_PAR (R277): Flume par reads a port parameter or entry word. -/
  | flPar (port : Fin 256) (d : Fin 16) (imm : BitVec 14)
  /-- FL_LDK (R277): Flume ldk loads a keep word. -/
  | flLdk (port : Fin 256) (d : Fin 16) (imm : BitVec 14)
  /-- FL_STK (R277): Flume stk stores a keep word. -/
  | flStk (port : Fin 256) (a : Fin 16) (imm : BitVec 14)
  /-- FL_JMP (R277): Flume jmp jumps to an absolute address. -/
  | flJmp (port : Fin 256) (imm : BitVec 14)
  /-- FL_BZ (R277): Flume bz jumps if a register is zero. -/
  | flBz (port : Fin 256) (a : Fin 16) (imm : BitVec 14)
  /-- FL_BNZ (R277): Flume bnz jumps if a register is not zero. -/
  | flBnz (port : Fin 256) (a : Fin 16) (imm : BitVec 14)
  /-- FL_DJNZ (R277): Flume djnz decrements a register and jumps if it is not zero. -/
  | flDjnz (port : Fin 256) (d : Fin 16) (imm : BitVec 14)
  /-- FL_YIELD (R277): Flume yield ends the current slice. -/
  | flYield (port : Fin 256)
  /-- FL_END (R277): Flume end ends the port's frame. -/
  | flEnd (port : Fin 256)
  /-- FL_TRAP (R278): Flume trap faults the port's frame with a code. -/
  | flTrap (port : Fin 256) (imm : BitVec 14)
  /-- FL_UNDEFINED_OP (R278): An undefined op, reserved emit code, bad jump or bad count faults the port's frame. -/
  | flUndefinedOp (port : Fin 256) (word : Word)
  /-- FLUME_FAULT (R286): A flume ECC error or a context stuck for 4 frames is a flume fault, which may move the lateral to F8. -/
  | flumeFault (flume : Fin 9) (ecc : Bool) (ports : BitVec 32)
  /-- PORT_REST_POINT (R281): At its rest point a port takes its new entry, or moves its keep area between its flume and F8. -/
  | portRestPoint (port : Fin 256)
  /-- RDM_TRANSACTION_START (R269): At a DMX packet end the port starts queued RDM transactions that fit before the next break. -/
  | rdmTransactionStart (port : Fin 256)
  /-- RDM_RESPONSE (R268): An RDM response ends and its RDM_REQUEST completes. -/
  | rdmResponse (port : Fin 256) (bytes : List Byte) (framing : Bool)
  /-- RDM_TIMEOUT (R268): No response starts within rdm_timeout_us and the request completes with RDM_NO_RESPONSE. -/
  | rdmTimeout (port : Fin 256)
  /-- FIRING_PROBE (R310): A Furrow port sends the firing PROBE frame, opening the probe slot; `configs` CONFIG frames fit before
  it (R296). -/
  | firingProbe (port : Fin 256) (configs : Fin 1025)
  /-- TURN_SET (R303): A Furrow port sends the turn set and releases its line for the return window. -/
  | turnSet (port : Fin 256)
  /-- FURROW_PONG (R308): Node 0's PONG arrives and the port measures out_0 and the chain delays. -/
  | furrowPong (port : Fin 256) (r0 : BitVec 32)
  /-- FURROW_RECORD (R307): A return-window record arrives and its telemetry, acknowledgements and faults are taken in. -/
  | furrowRecord (port : Fin 256) (bytes : List Byte) (crcGood : Bool)
  /-- RETURN_WINDOW_END (R307): The return window ends and unheard nodes, short windows and CONFIG retries are counted. -/
  | returnWindowEnd (port : Fin 256)
  /-- FUR_NODE_SILENT (R307): A node unheard for 4 windows is reported silent and its pixels turn FAILED. -/
  | furNodeSilent (port : Fin 256) (node : Fin 1024)
  /-- ENUM_GO (R314): A write of enum_go enumerates a Furrow port. -/
  | enumGo (req : Requester) (value : Word)
  /-- MAC_FRAME_RECEIVE (R325): A received Ethernet frame is checked, filtered, classified and queued, or dropped. -/
  | macFrameReceive (mac : Fin 4) (bytes : List Byte) (good : Bool)
  /-- RX_FRAME_TO_HOST (R330): A class 6 or 7 frame held for want of buffers continues into newly posted RX_BUFFERs. -/
  | rxFrameToHost (mac : Fin 4)
  /-- PAUSE_REPEAT (R332): While occupancy stays above the low weir, PAUSE is sent again every half pause time. -/
  | pauseRepeat (mac : Fin 4)
  /-- PAUSE_WATCHDOG (R334): Sending or receiving PAUSE for wd_ms trips the pause watchdog. -/
  | pauseWatchdog (mac : Fin 4) (tx : Bool)
  /-- NET_MAC_CFG_WRITE (R327): A write of NET_MAC_CFG enables a MAC, refusing queues over 8,192 cells. -/
  | netMacCfgWrite (req : Requester) (mac : Fin 4) (value : Word)
  /-- NET_LINK_CHANGE (R337): A MAC's link comes up or goes down. -/
  | netLinkChange (mac : Fin 4) (up : Bool)
  /-- SACN_DATA_DUE (R338): An sACN data packet falls due on a MAC and is launched. -/
  | sacnDataDue (mac : Fin 4)
  /-- SYNC_PACKET_LAUNCH (R337): A MAC launches the E1.31 synchronization packet at T_f − t_n. -/
  | syncPacketLaunch (mac : Fin 4)
  /-- SACN_DISCOVERY (R340): Every 10 s each MAC sends an E1.31 universe discovery packet. -/
  | sacnDiscovery (mac : Fin 4)
  /-- SACN_DATA_RECEIVED (R342): A received sACN data packet is taken by its receive entries, held for sync or ignored. -/
  | sacnDataReceived (mac : Fin 4)
  /-- SACN_SYNC_RECEIVED (R344): A synchronization packet applies the data held for its address. -/
  | sacnSyncReceived (mac : Fin 4)
  /-- SACN_SYNC_TIMEOUT (R344): Held sACN data not synchronized within 2.5 s is applied unsynchronised. -/
  | sacnSyncTimeout (entry : Fin 4096) (place : Fin 4)
  /-- SACN_SOURCE_TIMEOUT (R343): A source silent for 2.5 s leaves its receive entry. -/
  | sacnSourceTimeout (entry : Fin 4096) (place : Fin 4)
  /-- VIDEO_PACKET_RECEIVED (R347): An ST 2110-20 packet is written into the stream's history. -/
  | videoPacketReceived (mac : Fin 4)
  /-- AUDIO_PACKET_RECEIVED (R348): An audio packet is placed by RTP time and feeds envelope followers. -/
  | audioPacketReceived (mac : Fin 4)
  /-- AUDIO_STREAM_DOWN (R348): An audio stream silent for 50 ms goes down. -/
  | audioStreamDown (stream : Fin 8)
  /-- TX_FRAME_LAUNCH (R350): A timed TX_FRAME launches at its due time or late, with any time stamp queued. -/
  | txFrameLaunch (mac : Fin 4)
  /-- NET_TSQ_POP (R352): A write of NET_TSQ_POP removes the oldest software time-stamp entry. -/
  | netTsqPop (req : Requester) (mac : Fin 4) (value : Word)
  /-- PTP_MESSAGE_DUE (R363): A periodic PTP message falls due and is sent. -/
  | ptpMessageDue (mac : Fin 4) (kind : Fin 5)
  /-- PTP_MESSAGE_RECEIVED (R363): A received PTP message updates the PTP state and may give a sample. -/
  | ptpMessageReceived (mac : Fin 4)
  /-- LTC_CODEWORD (R365): A decoded LTC codeword is one TIMECODE sample, or is discarded. -/
  | ltcCodeword (hh mm ss ff : Nat) (good audio : Bool) (ago : Nat)
  /-- TIME_BASE_LOSS (R361): No sample for the loss time moves a base to HOLDOVER or back from ACQUIRING. -/
  | timeBaseLoss (base : Fin 3)
  /-- HOLDOVER_LIMIT (R361): A base reaches holdover_max_s in HOLDOVER and TIME_HOLDOVER is sent again. -/
  | holdoverLimit (base : Fin 3)
  /-- TIM_CAPTURE (R358): A write of TIM_CAPTURE copies all four bases in one cycle. -/
  | timCapture (req : Requester) (value : Word)
  /-- TALLY_EDGE (R377): A filtered tally edge is stamped, queued and fires its EVENT source. -/
  | tallyEdge (tally : Fin 32) (rising : Bool) (ago : Nat)
  /-- TIM_TALLY_POP (R378): A write of TIM_TALLY_POP removes the oldest tally entry. -/
  | timTallyPop (req : Requester) (value : Word)
  /-- GATE_ARM (R380): A write of TIM_GATE_CFG with arm 1 arms a gate output. -/
  | gateArm (req : Requester) (gate : Fin 8) (value : Word)
  /-- GATE_DISARM (R380): A write of TIM_GATE_CFG with arm 0 disarms a gate output. -/
  | gateDisarm (req : Requester) (gate : Fin 8) (value : Word)
  /-- GATE_PULSE (R381): A gate pulse falls due and is driven, firing its EVENT source. -/
  | gatePulse (gate : Fin 8)
  /-- HPD_RISE (R388): A rise of DPn_HPD reads the sink and trains its link. -/
  | hpdRise (output : Fin 2) (lanes : Fin 5) (rate : Fin 4) (edid : List Byte)
  /-- HPD_FALL (R388): A fall of DPn_HPD stops the output. -/
  | hpdFall (output : Fin 2)
  /-- IRQ_HPD (R388): An IRQ_HPD reporting a lost link starts training again. -/
  | irqHpd (output : Fin 2)
  /-- LINK_TRAINING_DONE (R388): DisplayPort training succeeds or fails, failures retried once per period. -/
  | linkTrainingDone (output : Fin 2) (good : Bool)
  /-- RASTER_FRAME_LAUNCH (R392): A raster frame's first active pixel leaves at its launch instant from the newest complete picture. -/
  | rasterFrameLaunch (output : Fin 2) (j : Fin 4)
  /-- BAR2_WRITE (R396): A BAR2 write reaches a Cistern byte, or is discarded inside an enabled output's buffer. -/
  | bar2Write (offset : BitVec 27) (bytes : List Byte) (readBack : Fin 65)
  /-- MARK_SEND (R413): A parent sends MARK on each joined down port at T_f − P/2. -/
  | markSend
  /-- BASIN_MARK (R413): A received MARK gives the parent's frame instant and frame number, and is answered by ECHO. -/
  | basinMark (port : Fin 17) (bytes : List Byte)
  /-- BASIN_ECHO (R413): A received ECHO gives the child's round-trip delay. -/
  | basinEcho (port : Fin 17) (bytes : List Byte) (r : BitVec 32)
  /-- BASIN_JOIN (R410): A received JOIN is forwarded up or answered by the root with ACCEPT. -/
  | basinJoin (port : Fin 17) (bytes : List Byte)
  /-- BASIN_ACCEPT (R410): A received ACCEPT joins a device or refuses it. -/
  | basinAccept (port : Fin 17) (bytes : List Byte)
  /-- BASIN_COMMIT (R418): A received basin COMMIT acts as a COMMIT from ring 0 for frame F. -/
  | basinCommit (port : Fin 17) (bytes : List Byte)
  /-- BASIN_SNAPSHOT (R419): A received SNAPSHOT schedules a time and counter snapshot at frame F. -/
  | basinSnapshot (port : Fin 17) (bytes : List Byte)
  /-- BASIN_ARRIVE (R420): A received ARRIVE counts a child subtree at the barrier. -/
  | basinArrive (port : Fin 17) (bytes : List Byte)
  /-- BASIN_RELEASE (R420): A received RELEASE completes the barrier. -/
  | basinRelease (port : Fin 17) (bytes : List Byte)
  /-- BASIN_BCAST (R421): A received broadcast is forwarded and queued. -/
  | basinBcast (port : Fin 17) (bytes : List Byte)
  /-- BASIN_RESET (R422): A received RESET is forwarded and a basin reset is scheduled. -/
  | basinReset (port : Fin 17) (bytes : List Byte)
  /-- BASIN_REPORT (R418): A received REPORT adds a subtree's refusals to the operation. -/
  | basinReport (port : Fin 17) (bytes : List Byte)
  /-- JOIN_RETRY (R410): A refused device retries JOIN every second. -/
  | joinRetry
  /-- DRAVUD_CHILD_LOSS (R412): A lost segment or 4 missing ECHOs removes a child and its subtree. -/
  | dravudChildLoss (port : Fin 17) (segment : Bool)
  /-- BSN_OP_COMMIT (R418): BSN_OP COMMIT at the root starts a basin commit. -/
  | bsnOpCommit (req : Requester) (value : Word)
  /-- BSN_OP_SNAPSHOT (R419): BSN_OP SNAPSHOT at the root starts a basin snapshot. -/
  | bsnOpSnapshot (req : Requester) (value : Word)
  /-- BSN_OP_BARRIER (R420): BSN_OP BARRIER makes a device arrive at a barrier. -/
  | bsnOpBarrier (req : Requester) (value : Word)
  /-- BSN_OP_BROADCAST (R421): BSN_OP BROADCAST at the root sends broadcast data down the basin. -/
  | bsnOpBroadcast (req : Requester) (value : Word)
  /-- BSN_OP_RESET (R422): BSN_OP RESET at the root starts a basin reset. -/
  | bsnOpReset (req : Requester) (value : Word)
  /-- BSN_BCAST_POP (R421): A write of BSN_BCAST_POP removes the oldest broadcast entry. -/
  | bsnBcastPop (req : Requester) (value : Word)
  /-- TANDEM_JOIN_TIMER (R425): 10 ms after JOINING a tandem device takes its role. -/
  | tandemJoinTimer
  /-- HEARTBEAT_SEND (R435): Every 125 µs a paired device sends a heartbeat, and an active one toggles TND_ACT. -/
  | heartbeatSend
  /-- HEARTBEAT_RECEIVED (R435): A received heartbeat is authenticated and updates the peer's state. -/
  | heartbeatReceived (eth auth : Bool) (role : Fin 4) (frame : BitVec 64) (since : Int) (ahead : Option Int)
  /-- FAILURE_DECLARED (R436): A standby without heartbeats for 250 µs declares failure and takes over when allowed. -/
  | failureDeclared
  /-- FENCE_RECEIVED (R436): A device receiving FENCE stops its outputs and becomes STANDBY. -/
  | fenceReceived (auth : Bool)
  /-- SWITCHOVER (R436): A write of switchover makes the active stop at its next frame instant. -/
  | switchover (req : Requester) (value : Word)
  /-- LEDGER_RECORD_RECEIVED (R431): A standby receives a ledger record over the Siphon link. -/
  | ledgerRecordReceived (auth : Bool) (kind : Fin 256) (key : Nat) (body : List Nat)
  /-- STANDBY_FRAME_START (R431): A standby starts a frame once every ledger record before STAGE has arrived. -/
  | standbyFrameStart
  /-- STANDBY_STAGING_DEADLINE (R431): At T_f + P/2 a standby compares its stage digest with the active's. -/
  | standbyStagingDeadline
  /-- RESYNC (R434): A NOT_CURRENT standby sends RESYNC and the active starts catching it up. -/
  | resync (auth : Bool)
  /-- SIPHON_LINK_UP (R497): At Siphon link-up both devices exchange nonces and derive K_siph. -/
  | siphonLinkUp (nonce : List Byte)
  /-- SIPHON_LINK_DOWN (R433): The Siphon link goes down and the standby becomes NOT_CURRENT. -/
  | siphonLinkDown
  /-- HEALTH_RECORD_SEND (R439): Once a second each paired device sends a health record. -/
  | healthRecordSend
  /-- HEALTH_RECORD_RECEIVED (R439): A received health record is shown and checked for failures. -/
  | healthRecordReceived (auth : Bool) (words : List Word)
  /-- HEALTH_RECORD_TIMEOUT (R439): No health record for 3 s sends PEER_HEALTH. -/
  | healthRecordTimeout
  /-- STANDBY_SELF_TEST (R439): A standby tests one unit whose output is kept off, in rotation. -/
  | standbySelfTest (unit : Fin 5) (good : Bool)
  /-- PM_REQUEST (R455): A write of PM_REQUEST asks the Tender for a power state. -/
  | pmRequest (req : Requester) (value : Word)
  /-- PM_REQUEST_ABORT (R456): A write of PM_REQUEST with abort 1 ends a prepare phase and clears the pending slot. -/
  | pmRequestAbort (req : Requester) (value : Word)
  /-- PREPARE_BLOCK_AGREE (R452): A block agrees in prepare and the Tender asks the next or starts the commit phase. -/
  | prepareBlockAgree
  /-- PREPARE_BLOCK_REFUSE (R452): A block refuses and the Tender rolls the agreed blocks back. -/
  | prepareBlockRefuse
  /-- PREPARE_BLOCK_TIMEOUT (R452): A block that does not answer within its limit counts as refusing. -/
  | prepareBlockTimeout
  /-- SLEEP_STATE_REACHED (R454): The commit phase ends with IDLE, WATCH or DORMANT reached and wake sources armed. -/
  | sleepStateReached
  /-- WAKE_N (R450): WAKE_N low for 100 µs fires a wake. -/
  | wakeN
  /-- TENDER_ALARM (R450): Tender time reaches the armed alarm and it fires. -/
  | tenderAlarm
  /-- PTP_ALARM (R450): The PTP base reaches the armed PTP alarm and it fires. -/
  | ptpAlarm
  /-- SMBUS_ADDRESS_MATCH (R451): An SMBus address match is acknowledged and may wake the device. -/
  | smbusAddressMatch
  /-- SMBUS_WRITE_REGISTER (R451): SMBus command 0x10 writes one register. -/
  | smbusWriteRegister (offset : BitVec 24) (value : Word) (pec : Bool)
  /-- SMBUS_SET_READ_ADDRESS (R451): SMBus command 0x11 sets the read address. -/
  | smbusSetReadAddress (offset : BitVec 24) (pec : Bool)
  /-- SMBUS_READ_REGISTER (R451): SMBus command 0x12 reads the register at the read address. -/
  | smbusReadRegister
  /-- DRAM_TRAINING_DONE (R457): DRAM training or PHY retraining ends, retried once on failure. -/
  | dramTrainingDone (good : Bool)
  /-- SHOW_REACHED (R550): A start or exit completes, SHOW is reached and the event is posted. -/
  | showReached
  /-- TENDER_POWER_ON (R550): VAON reaches its level and the Tender starts the P sequence. -/
  | tenderPowerOn (pgs : BitVec 4)
  /-- PMIC_POWER_GOOD (R443): A power-good rises and the next enable follows 1 ms later. -/
  | pmicPowerGood (rail : Fin 4)
  /-- POWER_GOOD_LATE (R443): A power-good not high within 8 ms drops every enable. -/
  | powerGoodLate (rail : Fin 4)
  /-- RAIL_RETRY (R443): 1 s after a rail failure the Tender sequences the rails again. -/
  | railRetry
  /-- PMIC_PG_FALL (R544): A power-good falling while its enable is high makes a C reset. -/
  | pmicPgFall (rail : Fin 4)
  /-- RESET_N (R546): RESET_N low for 1 µs makes a C reset with every enable held low. -/
  | resetN
  /-- RAIL_RESTART (R546): With RESET_N high and SENSE_IN above the warning level for 10 ms, PMIC_EN0 rises again. -/
  | railRestart
  /-- EBB_ENTRY (R460): SENSE_IN below warn_mv puts the device in EBB. -/
  | ebbEntry
  /-- EBB_EXIT (R460): SENSE_IN above warn_mv plus hysteresis for 1 ms ends EBB and releases held wakes. -/
  | ebbExit
  /-- BROWNOUT_RESET (R459): SENSE_IN below reset_mv makes a C reset. -/
  | brownoutReset
  /-- HOLDUP_RETRY (R461): A store refused by the hold-up check is checked again every 10 ms. -/
  | holdupRetry (vhold : BitVec 11)
  /-- SENSOR_SAMPLE (R465): Every 1 ms the sensors are sampled and thresholds and sensor faults are judged. -/
  | sensorSample (temps : List (BitVec 16)) (vhold : BitVec 11)
  /-- THROTTLE_UPDATE (R469): Every 10 ms the throttle level is raised or lowered. -/
  | throttleUpdate
  /-- RISE_CHECK (R468): Every 100 ms each sensor's rise over 1 s is checked against RISE. -/
  | riseCheck
  /-- SELF_HEAT_TIMEOUT (R474): Self-heat not done in 600 s drops the rails and retries after 60 s. -/
  | selfHeatTimeout
  /-- CALIBRATION_RUN (R477): A due port or transmitter is calibrated inside a natural gap. -/
  | calibrationRun (unit : Fin 259) (g : List Nat)
  /-- CAL_ROTATE (R478): Rotation makes the next port or transmitter due. -/
  | calRotate
  /-- CAL_MISS (R478): A due unit finds no gap within 1 s and CAL_MISS is reported. -/
  | calMiss (unit : Fin 258)
  /-- TEND_RC_CALIBRATION (R477): Once a second TEND_RC is trimmed against TEND_32K. -/
  | tendRcCalibration
  /-- HOUR_SAVE (R480): Every 24 hours the hour counters are saved to the health sector. -/
  | hourSave
  /-- SLC_CLAIM (R484): CLAIM burns the owner key hash and moves FACTORY to OWNED. -/
  | slcClaim (req : Requester) (host : HostView) (arg : BitVec 16)
  /-- SLC_RETURN (R484): RETURN erases the show key and moves OWNED to RETURNED. -/
  | slcReturn (req : Requester) (host : HostView) (arg : BitVec 16)
  /-- SLC_VOID (R484): VOID moves the device to VOID. -/
  | slcVoid (req : Requester) (host : HostView) (arg : BitVec 16)
  /-- CHALLENGE (R491): CHALLENGE places a fresh 48-byte challenge in SLC_CHALLENGE. -/
  | challenge (req : Requester) (host : HostView) (arg : BitVec 16)
  /-- CHALLENGE_EXPIRY (R491): A challenge unused for 60 s expires. -/
  | challengeExpiry
  /-- DEBUG_OPEN (R501): DEBUG_OPEN raises the debug level to OWNER or VENDOR, clearing keys and show regions where required. -/
  | debugOpen (req : Requester) (host : HostView) (arg : BitVec 16)
  /-- DEBUG_CLOSE (R503): DEBUG_CLOSE returns the debug level to CLOSED. -/
  | debugClose (req : Requester) (host : HostView) (arg : BitVec 16)
  /-- KEY_INSTALL (R490): KEY_INSTALL wraps K_show into a key blob. -/
  | keyInstall (req : Requester) (host : HostView) (arg : BitVec 16)
  /-- KEY_LOAD (R490): KEY_LOAD unwraps a key blob into the key store. -/
  | keyLoad (req : Requester) (host : HostView) (arg : BitVec 16)
  /-- KEY_ERASE (R507): KEY_ERASE erases the show key. -/
  | keyErase (req : Requester) (host : HostView) (arg : BitVec 16)
  /-- ENCRYPT (R496): ENCRYPT seals a show package chunk by chunk. -/
  | encrypt (req : Requester) (host : HostView) (arg : BitVec 16)
  /-- DECRYPT (R496): DECRYPT opens a show package into a show region chunk by chunk. -/
  | decrypt (req : Requester) (host : HostView) (arg : BitVec 16)
  /-- ATTEST (R494): ATTEST signs the measurement, lifecycle, debug level and a nonce with K_id. -/
  | attest (req : Requester) (host : HostView) (arg : BitVec 16)
  /-- ADVANCE_ROLLBACK (R493): ADVANCE_ROLLBACK raises an anti-rollback counter. -/
  | advanceRollback (req : Requester) (host : HostView) (arg : BitVec 16)
  /-- SLC_OP_COMPLETE (R507): A Sluice operation ends, setting result, raising vector 35 and posting an event. -/
  | slcOpComplete
  /-- SLUICE_VIOLATION (R506): A glitch, key-store failure or stray fuse access makes an S reset. -/
  | sluiceViolation (cause : Fin 3)
  /-- ENTROPY_FAILURE (R499): A failed health test of the entropy source stops the DRBG. -/
  | entropyFailure
  /-- ENTROPY_RETEST (R499): Each second the start-up tests are repeated until they pass. -/
  | entropyRetest (good : Bool)
  /-- SLC_RANDOM_READ (R499): A read of SLC_RANDOM returns a fresh DRBG word. -/
  | slcRandomRead (req : Requester) (offset : BitVec 24) (bytes : Fin 9)
  /-- JTAG_INSTRUCTION (R500): A JTAG instruction acts if the debug level allows it, else as BYPASS. -/
  | jtagInstruction (op : JtagOp)
  /-- FLASH_SECTOR_DONE (R519): A boot flash sector is written and read back, rewritten once on mismatch. -/
  | flashSectorDone (good : Bool)
  /-- UPDATE_ABORT (R520): A write of abort stops an update still VERIFYING. -/
  | updateAbort (req : Requester) (value : Word)
  /-- RESERVOIR_ROW_REPAIR (R523): A row with an uncorrectable error or 16 corrected errors is remapped to a spare. -/
  | reservoirRowRepair (addr : BitVec 34) (uncorrectable : Bool)
  /-- GA_RUN_WRITE (R533): A write of GA_RUN restores a software check's running value. -/
  | gaRunWrite (req : Requester) (unit : Fin 16) (value : Word)
  /-- GA_DATA_WRITE (R533): A write of GA_DATA feeds four bytes to a software check. -/
  | gaDataWrite (req : Requester) (unit : Fin 16) (value : Word)
  /-- GA_DATA8_WRITE (R533): A write of GA_DATA8 feeds one byte to a software check. -/
  | gaData8Write (req : Requester) (unit : Fin 16) (value : Word)
  /-- GA_FINISH_WRITE (R533): A write of GA_FINISH ends the open software check and compares it. -/
  | gaFinishWrite (req : Requester) (unit : Fin 16) (value : Word)
  /-- SLT_ACK_SEEN (R536): A write of SLT_ACK with release 0 marks an entry seen. -/
  | sltAckSeen (req : Requester) (entry : Fin 1024)
  /-- SLT_ACK_RELEASE (R536): A write of SLT_ACK with release 1 frees an entry. -/
  | sltAckRelease (req : Requester) (entry : Fin 1024)
  /-- SILT_ENTRY_QUIET (R536): An entry without a report for 1 s becomes QUIET. -/
  | siltEntryQuiet (entry : Fin 1024)
  /-- SILT_WINDOW_END (R538): An entry's 10 ms window ends and a pending report raises vector 32 again. -/
  | siltWindowEnd (entry : Fin 1024)
  /-- WARM_RESET (R547): A keyed write of RST_CTRL warm makes a W reset. -/
  | warmReset (req : Requester) (value : Word)
  /-- BASIN_LOCAL_RESET (R548): A keyed write of RST_CTRL basin_local schedules a BR on this device. -/
  | basinLocalReset (req : Requester) (value : Word)
  /-- RST_DOMAIN_WRITE (R549): A write of RST_DOMAIN resets the allowed domains. -/
  | rstDomainWrite (req : Requester) (value : Word)
  /-- GLB_IRQ_TEST_WRITE (R565): A write of GLB_IRQ_TEST with go raises the chosen vector once. -/
  | glbIrqTestWrite (req : Requester) (value : Word)
  /-- PAIR_LO_READ (R10): A read of a _LO register latches its _HI for the requester. -/
  | pairLoRead (req : Requester) (offset : BitVec 24) (bytes : Fin 9)
  /-- PAIR_HI_WRITE (R10): A write of a _HI register is held for the requester. -/
  | pairHiWrite (req : Requester) (offset : BitVec 24) (bytes : Fin 9) (value : Word)
  /-- PAIR_LO_WRITE (R10): A write of a _LO register applies the pair with the requester's held _HI. -/
  | pairLoWrite (req : Requester) (offset : BitVec 24) (bytes : Fin 9) (value : Word)
  /-- PM_TENDER_SEC_READ (R463): A read of PM_TENDER_SEC latches PM_TENDER_TICKS. -/
  | pmTenderSecRead (req : Requester) (offset : BitVec 24) (bytes : Fin 9)
  /-- SIP_LEDGER_MAX_READ (R441): A read of SIP_LEDGER_MAX returns and clears it. -/
  | sipLedgerMaxRead (req : Requester) (offset : BitVec 24) (bytes : Fin 9)
  /-- REGISTER_WRITE (R13): A write to a register without a row of its own acts by its access codes or is discarded and counted. -/
  | registerWrite (req : Requester) (offset : BitVec 24) (bytes : Fin 9) (value : Word)
  /-- WIRE_FREE (R349): A MAC's transmission ends and the wire is free, so the next frame in step order (PAUSE, PTP, due timed, PTP general and basin, untimed TX_FRAME) starts. -/
  | wireFree (mac : Fin 4)
  /-- RECEIVED_PAUSE_END (R333): The pause time set by a received PAUSE runs out and frames held back by it leave, late under R350. -/
  | receivedPauseEnd (mac : Fin 4)
  /-- VIDEO_NOT_RECEIVING (R354): A video stream that has sent no packet for 100 ms clears receiving in NET_VID_STATUS. -/
  | videoNotReceiving (stream : Fin 4)
  /-- HEARTBEAT_MISS (R435): A heartbeat not received within 125 µs of the previous one increments SIP_HB_MISS_COUNT. -/
  | heartbeatMiss
  /-- SIPHON_LANE_CHANGE (R424): One Siphon lane fails or returns, so the link runs at 25 or 50 Gbit/s and one_lane changes, halving or restoring the ledger bound. -/
  | siphonLaneChange (failed : Bool)
  /-- DRAVUD_LINK_UP (R412): The lanes of a Dravud port come up, setting link in BSN_PORT_STATUS and letting a device send JOIN or a child join. -/
  | dravudLinkUp (port : Fin 17)
  /-- TALLY_WAKE (R450): An edge of TALLY_00..TALLY_03 lasting 100 µs fires a wake in WATCH or DORMANT. -/
  | tallyWake (tally : Fin 4)
  /-- TEND_32K_RUNNING (R359): The 32.768 kHz crystal starts, up to 600 ms after VAON, and Tender time begins counting from 0. -/
  | tend32kRunning
  /-- SELF_HEAT_RETRY (R474): 60 s after a self-heat time-out the Tender sequences the rails again. -/
  | selfHeatRetry
  /-- CORE_MEMORY_ACCESS (R121): A cue core's ordinary load, store, fetch or AMO to its scratchpads, pool or Reservoir, which may raise a misaligned, access or ECC fault or act atomically at the bank. -/
  | coreMemoryAccess (core : Fin 64) (addr : Word) (access : CoreAccess) (compressed : Bool) (errors : Fin 3)
  /-- CATCHUP_PAGES (R434): A standby receives catch-up pages and engine state over the Siphon link and loads them. -/
  | catchupPages (auth : Bool) (pages : List (BitVec 18 × List Byte)) (engine : List EngineRec)
  /-- PMIC_PG_ALL_LOW (R443): At a P start with a main rail already present, all four power-goods fall low, and the Tender counts a rail failure and sequences the rails. -/
  | pmicPgAllLow
deriving DecidableEq, Repr

end Sys2Proof
end

