-- ==== Sys2Proof/Machine/RegMap.lean ====
section
/-! DEFINITION. The BAR0 register map (R557, R568): for every register of the spec's block tables its offset, its
instances, its power domain, and for every field its bits, access code and reset value with the events that restore it
(R13, R14). Bits that no field names are reserved (R11). -/

namespace Sys2Proof.Machine

/-- A field of a register, or a whole register: the offset of instance 0, the steps from one instance to the next
(two indices for registers that have two), and the bits, highest first. -/
structure RF where
  base : Nat
  s1 : Nat
  s2 : Nat
  hi : Nat
  lo : Nat
deriving DecidableEq, Repr

/-- The access codes of R13. -/
inductive Acc where
  | rw | ro | w1c | wo | rwl
deriving DecidableEq, Repr

/-- The sets of reset codes that the Reset columns use (R14): `full` is P, C, W, S, D, DORMANT; `frame` leaves S out;
`pc` is P, C; `p` is P alone; `never` is a dash. -/
inductive Codes where
  | full | frame | pc | p | never
deriving DecidableEq, Repr

/-- A reset value: one number, the instance's own index, one number per instance, or a fuse. -/
inductive RVal where
  | val (v : Nat)
  | index
  | list (l : List Nat)
  | fuse (f : FuseId)
deriving DecidableEq, Repr

/-- One field row of a register table. -/
structure FieldRow where
  hi : Nat
  lo : Nat
  acc : Acc
  reset : RVal
  codes : Codes
deriving DecidableEq, Repr

/-- Which half of a 64-bit pair a register is (R10). -/
inductive PairHalf where
  | single | low | high
deriving DecidableEq, Repr

/-- One register of the map, with all its instances. -/
structure RegRow where
  reg : RF
  n1 : Nat
  n2 : Nat
  dom : Domain
  half : PairHalf
  fields : List FieldRow
deriving DecidableEq, Repr

/-- The BAR0 offset of instance `i` (and `j`) of a register. -/
def RF.off (r : RF) (i : Nat := 0) (j : Nat := 0) : Nat := r.base + r.s1 * i + r.s2 * j


/-! ### GLB block (R30, R31, R562) -/

def R.GLB_ID : RF := ⟨0x000000, 0x0, 0x0, 31, 0⟩
def R.GLB_ID_device : RF := ⟨0x000000, 0x0, 0x0, 31, 16⟩
def R.GLB_ID_revision : RF := ⟨0x000000, 0x0, 0x0, 7, 0⟩
def R.GLB_GRADE : RF := ⟨0x000004, 0x0, 0x0, 31, 0⟩
def R.GLB_GRADE_grade : RF := ⟨0x000004, 0x0, 0x0, 1, 0⟩
def R.GLB_CAPS : RF := ⟨0x000008, 0x0, 0x0, 31, 0⟩
def R.GLB_CAPS_cores : RF := ⟨0x000008, 0x0, 0x0, 31, 24⟩
def R.GLB_CAPS_laterals : RF := ⟨0x000008, 0x0, 0x0, 23, 20⟩
def R.GLB_CAPS_spare_flume : RF := ⟨0x000008, 0x0, 0x0, 19, 19⟩
def R.GLB_CAPS_macs : RF := ⟨0x000008, 0x0, 0x0, 18, 16⟩
def R.GLB_CAPS_rasters : RF := ⟨0x000008, 0x0, 0x0, 15, 14⟩
def R.GLB_CAPS_canvases : RF := ⟨0x000008, 0x0, 0x0, 13, 11⟩
def R.GLB_CAPS_tandem : RF := ⟨0x000008, 0x0, 0x0, 10, 10⟩
def R.GLB_CAPS_basin : RF := ⟨0x000008, 0x0, 0x0, 9, 9⟩
def R.GLB_CAPS_reservoir_gib : RF := ⟨0x000008, 0x0, 0x0, 7, 0⟩
def R.GLB_SCRATCH : RF := ⟨0x00000C, 0x0, 0x0, 31, 0⟩
def R.GLB_SERIAL_LO : RF := ⟨0x000010, 0x0, 0x0, 31, 0⟩
def R.GLB_SERIAL_HI : RF := ⟨0x000014, 0x0, 0x0, 31, 0⟩
def R.GLB_FRAME_NUMBER_LO : RF := ⟨0x000020, 0x0, 0x0, 31, 0⟩
def R.GLB_FRAME_NUMBER_HI : RF := ⟨0x000024, 0x0, 0x0, 31, 0⟩
def R.GLB_FRAME_STATUS : RF := ⟨0x000028, 0x0, 0x0, 31, 0⟩
def R.GLB_FRAME_STATUS_repeat_last : RF := ⟨0x000028, 0x0, 0x0, 31, 31⟩
def R.GLB_FRAME_STATUS_lock : RF := ⟨0x000028, 0x0, 0x0, 30, 30⟩
def R.GLB_FRAME_STATUS_frame_low : RF := ⟨0x000028, 0x0, 0x0, 23, 0⟩
def R.GLB_FRAME_REPEAT_COUNT : RF := ⟨0x00002C, 0x0, 0x0, 31, 0⟩
def R.GLB_ACCESS_ERR_COUNT : RF := ⟨0x000030, 0x0, 0x0, 31, 0⟩
def R.GLB_ACCESS_ERR_ADDR : RF := ⟨0x000034, 0x0, 0x0, 31, 0⟩
def R.GLB_ACCESS_ERR_ADDR_write : RF := ⟨0x000034, 0x0, 0x0, 31, 31⟩
def R.GLB_ACCESS_ERR_ADDR_requester : RF := ⟨0x000034, 0x0, 0x0, 30, 24⟩
def R.GLB_ACCESS_ERR_ADDR_offset : RF := ⟨0x000034, 0x0, 0x0, 23, 0⟩
def R.GLB_IRQ_STATUS : RF := ⟨0x000040, 0x0, 0x0, 31, 0⟩
def R.GLB_IRQ_STATUS_source : RF := ⟨0x000040, 0x0, 0x0, 13, 0⟩
def R.GLB_IRQ_TEST : RF := ⟨0x000044, 0x0, 0x0, 31, 0⟩
def R.GLB_IRQ_TEST_go : RF := ⟨0x000044, 0x0, 0x0, 31, 31⟩
def R.GLB_IRQ_TEST_vector : RF := ⟨0x000044, 0x0, 0x0, 5, 0⟩

/-- Rows of the GLB block, part 0. -/
def rowsGLB0 : List RegRow := [
  ⟨R.GLB_ID, 1, 1, .sys, .single, [⟨31, 16, .ro, .val 0x8256, .full⟩, ⟨7, 0, .ro, .val 176, .full⟩]⟩,
  ⟨R.GLB_GRADE, 1, 1, .sys, .single, [⟨1, 0, .ro, .fuse .grade, .full⟩]⟩,
  ⟨R.GLB_CAPS, 1, 1, .sys, .single, [⟨31, 24, .ro, .val 64, .full⟩, ⟨23, 20, .ro, .val 8, .full⟩, ⟨19, 19, .ro, .val 1, .full⟩, ⟨18, 16, .ro, .val 4, .full⟩, ⟨15, 14, .ro, .val 2, .full⟩, ⟨13, 11, .ro, .val 4, .full⟩, ⟨10, 10, .ro, .val 1, .full⟩, ⟨9, 9, .ro, .val 1, .full⟩, ⟨7, 0, .ro, .val 16, .full⟩]⟩,
  ⟨R.GLB_SCRATCH, 1, 1, .sys, .single, [⟨31, 0, .rw, .val 0, .full⟩]⟩,
  ⟨R.GLB_SERIAL_LO, 1, 1, .sys, .low, [⟨31, 0, .ro, .fuse .serialLo, .full⟩]⟩,
  ⟨R.GLB_SERIAL_HI, 1, 1, .sys, .high, [⟨31, 0, .ro, .fuse .serialHi, .full⟩]⟩,
  ⟨R.GLB_FRAME_NUMBER_LO, 1, 1, .net, .low, [⟨31, 0, .ro, .val 0, .frame⟩]⟩,
  ⟨R.GLB_FRAME_NUMBER_HI, 1, 1, .net, .high, [⟨31, 0, .ro, .val 0, .frame⟩]⟩,
  ⟨R.GLB_FRAME_STATUS, 1, 1, .net, .single, [⟨31, 31, .ro, .val 0, .frame⟩, ⟨30, 30, .ro, .val 0, .frame⟩, ⟨23, 0, .ro, .val 0, .frame⟩]⟩,
  ⟨R.GLB_FRAME_REPEAT_COUNT, 1, 1, .net, .single, [⟨31, 0, .ro, .val 0, .frame⟩]⟩,
  ⟨R.GLB_ACCESS_ERR_COUNT, 1, 1, .sys, .single, [⟨31, 0, .ro, .val 0, .full⟩]⟩,
  ⟨R.GLB_ACCESS_ERR_ADDR, 1, 1, .sys, .single, [⟨31, 31, .ro, .val 0, .full⟩, ⟨30, 24, .ro, .val 0, .full⟩, ⟨23, 0, .ro, .val 0, .full⟩]⟩]

/-- Rows of the GLB block, part 1. -/
def rowsGLB1 : List RegRow := [
  ⟨R.GLB_IRQ_STATUS, 1, 1, .sys, .single, [⟨13, 0, .w1c, .val 0, .full⟩]⟩,
  ⟨R.GLB_IRQ_TEST, 1, 1, .sys, .single, [⟨31, 31, .wo, .val 0, .full⟩, ⟨5, 0, .wo, .val 0, .full⟩]⟩]

/-! ### HOST block (R77..R83) -/

def R.HOST_CTRL : RF := ⟨0x010000, 0x0, 0x0, 31, 0⟩
def R.HOST_CTRL_expert_enable : RF := ⟨0x010000, 0x0, 0x0, 31, 31⟩
def R.HOST_CTRL_autonomous : RF := ⟨0x010000, 0x0, 0x0, 30, 30⟩
def R.HOST_CTRL_event_ring : RF := ⟨0x010000, 0x0, 0x0, 12, 8⟩
def R.HOST_CTRL_event_enable : RF := ⟨0x010000, 0x0, 0x0, 7, 7⟩
def R.HOST_POLL_INTERVAL : RF := ⟨0x010004, 0x0, 0x0, 31, 0⟩
def R.HOST_POLL_INTERVAL_interval_ns : RF := ⟨0x010004, 0x0, 0x0, 19, 0⟩
def R.HOST_NUDGE : RF := ⟨0x010008, 0x0, 0x0, 31, 0⟩
def R.HOST_DOORBELL_BASE_LO : RF := ⟨0x010010, 0x0, 0x0, 31, 0⟩
def R.HOST_DOORBELL_BASE_HI : RF := ⟨0x010014, 0x0, 0x0, 31, 0⟩
def R.HOST_AUTO_DOORBELL_BASE : RF := ⟨0x010018, 0x0, 0x0, 31, 0⟩
def R.HOST_AUTO_DOORBELL_BASE_page : RF := ⟨0x010018, 0x0, 0x0, 25, 0⟩
def R.HOST_EVENT_DROP_COUNT : RF := ⟨0x010020, 0x0, 0x0, 31, 0⟩
def R.HOST_LOST_COMPLETION_COUNT : RF := ⟨0x010024, 0x0, 0x0, 31, 0⟩
def R.HOST_NUDGE_COUNT : RF := ⟨0x010028, 0x0, 0x0, 31, 0⟩
def R.HOST_SQ_BASE_LO : RF := ⟨0x010100, 0x40, 0x0, 31, 0⟩
def R.HOST_SQ_BASE_HI : RF := ⟨0x010104, 0x40, 0x0, 31, 0⟩
def R.HOST_CQ_BASE_LO : RF := ⟨0x010108, 0x40, 0x0, 31, 0⟩
def R.HOST_CQ_BASE_HI : RF := ⟨0x01010C, 0x40, 0x0, 31, 0⟩
def R.HOST_RING_CFG : RF := ⟨0x010110, 0x40, 0x0, 31, 0⟩
def R.HOST_RING_CFG_enable : RF := ⟨0x010110, 0x40, 0x0, 31, 31⟩
def R.HOST_RING_CFG_place : RF := ⟨0x010110, 0x40, 0x0, 30, 30⟩
def R.HOST_RING_CFG_priority : RF := ⟨0x010110, 0x40, 0x0, 29, 27⟩
def R.HOST_RING_CFG_vector : RF := ⟨0x010110, 0x40, 0x0, 26, 21⟩
def R.HOST_RING_CFG_sq_log2 : RF := ⟨0x010110, 0x40, 0x0, 20, 16⟩
def R.HOST_RING_CFG_cq_log2 : RF := ⟨0x010110, 0x40, 0x0, 15, 11⟩
def R.HOST_RING_CFG_resume : RF := ⟨0x010110, 0x40, 0x0, 10, 10⟩
def R.HOST_CQ_MOD : RF := ⟨0x010114, 0x40, 0x0, 31, 0⟩
def R.HOST_CQ_MOD_time_us : RF := ⟨0x010114, 0x40, 0x0, 31, 16⟩
def R.HOST_CQ_MOD_count : RF := ⟨0x010114, 0x40, 0x0, 15, 0⟩
def R.HOST_RING_STATUS : RF := ⟨0x010118, 0x40, 0x0, 31, 0⟩
def R.HOST_RING_STATUS_state : RF := ⟨0x010118, 0x40, 0x0, 31, 29⟩
def R.HOST_RING_STATUS_error : RF := ⟨0x010118, 0x40, 0x0, 28, 24⟩
def R.HOST_RING_STATUS_sq_head : RF := ⟨0x010118, 0x40, 0x0, 16, 0⟩
def R.HOST_RING_STALL_COUNT : RF := ⟨0x01011C, 0x40, 0x0, 31, 0⟩
def R.HOST_RING_ERROR_COUNT : RF := ⟨0x010120, 0x40, 0x0, 31, 0⟩
def R.HOST_RING_LATE_COUNT : RF := ⟨0x010124, 0x40, 0x0, 31, 0⟩

/-- Rows of the HOST block, part 0. -/
def rowsHOST0 : List RegRow := [
  ⟨R.HOST_CTRL, 1, 1, .sys, .single, [⟨31, 31, .rw, .val 0, .full⟩, ⟨30, 30, .rw, .val 0, .full⟩, ⟨12, 8, .rw, .val 0, .full⟩, ⟨7, 7, .rw, .val 0, .full⟩]⟩,
  ⟨R.HOST_POLL_INTERVAL, 1, 1, .sys, .single, [⟨19, 0, .rw, .val 0x7D0, .full⟩]⟩,
  ⟨R.HOST_NUDGE, 1, 1, .sys, .single, [⟨31, 0, .wo, .val 0, .full⟩]⟩,
  ⟨R.HOST_DOORBELL_BASE_LO, 1, 1, .sys, .low, [⟨31, 0, .rw, .val 0, .full⟩]⟩,
  ⟨R.HOST_DOORBELL_BASE_HI, 1, 1, .sys, .high, [⟨31, 0, .rw, .val 0, .full⟩]⟩,
  ⟨R.HOST_AUTO_DOORBELL_BASE, 1, 1, .sys, .single, [⟨25, 0, .rw, .val 0, .full⟩]⟩,
  ⟨R.HOST_EVENT_DROP_COUNT, 1, 1, .sys, .single, [⟨31, 0, .ro, .val 0, .full⟩]⟩,
  ⟨R.HOST_LOST_COMPLETION_COUNT, 1, 1, .sys, .single, [⟨31, 0, .ro, .val 0, .full⟩]⟩,
  ⟨R.HOST_NUDGE_COUNT, 1, 1, .sys, .single, [⟨31, 0, .ro, .val 0, .full⟩]⟩,
  ⟨R.HOST_SQ_BASE_LO, 32, 1, .sys, .low, [⟨31, 0, .rw, .val 0, .full⟩]⟩,
  ⟨R.HOST_SQ_BASE_HI, 32, 1, .sys, .high, [⟨31, 0, .rw, .val 0, .full⟩]⟩,
  ⟨R.HOST_CQ_BASE_LO, 32, 1, .sys, .low, [⟨31, 0, .rw, .val 0, .full⟩]⟩]

/-- Rows of the HOST block, part 1. -/
def rowsHOST1 : List RegRow := [
  ⟨R.HOST_CQ_BASE_HI, 32, 1, .sys, .high, [⟨31, 0, .rw, .val 0, .full⟩]⟩,
  ⟨R.HOST_RING_CFG, 32, 1, .sys, .single, [⟨31, 31, .rw, .val 0, .full⟩, ⟨30, 30, .rw, .val 0, .full⟩, ⟨29, 27, .rw, .val 4, .full⟩, ⟨26, 21, .rw, .index, .full⟩, ⟨20, 16, .rw, .val 4, .full⟩, ⟨15, 11, .rw, .val 4, .full⟩, ⟨10, 10, .rw, .val 0, .full⟩]⟩,
  ⟨R.HOST_CQ_MOD, 32, 1, .sys, .single, [⟨31, 16, .rw, .val 0, .full⟩, ⟨15, 0, .rw, .val 1, .full⟩]⟩,
  ⟨R.HOST_RING_STATUS, 32, 1, .sys, .single, [⟨31, 29, .ro, .val 0, .full⟩, ⟨28, 24, .ro, .val 0, .full⟩, ⟨16, 0, .ro, .val 0, .full⟩]⟩,
  ⟨R.HOST_RING_STALL_COUNT, 32, 1, .sys, .single, [⟨31, 0, .ro, .val 0, .full⟩]⟩,
  ⟨R.HOST_RING_ERROR_COUNT, 32, 1, .sys, .single, [⟨31, 0, .ro, .val 0, .full⟩]⟩,
  ⟨R.HOST_RING_LATE_COUNT, 32, 1, .sys, .single, [⟨31, 0, .ro, .val 0, .full⟩]⟩]

/-! ### DR block (R123..R127) -/

def R.DR_CTRL : RF := ⟨0x020000, 0x0, 0x0, 31, 0⟩
def R.DR_CTRL_dispatch_enable : RF := ⟨0x020000, 0x0, 0x0, 31, 31⟩
def R.DR_CFG : RF := ⟨0x020004, 0x0, 0x0, 31, 0⟩
def R.DR_CFG_frame_bound_max : RF := ⟨0x020004, 0x0, 0x0, 10, 8⟩
def R.DR_POOL_CFG : RF := ⟨0x020008, 0x0, 0x0, 31, 0⟩
def R.DR_POOL_CFG_host_reserve : RF := ⟨0x020008, 0x0, 0x0, 15, 0⟩
def R.DR_POOL_STATUS : RF := ⟨0x02000C, 0x0, 0x0, 31, 0⟩
def R.DR_POOL_STATUS_free : RF := ⟨0x02000C, 0x0, 0x0, 16, 0⟩
def R.DR_CORE_RUN_A : RF := ⟨0x020010, 0x0, 0x0, 31, 0⟩
def R.DR_CORE_RUN_B : RF := ⟨0x020014, 0x0, 0x0, 31, 0⟩
def R.DR_POST_REFUSED_COUNT : RF := ⟨0x020020, 0x0, 0x0, 31, 0⟩
def R.DR_CANCEL_UNDISPATCHED_COUNT : RF := ⟨0x020024, 0x0, 0x0, 31, 0⟩
def R.DR_EVENT_COALESCE_COUNT : RF := ⟨0x020028, 0x0, 0x0, 31, 0⟩
def R.DR_PERIODIC_SKIP_COUNT : RF := ⟨0x02002C, 0x0, 0x0, 31, 0⟩
def R.DR_CUE_LATE_COUNT : RF := ⟨0x020030, 0x0, 0x0, 31, 0⟩
def R.DR_LATE_WRITE_COUNT : RF := ⟨0x020034, 0x0, 0x0, 31, 0⟩
def R.DR_STEAL_COUNT : RF := ⟨0x020040, 0x20, 0x0, 31, 0⟩
def R.DR_ECC_CORRECTED_COUNT : RF := ⟨0x020044, 0x20, 0x0, 31, 0⟩
def R.DR_ECC_UNCORR_COUNT : RF := ⟨0x020048, 0x20, 0x0, 31, 0⟩
def R.DR_READY_DEPTH : RF := ⟨0x02004C, 0x20, 0x0, 31, 0⟩
def R.DR_READY_DEPTH_depth : RF := ⟨0x02004C, 0x20, 0x0, 16, 0⟩

/-- Rows of the DR block, part 0. -/
def rowsDR0 : List RegRow := [
  ⟨R.DR_CTRL, 1, 1, .sys, .single, [⟨31, 31, .rw, .val 0, .full⟩]⟩,
  ⟨R.DR_CFG, 1, 1, .sys, .single, [⟨10, 8, .rw, .val 3, .full⟩]⟩,
  ⟨R.DR_POOL_CFG, 1, 1, .sys, .single, [⟨15, 0, .rw, .val 0x1000, .full⟩]⟩,
  ⟨R.DR_POOL_STATUS, 1, 1, .sys, .single, [⟨16, 0, .ro, .val 0x10000, .full⟩]⟩,
  ⟨R.DR_CORE_RUN_A, 1, 1, .sys, .single, [⟨31, 0, .rw, .val 0, .full⟩]⟩,
  ⟨R.DR_CORE_RUN_B, 1, 1, .sys, .single, [⟨31, 0, .rw, .val 0, .full⟩]⟩,
  ⟨R.DR_POST_REFUSED_COUNT, 1, 1, .sys, .single, [⟨31, 0, .ro, .val 0, .full⟩]⟩,
  ⟨R.DR_CANCEL_UNDISPATCHED_COUNT, 1, 1, .sys, .single, [⟨31, 0, .ro, .val 0, .full⟩]⟩,
  ⟨R.DR_EVENT_COALESCE_COUNT, 1, 1, .sys, .single, [⟨31, 0, .ro, .val 0, .full⟩]⟩,
  ⟨R.DR_PERIODIC_SKIP_COUNT, 1, 1, .sys, .single, [⟨31, 0, .ro, .val 0, .full⟩]⟩,
  ⟨R.DR_CUE_LATE_COUNT, 1, 1, .sys, .single, [⟨31, 0, .ro, .val 0, .full⟩]⟩,
  ⟨R.DR_LATE_WRITE_COUNT, 1, 1, .sys, .single, [⟨31, 0, .ro, .val 0, .full⟩]⟩]

/-- Rows of the DR block, part 1. -/
def rowsDR1 : List RegRow := [
  ⟨R.DR_STEAL_COUNT, 2, 1, .sys, .single, [⟨31, 0, .ro, .val 0, .full⟩]⟩,
  ⟨R.DR_ECC_CORRECTED_COUNT, 2, 1, .sys, .single, [⟨31, 0, .ro, .val 0, .full⟩]⟩,
  ⟨R.DR_ECC_UNCORR_COUNT, 2, 1, .sys, .single, [⟨31, 0, .ro, .val 0, .full⟩]⟩,
  ⟨R.DR_READY_DEPTH, 2, 1, .sys, .single, [⟨16, 0, .ro, .val 0, .full⟩]⟩]

/-! ### PF block (R157..R162) -/

def R.PF_CTRL : RF := ⟨0x030000, 0x0, 0x0, 31, 0⟩
def R.PF_CTRL_eval_enable : RF := ⟨0x030000, 0x0, 0x0, 31, 31⟩
def R.PF_CTRL_fadeq_enable : RF := ⟨0x030000, 0x0, 0x0, 0, 0⟩
def R.PF_STATUS : RF := ⟨0x030004, 0x0, 0x0, 31, 0⟩
def R.PF_STATUS_overrun_last : RF := ⟨0x030004, 0x0, 0x0, 31, 31⟩
def R.PF_STATUS_slew_active : RF := ⟨0x030004, 0x0, 0x0, 30, 30⟩
def R.PF_STATUS_delay_clamp : RF := ⟨0x030004, 0x0, 0x0, 29, 29⟩
def R.PF_STATUS_history_walk_max : RF := ⟨0x030004, 0x0, 0x0, 15, 0⟩
def R.PF_DELAY_SLEW : RF := ⟨0x030008, 0x0, 0x0, 31, 0⟩
def R.PF_DELAY_SLEW_slew_us : RF := ⟨0x030008, 0x0, 0x0, 20, 0⟩
def R.PF_FADEQ_BASE : RF := ⟨0x03000C, 0x0, 0x0, 31, 0⟩
def R.PF_FADEQ_BASE_base_64k : RF := ⟨0x03000C, 0x0, 0x0, 17, 0⟩
def R.PF_CONTRIB_COUNT : RF := ⟨0x030010, 0x0, 0x0, 31, 0⟩
def R.PF_EVAL_TIME : RF := ⟨0x030014, 0x0, 0x0, 31, 0⟩
def R.PF_HISTORY_USED : RF := ⟨0x030018, 0x0, 0x0, 31, 0⟩
def R.PF_HISTORY_USED_records : RF := ⟨0x030018, 0x0, 0x0, 22, 0⟩
def R.PF_HISTORY_DROP_COUNT : RF := ⟨0x030020, 0x0, 0x0, 31, 0⟩
def R.PF_HISTORY_POOL_FULL_COUNT : RF := ⟨0x030024, 0x0, 0x0, 31, 0⟩
def R.PF_OVERRUN_COUNT : RF := ⟨0x030028, 0x0, 0x0, 31, 0⟩
def R.PF_FADEQ_OVERFLOW_COUNT : RF := ⟨0x03002C, 0x0, 0x0, 31, 0⟩
def R.PF_FADEQ_BAD_COUNT : RF := ⟨0x030030, 0x0, 0x0, 31, 0⟩
def R.PF_CUE_MERGE_COUNT : RF := ⟨0x030034, 0x0, 0x0, 31, 0⟩
def R.PF_AIR_TEMP : RF := ⟨0x030040, 0x4, 0x0, 31, 0⟩
def R.PF_AIR_TEMP_valid : RF := ⟨0x030040, 0x4, 0x0, 31, 31⟩
def R.PF_AIR_TEMP_temp : RF := ⟨0x030040, 0x4, 0x0, 15, 0⟩
def R.PF_FADEQ_TAIL : RF := ⟨0x030100, 0x8, 0x0, 31, 0⟩
def R.PF_FADEQ_TAIL_tail : RF := ⟨0x030100, 0x8, 0x0, 10, 0⟩
def R.PF_FADEQ_HEAD : RF := ⟨0x030104, 0x8, 0x0, 31, 0⟩
def R.PF_FADEQ_HEAD_head : RF := ⟨0x030104, 0x8, 0x0, 10, 0⟩

/-- Rows of the PF block, part 0. -/
def rowsPF0 : List RegRow := [
  ⟨R.PF_CTRL, 1, 1, .sys, .single, [⟨31, 31, .rw, .val 0, .full⟩, ⟨0, 0, .rw, .val 0, .full⟩]⟩,
  ⟨R.PF_STATUS, 1, 1, .sys, .single, [⟨31, 31, .ro, .val 0, .full⟩, ⟨30, 30, .ro, .val 0, .full⟩, ⟨29, 29, .ro, .val 0, .full⟩, ⟨15, 0, .ro, .val 0, .full⟩]⟩,
  ⟨R.PF_DELAY_SLEW, 1, 1, .sys, .single, [⟨20, 0, .rw, .val 0x100, .full⟩]⟩,
  ⟨R.PF_FADEQ_BASE, 1, 1, .sys, .single, [⟨17, 0, .rw, .val 0, .full⟩]⟩,
  ⟨R.PF_CONTRIB_COUNT, 1, 1, .sys, .single, [⟨31, 0, .ro, .val 0, .full⟩]⟩,
  ⟨R.PF_EVAL_TIME, 1, 1, .sys, .single, [⟨31, 0, .ro, .val 0, .full⟩]⟩,
  ⟨R.PF_HISTORY_USED, 1, 1, .sys, .single, [⟨22, 0, .ro, .val 0, .full⟩]⟩,
  ⟨R.PF_HISTORY_DROP_COUNT, 1, 1, .sys, .single, [⟨31, 0, .ro, .val 0, .full⟩]⟩,
  ⟨R.PF_HISTORY_POOL_FULL_COUNT, 1, 1, .sys, .single, [⟨31, 0, .ro, .val 0, .full⟩]⟩,
  ⟨R.PF_OVERRUN_COUNT, 1, 1, .sys, .single, [⟨31, 0, .ro, .val 0, .full⟩]⟩,
  ⟨R.PF_FADEQ_OVERFLOW_COUNT, 1, 1, .sys, .single, [⟨31, 0, .ro, .val 0, .full⟩]⟩,
  ⟨R.PF_FADEQ_BAD_COUNT, 1, 1, .sys, .single, [⟨31, 0, .ro, .val 0, .full⟩]⟩]

/-- Rows of the PF block, part 1. -/
def rowsPF1 : List RegRow := [
  ⟨R.PF_CUE_MERGE_COUNT, 1, 1, .sys, .single, [⟨31, 0, .ro, .val 0, .full⟩]⟩,
  ⟨R.PF_AIR_TEMP, 16, 1, .sys, .single, [⟨31, 31, .rw, .val 0, .full⟩, ⟨15, 0, .rw, .val 0x7D0, .full⟩]⟩,
  ⟨R.PF_FADEQ_TAIL, 64, 1, .sys, .single, [⟨10, 0, .rw, .val 0, .full⟩]⟩,
  ⟨R.PF_FADEQ_HEAD, 64, 1, .sys, .single, [⟨10, 0, .ro, .val 0, .full⟩]⟩]

/-! ### RL block (R177, R178) -/

def R.RL_CTRL : RF := ⟨0x040000, 0x0, 0x0, 31, 0⟩
def R.RL_CTRL_run_enable : RF := ⟨0x040000, 0x0, 0x0, 31, 31⟩
def R.RL_STATUS : RF := ⟨0x040004, 0x0, 0x0, 31, 0⟩
def R.RL_STATUS_running : RF := ⟨0x040004, 0x0, 0x0, 14, 0⟩
def R.RL_PASS_TIME : RF := ⟨0x040008, 0x0, 0x0, 31, 0⟩
def R.RL_RETRIGGER_COUNT : RF := ⟨0x04000C, 0x0, 0x0, 31, 0⟩
def R.RL_RUNNING_MAP : RF := ⟨0x041000, 0x4, 0x0, 31, 0⟩

/-- Rows of the RL block, part 0. -/
def rowsRL0 : List RegRow := [
  ⟨R.RL_CTRL, 1, 1, .sys, .single, [⟨31, 31, .rw, .val 0, .full⟩]⟩,
  ⟨R.RL_STATUS, 1, 1, .sys, .single, [⟨14, 0, .ro, .val 0, .full⟩]⟩,
  ⟨R.RL_PASS_TIME, 1, 1, .sys, .single, [⟨31, 0, .ro, .val 0, .full⟩]⟩,
  ⟨R.RL_RETRIGGER_COUNT, 1, 1, .sys, .single, [⟨31, 0, .ro, .val 0, .full⟩]⟩,
  ⟨R.RL_RUNNING_MAP, 512, 1, .sys, .single, [⟨31, 0, .ro, .val 0, .full⟩]⟩]

/-! ### CMP block (R212, R213) -/

def R.CMP_CTRL : RF := ⟨0x050000, 0x0, 0x0, 31, 0⟩
def R.CMP_CTRL_compose_enable : RF := ⟨0x050000, 0x0, 0x0, 31, 31⟩
def R.CMP_STATUS : RF := ⟨0x050004, 0x0, 0x0, 31, 0⟩
def R.CMP_STATUS_overrun_last : RF := ⟨0x050004, 0x0, 0x0, 31, 31⟩
def R.CMP_STATUS_flatten_pending : RF := ⟨0x050004, 0x0, 0x0, 7, 4⟩
def R.CMP_STATUS_torn_last : RF := ⟨0x050004, 0x0, 0x0, 3, 0⟩
def R.CMP_FLATTEN_BASE : RF := ⟨0x050008, 0x0, 0x0, 31, 0⟩
def R.CMP_FLATTEN_BASE_base_64k : RF := ⟨0x050008, 0x0, 0x0, 17, 0⟩
def R.CMP_FLATTEN_SIZE : RF := ⟨0x05000C, 0x0, 0x0, 31, 0⟩
def R.CMP_FLATTEN_SIZE_size_mib : RF := ⟨0x05000C, 0x0, 0x0, 11, 0⟩
def R.CMP_FLATTEN_USED : RF := ⟨0x050010, 0x0, 0x0, 31, 0⟩
def R.CMP_FLATTEN_USED_used_mib : RF := ⟨0x050010, 0x0, 0x0, 11, 0⟩
def R.CMP_LANE_SUM : RF := ⟨0x050014, 0x0, 0x0, 31, 0⟩
def R.CMP_COMPOSE_TIME : RF := ⟨0x050018, 0x0, 0x0, 31, 0⟩
def R.CMP_OVERRUN_COUNT : RF := ⟨0x050020, 0x0, 0x0, 31, 0⟩
def R.CMP_MAP_UNSENT_COUNT : RF := ⟨0x050024, 0x0, 0x0, 31, 0⟩
def R.CMP_MAP_UNSENT_PORT : RF := ⟨0x050028, 0x0, 0x0, 31, 0⟩
def R.CMP_MAP_UNSENT_PORT_port : RF := ⟨0x050028, 0x0, 0x0, 7, 0⟩
def R.CMP_TORN_COUNT : RF := ⟨0x050100, 0x20, 0x0, 31, 0⟩
def R.CMP_BUFFER_REFUSED_COUNT : RF := ⟨0x050104, 0x20, 0x0, 31, 0⟩
def R.CMP_VIDEO_EARLY_COUNT : RF := ⟨0x050108, 0x20, 0x0, 31, 0⟩
def R.CMP_VIDEO_STALE_COUNT : RF := ⟨0x05010C, 0x20, 0x0, 31, 0⟩
def R.CMP_FLATTEN_RESTART_COUNT : RF := ⟨0x050110, 0x20, 0x0, 31, 0⟩
def R.CMP_FLATTEN_LAG : RF := ⟨0x050114, 0x20, 0x0, 31, 0⟩

/-- Rows of the CMP block, part 0. -/
def rowsCMP0 : List RegRow := [
  ⟨R.CMP_CTRL, 1, 1, .sys, .single, [⟨31, 31, .rw, .val 0, .full⟩]⟩,
  ⟨R.CMP_STATUS, 1, 1, .sys, .single, [⟨31, 31, .ro, .val 0, .full⟩, ⟨7, 4, .ro, .val 0, .full⟩, ⟨3, 0, .ro, .val 0, .full⟩]⟩,
  ⟨R.CMP_FLATTEN_BASE, 1, 1, .sys, .single, [⟨17, 0, .rw, .val 0, .full⟩]⟩,
  ⟨R.CMP_FLATTEN_SIZE, 1, 1, .sys, .single, [⟨11, 0, .rw, .val 0, .full⟩]⟩,
  ⟨R.CMP_FLATTEN_USED, 1, 1, .sys, .single, [⟨11, 0, .ro, .val 0, .full⟩]⟩,
  ⟨R.CMP_LANE_SUM, 1, 1, .sys, .single, [⟨31, 0, .ro, .val 0, .full⟩]⟩,
  ⟨R.CMP_COMPOSE_TIME, 1, 1, .sys, .single, [⟨31, 0, .ro, .val 0, .full⟩]⟩,
  ⟨R.CMP_OVERRUN_COUNT, 1, 1, .sys, .single, [⟨31, 0, .ro, .val 0, .full⟩]⟩,
  ⟨R.CMP_MAP_UNSENT_COUNT, 1, 1, .sys, .single, [⟨31, 0, .ro, .val 0, .full⟩]⟩,
  ⟨R.CMP_MAP_UNSENT_PORT, 1, 1, .sys, .single, [⟨7, 0, .ro, .val 0, .full⟩]⟩,
  ⟨R.CMP_TORN_COUNT, 4, 1, .sys, .single, [⟨31, 0, .ro, .val 0, .full⟩]⟩,
  ⟨R.CMP_BUFFER_REFUSED_COUNT, 4, 1, .sys, .single, [⟨31, 0, .ro, .val 0, .full⟩]⟩]

/-- Rows of the CMP block, part 1. -/
def rowsCMP1 : List RegRow := [
  ⟨R.CMP_VIDEO_EARLY_COUNT, 4, 1, .sys, .single, [⟨31, 0, .ro, .val 0, .full⟩]⟩,
  ⟨R.CMP_VIDEO_STALE_COUNT, 4, 1, .sys, .single, [⟨31, 0, .ro, .val 0, .full⟩]⟩,
  ⟨R.CMP_FLATTEN_RESTART_COUNT, 4, 1, .sys, .single, [⟨31, 0, .ro, .val 0, .full⟩]⟩,
  ⟨R.CMP_FLATTEN_LAG, 4, 1, .sys, .single, [⟨31, 0, .ro, .val 0, .full⟩]⟩]

/-! ### CLR block (R232, R233) -/

def R.CLR_CTRL : RF := ⟨0x060000, 0x0, 0x0, 31, 0⟩
def R.CLR_CTRL_colour_enable : RF := ⟨0x060000, 0x0, 0x0, 31, 31⟩
def R.CLR_CTRL_dither_hold : RF := ⟨0x060000, 0x0, 0x0, 30, 30⟩
def R.CLR_STATUS : RF := ⟨0x060004, 0x0, 0x0, 31, 0⟩
def R.CLR_STATUS_profiles_loaded : RF := ⟨0x060004, 0x0, 0x0, 31, 31⟩
def R.CLR_TABLE_BASE : RF := ⟨0x060008, 0x0, 0x0, 31, 0⟩
def R.CLR_TABLE_BASE_base_64k : RF := ⟨0x060008, 0x0, 0x0, 17, 0⟩
def R.CLR_PROFILE_INVALID_COUNT : RF := ⟨0x060010, 0x0, 0x0, 31, 0⟩
def R.CLR_PROFILE_INVALID_LAST : RF := ⟨0x060014, 0x0, 0x0, 31, 0⟩
def R.CLR_PROFILE_INVALID_LAST_profile : RF := ⟨0x060014, 0x0, 0x0, 9, 0⟩
def R.CLR_CLIP_LOW_LAST : RF := ⟨0x060018, 0x0, 0x0, 31, 0⟩
def R.CLR_CLIP_HIGH_LAST : RF := ⟨0x06001C, 0x0, 0x0, 31, 0⟩
def R.CLR_CORR_EXTENT : RF := ⟨0x060020, 0x4, 0x0, 31, 0⟩
def R.CLR_CORR_EXTENT_entries : RF := ⟨0x060020, 0x4, 0x0, 23, 0⟩
def R.CLR_LUT_LOADED : RF := ⟨0x060100, 0x4, 0x0, 31, 0⟩
def R.CLR_MATRIX_LOADED : RF := ⟨0x060180, 0x4, 0x0, 31, 0⟩

/-- Rows of the CLR block, part 0. -/
def rowsCLR0 : List RegRow := [
  ⟨R.CLR_CTRL, 1, 1, .sys, .single, [⟨31, 31, .rw, .val 0, .full⟩, ⟨30, 30, .rw, .val 0, .full⟩]⟩,
  ⟨R.CLR_STATUS, 1, 1, .sys, .single, [⟨31, 31, .ro, .val 0, .full⟩]⟩,
  ⟨R.CLR_TABLE_BASE, 1, 1, .sys, .single, [⟨17, 0, .rw, .val 0, .full⟩]⟩,
  ⟨R.CLR_PROFILE_INVALID_COUNT, 1, 1, .sys, .single, [⟨31, 0, .ro, .val 0, .full⟩]⟩,
  ⟨R.CLR_PROFILE_INVALID_LAST, 1, 1, .sys, .single, [⟨9, 0, .ro, .val 0, .full⟩]⟩,
  ⟨R.CLR_CLIP_LOW_LAST, 1, 1, .sys, .single, [⟨31, 0, .ro, .val 0, .full⟩]⟩,
  ⟨R.CLR_CLIP_HIGH_LAST, 1, 1, .sys, .single, [⟨31, 0, .ro, .val 0, .full⟩]⟩,
  ⟨R.CLR_CORR_EXTENT, 4, 1, .sys, .single, [⟨23, 0, .ro, .val 0, .full⟩]⟩,
  ⟨R.CLR_LUT_LOADED, 32, 1, .sys, .single, [⟨31, 0, .ro, .val 0, .full⟩]⟩,
  ⟨R.CLR_MATRIX_LOADED, 32, 1, .sys, .single, [⟨31, 0, .ro, .val 0, .full⟩]⟩]

/-! ### WM block (R256, R257) -/

def R.WM_CTRL : RF := ⟨0x070000, 0x0, 0x0, 31, 0⟩
def R.WM_CTRL_wm_enable : RF := ⟨0x070000, 0x0, 0x0, 31, 31⟩
def R.WM_CTRL_supply_enable : RF := ⟨0x070000, 0x0, 0x0, 30, 30⟩
def R.WM_CTRL_legibility_enable : RF := ⟨0x070000, 0x0, 0x0, 29, 29⟩
def R.WM_STATUS : RF := ⟨0x070004, 0x0, 0x0, 31, 0⟩
def R.WM_STATUS_lead_clamped : RF := ⟨0x070004, 0x0, 0x0, 31, 31⟩
def R.WM_STATUS_over_last : RF := ⟨0x070004, 0x0, 0x0, 30, 30⟩
def R.WM_SUPPLY_TIMING : RF := ⟨0x070008, 0x0, 0x0, 31, 0⟩
def R.WM_SUPPLY_TIMING_lead_us : RF := ⟨0x070008, 0x0, 0x0, 28, 16⟩
def R.WM_SUPPLY_TIMING_lag_us : RF := ⟨0x070008, 0x0, 0x0, 9, 0⟩
def R.WM_PROBE_CFG : RF := ⟨0x07000C, 0x0, 0x0, 31, 0⟩
def R.WM_PROBE_CFG_pulse_us : RF := ⟨0x07000C, 0x0, 0x0, 21, 16⟩
def R.WM_PROBE_CFG_interval : RF := ⟨0x07000C, 0x0, 0x0, 12, 0⟩
def R.WM_PMBUS_CFG : RF := ⟨0x070010, 0x4, 0x0, 31, 0⟩
def R.WM_PMBUS_CFG_enable : RF := ⟨0x070010, 0x4, 0x0, 31, 31⟩
def R.WM_PMBUS_CFG_speed : RF := ⟨0x070010, 0x4, 0x0, 1, 0⟩
def R.WM_PROTECTED_OVER_COUNT : RF := ⟨0x070020, 0x0, 0x0, 31, 0⟩
def R.WM_SUPPLY_LATE_COUNT : RF := ⟨0x070024, 0x0, 0x0, 31, 0⟩
def R.WM_PMBUS_NACK_COUNT : RF := ⟨0x070028, 0x0, 0x0, 31, 0⟩
def R.WM_PROBE_MISS_COUNT : RF := ⟨0x07002C, 0x0, 0x0, 31, 0⟩
def R.WM_LEG_FAIL_COUNT : RF := ⟨0x070030, 0x0, 0x0, 31, 0⟩
def R.WM_SCALED_LAST : RF := ⟨0x070034, 0x0, 0x0, 31, 0⟩
def R.WM_SCALED_LAST_feeders : RF := ⟨0x070034, 0x0, 0x0, 10, 0⟩
def R.WM_UNFED_LAST : RF := ⟨0x070038, 0x0, 0x0, 31, 0⟩
def R.WM_LEG_ACK : RF := ⟨0x07003C, 0x0, 0x0, 31, 0⟩
def R.WM_LEG_ACK_group : RF := ⟨0x07003C, 0x0, 0x0, 11, 0⟩
def R.WM_FEEDER_SEL : RF := ⟨0x070040, 0x0, 0x0, 31, 0⟩
def R.WM_FEEDER_SEL_feeder : RF := ⟨0x070040, 0x0, 0x0, 9, 0⟩
def R.WM_FEEDER_LOAD : RF := ⟨0x070044, 0x0, 0x0, 31, 0⟩
def R.WM_FEEDER_SCALE : RF := ⟨0x070048, 0x0, 0x0, 31, 0⟩
def R.WM_FEEDER_SCALE_kn : RF := ⟨0x070048, 0x0, 0x0, 16, 0⟩
def R.WM_FEEDER_SHED : RF := ⟨0x07004C, 0x0, 0x0, 31, 0⟩
def R.WM_FEEDER_SHED_ks : RF := ⟨0x07004C, 0x0, 0x0, 16, 0⟩
def R.WM_ZONE_SEL : RF := ⟨0x070050, 0x0, 0x0, 31, 0⟩
def R.WM_ZONE_SEL_zone : RF := ⟨0x070050, 0x0, 0x0, 7, 0⟩
def R.WM_ZONE_STATUS : RF := ⟨0x070054, 0x0, 0x0, 31, 0⟩
def R.WM_ZONE_STATUS_fault : RF := ⟨0x070054, 0x0, 0x0, 31, 31⟩
def R.WM_ZONE_STATUS_pending : RF := ⟨0x070054, 0x0, 0x0, 30, 30⟩
def R.WM_ZONE_STATUS_held_mv : RF := ⟨0x070054, 0x0, 0x0, 15, 0⟩
def R.WM_LEG_FAILED : RF := ⟨0x070200, 0x4, 0x0, 31, 0⟩
def R.WM_ZONE_FAULT : RF := ⟨0x070400, 0x4, 0x0, 31, 0⟩

/-- Rows of the WM block, part 0. -/
def rowsWM0 : List RegRow := [
  ⟨R.WM_CTRL, 1, 1, .sys, .single, [⟨31, 31, .rw, .val 0, .full⟩, ⟨30, 30, .rw, .val 0, .full⟩, ⟨29, 29, .rw, .val 0, .full⟩]⟩,
  ⟨R.WM_STATUS, 1, 1, .sys, .single, [⟨31, 31, .ro, .val 0, .full⟩, ⟨30, 30, .ro, .val 0, .full⟩]⟩,
  ⟨R.WM_SUPPLY_TIMING, 1, 1, .sys, .single, [⟨28, 16, .rw, .val 0x7D0, .full⟩, ⟨9, 0, .rw, .val 50, .full⟩]⟩,
  ⟨R.WM_PROBE_CFG, 1, 1, .sys, .single, [⟨21, 16, .rw, .val 4, .full⟩, ⟨12, 0, .rw, .val 64, .full⟩]⟩,
  ⟨R.WM_PMBUS_CFG, 2, 1, .sys, .single, [⟨31, 31, .rw, .val 0, .full⟩, ⟨1, 0, .rw, .val 1, .full⟩]⟩,
  ⟨R.WM_PROTECTED_OVER_COUNT, 1, 1, .sys, .single, [⟨31, 0, .ro, .val 0, .full⟩]⟩,
  ⟨R.WM_SUPPLY_LATE_COUNT, 1, 1, .sys, .single, [⟨31, 0, .ro, .val 0, .full⟩]⟩,
  ⟨R.WM_PMBUS_NACK_COUNT, 1, 1, .sys, .single, [⟨31, 0, .ro, .val 0, .full⟩]⟩,
  ⟨R.WM_PROBE_MISS_COUNT, 1, 1, .sys, .single, [⟨31, 0, .ro, .val 0, .full⟩]⟩,
  ⟨R.WM_LEG_FAIL_COUNT, 1, 1, .sys, .single, [⟨31, 0, .ro, .val 0, .full⟩]⟩,
  ⟨R.WM_SCALED_LAST, 1, 1, .sys, .single, [⟨10, 0, .ro, .val 0, .full⟩]⟩,
  ⟨R.WM_UNFED_LAST, 1, 1, .sys, .single, [⟨31, 0, .ro, .val 0, .full⟩]⟩]

/-- Rows of the WM block, part 1. -/
def rowsWM1 : List RegRow := [
  ⟨R.WM_LEG_ACK, 1, 1, .sys, .single, [⟨11, 0, .wo, .val 0, .full⟩]⟩,
  ⟨R.WM_FEEDER_SEL, 1, 1, .sys, .single, [⟨9, 0, .rw, .val 0, .full⟩]⟩,
  ⟨R.WM_FEEDER_LOAD, 1, 1, .sys, .single, [⟨31, 0, .ro, .val 0, .full⟩]⟩,
  ⟨R.WM_FEEDER_SCALE, 1, 1, .sys, .single, [⟨16, 0, .ro, .val 0x10000, .full⟩]⟩,
  ⟨R.WM_FEEDER_SHED, 1, 1, .sys, .single, [⟨16, 0, .ro, .val 0x10000, .full⟩]⟩,
  ⟨R.WM_ZONE_SEL, 1, 1, .sys, .single, [⟨7, 0, .rw, .val 0, .full⟩]⟩,
  ⟨R.WM_ZONE_STATUS, 1, 1, .sys, .single, [⟨31, 31, .ro, .val 0, .full⟩, ⟨30, 30, .ro, .val 0, .full⟩, ⟨15, 0, .ro, .val 0, .full⟩]⟩,
  ⟨R.WM_LEG_FAILED, 128, 1, .sys, .single, [⟨31, 0, .ro, .val 0, .full⟩]⟩,
  ⟨R.WM_ZONE_FAULT, 8, 1, .sys, .single, [⟨31, 0, .ro, .val 0, .full⟩]⟩]

/-! ### FL block (R288, R289) -/

def R.FL_STATUS : RF := ⟨0x080000, 0x8000, 0x0, 31, 0⟩
def R.FL_STATUS_serving : RF := ⟨0x080000, 0x8000, 0x0, 31, 31⟩
def R.FL_STATUS_ucode_loaded : RF := ⟨0x080000, 0x8000, 0x0, 30, 30⟩
def R.FL_STATUS_slices_used : RF := ⟨0x080000, 0x8000, 0x0, 8, 0⟩
def R.FL_UCODE_FAULT_COUNT : RF := ⟨0x080004, 0x8000, 0x0, 31, 0⟩
def R.FL_FAULT_COUNT : RF := ⟨0x080008, 0x8000, 0x0, 31, 0⟩
def R.FL_CTRL : RF := ⟨0x0F0000, 0x0, 0x0, 31, 0⟩
def R.FL_CTRL_output_enable : RF := ⟨0x0F0000, 0x0, 0x0, 31, 31⟩
def R.FL_CTRL_auto_spare : RF := ⟨0x0F0000, 0x0, 0x0, 30, 30⟩
def R.FL_TAKEOVER : RF := ⟨0x0F0004, 0x0, 0x0, 31, 0⟩
def R.FL_TAKEOVER_active : RF := ⟨0x0F0004, 0x0, 0x0, 31, 31⟩
def R.FL_TAKEOVER_lateral : RF := ⟨0x0F0004, 0x0, 0x0, 27, 24⟩
def R.FL_TAKEOVER_moved : RF := ⟨0x0F0004, 0x0, 0x0, 5, 0⟩
def R.FL_TAKEOVER_COUNT : RF := ⟨0x0F0008, 0x0, 0x0, 31, 0⟩

/-- Rows of the FL block, part 0. -/
def rowsFL0 : List RegRow := [
  ⟨R.FL_STATUS, 9, 1, .sys, .single, [⟨31, 31, .ro, .val 0, .full⟩, ⟨30, 30, .ro, .val 0, .full⟩, ⟨8, 0, .ro, .val 0, .full⟩]⟩,
  ⟨R.FL_UCODE_FAULT_COUNT, 9, 1, .sys, .single, [⟨31, 0, .ro, .val 0, .full⟩]⟩,
  ⟨R.FL_FAULT_COUNT, 9, 1, .sys, .single, [⟨31, 0, .ro, .val 0, .full⟩]⟩,
  ⟨R.FL_CTRL, 1, 1, .sys, .single, [⟨31, 31, .rw, .val 0, .full⟩, ⟨30, 30, .rw, .val 0, .full⟩]⟩,
  ⟨R.FL_TAKEOVER, 1, 1, .sys, .single, [⟨31, 31, .ro, .val 0, .full⟩, ⟨27, 24, .ro, .val 15, .full⟩, ⟨5, 0, .ro, .val 0, .full⟩]⟩,
  ⟨R.FL_TAKEOVER_COUNT, 1, 1, .sys, .single, [⟨31, 0, .ro, .val 0, .full⟩]⟩]

/-! ### PT block (R288, R289) -/

def R.PT_LAUNCH_TRIM : RF := ⟨0x100000, 0x100, 0x0, 31, 0⟩
def R.PT_LAUNCH_TRIM_trim_ns : RF := ⟨0x100000, 0x100, 0x0, 19, 0⟩
def R.PT_EDGE_TRIM : RF := ⟨0x100004, 0x100, 0x0, 31, 0⟩
def R.PT_EDGE_TRIM_rise : RF := ⟨0x100004, 0x100, 0x0, 13, 8⟩
def R.PT_EDGE_TRIM_fall : RF := ⟨0x100004, 0x100, 0x0, 5, 0⟩
def R.PT_PATH_ASYM : RF := ⟨0x100008, 0x100, 0x0, 31, 0⟩
def R.PT_PATH_ASYM_asym_ns : RF := ⟨0x100008, 0x100, 0x0, 11, 0⟩
def R.PT_STATUS : RF := ⟨0x10000C, 0x100, 0x0, 31, 0⟩
def R.PT_STATUS_trim_clamped : RF := ⟨0x10000C, 0x100, 0x0, 31, 31⟩
def R.PT_STATUS_starved_last : RF := ⟨0x10000C, 0x100, 0x0, 30, 30⟩
def R.PT_STATUS_held : RF := ⟨0x10000C, 0x100, 0x0, 29, 29⟩
def R.PT_STATUS_on_spare : RF := ⟨0x10000C, 0x100, 0x0, 28, 28⟩
def R.PT_STATUS_mode : RF := ⟨0x10000C, 0x100, 0x0, 27, 25⟩
def R.PT_STATUS_trim_eff_ns : RF := ⟨0x10000C, 0x100, 0x0, 19, 0⟩
def R.PT_STARVED_COUNT : RF := ⟨0x100010, 0x100, 0x0, 31, 0⟩
def R.PT_LINE_SKIP_COUNT : RF := ⟨0x100014, 0x100, 0x0, 31, 0⟩
def R.PT_RDM_SKIP_COUNT : RF := ⟨0x100018, 0x100, 0x0, 31, 0⟩
def R.PT_RDM_TIMEOUT_COUNT : RF := ⟨0x10001C, 0x100, 0x0, 31, 0⟩
def R.PT_UCODE_FAULT_COUNT : RF := ⟨0x100020, 0x100, 0x0, 31, 0⟩

/-- Rows of the PT block, part 0. -/
def rowsPT0 : List RegRow := [
  ⟨R.PT_LAUNCH_TRIM, 256, 1, .sys, .single, [⟨19, 0, .rw, .val 0, .full⟩]⟩,
  ⟨R.PT_EDGE_TRIM, 256, 1, .sys, .single, [⟨13, 8, .rw, .val 0, .full⟩, ⟨5, 0, .rw, .val 0, .full⟩]⟩,
  ⟨R.PT_PATH_ASYM, 256, 1, .sys, .single, [⟨11, 0, .rw, .val 0, .full⟩]⟩,
  ⟨R.PT_STATUS, 256, 1, .sys, .single, [⟨31, 31, .ro, .val 0, .full⟩, ⟨30, 30, .ro, .val 0, .full⟩, ⟨29, 29, .ro, .val 0, .full⟩, ⟨28, 28, .ro, .val 0, .full⟩, ⟨27, 25, .ro, .val 0, .full⟩, ⟨19, 0, .ro, .val 0, .full⟩]⟩,
  ⟨R.PT_STARVED_COUNT, 256, 1, .sys, .single, [⟨31, 0, .ro, .val 0, .full⟩]⟩,
  ⟨R.PT_LINE_SKIP_COUNT, 256, 1, .sys, .single, [⟨31, 0, .ro, .val 0, .full⟩]⟩,
  ⟨R.PT_RDM_SKIP_COUNT, 256, 1, .sys, .single, [⟨31, 0, .ro, .val 0, .full⟩]⟩,
  ⟨R.PT_RDM_TIMEOUT_COUNT, 256, 1, .sys, .single, [⟨31, 0, .ro, .val 0, .full⟩]⟩,
  ⟨R.PT_UCODE_FAULT_COUNT, 256, 1, .sys, .single, [⟨31, 0, .ro, .val 0, .full⟩]⟩]

/-! ### FUR block (R320, R321) -/

def R.FUR_CTRL : RF := ⟨0x110000, 0x0, 0x0, 31, 0⟩
def R.FUR_CTRL_enum_go : RF := ⟨0x110000, 0x0, 0x0, 31, 31⟩
def R.FUR_CTRL_enum_port : RF := ⟨0x110000, 0x0, 0x0, 7, 0⟩
def R.FUR_NODE_BASE : RF := ⟨0x110004, 0x0, 0x0, 31, 0⟩
def R.FUR_NODE_BASE_base_64k : RF := ⟨0x110004, 0x0, 0x0, 17, 0⟩
def R.FUR_NODE_SEL : RF := ⟨0x110008, 0x0, 0x0, 31, 0⟩
def R.FUR_NODE_SEL_port : RF := ⟨0x110008, 0x0, 0x0, 25, 18⟩
def R.FUR_NODE_SEL_node : RF := ⟨0x110008, 0x0, 0x0, 9, 0⟩
def R.FUR_NODE_UID_LO : RF := ⟨0x110010, 0x0, 0x0, 31, 0⟩
def R.FUR_NODE_UID_HI : RF := ⟨0x110014, 0x0, 0x0, 31, 0⟩
def R.FUR_NODE_UID_HI_uid_hi : RF := ⟨0x110014, 0x0, 0x0, 15, 0⟩
def R.FUR_NODE_CAPS : RF := ⟨0x110018, 0x0, 0x0, 31, 0⟩
def R.FUR_NODE_CAPS_heard : RF := ⟨0x110018, 0x0, 0x0, 31, 31⟩
def R.FUR_NODE_CAPS_configured : RF := ⟨0x110018, 0x0, 0x0, 30, 30⟩
def R.FUR_NODE_CAPS_channels : RF := ⟨0x110018, 0x0, 0x0, 14, 8⟩
def R.FUR_NODE_CAPS_caps : RF := ⟨0x110018, 0x0, 0x0, 7, 0⟩
def R.FUR_NODE_TIMING : RF := ⟨0x11001C, 0x0, 0x0, 31, 0⟩
def R.FUR_NODE_TIMING_t_min_ns : RF := ⟨0x11001C, 0x0, 0x0, 31, 16⟩
def R.FUR_NODE_TIMING_fwd : RF := ⟨0x11001C, 0x0, 0x0, 15, 0⟩
def R.FUR_NODE_PWM : RF := ⟨0x110020, 0x0, 0x0, 31, 0⟩
def R.FUR_NODE_DELAY : RF := ⟨0x110024, 0x0, 0x0, 31, 0⟩
def R.FUR_NODE_HOP : RF := ⟨0x110028, 0x0, 0x0, 31, 0⟩
def R.FUR_NODE_HOP_crc_errors : RF := ⟨0x110028, 0x0, 0x0, 31, 16⟩
def R.FUR_NODE_HOP_hop : RF := ⟨0x110028, 0x0, 0x0, 15, 0⟩
def R.FUR_PORT_STATUS : RF := ⟨0x111000, 0x20, 0x0, 31, 0⟩
def R.FUR_PORT_STATUS_enum_busy : RF := ⟨0x111000, 0x20, 0x0, 31, 31⟩
def R.FUR_PORT_STATUS_span_short : RF := ⟨0x111000, 0x20, 0x0, 30, 30⟩
def R.FUR_PORT_STATUS_window_short : RF := ⟨0x111000, 0x20, 0x0, 29, 29⟩
def R.FUR_PORT_STATUS_nodes_heard : RF := ⟨0x111000, 0x20, 0x0, 10, 0⟩
def R.FUR_PORT_SPAN : RF := ⟨0x111004, 0x20, 0x0, 31, 0⟩
def R.FUR_CRC_ERR_COUNT : RF := ⟨0x111008, 0x20, 0x0, 31, 0⟩
def R.FUR_RET_BAD_COUNT : RF := ⟨0x11100C, 0x20, 0x0, 31, 0⟩
def R.FUR_UNHEARD_COUNT : RF := ⟨0x111010, 0x20, 0x0, 31, 0⟩
def R.FUR_NODE_MISS_COUNT : RF := ⟨0x111014, 0x20, 0x0, 31, 0⟩
def R.FUR_LATE_APPLY_COUNT : RF := ⟨0x111018, 0x20, 0x0, 31, 0⟩
def R.FUR_CONFIG_RETRY_COUNT : RF := ⟨0x11101C, 0x20, 0x0, 31, 0⟩

/-- Rows of the FUR block, part 0. -/
def rowsFUR0 : List RegRow := [
  ⟨R.FUR_CTRL, 1, 1, .sys, .single, [⟨31, 31, .wo, .val 0, .full⟩, ⟨7, 0, .rw, .val 0, .full⟩]⟩,
  ⟨R.FUR_NODE_BASE, 1, 1, .sys, .single, [⟨17, 0, .rw, .val 0, .full⟩]⟩,
  ⟨R.FUR_NODE_SEL, 1, 1, .sys, .single, [⟨25, 18, .rw, .val 0, .full⟩, ⟨9, 0, .rw, .val 0, .full⟩]⟩,
  ⟨R.FUR_NODE_UID_LO, 1, 1, .sys, .low, [⟨31, 0, .ro, .val 0, .full⟩]⟩,
  ⟨R.FUR_NODE_UID_HI, 1, 1, .sys, .high, [⟨15, 0, .ro, .val 0, .full⟩]⟩,
  ⟨R.FUR_NODE_CAPS, 1, 1, .sys, .single, [⟨31, 31, .ro, .val 0, .full⟩, ⟨30, 30, .ro, .val 0, .full⟩, ⟨14, 8, .ro, .val 0, .full⟩, ⟨7, 0, .ro, .val 0, .full⟩]⟩,
  ⟨R.FUR_NODE_TIMING, 1, 1, .sys, .single, [⟨31, 16, .ro, .val 0, .full⟩, ⟨15, 0, .ro, .val 0, .full⟩]⟩,
  ⟨R.FUR_NODE_PWM, 1, 1, .sys, .single, [⟨31, 0, .ro, .val 0, .full⟩]⟩,
  ⟨R.FUR_NODE_DELAY, 1, 1, .sys, .single, [⟨31, 0, .ro, .val 0, .full⟩]⟩,
  ⟨R.FUR_NODE_HOP, 1, 1, .sys, .single, [⟨31, 16, .ro, .val 0, .full⟩, ⟨15, 0, .ro, .val 0, .full⟩]⟩,
  ⟨R.FUR_PORT_STATUS, 256, 1, .sys, .single, [⟨31, 31, .ro, .val 0, .full⟩, ⟨30, 30, .ro, .val 0, .full⟩, ⟨29, 29, .ro, .val 0, .full⟩, ⟨10, 0, .ro, .val 0, .full⟩]⟩,
  ⟨R.FUR_PORT_SPAN, 256, 1, .sys, .single, [⟨31, 0, .ro, .val 0, .full⟩]⟩]

/-- Rows of the FUR block, part 1. -/
def rowsFUR1 : List RegRow := [
  ⟨R.FUR_CRC_ERR_COUNT, 256, 1, .sys, .single, [⟨31, 0, .ro, .val 0, .full⟩]⟩,
  ⟨R.FUR_RET_BAD_COUNT, 256, 1, .sys, .single, [⟨31, 0, .ro, .val 0, .full⟩]⟩,
  ⟨R.FUR_UNHEARD_COUNT, 256, 1, .sys, .single, [⟨31, 0, .ro, .val 0, .full⟩]⟩,
  ⟨R.FUR_NODE_MISS_COUNT, 256, 1, .sys, .single, [⟨31, 0, .ro, .val 0, .full⟩]⟩,
  ⟨R.FUR_LATE_APPLY_COUNT, 256, 1, .sys, .single, [⟨31, 0, .ro, .val 0, .full⟩]⟩,
  ⟨R.FUR_CONFIG_RETRY_COUNT, 256, 1, .sys, .single, [⟨31, 0, .ro, .val 0, .full⟩]⟩]

/-! ### NET block (R353, R354) -/

def R.NET_MAC_CFG : RF := ⟨0x120000, 0x4000, 0x0, 31, 0⟩
def R.NET_MAC_CFG_enable : RF := ⟨0x120000, 0x4000, 0x0, 31, 31⟩
def R.NET_MAC_CFG_speed : RF := ⟨0x120000, 0x4000, 0x0, 30, 30⟩
def R.NET_MAC_CFG_fec : RF := ⟨0x120000, 0x4000, 0x0, 29, 29⟩
def R.NET_MAC_CFG_promiscuous : RF := ⟨0x120000, 0x4000, 0x0, 28, 28⟩
def R.NET_MAC_CFG_bcast : RF := ⟨0x120000, 0x4000, 0x0, 27, 27⟩
def R.NET_MAC_CFG_rx_pause : RF := ⟨0x120000, 0x4000, 0x0, 26, 26⟩
def R.NET_MAC_CFG_tx_pause : RF := ⟨0x120000, 0x4000, 0x0, 25, 25⟩
def R.NET_MAC_STATUS : RF := ⟨0x120004, 0x4000, 0x0, 31, 0⟩
def R.NET_MAC_STATUS_link : RF := ⟨0x120004, 0x4000, 0x0, 31, 31⟩
def R.NET_MAC_STATUS_paused : RF := ⟨0x120004, 0x4000, 0x0, 30, 30⟩
def R.NET_MAC_STATUS_pausing : RF := ⟨0x120004, 0x4000, 0x0, 29, 29⟩
def R.NET_MAC_STATUS_wd_tx : RF := ⟨0x120004, 0x4000, 0x0, 28, 28⟩
def R.NET_MAC_STATUS_wd_rx : RF := ⟨0x120004, 0x4000, 0x0, 27, 27⟩
def R.NET_MAC_STATUS_in_service : RF := ⟨0x120004, 0x4000, 0x0, 26, 26⟩
def R.NET_MAC_ADDR_LO : RF := ⟨0x120008, 0x4000, 0x0, 31, 0⟩
def R.NET_MAC_ADDR_HI : RF := ⟨0x12000C, 0x4000, 0x0, 31, 0⟩
def R.NET_MAC_ADDR_HI_addr_hi : RF := ⟨0x12000C, 0x4000, 0x0, 15, 0⟩
def R.NET_IPV4 : RF := ⟨0x120010, 0x4000, 0x0, 31, 0⟩
def R.NET_VLAN : RF := ⟨0x120014, 0x4000, 0x0, 31, 0⟩
def R.NET_VLAN_enable : RF := ⟨0x120014, 0x4000, 0x0, 31, 31⟩
def R.NET_VLAN_pcp : RF := ⟨0x120014, 0x4000, 0x0, 30, 28⟩
def R.NET_VLAN_vid : RF := ⟨0x120014, 0x4000, 0x0, 11, 0⟩
def R.NET_WEIR : RF := ⟨0x120018, 0x4000, 0x0, 31, 0⟩
def R.NET_WEIR_high_weir : RF := ⟨0x120018, 0x4000, 0x0, 28, 16⟩
def R.NET_WEIR_low_weir : RF := ⟨0x120018, 0x4000, 0x0, 12, 0⟩
def R.NET_PAUSE_CFG : RF := ⟨0x12001C, 0x4000, 0x0, 31, 0⟩
def R.NET_PAUSE_CFG_quanta : RF := ⟨0x12001C, 0x4000, 0x0, 31, 16⟩
def R.NET_PAUSE_CFG_wd_ms : RF := ⟨0x12001C, 0x4000, 0x0, 15, 0⟩
def R.NET_RXQ_CFG : RF := ⟨0x120020, 0x4000, 0x4, 31, 0⟩
def R.NET_RXQ_CFG_pause_count : RF := ⟨0x120020, 0x4000, 0x4, 31, 31⟩
def R.NET_RXQ_CFG_log2 : RF := ⟨0x120020, 0x4000, 0x4, 19, 16⟩
def R.NET_RXQ_CFG_thresh : RF := ⟨0x120020, 0x4000, 0x4, 12, 0⟩
def R.NET_RXQ_STATUS : RF := ⟨0x120040, 0x4000, 0x4, 31, 0⟩
def R.NET_RXQ_STATUS_thresh_hit : RF := ⟨0x120040, 0x4000, 0x4, 31, 31⟩
def R.NET_RXQ_STATUS_wr_ptr : RF := ⟨0x120040, 0x4000, 0x4, 28, 16⟩
def R.NET_RXQ_STATUS_rd_ptr : RF := ⟨0x120040, 0x4000, 0x4, 12, 0⟩
def R.NET_RX_DROP_COUNT : RF := ⟨0x120060, 0x4000, 0x4, 31, 0⟩
def R.NET_RX_PARTIAL_COUNT : RF := ⟨0x120080, 0x4000, 0x4, 31, 0⟩
def R.NET_RX_FILTER_DROP_COUNT : RF := ⟨0x1200A0, 0x4000, 0x0, 31, 0⟩
def R.NET_RX_FCS_ERR_COUNT : RF := ⟨0x1200A4, 0x4000, 0x0, 31, 0⟩
def R.NET_RX_OVERSIZE_COUNT : RF := ⟨0x1200A8, 0x4000, 0x0, 31, 0⟩
def R.NET_RX_VLAN_DROP_COUNT : RF := ⟨0x1200AC, 0x4000, 0x0, 31, 0⟩
def R.NET_PAUSE_WD_COUNT : RF := ⟨0x1200B0, 0x4000, 0x0, 31, 0⟩
def R.NET_TX_LATE_COUNT : RF := ⟨0x1200B4, 0x4000, 0x0, 31, 0⟩
def R.NET_TSQ_OVERFLOW_COUNT : RF := ⟨0x1200B8, 0x4000, 0x0, 31, 0⟩
def R.NET_TSQ_ENTRY : RF := ⟨0x1200C0, 0x4000, 0x4, 31, 0⟩
def R.NET_TSQ_POP : RF := ⟨0x1200D0, 0x4000, 0x0, 31, 0⟩
def R.NET_TSQ_STATUS : RF := ⟨0x1200D4, 0x4000, 0x0, 31, 0⟩
def R.NET_TSQ_STATUS_gap_pending : RF := ⟨0x1200D4, 0x4000, 0x0, 31, 31⟩
def R.NET_TSQ_STATUS_entries : RF := ⟨0x1200D4, 0x4000, 0x0, 7, 0⟩
def R.NET_HASH : RF := ⟨0x120100, 0x4000, 0x4, 31, 0⟩
def R.NET_MATCH_LO : RF := ⟨0x120300, 0x4000, 0x8, 31, 0⟩
def R.NET_MATCH_HI : RF := ⟨0x120304, 0x4000, 0x8, 31, 0⟩
def R.NET_MATCH_HI_valid : RF := ⟨0x120304, 0x4000, 0x8, 31, 31⟩
def R.NET_MATCH_HI_route : RF := ⟨0x120304, 0x4000, 0x8, 29, 28⟩
def R.NET_MATCH_HI_addr_hi : RF := ⟨0x120304, 0x4000, 0x8, 15, 0⟩
def R.NET_SACN_STATUS : RF := ⟨0x121000, 0x0, 0x0, 31, 0⟩
def R.NET_SACN_STATUS_tx_active : RF := ⟨0x121000, 0x0, 0x0, 31, 31⟩
def R.NET_SACN_STATUS_rx_active : RF := ⟨0x121000, 0x0, 0x0, 30, 30⟩
def R.NET_SACN_STATUS_sources : RF := ⟨0x121000, 0x0, 0x0, 14, 0⟩
def R.NET_SACN_SEQ_DROP_COUNT : RF := ⟨0x121004, 0x0, 0x0, 31, 0⟩
def R.NET_SACN_SOURCE_FULL_COUNT : RF := ⟨0x121008, 0x0, 0x0, 31, 0⟩
def R.NET_SACN_SOURCE_LOST_COUNT : RF := ⟨0x12100C, 0x0, 0x0, 31, 0⟩
def R.NET_SACN_IGNORED_COUNT : RF := ⟨0x121010, 0x0, 0x0, 31, 0⟩
def R.NET_ENV_LATENCY : RF := ⟨0x121014, 0x0, 0x0, 31, 0⟩
def R.NET_ENV_LATENCY_latency_us : RF := ⟨0x121014, 0x0, 0x0, 20, 0⟩
def R.NET_VID_CFG : RF := ⟨0x121100, 0x20, 0x0, 31, 0⟩
def R.NET_VID_CFG_enable : RF := ⟨0x121100, 0x20, 0x0, 31, 31⟩
def R.NET_VID_CFG_mac : RF := ⟨0x121100, 0x20, 0x0, 30, 29⟩
def R.NET_VID_CFG_udp_port : RF := ⟨0x121100, 0x20, 0x0, 15, 0⟩
def R.NET_VID_CFG_format : RF := ⟨0x121100, 0x20, 0x0, 28, 26⟩
def R.NET_VID_GROUP : RF := ⟨0x121104, 0x20, 0x0, 31, 0⟩
def R.NET_VID_SIZE : RF := ⟨0x121108, 0x20, 0x0, 31, 0⟩
def R.NET_VID_SIZE_width : RF := ⟨0x121108, 0x20, 0x0, 27, 16⟩
def R.NET_VID_SIZE_height : RF := ⟨0x121108, 0x20, 0x0, 11, 0⟩
def R.NET_VID_HIST_BASE : RF := ⟨0x12110C, 0x20, 0x0, 31, 0⟩
def R.NET_VID_HIST_BASE_frames : RF := ⟨0x12110C, 0x20, 0x0, 31, 24⟩
def R.NET_VID_HIST_BASE_base_64k : RF := ⟨0x12110C, 0x20, 0x0, 17, 0⟩
def R.NET_VID_STATUS : RF := ⟨0x121110, 0x20, 0x0, 31, 0⟩
def R.NET_VID_STATUS_receiving : RF := ⟨0x121110, 0x20, 0x0, 31, 31⟩
def R.NET_VID_STATUS_complete : RF := ⟨0x121110, 0x20, 0x0, 7, 0⟩
def R.NET_VID_LOSS_COUNT : RF := ⟨0x121114, 0x20, 0x0, 31, 0⟩
def R.NET_VID_DISCARD_COUNT : RF := ⟨0x121118, 0x20, 0x0, 31, 0⟩
def R.NET_AUD_CFG : RF := ⟨0x121200, 0x10, 0x0, 31, 0⟩
def R.NET_AUD_CFG_enable : RF := ⟨0x121200, 0x10, 0x0, 31, 31⟩
def R.NET_AUD_CFG_mac : RF := ⟨0x121200, 0x10, 0x0, 30, 29⟩
def R.NET_AUD_CFG_udp_port : RF := ⟨0x121200, 0x10, 0x0, 15, 0⟩
def R.NET_AUD_CFG_l24 : RF := ⟨0x121200, 0x10, 0x0, 28, 28⟩
def R.NET_AUD_CFG_channels : RF := ⟨0x121200, 0x10, 0x0, 27, 24⟩
def R.NET_AUD_GROUP : RF := ⟨0x121204, 0x10, 0x0, 31, 0⟩
def R.NET_AUD_STATUS : RF := ⟨0x121208, 0x10, 0x0, 31, 0⟩
def R.NET_AUD_STATUS_down : RF := ⟨0x121208, 0x10, 0x0, 31, 31⟩
def R.NET_AUD_LOSS_COUNT : RF := ⟨0x12120C, 0x10, 0x0, 31, 0⟩
def R.NET_ENV_CFG : RF := ⟨0x121400, 0x10, 0x0, 31, 0⟩
def R.NET_ENV_CFG_enable : RF := ⟨0x121400, 0x10, 0x0, 31, 31⟩
def R.NET_ENV_CFG_stream : RF := ⟨0x121400, 0x10, 0x0, 30, 28⟩
def R.NET_ENV_CFG_channel : RF := ⟨0x121400, 0x10, 0x0, 27, 25⟩
def R.NET_ENV_CFG_position : RF := ⟨0x121400, 0x10, 0x0, 24, 23⟩
def R.NET_ENV_CFG_attack_ms : RF := ⟨0x121400, 0x10, 0x0, 22, 12⟩
def R.NET_ENV_CFG_release_ms : RF := ⟨0x121400, 0x10, 0x0, 10, 0⟩
def R.NET_ENV_TARGET : RF := ⟨0x121404, 0x10, 0x0, 31, 0⟩
def R.NET_ENV_TARGET_priority : RF := ⟨0x121404, 0x10, 0x0, 31, 24⟩
def R.NET_ENV_TARGET_slot : RF := ⟨0x121404, 0x10, 0x0, 22, 0⟩
def R.NET_ENV_VALUE : RF := ⟨0x121408, 0x10, 0x0, 31, 0⟩
def R.NET_ENV_VALUE_env : RF := ⟨0x121408, 0x10, 0x0, 15, 0⟩

/-- Rows of the NET block, part 0. -/
def rowsNET0 : List RegRow := [
  ⟨R.NET_MAC_CFG, 4, 1, .net, .single, [⟨31, 31, .rw, .val 0, .full⟩, ⟨30, 30, .rw, .val 1, .full⟩, ⟨29, 29, .rw, .val 1, .full⟩, ⟨28, 28, .rw, .val 0, .full⟩, ⟨27, 27, .rw, .val 0, .full⟩, ⟨26, 26, .rw, .val 1, .full⟩, ⟨25, 25, .rw, .val 1, .full⟩]⟩,
  ⟨R.NET_MAC_STATUS, 4, 1, .net, .single, [⟨31, 31, .ro, .val 0, .full⟩, ⟨30, 30, .ro, .val 0, .full⟩, ⟨29, 29, .ro, .val 0, .full⟩, ⟨28, 28, .ro, .val 0, .full⟩, ⟨27, 27, .ro, .val 0, .full⟩, ⟨26, 26, .ro, .val 0, .full⟩]⟩,
  ⟨R.NET_MAC_ADDR_LO, 4, 1, .net, .low, [⟨31, 0, .rw, .fuse .macLo, .full⟩]⟩,
  ⟨R.NET_MAC_ADDR_HI, 4, 1, .net, .high, [⟨15, 0, .rw, .fuse .macHi, .full⟩]⟩,
  ⟨R.NET_IPV4, 4, 1, .net, .single, [⟨31, 0, .rw, .val 0, .full⟩]⟩,
  ⟨R.NET_VLAN, 4, 1, .net, .single, [⟨31, 31, .rw, .val 0, .full⟩, ⟨30, 28, .rw, .val 0, .full⟩, ⟨11, 0, .rw, .val 0, .full⟩]⟩,
  ⟨R.NET_WEIR, 4, 1, .net, .single, [⟨28, 16, .rw, .val 0xC00, .full⟩, ⟨12, 0, .rw, .val 0x400, .full⟩]⟩,
  ⟨R.NET_PAUSE_CFG, 4, 1, .net, .single, [⟨31, 16, .rw, .val 0xFFFF, .full⟩, ⟨15, 0, .rw, .val 100, .full⟩]⟩,
  ⟨R.NET_RXQ_CFG, 4, 8, .net, .single, [⟨31, 31, .rw, .list [0, 0, 0, 0, 0, 0, 1, 1], .full⟩, ⟨19, 16, .rw, .list [6, 6, 6, 6, 6, 12, 8, 10], .full⟩, ⟨12, 0, .rw, .val 0, .full⟩]⟩,
  ⟨R.NET_RXQ_STATUS, 4, 8, .net, .single, [⟨31, 31, .w1c, .val 0, .full⟩, ⟨28, 16, .ro, .val 0, .full⟩, ⟨12, 0, .ro, .val 0, .full⟩]⟩,
  ⟨R.NET_RX_DROP_COUNT, 4, 8, .net, .single, [⟨31, 0, .ro, .val 0, .full⟩]⟩,
  ⟨R.NET_RX_PARTIAL_COUNT, 4, 8, .net, .single, [⟨31, 0, .ro, .val 0, .full⟩]⟩]

/-- Rows of the NET block, part 1. -/
def rowsNET1 : List RegRow := [
  ⟨R.NET_RX_FILTER_DROP_COUNT, 4, 1, .net, .single, [⟨31, 0, .ro, .val 0, .full⟩]⟩,
  ⟨R.NET_RX_FCS_ERR_COUNT, 4, 1, .net, .single, [⟨31, 0, .ro, .val 0, .full⟩]⟩,
  ⟨R.NET_RX_OVERSIZE_COUNT, 4, 1, .net, .single, [⟨31, 0, .ro, .val 0, .full⟩]⟩,
  ⟨R.NET_RX_VLAN_DROP_COUNT, 4, 1, .net, .single, [⟨31, 0, .ro, .val 0, .full⟩]⟩,
  ⟨R.NET_PAUSE_WD_COUNT, 4, 1, .net, .single, [⟨31, 0, .ro, .val 0, .full⟩]⟩,
  ⟨R.NET_TX_LATE_COUNT, 4, 1, .net, .single, [⟨31, 0, .ro, .val 0, .full⟩]⟩,
  ⟨R.NET_TSQ_OVERFLOW_COUNT, 4, 1, .net, .single, [⟨31, 0, .ro, .val 0, .full⟩]⟩,
  ⟨R.NET_TSQ_ENTRY, 4, 4, .net, .single, [⟨31, 0, .ro, .val 0, .full⟩]⟩,
  ⟨R.NET_TSQ_POP, 4, 1, .net, .single, [⟨31, 0, .wo, .val 0, .full⟩]⟩,
  ⟨R.NET_TSQ_STATUS, 4, 1, .net, .single, [⟨31, 31, .ro, .val 0, .full⟩, ⟨7, 0, .ro, .val 0, .full⟩]⟩,
  ⟨R.NET_HASH, 4, 128, .net, .single, [⟨31, 0, .rw, .val 0, .full⟩]⟩,
  ⟨R.NET_MATCH_LO, 4, 64, .net, .low, [⟨31, 0, .rw, .val 0, .full⟩]⟩]

/-- Rows of the NET block, part 2. -/
def rowsNET2 : List RegRow := [
  ⟨R.NET_MATCH_HI, 4, 64, .net, .high, [⟨31, 31, .rw, .val 0, .full⟩, ⟨29, 28, .rw, .val 0, .full⟩, ⟨15, 0, .rw, .val 0, .full⟩]⟩,
  ⟨R.NET_SACN_STATUS, 1, 1, .net, .single, [⟨31, 31, .ro, .val 0, .full⟩, ⟨30, 30, .ro, .val 0, .full⟩, ⟨14, 0, .ro, .val 0, .full⟩]⟩,
  ⟨R.NET_SACN_SEQ_DROP_COUNT, 1, 1, .net, .single, [⟨31, 0, .ro, .val 0, .full⟩]⟩,
  ⟨R.NET_SACN_SOURCE_FULL_COUNT, 1, 1, .net, .single, [⟨31, 0, .ro, .val 0, .full⟩]⟩,
  ⟨R.NET_SACN_SOURCE_LOST_COUNT, 1, 1, .net, .single, [⟨31, 0, .ro, .val 0, .full⟩]⟩,
  ⟨R.NET_SACN_IGNORED_COUNT, 1, 1, .net, .single, [⟨31, 0, .ro, .val 0, .full⟩]⟩,
  ⟨R.NET_ENV_LATENCY, 1, 1, .net, .single, [⟨20, 0, .rw, .val 0, .full⟩]⟩,
  ⟨R.NET_VID_CFG, 4, 1, .net, .single, [⟨31, 31, .rw, .val 0, .full⟩, ⟨30, 29, .rw, .val 0, .full⟩, ⟨15, 0, .rw, .val 0, .full⟩, ⟨28, 26, .rw, .val 0, .full⟩]⟩,
  ⟨R.NET_VID_GROUP, 4, 1, .net, .single, [⟨31, 0, .rw, .val 0, .full⟩]⟩,
  ⟨R.NET_VID_SIZE, 4, 1, .net, .single, [⟨27, 16, .rw, .val 0, .full⟩, ⟨11, 0, .rw, .val 0, .full⟩]⟩,
  ⟨R.NET_VID_HIST_BASE, 4, 1, .net, .single, [⟨31, 24, .rw, .val 0, .full⟩, ⟨17, 0, .rw, .val 0, .full⟩]⟩,
  ⟨R.NET_VID_STATUS, 4, 1, .net, .single, [⟨31, 31, .ro, .val 0, .full⟩, ⟨7, 0, .ro, .val 0, .full⟩]⟩]

/-- Rows of the NET block, part 3. -/
def rowsNET3 : List RegRow := [
  ⟨R.NET_VID_LOSS_COUNT, 4, 1, .net, .single, [⟨31, 0, .ro, .val 0, .full⟩]⟩,
  ⟨R.NET_VID_DISCARD_COUNT, 4, 1, .net, .single, [⟨31, 0, .ro, .val 0, .full⟩]⟩,
  ⟨R.NET_AUD_CFG, 8, 1, .net, .single, [⟨31, 31, .rw, .val 0, .full⟩, ⟨30, 29, .rw, .val 0, .full⟩, ⟨15, 0, .rw, .val 0, .full⟩, ⟨28, 28, .rw, .val 0, .full⟩, ⟨27, 24, .rw, .val 0, .full⟩]⟩,
  ⟨R.NET_AUD_GROUP, 8, 1, .net, .single, [⟨31, 0, .rw, .val 0, .full⟩]⟩,
  ⟨R.NET_AUD_STATUS, 8, 1, .net, .single, [⟨31, 31, .ro, .val 1, .full⟩]⟩,
  ⟨R.NET_AUD_LOSS_COUNT, 8, 1, .net, .single, [⟨31, 0, .ro, .val 0, .full⟩]⟩,
  ⟨R.NET_ENV_CFG, 64, 1, .net, .single, [⟨31, 31, .rw, .val 0, .full⟩, ⟨30, 28, .rw, .val 0, .full⟩, ⟨27, 25, .rw, .val 0, .full⟩, ⟨24, 23, .rw, .val 0, .full⟩, ⟨22, 12, .rw, .val 0, .full⟩, ⟨10, 0, .rw, .val 0, .full⟩]⟩,
  ⟨R.NET_ENV_TARGET, 64, 1, .net, .single, [⟨31, 24, .rw, .val 0, .full⟩, ⟨22, 0, .rw, .val 0, .full⟩]⟩,
  ⟨R.NET_ENV_VALUE, 64, 1, .net, .single, [⟨15, 0, .ro, .val 0, .full⟩]⟩]

/-! ### TIM block (R385, R386) -/

def R.TIM_CTRL : RF := ⟨0x130000, 0x0, 0x0, 31, 0⟩
def R.TIM_CTRL_gate_enable : RF := ⟨0x130000, 0x0, 0x0, 31, 31⟩
def R.TIM_CTRL_tally_enable : RF := ⟨0x130000, 0x0, 0x0, 30, 30⟩
def R.TIM_STATUS : RF := ⟨0x130004, 0x0, 0x0, 31, 0⟩
def R.TIM_STATUS_placing : RF := ⟨0x130004, 0x0, 0x0, 31, 31⟩
def R.TIM_STATUS_on_local : RF := ⟨0x130004, 0x0, 0x0, 30, 30⟩
def R.TIM_STATUS_source_active : RF := ⟨0x130004, 0x0, 0x0, 29, 28⟩
def R.TIM_CAPTURE : RF := ⟨0x130008, 0x0, 0x0, 31, 0⟩
def R.TIM_CAP_SEC_LO : RF := ⟨0x130020, 0x10, 0x0, 31, 0⟩
def R.TIM_CAP_SEC_HI : RF := ⟨0x130024, 0x10, 0x0, 31, 0⟩
def R.TIM_CAP_NS : RF := ⟨0x130028, 0x10, 0x0, 31, 0⟩
def R.TIM_CAP_NS_ns : RF := ⟨0x130028, 0x10, 0x0, 29, 0⟩
def R.TIM_CAP_FRAC : RF := ⟨0x13002C, 0x10, 0x0, 31, 0⟩
def R.TIM_CAP_FRAC_state : RF := ⟨0x13002C, 0x10, 0x0, 18, 16⟩
def R.TIM_CAP_FRAC_frac : RF := ⟨0x13002C, 0x10, 0x0, 15, 0⟩
def R.TIM_BASE_STATUS : RF := ⟨0x130060, 0x4, 0x0, 31, 0⟩
def R.TIM_BASE_STATUS_state : RF := ⟨0x130060, 0x4, 0x0, 31, 30⟩
def R.TIM_BASE_STATUS_holdover_s : RF := ⟨0x130060, 0x4, 0x0, 23, 0⟩
def R.TIM_OFFSET : RF := ⟨0x130070, 0x4, 0x0, 31, 0⟩
def R.TIM_RATE : RF := ⟨0x130080, 0x4, 0x0, 31, 0⟩
def R.TIM_STEP_COUNT : RF := ⟨0x130090, 0x0, 0x0, 31, 0⟩
def R.TIM_PLACE_COUNT : RF := ⟨0x130094, 0x0, 0x0, 31, 0⟩
def R.TIM_LTC_ERR_COUNT : RF := ⟨0x130098, 0x0, 0x0, 31, 0⟩
def R.TIM_TALLY_DROP_COUNT : RF := ⟨0x13009C, 0x0, 0x0, 31, 0⟩
def R.TIM_GATE_MISS_COUNT : RF := ⟨0x1300A0, 0x0, 0x0, 31, 0⟩
def R.TIM_GATE_LATE_COUNT : RF := ⟨0x1300A4, 0x0, 0x0, 31, 0⟩
def R.TIM_PTP_IGNORED_COUNT : RF := ⟨0x1300A8, 0x0, 0x0, 31, 0⟩
def R.TIM_NET_TRIM : RF := ⟨0x1300B0, 0x4, 0x0, 31, 0⟩
def R.TIM_NET_TRIM_trim_ns : RF := ⟨0x1300B0, 0x4, 0x0, 19, 0⟩
def R.TIM_PTP_ASYM : RF := ⟨0x1300C0, 0x4, 0x0, 31, 0⟩
def R.TIM_PTP_ASYM_asym_ns : RF := ⟨0x1300C0, 0x4, 0x0, 15, 0⟩
def R.TIM_TALLY_ENTRY : RF := ⟨0x1300D0, 0x4, 0x0, 31, 0⟩
def R.TIM_TALLY_POP : RF := ⟨0x1300E0, 0x0, 0x0, 31, 0⟩
def R.TIM_TALLY_STATUS : RF := ⟨0x1300E4, 0x0, 0x0, 31, 0⟩
def R.TIM_TALLY_STATUS_gap_pending : RF := ⟨0x1300E4, 0x0, 0x0, 31, 31⟩
def R.TIM_TALLY_STATUS_entries : RF := ⟨0x1300E4, 0x0, 0x0, 10, 0⟩
def R.TIM_TALLY_CFG : RF := ⟨0x130100, 0x4, 0x0, 31, 0⟩
def R.TIM_TALLY_CFG_edges : RF := ⟨0x130100, 0x4, 0x0, 31, 30⟩
def R.TIM_TALLY_CFG_base : RF := ⟨0x130100, 0x4, 0x0, 29, 28⟩
def R.TIM_TALLY_CFG_ledger : RF := ⟨0x130100, 0x4, 0x0, 27, 27⟩
def R.TIM_TALLY_CFG_delay_ns : RF := ⟨0x130100, 0x4, 0x0, 25, 16⟩
def R.TIM_TALLY_CFG_filter_ns : RF := ⟨0x130100, 0x4, 0x0, 15, 0⟩
def R.TIM_GATE_CFG : RF := ⟨0x130200, 0x20, 0x0, 31, 0⟩
def R.TIM_GATE_CFG_arm : RF := ⟨0x130200, 0x20, 0x0, 31, 31⟩
def R.TIM_GATE_CFG_mode : RF := ⟨0x130200, 0x20, 0x0, 30, 29⟩
def R.TIM_GATE_CFG_base : RF := ⟨0x130200, 0x20, 0x0, 28, 27⟩
def R.TIM_GATE_CFG_low_active : RF := ⟨0x130200, 0x20, 0x0, 26, 26⟩
def R.TIM_GATE_CFG_delay_ns : RF := ⟨0x130200, 0x20, 0x0, 25, 16⟩
def R.TIM_GATE_CFG_count : RF := ⟨0x130200, 0x20, 0x0, 15, 0⟩
def R.TIM_GATE_START_SEC_LO : RF := ⟨0x130204, 0x20, 0x0, 31, 0⟩
def R.TIM_GATE_START_SEC_HI : RF := ⟨0x130208, 0x20, 0x0, 31, 0⟩
def R.TIM_GATE_START_NS : RF := ⟨0x13020C, 0x20, 0x0, 31, 0⟩
def R.TIM_GATE_PERIOD_NS : RF := ⟨0x130210, 0x20, 0x0, 31, 0⟩
def R.TIM_GATE_WIDTH_NS : RF := ⟨0x130214, 0x20, 0x0, 31, 0⟩
def R.TIM_GATE_STATUS : RF := ⟨0x130218, 0x20, 0x0, 31, 0⟩
def R.TIM_GATE_STATUS_armed : RF := ⟨0x130218, 0x20, 0x0, 31, 31⟩
def R.TIM_GATE_STATUS_late_last : RF := ⟨0x130218, 0x20, 0x0, 30, 30⟩
def R.TIM_GATE_STATUS_remaining : RF := ⟨0x130218, 0x20, 0x0, 15, 0⟩

/-- Rows of the TIM block, part 0. -/
def rowsTIM0 : List RegRow := [
  ⟨R.TIM_CTRL, 1, 1, .net, .single, [⟨31, 31, .rw, .val 0, .full⟩, ⟨30, 30, .rw, .val 0, .full⟩]⟩,
  ⟨R.TIM_STATUS, 1, 1, .net, .single, [⟨31, 31, .ro, .val 0, .full⟩, ⟨30, 30, .ro, .val 1, .full⟩, ⟨29, 28, .ro, .val 2, .full⟩]⟩,
  ⟨R.TIM_CAPTURE, 1, 1, .net, .single, [⟨31, 0, .wo, .val 0, .full⟩]⟩,
  ⟨R.TIM_CAP_SEC_LO, 4, 1, .net, .low, [⟨31, 0, .ro, .val 0, .full⟩]⟩,
  ⟨R.TIM_CAP_SEC_HI, 4, 1, .net, .high, [⟨31, 0, .ro, .val 0, .full⟩]⟩,
  ⟨R.TIM_CAP_NS, 4, 1, .net, .single, [⟨29, 0, .ro, .val 0, .full⟩]⟩,
  ⟨R.TIM_CAP_FRAC, 4, 1, .net, .single, [⟨18, 16, .ro, .val 0, .full⟩, ⟨15, 0, .ro, .val 0, .full⟩]⟩,
  ⟨R.TIM_BASE_STATUS, 4, 1, .net, .single, [⟨31, 30, .ro, .val 0, .full⟩, ⟨23, 0, .ro, .val 0, .full⟩]⟩,
  ⟨R.TIM_OFFSET, 4, 1, .net, .single, [⟨31, 0, .ro, .val 0, .full⟩]⟩,
  ⟨R.TIM_RATE, 4, 1, .net, .single, [⟨31, 0, .ro, .val 0, .full⟩]⟩,
  ⟨R.TIM_STEP_COUNT, 1, 1, .net, .single, [⟨31, 0, .ro, .val 0, .full⟩]⟩,
  ⟨R.TIM_PLACE_COUNT, 1, 1, .net, .single, [⟨31, 0, .ro, .val 0, .full⟩]⟩]

/-- Rows of the TIM block, part 1. -/
def rowsTIM1 : List RegRow := [
  ⟨R.TIM_LTC_ERR_COUNT, 1, 1, .net, .single, [⟨31, 0, .ro, .val 0, .full⟩]⟩,
  ⟨R.TIM_TALLY_DROP_COUNT, 1, 1, .net, .single, [⟨31, 0, .ro, .val 0, .full⟩]⟩,
  ⟨R.TIM_GATE_MISS_COUNT, 1, 1, .net, .single, [⟨31, 0, .ro, .val 0, .full⟩]⟩,
  ⟨R.TIM_GATE_LATE_COUNT, 1, 1, .net, .single, [⟨31, 0, .ro, .val 0, .full⟩]⟩,
  ⟨R.TIM_PTP_IGNORED_COUNT, 1, 1, .net, .single, [⟨31, 0, .ro, .val 0, .full⟩]⟩,
  ⟨R.TIM_NET_TRIM, 4, 1, .net, .single, [⟨19, 0, .rw, .val 0, .full⟩]⟩,
  ⟨R.TIM_PTP_ASYM, 4, 1, .net, .single, [⟨15, 0, .rw, .val 0, .full⟩]⟩,
  ⟨R.TIM_TALLY_ENTRY, 4, 1, .net, .single, [⟨31, 0, .ro, .val 0, .full⟩]⟩,
  ⟨R.TIM_TALLY_POP, 1, 1, .net, .single, [⟨31, 0, .wo, .val 0, .full⟩]⟩,
  ⟨R.TIM_TALLY_STATUS, 1, 1, .net, .single, [⟨31, 31, .ro, .val 0, .full⟩, ⟨10, 0, .ro, .val 0, .full⟩]⟩,
  ⟨R.TIM_TALLY_CFG, 32, 1, .net, .single, [⟨31, 30, .rw, .val 0, .full⟩, ⟨29, 28, .rw, .val 0, .full⟩, ⟨27, 27, .rw, .val 0, .full⟩, ⟨25, 16, .rw, .val 0, .full⟩, ⟨15, 0, .rw, .val 0, .full⟩]⟩,
  ⟨R.TIM_GATE_CFG, 8, 1, .net, .single, [⟨31, 31, .rw, .val 0, .full⟩, ⟨30, 29, .rw, .val 0, .full⟩, ⟨28, 27, .rw, .val 0, .full⟩, ⟨26, 26, .rw, .val 0, .full⟩, ⟨25, 16, .rw, .val 0, .full⟩, ⟨15, 0, .rw, .val 0, .full⟩]⟩]

/-- Rows of the TIM block, part 2. -/
def rowsTIM2 : List RegRow := [
  ⟨R.TIM_GATE_START_SEC_LO, 8, 1, .net, .low, [⟨31, 0, .rw, .val 0, .full⟩]⟩,
  ⟨R.TIM_GATE_START_SEC_HI, 8, 1, .net, .high, [⟨31, 0, .rw, .val 0, .full⟩]⟩,
  ⟨R.TIM_GATE_START_NS, 8, 1, .net, .single, [⟨31, 0, .rw, .val 0, .full⟩]⟩,
  ⟨R.TIM_GATE_PERIOD_NS, 8, 1, .net, .single, [⟨31, 0, .rw, .val 0, .full⟩]⟩,
  ⟨R.TIM_GATE_WIDTH_NS, 8, 1, .net, .single, [⟨31, 0, .rw, .val 0, .full⟩]⟩,
  ⟨R.TIM_GATE_STATUS, 8, 1, .net, .single, [⟨31, 31, .ro, .val 0, .full⟩, ⟨30, 30, .ro, .val 0, .full⟩, ⟨15, 0, .ro, .val 0, .full⟩]⟩]

/-! ### RAS block (R404, R405) -/

def R.RAS_CTRL : RF := ⟨0x140000, 0x0, 0x0, 31, 0⟩
def R.RAS_CTRL_raster_enable : RF := ⟨0x140000, 0x0, 0x0, 31, 31⟩
def R.RAS_STATUS : RF := ⟨0x140004, 0x0, 0x0, 31, 0⟩
def R.RAS_STATUS_vid_locked : RF := ⟨0x140004, 0x0, 0x0, 31, 31⟩
def R.RAS_BAR2_DROP_COUNT : RF := ⟨0x140008, 0x0, 0x0, 31, 0⟩
def R.RAS_LAUNCH_TRIM : RF := ⟨0x140100, 0x40, 0x0, 31, 0⟩
def R.RAS_LAUNCH_TRIM_trim_ns : RF := ⟨0x140100, 0x40, 0x0, 19, 0⟩
def R.RAS_OUT_STATUS : RF := ⟨0x140104, 0x40, 0x0, 31, 0⟩
def R.RAS_OUT_STATUS_hpd : RF := ⟨0x140104, 0x40, 0x0, 31, 31⟩
def R.RAS_OUT_STATUS_trained : RF := ⟨0x140104, 0x40, 0x0, 30, 30⟩
def R.RAS_OUT_STATUS_blanking : RF := ⟨0x140104, 0x40, 0x0, 29, 29⟩
def R.RAS_OUT_STATUS_in_service : RF := ⟨0x140104, 0x40, 0x0, 28, 28⟩
def R.RAS_OUT_STATUS_lanes : RF := ⟨0x140104, 0x40, 0x0, 27, 25⟩
def R.RAS_OUT_STATUS_rate : RF := ⟨0x140104, 0x40, 0x0, 24, 23⟩
def R.RAS_BLANK_COUNT : RF := ⟨0x140108, 0x40, 0x0, 31, 0⟩
def R.RAS_FILL_LATE_COUNT : RF := ⟨0x14010C, 0x40, 0x0, 31, 0⟩
def R.RAS_RETRAIN_COUNT : RF := ⟨0x140110, 0x40, 0x0, 31, 0⟩
def R.RAS_HPD_COUNT : RF := ⟨0x140114, 0x40, 0x0, 31, 0⟩
def R.RAS_EDID : RF := ⟨0x141000, 0x200, 0x4, 31, 0⟩

/-- Rows of the RAS block, part 0. -/
def rowsRAS0 : List RegRow := [
  ⟨R.RAS_CTRL, 1, 1, .sys, .single, [⟨31, 31, .rw, .val 0, .full⟩]⟩,
  ⟨R.RAS_STATUS, 1, 1, .sys, .single, [⟨31, 31, .ro, .val 0, .full⟩]⟩,
  ⟨R.RAS_BAR2_DROP_COUNT, 1, 1, .sys, .single, [⟨31, 0, .ro, .val 0, .full⟩]⟩,
  ⟨R.RAS_LAUNCH_TRIM, 2, 1, .sys, .single, [⟨19, 0, .rw, .val 0, .full⟩]⟩,
  ⟨R.RAS_OUT_STATUS, 2, 1, .sys, .single, [⟨31, 31, .ro, .val 0, .full⟩, ⟨30, 30, .ro, .val 0, .full⟩, ⟨29, 29, .ro, .val 0, .full⟩, ⟨28, 28, .ro, .val 0, .full⟩, ⟨27, 25, .ro, .val 0, .full⟩, ⟨24, 23, .ro, .val 0, .full⟩]⟩,
  ⟨R.RAS_BLANK_COUNT, 2, 1, .sys, .single, [⟨31, 0, .ro, .val 0, .full⟩]⟩,
  ⟨R.RAS_FILL_LATE_COUNT, 2, 1, .sys, .single, [⟨31, 0, .ro, .val 0, .full⟩]⟩,
  ⟨R.RAS_RETRAIN_COUNT, 2, 1, .sys, .single, [⟨31, 0, .ro, .val 0, .full⟩]⟩,
  ⟨R.RAS_HPD_COUNT, 2, 1, .sys, .single, [⟨31, 0, .ro, .val 0, .full⟩]⟩,
  ⟨R.RAS_EDID, 2, 128, .sys, .single, [⟨31, 0, .ro, .val 0, .full⟩]⟩]

/-! ### BSN block (R440, R441) -/

def R.BSN_CTRL : RF := ⟨0x150000, 0x0, 0x0, 31, 0⟩
def R.BSN_CTRL_basin_enable : RF := ⟨0x150000, 0x0, 0x0, 31, 31⟩
def R.BSN_CTRL_is_root : RF := ⟨0x150000, 0x0, 0x0, 30, 30⟩
def R.BSN_CTRL_down_enable : RF := ⟨0x150000, 0x0, 0x0, 15, 0⟩
def R.BSN_STATUS : RF := ⟨0x150004, 0x0, 0x0, 31, 0⟩
def R.BSN_STATUS_joined : RF := ⟨0x150004, 0x0, 0x0, 31, 31⟩
def R.BSN_STATUS_address : RF := ⟨0x150004, 0x0, 0x0, 15, 0⟩
def R.BSN_SUBTREE : RF := ⟨0x150008, 0x0, 0x0, 31, 0⟩
def R.BSN_SUBTREE_devices : RF := ⟨0x150008, 0x0, 0x0, 12, 0⟩
def R.BSN_SNAP_BASE : RF := ⟨0x15000C, 0x0, 0x0, 31, 0⟩
def R.BSN_SNAP_BASE_base_64k : RF := ⟨0x15000C, 0x0, 0x0, 17, 0⟩
def R.BSN_OP : RF := ⟨0x150010, 0x0, 0x0, 31, 0⟩
def R.BSN_OP_op : RF := ⟨0x150010, 0x0, 0x0, 31, 28⟩
def R.BSN_OP_bcast_len : RF := ⟨0x150010, 0x0, 0x0, 8, 0⟩
def R.BSN_OP_ARG : RF := ⟨0x150014, 0x0, 0x0, 31, 0⟩
def R.BSN_OP_STATUS : RF := ⟨0x150018, 0x0, 0x0, 31, 0⟩
def R.BSN_OP_STATUS_op_state : RF := ⟨0x150018, 0x0, 0x0, 31, 29⟩
def R.BSN_OP_STATUS_count : RF := ⟨0x150018, 0x0, 0x0, 12, 0⟩
def R.BSN_OP_FRAME_LO : RF := ⟨0x15001C, 0x0, 0x0, 31, 0⟩
def R.BSN_OP_FRAME_HI : RF := ⟨0x150020, 0x0, 0x0, 31, 0⟩
def R.BSN_BCAST_STATUS : RF := ⟨0x150024, 0x0, 0x0, 31, 0⟩
def R.BSN_BCAST_STATUS_entries : RF := ⟨0x150024, 0x0, 0x0, 4, 0⟩
def R.BSN_BCAST_POP : RF := ⟨0x150028, 0x0, 0x0, 31, 0⟩
def R.BSN_JOIN_REFUSED_COUNT : RF := ⟨0x150030, 0x0, 0x0, 31, 0⟩
def R.BSN_MSG_ERR_COUNT : RF := ⟨0x150034, 0x0, 0x0, 31, 0⟩
def R.BSN_LINK_LOSS_COUNT : RF := ⟨0x150038, 0x0, 0x0, 31, 0⟩
def R.BSN_SLIP_COUNT : RF := ⟨0x15003C, 0x0, 0x0, 31, 0⟩
def R.BSN_BCAST_DROP_COUNT : RF := ⟨0x150040, 0x0, 0x0, 31, 0⟩
def R.BSN_PORT_STATUS : RF := ⟨0x150080, 0x4, 0x0, 31, 0⟩
def R.BSN_PORT_STATUS_link : RF := ⟨0x150080, 0x4, 0x0, 31, 31⟩
def R.BSN_PORT_STATUS_child : RF := ⟨0x150080, 0x4, 0x0, 30, 30⟩
def R.BSN_PORT_STATUS_d_ns : RF := ⟨0x150080, 0x4, 0x0, 29, 15⟩
def R.BSN_PORT_STATUS_skew_ns : RF := ⟨0x150080, 0x4, 0x0, 14, 0⟩
def R.BSN_PORT_ASYM : RF := ⟨0x1500D0, 0x4, 0x0, 31, 0⟩
def R.BSN_PORT_ASYM_asym_ns : RF := ⟨0x1500D0, 0x4, 0x0, 11, 0⟩
def R.BSN_BCAST_DATA : RF := ⟨0x151000, 0x4, 0x0, 31, 0⟩

/-- Rows of the BSN block, part 0. -/
def rowsBSN0 : List RegRow := [
  ⟨R.BSN_CTRL, 1, 1, .net, .single, [⟨31, 31, .rw, .val 0, .full⟩, ⟨30, 30, .rw, .val 0, .full⟩, ⟨15, 0, .rw, .val 0, .full⟩]⟩,
  ⟨R.BSN_STATUS, 1, 1, .net, .single, [⟨31, 31, .ro, .val 0, .full⟩, ⟨15, 0, .ro, .val 0, .full⟩]⟩,
  ⟨R.BSN_SUBTREE, 1, 1, .net, .single, [⟨12, 0, .ro, .val 0, .full⟩]⟩,
  ⟨R.BSN_SNAP_BASE, 1, 1, .net, .single, [⟨17, 0, .rw, .val 0, .full⟩]⟩,
  ⟨R.BSN_OP, 1, 1, .net, .single, [⟨31, 28, .wo, .val 0, .full⟩, ⟨8, 0, .wo, .val 0, .full⟩]⟩,
  ⟨R.BSN_OP_ARG, 1, 1, .net, .single, [⟨31, 0, .rw, .val 0, .full⟩]⟩,
  ⟨R.BSN_OP_STATUS, 1, 1, .net, .single, [⟨31, 29, .ro, .val 0, .full⟩, ⟨12, 0, .ro, .val 0, .full⟩]⟩,
  ⟨R.BSN_OP_FRAME_LO, 1, 1, .net, .low, [⟨31, 0, .ro, .val 0, .full⟩]⟩,
  ⟨R.BSN_OP_FRAME_HI, 1, 1, .net, .high, [⟨31, 0, .ro, .val 0, .full⟩]⟩,
  ⟨R.BSN_BCAST_STATUS, 1, 1, .net, .single, [⟨4, 0, .ro, .val 0, .full⟩]⟩,
  ⟨R.BSN_BCAST_POP, 1, 1, .net, .single, [⟨31, 0, .wo, .val 0, .full⟩]⟩,
  ⟨R.BSN_JOIN_REFUSED_COUNT, 1, 1, .net, .single, [⟨31, 0, .ro, .val 0, .full⟩]⟩]

/-- Rows of the BSN block, part 1. -/
def rowsBSN1 : List RegRow := [
  ⟨R.BSN_MSG_ERR_COUNT, 1, 1, .net, .single, [⟨31, 0, .ro, .val 0, .full⟩]⟩,
  ⟨R.BSN_LINK_LOSS_COUNT, 1, 1, .net, .single, [⟨31, 0, .ro, .val 0, .full⟩]⟩,
  ⟨R.BSN_SLIP_COUNT, 1, 1, .net, .single, [⟨31, 0, .ro, .val 0, .full⟩]⟩,
  ⟨R.BSN_BCAST_DROP_COUNT, 1, 1, .net, .single, [⟨31, 0, .ro, .val 0, .full⟩]⟩,
  ⟨R.BSN_PORT_STATUS, 17, 1, .net, .single, [⟨31, 31, .ro, .val 0, .full⟩, ⟨30, 30, .ro, .val 0, .full⟩, ⟨29, 15, .ro, .val 0, .full⟩, ⟨14, 0, .ro, .val 0, .full⟩]⟩,
  ⟨R.BSN_PORT_ASYM, 16, 1, .net, .single, [⟨11, 0, .rw, .val 0, .full⟩]⟩,
  ⟨R.BSN_BCAST_DATA, 64, 1, .net, .single, [⟨31, 0, .ro, .val 0, .full⟩]⟩]

/-! ### SIP block (R440, R441) -/

def R.SIP_CTRL : RF := ⟨0x158000, 0x0, 0x0, 31, 0⟩
def R.SIP_CTRL_tandem_enable : RF := ⟨0x158000, 0x0, 0x0, 31, 31⟩
def R.SIP_CTRL_unit : RF := ⟨0x158000, 0x0, 0x0, 30, 30⟩
def R.SIP_CTRL_prefer_active : RF := ⟨0x158000, 0x0, 0x0, 29, 29⟩
def R.SIP_CTRL_auto_takeover : RF := ⟨0x158000, 0x0, 0x0, 28, 28⟩
def R.SIP_CTRL_hb_eth_enable : RF := ⟨0x158000, 0x0, 0x0, 27, 27⟩
def R.SIP_CTRL_hb_mac : RF := ⟨0x158000, 0x0, 0x0, 26, 25⟩
def R.SIP_CTRL_takeover_stale : RF := ⟨0x158000, 0x0, 0x0, 24, 24⟩
def R.SIP_CTRL_switchover : RF := ⟨0x158000, 0x0, 0x0, 23, 23⟩
def R.SIP_STATUS : RF := ⟨0x158004, 0x0, 0x0, 31, 0⟩
def R.SIP_STATUS_role : RF := ⟨0x158004, 0x0, 0x0, 31, 29⟩
def R.SIP_STATUS_current : RF := ⟨0x158004, 0x0, 0x0, 28, 28⟩
def R.SIP_STATUS_peer_seen : RF := ⟨0x158004, 0x0, 0x0, 27, 27⟩
def R.SIP_STATUS_one_lane : RF := ⟨0x158004, 0x0, 0x0, 26, 26⟩
def R.SIP_STATUS_cause : RF := ⟨0x158004, 0x0, 0x0, 24, 20⟩
def R.SIP_DOCK_BASE : RF := ⟨0x158008, 0x0, 0x0, 31, 0⟩
def R.SIP_DOCK_BASE_base_64k : RF := ⟨0x158008, 0x0, 0x0, 17, 0⟩
def R.SIP_DOCK_SIZE : RF := ⟨0x15800C, 0x0, 0x0, 31, 0⟩
def R.SIP_DOCK_SIZE_size_mib : RF := ⟨0x15800C, 0x0, 0x0, 11, 0⟩
def R.SIP_LEDGER_LAST : RF := ⟨0x158010, 0x0, 0x0, 31, 0⟩
def R.SIP_LEDGER_MAX : RF := ⟨0x158014, 0x0, 0x0, 31, 0⟩
def R.SIP_CATCHUP_LEFT : RF := ⟨0x158018, 0x0, 0x0, 31, 0⟩
def R.SIP_CATCHUP_LEFT_pages : RF := ⟨0x158018, 0x0, 0x0, 17, 0⟩
def R.SIP_TAKEOVER_COUNT : RF := ⟨0x158020, 0x0, 0x0, 31, 0⟩
def R.SIP_HB_MISS_COUNT : RF := ⟨0x158024, 0x0, 0x0, 31, 0⟩
def R.SIP_OVER_BOUND_COUNT : RF := ⟨0x158028, 0x0, 0x0, 31, 0⟩
def R.SIP_AUTH_FAIL_COUNT : RF := ⟨0x15802C, 0x0, 0x0, 31, 0⟩
def R.SIP_DIGEST_MISMATCH_COUNT : RF := ⟨0x158030, 0x0, 0x0, 31, 0⟩
def R.SIP_NOT_CURRENT_COUNT : RF := ⟨0x158034, 0x0, 0x0, 31, 0⟩
def R.SIP_PEER_HEALTH : RF := ⟨0x158100, 0x4, 0x0, 31, 0⟩

/-- Rows of the SIP block, part 0. -/
def rowsSIP0 : List RegRow := [
  ⟨R.SIP_CTRL, 1, 1, .net, .single, [⟨31, 31, .rw, .val 0, .full⟩, ⟨30, 30, .rw, .val 0, .full⟩, ⟨29, 29, .rw, .val 0, .full⟩, ⟨28, 28, .rw, .val 0, .full⟩, ⟨27, 27, .rw, .val 0, .full⟩, ⟨26, 25, .rw, .val 0, .full⟩, ⟨24, 24, .rw, .val 0, .full⟩, ⟨23, 23, .wo, .val 0, .full⟩]⟩,
  ⟨R.SIP_STATUS, 1, 1, .net, .single, [⟨31, 29, .ro, .val 0, .full⟩, ⟨28, 28, .ro, .val 0, .full⟩, ⟨27, 27, .ro, .val 0, .full⟩, ⟨26, 26, .ro, .val 0, .full⟩, ⟨24, 20, .ro, .val 0, .full⟩]⟩,
  ⟨R.SIP_DOCK_BASE, 1, 1, .net, .single, [⟨17, 0, .rw, .val 0, .full⟩]⟩,
  ⟨R.SIP_DOCK_SIZE, 1, 1, .net, .single, [⟨11, 0, .rw, .val 0, .full⟩]⟩,
  ⟨R.SIP_LEDGER_LAST, 1, 1, .net, .single, [⟨31, 0, .ro, .val 0, .full⟩]⟩,
  ⟨R.SIP_LEDGER_MAX, 1, 1, .net, .single, [⟨31, 0, .ro, .val 0, .full⟩]⟩,
  ⟨R.SIP_CATCHUP_LEFT, 1, 1, .net, .single, [⟨17, 0, .ro, .val 0, .full⟩]⟩,
  ⟨R.SIP_TAKEOVER_COUNT, 1, 1, .net, .single, [⟨31, 0, .ro, .val 0, .full⟩]⟩,
  ⟨R.SIP_HB_MISS_COUNT, 1, 1, .net, .single, [⟨31, 0, .ro, .val 0, .full⟩]⟩,
  ⟨R.SIP_OVER_BOUND_COUNT, 1, 1, .net, .single, [⟨31, 0, .ro, .val 0, .full⟩]⟩,
  ⟨R.SIP_AUTH_FAIL_COUNT, 1, 1, .net, .single, [⟨31, 0, .ro, .val 0, .full⟩]⟩,
  ⟨R.SIP_DIGEST_MISMATCH_COUNT, 1, 1, .net, .single, [⟨31, 0, .ro, .val 0, .full⟩]⟩]

/-- Rows of the SIP block, part 1. -/
def rowsSIP1 : List RegRow := [
  ⟨R.SIP_NOT_CURRENT_COUNT, 1, 1, .net, .single, [⟨31, 0, .ro, .val 0, .full⟩]⟩,
  ⟨R.SIP_PEER_HEALTH, 16, 1, .net, .single, [⟨31, 0, .ro, .val 0, .full⟩]⟩]

/-! ### PM block (R462, R463) -/

def R.PM_CTRL : RF := ⟨0x160000, 0x0, 0x0, 31, 0⟩
def R.PM_CTRL_ebb_enable : RF := ⟨0x160000, 0x0, 0x0, 31, 31⟩
def R.PM_CTRL_brownout_reset : RF := ⟨0x160000, 0x0, 0x0, 30, 30⟩
def R.PM_STATE : RF := ⟨0x160004, 0x0, 0x0, 31, 0⟩
def R.PM_STATE_state : RF := ⟨0x160004, 0x0, 0x0, 31, 30⟩
def R.PM_STATE_target : RF := ⟨0x160004, 0x0, 0x0, 29, 28⟩
def R.PM_STATE_phase : RF := ⟨0x160004, 0x0, 0x0, 27, 26⟩
def R.PM_STATE_pending_valid : RF := ⟨0x160004, 0x0, 0x0, 25, 25⟩
def R.PM_STATE_pending : RF := ⟨0x160004, 0x0, 0x0, 24, 23⟩
def R.PM_STATE_ebb : RF := ⟨0x160004, 0x0, 0x0, 22, 22⟩
def R.PM_STATE_wake_held : RF := ⟨0x160004, 0x0, 0x0, 21, 21⟩
def R.PM_STATE_rail_fault : RF := ⟨0x160004, 0x0, 0x0, 20, 20⟩
def R.PM_STATE_block : RF := ⟨0x160004, 0x0, 0x0, 7, 0⟩
def R.PM_REQUEST : RF := ⟨0x160008, 0x0, 0x0, 31, 0⟩
def R.PM_REQUEST_abort : RF := ⟨0x160008, 0x0, 0x0, 31, 31⟩
def R.PM_REQUEST_target : RF := ⟨0x160008, 0x0, 0x0, 29, 28⟩
def R.PM_WAKE_CFG : RF := ⟨0x16000C, 0x0, 0x0, 31, 0⟩
def R.PM_WAKE_CFG_wake_n : RF := ⟨0x16000C, 0x0, 0x0, 31, 31⟩
def R.PM_WAKE_CFG_alarm : RF := ⟨0x16000C, 0x0, 0x0, 30, 30⟩
def R.PM_WAKE_CFG_smbus : RF := ⟨0x16000C, 0x0, 0x0, 29, 29⟩
def R.PM_WAKE_CFG_ptp_alarm : RF := ⟨0x16000C, 0x0, 0x0, 28, 28⟩
def R.PM_WAKE_CFG_sacn : RF := ⟨0x16000C, 0x0, 0x0, 27, 27⟩
def R.PM_WAKE_CFG_mgmt : RF := ⟨0x16000C, 0x0, 0x0, 26, 26⟩
def R.PM_WAKE_CFG_tally_watch : RF := ⟨0x16000C, 0x0, 0x0, 25, 25⟩
def R.PM_WAKE_CFG_tally_wake : RF := ⟨0x16000C, 0x0, 0x0, 3, 0⟩
def R.PM_WAKE_CAUSE : RF := ⟨0x160010, 0x0, 0x0, 31, 0⟩
def R.PM_WAKE_CAUSE_wake_n : RF := ⟨0x160010, 0x0, 0x0, 31, 31⟩
def R.PM_WAKE_CAUSE_alarm : RF := ⟨0x160010, 0x0, 0x0, 30, 30⟩
def R.PM_WAKE_CAUSE_smbus : RF := ⟨0x160010, 0x0, 0x0, 29, 29⟩
def R.PM_WAKE_CAUSE_ptp_alarm : RF := ⟨0x160010, 0x0, 0x0, 28, 28⟩
def R.PM_WAKE_CAUSE_sacn : RF := ⟨0x160010, 0x0, 0x0, 27, 27⟩
def R.PM_WAKE_CAUSE_mgmt : RF := ⟨0x160010, 0x0, 0x0, 26, 26⟩
def R.PM_WAKE_CAUSE_tally_watch : RF := ⟨0x160010, 0x0, 0x0, 25, 25⟩
def R.PM_WAKE_CAUSE_ebb_held : RF := ⟨0x160010, 0x0, 0x0, 24, 24⟩
def R.PM_WAKE_CAUSE_tally_wake : RF := ⟨0x160010, 0x0, 0x0, 3, 0⟩
def R.PM_TENDER_SEC : RF := ⟨0x160014, 0x0, 0x0, 31, 0⟩
def R.PM_TENDER_TICKS : RF := ⟨0x160018, 0x0, 0x0, 31, 0⟩
def R.PM_TENDER_TICKS_ticks : RF := ⟨0x160018, 0x0, 0x0, 14, 0⟩
def R.PM_ALARM_SEC : RF := ⟨0x16001C, 0x0, 0x0, 31, 0⟩
def R.PM_ALARM_TICKS : RF := ⟨0x160020, 0x0, 0x0, 31, 0⟩
def R.PM_ALARM_TICKS_armed : RF := ⟨0x160020, 0x0, 0x0, 31, 31⟩
def R.PM_ALARM_TICKS_ticks : RF := ⟨0x160020, 0x0, 0x0, 14, 0⟩
def R.PM_PTP_ALARM_LO : RF := ⟨0x160024, 0x0, 0x0, 31, 0⟩
def R.PM_PTP_ALARM_HI : RF := ⟨0x160028, 0x0, 0x0, 31, 0⟩
def R.PM_PTP_ALARM_HI_armed : RF := ⟨0x160028, 0x0, 0x0, 31, 31⟩
def R.PM_PTP_ALARM_HI_sec_hi : RF := ⟨0x160028, 0x0, 0x0, 15, 0⟩
def R.PM_WAKE_ETH : RF := ⟨0x16002C, 0x0, 0x0, 31, 0⟩
def R.PM_WAKE_ETH_ethertype : RF := ⟨0x16002C, 0x0, 0x0, 15, 0⟩
def R.PM_SMB_CFG : RF := ⟨0x160030, 0x0, 0x0, 31, 0⟩
def R.PM_SMB_CFG_smb_pec : RF := ⟨0x160030, 0x0, 0x0, 31, 31⟩
def R.PM_SMB_CFG_address : RF := ⟨0x160030, 0x0, 0x0, 6, 0⟩
def R.PM_BROWNOUT_CFG : RF := ⟨0x160034, 0x0, 0x0, 31, 0⟩
def R.PM_BROWNOUT_CFG_warn_mv : RF := ⟨0x160034, 0x0, 0x0, 31, 21⟩
def R.PM_BROWNOUT_CFG_reset_mv : RF := ⟨0x160034, 0x0, 0x0, 20, 10⟩
def R.PM_BROWNOUT_CFG_hyst_mv : RF := ⟨0x160034, 0x0, 0x0, 9, 0⟩
def R.PM_HOLDUP_CFG : RF := ⟨0x160038, 0x0, 0x0, 31, 0⟩
def R.PM_HOLDUP_CFG_cap_uf : RF := ⟨0x160038, 0x0, 0x0, 31, 16⟩
def R.PM_HOLDUP_CFG_div_x16 : RF := ⟨0x160038, 0x0, 0x0, 15, 8⟩
def R.PM_HOLDUP_CFG_floor_100mv : RF := ⟨0x160038, 0x0, 0x0, 7, 0⟩
def R.PM_HOLDUP_STATUS : RF := ⟨0x16003C, 0x0, 0x0, 31, 0⟩
def R.PM_HOLDUP_STATUS_cap_mv : RF := ⟨0x16003C, 0x0, 0x0, 31, 16⟩
def R.PM_HOLDUP_STATUS_last_pass : RF := ⟨0x16003C, 0x0, 0x0, 15, 15⟩
def R.PM_HOLDUP_STATUS_last_kind : RF := ⟨0x16003C, 0x0, 0x0, 1, 0⟩
def R.PM_STORE_COST : RF := ⟨0x160040, 0x4, 0x0, 31, 0⟩
def R.PM_DOMAIN_STATUS : RF := ⟨0x160050, 0x0, 0x0, 31, 0⟩
def R.PM_DOMAIN_STATUS_on : RF := ⟨0x160050, 0x0, 0x0, 11, 0⟩
def R.PM_ABORT_COUNT : RF := ⟨0x160060, 0x0, 0x0, 31, 0⟩
def R.PM_EBB_COUNT : RF := ⟨0x160064, 0x0, 0x0, 31, 0⟩
def R.PM_HOLDUP_FAIL_COUNT : RF := ⟨0x160068, 0x0, 0x0, 31, 0⟩
def R.PM_STORE_DEFER_COUNT : RF := ⟨0x16006C, 0x0, 0x0, 31, 0⟩
def R.PM_RAIL_FAIL_COUNT : RF := ⟨0x160070, 0x0, 0x0, 31, 0⟩
def R.PM_SACN_WAKE : RF := ⟨0x160080, 0x4, 0x0, 31, 0⟩
def R.PM_SACN_WAKE_valid : RF := ⟨0x160080, 0x4, 0x0, 31, 31⟩
def R.PM_SACN_WAKE_universe : RF := ⟨0x160080, 0x4, 0x0, 15, 0⟩
def R.PM_REFUSE_LOG_0 : RF := ⟨0x1600A0, 0x8, 0x0, 31, 0⟩
def R.PM_REFUSE_LOG_0_block : RF := ⟨0x1600A0, 0x8, 0x0, 31, 24⟩
def R.PM_REFUSE_LOG_0_target : RF := ⟨0x1600A0, 0x8, 0x0, 23, 22⟩
def R.PM_REFUSE_LOG_0_kind : RF := ⟨0x1600A0, 0x8, 0x0, 21, 20⟩
def R.PM_REFUSE_LOG_0_ticks : RF := ⟨0x1600A0, 0x8, 0x0, 14, 0⟩
def R.PM_REFUSE_LOG_1 : RF := ⟨0x1600A4, 0x8, 0x0, 31, 0⟩

/-- Rows of the PM block, part 0. -/
def rowsPM0 : List RegRow := [
  ⟨R.PM_CTRL, 1, 1, .tend, .single, [⟨31, 31, .rw, .val 1, .p⟩, ⟨30, 30, .rw, .val 1, .p⟩]⟩,
  ⟨R.PM_STATE, 1, 1, .tend, .single, [⟨31, 30, .ro, .val 0, .pc⟩, ⟨29, 28, .ro, .val 0, .pc⟩, ⟨27, 26, .ro, .val 0, .pc⟩, ⟨25, 25, .ro, .val 0, .pc⟩, ⟨24, 23, .ro, .val 0, .pc⟩, ⟨22, 22, .ro, .val 0, .p⟩, ⟨21, 21, .ro, .val 0, .p⟩, ⟨20, 20, .ro, .val 0, .p⟩, ⟨7, 0, .ro, .val 0, .pc⟩]⟩,
  ⟨R.PM_REQUEST, 1, 1, .tend, .single, [⟨31, 31, .wo, .val 0, .p⟩, ⟨29, 28, .wo, .val 0, .p⟩]⟩,
  ⟨R.PM_WAKE_CFG, 1, 1, .tend, .single, [⟨31, 31, .rw, .val 0, .p⟩, ⟨30, 30, .rw, .val 0, .p⟩, ⟨29, 29, .rw, .val 0, .p⟩, ⟨28, 28, .rw, .val 0, .p⟩, ⟨27, 27, .rw, .val 0, .p⟩, ⟨26, 26, .rw, .val 0, .p⟩, ⟨25, 25, .rw, .val 0, .p⟩, ⟨3, 0, .rw, .val 0, .p⟩]⟩,
  ⟨R.PM_WAKE_CAUSE, 1, 1, .tend, .single, [⟨31, 31, .w1c, .val 0, .p⟩, ⟨30, 30, .w1c, .val 0, .p⟩, ⟨29, 29, .w1c, .val 0, .p⟩, ⟨28, 28, .w1c, .val 0, .p⟩, ⟨27, 27, .w1c, .val 0, .p⟩, ⟨26, 26, .w1c, .val 0, .p⟩, ⟨25, 25, .w1c, .val 0, .p⟩, ⟨24, 24, .w1c, .val 0, .p⟩, ⟨3, 0, .w1c, .val 0, .p⟩]⟩,
  ⟨R.PM_TENDER_SEC, 1, 1, .tend, .single, [⟨31, 0, .ro, .val 0, .p⟩]⟩,
  ⟨R.PM_TENDER_TICKS, 1, 1, .tend, .single, [⟨14, 0, .ro, .val 0, .p⟩]⟩,
  ⟨R.PM_ALARM_SEC, 1, 1, .tend, .single, [⟨31, 0, .rw, .val 0, .p⟩]⟩,
  ⟨R.PM_ALARM_TICKS, 1, 1, .tend, .single, [⟨31, 31, .rw, .val 0, .p⟩, ⟨14, 0, .rw, .val 0, .p⟩]⟩,
  ⟨R.PM_PTP_ALARM_LO, 1, 1, .tend, .low, [⟨31, 0, .rw, .val 0, .p⟩]⟩,
  ⟨R.PM_PTP_ALARM_HI, 1, 1, .tend, .high, [⟨31, 31, .rw, .val 0, .p⟩, ⟨15, 0, .rw, .val 0, .p⟩]⟩,
  ⟨R.PM_WAKE_ETH, 1, 1, .tend, .single, [⟨15, 0, .rw, .val 0, .p⟩]⟩]

/-- Rows of the PM block, part 1. -/
def rowsPM1 : List RegRow := [
  ⟨R.PM_SMB_CFG, 1, 1, .tend, .single, [⟨31, 31, .rw, .val 0, .p⟩, ⟨6, 0, .rw, .val 60, .p⟩]⟩,
  ⟨R.PM_BROWNOUT_CFG, 1, 1, .tend, .single, [⟨31, 21, .rw, .val 0x5A0, .p⟩, ⟨20, 10, .rw, .val 0x546, .p⟩, ⟨9, 0, .rw, .val 30, .p⟩]⟩,
  ⟨R.PM_HOLDUP_CFG, 1, 1, .tend, .single, [⟨31, 16, .rw, .val 0, .p⟩, ⟨15, 8, .rw, .val 16, .p⟩, ⟨7, 0, .rw, .val 0, .p⟩]⟩,
  ⟨R.PM_HOLDUP_STATUS, 1, 1, .tend, .single, [⟨31, 16, .ro, .val 0, .p⟩, ⟨15, 15, .ro, .val 0, .p⟩, ⟨1, 0, .ro, .val 0, .p⟩]⟩,
  ⟨R.PM_STORE_COST, 4, 1, .tend, .single, [⟨31, 0, .rw, .list [2000, 20000, 120000, 5000], .p⟩]⟩,
  ⟨R.PM_DOMAIN_STATUS, 1, 1, .tend, .single, [⟨11, 0, .ro, .val 0, .never⟩]⟩,
  ⟨R.PM_ABORT_COUNT, 1, 1, .tend, .single, [⟨31, 0, .ro, .val 0, .p⟩]⟩,
  ⟨R.PM_EBB_COUNT, 1, 1, .tend, .single, [⟨31, 0, .ro, .val 0, .p⟩]⟩,
  ⟨R.PM_HOLDUP_FAIL_COUNT, 1, 1, .tend, .single, [⟨31, 0, .ro, .val 0, .p⟩]⟩,
  ⟨R.PM_STORE_DEFER_COUNT, 1, 1, .tend, .single, [⟨31, 0, .ro, .val 0, .p⟩]⟩,
  ⟨R.PM_RAIL_FAIL_COUNT, 1, 1, .tend, .single, [⟨31, 0, .ro, .val 0, .p⟩]⟩,
  ⟨R.PM_SACN_WAKE, 8, 1, .tend, .single, [⟨31, 31, .rw, .val 0, .p⟩, ⟨15, 0, .rw, .val 0, .p⟩]⟩]

/-- Rows of the PM block, part 2. -/
def rowsPM2 : List RegRow := [
  ⟨R.PM_REFUSE_LOG_0, 8, 1, .tend, .single, [⟨31, 24, .ro, .val 0, .p⟩, ⟨23, 22, .ro, .val 0, .p⟩, ⟨21, 20, .ro, .val 0, .p⟩, ⟨14, 0, .ro, .val 0, .p⟩]⟩,
  ⟨R.PM_REFUSE_LOG_1, 8, 1, .tend, .single, [⟨31, 0, .ro, .val 0, .p⟩]⟩]

/-! ### TH block (R481, R482) -/

def R.TH_CTRL : RF := ⟨0x170000, 0x0, 0x0, 31, 0⟩
def R.TH_CTRL_crit_hold : RF := ⟨0x170000, 0x0, 0x0, 31, 31⟩
def R.TH_CTRL_rise_action : RF := ⟨0x170000, 0x0, 0x0, 30, 29⟩
def R.TH_STATUS : RF := ⟨0x170004, 0x0, 0x0, 31, 0⟩
def R.TH_STATUS_warn : RF := ⟨0x170004, 0x0, 0x0, 31, 31⟩
def R.TH_STATUS_crit : RF := ⟨0x170004, 0x0, 0x0, 30, 30⟩
def R.TH_STATUS_low : RF := ⟨0x170004, 0x0, 0x0, 29, 29⟩
def R.TH_STATUS_self_heat : RF := ⟨0x170004, 0x0, 0x0, 28, 28⟩
def R.TH_STATUS_level : RF := ⟨0x170004, 0x0, 0x0, 26, 24⟩
def R.TH_STATUS_hottest : RF := ⟨0x170004, 0x0, 0x0, 19, 16⟩
def R.TH_STATUS_hottest_temp : RF := ⟨0x170004, 0x0, 0x0, 15, 0⟩
def R.TH_SELECT : RF := ⟨0x170008, 0x0, 0x0, 31, 0⟩
def R.TH_SELECT_sensors : RF := ⟨0x170008, 0x0, 0x0, 31, 16⟩
def R.TH_SELECT_sel_rise : RF := ⟨0x170008, 0x0, 0x0, 4, 4⟩
def R.TH_SELECT_sel_low : RF := ⟨0x170008, 0x0, 0x0, 3, 3⟩
def R.TH_SELECT_sel_throttle : RF := ⟨0x170008, 0x0, 0x0, 1, 1⟩
def R.TH_SELECT_sel_warn : RF := ⟨0x170008, 0x0, 0x0, 0, 0⟩
def R.TH_SELECT_sel_crit : RF := ⟨0x170008, 0x0, 0x0, 2, 2⟩
def R.TH_WARN_THROTTLE : RF := ⟨0x17000C, 0x0, 0x0, 31, 0⟩
def R.TH_WARN_THROTTLE_warn : RF := ⟨0x17000C, 0x0, 0x0, 31, 16⟩
def R.TH_WARN_THROTTLE_throttle : RF := ⟨0x17000C, 0x0, 0x0, 15, 0⟩
def R.TH_CRIT_LOW : RF := ⟨0x170010, 0x0, 0x0, 31, 0⟩
def R.TH_CRIT_LOW_crit : RF := ⟨0x170010, 0x0, 0x0, 31, 16⟩
def R.TH_CRIT_LOW_low : RF := ⟨0x170010, 0x0, 0x0, 15, 0⟩
def R.TH_RISE : RF := ⟨0x170014, 0x0, 0x0, 31, 0⟩
def R.TH_RISE_low_release : RF := ⟨0x170014, 0x0, 0x0, 31, 16⟩
def R.TH_RISE_rise : RF := ⟨0x170014, 0x0, 0x0, 15, 0⟩
def R.TH_WARN_COUNT : RF := ⟨0x170020, 0x0, 0x0, 31, 0⟩
def R.TH_THROTTLE_FRAMES : RF := ⟨0x170024, 0x0, 0x0, 31, 0⟩
def R.TH_THROTTLE_REPEAT_COUNT : RF := ⟨0x170028, 0x0, 0x0, 31, 0⟩
def R.TH_RISE_COUNT : RF := ⟨0x17002C, 0x0, 0x0, 31, 0⟩
def R.TH_SENSOR_FAULT_COUNT : RF := ⟨0x170030, 0x0, 0x0, 31, 0⟩
def R.TH_SENSOR : RF := ⟨0x170040, 0x4, 0x0, 31, 0⟩
def R.TH_SENSOR_valid : RF := ⟨0x170040, 0x4, 0x0, 31, 31⟩
def R.TH_SENSOR_fault : RF := ⟨0x170040, 0x4, 0x0, 30, 30⟩
def R.TH_SENSOR_temp : RF := ⟨0x170040, 0x4, 0x0, 15, 0⟩
def R.TH_CRIT_COUNT : RF := ⟨0x170080, 0x0, 0x0, 31, 0⟩
def R.TH_LAST_STOP : RF := ⟨0x170084, 0x0, 0x0, 31, 0⟩
def R.TH_HEAT_TIME : RF := ⟨0x170088, 0x0, 0x0, 31, 0⟩
def R.TH_HOURS_BIN : RF := ⟨0x170100, 0x4, 0x0, 31, 0⟩
def R.TH_POH_HOURS : RF := ⟨0x170120, 0x0, 0x0, 31, 0⟩
def R.TH_SHOW_HOURS : RF := ⟨0x170124, 0x0, 0x0, 31, 0⟩

/-- Rows of the TH block, part 0. -/
def rowsTH0 : List RegRow := [
  ⟨R.TH_CTRL, 1, 1, .sys, .single, [⟨31, 31, .rw, .val 0, .full⟩, ⟨30, 29, .rw, .val 0, .full⟩]⟩,
  ⟨R.TH_STATUS, 1, 1, .sys, .single, [⟨31, 31, .ro, .val 0, .full⟩, ⟨30, 30, .ro, .val 0, .full⟩, ⟨29, 29, .ro, .val 0, .full⟩, ⟨28, 28, .ro, .val 0, .full⟩, ⟨26, 24, .ro, .val 0, .full⟩, ⟨19, 16, .ro, .val 0, .full⟩, ⟨15, 0, .ro, .val 0, .full⟩]⟩,
  ⟨R.TH_SELECT, 1, 1, .sys, .single, [⟨31, 16, .rw, .val 0xFFFF, .full⟩, ⟨4, 4, .rw, .val 1, .full⟩, ⟨3, 3, .rw, .val 1, .full⟩, ⟨1, 1, .rw, .val 1, .full⟩, ⟨0, 0, .rw, .val 1, .full⟩, ⟨2, 2, .rwl, .val 1, .full⟩]⟩,
  ⟨R.TH_WARN_THROTTLE, 1, 1, .sys, .single, [⟨31, 16, .rw, .fuse .thWarn, .full⟩, ⟨15, 0, .rw, .fuse .thThrottle, .full⟩]⟩,
  ⟨R.TH_CRIT_LOW, 1, 1, .sys, .single, [⟨31, 16, .rw, .fuse .thCrit, .full⟩, ⟨15, 0, .rw, .fuse .thLow, .full⟩]⟩,
  ⟨R.TH_RISE, 1, 1, .sys, .single, [⟨31, 16, .rw, .fuse .thLowRelease, .full⟩, ⟨15, 0, .rw, .fuse .thRise, .full⟩]⟩,
  ⟨R.TH_WARN_COUNT, 1, 1, .sys, .single, [⟨31, 0, .ro, .val 0, .full⟩]⟩,
  ⟨R.TH_THROTTLE_FRAMES, 1, 1, .sys, .single, [⟨31, 0, .ro, .val 0, .full⟩]⟩,
  ⟨R.TH_THROTTLE_REPEAT_COUNT, 1, 1, .sys, .single, [⟨31, 0, .ro, .val 0, .full⟩]⟩,
  ⟨R.TH_RISE_COUNT, 1, 1, .sys, .single, [⟨31, 0, .ro, .val 0, .full⟩]⟩,
  ⟨R.TH_SENSOR_FAULT_COUNT, 1, 1, .sys, .single, [⟨31, 0, .ro, .val 0, .full⟩]⟩,
  ⟨R.TH_SENSOR, 16, 1, .sys, .single, [⟨31, 31, .ro, .val 0, .full⟩, ⟨30, 30, .ro, .val 0, .full⟩, ⟨15, 0, .ro, .val 0, .full⟩]⟩]

/-- Rows of the TH block, part 1. -/
def rowsTH1 : List RegRow := [
  ⟨R.TH_CRIT_COUNT, 1, 1, .tend, .single, [⟨31, 0, .ro, .val 0, .p⟩]⟩,
  ⟨R.TH_LAST_STOP, 1, 1, .tend, .single, [⟨31, 0, .ro, .val 0, .p⟩]⟩,
  ⟨R.TH_HEAT_TIME, 1, 1, .tend, .single, [⟨31, 0, .ro, .val 0, .p⟩]⟩,
  ⟨R.TH_HOURS_BIN, 8, 1, .tend, .single, [⟨31, 0, .ro, .val 0, .never⟩]⟩,
  ⟨R.TH_POH_HOURS, 1, 1, .tend, .single, [⟨31, 0, .ro, .val 0, .never⟩]⟩,
  ⟨R.TH_SHOW_HOURS, 1, 1, .tend, .single, [⟨31, 0, .ro, .val 0, .never⟩]⟩]

/-! ### CAL block (R481, R482) -/

def R.CAL_CTRL : RF := ⟨0x178000, 0x0, 0x0, 31, 0⟩
def R.CAL_CTRL_cal_enable : RF := ⟨0x178000, 0x0, 0x0, 31, 31⟩
def R.CAL_CTRL_on_delta : RF := ⟨0x178000, 0x0, 0x0, 30, 30⟩
def R.CAL_CTRL_rotate : RF := ⟨0x178000, 0x0, 0x0, 29, 29⟩
def R.CAL_CTRL_delta_t : RF := ⟨0x178000, 0x0, 0x0, 13, 8⟩
def R.CAL_CTRL_rotate_s : RF := ⟨0x178000, 0x0, 0x0, 7, 0⟩
def R.CAL_STATUS : RF := ⟨0x178004, 0x0, 0x0, 31, 0⟩
def R.CAL_STATUS_running : RF := ⟨0x178004, 0x0, 0x0, 31, 31⟩
def R.CAL_STATUS_due : RF := ⟨0x178004, 0x0, 0x0, 8, 0⟩
def R.CAL_COUNT : RF := ⟨0x178008, 0x0, 0x0, 31, 0⟩
def R.CAL_LAST_SEC : RF := ⟨0x17800C, 0x0, 0x0, 31, 0⟩
def R.CAL_LAST_NS : RF := ⟨0x178010, 0x0, 0x0, 31, 0⟩
def R.CAL_LAST_NS_ns : RF := ⟨0x178010, 0x0, 0x0, 29, 0⟩
def R.CAL_MISS_COUNT : RF := ⟨0x178014, 0x0, 0x0, 31, 0⟩
def R.CAL_PORT_CFG : RF := ⟨0x179000, 0x10, 0x0, 31, 0⟩
def R.CAL_PORT_CFG_ohms : RF := ⟨0x179000, 0x10, 0x0, 15, 8⟩
def R.CAL_PORT_CFG_slew : RF := ⟨0x179000, 0x10, 0x0, 1, 0⟩
def R.CAL_PORT_STATUS : RF := ⟨0x179004, 0x10, 0x0, 31, 0⟩
def R.CAL_PORT_STATUS_due : RF := ⟨0x179004, 0x10, 0x0, 31, 31⟩
def R.CAL_PORT_STATUS_slice_fault : RF := ⟨0x179004, 0x10, 0x0, 30, 30⟩
def R.CAL_PORT_STATUS_baseline : RF := ⟨0x179004, 0x10, 0x0, 29, 29⟩
def R.CAL_PORT_STATUS_slices : RF := ⟨0x179004, 0x10, 0x0, 15, 0⟩
def R.CAL_PORT_COUNT : RF := ⟨0x179008, 0x10, 0x0, 31, 0⟩
def R.CAL_PORT_LAST : RF := ⟨0x17900C, 0x10, 0x0, 31, 0⟩

/-- Rows of the CAL block, part 0. -/
def rowsCAL0 : List RegRow := [
  ⟨R.CAL_CTRL, 1, 1, .sys, .single, [⟨31, 31, .rw, .val 1, .full⟩, ⟨30, 30, .rw, .val 1, .full⟩, ⟨29, 29, .rw, .val 0, .full⟩, ⟨13, 8, .rw, .val 8, .full⟩, ⟨7, 0, .rw, .val 60, .full⟩]⟩,
  ⟨R.CAL_STATUS, 1, 1, .sys, .single, [⟨31, 31, .ro, .val 0, .full⟩, ⟨8, 0, .ro, .val 0, .full⟩]⟩,
  ⟨R.CAL_COUNT, 1, 1, .sys, .single, [⟨31, 0, .ro, .val 0, .full⟩]⟩,
  ⟨R.CAL_LAST_SEC, 1, 1, .sys, .single, [⟨31, 0, .ro, .val 0, .full⟩]⟩,
  ⟨R.CAL_LAST_NS, 1, 1, .sys, .single, [⟨29, 0, .ro, .val 0, .full⟩]⟩,
  ⟨R.CAL_MISS_COUNT, 1, 1, .sys, .single, [⟨31, 0, .ro, .val 0, .full⟩]⟩,
  ⟨R.CAL_PORT_CFG, 256, 1, .sys, .single, [⟨15, 8, .rw, .fuse .calOhms, .full⟩, ⟨1, 0, .rw, .fuse .calSlew, .full⟩]⟩,
  ⟨R.CAL_PORT_STATUS, 256, 1, .sys, .single, [⟨31, 31, .ro, .val 0, .full⟩, ⟨30, 30, .ro, .val 0, .full⟩, ⟨29, 29, .ro, .val 1, .full⟩, ⟨15, 0, .ro, .fuse .calSlices, .full⟩]⟩,
  ⟨R.CAL_PORT_COUNT, 256, 1, .sys, .single, [⟨31, 0, .ro, .val 0, .full⟩]⟩,
  ⟨R.CAL_PORT_LAST, 256, 1, .sys, .single, [⟨31, 0, .ro, .val 0, .full⟩]⟩]

/-! ### SLC block (R509, R510) -/

def R.SLC_STATUS : RF := ⟨0x180000, 0x0, 0x0, 31, 0⟩
def R.SLC_STATUS_lifecycle : RF := ⟨0x180000, 0x0, 0x0, 31, 30⟩
def R.SLC_STATUS_debug : RF := ⟨0x180000, 0x0, 0x0, 29, 28⟩
def R.SLC_STATUS_show_key_loaded : RF := ⟨0x180000, 0x0, 0x0, 27, 27⟩
def R.SLC_STATUS_drbg_ready : RF := ⟨0x180000, 0x0, 0x0, 26, 26⟩
def R.SLC_STATUS_busy : RF := ⟨0x180000, 0x0, 0x0, 25, 25⟩
def R.SLC_STATUS_recovery : RF := ⟨0x180000, 0x0, 0x0, 24, 24⟩
def R.SLC_STATUS_result : RF := ⟨0x180000, 0x0, 0x0, 7, 0⟩
def R.SLC_OP : RF := ⟨0x180004, 0x0, 0x0, 31, 0⟩
def R.SLC_OP_op : RF := ⟨0x180004, 0x0, 0x0, 31, 24⟩
def R.SLC_OP_arg : RF := ⟨0x180004, 0x0, 0x0, 15, 0⟩
def R.SLC_OP_ADDR_LO : RF := ⟨0x180008, 0x0, 0x0, 31, 0⟩
def R.SLC_OP_ADDR_HI : RF := ⟨0x18000C, 0x0, 0x0, 31, 0⟩
def R.SLC_LOCKED_WRITE_COUNT : RF := ⟨0x180010, 0x0, 0x0, 31, 0⟩
def R.SLC_AUTH_FAIL_COUNT : RF := ⟨0x180014, 0x0, 0x0, 31, 0⟩
def R.SLC_DECRYPT_FAIL_COUNT : RF := ⟨0x180018, 0x0, 0x0, 31, 0⟩
def R.SLC_VIOLATION_COUNT : RF := ⟨0x18001C, 0x0, 0x0, 31, 0⟩
def R.SLC_LAST_VIOLATION : RF := ⟨0x180020, 0x0, 0x0, 31, 0⟩
def R.SLC_LAST_VIOLATION_cause : RF := ⟨0x180020, 0x0, 0x0, 31, 28⟩
def R.SLC_LAST_VIOLATION_sec : RF := ⟨0x180020, 0x0, 0x0, 27, 0⟩
def R.SLC_RANDOM : RF := ⟨0x180024, 0x0, 0x0, 31, 0⟩
def R.SLC_ROLLBACK : RF := ⟨0x180040, 0x4, 0x0, 31, 0⟩
def R.SLC_ROLLBACK_value : RF := ⟨0x180040, 0x4, 0x0, 6, 0⟩
def R.SLC_MEASURE : RF := ⟨0x180080, 0x4, 0x0, 31, 0⟩
def R.SLC_IDENTITY : RF := ⟨0x180100, 0x4, 0x0, 31, 0⟩
def R.SLC_CHALLENGE : RF := ⟨0x180180, 0x4, 0x0, 31, 0⟩
def R.SLC_SHOW_REGION_BASE : RF := ⟨0x180200, 0x8, 0x0, 31, 0⟩
def R.SLC_SHOW_REGION_BASE_base_64k : RF := ⟨0x180200, 0x8, 0x0, 17, 0⟩
def R.SLC_SHOW_REGION_SIZE : RF := ⟨0x180204, 0x8, 0x0, 31, 0⟩
def R.SLC_SHOW_REGION_SIZE_size_64k : RF := ⟨0x180204, 0x8, 0x0, 17, 0⟩

/-- Rows of the SLC block, part 0. -/
def rowsSLC0 : List RegRow := [
  ⟨R.SLC_STATUS, 1, 1, .sluice, .single, [⟨31, 30, .ro, .fuse .slcLifecycle, .full⟩, ⟨29, 28, .ro, .val 0, .full⟩, ⟨27, 27, .ro, .val 0, .full⟩, ⟨26, 26, .ro, .val 0, .full⟩, ⟨25, 25, .ro, .val 0, .full⟩, ⟨24, 24, .ro, .val 0, .full⟩, ⟨7, 0, .ro, .val 0, .full⟩]⟩,
  ⟨R.SLC_OP, 1, 1, .sluice, .single, [⟨31, 24, .wo, .val 0, .full⟩, ⟨15, 0, .wo, .val 0, .full⟩]⟩,
  ⟨R.SLC_OP_ADDR_LO, 1, 1, .sluice, .low, [⟨31, 0, .rw, .val 0, .full⟩]⟩,
  ⟨R.SLC_OP_ADDR_HI, 1, 1, .sluice, .high, [⟨31, 0, .rw, .val 0, .full⟩]⟩,
  ⟨R.SLC_LOCKED_WRITE_COUNT, 1, 1, .sluice, .single, [⟨31, 0, .ro, .val 0, .full⟩]⟩,
  ⟨R.SLC_AUTH_FAIL_COUNT, 1, 1, .sluice, .single, [⟨31, 0, .ro, .val 0, .full⟩]⟩,
  ⟨R.SLC_DECRYPT_FAIL_COUNT, 1, 1, .sluice, .single, [⟨31, 0, .ro, .val 0, .full⟩]⟩,
  ⟨R.SLC_VIOLATION_COUNT, 1, 1, .tend, .single, [⟨31, 0, .ro, .val 0, .p⟩]⟩,
  ⟨R.SLC_LAST_VIOLATION, 1, 1, .tend, .single, [⟨31, 28, .ro, .val 0, .p⟩, ⟨27, 0, .ro, .val 0, .p⟩]⟩,
  ⟨R.SLC_RANDOM, 1, 1, .sluice, .single, [⟨31, 0, .ro, .val 0, .full⟩]⟩,
  ⟨R.SLC_ROLLBACK, 4, 1, .sluice, .single, [⟨6, 0, .ro, .fuse .slcRollback, .full⟩]⟩,
  ⟨R.SLC_MEASURE, 12, 1, .sluice, .single, [⟨31, 0, .ro, .val 0, .full⟩]⟩]

/-- Rows of the SLC block, part 1. -/
def rowsSLC1 : List RegRow := [
  ⟨R.SLC_IDENTITY, 24, 1, .sluice, .single, [⟨31, 0, .ro, .fuse .slcIdentity, .full⟩]⟩,
  ⟨R.SLC_CHALLENGE, 12, 1, .sluice, .single, [⟨31, 0, .ro, .val 0, .full⟩]⟩,
  ⟨R.SLC_SHOW_REGION_BASE, 8, 1, .sluice, .single, [⟨17, 0, .rw, .val 0, .full⟩]⟩,
  ⟨R.SLC_SHOW_REGION_SIZE, 8, 1, .sluice, .single, [⟨17, 0, .rw, .val 0, .full⟩]⟩]

/-! ### UPD block (R524, R525) -/

def R.UPD_CTRL : RF := ⟨0x190000, 0x0, 0x0, 31, 0⟩
def R.UPD_CTRL_abort : RF := ⟨0x190000, 0x0, 0x0, 31, 31⟩
def R.UPD_CTRL_auto_repair : RF := ⟨0x190000, 0x0, 0x0, 30, 30⟩
def R.UPD_STATUS : RF := ⟨0x190004, 0x0, 0x0, 31, 0⟩
def R.UPD_STATUS_state : RF := ⟨0x190004, 0x0, 0x0, 31, 29⟩
def R.UPD_STATUS_slot : RF := ⟨0x190004, 0x0, 0x0, 28, 28⟩
def R.UPD_STATUS_cluster : RF := ⟨0x190004, 0x0, 0x0, 27, 27⟩
def R.UPD_STATUS_sectors_left : RF := ⟨0x190004, 0x0, 0x0, 15, 0⟩
def R.UPD_FLASH_INFO : RF := ⟨0x190008, 0x0, 0x0, 31, 0⟩
def R.UPD_FLASH_INFO_size_log2 : RF := ⟨0x190008, 0x0, 0x0, 31, 24⟩
def R.UPD_FLASH_INFO_octal : RF := ⟨0x190008, 0x0, 0x0, 23, 23⟩
def R.UPD_FLASH_INFO_erase_64k : RF := ⟨0x190008, 0x0, 0x0, 22, 22⟩
def R.UPD_REACH_STATUS : RF := ⟨0x19000C, 0x0, 0x0, 31, 0⟩
def R.UPD_REACH_STATUS_canvases : RF := ⟨0x19000C, 0x0, 0x0, 31, 28⟩
def R.UPD_REACH_STATUS_macs : RF := ⟨0x19000C, 0x0, 0x0, 27, 24⟩
def R.UPD_REACH_STATUS_rasters : RF := ⟨0x19000C, 0x0, 0x0, 23, 22⟩
def R.UPD_REACH_STATUS_clusters : RF := ⟨0x19000C, 0x0, 0x0, 21, 20⟩
def R.UPD_REACH_STATUS_laterals : RF := ⟨0x19000C, 0x0, 0x0, 7, 0⟩
def R.UPD_BOOT_STATUS : RF := ⟨0x190010, 0x0, 0x0, 31, 0⟩
def R.UPD_BOOT_STATUS_last_ok : RF := ⟨0x190010, 0x0, 0x0, 31, 31⟩
def R.UPD_BOOT_STATUS_cause : RF := ⟨0x190010, 0x0, 0x0, 30, 28⟩
def R.UPD_BOOT_STATUS_fail_count : RF := ⟨0x190010, 0x0, 0x0, 15, 0⟩
def R.UPD_SLOT_BASE : RF := ⟨0x190020, 0x8, 0x0, 31, 0⟩
def R.UPD_SLOT_BASE_base_64k : RF := ⟨0x190020, 0x8, 0x0, 17, 0⟩
def R.UPD_SLOT_STATUS : RF := ⟨0x190024, 0x8, 0x0, 31, 0⟩
def R.UPD_SLOT_STATUS_state : RF := ⟨0x190024, 0x8, 0x0, 31, 30⟩
def R.UPD_SLOT_STATUS_bytes : RF := ⟨0x190024, 0x8, 0x0, 25, 0⟩
def R.UPD_SIG_FAIL_COUNT : RF := ⟨0x190040, 0x0, 0x0, 31, 0⟩
def R.UPD_FLASH_RETRY_COUNT : RF := ⟨0x190044, 0x0, 0x0, 31, 0⟩
def R.UPD_REPAIR_COUNT : RF := ⟨0x190048, 0x0, 0x0, 31, 0⟩
def R.UPD_REPAIR_FULL_COUNT : RF := ⟨0x19004C, 0x0, 0x0, 31, 0⟩
def R.UPD_REPAIR_USED : RF := ⟨0x190050, 0x4, 0x0, 31, 0⟩
def R.UPD_REPAIR_USED_rows : RF := ⟨0x190050, 0x4, 0x0, 5, 0⟩

/-- Rows of the UPD block, part 0. -/
def rowsUPD0 : List RegRow := [
  ⟨R.UPD_CTRL, 1, 1, .sys, .single, [⟨31, 31, .wo, .val 0, .full⟩, ⟨30, 30, .rw, .val 0, .full⟩]⟩,
  ⟨R.UPD_STATUS, 1, 1, .sys, .single, [⟨31, 29, .ro, .val 0, .full⟩, ⟨28, 28, .ro, .val 0, .full⟩, ⟨27, 27, .ro, .val 0, .full⟩, ⟨15, 0, .ro, .val 0, .full⟩]⟩,
  ⟨R.UPD_FLASH_INFO, 1, 1, .sys, .single, [⟨31, 24, .ro, .val 0, .full⟩, ⟨23, 23, .ro, .val 0, .full⟩, ⟨22, 22, .ro, .val 0, .full⟩]⟩,
  ⟨R.UPD_REACH_STATUS, 1, 1, .sys, .single, [⟨31, 28, .ro, .val 0, .full⟩, ⟨27, 24, .ro, .val 0, .full⟩, ⟨23, 22, .ro, .val 0, .full⟩, ⟨21, 20, .ro, .val 0, .full⟩, ⟨7, 0, .ro, .val 0, .full⟩]⟩,
  ⟨R.UPD_BOOT_STATUS, 1, 1, .tend, .single, [⟨31, 31, .ro, .val 0, .p⟩, ⟨30, 28, .ro, .val 0, .p⟩, ⟨15, 0, .ro, .val 0, .p⟩]⟩,
  ⟨R.UPD_SLOT_BASE, 2, 1, .sys, .single, [⟨17, 0, .rw, .val 0, .full⟩]⟩,
  ⟨R.UPD_SLOT_STATUS, 2, 1, .sys, .single, [⟨31, 30, .ro, .val 0, .full⟩, ⟨25, 0, .ro, .val 0, .full⟩]⟩,
  ⟨R.UPD_SIG_FAIL_COUNT, 1, 1, .sys, .single, [⟨31, 0, .ro, .val 0, .full⟩]⟩,
  ⟨R.UPD_FLASH_RETRY_COUNT, 1, 1, .sys, .single, [⟨31, 0, .ro, .val 0, .full⟩]⟩,
  ⟨R.UPD_REPAIR_COUNT, 1, 1, .sys, .single, [⟨31, 0, .ro, .val 0, .full⟩]⟩,
  ⟨R.UPD_REPAIR_FULL_COUNT, 1, 1, .sys, .single, [⟨31, 0, .ro, .val 0, .full⟩]⟩,
  ⟨R.UPD_REPAIR_USED, 2, 1, .sys, .single, [⟨5, 0, .ro, .val 0, .full⟩]⟩]

/-! ### GA block (R542, R543) -/

def R.GA_EXPECT_BASE : RF := ⟨0x1A0000, 0x0, 0x0, 31, 0⟩
def R.GA_EXPECT_BASE_base_64k : RF := ⟨0x1A0000, 0x0, 0x0, 17, 0⟩
def R.GA_CFG : RF := ⟨0x1A0100, 0x40, 0x0, 31, 0⟩
def R.GA_CFG_enable : RF := ⟨0x1A0100, 0x40, 0x0, 31, 31⟩
def R.GA_CFG_source : RF := ⟨0x1A0100, 0x40, 0x0, 30, 29⟩
def R.GA_CFG_compare : RF := ⟨0x1A0100, 0x40, 0x0, 28, 27⟩
def R.GA_CFG_refin : RF := ⟨0x1A0100, 0x40, 0x0, 26, 26⟩
def R.GA_CFG_refout : RF := ⟨0x1A0100, 0x40, 0x0, 25, 25⟩
def R.GA_CFG_width_m1 : RF := ⟨0x1A0100, 0x40, 0x0, 20, 16⟩
def R.GA_CFG_alive_limit : RF := ⟨0x1A0100, 0x40, 0x0, 15, 8⟩
def R.GA_POLY : RF := ⟨0x1A0104, 0x40, 0x0, 31, 0⟩
def R.GA_INIT : RF := ⟨0x1A0108, 0x40, 0x0, 31, 0⟩
def R.GA_XOROUT : RF := ⟨0x1A010C, 0x40, 0x0, 31, 0⟩
def R.GA_EXPECT : RF := ⟨0x1A0110, 0x40, 0x0, 31, 0⟩
def R.GA_RUN : RF := ⟨0x1A0114, 0x40, 0x0, 31, 0⟩
def R.GA_DATA : RF := ⟨0x1A0118, 0x40, 0x0, 31, 0⟩
def R.GA_DATA8 : RF := ⟨0x1A011C, 0x40, 0x0, 31, 0⟩
def R.GA_DATA8_data : RF := ⟨0x1A011C, 0x40, 0x0, 7, 0⟩
def R.GA_FINISH : RF := ⟨0x1A0120, 0x40, 0x0, 31, 0⟩
def R.GA_RESULT : RF := ⟨0x1A0124, 0x40, 0x0, 31, 0⟩
def R.GA_RESULT_FRAME : RF := ⟨0x1A0128, 0x40, 0x0, 31, 0⟩
def R.GA_STATUS : RF := ⟨0x1A012C, 0x40, 0x0, 31, 0⟩
def R.GA_STATUS_mismatch_last : RF := ⟨0x1A012C, 0x40, 0x0, 31, 31⟩
def R.GA_STATUS_irq_pending : RF := ⟨0x1A012C, 0x40, 0x0, 30, 30⟩
def R.GA_STATUS_stalled : RF := ⟨0x1A012C, 0x40, 0x0, 29, 29⟩
def R.GA_STATUS_open : RF := ⟨0x1A012C, 0x40, 0x0, 28, 28⟩
def R.GA_STATUS_alive : RF := ⟨0x1A012C, 0x40, 0x0, 7, 0⟩
def R.GA_MISMATCH_COUNT : RF := ⟨0x1A0130, 0x40, 0x0, 31, 0⟩
def R.GA_SKIP_COUNT : RF := ⟨0x1A0134, 0x40, 0x0, 31, 0⟩
def R.GA_STALL_COUNT : RF := ⟨0x1A0138, 0x40, 0x0, 31, 0⟩

/-- Rows of the GA block, part 0. -/
def rowsGA0 : List RegRow := [
  ⟨R.GA_EXPECT_BASE, 1, 1, .sys, .single, [⟨17, 0, .rw, .val 0, .full⟩]⟩,
  ⟨R.GA_CFG, 16, 1, .sys, .single, [⟨31, 31, .rw, .val 0, .full⟩, ⟨30, 29, .rw, .val 0, .full⟩, ⟨28, 27, .rw, .val 0, .full⟩, ⟨26, 26, .rw, .val 1, .full⟩, ⟨25, 25, .rw, .val 1, .full⟩, ⟨20, 16, .rw, .val 31, .full⟩, ⟨15, 8, .rw, .val 0, .full⟩]⟩,
  ⟨R.GA_POLY, 16, 1, .sys, .single, [⟨31, 0, .rw, .val 0x1EDC6F41, .full⟩]⟩,
  ⟨R.GA_INIT, 16, 1, .sys, .single, [⟨31, 0, .rw, .val 0xFFFFFFFF, .full⟩]⟩,
  ⟨R.GA_XOROUT, 16, 1, .sys, .single, [⟨31, 0, .rw, .val 0xFFFFFFFF, .full⟩]⟩,
  ⟨R.GA_EXPECT, 16, 1, .sys, .single, [⟨31, 0, .rw, .val 0, .full⟩]⟩,
  ⟨R.GA_RUN, 16, 1, .sys, .single, [⟨31, 0, .rw, .val 0, .full⟩]⟩,
  ⟨R.GA_DATA, 16, 1, .sys, .single, [⟨31, 0, .wo, .val 0, .full⟩]⟩,
  ⟨R.GA_DATA8, 16, 1, .sys, .single, [⟨7, 0, .wo, .val 0, .full⟩]⟩,
  ⟨R.GA_FINISH, 16, 1, .sys, .single, [⟨31, 0, .wo, .val 0, .full⟩]⟩,
  ⟨R.GA_RESULT, 16, 1, .sys, .single, [⟨31, 0, .ro, .val 0, .full⟩]⟩,
  ⟨R.GA_RESULT_FRAME, 16, 1, .sys, .single, [⟨31, 0, .ro, .val 0, .full⟩]⟩]

/-- Rows of the GA block, part 1. -/
def rowsGA1 : List RegRow := [
  ⟨R.GA_STATUS, 16, 1, .sys, .single, [⟨31, 31, .ro, .val 0, .full⟩, ⟨30, 30, .w1c, .val 0, .full⟩, ⟨29, 29, .ro, .val 0, .full⟩, ⟨28, 28, .ro, .val 0, .full⟩, ⟨7, 0, .ro, .val 0, .full⟩]⟩,
  ⟨R.GA_MISMATCH_COUNT, 16, 1, .sys, .single, [⟨31, 0, .ro, .val 0, .full⟩]⟩,
  ⟨R.GA_SKIP_COUNT, 16, 1, .sys, .single, [⟨31, 0, .ro, .val 0, .full⟩]⟩,
  ⟨R.GA_STALL_COUNT, 16, 1, .sys, .single, [⟨31, 0, .ro, .val 0, .full⟩]⟩]

/-! ### SLT block (R542, R543) -/

def R.SLT_CTRL : RF := ⟨0x1B0000, 0x0, 0x0, 31, 0⟩
def R.SLT_CTRL_irq_enable : RF := ⟨0x1B0000, 0x0, 0x0, 31, 31⟩
def R.SLT_STATUS : RF := ⟨0x1B0004, 0x0, 0x0, 31, 0⟩
def R.SLT_STATUS_full : RF := ⟨0x1B0004, 0x0, 0x0, 31, 31⟩
def R.SLT_STATUS_used : RF := ⟨0x1B0004, 0x0, 0x0, 10, 0⟩
def R.SLT_ACK : RF := ⟨0x1B0008, 0x0, 0x0, 31, 0⟩
def R.SLT_ACK_release : RF := ⟨0x1B0008, 0x0, 0x0, 31, 31⟩
def R.SLT_ACK_entry : RF := ⟨0x1B0008, 0x0, 0x0, 9, 0⟩
def R.SLT_DROP_COUNT : RF := ⟨0x1B000C, 0x0, 0x0, 31, 0⟩
def R.SLT_CLASS_MASK : RF := ⟨0x1B0010, 0x4, 0x0, 31, 0⟩
def R.SLT_ENTRY : RF := ⟨0x1B8000, 0x20, 0x4, 31, 0⟩

/-- Rows of the SLT block, part 0. -/
def rowsSLT0 : List RegRow := [
  ⟨R.SLT_CTRL, 1, 1, .sys, .single, [⟨31, 31, .rw, .val 1, .full⟩]⟩,
  ⟨R.SLT_STATUS, 1, 1, .sys, .single, [⟨31, 31, .ro, .val 0, .full⟩, ⟨10, 0, .ro, .val 0, .full⟩]⟩,
  ⟨R.SLT_ACK, 1, 1, .sys, .single, [⟨31, 31, .wo, .val 0, .full⟩, ⟨9, 0, .wo, .val 0, .full⟩]⟩,
  ⟨R.SLT_DROP_COUNT, 1, 1, .sys, .single, [⟨31, 0, .ro, .val 0, .full⟩]⟩,
  ⟨R.SLT_CLASS_MASK, 2, 1, .sys, .single, [⟨31, 0, .rw, .val 0, .full⟩]⟩,
  ⟨R.SLT_ENTRY, 1024, 8, .sys, .single, [⟨31, 0, .ro, .val 0, .full⟩]⟩]

/-! ### RST block (R555, R556) -/

def R.RST_CTRL : RF := ⟨0x1C0000, 0x0, 0x0, 31, 0⟩
def R.RST_CTRL_warm : RF := ⟨0x1C0000, 0x0, 0x0, 31, 31⟩
def R.RST_CTRL_basin_local : RF := ⟨0x1C0000, 0x0, 0x0, 30, 30⟩
def R.RST_CTRL_key : RF := ⟨0x1C0000, 0x0, 0x0, 15, 0⟩
def R.RST_DOMAIN : RF := ⟨0x1C0004, 0x0, 0x0, 31, 0⟩
def R.RST_DOMAIN_domain : RF := ⟨0x1C0004, 0x0, 0x0, 11, 0⟩
def R.RST_CAUSE : RF := ⟨0x1C0008, 0x0, 0x0, 31, 0⟩
def R.RST_CAUSE_por : RF := ⟨0x1C0008, 0x0, 0x0, 31, 31⟩
def R.RST_CAUSE_pin : RF := ⟨0x1C0008, 0x0, 0x0, 30, 30⟩
def R.RST_CAUSE_rail : RF := ⟨0x1C0008, 0x0, 0x0, 29, 29⟩
def R.RST_CAUSE_brownout : RF := ⟨0x1C0008, 0x0, 0x0, 28, 28⟩
def R.RST_CAUSE_warm : RF := ⟨0x1C0008, 0x0, 0x0, 27, 27⟩
def R.RST_CAUSE_sluice : RF := ⟨0x1C0008, 0x0, 0x0, 26, 26⟩
def R.RST_CAUSE_basin : RF := ⟨0x1C0008, 0x0, 0x0, 25, 25⟩
def R.RST_CAUSE_dormant : RF := ⟨0x1C0008, 0x0, 0x0, 24, 24⟩
def R.RST_CAUSE_watch : RF := ⟨0x1C0008, 0x0, 0x0, 23, 23⟩
def R.RST_CAUSE_last : RF := ⟨0x1C0008, 0x0, 0x0, 3, 0⟩
def R.RST_STARTUP_MS : RF := ⟨0x1C000C, 0x0, 0x0, 31, 0⟩
def R.RST_STARTUP_MS_ms : RF := ⟨0x1C000C, 0x0, 0x0, 15, 0⟩
def R.RST_COUNT : RF := ⟨0x1C0010, 0x4, 0x0, 31, 0⟩

/-- Rows of the RST block, part 0. -/
def rowsRST0 : List RegRow := [
  ⟨R.RST_CTRL, 1, 1, .sys, .single, [⟨31, 31, .wo, .val 0, .full⟩, ⟨30, 30, .wo, .val 0, .full⟩, ⟨15, 0, .wo, .val 0, .full⟩]⟩,
  ⟨R.RST_DOMAIN, 1, 1, .sys, .single, [⟨11, 0, .wo, .val 0, .full⟩]⟩,
  ⟨R.RST_CAUSE, 1, 1, .tend, .single, [⟨31, 31, .w1c, .val 1, .p⟩, ⟨30, 30, .w1c, .val 0, .p⟩, ⟨29, 29, .w1c, .val 0, .p⟩, ⟨28, 28, .w1c, .val 0, .p⟩, ⟨27, 27, .w1c, .val 0, .p⟩, ⟨26, 26, .w1c, .val 0, .p⟩, ⟨25, 25, .w1c, .val 0, .p⟩, ⟨24, 24, .w1c, .val 0, .p⟩, ⟨23, 23, .w1c, .val 0, .p⟩, ⟨3, 0, .ro, .val 0, .p⟩]⟩,
  ⟨R.RST_STARTUP_MS, 1, 1, .tend, .single, [⟨15, 0, .ro, .val 0, .p⟩]⟩,
  ⟨R.RST_COUNT, 6, 1, .tend, .single, [⟨31, 0, .ro, .val 0, .p⟩]⟩]

/-- The rows of the block that holds an offset (R557), empty outside the 24 blocks. -/
def blockRows (off : Nat) : List RegRow :=
  if off < 0x10000 then rowsGLB0 ++ rowsGLB1
  else if off < 0x20000 then rowsHOST0 ++ rowsHOST1
  else if off < 0x30000 then rowsDR0 ++ rowsDR1
  else if off < 0x40000 then rowsPF0 ++ rowsPF1
  else if off < 0x50000 then rowsRL0
  else if off < 0x60000 then rowsCMP0 ++ rowsCMP1
  else if off < 0x70000 then rowsCLR0
  else if off < 0x80000 then rowsWM0 ++ rowsWM1
  else if off < 0x100000 then rowsFL0
  else if off < 0x110000 then rowsPT0
  else if off < 0x120000 then rowsFUR0 ++ rowsFUR1
  else if off < 0x130000 then rowsNET0 ++ rowsNET1 ++ rowsNET2 ++ rowsNET3
  else if off < 0x140000 then rowsTIM0 ++ rowsTIM1 ++ rowsTIM2
  else if off < 0x150000 then rowsRAS0
  else if off < 0x158000 then rowsBSN0 ++ rowsBSN1
  else if off < 0x160000 then rowsSIP0 ++ rowsSIP1
  else if off < 0x170000 then rowsPM0 ++ rowsPM1 ++ rowsPM2
  else if off < 0x178000 then rowsTH0 ++ rowsTH1
  else if off < 0x180000 then rowsCAL0
  else if off < 0x190000 then rowsSLC0 ++ rowsSLC1
  else if off < 0x1A0000 then rowsUPD0
  else if off < 0x1B0000 then rowsGA0 ++ rowsGA1
  else if off < 0x1C0000 then rowsSLT0
  else if off < 0x1D0000 then rowsRST0
  else []

/-- Every row of the map. -/
def regTable : List RegRow :=
  rowsGLB0 ++ rowsGLB1 ++
  rowsHOST0 ++ rowsHOST1 ++
  rowsDR0 ++ rowsDR1 ++
  rowsPF0 ++ rowsPF1 ++
  rowsRL0 ++
  rowsCMP0 ++ rowsCMP1 ++
  rowsCLR0 ++
  rowsWM0 ++ rowsWM1 ++
  rowsFL0 ++
  rowsPT0 ++
  rowsFUR0 ++ rowsFUR1 ++
  rowsNET0 ++ rowsNET1 ++ rowsNET2 ++ rowsNET3 ++
  rowsTIM0 ++ rowsTIM1 ++ rowsTIM2 ++
  rowsRAS0 ++
  rowsBSN0 ++ rowsBSN1 ++
  rowsSIP0 ++ rowsSIP1 ++
  rowsPM0 ++ rowsPM1 ++ rowsPM2 ++
  rowsTH0 ++ rowsTH1 ++
  rowsCAL0 ++
  rowsSLC0 ++ rowsSLC1 ++
  rowsUPD0 ++
  rowsGA0 ++ rowsGA1 ++
  rowsSLT0 ++
  rowsRST0

/-- The instance that an offset names in a row: its two indices, if the row holds it. -/
def RegRow.inst (r : RegRow) (off : Nat) : Option (Nat × Nat) :=
  if off < r.reg.base then none
  else
    let d := off - r.reg.base
    let i := if r.reg.s1 = 0 then 0 else d / r.reg.s1
    let e := d - i * r.reg.s1
    let j := if r.reg.s2 = 0 then 0 else e / r.reg.s2
    if i < r.n1 ∧ j < r.n2 ∧ e = j * r.reg.s2 then some (i, j) else none

/-- The row and instance of an offset in a list of rows. -/
def findIn (off : Nat) : List RegRow → Option (RegRow × Nat × Nat)
  | [] => none
  | r :: t =>
    match r.inst off with
    | some (i, j) => some (r, i, j)
    | none => findIn off t

/-- The register at a BAR0 offset, `none` where no block table names it (R11). -/
def findReg (off : Nat) : Option (RegRow × Nat × Nat) := findIn off (blockRows off)

/-- The index that a per-instance reset value goes by: the last index of the register. -/
def RegRow.idx (r : RegRow) (i j : Nat) : Nat := if r.n2 = 1 then i else j

/-- A reset value of R14 for an instance. -/
def RVal.at (v : RVal) (k : Nat) : Nat :=
  match v with
  | .val n => n
  | .index => k
  | .list l => l.getD k 0
  | .fuse f => Config.fuse f k

/-- Put `v` into bits `hi..lo` of `w`. -/
def putBits (w : Word) (hi lo v : Nat) : Word :=
  let m := 2 ^ (hi + 1 - lo)
  BitVec.ofNat 32 (w.toNat - (w.toNat / 2 ^ lo % m) * 2 ^ lo + (v % m) * 2 ^ lo)

/-- Bits `hi..lo` of `w`. -/
def getBits (w : Word) (hi lo : Nat) : Nat := w.toNat / 2 ^ lo % 2 ^ (hi + 1 - lo)

/-- The word whose fields hold their reset values. -/
def RegRow.resetWord (r : RegRow) (i j : Nat) : Word :=
  r.fields.foldl (fun w f => putBits w f.hi f.lo (f.reset.at (r.idx i j))) 0

/-- What the register at an offset holds at its Reset column; 0 where none is (R11, R14). -/
def regReset (off : Nat) : Word :=
  match findReg off with
  | some (r, i, j) => r.resetWord i j
  | none => 0

end Sys2Proof.Machine
end

