-- ==== Sys2Proof/Machine/State.lean ====
section
/-! DEFINITION. The state of the block as plain data, and the state right after reset. Registers that BAR0 shows are
held once, in `regs`; what the spec describes beside them (queues, pools, tables, memories, engines) stands in the
records below, each named after the chapter that gives it. -/

namespace Sys2Proof.Machine

/-! ### Outcomes other than a next state -/

/-- No command of this block faults: the spec gives every access, even one that fails, an effect (an access error, a
status, an all-ones read), and that effect is the next state. The type is closed and has no constructor. -/
inductive Fault where
deriving DecidableEq, Repr

/-- The reasons for which a command has no meaning here. -/
inductive Refusal where
  /-- Raised by an arm of `exec` whose command is not modelled. Safe: nothing can be proved of a next state. -/
  | notModelled (mnemonic : String)
deriving DecidableEq, Repr

/-! ### Memories -/

/-- Sparse bytes: addresses strictly rising, no entry equal to 0, the value of an unlisted byte (R122, R550). -/
abbrev Memory := List Host.Cell

/-- The memories of the spec: the Reservoir (R58, 16 GiB), the Cistern (R41, 96 MiB), the cores' private scratchpads
(R115; core `n` from `n * 2 ^ 21`, at its core-space addresses) and the clusters' shared pools (cluster `c` from
`c * 2 ^ 23`), with the words whose ECC is uncorrectable (R121). -/
structure Mem where
  reservoir : Memory := []
  cistern : Memory := []
  pads : Memory := []
  pools : Memory := []
  badPads : List Nat := []
  badPools : List Nat := []
deriving DecidableEq, Repr

/-! ### What leaves the device -/

/-- How a port's serializer and launch stage shape what leaves on Pppp_TX: `tx_invert` of its entry, the edge trims in force in
125 ps (R271), the times of its mode (DMX: break, mark after break and mark between slots in µs; SINGLE_WIRE: bit period and the high
times of 0 and 1 in ns; CLOCKED: the clock period in ns), and the byte at which the launch-timed unit starts (R277). -/
structure Wire where
  invert : Bool := false
  rise : Int := 0
  fall : Int := 0
  times : List Nat := []
  mark : Option Nat := none
deriving DecidableEq, Repr

/-- One thing that leaves the device's balls or its PCIe function; `State.out` holds them, newest first. -/
inductive Emission where
  /-- A posted DMA write to host memory. -/
  | hostWrite (addr : Nat) (bytes : List Byte)
  /-- An MSI-X message: its vector, and the write of `data` to `addr` that its table entry asks for. -/
  | msix (vector addr data : Nat)
  /-- The answer to a configuration request or to a read of BAR4; `none` is Configuration Request Retry Status (R551). -/
  | pcieAnswer (value : Option Nat)
  /-- The bytes that a BAR2 read returns (R41). -/
  | bar2Data (bytes : List Byte)
  /-- The answer to a register read by a requester (R557). -/
  | readData (requester offset value : Nat)
  /-- The answer to a core's load, CSR read or fetch that another part of the platform consumes. -/
  | coreData (core value : Nat)
  /-- An Ethernet frame leaves a MAC. -/
  | netFrame (mac : Nat) (bytes : List Byte)
  /-- A PMBus write: bus, address, code, its data bytes, and its packet error code where the zone asks for one (R244). -/
  | pmbus (bus addr code : Nat) (data : List Byte) (pec : Option Byte)
  /-- A port's line event: its port, what it is (`0` DMX break, `1` a line's start, `2` latch, `4` RDM request), how it is
  shaped, and its bytes. -/
  | line (port kind : Nat) (wire : Wire) (bytes : List Byte)
  /-- The 8b/10b code groups that leave a port, the K28.5 fill before them included (R291). -/
  | symbols (port : Nat) (wire : Wire) (codes : List Nat)
  /-- A message down or up a Dravud port (16 is the up port). -/
  | dravud (port : Nat) (words : List Nat)
  /-- A transfer unit over the Siphon link: what it carries, and its sealed bytes with their tag (R497). The nonce of a link-up goes
  in clear. -/
  | siphon (kind : Nat) (words : List Nat)
  /-- A gate output's pulse: gate, width in ns, active level. -/
  | gate (g width : Nat) (level : Bool)
  /-- A raster output's event: output, kind (`0` idle pattern, `1` picture, `2` off, `3` black in its timing); with a picture the
  colorimetry that the MSA sends (R387), and the first of the image's columns that the output carries with their number (R399). -/
  | raster (output kind : Nat) (colorimetry column columns : Nat := 0)
  /-- A power-sequencer ball: enable `i` driven to a level. -/
  | railEnable (i : Nat) (level : Bool)
  /-- SMBus: the byte answered, or no acknowledgement. -/
  | smbus (ack : Bool) (bytes : List Byte)
  /-- A boot-flash operation: sector number and its bytes. -/
  | flash (sector : Nat) (bytes : List Byte)
  /-- The TND_ACT ball toggles, or takes a level. -/
  | tndAct (level : Bool)
  /-- Data shifted out by the TAP. -/
  | jtag (value : Nat)
deriving DecidableEq, Repr

/-! ### Host rings (chapter 2) -/

/-- The PCIe function: link up; the MSI-X capability's enable and function mask, the mask and pending bits of the vectors, and
words 0..2 (address low, high, data) of their entries of the MSI-X table, by key `4 * vector + word` (R39, R44, R565); the words
that the host has written to the base address registers, by word of the configuration space; the subsystem IDs (vendor, device)
that the boot image gave (R551); and the ranges of host memory that fail. -/
structure Pcie where
  linkUp : Bool := true
  msixOn : Bool := false
  msixMasked : Bool := false
  mask : BitVec 64 := 0xFFFFFFFFFFFFFFFF
  pending : BitVec 64 := 0
  entries : List (Nat × Word) := []
  bars : List (Nat × Word) := []
  subsystem : BitVec 16 × BitVec 16 := (0x1F3C, 0x8256)
  fails : List (Nat × Nat) := []
deriving DecidableEq, Repr

/-- What the device keeps of one ring beside its registers (R48, R49, R52, R53, R70). -/
structure Ring where
  sqTail : Nat := 0
  cqHead : Nat := 0
  cqTail : Nat := 0
  unsignalled : Nat := 0
  unsignalledSince : Nat := 0
  stalled : Bool := false
deriving DecidableEq, Repr

/-- A descriptor fetched and not started: its ring, its sixteen words, its target frame extended under R56, whether its hold
under R54 has been counted, and whether it asks a second lateral or cluster into service (R33). -/
structure Fetched where
  ring : Nat
  words : List Word
  target : Nat
  held : Bool := false
  busy : Bool := false
deriving DecidableEq, Repr

/-- A descriptor started and not completed: the frame at whose input cut it acts, whether that is late (R57), whether it
has been applied, and the counts its command keeps: frames fetched, bytes received, a torn mark, the staging number a
COMMIT takes writes up to, the bytes it brought, the pieces of memory that its addressing named, whether it is a
basin's COMMIT, whose result is an event (R418), whether it came in a standby's ledger and completes with nothing (R432), and whether its fetch found it asking a second reach into service (R33). -/
structure Flight where
  id : Nat
  ring : Nat
  words : List Word
  target : Nat
  late : Bool := false
  applied : Bool := false
  count : Nat := 0
  torn : Bool := false
  upTo : Nat := 0
  got : List Byte := []
  parts : List (Nat × Nat) := []
  basin : Bool := false
  shadow : Bool := false
  busy : Bool := false
deriving DecidableEq, Repr

/-- A staged write (R61, R62): its table, its place, its bytes, and its staging number. -/
structure Staged where
  cls : Nat
  inst : Nat
  offset : Nat
  bytes : List Byte
  number : Nat
deriving DecidableEq, Repr

/-- The ring engine (PD_SYS, R45). -/
structure Rings where
  ring : List (Nat × Ring) := []
  lastServed : List (Nat × Nat) := []
  inbox : List Fetched := []
  flight : List Flight := []
  nextId : Nat := 0
  events : List (Nat × Nat) := []
  eventsDropped : Nat := 0
  staged : List Staged := []
  stageNext : Nat := 0
  pollStart : Nat := 0
  nudgePending : Bool := false
deriving DecidableEq, Repr

/-! ### Cue cores and Ditchrider (chapter 3) -/

/-- A cue core (R86..R92): integer and floating registers, pc, the CSRs by number, its LR/SC reservation in the pool,
the task dispatched to it (a pool index), the family it last retired, its software interrupt, the uncorrectable words not yet
reported to it (whether of the pool, and the word's key), the destination register of a `dr.take` it waits in, and a debugger's
hold on it (`0` none, `1` halted, `2` one instruction, then halted). -/
structure Core where
  x : List (Nat × Word) := []
  f : List (Nat × Word) := []
  pc : Word := 0
  csr : List (Nat × Word) := []
  resv : Option Nat := none
  task : Option Nat := none
  lastFamily : Option Nat := none
  msip : Bool := false
  errs : List (Bool × Nat) := []
  waiting : Option Nat := none
  lns : Word := 0
  halt : Nat := 0
deriving DecidableEq, Repr

/-- Where a task stands (R96, R102). -/
inductive TaskSt where
  | waiting | ready | dispatched
deriving DecidableEq, Repr

/-- A task in the Ditchrider's pool (R96..R99): `kind` 0 ONE_SHOT, 1 PERIODIC, 2 EVENT; `host` the flight of its
POST_TASK; `events` the firings its release covers; `held` those of the release held under R102; `since` the TIME cycle
at which it joined its list. -/
structure Task where
  gen : Nat
  kind : Nat
  family : Nat
  source : Nat
  hint : Nat
  prio : Nat
  args : List Word
  host : Option Nat := none
  hostHandle : Nat := 0
  st : TaskSt := .waiting
  events : Nat := 0
  held : Nat := 0
  late : Bool := false
  ended : Bool := false
  frame : Nat := 0
  since : Nat := 0
  core : Nat := 0
  ledgerPos : Nat := 0
deriving DecidableEq, Repr

/-- The Ditchrider (PD_SYS): the pool, the generations its descriptors have had, the sixteen ready lists (key
`8 * cluster + priority`), and the cores waiting in `dr.take`, longest first; the clusters that
drain; and whether dispatch waits for the next input cut (R111). -/
structure Ditch where
  pool : List (Nat × Option Task) := []
  gens : List (Nat × Nat) := []
  ready : List (Nat × List Nat) := []
  waiting : List Nat := []
  draining : List (Nat × Bool) := []
  paused : Bool := false
deriving DecidableEq, Repr

/-! ### Gauges and the Silt trap (chapter 19) -/

/-- A fault report (R534). -/
structure Fltrep where
  cls : Nat
  origin : Nat
  detail : Nat
deriving DecidableEq, Repr

/-- An entry of the Silt trap (R535, R536, R538): `st` 0 FREE, 1 OPEN, 2 QUIET. -/
structure Silt where
  st : Nat := 0
  seen : Bool := false
  pending : Bool := false
  window : Bool := false
  cls : Nat := 0
  count : Nat := 0
  located : Nat := 0
  firstOrigin : Nat := 0
  lastOrigin : Nat := 0
  detail : Nat := 0
  firstSec : Nat := 0
  lastSec : Nat := 0
  frame : Nat := 0
  lastTick : Nat := 0
deriving DecidableEq, Repr

/-- The Silt trap's table and the reports not yet taken in (R536 takes them at the cycle's end). -/
structure SiltTrap where
  entries : List (Nat × Silt) := []
  incoming : List Fltrep := []
deriving DecidableEq, Repr

/-- A Gauge unit's state beside its registers: the due frames in a row without a completed check, and whether one has
completed since the latest frame instant (R532). -/
structure Gauge where
  missed : Nat := 0
  done : Bool := false
deriving DecidableEq, Repr

/-! ### TIME (chapter 12) -/

/-- A time base (R357, R360): `t` counts 2^-16 ns, `sub` the part below that in 2^-27 of it, `rate` the rate word,
`st` its state and `prior` the one before ACQUIRING, `run` the consecutive samples that confirm the master and `beyond`
those of them past the step threshold, `acc` the servo's accumulator in 2^-16 ns times 2^-16 ns, the latest sample's
instant (a reading of LOCAL) and master time, the cycle at which HOLDOVER began and the cycles spent in it before, since the base
was last LOCKED, and the latest steps, as the LOCAL reading and the amount of each, which a tally stamp looks back over (R377). -/
structure Base where
  t : Int := 0
  sub : Nat := 0
  rate : Int := 0
  st : Nat := 0
  prior : Nat := 0
  run : Nat := 0
  beyond : Nat := 0
  acc : Int := 0
  lastLocal : Int := 0
  lastMaster : Int := 0
  sampled : Bool := false
  holdSince : Nat := 0
  held : Nat := 0
  limitSent : Bool := false
  jumps : List (Int × Int) := []
deriving DecidableEq, Repr

/-- The frame clock (R368..R374, R590): the frame instants in hand by frame number, read in the lock base `onBase` (coded
as `lock_source`); the SHOW readings S by frame number; the frame until whose instant `placing` stands; the latest frame
whose input cut has come, whether its cue deadline has; the latest frame whose staging deadline has come; whether the
frame of the latest cut is being evaluated, and whether it is staged; the frame whose content is being read out; whether the frame in read-out repeats; the
armed launch instants; the `show_mode` under which the S of a frame was fixed; and the TIME cycle at which the evaluation period in progress began, with the period P of the lattice in
force then, in 2^-16 ns (R589). -/
structure FrameClock where
  tf : List (Nat × Int) := [(1, 2184533333333)]
  sh : List (Nat × Int) := []
  onBase : Nat := 2
  placing : Option Nat := none
  cutFrame : Nat := 0
  cueClosed : Bool := false
  stageFrame : Nat := 0
  evaluating : Bool := false
  staged : Bool := false
  contentLast : Nat := 0
  repeatNow : Bool := false
  armed : List (Nat × Int) := []
  periodAt : Nat := 0
  period : Int := 0
  modes : List (Nat × Nat) := []
deriving DecidableEq, Repr

/-- A tally queue entry (R378). -/
structure TallyEntry where
  gap : Bool := false
  rising : Bool := false
  tally : Nat := 0
  base : Nat := 0
  frame : Nat := 0
  t : Int := 0
  dropped : Nat := 0
deriving DecidableEq, Repr

/-- The schedule of a gate output (R380, R381): the reading at which its next pulse is due, or in FRAME mode the first frame
whose pulse is still to come. -/
structure Gate where
  armed : Bool := false
  next : Int := 0
  frame : Nat := 0
  left : Nat := 0
  endless : Bool := false
deriving DecidableEq, Repr

/-- The decoder of LTC on an audio channel (R365, R366): its latest sample (count of media ticks, value), the instant of the latest
zero crossing, the start of a bit whose first half has gone by, the bits taken, newest first, each with the instant of its first
transition, and whether they began behind a sync word. Instants are PTP readings. -/
structure LtcIn where
  last : Option (Nat × Int) := none
  cross : Option Int := none
  half : Option Int := none
  bits : List (Bool × Int) := []
  synced : Bool := false
deriving DecidableEq, Repr

/-- The TIME unit (PD_NET). `cycles` counts TIME clock cycles and is the model's measure of elapsed time; `drv` is the
frame clock's own base while it follows a parent or an active (R414). Tender time (PD_TEND) counts 1/32,768 s in
`tendTicks` from when its crystal runs; LOCAL is kept across a loss of PD_NET with the Tender time of that moment
(R359). -/
structure Time where
  cycles : Nat := 0
  ptp : Base := {}
  tcode : Base := {}
  loc : Base := {}
  drv : Base := {}
  clock : FrameClock := {}
  tally : List TallyEntry := []
  tallyGap : Nat := 0
  tallyLedger : List TallyEntry := []
  gates : List (Nat × Gate) := []
  ltcHms : Option Nat := none
  ltcDay : Nat := 0
  ltcIn : LtcIn := {}
  tallyLevel : BitVec 32 := 0
  tendTicks : Nat := 0
  tendSub : Nat := 0
  tendRunning : Bool := false
  kept : Option (Int × Nat) := none
deriving DecidableEq, Repr

/-! ### Fuses (chapter 17) -/

/-- One-time fuses: the lifecycle bits l0..l2 in three replicas each (R483; bit `3 * i + r` is replica `r` of `l_i`),
the owner key hash (R484), and the anti-rollback counters as 64-bit thermometers (R493). -/
structure Fuses where
  life : BitVec 9 := 0
  ownerHash : BitVec 384 := 0
  rollback : List (Nat × Nat) := []
deriving DecidableEq, Repr

/-! ### Furrow nodes (chapter 10) -/

/-- A node of a Furrow port: what its IDENT and its records gave, as the node table shows it (R321). `known` once identified;
`heard` in the latest window; `seen` once a record has come from it; `silent` windows in a row without it, and `reported` once
those have been; `configPending` a CONFIG to send (1), or sent and not acknowledged (2), with its sequence number; the frame that
it last applied with the values of its pixels, and its latest two apply instants, newest first (R302, R307). -/
structure Node where
  known : Bool := false
  heard : Bool := false
  configured : Bool := false
  uid : Nat := 0
  model : Nat := 0
  caps : Nat := 0
  channels : Nat := 0
  tMin : Nat := 0
  fwd : Nat := 0
  tPwm : Nat := 0
  delay : Nat := 0
  crcErrors : Nat := 0
  hop : Nat := 0
  silent : Nat := 0
  seen : Bool := false
  configPending : Nat := 0
  cfgSeq : Nat := 0
  reported : Bool := false
  frame : Option Nat := none
  vals : List (List Nat) := []
  applies : List Int := []
deriving DecidableEq, Repr

/-! ### Parameter fabric and Rills (chapters 4, 5) -/

/-- A fade record (chapter 4, Contributor positions): `start` in µs of fabric time, `duration` in 100 µs, and the frame
at whose input cut it was written. -/
structure Rec where
  src : Nat
  dst : Nat
  start : Nat
  duration : Nat
  curve : Nat
  prio : Nat
  active : Bool
  release : Bool
  wasActive : Bool
  cut : Nat
deriving DecidableEq, Repr

/-- A Rill context's state (R173, R174): its anchor if one has been set, whether it runs in the latest frame, the gate
in that frame, the zone time of its most recent opening, its effective depth, and whether a COMMIT made it live at the
latest input cut. -/
structure Rill where
  anchor : Option (Nat × Int) := none
  running : Bool := false
  gateOpen : Bool := false
  openedAt : Nat := 0
  depth : Nat := 65535
  fresh : Bool := false
deriving DecidableEq, Repr

/-- The fabric's own state (R134..R152). The lanes', in PD_PIX: the records of each position (key `4 * slot + position`, current
record first, then its history), the Rills, the final slot values of the latest member pass, whether that of the frame in
evaluation has ended, and whether it ran with `eval_enable` 1. The control's, in PD_SYS: this frame's cue snaps by slot, the zones' applied and target delays, the fade queue tails
latched at the cue deadline, the air temperatures sampled at the latest cut, φ of the frame in evaluation, and the TIME cycle of
its input cut. In the Reservoir: the universe image. -/
structure Fabric where
  pos : List (Nat × List Rec) := []
  snaps : List (Nat × Option Nat) := []
  applied : List (Nat × Nat) := []
  target : List (Nat × Nat) := []
  tails : List (Nat × Nat) := []
  air : List (Nat × Nat) := []
  rills : List (Nat × Rill) := []
  final : List (Nat × Nat) := []
  image : Memory := []
  phi : Nat := 0
  cutAt : Nat := 0
  memberDone : Bool := false
  evaluated : Bool := false
deriving DecidableEq, Repr

/-! ### The frame ledger (chapter 14) -/

/-- A record of the frame ledger (R428): its kind, its key, and its contents. -/
structure LedgerRec where
  kind : Nat
  key : Nat
  body : List Nat
deriving DecidableEq, Repr

/-- The tandem state beside its registers (R424..R439): the open ledger of the frame in evaluation; the records received of
the ledger in transfer, and those of the ledger that a standby works from; whether outputs and heartbeats have stopped for a
switchover; whether the link has its keys, and whether a failed authentication has been told since it came up; the frame that
a standby evaluates, whether it has started that frame, whether the ledger in transfer is that frame's, whether the start of the next one waits for its end, and whether the digests
of a frame that it has staged agree, told at that frame's deadline; whether the next frame number of its active is a joining's; the PTP reading at which the role became ACTIVE; the peer's role,
its ACTIVE time and the cycle of its latest heartbeat, of its latest one as ACTIVE, and of the latest one that did not authenticate; whether a failure
has been declared and not ended; the level of TND_ACT; whether a switchover waits for the frame instant; the phase of catching
up on the active (`0` none, `1` first pass, `2` dirty pages, `3` the ledger of `catchFrame` brings the standby current) and on
the standby (`3` once it holds pages and engine state for that); the pages still to send; the Reservoir as the standby holds it;
the Reservoir and the engine state as they stood at the end of K's take-in; the first frame of a new active's own, and the
frame for which it sends no sACN; the health record's counts since the last one (failed tests, corrected, uncorrectable, the Reservoir's corrected and
uncorrectable, lane errors); the cycles at which the role was taken and at which the latest health record came. -/
structure Tandem where
  ledger : List LedgerRec := []
  incoming : List LedgerRec := []
  received : List LedgerRec := []
  silent : Bool := false
  link : Bool := false
  keyTold : Bool := false
  eval : Nat := 0
  started : Bool := false
  reading : Bool := false
  startHeld : Bool := false
  digestHeld : Option Bool := none
  joining : Bool := false
  activeTime : Int := 0
  peerRole : Nat := 0
  peerTime : Int := 0
  heardAt : Option Nat := none
  activeAt : Option Nat := none
  unknownAt : Option Nat := none
  failed : Bool := false
  act : Bool := false
  switching : Bool := false
  catchPhase : Nat := 0
  catchFrame : Nat := 0
  pages : List Nat := []
  sentMem : Memory := []
  takenMem : Memory := []
  takenState : List EngineRec := []
  ownFrame : Nat := 0
  hush : Option Nat := none
  tests : Nat := 0
  corrected : Nat := 0
  uncorrected : Nat := 0
  resCorrected : Nat := 0
  resUncorrected : Nat := 0
  laneErrors : Nat := 0
  roleAt : Nat := 0
  healthAt : Nat := 0
deriving DecidableEq, Repr

/-! ### Canvases (chapter 6) and the video history (chapter 11) -/

/-- A buffer as a tandem standby knows it (R211): the words of its LAYER_FRAME, its bytes once LAYER has given them, and the
frame in which the active's fetch of it tore. -/
structure Mirror where
  words : List Word := []
  bytes : List Byte := []
  torn : Option Nat := none
deriving DecidableEq, Repr

/-- A layer's run-time state: the descriptor of the buffer in use; which of its two hold copies in the flatten cache is the last
good one (R197); and, on a tandem standby, the buffer that the ledger gave. -/
structure LayerSt where
  buf : Option Nat := none
  hold : Option Nat := none
  mirror : Option Mirror := none
deriving DecidableEq, Repr

/-- A canvas's run-time state: its layers; which of its two flattened copies in the flatten cache is in use, and which one a
refill has finished; the frame at whose input cut the refill that runs began; the history buffer chosen per layer and zone (key `4096 * layer + zone`) at the latest input cut, and the layers with a torn or
failed fetch. -/
structure Canvas where
  layers : List (Nat × LayerSt) := []
  flat : Option Nat := none
  flatNext : Option Nat := none
  refillFrom : Option Nat := none
  picks : List (Nat × Option Nat) := []
deriving DecidableEq, Repr

/-- What a frame of the read-out sends: its number, its instant, and its pixels. -/
structure Past where
  frame : Nat
  instant : Int
  px : List (Nat × List Nat)
deriving DecidableEq, Repr

/-- The pixel pipeline's frame: the emitter values of each mapped pixel (key `32768 * port + index`) of the frame being
staged; of the frame being read out, as staged (`outPixels`, and `outImage` for its universes), scaled by the Watermaster,
and as sent after caps and blanking; what the latest four frames send, newest first; whether PD_PIX has powered up since the latest input cut (R228); and the
canvases in service with black (R513). -/
structure Cmp where
  canvases : List (Nat × Canvas) := []
  pixels : List (Nat × List Nat) := []
  outPixels : List (Nat × List Nat) := []
  outImage : Memory := []
  scaled : List (Nat × List Nat) := []
  scaledImage : Memory := []
  sent : List (Nat × List Nat) := []
  sentImage : Memory := []
  past : List Past := []
  reload : Bool := false
  dark : List Nat := []
deriving DecidableEq, Repr

/-- A history buffer of a video stream (R347): the media time of its frame in 90 kHz ticks since the PTP epoch, the
pieces of it that have been written (first byte, length), whether its marker has come and its sequence shows a gap,
whether it is complete, and whether the latest input cut pinned it. -/
structure VidBuf where
  used : Bool := false
  media : Nat := 0
  segs : List (Nat × Nat) := []
  marker : Bool := false
  gap : Bool := false
  complete : Bool := false
  pinned : Bool := false
deriving DecidableEq, Repr

/-- A video stream's receiver: its buffers by number, the one being written, the last extended sequence number, and the
cycle of its latest packet. -/
structure Video where
  bufs : List (Nat × VidBuf) := []
  cur : Option Nat := none
  skip : Option Nat := none
  seq : Option Nat := none
  lastAt : Nat := 0
deriving DecidableEq, Repr

/-! ### The network (chapter 11) and PTP (chapter 12) -/

/-- A frame in a receive queue: its bytes without the FCS, the PTP and LOCAL readings at its first bit, the bytes already
written to host buffers, those buffers (flight and bytes, in order), and the cells that it holds. -/
structure RxFrame where
  bytes : List Byte
  ptp : Int := 0
  loc : Int := 0
  sent : Nat := 0
  bufs : List (Nat × Nat) := []
  cells : Nat := 0
deriving DecidableEq, Repr

/-- A frame that waits for a MAC's wire: its bytes, its step in R349, its due instant as a LOCAL reading, what it is (`0`
plain, `1` TX_FRAME, `2` PTP event, `3` sACN synchronization, `4` PAUSE), the flight or tag that goes with it, whether a
time stamp is asked, and whether it is an output that only a device that drives sends (R426). -/
structure TxItem where
  bytes : List Byte
  step : Nat
  due : Int := 0
  kind : Nat := 0
  ref : Nat := 0
  stamp : Bool := false
  output : Bool := false
deriving DecidableEq, Repr

/-- A software entry of the time-stamp queue (R352). -/
structure TsEntry where
  gap : Bool := false
  late : Bool := false
  ring : Nat := 0
  sync : Bool := false
  tag : Nat := 0
  t : Int := 0
  dropped : Nat := 0
deriving DecidableEq, Repr

/-- A leader announced on a MAC (IEEE 1588's foreign master record): its port identity, its dataset for comparison, and the cycles
of its latest announcement and of the one before. -/
structure PtpForeign where
  id : Nat
  data : List Nat
  last : Nat
  prev : Option Nat := none
deriving DecidableEq, Repr

/-- The PTP state of a MAC (R363): port state (0 LISTENING, 1 FOLLOWER, 2 LEADER, 3 PASSIVE, 4 on the way to LEADER), since when it
listens and since when it waits to lead, the announced leaders, the leader chosen (its port identity, its dataset), the pending
two-step Sync (sequence, ingress on LOCAL),
the latest Sync pair (t1, t2), the pending Delay_Req (sequence, egress), the mean path delay, the sequence numbers of the
messages sent, and the egress of the latest Sync sent. -/
structure PtpPort where
  st : Nat := 0
  parent : Option Nat := none
  parentData : List Nat := []
  foreign : List PtpForeign := []
  listenAt : Nat := 0
  leadAt : Option Nat := none
  twoStep : Option (Nat × Int) := none
  pair : Option (Int × Int) := none
  delayReq : Option (Nat × Option Int) := none
  path : Option Int := none
  seqSync : Nat := 0
  seqAnnounce : Nat := 0
  seqDelay : Nat := 0
  lastSync : Option (Nat × Int) := none
deriving DecidableEq, Repr

/-- A MAC beside its registers: its receive and transmit queues, its time-stamp queue with the pending gap, its pause times,
the ranks of the next sACN packets of the frame, t_n as latched at arming (R375), the sequence number of its synchronization packets
and whether the frame's has been sent, and PTP. -/
structure NetMac where
  rx : List (Nat × List RxFrame) := []
  txq : List TxItem := []
  busy : Bool := false
  tsq : List TsEntry := []
  tsqGap : Nat := 0
  pauseSince : Nat := 0
  pausedSince : Nat := 0
  lastPause : Nat := 0
  rank : Nat := 0
  termRank : Nat := 0
  trim : Nat := 0
  syncSeq : Nat := 0
  synced : Bool := false
  ptp : PtpPort := {}
deriving DecidableEq, Repr

/-- A tracked sACN source of a receive entry (R342..R344): its CID, last accepted sequence number, applied priority and
slot bytes, the data held for a synchronization address, and the cycles of its latest packet and of its hold. -/
structure SacnSrc where
  cid : Nat := 0
  seq : Nat := 0
  prio : Nat := 0
  data : Option (List Byte) := none
  heldAddr : Nat := 0
  heldData : Option (Nat × List Byte) := none
  lastAt : Nat := 0
  heldAt : Nat := 0
  used : Bool := false
deriving DecidableEq, Repr

/-- A terminating sACN universe (R340): its internal universe, MAC, the entry's words as they were, and the frames left. -/
structure SacnTerm where
  unit : Nat
  mac : Nat
  w0 : Nat
  w1 : Nat
  left : Nat
deriving DecidableEq, Repr

/-- An audio stream's receiver, and an envelope follower with its values by media time in 48 kHz ticks, newest first. -/
structure Audio where
  seq : Option Nat := none
  lastAt : Nat := 0
deriving DecidableEq, Repr

structure Env where
  cur : Nat := 0
  hist : List (Nat × Nat) := []
deriving DecidableEq, Repr

/-- PD_NET's state apart from TIME: the MACs, the transmit sequence numbers (key `4 * universe + mac`), the terminating
universes, the sources (key `4 * entry + place`), the audio streams, the followers, and whether the transmitter has ended
for a sleep (R452). -/
structure Net where
  macs : List (Nat × NetMac) := []
  seqs : List (Nat × Nat) := []
  terms : List SacnTerm := []
  sources : List (Nat × SacnSrc) := []
  audio : List (Nat × Audio) := []
  env : List (Nat × Env) := []
  ended : Bool := false
deriving DecidableEq, Repr

/-! ### The Watermaster (chapter 8) -/

/-- A feeder's results in the latest staged frame (R239), and whether it has become valid since (R242). -/
structure Feeder where
  ks : Nat := 65536
  kn : Nat := 65536
  es : Nat := 65536
  en : Nat := 65536
  sent : Nat := 0
  fresh : Bool := false
deriving DecidableEq, Repr

/-- A supply zone (R245..R248): H, the needs of the latest two staged frames, the frame whose rising set-point waits for its
instant, the commands numbered so far, those of them started, the rising command of the frame to come that nothing has
acknowledged, whether a command is outstanding, the last acknowledged set-point, and the Furrow sequence number. -/
structure Zone where
  h : Nat := 0
  need : Nat := 0
  prev : Nat := 0
  rise : Option Nat := none
  cmds : Nat := 0
  begun : Nat := 0
  riseCmd : Option Nat := none
  pending : Bool := false
  ack : Option Nat := none
  seq : Nat := 0
deriving DecidableEq, Repr

/-- A set-point command on a PMBus bus, or on a Furrow port: its zone, value, number within the zone, whether it rises, and
whether it has been repeated; for Furrow its sequence byte and whether it has gone out in the period in progress. -/
structure Supply where
  zone : Nat
  value : Nat
  cmd : Nat
  rising : Bool
  again : Bool := false
  port : Nat := 0
  node : Nat := 0
  seq : Nat := 0
  sentNow : Bool := true
deriving DecidableEq, Repr

/-- A member pixel of a legibility group (R250): the frame plus 1 at which each emitter was last measured good (0 for
never), and the emitters reported faulted. -/
structure Member where
  good : List (Nat × Nat) := []
  bad : List Nat := []
deriving DecidableEq, Repr

/-- The Watermaster's state (PD_PIX) beside its registers: feeders, zones, the two PMBus queues, the Furrow commands
outstanding, the caps of runs and the dark groups of the frame in read-out, the members by pixel key, the acknowledgements
waiting for a staging deadline, the pixels probed in this period, the `interval` in force, what darkens the output
(`0` nothing, `1` the sleep black of R453, `2` the safe look of an orderly stop, R471), the windows in a row that have not heard a mapped
node (R250), the black frame, and the cycle at which `v_min_mv` went out behind it (R452, R453). -/
structure Water where
  feeders : List (Nat × Feeder) := []
  zones : List (Nat × Zone) := []
  bus0 : List Supply := []
  bus1 : List Supply := []
  supply : List Supply := []
  caps : List (Nat × Option Nat) := []
  dark : List Nat := []
  members : List (Nat × Member) := []
  acks : List Nat := []
  probes : List Nat := []
  interval : Nat := 64
  black : Nat := 0
  mute : List (Nat × Nat) := []
  blackFrame : Option Nat := none
  minSent : Option Nat := none
deriving DecidableEq, Repr

/-! ### Flumes, ports and Furrow links (chapters 9, 10) -/

/-- A flume context (R276): registers, pc, keep area, the next intake value, the values that a `move` in progress has
moved, the outfall bytes with the bits that do not fill a byte yet, where the launch-timed unit starts, the Furrow block
in progress, whether it runs, has reached `end` or has faulted, whether a Furrow port drops the rest of its frame, and the frames in
a row in which it did not reach `end`. -/
structure Flow where
  g : List (Nat × Word) := []
  pc : Nat := 0
  keep : List (Nat × Word) := []
  intake : Nat := 0
  moved : Nat := 0
  buf : List Byte := []
  acc : Nat := 0
  accBits : Nat := 0
  mark : Option Nat := none
  block : Nat := 0
  running : Bool := false
  done : Bool := false
  faulted : Bool := false
  dropped : Bool := false
  stuck : Nat := 0
deriving DecidableEq, Repr

/-- A port (R258..R271): its live entry, its context, whether its intake is forced to 0, the cycle at which its line is
free again, whether a line is under way, the RDM transaction in progress, how often its head request has been deferred,
whether the next packet is skipped, the edge trims that the launch stage has latched, in 125 ps, and its Furrow link: the running
disparity (`true` positive), the frame of its latest COMMIT, S in 1/16 ns, out_0 in 1/16 ns, whether the return window is open, the
nodes heard in it, the enumeration's phase (`1` counting, `2` identifying) with its range, the highest index heard, the nodes
identified, the probes fired in the period, and the configuration sequence number. -/
structure Port where
  entry : List Nat := []
  flow : Flow := {}
  rise : Int := 0
  fall : Int := 0
  rd : Bool := false
  committed : Option Nat := none
  span : Int := 0
  black : Bool := false
  freeAt : Nat := 0
  lineOn : Bool := false
  rdm : Option Nat := none
  deferred : Nat := 0
  skip : Bool := false
  out0 : Int := 0
  window : Bool := false
  heard : List Nat := []
  enumPhase : Nat := 0
  identFirst : Nat := 0
  identCount : Nat := 0
  top : Nat := 0
  fired : List Nat := []
  probed : List Nat := []
  idents : List Nat := []
  seq : Nat := 0
deriving DecidableEq, Repr

/-- A flume beside its registers: its slice table in the form of class 0x41, the entry that it runs with the cycles of its slice
used (R272), and the byte ranges of its program RAM that class 0x40 writes taken in have covered. -/
structure Flume where
  slices : List Nat := []
  pos : Nat := 0
  used : Nat := 0
  loaded : List (Nat × Nat) := []
deriving DecidableEq, Repr

/-- A lateral in service (R282..R284): `mode` 0 hold, 1 black, 2 spare; its target frame; the SERVICE_REACH that completes
when the last port has moved; the frame and descriptor that end it; the ports that have moved; and whether the target frame has
been read out. -/
structure LatSvc where
  lateral : Nat
  mode : Nat
  begin_ : Nat
  flight : Option Nat := none
  ending : Option Nat := none
  endFlight : Option Nat := none
  moved : List Nat := []
  read : Bool := false
deriving DecidableEq, Repr

/-- The port die. `ask` is a lateral that a flume fault moves to F8 at the next input cut (R287); `again` are the ports that
enumerate when they next enter FURROW mode, after an exit from DORMANT (R321); `stale` are the ports that a D reset has put to
REST, until a COMMIT brings their entries again (R289); `rested` are the ports that have come to a rest point after the black frame of a
sleep (R452). -/
structure PortDie where
  ports : List (Nat × Port) := []
  flumes : List (Nat × Flume) := []
  svc : Option LatSvc := none
  ask : Option Nat := none
  again : List Nat := []
  stale : List Nat := []
  rested : List Nat := []
deriving DecidableEq, Repr

/-! ### Raster outputs (chapter 13) -/

/-- A complete picture in the Cistern: its frame, its buffer, and the table words it was filled under. -/
structure Pict where
  frame : Nat
  buf : Nat
  words : List Nat
deriving DecidableEq, Repr

/-- A change of the timing group of a raster output that lands at the launch of a frame: the table words, and the pixel clock (a
fraction, in Hz). -/
structure RasChange where
  frame : Nat
  words : List Nat
  clock : Nat × Nat
deriving DecidableEq, Repr

/-- A raster output beside its registers: what its sink offers (lanes, rate), its complete pictures, newest first, the changes of
its timing group that have still to land, oldest first, the table words of the timing in force with its pixel clock, whether training
runs or has failed, its service (`0` none, `1` hold, `2` black), t_r as latched at the arming of the latest frames, the frame
that is being scanned, and whether it sends the idle pattern for a sleep (R452). -/
structure RasOut where
  sink : Option (Nat × Nat) := none
  pics : List Pict := []
  changes : List RasChange := []
  scan : List Nat := []
  clock : Nat × Nat := (0, 1)
  training : Bool := false
  failed : Bool := false
  mode : Nat := 0
  trims : List (Nat × Nat) := []
  shown : Nat := 0
  idle : Bool := false
deriving DecidableEq, Repr

/-! ### Basins (chapter 14) -/

/-- A Dravud port beside its registers: the JOINs accepted through it, by address, each with the devices of its subtree that no
other of them names and the depth of its lowest device below the port's child; d in 1/16 ns, whether a MARK waits for its ECHO, the
ECHOs missed in a row, the devices that have arrived at the barrier through it, and the refusals that it has reported. -/
structure BasinPort where
  known : List (Nat × Nat × Nat) := []
  d16 : Nat := 0
  marked : Bool := false
  missed : Nat := 0
  arrived : Option Nat := none
  report : Option Nat := none
deriving DecidableEq, Repr

/-- A JOIN of the subtree: the address it asks for, its devices, its depth, its down port, whether it is the child's own, whether it
has gone up. -/
structure JoinReq where
  address : Nat
  devices : Nat
  depth : Nat
  port : Nat
  own : Bool := false
  sent : Bool := false
deriving DecidableEq, Repr

/-- The basin engine (PD_NET): its ports, the JOINs of its subtree, the barrier in progress (its id, whether this device has
arrived, the devices lost since it began), the operation in progress (`1` COMMIT, `2` SNAPSHOT; its id; this device's
refusals), the number of operations started, the broadcasts held, the frame number to take at the next frame instant and
whether joining brought it, the change of number that no ledger has carried yet (R428), whether the skew is beyond its limit, the frames at whose input cut a snapshot is due, and the
frame at whose input cut a basin reset acts. -/
structure Basin where
  ports : List (Nat × BasinPort) := []
  joins : List JoinReq := []
  barrier : Option Nat := none
  arrived : Bool := false
  lost : Nat := 0
  op : Nat := 0
  opId : Nat := 0
  own : Option Nat := none
  ops : Nat := 0
  bcast : List (List Byte) := []
  take : Option Nat := none
  takeJoin : Bool := false
  shift : Int := 0
  skewed : Bool := false
  snaps : List Nat := []
  resetAt : Option Nat := none
deriving DecidableEq, Repr

/-! ### The Tender (chapters 15, 20) -/

/-- The Tender beside its registers: the enables raised and the power-goods high; the late power-goods in a row; what start
or exit runs (`0` none, `1` from P, C or S, `2` exit from WATCH, `3` W, `4` exit from DORMANT, `5` exit from IDLE) and the
cycle at which it began; whether PMIC_EN0 waits for RESET_N and the supply, for a retry, or for the retry after a self-heat;
whether the DRAM is trained, and how often that has failed; since when the device self-heats; the frame N of an orderly stop; the POWER_REQUESTs of the transition in progress and of the
pending slot; a reset that waits for the state (`true` a basin_local); the blocks that have agreed; whether a wake waits for
the end of EBB or of a stop, and whether a stop holds the wakes; PM_WAKE_CFG as the sources were armed (R450); the SMBus read address; the stores that wait, oldest first
(`0` what a Sluice operation burns or writes, `1` the erase of a sector of the boot flash, `2` the hour counters and the repair log, `3` the
pages of a sector); VHOLD in mV as it was last
sampled; whether sensors 11..14 have been read for R474; the S resets since a completed boot (R506); the signatures that
failed since one passed (R501); and the running image's `svn`. -/
structure Power where
  enables : BitVec 4 := 0xF
  pgs : BitVec 4 := 0xF
  lates : Nat := 0
  start : Nat := 0
  startAt : Nat := 0
  waitRail : Bool := false
  retry : Bool := false
  heatRetry : Bool := false
  trained : Bool := true
  tries : Nat := 0
  heatAt : Option Nat := none
  stopAt : Option Nat := none
  flight : Option Nat := none
  pendFlight : Option Nat := none
  heldReset : Option Bool := none
  agreed : List Nat := []
  wakeWaits : Bool := false
  stopHold : Bool := false
  wakeArmed : Word := 0
  smbRead : Nat := 0
  stores : List Nat := []
  vhold : Nat := 0
  heatRead : Bool := true
  sResets : Nat := 0
  sigFails : Nat := 0
  svn : Nat := 0
deriving DecidableEq, Repr

/-! ### The Sluice (chapter 17) -/

/-- A non-volatile write that a Sluice operation waits for (R485): word `i` of the owner key hash, a replica of a lifecycle
bit, word `w` of an anti-rollback counter that is to reach `v`, or bytes of the boot flash. -/
inductive Burn where
  | owner (i : Nat) (v : Word)
  | life (bit replica : Nat)
  | roll (k w v : Nat)
  | flash (addr : Nat) (bytes : List Byte)
deriving DecidableEq, Repr

/-- The Sluice beside its registers (PD_SLUICE): K_show, whether the challenge is valid and since when, the operation that
runs, the result it will end with, the burns it waits for, the keys of the Siphon link, one per sending unit, how many transfer units
they have sealed here (R497), and the salt of K_wrap where a burn has changed the fuses since this start (R487). -/
structure Sluice where
  showKey : Option (List Byte) := none
  challenge : Bool := false
  challengeAt : Nat := 0
  op : Nat := 0
  result : Nat := 0
  burns : List Burn := []
  siph : Option (List Byte × List Byte) := none
  siphUnits : Nat := 0
  wrapSalt : Option (List Byte) := none
deriving DecidableEq, Repr

/-! ### Live service (chapter 18) -/

/-- The update and service engine (PD_SYS): the INSTALL in progress; the cluster that a handover switches and where that
stands (`0` none, `1` a cluster enters at the next input cut, `2` it drains, `3` it has been loaded); the sector being
written, whether for the second time, whether an erase of it runs, and whether its pages have passed the hold-up check (R519); the bytes written; the image's length in bytes;
the SERVICE_REACH that waits for its cluster; the ends of
MAC service that wait (MAC and descriptor); and the rows repaired. -/
structure Live where
  inst : Option Nat := none
  hand : Nat := 0
  sector : Nat := 0
  again : Bool := false
  running : Bool := false
  pages : Bool := false
  written : Nat := 0
  size : Nat := 0
  svcFlight : Option Nat := none
  netEnds : List (Nat × Nat) := []
  repaired : List Nat := []
deriving DecidableEq, Repr

/-- What outlives every reset and the loss of VAON: the bytes of the boot flash that differ from the factory's, the sectors
whose erase was cut off, the hour counters as they were last saved (bins, power-on, show), and the repair log. -/
structure Store where
  flash : List (Nat × Byte) := []
  cut : List Nat := []
  hours : List Nat := []
  repairs : List Nat := []
deriving DecidableEq, Repr

/-! ### Temperature and calibration (chapter 16) -/

/-- A threshold (R467): the samples in a row at or above it, those in a row below it less its 3.00 °C, and whether it stands
crossed. -/
structure Cross where
  above : Nat := 0
  under : Nat := 0
  on : Bool := false
deriving DecidableEq, Repr

/-- A unit that is calibrated (R478): whether it is due and since when, whether that has been reported as missed, its
sensor's reading at its last run; of a transmitter, whether it still uses its fuse values, and its runs; and the launch-stage trim that its
latest run has set (none: the fused skew, R479). -/
structure CalUnit where
  since : Nat := 0
  missed : Bool := false
  ref : Option Int := none
  due : Bool := false
  baseline : Bool := true
  count : Nat := 0
  trim : Option Nat := none
deriving DecidableEq, Repr

/-- The thermal logic beside its registers (PD_SYS): the thresholds; each sensor's samples in a row far from its die's
median; the readings of the latest ten rise checks, newest first; the sensors whose rise is in excess; the units (ports,
then transmitters 256 and 257) and the unit whose turn of the rotation is next. -/
structure Thermal where
  warn : Cross := {}
  low : Cross := {}
  crit : Cross := {}
  far : List (Nat × Nat) := []
  past : List (List (Option Int)) := []
  rising : List Nat := []
  units : List (Nat × CalUnit) := []
  turn : Nat := 0
deriving DecidableEq, Repr

/-- The block's whole state. `latches` and `heldHi` are the pairs' halves that requesters have latched and held (R560), by
requester and offset; `hourMs` the milliseconds not yet counted into the hour counters; `extest` whether boundary scan has taken
the balls from the device (R500), whose logic goes on; `domains` the domains that are on, in the order of R18; `free` the number
of free values used; `out` what has left the device, newest first; `pending` the commands that wait, oldest first. -/
structure State where
  regs : List (Nat × Word) := []
  latches : List (Nat × Option Word) := []
  heldHi : List (Nat × Option Word) := []
  mem : Mem := {}
  pcie : Pcie := {}
  rings : Rings := {}
  tables : List (Nat × Memory) := []
  cores : List (Nat × Core) := []
  ditch : Ditch := {}
  silt : SiltTrap := {}
  gauges : List (Nat × Gauge) := []
  time : Time := {}
  fuses : Fuses := {}
  nodes : List (Nat × Node) := []
  fabric : Fabric := {}
  tandem : Tandem := {}
  cmp : Cmp := {}
  video : List (Nat × Video) := []
  net : Net := {}
  water : Water := {}
  die : PortDie := {}
  ras : List (Nat × RasOut) := []
  basin : Basin := {}
  power : Power := {}
  sluice : Sluice := {}
  live_ : Live := {}
  store : Store := {}
  thermal : Thermal := {}
  hourMs : List (Nat × Nat) := []
  extest : Bool := false
  domains : BitVec 12 := 0xFFF
  free : Nat := 0
  out : List Emission := []
  pending : List Instr := []
deriving DecidableEq, Repr

/-- The block right after reset: SHOW is reached after a start from P (R550, R552). Every register holds its Reset
column, every domain is on, every memory has been cleared, nothing waits; the start has placed the lattice, so `lock` of
GLB_FRAME_STATUS is 1 (R371, R590). -/
def State.reset : State := { regs := [(0x000028, 0x40000000)] }

end Sys2Proof.Machine
end

