-- ==== Sys2Proof/Machine/Ops.lean ====
section
/-! DEFINITION. The named operations over maps, memories and registers that every family uses, and the block's vectors.
A block takes no exception; what a cue core does at one stands in CueCores. -/

namespace Sys2Proof.Machine

open Sys2Proof

/-! ### Sparse maps

A map is a list of keys and values, keys strictly rising, no value equal to the key's default `d`. -/

/-- The value of a key. -/
def mget {β : Type} (d : Nat → β) : List (Nat × β) → Nat → β
  | [], k => d k
  | (a, b) :: t, k => if a = k then b else mget d t k

/-- A list without a key. -/
def mdel {β : Type} (k : Nat) : List (Nat × β) → List (Nat × β)
  | [] => []
  | (a, b) :: t => if a = k then mdel k t else (a, b) :: mdel k t

/-- A list with one more entry, before the first larger key. -/
def mins {β : Type} (k : Nat) (v : β) : List (Nat × β) → List (Nat × β)
  | [] => [(k, v)]
  | (a, b) :: t => if k < a then (k, v) :: (a, b) :: t else (a, b) :: mins k v t

/-- Set a key; setting its default removes the entry. -/
def mset {β : Type} [DecidableEq β] (d : Nat → β) (m : List (Nat × β)) (k : Nat) (v : β) : List (Nat × β) :=
  if v = d k then mdel k m else mins k v (mdel k m)

/-- Keys strictly rising. -/
def mrising {β : Type} : List (Nat × β) → Bool
  | [] => true
  | [_] => true
  | (a, _) :: (b, v) :: t => decide (a < b) && mrising ((b, v) :: t)

/-- The canonical form. -/
def mwf {β : Type} [DecidableEq β] (d : Nat → β) (m : List (Nat × β)) : Bool :=
  mrising m && m.all (fun e => decide (e.2 ≠ d e.1))

/-! ### Memories -/

/-- What an unlisted byte reads as: the memories are cleared to 0 before they are used (R122, R550). -/
def byte0 (_ : Nat) : Byte := 0

/-- The canonical form of a memory. -/
def Memory.wf (m : Memory) : Bool := mwf byte0 m

def memByte (m : Memory) (a : Nat) : Byte := mget byte0 m a

def memSet (m : Memory) (a : Nat) (b : Byte) : Memory := mset byte0 m a b

/-- `n` bytes from `a`. -/
def memRead (m : Memory) (a : Nat) : Nat → List Byte
  | 0 => []
  | n + 1 => memByte m a :: memRead m (a + 1) n

/-- Write bytes from `a` up. -/
def memWrite (m : Memory) (a : Nat) : List Byte → Memory
  | [] => m
  | b :: t => memWrite (memSet m a b) (a + 1) t

/-- An `n`-byte little-endian number in a memory. -/
def memNat (m : Memory) (a n : Nat) : Nat := leNat (memRead m a n)

def memPut (m : Memory) (a n v : Nat) : Memory := memWrite m a (leBytes v n)

/-- Bits `hi..lo` of a number. -/
def bits (v hi lo : Nat) : Nat := v / 2 ^ lo % 2 ^ (hi + 1 - lo)

/-- A two's complement field of `w` bits. -/
def sint (v w : Nat) : Int := if v % 2 ^ w < 2 ^ (w - 1) then (v % 2 ^ w : Nat) else ((v % 2 ^ w : Nat) : Int) - 2 ^ w

/-- An integer as a two's complement field of `w` bits. -/
def twos (v : Int) (w : Nat) : Nat := (v % (2 ^ w : Nat)).toNat

def clampI (lo hi v : Int) : Int := if v < lo then lo else if hi < v then hi else v

def clampN (lo hi v : Nat) : Nat := if v < lo then lo else if hi < v then hi else v

/-- The largest `r` below `2 ^ n` above `lo` bits already fixed with `r * r ≤ v`. -/
def isqrtBits (v : Nat) : Nat → Nat → Nat
  | 0, r => r
  | n + 1, r => let c := r + 2 ^ n; if c * c ≤ v then isqrtBits v n c else isqrtBits v n r

/-- Integer square root of values below 2^100. -/
def isqrt (v : Nat) : Nat := isqrtBits v 50 0

/-- Ceiling of a quotient. -/
def cdiv (a b : Nat) : Nat := (a + b - 1) / b

/-- The Reservoir's size (R58) and the staging area's place (R61). -/
def reservoirSize : Nat := 0x400000000
def stagingBase : Nat := 0x3F0000000
def stagingSize : Nat := 0x10000000

/-- Whether a range of the Reservoir overlaps the staging area. DESIGN CHOICE: one that lies at or past the Reservoir's end counts
as overlapping (R84 names only the overlap; log entry 49). -/
def overlapsStaging (base len : Nat) : Bool := decide (0 < len ∧ stagingBase < base + len)

/-- The Cistern's size (R41). -/
def cisternSize : Nat := 96 * 1048576

/-! ### Domains -/

/-- The order of R18, the bit order of PM_DOMAIN_STATUS and RST_DOMAIN. -/
def domNum : Domain → Nat
  | .tend => 0 | .sluice => 1 | .sys => 2 | .coreA => 3 | .coreB => 4 | .pix => 5
  | .cistern => 6 | .latLo => 7 | .latHi => 8 | .net => 9 | .host => 10 | .res => 11

def allDomains : List Domain :=
  [.tend, .sluice, .sys, .coreA, .coreB, .pix, .cistern, .latLo, .latHi, .net, .host, .res]

def State.domOn (s : State) (d : Domain) : Bool := s.domains.getLsbD (domNum d)

/-! ### The register file -/

/-- The word a register holds. -/
def State.rg (s : State) (off : Nat) : Word := mget regReset s.regs off

def State.setRg (s : State) (off : Nat) (v : Word) : State := { s with regs := mset regReset s.regs off v }

/-- A field of a register, as a number. -/
def State.fget (s : State) (f : RF) (i : Nat := 0) (j : Nat := 0) : Nat := getBits (s.rg (f.off i j)) f.hi f.lo

/-- Write a field and no other bit of its register. -/
def State.fset (s : State) (f : RF) (v : Nat) (i : Nat := 0) (j : Nat := 0) : State :=
  s.setRg (f.off i j) (putBits (s.rg (f.off i j)) f.hi f.lo v)

def State.fbit (s : State) (f : RF) (i : Nat := 0) (j : Nat := 0) : Bool := decide (s.fget f i j = 1)

def b2n (b : Bool) : Nat := if b then 1 else 0

/-- A 64-bit _LO/_HI pair, given its _LO register. -/
def State.pair (s : State) (f : RF) (i : Nat := 0) : Nat :=
  (s.rg (f.off i)).toNat + 2 ^ 32 * (s.rg (f.off i + 4)).toNat

def State.setPair (s : State) (f : RF) (v : Nat) (i : Nat := 0) : State :=
  (s.setRg (f.off i) (BitVec.ofNat 32 v)).setRg (f.off i + 4) (BitVec.ofNat 32 (v / 2 ^ 32))

/-- GLB_FRAME_NUMBER (R22, R562): the pair and `frame_low` move together. -/
def State.frame (s : State) : Nat := s.pair R.GLB_FRAME_NUMBER_LO

def State.setFrame (s : State) (n : Nat) : State :=
  (s.setPair R.GLB_FRAME_NUMBER_LO n).fset R.GLB_FRAME_STATUS_frame_low n

def maxWord : Nat := 0xFFFFFFFF

/-! ### Roles of a tandem device (R425, R441) -/

def roleSolo : Nat := 0
def roleActive : Nat := 1
def roleStandby : Nat := 2
def roleJoining : Nat := 3

def State.role (s : State) : Nat := s.fget R.SIP_STATUS_role
def State.isStandby (s : State) : Bool := s.role = roleStandby

/-- Whether what the device evaluates comes from a ledger: on a standby, and on a new active as far as it finishes its shadow
schedule (R437). -/
def State.shadows (s : State) : Bool := s.isStandby || s.tandem.started

/-- The frame in evaluation: that of the latest input cut, or on a standby the one it evaluates one period after its active
(R431), and which a new active finishes (R437). -/
def State.evalFrame (s : State) : Nat := if s.shadows then s.tandem.eval else s.time.clock.cutFrame

/-- Enter a record in the open ledger (R428). -/
def State.ledgerAdd (s : State) (kind key : Nat) (body : List Nat) : State :=
  { s with tandem := { s.tandem with ledger := s.tandem.ledger ++ [⟨kind, key, body⟩] } }


/-- The device is in WATCH: of PD_SYS only the Ditchrider, the Silt trap and register access are clocked, and the Reservoir is in
self-refresh with its PHY off (R18). -/
def State.inWatch (s : State) : Bool := s.fget R.PM_STATE_state = 2

/-- Whether a block has agreed to a sleep prepare, or is being asked to (R452). -/
def State.quiesced (s : State) (b : Nat) : Bool :=
  s.power.agreed.contains b || (decide (s.fget R.PM_STATE_phase = 1) && decide (s.fget R.PM_STATE_block = b))

/-- Whether the Reservoir can be accessed: PD_RES on, its memory trained, and not in self-refresh. -/
def State.resAwake (s : State) : Bool := s.domOn .res && s.power.trained && !s.inWatch

/-! ### Records of numbered units -/

def ring0 (_ : Nat) : Ring := {}
def core0 (_ : Nat) : Core := {}
def gate0 (_ : Nat) : Gate := {}
def gauge0 (_ : Nat) : Gauge := {}
def silt0 (_ : Nat) : Silt := {}
def nat0 (_ : Nat) : Nat := 0
def word0 (_ : Nat) : Word := 0
def bool0 (_ : Nat) : Bool := false
def none0 {β : Type} (_ : Nat) : Option β := none
def nil0 {β : Type} (_ : Nat) : List β := []

def State.ring (s : State) (n : Nat) : Ring := mget ring0 s.rings.ring n
def State.setRing (s : State) (n : Nat) (r : Ring) : State :=
  { s with rings := { s.rings with ring := mset ring0 s.rings.ring n r } }

def State.core (s : State) (n : Nat) : Core := mget core0 s.cores n
def State.setCore (s : State) (n : Nat) (c : Core) : State := { s with cores := mset core0 s.cores n c }

def State.emit (s : State) (e : Emission) : State := { s with out := e :: s.out }

/-! ### Elapsed time -/

/-- TIME cycles of 2 ns (R20) since the model's start: the measure of ages, time-outs and windows. -/
def State.now (s : State) : Nat := s.time.cycles

/-- Nanoseconds between two cycle counts. -/
def nsSince (s : State) (since : Nat) : Nat := 2 * (s.time.cycles - since)

/-- One nanosecond in the units of a time base (R357). -/
def ns16 : Int := 65536

def sec16 : Int := 1000000000 * 65536

/-- The LOCAL reading in whole seconds, low 32 bits (R90, R536). -/
def State.localSec (s : State) : Nat := twos (s.time.loc.t / sec16) 32

/-- The nanoseconds of a reading. -/
def nsOf (t : Int) : Nat := (t % sec16 / ns16).toNat

/-! ### The fresh free value -/

/-- The index of the next free value; each is used once. -/
def State.fresh (s : State) : Nat × State := (s.free, { s with free := s.free + 1 })

/-! ### Vectors (R44, R565) -/

/-- Whether an MSI-X message can leave: MSI-X enabled, the link up, PD_HOST on. -/
def State.msixReady (s : State) : Bool := s.pcie.msixOn && s.pcie.linkUp && s.domOn .host

/-- The message of a vector: the write that its entry of the MSI-X table asks for. -/
def State.msixMsg (s : State) (v : Nat) : Emission :=
  .msix v ((mget word0 s.pcie.entries (4 * v)).toNat + 2 ^ 32 * (mget word0 s.pcie.entries (4 * v + 1)).toNat)
    (mget word0 s.pcie.entries (4 * v + 2)).toNat

/-- Send one vector's message, or set its pending bit where the MSI-X table or the function masks it. -/
def State.sendVector (s : State) (v : Nat) : State :=
  if s.msixReady then
    if s.pcie.mask.getLsbD v || s.pcie.msixMasked then { s with pcie := { s.pcie with pending := s.pcie.pending ||| (1 <<< v) } }
    else s.emit (s.msixMsg v)
  else s

/-- A block raises one of the vectors 32..45: GLB_IRQ_STATUS records it, and its message follows (R562). While PD_SYS is off
there is neither (R445). -/
def State.raise (s : State) (v : Nat) : State :=
  if s.domOn .sys then
    (s.fset R.GLB_IRQ_STATUS_source (s.fget R.GLB_IRQ_STATUS_source ||| 2 ^ (v - 32))).sendVector v
  else s

end Sys2Proof.Machine
end

