-- ==== Sys2Proof/Machine/Spill.lean ====
section
/-! DEFINITION. Fault reports on their way to the Silt trap (R534), the spillway counters (R539..R541), and the
saturating counters of every block. -/

namespace Sys2Proof.Machine

/-- Send a fault report; the Silt trap takes it in at the end of the cycle (R536), while its domain is on. -/
def State.report (s : State) (cls origin : Nat) (detail : Nat := 0) : State :=
  if s.domOn .sys then { s with silt := { s.silt with incoming := s.silt.incoming ++ [⟨cls, origin, detail⟩] } } else s

/-- One line of R539: a counter, its instances, in the order in which READ_COUNTERS writes them. -/
def spillTable : List (RF × Nat × Nat) :=
  [(R.GLB_ACCESS_ERR_COUNT, 1, 1), (R.HOST_EVENT_DROP_COUNT, 1, 1), (R.HOST_LOST_COMPLETION_COUNT, 1, 1),
   (R.DR_POST_REFUSED_COUNT, 1, 1), (R.DR_CANCEL_UNDISPATCHED_COUNT, 1, 1), (R.DR_EVENT_COALESCE_COUNT, 1, 1),
   (R.DR_PERIODIC_SKIP_COUNT, 1, 1), (R.DR_LATE_WRITE_COUNT, 1, 1), (R.PF_FADEQ_OVERFLOW_COUNT, 1, 1),
   (R.PF_FADEQ_BAD_COUNT, 1, 1), (R.PF_HISTORY_DROP_COUNT, 1, 1), (R.PF_HISTORY_POOL_FULL_COUNT, 1, 1),
   (R.PF_CUE_MERGE_COUNT, 1, 1), (R.CMP_TORN_COUNT, 4, 1), (R.CMP_BUFFER_REFUSED_COUNT, 4, 1),
   (R.CMP_FLATTEN_RESTART_COUNT, 4, 1), (R.CMP_MAP_UNSENT_COUNT, 1, 1), (R.CLR_PROFILE_INVALID_COUNT, 1, 1)] ++
  [(R.WM_PROBE_MISS_COUNT, 1, 1), (R.PT_STARVED_COUNT, 256, 1), (R.PT_LINE_SKIP_COUNT, 256, 1),
   (R.PT_RDM_SKIP_COUNT, 256, 1), (R.PT_UCODE_FAULT_COUNT, 256, 1), (R.FUR_CRC_ERR_COUNT, 256, 1),
   (R.FUR_RET_BAD_COUNT, 256, 1), (R.FUR_UNHEARD_COUNT, 256, 1), (R.FUR_NODE_MISS_COUNT, 256, 1),
   (R.NET_RX_FCS_ERR_COUNT, 4, 1), (R.NET_RX_OVERSIZE_COUNT, 4, 1), (R.NET_RX_VLAN_DROP_COUNT, 4, 1),
   (R.NET_RX_FILTER_DROP_COUNT, 4, 1), (R.NET_RX_DROP_COUNT, 4, 8), (R.NET_RX_PARTIAL_COUNT, 4, 8),
   (R.NET_TSQ_OVERFLOW_COUNT, 4, 1), (R.NET_SACN_IGNORED_COUNT, 1, 1), (R.NET_SACN_SEQ_DROP_COUNT, 1, 1)] ++
  [(R.NET_SACN_SOURCE_FULL_COUNT, 1, 1), (R.NET_SACN_SOURCE_LOST_COUNT, 1, 1), (R.NET_VID_LOSS_COUNT, 4, 1),
   (R.NET_VID_DISCARD_COUNT, 4, 1), (R.NET_AUD_LOSS_COUNT, 8, 1), (R.TIM_LTC_ERR_COUNT, 1, 1),
   (R.TIM_TALLY_DROP_COUNT, 1, 1), (R.TIM_GATE_MISS_COUNT, 1, 1), (R.TIM_GATE_LATE_COUNT, 1, 1),
   (R.TIM_PTP_IGNORED_COUNT, 1, 1), (R.RAS_BAR2_DROP_COUNT, 1, 1), (R.BSN_JOIN_REFUSED_COUNT, 1, 1),
   (R.BSN_MSG_ERR_COUNT, 1, 1), (R.BSN_BCAST_DROP_COUNT, 1, 1), (R.SIP_AUTH_FAIL_COUNT, 1, 1),
   (R.SLC_LOCKED_WRITE_COUNT, 1, 1), (R.SLC_AUTH_FAIL_COUNT, 1, 1), (R.SLC_DECRYPT_FAIL_COUNT, 1, 1)] ++
  [(R.UPD_SIG_FAIL_COUNT, 1, 1), (R.GA_SKIP_COUNT, 16, 1), (R.SLT_DROP_COUNT, 1, 1)]

/-- Whether an offset is an instance of a counter line. -/
def spillHolds (off : Nat) (e : RF × Nat × Nat) : Bool :=
  ((⟨e.1, e.2.1, e.2.2, .sys, .single, []⟩ : RegRow).inst off).isSome

/-- Whether the register at an offset is a spillway counter. -/
def isSpill (off : Nat) : Bool := spillTable.any (spillHolds off)

/-- Count one at a 32-bit saturating counter. A spillway counter that reaches 0xFFFF_FFFF reports SPILL_SAT (R541). -/
def State.bump (s : State) (off : Nat) : State :=
  let v := (s.rg off).toNat
  if v = maxWord then s
  else
    let s1 := s.setRg off (BitVec.ofNat 32 (v + 1))
    if v + 1 = maxWord ∧ isSpill off then s1.report 0x25 off else s1

def State.bumpF (s : State) (f : RF) (i : Nat := 0) (j : Nat := 0) : State := s.bump (f.off i j)

/-- Count `n` at a counter. -/
def State.bumpN (s : State) (off : Nat) : Nat → State
  | 0 => s
  | n + 1 => (s.bump off).bumpN off n

/-- The requester's number (R562): 0..63 core, 64 host, 65 management port, 66 TAP. -/
def reqNum : Requester → Nat
  | .core n => n.val
  | .host => 64
  | .smbus => 65
  | .tap => 66

/-- Count a discarded or refused register access, with its record (R564). While PD_SYS is off nothing is counted. -/
def State.accessErr (s : State) (write : Bool) (req : Requester) (off : Nat) : State :=
  if s.domOn .sys then
    ((((s.bumpF R.GLB_ACCESS_ERR_COUNT).fset R.GLB_ACCESS_ERR_ADDR_write (b2n write)).fset
      R.GLB_ACCESS_ERR_ADDR_requester (reqNum req)).fset R.GLB_ACCESS_ERR_ADDR_offset off)
  else s

end Sys2Proof.Machine
end

