-- ==== Sys2Proof/Machine/Ditch.lean ====
section
/-! DEFINITION. The Ditchrider's pool and lists (R96..R112): operations that release, cancel, take and free tasks.
Completions of host-posted tasks stand in Tasks, which sees the rings. -/

namespace Sys2Proof.Machine

/-! ### The pool -/

def State.task (s : State) (i : Nat) : Option Task := mget none0 s.ditch.pool i

def State.setTask (s : State) (i : Nat) (t : Option Task) : State :=
  { s with ditch := { s.ditch with pool := mset none0 s.ditch.pool i t } }

/-- Pool descriptors of R96. -/
def poolSize : Nat := 65536

/-- Free descriptors (R126). -/
def State.poolFree (s : State) : Nat := poolSize - s.ditch.pool.length

/-- The lowest index that a rising list leaves out, from `k`. -/
def lowestFree {β : Type} : List (Nat × β) → Nat → Nat
  | [], k => k
  | (a, _) :: t, k => if a = k then lowestFree t (k + 1) else k

/-- The generation of a descriptor's next use (R98): 1 first, then up by 1, 32,767 to 1. -/
def nextGen (g : Nat) : Nat := if g = 32767 ∨ g = 0 then 1 else g + 1

/-- The core-posted form of a task's handle (R98). -/
def taskHandle (t : Task) (i : Nat) : Nat := t.gen * 65536 + i

/-- The handle a task is known by (R98): a host-posted one by its ring and tag. -/
def knownHandle (t : Task) (i : Nat) : Nat := if t.host.isSome then t.hostHandle else taskHandle t i

/-- Put a new task into the free descriptor of lowest index (R98). -/
def State.newTask (s : State) (t : Task) : Nat × State :=
  let i := lowestFree s.ditch.pool 0
  let g := nextGen (mget nat0 s.ditch.gens i)
  let s1 := { s with ditch := { s.ditch with gens := mset nat0 s.ditch.gens i g } }
  (i, s1.setTask i (some { t with gen := g }))

/-! ### Clusters and lists -/

/-- Whether cluster `c` (0 A, 1 B) takes no tasks: in service, entering service (R112), or powered off. -/
def State.clusterOut (s : State) (c : Nat) : Bool :=
  s.fget R.UPD_REACH_STATUS_clusters / 2 ^ c % 2 = 1 || mget bool0 s.ditch.draining c ||
    !(s.domOn (if c = 0 then .coreA else .coreB))

/-- The cluster whose list a task joins: its hint, or the other while that takes none. -/
def State.listCluster (s : State) (hint : Nat) : Nat := if s.clusterOut hint then 1 - hint else hint

def readyKey (c p : Nat) : Nat := 8 * c + p

def State.readyList (s : State) (c p : Nat) : List Nat := mget nil0 s.ditch.ready (readyKey c p)

def State.setReadyList (s : State) (c p : Nat) (l : List Nat) : State :=
  { s with ditch := { s.ditch with ready := mset nil0 s.ditch.ready (readyKey c p) l } }

/-- Take a task out of every ready list. -/
def State.unlist (s : State) (i : Nat) : State :=
  { s with ditch := { s.ditch with
      ready := (s.ditch.ready.map (fun e => (e.1, e.2.filter (· ≠ i)))).filter (fun e => e.2 ≠ []) } }

/-- Tasks on a cluster's lists (DR_READY_DEPTH). -/
def State.readyDepth (s : State) (c : Nat) : Nat :=
  ((List.range 8).map (fun p => (s.readyList c p).length)).foldl (· + ·) 0

/-- A task is frame-bound if its priority is at most `frame_bound_max` (R97). -/
def State.frameBound (s : State) (t : Task) : Bool := decide (t.prio ≤ s.fget R.DR_CFG_frame_bound_max)

/-- A task joins the tail of its list, ready, its release covering `events` firings (R110). -/
def State.joinReady (s : State) (i : Nat) (t : Task) (frame events : Nat) : State :=
  let c := s.listCluster t.hint
  let s1 := s.setTask i (some { t with st := .ready, frame := frame, events := events, late := false, since := s.now,
                                       ledgerPos := 0 })
  s1.setReadyList c t.prio (s1.readyList c t.prio ++ [i])

/-- A ready release that ends before dispatch (R106): off its list, counted; the task itself stays, waiting. -/
def State.dropRelease (s : State) (i : Nat) (t : Task) : State :=
  ((s.unlist i).setTask i (some { t with st := .waiting, events := 0 })).bumpF R.DR_CANCEL_UNDISPATCHED_COUNT

/-- The records of a kind that a standby works from. -/
def State.heard (s : State) (kind : Nat) : List LedgerRec := s.tandem.received.filter (fun r => r.kind = kind)

/-! The causes of NOT_CURRENT (R433). -/

def causeOverBound : Nat := 1
def causeDigest : Nat := 2
def causeAuth : Nat := 3
def causeLateTask : Nat := 4
def causeNoWord : Nat := 5
def causeNoVideo : Nat := 6
def causeLink : Nat := 7
def causeJoining : Nat := 8

/-- A standby stops evaluating: nothing of its schedule goes on. -/
def State.stopShadow (s : State) : State :=
  { s with
    time := { s.time with clock := { s.time.clock with evaluating := false, staged := false } }
    tandem := { s.tandem with started := false, reading := false, startHeld := false, digestHeld := none } }

/-- A standby becomes NOT_CURRENT (R433, R434): counted and reported once per entry; it stops evaluating. -/
def State.notCurrent (s : State) (cause : Nat) : State :=
  if s.isStandby && (s.fbit R.SIP_STATUS_current || cause = causeJoining) then
    ((((s.fset R.SIP_STATUS_current 0).fset R.SIP_STATUS_cause cause).bumpF R.SIP_NOT_CURRENT_COUNT).report 0x14 cause).stopShadow
  else s

/-- A frame-bound release that came past the cue deadline is late (R105): recorded, and on a standby a cause to be NOT_CURRENT
where the active's was not. -/
def State.lateRelease (s : State) (handle : Nat) : State :=
  if s.shadows then
    if ((s.heard 0x09).flatMap (fun r => r.body)).contains handle then s else s.notCurrent causeLateTask
  else s.ledgerAdd 0x09 0 [handle]

/-- Release a PERIODIC or EVENT task for a frame. Past its cue deadline a frame-bound release is cancelled at once
(R104). -/
def State.releaseKept (s : State) (i : Nat) (t : Task) (frame events : Nat) : State :=
  if s.frameBound t && decide (frame = s.evalFrame) && s.time.clock.cueClosed then
    ((((s.setTask i (some { t with st := .waiting, events := 0 })).bumpF R.DR_CANCEL_UNDISPATCHED_COUNT).bumpF
      R.DR_CUE_LATE_COUNT).report 0x02 (knownHandle t i)).lateRelease (knownHandle t i)
  else s.joinReady i t frame events

/-- One EVENT task meets a firing of its source (R102). -/
def State.fireTask (s : State) (i : Nat) (t : Task) : State :=
  match t.st with
  | .waiting => s.releaseKept i t s.evalFrame 1
  | .ready =>
    (s.setTask i (some { t with events := min 255 (t.events + 1) })).bumpF R.DR_EVENT_COALESCE_COUNT
  | .dispatched =>
    if t.held = 0 then s.setTask i (some { t with held := 1 })
    else (s.setTask i (some { t with held := min 255 (t.held + 1) })).bumpF R.DR_EVENT_COALESCE_COUNT

/-- A source fires: every EVENT task bound to it is released or coalesces (R100, R102). In IDLE firings coalesce into
one release that waits for the return to SHOW (R111); as nothing is dispatched there, that is what joining the list
does. -/
def State.fireSource (s : State) (src : Nat) : State :=
  s.ditch.pool.foldl (fun s e =>
    match s.task e.1 with
    | some t => if t.kind = 2 ∧ t.source = src ∧ t.ended = false then s.fireTask e.1 t else s
    | none => s) s

end Sys2Proof.Machine
end

