-- ==== Sys2Proof/Machine/Operands.lean ====
section
/-! DEFINITION. The operand forms of the block: a descriptor's common words and its forms A, C, L, T and V (R55..R58,
R591), and the accesses to host memory and the Reservoir that an operand names. -/

namespace Sys2Proof.Machine

/-! ### Common words (R55) -/

/-- Word `i` of a descriptor. -/
def dw (ws : List Word) (i : Nat) : Nat := (ws.getD i 0).toNat

def dOpcode (ws : List Word) : Nat := bits (dw ws 0) 31 24
def dFence (ws : List Word) : Bool := bits (dw ws 0) 23 23 = 1
def dStrict (ws : List Word) : Bool := bits (dw ws 0) 22 22 = 1
def dIrq (ws : List Word) : Bool := bits (dw ws 0) 21 21 = 1
def dAsap (ws : List Word) : Bool := bits (dw ws 0) 20 20 = 1
def dTag (ws : List Word) : Nat := bits (dw ws 0) 15 0
def dTargetLow (ws : List Word) : Nat := dw ws 1
def dCookie (ws : List Word) : Nat := dw ws 2 + 2 ^ 32 * dw ws 3

/-- The reserved bits of word 0 are 0. -/
def commonOk (ws : List Word) : Bool := bits (dw ws 0) 19 16 = 0

/-- Words `a..15` are 0. -/
def tailZero (ws : List Word) (a : Nat) : Bool := (List.range (16 - a)).all (fun i => dw ws (a + i) = 0)

/-! ### Form A, transfer -/

def aAddr (ws : List Word) : Nat := dw ws 4 + 2 ^ 32 * dw ws 5
def aLength (ws : List Word) : Nat := dw ws 6
def aClass (ws : List Word) : Nat := bits (dw ws 7) 23 16
def aInst (ws : List Word) : Nat := bits (dw ws 7) 15 0
def aOffset (ws : List Word) : Nat := dw ws 8
def aScatter (ws : List Word) : Bool := bits (dw ws 9) 1 1 = 1
def aSpace (ws : List Word) : Nat := bits (dw ws 9) 0 0
def aWhen (ws : List Word) : Nat := dw ws 10 + 2 ^ 32 * dw ws 11

/-- The form's own rules (R58): reserved words 0, the length a multiple of 4 up to 256 MiB, the offset a multiple of 4,
and `when` 0 unless the opcode is TX_FRAME. -/
def formAOk (ws : List Word) : Bool :=
  bits (dw ws 7) 31 24 = 0 && bits (dw ws 9) 31 2 = 0 && tailZero ws 12 && aLength ws % 4 = 0 &&
    decide (aLength ws ≤ 0x10000000) && aOffset ws % 4 = 0 && (dOpcode ws = 9 || aWhen ws = 0)

/-! ### Form C, control -/

def cKind (ws : List Word) : Nat := bits (dw ws 4) 31 24
def cIndex (ws : List Word) : Nat := bits (dw ws 4) 23 0
def cArg (ws : List Word) : Nat := dw ws 5
def formCOk (ws : List Word) : Bool := tailZero ws 6

/-- The scope kinds of R58. -/
def scFabric : Nat := 0x01
def scCanvas : Nat := 0x02
def scColour : Nat := 0x03
def scWater : Nat := 0x04
def scLateral : Nat := 0x05
def scNet : Nat := 0x06
def scRaster : Nat := 0x07
def scTime : Nat := 0x08
def scCluster : Nat := 0x09
def scAll : Nat := 0x0F
def scPower : Nat := 0x10

/-! ### Form L, layer frame -/

def lAddr (ws : List Word) : Nat := aAddr ws
def lCanvas (ws : List Word) : Nat := bits (dw ws 6) 31 30
def lLayer (ws : List Word) : Nat := bits (dw ws 6) 29 27
def lSpace (ws : List Word) : Nat := bits (dw ws 6) 26 26
def lGeneration (ws : List Word) : Nat := dw ws 7
def lStride (ws : List Word) : Nat := dw ws 8
def lLength (ws : List Word) : Nat := dw ws 9
def formLOk (ws : List Word) : Bool := bits (dw ws 6) 25 0 = 0 && tailZero ws 10

/-! ### Form T, task -/

def tFamily (ws : List Word) : Nat := bits (dw ws 4) 31 16
def tHint (ws : List Word) : Nat := bits (dw ws 4) 3 3
def tPrio (ws : List Word) : Nat := bits (dw ws 4) 2 0
def tHandle (ws : List Word) : Nat := dw ws 5
def tArgs (ws : List Word) : List Word := (List.range 10).map (fun i => ws.getD (6 + i) 0)
def formTOk (ws : List Word) : Bool := bits (dw ws 4) 15 4 = 0

/-! ### Form V, values -/

def vCount (ws : List Word) : Nat := bits (dw ws 4) 31 27 + 1
def vFirst (ws : List Word) : Nat := bits (dw ws 4) 22 0
def vPrio (ws : List Word) : Nat := bits (dw ws 5) 15 8
def vContrib (ws : List Word) : Nat := bits (dw ws 5) 1 0
def vValue (ws : List Word) (i : Nat) : Nat :=
  if i % 2 = 0 then bits (dw ws (8 + i / 2)) 15 0 else bits (dw ws (8 + i / 2)) 31 16
def formVOk (ws : List Word) : Bool :=
  bits (dw ws 4) 26 23 = 0 && bits (dw ws 5) 31 16 = 0 && bits (dw ws 5) 7 2 = 0 && dw ws 6 = 0 && dw ws 7 = 0 &&
    decide (vCount ws ≤ 16) && decide (vFirst ws + vCount ws ≤ 8388608)

/-! ### The target frame (R56) -/

/-- The 64-bit frame number congruent to `low` modulo 2^32 and nearest to `now`. Two are equally near only at a distance
of 2^31 each; the spec does not say which is taken then, so a free value decides. -/
def extendFrame (now low : Nat) : Nat :=
  let c := now / 2 ^ 32 * 2 ^ 32 + low
  if c ≤ now then
    if now - c < 2 ^ 31 ∨ (now - c = 2 ^ 31 ∧ Config.nearTieLow) then c else c + 2 ^ 32
  else if c - now < 2 ^ 31 ∨ c < 2 ^ 32 ∨ (c - now = 2 ^ 31 ∧ ¬ Config.nearTieLow) then c
  else c - 2 ^ 32

/-! ### Memory that an operand names -/

/-- Whether the device can reach host memory (R74): the link up and PD_HOST on. -/
def State.hostReach (s : State) : Bool := s.pcie.linkUp && s.domOn .host

def rangesHit (fails : List (Nat × Nat)) (a n : Nat) : Bool :=
  fails.any (fun r => decide (a < r.1 + r.2 ∧ r.1 < a + n))

/-- A byte of the host's memory. -/
def viewByte (v : HostView) (a : Nat) : Byte :=
  match v.cells.find? (fun c => c.1 == a) with
  | some c => c.2
  | none => 0

def viewRead (v : HostView) (a : Nat) : Nat → List Byte
  | 0 => []
  | n + 1 => viewByte v a :: viewRead v (a + 1) n

/-- Whether a range of the Reservoir can be accessed: it answers, and the range lies inside its 16 GiB. -/
def State.resOk (s : State) (a n : Nat) : Bool := s.resAwake && decide (a + n ≤ reservoirSize)

/-- Read `n` bytes of host memory (`space` 0) or of the Reservoir (1); `none` where the access fails. -/
def State.dmaRead (s : State) (v : HostView) (space a n : Nat) : Option (List Byte) :=
  if space = 1 then if s.resOk a n then some (memRead s.mem.reservoir a n) else none
  else if s.hostReach && !(rangesHit v.fails a n) then some (viewRead v a n) else none

def State.setReservoir (s : State) (m : Memory) : State := { s with mem := { s.mem with reservoir := m } }

/-- Write bytes to host memory or the Reservoir; `none` where the access fails. -/
def State.dmaWrite (s : State) (fails : List (Nat × Nat)) (space a : Nat) (b : List Byte) : Option State :=
  if space = 1 then
    if s.resOk a b.length then some (s.setReservoir (memWrite s.mem.reservoir a b)) else none
  else if s.hostReach && !(rangesHit fails a b.length) then some (s.emit (.hostWrite a b)) else none

/-- Answers of a form A transfer's addressing: its pieces, a malformed scatter list, or a failed access. -/
inductive Pieces where
  | ok (l : List (Nat × Nat))
  | bad
  | dma
deriving DecidableEq, Repr

/-- Read a scatter list's entries until their lengths reach `length` (R58): at most 4,096 entries, each reserved word
0, the lengths summing to `length`. -/
def scatterList (s : State) (v : HostView) (space : Nat) : Nat → Nat → Nat → List (Nat × Nat) → Pieces
  | 0, _, left, acc => if left = 0 then .ok acc.reverse else .bad
  | n + 1, a, left, acc =>
    if left = 0 then .ok acc.reverse
    else
      match s.dmaRead v space a 16 with
      | none => .dma
      | some b =>
        let len := leNat (b.drop 8 |>.take 4)
        if leNat (b.drop 12) ≠ 0 ∨ left < len then .bad
        else scatterList s v space n (a + 16) (left - len) ((leNat (b.take 8), len) :: acc)

/-- The pieces of a form A operand. -/
def State.pieces (s : State) (v : HostView) (ws : List Word) : Pieces :=
  if aScatter ws then scatterList s v (aSpace ws) 4096 (aAddr ws) (aLength ws) []
  else .ok [(aAddr ws, aLength ws)]

/-- Gather a form A operand's bytes. -/
def State.gather (s : State) (v : HostView) (space : Nat) : List (Nat × Nat) → Option (List Byte)
  | [] => some []
  | (a, n) :: t =>
    match s.dmaRead v space a n, State.gather s v space t with
    | some b, some r => some (b ++ r)
    | _, _ => none

/-- Scatter bytes over a form A operand's pieces. -/
def State.spread (s : State) (fails : List (Nat × Nat)) (space : Nat) : List (Nat × Nat) → List Byte → Option State
  | [], _ => some s
  | (a, n) :: t, b =>
    match s.dmaWrite fails space a (b.take n) with
    | some s1 => State.spread s1 fails space t (b.drop n)
    | none => none

end Sys2Proof.Machine
end

