-- ==== Sys2Proof/Machine/Flags.lean ====
section
/-! DEFINITION. The flags and codes that a completion carries (R65..R71). The block has no arithmetic flags; its status
bits are register fields, each computed where its rule stands. -/

namespace Sys2Proof.Machine

/-! ### Status codes (R69) -/

def stOk : Nat := 0x00
def stSuperseded : Nat := 0x01
def stCancelled : Nat := 0x02
def stPartial : Nat := 0x03
def stTorn : Nat := 0x04
def stTooLate : Nat := 0x05
def stBadOpcode : Nat := 0x10
def stBadField : Nat := 0x11
def stTableRange : Nat := 0x12
def stExpertLocked : Nat := 0x13
def stStageFull : Nat := 0x14
def stDmaError : Nat := 0x15
def stInService : Nat := 0x16
def stPoweredOff : Nat := 0x17
def stFabricOver : Nat := 0x20
def stPixOver : Nat := 0x21
def stLbShort : Nat := 0x22
def stCommitInvalid : Nat := 0x23
def stReachBusy : Nat := 0x24
def stStateRefused : Nat := 0x25
def stSigBad : Nat := 0x26
def stRollback : Nat := 0x27
def stDenied : Nat := 0x28
def stRdmNone : Nat := 0x29
def stRdmNack : Nat := 0x2A
def stTaskUnknown : Nat := 0x2B

/-- A completion's content (R65), apart from its phase and `sq_head`, which its ring gives. -/
structure Completion where
  opcode : Nat
  status : Nat
  tag : Nat := 0
  late : Bool := false
  more : Bool := false
  gap : Bool := false
  cookie : Nat := 0
  frame : Nat := 0
  result : Nat := 0
  irq : Bool := false
deriving DecidableEq, Repr

/-- The phase of the pass that a CQ tail is on (R66): 1 on the first, inverted on each wrap. The tail has one bit more
than the ring (R48), and that bit counts the passes. -/
def phaseOf (cqTail cqLog2 : Nat) : Nat := 1 - cqTail / 2 ^ cqLog2 % 2

/-- Word 0 of a completion. -/
def cplWord0 (c : Completion) : Nat := c.opcode * 2 ^ 24 + c.status * 2 ^ 16 + c.tag

/-- Word 1 of a completion: its flags and the SQ head. -/
def cplWord1 (c : Completion) (phase sqHead : Nat) : Nat :=
  phase * 2 ^ 31 + b2n c.late * 2 ^ 30 + b2n c.more * 2 ^ 29 + b2n c.gap * 2 ^ 28 + sqHead

/-- The 32 bytes of a completion. -/
def cplBytes (c : Completion) (phase sqHead : Nat) : List Byte :=
  leBytes (cplWord0 c) 4 ++ leBytes (cplWord1 c phase sqHead) 4 ++ leBytes c.cookie 8 ++ leBytes c.frame 8 ++
    leBytes c.result 8

end Sys2Proof.Machine
end

