-- ==== Sys2Proof/Machine/RingOps.lean ====
section
/-! DEFINITION. The ring engine's operations: completions, events, ring faults, and the start of a fetched descriptor
(R49, R52..R57, R65..R75). -/

namespace Sys2Proof.Machine

/-! ### Ring states (R83) -/

def rDisabled : Nat := 0
def rRunning : Nat := 1
def rDraining : Nat := 2
def rHalted : Nat := 3
def rError : Nat := 4

def State.ringState (s : State) (n : Nat) : Nat := s.fget R.HOST_RING_STATUS_state n
def State.ringLive (s : State) (n : Nat) : Bool := s.ringState n = rRunning || s.ringState n = rDraining
def State.sqLog (s : State) (n : Nat) : Nat := s.fget R.HOST_RING_CFG_sq_log2 n
def State.cqLog (s : State) (n : Nat) : Nat := s.fget R.HOST_RING_CFG_cq_log2 n
def State.ringPlace (s : State) (n : Nat) : Nat := s.fget R.HOST_RING_CFG_place n
def State.sqBase (s : State) (n : Nat) : Nat := s.pair R.HOST_SQ_BASE_LO n
def State.cqBase (s : State) (n : Nat) : Nat := s.pair R.HOST_CQ_BASE_LO n

/-- A ring goes to ERROR (R74): `enable` clears, the error stands, it is counted, and vector 45 is raised. -/
def State.ringFault (s : State) (n err : Nat) : State :=
  (((((s.fset R.HOST_RING_STATUS_state rError n).fset R.HOST_RING_STATUS_error err n).fset R.HOST_RING_CFG_enable 0 n).bumpF
    R.HOST_RING_ERROR_COUNT n)).raise 45

/-- A ring goes to HALTED (R74): `enable` clears and `error` is LINK_DOWN. -/
def State.ringHalt (s : State) (n : Nat) : State :=
  ((s.fset R.HOST_RING_STATUS_state rHalted n).fset R.HOST_RING_STATUS_error 5 n).fset R.HOST_RING_CFG_enable 0 n

/-- Every RUNNING or DRAINING ring in host memory halts (R43, R74). -/
def State.haltHostRings (s : State) : State :=
  (List.range 32).foldl (fun s n => if s.ringLive n && s.ringPlace n = 0 then s.ringHalt n else s) s

/-- CQ slots of a ring reserved for descriptors fetched and not completed (R53). -/
def State.reserved (s : State) (n : Nat) : Nat :=
  (s.rings.inbox.filter (fun d => d.ring = n)).length + (s.rings.flight.filter (fun f => f.ring = n)).length

/-- CQ entries the host has not consumed. -/
def State.cqUsed (s : State) (n : Nat) : Nat :=
  let r := s.ring n
  (r.cqTail + 2 ^ (s.cqLog n + 1) - r.cqHead) % 2 ^ (s.cqLog n + 1)

/-- CQ slots free of an unread completion and of a reservation (R53). -/
def State.cqFree (s : State) (n : Nat) : Nat := 2 ^ s.cqLog n - (s.cqUsed n + s.reserved n)

/-- Signal a CQ (R70): its MSI-X vector, or for a Reservoir ring the EVENT source of its number (R84). -/
def State.signalCq (s : State) (n : Nat) : State :=
  let s1 := s.setRing n { s.ring n with unsignalled := 0 }
  if s.ringPlace n = 1 then s1.fireSource n else s1.sendVector (s.fget R.HOST_RING_CFG_vector n)

/-- Moderation of one more completion (R70, R82). DESIGN CHOICE: one posted while `count` is 0 counts as unsignalled, and a write of
`count` acts at the next completion (log entry 109). -/
def State.moderate (s : State) (n : Nat) (irq : Bool) : State :=
  let r := s.ring n
  let u := r.unsignalled + 1
  let s1 := s.setRing n { r with unsignalled := u, unsignalledSince := if r.unsignalled = 0 then s.now else r.unsignalledSince }
  let cnt := s.fget R.HOST_CQ_MOD_count n
  if irq || (decide (cnt ≠ 0) && decide (cnt ≤ u)) then s1.signalCq n else s1

/-- A completion that cannot be written is discarded and counted (R75). -/
def State.loseCompletion (s : State) : State := s.bumpF R.HOST_LOST_COMPLETION_COUNT

/-- Write one entry into a CQ (R65, R66), then moderate it. A failed write puts a RUNNING or DRAINING ring into ERROR (R74); a
ring in ERROR already keeps the code that it entered with. -/
def State.writeCq (s : State) (n : Nat) (c : Completion) : State :=
  let r := s.ring n
  let k := s.cqLog n
  let a := s.cqBase n + 32 * (r.cqTail % 2 ^ k)
  let b := cplBytes c (phaseOf r.cqTail k) (s.fget R.HOST_RING_STATUS_sq_head n)
  match s.dmaWrite s.pcie.fails (s.ringPlace n) a b with
  | some s1 => (s1.setRing n { r with cqTail := (r.cqTail + 1) % 2 ^ (k + 1) }).moderate n c.irq
  | none => (if s.ringLive n then s.ringFault n 4 else s).loseCompletion

/-- Post a completion on its ring: written while the CQ of a ring that runs, drains or is in ERROR can be, else lost (R75). -/
def State.postCq (s : State) (n : Nat) (c : Completion) : State :=
  if s.ringLive n || s.ringState n = rError then s.writeCq n c else s.loseCompletion

/-! ### Events (R71) -/

/-- Whether a CQ slot is free for an event on a live event ring. -/
def State.eventSlot (s : State) : Bool :=
  let n := s.fget R.HOST_CTRL_event_ring
  s.ringLive n && decide (0 < s.cqFree n)

/-- Post one event entry, with the count of those dropped before it. -/
def State.postEvent (s : State) (block code : Nat) : State :=
  let d := s.rings.eventsDropped
  let s1 := { s with rings := { s.rings with eventsDropped := 0 } }
  s1.postCq (s.fget R.HOST_CTRL_event_ring)
    { opcode := 0xFF, status := 0, gap := decide (d ≠ 0), cookie := d, frame := s.frame,
      result := block * 2 ^ 48 + code % 2 ^ 48 }

/-- A block posts an event: written at once, queued behind others, or dropped from a full FIFO. -/
def State.event (s : State) (block code : Nat) : State :=
  if s.fbit R.HOST_CTRL_event_enable then
    if s.rings.events = [] && s.eventSlot then s.postEvent block code
    else if s.rings.events.length < 64 then
      { s with rings := { s.rings with events := s.rings.events ++ [(block, code)] } }
    else
      let s1 := { s with rings := { s.rings with eventsDropped := s.rings.eventsDropped + 1 } }
      s1.bumpF R.HOST_EVENT_DROP_COUNT
  else s

/-- The block IDs of events (R71). Those of the Sluice, the update engine, tandem and basin are R452's, whose list R538's 0x10 of
the Silt trap continues (DEDUCED, log entry 50); of the thermal and the power block the spec gives none (free values). -/
def blkTh : Nat := (Config.blockId 0).toNat
def blkPm : Nat := (Config.blockId 1).toNat
def blkSlc : Nat := 0x03
def blkUpd : Nat := 0x04
def blkSip : Nat := 0x05
def blkBsn : Nat := 0x06
def blkSlt : Nat := 0x10

/-! ### Descriptors in hand -/

def flightGet (l : List Flight) (id : Nat) : Option Flight := l.find? (fun f => f.id == id)

def State.flight (s : State) (id : Nat) : Option Flight := flightGet s.rings.flight id

def State.setFlight (s : State) (f : Flight) : State :=
  { s with rings := { s.rings with flight := s.rings.flight.map (fun g => if g.id = f.id then f else g) } }

def State.dropFlight (s : State) (id : Nat) : State :=
  { s with rings := { s.rings with flight := s.rings.flight.filter (fun g => g.id ≠ id) } }

/-- Finish a started descriptor: it leaves the flight list and its completion is posted. `frame` is the frame at whose
input cut it took effect, `none` for a command that is not frame-timed or took none (R65). A basin's COMMIT posts an event
and no completion (R418); a standby posts none (R432). -/
def State.finish (s : State) (f : Flight) (status result : Nat) (frame : Option Nat := none) (more : Bool := false) :
    State :=
  if s.isStandby || f.shadow then s.dropFlight f.id
  else if f.basin then (s.dropFlight f.id).event blkBsn (Config.eventCode blkBsn (256 + status))
  else (s.dropFlight f.id).postCq f.ring
    { opcode := dOpcode f.words, status := status, tag := dTag f.words, late := f.late && frame.isSome,
      more := more, cookie := dCookie f.words, frame := frame.getD s.frame, result := result, irq := dIrq f.words }

/-! ### Starting a descriptor (R52, R54, R61) -/

/-- Whether a descriptor of ring `n` has started and not completed. -/
def State.outstanding (s : State) (n : Nat) : Bool := s.rings.flight.any (fun f => f.ring = n)

/-- Descriptors of an opcode and instance in flight that satisfy a test. -/
def State.inFlight (s : State) (op inst : Nat) (p : List Word → Bool) : Nat :=
  (s.rings.flight.filter (fun f => dOpcode f.words = op && aInst f.words = inst && p f.words)).length

/-- Whether its target block presses back on a descriptor (R54): a POST_TASK while the pool has no free descriptor, an
RX_BUFFER beyond 4,096 of its MAC and class (R331), a timed TX_FRAME beyond 64 (R351), an RDM_REQUEST beyond 16 of its
port (R267). -/
def State.pressed (s : State) (ws : List Word) : Bool :=
  (dOpcode ws = 0x06 && s.poolFree = 0) ||
    (dOpcode ws = 0x08 && decide (4096 ≤ s.inFlight 0x08 (aInst ws) (fun v => aClass v = aClass ws))) ||
    (dOpcode ws = 0x09 && aWhen ws ≠ 0 && decide (64 ≤ s.inFlight 0x09 (aInst ws) (fun v => aWhen v ≠ 0))) ||
    (dOpcode ws = 0x0A && decide (16 ≤ s.inFlight 0x0A (aInst ws) (fun _ => true)))

/-- The oldest fetched descriptor that may start: the first of its ring, its fence met, its target not pressing back.
Answers it and the rest. `blocked` are the rings passed over. -/
def pickNext (s : State) : List Nat → List Fetched → Option (Fetched × List Fetched)
  | _, [] => none
  | blocked, d :: t =>
    if !(blocked.contains d.ring) && !(dFence d.words && s.outstanding d.ring) && !(s.pressed d.words) then some (d, t)
    else
      match pickNext s (d.ring :: blocked) t with
      | some (e, r) => some (e, d :: r)
      | none => none

def State.next (s : State) : Option (Fetched × List Fetched) := pickNext s [] s.rings.inbox

/-! ### What the lifecycle and host-recovery mode let through (R486, R522) -/

/-- A lifecycle bit is touched when any replica is burned (R483). -/
def lifeBit (f : Fuses) (i : Nat) : Bool :=
  f.life.getLsbD (3 * i) || f.life.getLsbD (3 * i + 1) || f.life.getLsbD (3 * i + 2)

/-- The lifecycle state of R483: 0 FACTORY, 1 OWNED, 2 RETURNED, 3 VOID. -/
def State.lifecycle (s : State) : Nat :=
  match lifeBit s.fuses 2, lifeBit s.fuses 1, lifeBit s.fuses 0 with
  | false, false, false => 0
  | false, false, true => 1
  | false, true, true => 2
  | _, _, _ => 3

/-- Whether an opcode is refused with SLUICE_DENIED. -/
def State.opDenied (s : State) (op : Nat) : Bool :=
  (s.lifecycle = 3 && !([0x00, 0x0B, 0x0F].contains op)) ||
    (s.fbit R.SLC_STATUS_recovery && !([0x00, 0x0B, 0x0F, 0x0E].contains op))

/-- The frame-timed opcodes (R59). -/
def frameTimed (op : Nat) : Bool := [0x03, 0x04, 0x05, 0x06, 0x0D].contains op

/-- The frame at whose input cut a frame-timed descriptor started now acts, and whether that is late (R55, R57). DESIGN CHOICE:
both are decided as it starts, which for a fenced or held one is after its fetch (log entry 44). -/
def State.actFrame (s : State) (d : Fetched) : Nat × Bool :=
  let n := s.time.clock.cutFrame + 1
  if dAsap d.words then (n, false) else if d.target < n then (n, true) else (d.target, false)

/-- Start the next descriptor if `is` holds of its words: the common checks, then `f` with the descriptor in flight. A
descriptor that the lifecycle or recovery mode denies completes with SLUICE_DENIED; one with a reserved bit set, with BAD_FIELD; a strict one past its cut, with TOO_LATE; a late one is counted (R56, R57). -/
def State.startDesc (s : State) (is good : List Word → Bool) (f : State → Flight → State) : State :=
  match s.next with
  | none => s
  | some (d, rest) =>
    if is d.words then
      let (n, late) := if frameTimed (dOpcode d.words) then s.actFrame d else (0, false)
      let fl : Flight :=
        { id := s.rings.nextId, ring := d.ring, words := d.words, target := n, late := late, busy := d.busy }
      let s1 := { s with rings := { s.rings with
        inbox := rest, nextId := s.rings.nextId + 1, flight := s.rings.flight ++ [fl] } }
      if s.opDenied (dOpcode d.words) then s1.finish fl stDenied 0
      else if !(commonOk d.words) || !(good d.words) then s1.finish fl stBadField 0
      else if late && dStrict d.words then s1.finish fl stTooLate 0
      else f (if late then s1.bumpF R.HOST_RING_LATE_COUNT d.ring else s1) fl
    else s

/-- The descriptor has this opcode. -/
def isOp (op : Nat) (ws : List Word) : Bool := dOpcode ws = op

/-- Mark the first fetched descriptor of a ring as held. -/
def markHeld (n : Nat) : List Fetched → List Fetched
  | [] => []
  | d :: t => if d.ring = n then { d with held := true } :: t else d :: markHeld n t

/-- Count, once per hold, that a target presses back on a ring's first fetched descriptor once its fence is met (R54). -/
def State.countHold (s : State) (n : Nat) : State :=
  match s.rings.inbox.find? (fun d => d.ring == n) with
  | some d =>
    if s.pressed d.words && !d.held && !(dFence d.words && s.outstanding n) then
      ({ s with rings := { s.rings with inbox := markHeld n s.rings.inbox } }).bumpF R.HOST_RING_STALL_COUNT n
    else s
  | none => s

def State.countHolds (s : State) : State := (List.range 32).foldl State.countHold s

end Sys2Proof.Machine
end

