-- ==== Sys2Proof/Machine/SiltOps.lean ====
section
/-! DEFINITION. The Silt trap takes in reports (R535..R538), and a command ends by letting it do so. -/

namespace Sys2Proof.Machine

def State.entry (s : State) (i : Nat) : Silt := mget silt0 s.silt.entries i

def State.setEntry (s : State) (i : Nat) (e : Silt) : State :=
  { s with silt := { s.silt with entries := mset silt0 s.silt.entries i e } }

/-- Entries of the table. -/
def siltSize : Nat := 1024

/-- Whether a class is masked or the trap's interrupt is off (R538). -/
def State.siltQuietClass (s : State) (cls : Nat) : Bool :=
  !(s.fbit R.SLT_CTRL_irq_enable) || (s.fget R.SLT_CLASS_MASK (cls / 32)) / 2 ^ (cls % 32) % 2 = 1

/-- Raise vector 32, post the entry's event and fire EVENT source 72 (R99, R538). -/
def State.siltRaise (s : State) (i : Nat) (cls : Nat) : State :=
  if s.siltQuietClass cls then s
  else ((s.raise 32).event blkSlt (cls * 2 ^ 16 + i)).fireSource 72

/-- The flume that serves a port (R282): its lateral's, or F8 while the port is on the spare. -/
def State.portFlume (s : State) (p : Nat) : Nat := if s.fbit R.PT_STATUS_on_spare p then 8 else p / 32

/-- The highest node heard below `n` on a port, plus 1, and whether any node above `n` was heard, from the node table's
`heard` marks. -/
def heardBelow (heard : List Nat) (n : Nat) : Nat := (heard.filter (· < n)).foldl (fun m k => max m (k + 1)) 0
def heardAbove (heard : List Nat) (n : Nat) : Bool := heard.any (fun k => decide (n < k))

/-- The located origin of a report (R535): a silent node, or the break before it; a port's report under a flume fault
is keyed to the flume's entry. `heard` answers the nodes a port heard in its latest window. -/
def State.locate (s : State) (heard : Nat → List Nat) (r : Fltrep) : Nat × Nat :=
  if r.cls = 0x0D then
    let p := r.origin
    let n := r.detail
    let h := heard p
    if heardAbove h n then (r.cls, p * 2 ^ 18 + n) else (r.cls, 2 ^ 31 + p * 2 ^ 18 + heardBelow h n)
  else if r.cls = 0x0B ∨ r.cls = 0x0A then
    let fl := s.portFlume r.origin
    if s.silt.entries.any (fun e => e.2.st == 1 && e.2.cls == 0x0C && e.2.located == fl) then (0x0C, fl)
    else (r.cls, r.origin)
  else (r.cls, r.origin)

/-- The entry that a report takes: its own, else a FREE one, else the QUIET seen one reported on longest ago (R535,
R537). Which FREE entry is taken, and which of several equally old QUIET ones, the spec does not say: a free value
picks. -/
def State.siltSlot (s : State) (cls located : Nat) : Option Nat :=
  match s.silt.entries.find? (fun e => e.2.st ≠ 0 && e.2.cls == cls && e.2.located == located) with
  | some e => some e.1
  | none =>
    let frees := (List.range siltSize).filter (fun i => (s.entry i).st = 0)
    match frees with
    | [] =>
      let q := s.silt.entries.filter (fun e => e.2.st = 2 && e.2.seen)
      let oldest := q.foldl (fun m e => min m e.2.lastTick) s.now
      match q.filter (fun e => e.2.lastTick = oldest) with
      | [] => none
      | e :: t => some (((e :: t).getD (Config.pick s.free % (t.length + 1)) e).1)
    | a :: t => some ((a :: t).getD (Config.pick s.free % (t.length + 1)) a)

/-- Take one report in (R535..R538). -/
def State.siltTake (s : State) (heard : Nat → List Nat) (r : Fltrep) : State :=
  let (cls, loc) := s.locate heard r
  match s.siltSlot cls loc with
  | none => (s.bumpF R.SLT_DROP_COUNT).fset R.SLT_STATUS_full 1
  | some i =>
    let e := s.entry i
    let fresh := e.st = 0 ∨ e.cls ≠ cls ∨ e.located ≠ loc
    let e0 : Silt := if fresh then { cls := cls, located := loc, firstOrigin := r.origin, firstSec := s.localSec,
                                     frame := s.frame % 2 ^ 32 } else e
    let e1 : Silt := { e0 with st := 1, count := min 65535 (e0.count + 1), lastOrigin := r.origin, detail := r.detail,
                               lastSec := s.localSec, lastTick := s.now,
                               pending := e0.pending || e0.window, window := true }
    let s1 := { (s.setEntry i e1) with free := s.free + 1 }
    if e0.window then s1 else s1.siltRaise i cls

/-- The order in which the trap takes a cycle's reports (R536): ascending class, then origin. -/
def repLe (a b : Fltrep) : Bool := decide (a.cls < b.cls) || (a.cls == b.cls && decide (a.origin ≤ b.origin))

def repInsert (r : Fltrep) : List Fltrep → List Fltrep
  | [] => [r]
  | a :: t => if repLe a r then a :: repInsert r t else r :: a :: t

def repSort (l : List Fltrep) : List Fltrep := l.foldl (fun acc r => repInsert r acc) []

/-- The end of a command: the trap takes in what it reported. A second pass takes a report that the first caused (a
saturated SLT_DROP_COUNT). -/
def State.settleOnce (s : State) (heard : Nat → List Nat) : State :=
  (repSort s.silt.incoming).foldl (fun s r => s.siltTake heard r) { s with silt := { s.silt with incoming := [] } }

/-- The nodes that a port heard in its latest window. -/
def State.heardNodes (s : State) (p : Nat) : List Nat :=
  s.nodes.filterMap (fun e => if e.1 / 1024 = p && e.2.heard then some (e.1 % 1024) else none)

def State.settle (s : State) : State :=
  let s1 := s.settleOnce s.heardNodes
  (s1.settleOnce s1.heardNodes).countHolds

end Sys2Proof.Machine
end

