-- ==== Sys2Proof/Machine/Tables.lean ====
section
/-! DEFINITION. The live and staged tables (R60..R62): sizes, scopes, defaults, the preset fade curves (R143), and
READ and WRITE of their bytes. -/

namespace Sys2Proof.Machine

/-! ### Arithmetic of the presets -/

/-- floor(a / b + 1/2). -/
def roundDiv (a b : Nat) : Nat := (2 * a + b) / (2 * b)

/-- Point `i` of preset curve `c` (R143). -/
def presetPoint (c i : Nat) : Nat :=
  let n := 1023
  if c = 1 then roundDiv (65535 * i * i) (n * n)
  else if c = 2 then (isqrt (4 * 65535 * 65535 * i / n) + 1) / 2
  else if c = 3 then roundDiv (65535 * (3 * i * i * n - 2 * i * i * i)) (n * n * n)
  else if c = 4 then roundDiv (65535 * i * i * i) (n * n * n)
  else if c = 5 then roundDiv (65535 * (n * n * n - (n - i) * (n - i) * (n - i))) (n * n * n)
  else if c = 6 then 65535
  else if c = 7 then if i < n then 0 else 65535
  else roundDiv (65535 * i) n

/-! ### Defaults -/

/-- Words of class 0x47 at reset (R114). -/
def affinityDefault (w : Nat) : Nat :=
  if w = 0 then 8 else if w = 1 then 0x71 else if w = 2 then 2000 else if w < 7 then 500 else if w < 11 then 5000 else 0

/-- Words of class 0x15 at reset (R383). -/
def timeDefault (w : Nat) : Nat :=
  if w = 0 then 0x80000000 else if w = 1 then 60 else if w = 2 then 1 else if w = 10 then 4 * 2 ^ 17
  else if w = 11 then 1000 * 2 ^ 16 + 2 else 0

/-- Byte `b` of a little-endian number. -/
def byteOf (v b : Nat) : Byte := BitVec.ofNat 8 (v / 256 ^ b)

/-- Point `i` of the identity LUT (R223). -/
def identityPoint (i : Nat) : Nat := (2 * 65535 * i + 4095) / (2 * 4095)

/-- The byte of a live table that nothing has written. An output LUT that is not loaded is LUT 0, the identity (R229). -/
def tableDefault (cls inst a : Nat) : Byte :=
  if cls = 0x04 then byteOf (presetPoint (if inst < 16 then inst else 0) (a / 2)) (a % 2)
  else if cls = 0x47 then byteOf (affinityDefault (a / 4)) (a % 4)
  else if cls = 0x15 then byteOf (timeDefault (a / 4)) (a % 4)
  else if cls = 0x46 then byteOf (identityPoint (a / 2)) (a % 2)
  else 0

/-! ### The classes (R60) -/

/-- The classes of R60: class, its number of instances, its size in bytes, its scope kind. -/
def tableClasses : List (Nat × Nat × Nat × Nat) :=
  [(0x01, 1, 262144 * 32, 1), (0x02, 1, 8388608 * 16, 1), (0x03, 1, 65536 * 16, 1), (0x04, 256, 2048, 1),
   (0x05, 1, 4096 * 16, 1), (0x06, 1, 16384 * 64, 1), (0x08, 4, 768, 2), (0x09, 4, 8388608 * 16, 2),
   (0x0A, 1, 1024 * 32, 3), (0x0B, 1, 0x48000, 4), (0x0C, 1, 256 * 32, 4), (0x0D, 1, 0x90000, 4),
   (0x11, 8, 2112, 5), (0x12, 8, 32 * 1024 * 8, 5), (0x13, 1, 167936, 6), (0x14, 2, 64, 7),
   (0x15, 1, 192, 8), (0x40, 9, 32768, 5), (0x41, 9, 256, 5), (0x42, 1, 147456, 4), (0x44, 1024, 128, 3),
   (0x45, 4, 8388608 * 16, 3), (0x46, 1024, 8192, 3), (0x47, 2, 64, 9), (0x48, 4, 16384, 2)]

def findClass (cls : Nat) : Option (Nat × Nat × Nat) :=
  (tableClasses.find? (fun e => e.1 == cls)).map (fun e => e.2)

/-- The size of a class's table. -/
def tableSize (cls : Nat) : Nat := ((findClass cls).map (fun e => e.2.1)).getD 0

/-- Expert classes (R60). -/
def expertClass (cls : Nat) : Bool := decide (0x40 ≤ cls ∧ cls ≤ 0x7F)

/-! ### Live tables -/

def tableKey (cls inst : Nat) : Nat := cls * 65536 + inst

def State.table (s : State) (cls inst : Nat) : Memory := mget nil0 s.tables (tableKey cls inst)

/-- The little-endian number of `n` bytes at `a` of a table's listed bytes. -/
def tabNat (cls inst : Nat) (m : Memory) (a : Nat) : Nat → Nat
  | 0 => 0
  | n + 1 => (mget (tableDefault cls inst) m a).toNat + 256 * tabNat cls inst m (a + 1) n

/-- Words `w` of a live table. -/
def State.tword (s : State) (cls inst w : Nat) : Nat := tabNat cls inst (s.table cls inst) (4 * w) 4

/-- Write bytes into a table. -/
def tabWrite (cls inst : Nat) (m : Memory) (a : Nat) : List Byte → Memory
  | [] => m
  | b :: t => tabWrite cls inst (mset (tableDefault cls inst) m a b) (a + 1) t

def State.setTable (s : State) (cls inst : Nat) (m : Memory) : State :=
  { s with tables := mset nil0 s.tables (tableKey cls inst) m }

/-- The entries of a table of `size`-byte entries that anything has written, ascending. -/
def listedEntries (m : Memory) (size : Nat) : List Nat := (m.map (fun e => e.1 / size)).eraseReps

/-! ### Staged writes (R61, R62) -/

/-- Bytes that the staging area holds or that a WRITE_TABLE is staging. -/
def State.stagedBytes (s : State) : Nat :=
  s.rings.staged.foldl (fun n w => n + w.bytes.length) 0 +
    s.rings.flight.foldl (fun n f => if dOpcode f.words = 0x01 then n + f.got.length else n) 0

/-- A class's table after the staged writes of a list, in staging-number order, which is the order of the list. -/
def applyStaged (cls inst : Nat) (m : Memory) (l : List Staged) : Memory :=
  l.foldl (fun m w => if w.cls = cls ∧ w.inst = inst then tabWrite cls inst m w.offset w.bytes else m) m

/-- Whether a staging number is at or below another, modulo 2^32 (R62). -/
def stageLe (a b : Nat) : Bool := decide ((b + 2 ^ 32 - a) % 2 ^ 32 < 2 ^ 31)

/-- The latest staging number given, modulo 2^32. -/
def State.stageLatest (s : State) : Nat := (s.rings.stageNext + (2 ^ 32 - 1)) % 2 ^ 32

/-! ### Curves as functions (R142) -/

/-- Linear interpolation of R142 over points `c`. -/
def curveEval (c : Nat → Nat) (x : Nat) : Nat :=
  let k := x * 1023
  let i := k / 65535
  if i = 1023 then c 1023
  else
    let f := k - 65535 * i
    let a := c i
    let b := c (i + 1)
    if a ≤ b then a + ((b - a) * f + 32767) / 65535 else a - ((a - b) * f + 32767) / 65535

/-- Point `i` of fade curve `n` in a view of the tables. -/
def curvePoint (m : Memory) (n i : Nat) : Nat := tabNat 0x04 n m (2 * i) 2

def State.curve (s : State) (n x : Nat) : Nat := let m := s.table 0x04 n; curveEval (curvePoint m n) x

end Sys2Proof.Machine
end

