-- ==== Sys2Proof/Machine/Tasks.lean ====
section
/-! DEFINITION. Tasks and their completions (R93, R102..R108): cancelling, retiring, releasing for a frame, deadlines,
dispatch. -/

namespace Sys2Proof.Machine

/-- Return a descriptor to the pool. -/
def State.freeTask (s : State) (i : Nat) : State := (s.unlist i).setTask i none

/-- The POST_TASK completion of a host-posted task, if it is one (R93, R106). -/
def State.taskDone (s : State) (t : Task) (status result : Nat) : State :=
  match t.host with
  | none => s
  | some id =>
    match s.flight id with
    | some f => s.finish f status result (some f.target)
    | none => s

/-- Cancel a ready release before dispatch (R106): counted; a ONE_SHOT task ends, a kept task waits for its next
release. -/
def State.cancelReady (s : State) (i : Nat) (t : Task) : State :=
  let s1 := s.dropRelease i t
  if t.kind = 0 then (s1.freeTask i).taskDone t stCancelled 0 else s1

/-- The held release of an EVENT task takes effect, as at `dr.done` (R102). -/
def State.releaseHeld (s : State) (i : Nat) (t : Task) : State :=
  if t.held = 0 then s.setTask i (some { t with st := .waiting, events := 0 })
  else s.releaseKept i { t with st := .waiting, held := 0 } s.evalFrame t.held

/-- A dispatched task leaves its core undispatched as the core returns to reset (R127). DESIGN CHOICE: one that `dr.cancel` has
ended returns its descriptor then, as its `dr.done` no longer comes (log entry 79). -/
def State.undispatch (s : State) (i : Nat) (t : Task) : State :=
  let s1 := s.bumpF R.DR_CANCEL_UNDISPATCHED_COUNT
  if t.kind = 0 then (s1.freeTask i).taskDone t stCancelled 0
  else if t.ended then s1.freeTask i
  else s1.releaseHeld i t

/-- End a PERIODIC or EVENT task (R107): at once, or at its `dr.done` if it is dispatched. -/
def State.endKept (s : State) (i : Nat) (t : Task) : State :=
  match t.st with
  | .ready => (s.dropRelease i t).freeTask i
  | .dispatched => s.setTask i (some { t with ended := true, held := 0 })
  | .waiting => s.freeTask i

/-- A frame-bound task of the frame that the active named late is late here too, also where it retires before its deadline (R105). -/
def State.retireNamed (s : State) (i : Nat) (t : Task) : State :=
  let h := knownHandle t i
  if s.shadows && s.frameBound t && t.frame = s.evalFrame && !t.late && ((s.heard 0x09).flatMap (fun r => r.body)).contains h then
    (s.bumpF R.DR_CUE_LATE_COUNT).report 0x02 h
  else s

/-- Retire a dispatched task at `dr.done` (R93, R102, R107). -/
def State.retire (s : State) (i : Nat) (t : Task) (value : Nat) : State :=
  if t.kind = 0 then (s.freeTask i).taskDone t stOk value
  else if t.ended then s.freeTask i
  else s.releaseHeld i t

/-- The older host task of a handle (R98). -/
def State.byHostHandle (s : State) (h : Nat) : Option (Nat × Task) :=
  let c := s.ditch.pool.filterMap (fun e =>
    match e.2 with
    | some t => if t.hostHandle = h then t.host.map (fun id => (id, e.1, t)) else none
    | none => none)
  match c with
  | [] => none
  | a :: l => let m := l.foldl (fun m x => if x.1 < m.1 then x else m) a
    some (m.2.1, m.2.2)

/-- The task that a handle names, in either form, if its descriptor is still in the pool (R98, R107). -/
def State.byHandle (s : State) (h : Nat) : Option (Nat × Task) :=
  if 2 ^ 31 ≤ h then s.byHostHandle h
  else
    match s.task (h % 65536) with
    | some t => if taskHandle t (h % 65536) = h then some (h % 65536, t) else none
    | none => none

/-- Release a host-posted task for its frame (R97, R108). -/
def State.releaseHost (s : State) (f : Flight) : State :=
  match s.ditch.pool.find? (fun e => e.2.any (fun t => t.host == some f.id)) with
  | some (i, some t) => if t.st = .waiting then s.joinReady i t f.target 0 else s
  | _ => s

/-- PERIODIC releases at the input cut of a frame, in ascending pool index (R103, R108). -/
def State.releasePeriodic (s : State) (frame : Nat) : State :=
  s.ditch.pool.foldl (fun s e =>
    match s.task e.1 with
    | some t =>
      if t.kind = 1 ∧ t.ended = false then
        if t.st = .waiting then s.joinReady e.1 t frame 0 else s.bumpF R.DR_PERIODIC_SKIP_COUNT
      else s
    | none => s) s

/-- The cue deadline meets one task of the frame (R104). -/
def State.deadlineTask (s : State) (i : Nat) (t : Task) : State :=
  match t.st with
  | .ready => ((s.cancelReady i t).bumpF R.DR_CUE_LATE_COUNT).report 0x02 (knownHandle t i)
  | .dispatched =>
    ((s.setTask i (some { t with late := true })).bumpF R.DR_CUE_LATE_COUNT).report 0x02 (knownHandle t i)
  | .waiting => s

/-- The cue deadline of a frame (R104). -/
def State.cueDeadline (s : State) (frame : Nat) : State :=
  s.ditch.pool.foldl (fun s e =>
    match s.task e.1 with
    | some t => if s.frameBound t && t.frame = frame && !t.late then s.deadlineTask e.1 t else s
    | none => s) s

/-! ### Dispatch (R110..R112, R114) -/

/-- The cluster of a core. -/
def clusterOf (core : Nat) : Nat := core / 32

def coreDomain (core : Nat) : Domain := if core < 32 then .coreA else .coreB

/-- Whether a core runs: released, its domain on, not clock-gated by IDLE (R18, R127), and its code loaded, which an exit from
WATCH does last (R122). -/
def State.coreRuns (s : State) (core : Nat) : Bool :=
  s.domOn (coreDomain core) && s.fget R.PM_STATE_state ≠ 1 && s.power.start ≠ 2 &&
    (s.fget (if core < 32 then R.DR_CORE_RUN_A else R.DR_CORE_RUN_B)) / 2 ^ (core % 32) % 2 = 1

/-- A core of a cluster is waiting in `dr.take`. -/
def State.clusterWaits (s : State) (c : Nat) : Bool := s.ditch.waiting.any (fun k => clusterOf k = c)

/-- A ready task's age in ns. -/
def State.taskAge (s : State) (i : Nat) : Nat :=
  match s.task i with
  | some t => nsSince s t.since
  | none => 0

/-- The choice within one list (R110): within the affinity window a task of the core's last family, while the head may
be passed over; else the head. -/
def State.chooseIn (s : State) (c p : Nat) (core : Nat) (l : List Nat) : Option Nat :=
  match l with
  | [] => none
  | h :: _ =>
    let w := bits (s.tword 0x47 c 0) 4 0
    let byp := s.tword 0x47 c (3 + p)
    let hit := (l.take w).find? (fun i =>
      match s.task i, (s.core core).lastFamily with
      | some t, some fam => t.family == fam
      | _, _ => false)
    if s.taskAge h < byp then
      match hit with
      | some i => some i
      | none => some h
    else some h

/-- `choose(c, core)` of R110 from priority `p` up: the task, and whether it is stolen. -/
def State.chooseFrom (s : State) (c core : Nat) : Nat → Nat → Option (Nat × Bool)
  | 0, _ => none
  | k + 1, p =>
    let own := s.readyList c p
    let oth := s.readyList (1 - c) p
    let w1 := s.tword 0x47 c 1
    let steal := bits w1 0 0 = 1 && decide (p ≤ bits w1 6 4) && !(s.clusterWaits (1 - c)) &&
      (match oth with
       | [] => false
       | h :: _ => decide (s.tword 0x47 c 2 ≤ s.taskAge h))
    if own ≠ [] then (s.chooseIn c p core own).map (fun i => (i, false))
    else if steal then (s.chooseIn c p core oth).map (fun i => (i, true))
    else s.chooseFrom c core k (p + 1)

/-- Dispatch is allowed at all (R111), and the Ditchrider has not agreed to a sleep (R452). -/
def State.dispatchOn (s : State) : Bool :=
  s.fbit R.DR_CTRL_dispatch_enable && s.fget R.PM_STATE_state ≠ 1 && !(s.power.agreed.contains 0x02) && !s.ditch.paused

/-- An instruction of a core has ended: a single step halts it again. -/
def Core.ended (c : Core) : Core := { c with halt := if c.halt = 2 then 1 else c.halt }

/-- Give a task to a core: its register takes the handle and the CSR instruction retires (R92). -/
def State.giveTask (s : State) (core rd i : Nat) (stolen : Bool) : State :=
  match s.task i with
  | none => s
  | some t =>
    let s1 := (s.unlist i).setTask i (some { t with st := .dispatched, core := core })
    let c := s1.core core
    let s2 := s1.setCore core { c.ended with
      task := some i, waiting := none, pc := c.pc + 4
      x := if rd = 0 then c.x else mset word0 c.x rd (BitVec.ofNat 32 (taskHandle t i)) }
    let s3 := { s2 with ditch := { s2.ditch with waiting := s2.ditch.waiting.filter (· ≠ core) } }
    if stolen then s3.bumpF R.DR_STEAL_COUNT (clusterOf core) else s3

/-- One cluster's dispatch of a cycle, to its longest-waiting core. -/
def State.dispatchCluster (s : State) (c : Nat) : State :=
  if s.dispatchOn && !(s.clusterOut c) then
    match s.ditch.waiting.find? (fun k => clusterOf k == c) with
    | none => s
    | some core =>
      match s.chooseFrom c core 8 0 with
      | some (i, stolen) => s.giveTask core ((s.core core).waiting.getD 0) i stolen
      | none => s
  else s

end Sys2Proof.Machine
end

