-- ==== Sys2Proof/Machine/CueCores.lean ====
section
/-! DEFINITION. Cue cores, Xhnk, the dispatch CSRs, alias stores and the scratchpads' ECC (chapter 3). Taking an exception
on a core is `State.coreTrap`. -/

namespace Sys2Proof.Machine

/-! ### A core's registers and traps (R86, R89)

The standard machine CSRs and the trap entry are those of the RISC-V privileged architecture that R86 names. -/

def csrMstatus : Nat := 0x300
def csrMie : Nat := 0x304
def csrMtvec : Nat := 0x305
def csrMepc : Nat := 0x341
def csrMcause : Nat := 0x342
def csrMtval : Nat := 0x343
def csrRwin : Nat := 0x7C6
def csrParg : Nat := 0x7C8
def csrPerr : Nat := 0xFC3

def Core.xr (c : Core) (r : Nat) : Word := if r = 0 then 0 else mget word0 c.x r

/-- Write an integer register; x0 reads as zero and discards writes. -/
def Core.setX (c : Core) (r : Nat) (v : Word) : Core := if r = 0 then c else { c with x := mset word0 c.x r v }

def Core.csrr (c : Core) (n : Nat) : Word := mget word0 c.csr n

def Core.setCsr (c : Core) (n : Nat) (v : Word) : Core := { c with csr := mset word0 c.csr n v }

/-- Trap entry with its values given: the pc is saved, the cause and value recorded, the status and the pc set. -/
def Core.trapTo (c : Core) (cause tval status pc : Word) : Core :=
  { ((((c.setCsr csrMepc c.pc).setCsr csrMcause cause).setCsr csrMtval tval).setCsr csrMstatus status).ended with pc := pc }

/-- Trap entry: interrupts are stacked off, and the pc is set from `mtvec`. -/
def Core.trap (c : Core) (interrupt : Bool) (cause : Nat) (tval : Word) : Core :=
  let m := c.csrr csrMstatus
  let tv := c.csrr csrMtvec
  let base := tv.toNat / 4 * 4
  c.trapTo (BitVec.ofNat 32 (b2n interrupt * 2 ^ 31 + cause)) tval
    (putBits (putBits (putBits m 7 7 (getBits m 3 3)) 3 3 0) 12 11 3)
    (BitVec.ofNat 32 (if interrupt && getBits tv 1 0 = 1 then base + 4 * cause else base))

/-- The external interrupt is raised while an uncorrectable word has not been reported to the core (R89). -/
def Core.meip (c : Core) : Bool := c.errs ≠ []

/-- Whether an interrupt of the core is pending and enabled (R89): external before software. -/
def Core.intCause (c : Core) : Option Nat :=
  if getBits (c.csrr csrMstatus) 3 3 = 1 then
    if c.meip && getBits (c.csrr csrMie) 11 11 = 1 then some 11
    else if c.msip && getBits (c.csrr csrMie) 3 3 = 1 then some 3
    else none
  else none

/-- A core raises an exception at its current instruction. -/
def State.coreTrap (s : State) (core cause : Nat) (tval : Word) : State :=
  s.setCore core ((s.core core).trap false cause tval)

/-- A core takes a pending and enabled interrupt. One that waits in `dr.take` reads 0 there first (R92). Taking the external
interrupt reports the error to the core, so its source falls (R89). -/
def State.coreInterrupt (s : State) (core : Nat) : State :=
  let c := s.core core
  if s.coreRuns core && c.halt = 0 then
    match c.intCause with
    | none => s
    | some cause =>
      let d := { c with errs := if cause = 11 then [] else c.errs }
      match c.waiting with
      | none => s.setCore core (d.trap true cause 0)
      | some rd =>
        let s1 := { s with ditch := { s.ditch with waiting := s.ditch.waiting.filter (· ≠ core) } }
        s1.setCore core (({ d.setX rd 0 with waiting := none, pc := c.pc + 4 } : Core).trap true cause 0)
  else s

/-- Every core takes the interrupt that it has pending and enabled: the end of IDLE, which gated their clocks (R89, R92). -/
def State.coreInterrupts (s : State) : State := (List.range 64).foldl State.coreInterrupt s

/-- A core can execute an instruction: it runs, its clock is not stopped in `dr.take`, and no debugger has halted it. -/
def State.coreReady (s : State) (core : Nat) : Bool :=
  s.coreRuns core && (s.core core).waiting.isNone && (s.core core).halt ≠ 1

/-- Execute on a core that can, and retire: write `rd` and advance the pc. -/
def State.coreSet (s : State) (core rd : Nat) (v : Word) : State :=
  let c := s.core core
  s.setCore core { (c.setX rd v).ended with pc := c.pc + 4 }

/-- Advance a core's pc past a 32-bit instruction. -/
def State.coreStep (s : State) (core : Nat) : State :=
  let c := s.core core
  s.setCore core { c.ended with pc := c.pc + 4 }

/-! ### Xhnk (R94) -/

def lane0 (w : Word) : Nat := getBits w 15 0
def lane1 (w : Word) : Nat := getBits w 31 16
def lanes (l0 l1 : Nat) : Word := BitVec.ofNat 32 (l0 % 65536 + l1 % 65536 * 65536)
def sat16 (v : Nat) : Nat := min v 65535

/-- q(x, y) of R94. -/
def q16 (x y : Nat) : Nat := (x * y + 32767) / 65535

/-- hk.lerp of one lane. -/
def lerp16 (a b t : Nat) : Nat :=
  if a ≤ b then a + ((b - a) * t + 32767) / 65535 else a - ((a - b) * t + 32767) / 65535

/-- A two-operand lane instruction. -/
def State.xhnk2 (s : State) (core rd rs1 rs2 : Nat) (f : Word → Word → Word) : State :=
  if s.coreReady core then s.coreSet core rd (f ((s.core core).xr rs1) ((s.core core).xr rs2)) else s

def both (g : Nat → Nat → Nat) (a b : Word) : Word := lanes (g (lane0 a) (lane0 b)) (g (lane1 a) (lane1 b))

/-- The two-operand instructions of funct7 0, by funct3. -/
def hkOp (op : Nat) : Word → Word → Word :=
  match op with
  | 0 => both (fun a b => sat16 (a + b))
  | 1 => both (fun a b => a - b)
  | 2 => both q16
  | 3 => both max
  | 4 => both min
  | 5 => both (fun a b => (a + b + 1) / 2)
  | 6 => fun a b => lanes (q16 (lane0 a) (lane0 b)) (q16 (lane1 a) (lane0 b))
  | _ => fun a b => lanes (lane0 a) (lane0 b)

/-- hk.nar8 and hk.wid8. -/
def hkNarrow (a : Word) : Word := BitVec.ofNat 32 ((lane0 a + 128) / 257 + (lane1 a + 128) / 257 * 256)
def hkWiden (a : Word) : Word := lanes (getBits a 7 0 * 257) (getBits a 15 8 * 257)

/-- hk.lerp and hk.mac, given t. -/
def hkLerp (t a b : Word) : Word := lanes (lerp16 (lane0 a) (lane0 b) (lane0 t)) (lerp16 (lane1 a) (lane1 b) (lane1 t))
def hkMac (t a b : Word) : Word :=
  lanes (sat16 (lane0 t + q16 (lane0 a) (lane0 b))) (sat16 (lane1 t + q16 (lane1 a) (lane1 b)))

def execHkAddsu (core : Fin 64) (rd rs1 rs2 : Fin 32) (s : State) : Host.Outcome State Fault Refusal :=
  .next (s.xhnk2 core rd rs1 rs2 (hkOp 0))

def execHkSubsu (core : Fin 64) (rd rs1 rs2 : Fin 32) (s : State) : Host.Outcome State Fault Refusal :=
  .next (s.xhnk2 core rd rs1 rs2 (hkOp 1))

def execHkMulq (core : Fin 64) (rd rs1 rs2 : Fin 32) (s : State) : Host.Outcome State Fault Refusal :=
  .next (s.xhnk2 core rd rs1 rs2 (hkOp 2))

def execHkMaxu (core : Fin 64) (rd rs1 rs2 : Fin 32) (s : State) : Host.Outcome State Fault Refusal :=
  .next (s.xhnk2 core rd rs1 rs2 (hkOp 3))

def execHkMinu (core : Fin 64) (rd rs1 rs2 : Fin 32) (s : State) : Host.Outcome State Fault Refusal :=
  .next (s.xhnk2 core rd rs1 rs2 (hkOp 4))

def execHkAvgu (core : Fin 64) (rd rs1 rs2 : Fin 32) (s : State) : Host.Outcome State Fault Refusal :=
  .next (s.xhnk2 core rd rs1 rs2 (hkOp 5))

def execHkScl (core : Fin 64) (rd rs1 rs2 : Fin 32) (s : State) : Host.Outcome State Fault Refusal :=
  .next (s.xhnk2 core rd rs1 rs2 (hkOp 6))

def execHkPack (core : Fin 64) (rd rs1 rs2 : Fin 32) (s : State) : Host.Outcome State Fault Refusal :=
  .next (s.xhnk2 core rd rs1 rs2 (hkOp 7))

def execHkNar8 (core : Fin 64) (rd rs1 : Fin 32) (s : State) : Host.Outcome State Fault Refusal :=
  .next (s.xhnk2 core rd rs1 0 (fun a _ => hkNarrow a))

def execHkWid8 (core : Fin 64) (rd rs1 : Fin 32) (s : State) : Host.Outcome State Fault Refusal :=
  .next (s.xhnk2 core rd rs1 0 (fun a _ => hkWiden a))

def execHkLerp (core : Fin 64) (rd rs1 rs2 rs3 : Fin 32) (s : State) : Host.Outcome State Fault Refusal :=
  .next (s.xhnk2 core rd rs1 rs2 (hkLerp ((s.core core).xr rs3)))

def execHkMac (core : Fin 64) (rd rs1 rs2 rs3 : Fin 32) (s : State) : Host.Outcome State Fault Refusal :=
  .next (s.xhnk2 core rd rs1 rs2 (hkMac ((s.core core).xr rs3)))

/-- Whether a word is one of the encodings of R94. -/
def xhnkDefined (w : Word) : Bool :=
  if getBits w 6 0 = 0b0001011 then
    getBits w 31 25 = 0 || (getBits w 31 25 = 1 && decide (getBits w 14 12 ≤ 1) && getBits w 24 20 = 0)
  else getBits w 6 0 = 0b0101011 && getBits w 14 12 = 0 && decide (getBits w 26 25 ≤ 1)

/-- Whether a word lies under custom-0 or custom-1. -/
def xhnkSpace (w : Word) : Bool := getBits w 6 0 = 0b0001011 || getBits w 6 0 = 0b0101011

/-- R95: an undefined encoding raises illegal instruction. What `mtval` then holds the spec leaves open. -/
def execXhnkIllegalEncoding (core : Fin 64) (word : Word) (s : State) : Host.Outcome State Fault Refusal :=
  .next (if s.coreReady core && xhnkSpace word && !(xhnkDefined word) then
    s.coreTrap core 2 (Config.illegalTval word) else s)

/-! ### Dispatch CSRs (R90..R93, R99..R107) -/

/-- R92: the current task's handle again, or 0 with an interrupt pending, or the core waits. -/
def State.drTake (s : State) (core rd : Nat) : State :=
  if s.coreReady core then
    let c := s.core core
    match c.task with
    | some i =>
      match s.task i with
      | some t => s.coreSet core rd (BitVec.ofNat 32 (taskHandle t i))
      | none => s.coreSet core rd 0
    | none =>
      match c.intCause with
      | some _ => (s.coreSet core rd 0).coreInterrupt core
      | none =>
        let s1 := s.setCore core { c with waiting := some rd }
        { s1 with ditch := { s1.ditch with waiting := s1.ditch.waiting ++ [core] } }
  else s

def execDrTake (core : Fin 64) (rd : Fin 32) (s : State) : Host.Outcome State Fault Refusal :=
  .next (s.drTake core rd)

/-- R110: the dispatch of the cycle goes to the polling core unless a core of its cluster waits. -/
def State.drPoll (s : State) (core rd : Nat) : State :=
  if s.coreReady core then
    match (s.core core).task with
    | some i =>
      match s.task i with
      | some t => s.coreSet core rd (BitVec.ofNat 32 (taskHandle t i))
      | none => s.coreSet core rd 0
    | none =>
      let c := clusterOf core
      if s.dispatchOn && !(s.clusterOut c) && !(s.clusterWaits c) then
        match s.chooseFrom c core 8 0 with
        | some (i, stolen) => s.giveTask core rd i stolen
        | none => s.coreSet core rd 0
      else s.coreSet core rd 0
  else s

def execDrPoll (core : Fin 64) (rd : Fin 32) (s : State) : Host.Outcome State Fault Refusal :=
  .next (s.drPoll core rd)

/-- When the last task of a cluster entering service retires, the cluster is in service (R112). The reach bit is set
by `State.clusterEntered`, of Live. -/
def State.clusterIdle (s : State) (c : Nat) : Bool :=
  !(s.ditch.pool.any (fun e =>
    match e.2 with
    | some t => t.st == .dispatched && clusterOf t.core == c
    | none => false))

/-- A write of `dr.done` (R93): the current task retires. -/
def State.drDone (s : State) (core : Nat) (value : Word) : State :=
  if s.coreReady core then
    let c := s.core core
    let s1 := s.coreStep core
    match c.task with
    | none => s1
    | some i =>
      match s.task i with
      | none => s1
      | some t =>
        let s2 := s1.setCore core { s1.core core with task := none, lastFamily := some t.family }
        (s2.retireNamed i t).retire i t value.toNat
  else s

/-- Whether the source word of `dr.post` is valid (R99). -/
def postWordOk (w : Word) : Bool :=
  decide (getBits w 15 14 ≠ 3) && getBits w 6 4 = 0 &&
    (if getBits w 15 14 = 2 then decide (getBits w 13 7 ≤ 72) else getBits w 13 7 = 0)

/-- R99, R101: post a core task with source word `w`, or refuse it with its reason. DESIGN CHOICE: where both reasons stand, an
invalid word goes first (log entry 80). A frame-bound ONE_SHOT posted past the cue deadline of its frame ends at its release (R104). -/
def State.drPost (s : State) (core rd : Nat) (w : Word) : State :=
  if s.coreReady core then
    let c := s.core core
    let refuse (why : Nat) : State :=
      ((s.setCore core (c.setCsr csrPerr (BitVec.ofNat 32 why))).coreSet core rd 0).bumpF R.DR_POST_REFUSED_COUNT
    if !(postWordOk w) then refuse 2
    else if s.poolFree = 0 ∨ s.poolFree < s.fget R.DR_POOL_CFG_host_reserve then refuse 1
    else
      let t : Task := { gen := 0, kind := getBits w 15 14, family := getBits w 31 16, source := getBits w 13 7,
                        hint := getBits w 3 3, prio := getBits w 2 0,
                        args := (List.range 10).map (fun k => c.csrr (csrParg + k)) }
      let (i, s1) := s.newTask t
      match s1.task i with
      | none => s
      | some t1 =>
        let s2 := s1.coreSet core rd (BitVec.ofNat 32 (taskHandle t1 i))
        if t1.kind = 0 then
          let fr := s.evalFrame
          let s3 := s2.joinReady i t1 fr 0
          if s.frameBound t1 && s.time.clock.cueClosed then
            match s3.task i with
            | some t2 => (((s3.cancelReady i t2).bumpF R.DR_CUE_LATE_COUNT).report 0x02 (knownHandle t1 i)).lateRelease
                (knownHandle t1 i)
            | none => s3
          else s3
        else s2
  else s

/-- R106, R107: cancel by a core; `rd` says whether it had effect. A ONE_SHOT task that waits for its input cut ends without a
count, as it has no ready release. -/
def State.drCancel (s : State) (core rd : Nat) (handle : Word) : State :=
  if s.coreReady core then
    match s.byHandle handle.toNat with
    | none => s.coreSet core rd 0
    | some (i, t) =>
      if t.kind = 0 then
        match t.st with
        | .ready => (s.cancelReady i t).coreSet core rd 1
        | .waiting => ((s.freeTask i).taskDone t stCancelled 0).coreSet core rd 1
        | .dispatched => s.coreSet core rd 0
      else (s.endKept i t).coreSet core rd 1
  else s

def execDrPost (core : Fin 64) (rd rs1 : Fin 32) (s : State) : Host.Outcome State Fault Refusal :=
  .next (s.drPost core rd ((s.core core).xr rs1)).settle

def execDrCancel (core : Fin 64) (rd rs1 : Fin 32) (s : State) : Host.Outcome State Fault Refusal :=
  .next (s.drCancel core rd ((s.core core).xr rs1))

/-- R90: LOCAL's seconds, with its nanoseconds latched for `hk.lns`. -/
def State.hkLs (s : State) (core rd : Nat) : State :=
  if s.coreReady core then
    let s1 := s.coreSet core rd (BitVec.ofNat 32 s.localSec)
    s1.setCore core { s1.core core with lns := BitVec.ofNat 32 (nsOf s.time.loc.t) }
  else s

def execHkLsRead (core : Fin 64) (rd : Fin 32) (s : State) : Host.Outcome State Fault Refusal :=
  .next (s.hkLs core rd)

/-! ### Software interrupts (R89) -/

/-- A word store to the `msip` word of core `target` of the storing core's cluster: 1 raises, 0 clears. What another
value does the spec leaves open. -/
def State.msipStore (s : State) (core target : Nat) (v : Word) : State :=
  let k := 32 * clusterOf core + target
  let b := if v = 1 then true else if v = 0 then false else Config.msipOther v (s.core k).msip
  (s.setCore k { s.core k with msip := b }).coreInterrupt k

def execMsipStore (core : Fin 64) (target rs2 : Fin 32) (s : State) : Host.Outcome State Fault Refusal :=
  .next (if s.coreReady core then (s.coreStep core).msipStore core target ((s.core core).xr rs2) else s)

/-! ### Pools and their aliases (R118, R119) -/

def poolKey (cluster offset : Nat) : Nat := cluster * 2 ^ 23 + offset % 2 ^ 23

/-- Write bytes into a pool. Reservations of the cores on a written word end. -/
def State.poolWrite (s : State) (c off : Nat) (b : List Byte) : State :=
  let s1 := { s with mem := { s.mem with pools := memWrite s.mem.pools (poolKey c off) b } }
  { s1 with cores := s1.cores.map (fun e =>
      if clusterOf e.1 = c ∧ (e.2.resv.any (fun r => decide (r / 4 = off / 4))) then (e.1, { e.2 with resv := none }) else e) }

/-- Whether the word at a scratchpad or pool key has an uncorrectable error. -/
def State.badWord (s : State) (pool : Bool) (key : Nat) : Bool :=
  (if pool then s.mem.badPools else s.mem.badPads).contains (key / 4 * 4)

/-- No core has a word still to be reported to it. -/
def State.errGone (s : State) (pool : Bool) (key : Nat) : State :=
  s.cores.foldl (fun s e =>
    if e.2.errs.contains (pool, key) then s.setCore e.1 { s.core e.1 with errs := (s.core e.1).errs.filter (· ≠ (pool, key)) }
    else s) s

/-- A full-word store writes fresh ECC; a narrower one leaves a bad word bad. With the error what was still to be reported of it
goes (R89). -/
def State.freshWord (s : State) (pool : Bool) (key n : Nat) : State :=
  if n = 4 ∧ s.badWord pool key then
    let s1 := s.errGone pool key
    if pool then { s1 with mem := { s1.mem with badPools := s1.mem.badPools.filter (· ≠ key) } }
    else { s1 with mem := { s1.mem with badPads := s1.mem.badPads.filter (· ≠ key) } }
  else s

/-- A store to an alias window: one atomic read-modify-write of the bytes stored. A full word gets fresh ECC as by any store (R121). -/
def State.aliasStore (s : State) (core off n : Nat) (set : Bool) (v : Word) : State :=
  let c := clusterOf core
  let old := memRead s.mem.pools (poolKey c off) n
  let new := (old.zip (leBytes v.toNat n)).map (fun p => if set then p.1 ||| p.2 else p.1 &&& ~~~p.2)
  (s.poolWrite c off new).freshWord true (poolKey c off) n

/-- An alias store as an instruction: misaligned ones raise the standard exception (R88). -/
def State.aliasExec (s : State) (core off n : Nat) (set : Bool) (rs2 : Nat) : State :=
  if s.coreReady core && (n = 1 || n = 2 || n = 4) then
    if off % n ≠ 0 then s.coreTrap core 6 (BitVec.ofNat 32 ((if set then 0x11000000 else 0x12000000) + off))
    else (s.aliasStore core off n set ((s.core core).xr rs2)).coreStep core
  else s

def execBitSetStore (core : Fin 64) (offset : BitVec 23) (bytes : Fin 5) (rs2 : Fin 32) (s : State) :
    Host.Outcome State Fault Refusal :=
  .next (s.aliasExec core offset.toNat bytes true rs2)

def execBitClearStore (core : Fin 64) (offset : BitVec 23) (bytes : Fin 5) (rs2 : Fin 32) (s : State) :
    Host.Outcome State Fault Refusal :=
  .next (s.aliasExec core offset.toNat bytes false rs2)

/-! ### Error correction (R120, R121) -/

/-- Report an uncorrectable word: counted for its cluster, ECC_UNCORR with the scratchpad form of R534 as origin. -/
def State.eccReport (s : State) (pool : Bool) (addr : Nat) : State :=
  let c := if pool then addr / 2 ^ 23 % 2 else clusterOf (addr / 2 ^ 21 % 64)
  let origin := if pool then 2 ^ 31 + c * 2 ^ 24 + addr % 2 ^ 23 else addr / 2 ^ 21 % 64 * 2 ^ 24 + addr % 2 ^ 21
  (s.bumpF R.DR_ECC_UNCORR_COUNT c).report 0x03 origin

/-- A core's external interrupt is raised for a word. -/
def State.raiseMeip (s : State) (k : Nat) (pool : Bool) (key : Nat) : State :=
  let c := s.core k
  (s.setCore k { c with errs := (pool, key) :: c.errs.filter (· ≠ (pool, key)) }).coreInterrupt k

/-- A word has an uncorrectable error from here on, until it is written. -/
def State.markBad (s : State) (pool : Bool) (a : Nat) : State :=
  if pool then { s with mem := { s.mem with badPools := a :: s.mem.badPools.filter (· ≠ a) } }
  else { s with mem := { s.mem with badPads := a :: s.mem.badPads.filter (· ≠ a) } }

/-- The scrubber, or the loader (R121), reads a word and finds so many wrong bits: none; one, corrected and counted; two, kept bad and
reported, with the external interrupt of the owning core, or of every core of the pool's cluster. `addr` is the word's
key in `Mem.pads` or `Mem.pools`. -/
def State.scrub (s : State) (pool : Bool) (addr errors : Nat) : State :=
  let a := addr / 4 * 4
  let c := if pool then a / 2 ^ 23 % 2 else clusterOf (a / 2 ^ 21 % 64)
  if !(s.domOn (if c = 0 then .coreA else .coreB)) then s
  else if errors = 1 then s.bumpF R.DR_ECC_CORRECTED_COUNT c
  else if errors = 2 then
    let s2 := (s.markBad pool a).eccReport pool a
    if pool then (List.range 32).foldl (fun s k => s.raiseMeip (32 * c + k) true a) s2
    else s2.raiseMeip (a / 2 ^ 21 % 64) false a
  else s

def execEccScrub (pool : Bool) (addr : Nat) (errors : Fin 3) (s : State) : Host.Outcome State Fault Refusal :=
  .next (s.scrub pool addr errors).settle

/-- R110: cluster A chooses first, then B. -/
def execDispatch (s : State) : Host.Outcome State Fault Refusal :=
  .next ((s.dispatchCluster 0).dispatchCluster 1)

/-! ### DR_CORE_RUN (R127) -/

/-- The CSRs that `run` does not reset: `hk.rwin`, the arguments of the next post and `dr.perr` have their reset events in R90. -/
def keptCsr (n : Nat) : Bool := n = 0x7C6 || (decide (0x7C8 ≤ n) && decide (n ≤ 0x7D1)) || n = 0xFC3

/-- A core in reset: as reset gives it, but for `keptCsr` and the errors that its scratchpads, which stay as they stand, still
hold unreported. DESIGN CHOICE: `msip` and a debugger's halt are cleared with the core (log entry 7). -/
def Core.atReset (c : Core) : Core := { csr := c.csr.filter (fun e => keptCsr e.1), errs := c.errs }

/-- A core leaves reset: it starts at address 0. DESIGN CHOICE: an `msip` stored and a halt asked while it was in reset are dropped
(log entry 7). -/
def State.coreStart (s : State) (k : Nat) : State := s.setCore k (s.core k).atReset

/-- A core returns to reset: its dispatched release is cancelled as if undispatched, it waits no more, and its last
family is forgotten (R110). -/
def State.coreStop (s : State) (k : Nat) : State :=
  let c := s.core k
  let s1 := (s.setCore k c.atReset)
  let s2 := { s1 with ditch := { s1.ditch with waiting := s1.ditch.waiting.filter (· ≠ k) } }
  match c.task with
  | none => s2
  | some i =>
    match s2.task i with
    | some t => s2.undispatch i t
    | none => s2

/-- A write of DR_CORE_RUN_A (cluster 0) or _B: bits that rise start cores, bits that fall stop them.
DESIGN CHOICE: in ascending core order (log entry 110). -/
def State.coreRunWrite (s : State) (c : Nat) (v : Word) : State :=
  let f := if c = 0 then R.DR_CORE_RUN_A else R.DR_CORE_RUN_B
  let old := s.rg (f.off)
  let s1 := s.setRg (f.off) v
  (List.range 32).foldl (fun s n =>
    let k := 32 * c + n
    if old.getLsbD n && !(v.getLsbD n) then s.coreStop k
    else if !(old.getLsbD n) && v.getLsbD n then s.coreStart k
    else s) s1

end Sys2Proof.Machine
end

