-- ==== Sys2Proof/Machine/Fabric.lean ====
section
/-! DEFINITION. The parameter fabric (chapter 4): its descriptors, fade records and their history, the writers, zone
delays, and the slot arithmetic. Evaluation with the Rills stands in Rills. -/

namespace Sys2Proof.Machine

/-- A view of the tables: the bytes of a class and instance. The live tables are one view; the tables as a COMMIT would
leave them are another. -/
abbrev Tabs := Nat → Nat → Memory

/-- Word `w` of a class's instance in a view. -/
def Tabs.word (t : Tabs) (cls inst w : Nat) : Nat := tabNat cls inst (t cls inst) (4 * w) 4

/-- The entries of `size` bytes that anything has written. -/
def Tabs.entries (t : Tabs) (cls inst size : Nat) : List Nat := listedEntries (t cls inst) size

def State.live (s : State) : Tabs := s.table

/-! ### The frame rate (class 0x15, words 1 and 2) -/

def Tabs.rateNum (t : Tabs) : Nat := t.word 0x15 0 1
def Tabs.rateDen (t : Tabs) : Nat := t.word 0x15 0 2

/-- The period in whole µs, rounded down. -/
def State.periodUs (s : State) : Nat := s.live.rateDen * 1000000 / s.live.rateNum

/-! ### Slots (R131, R132) -/

/-- A slot descriptor as the fabric reads it. -/
structure SlotD where
  role : Nat
  merge : Nat
  kind : Nat
  invert : Bool
  rillOn : Bool
  positions : Nat
  dflt : Nat
  response : Nat
  cuePrio : Nat
  zone : Nat
  group : Nat
  rillPrio : Nat
  rill : Nat
deriving DecidableEq, Repr

/-- Roles of R131. -/
def roleParam8 : Nat := 1
def roleParam16 : Nat := 2
def roleFine : Nat := 3
def roleMaster : Nat := 4
def roleFixed : Nat := 5

/-- Slots with contributors. -/
def hasParams (role : Nat) : Bool := role = 1 || role = 2 || role = 4

/-- A slot's role in a view. -/
def Tabs.role (t : Tabs) (n : Nat) : Nat := bits (t.word 0x02 0 (4 * n)) 31 29

/-- A slot's descriptor, with what it inherits from its fixture. -/
def Tabs.slot (t : Tabs) (n : Nat) : SlotD :=
  let w0 := t.word 0x02 0 (4 * n)
  let w1 := t.word 0x02 0 (4 * n + 1)
  let w2 := t.word 0x02 0 (4 * n + 2)
  let w3 := t.word 0x02 0 (4 * n + 3)
  let inh := bits w0 24 24 = 1
  let fx := bits w0 17 0
  let f1 := t.word 0x01 0 (8 * fx + 1)
  let f2 := t.word 0x01 0 (8 * fx + 2)
  let f3 := t.word 0x01 0 (8 * fx + 3)
  { role := bits w0 31 29
    merge := if inh then bits f3 27 26 else bits w0 28 27
    kind := bits w0 26 25
    invert := bits w0 23 23 = 1
    rillOn := bits w0 22 22 = 1
    positions := if inh then bits f3 25 22 else bits w0 21 18
    dflt := bits w1 31 16
    response := if inh then bits f3 7 0 else bits w1 15 8
    cuePrio := bits w1 7 0
    zone := if inh then bits f1 31 20 else bits w2 31 20
    group := if inh then bits f2 15 0 else bits w2 15 0
    rillPrio := bits w3 31 24
    rill := bits w3 13 0 }

/-- Whether a slot's contributor position is enabled: its role has contributors and its bit is set. -/
def SlotD.takes (d : SlotD) (p : Nat) : Bool := hasParams d.role && d.positions / 2 ^ p % 2 = 1

/-! ### Zones (R146..R150) -/

/-- φ of a SHOW reading (R137): µs, rounded down, limited to 48 bits (R369). -/
def phiOf (show_ : Int) : Nat := min (show_ / 65536 / 1000).toNat (2 ^ 48 - 1)

def State.zoneDelay (s : State) (z : Nat) : Nat := mget nat0 s.fabric.applied z

/-- The zone time of R150 in the frame being evaluated. -/
def State.zoneTime (s : State) (z : Nat) : Nat := s.fabric.phi - s.zoneDelay z

/-- The target delay of a zone at an air temperature of `T` hundredths of a degree (R147), and whether it is
clamped. -/
def zoneTarget (w0 w1 : Nat) (temp : Int) : Nat × Bool :=
  let c := (33130000 + 606 * clampI (-4000) 6000 temp).toNat
  let acoustic := (bits w0 19 0 * 100000000 + c / 2) / c
  let extra := bits w1 20 0
  let t := if bits w0 31 30 = 2 then extra else if bits w0 31 30 = 1 then acoustic + extra else 0
  (min t 2000000, decide (2000000 < t))

/-- The sample of air temperature source `k` (R148), as 16 bits. -/
def State.airSample (s : State) (k : Nat) : Nat :=
  if s.fbit R.PF_AIR_TEMP_valid k then s.fget R.PF_AIR_TEMP_temp k else 2000

/-- Move an applied delay towards its target by at most `step` (R149). -/
def slew (a target step : Nat) : Nat := if a ≤ target then min target (a + step) else max target (a - step)

/-- Every zone with an entry or a delay. -/
def State.zonesInUse (s : State) : List Nat :=
  (s.live.entries 0x05 0 16 ++ s.fabric.applied.map (fun e => e.1)).eraseDups

/-- The take-in of delays at an input cut (R147..R149); `jump` is a COMMIT with `arg` bit 0 set. -/
def State.takeDelays (s : State) (jump : Bool) : State :=
  let step := min (s.fget R.PF_DELAY_SLEW_slew_us) (s.periodUs / 8)
  let one (s : State × Bool) (z : Nat) : State × Bool :=
    let w0 := s.1.live.word 0x05 0 (4 * z)
    let (t, c) := zoneTarget w0 (s.1.live.word 0x05 0 (4 * z + 1)) (sint (mget nat0 s.1.fabric.air (bits w0 23 20)) 16)
    let a := s.1.zoneDelay z
    let a1 := if jump then t else slew a t step
    ({ s.1 with fabric := { s.1.fabric with
        applied := mset nat0 s.1.fabric.applied z a1, target := mset nat0 s.1.fabric.target z t } }, s.2 || c)
  let (s1, clamped) := s.zonesInUse.foldl one (s, false)
  let slewing := s1.zonesInUse.any (fun z => s1.zoneDelay z ≠ mget nat0 s1.fabric.target z)
  (s1.fset R.PF_STATUS_delay_clamp (b2n clamped)).fset R.PF_STATUS_slew_active (b2n slewing)

/-! ### Fade records (R134, R141, R142, R151) -/

/-- The key of a position. -/
def posKey (slot p : Nat) : Nat := 4 * slot + p

def State.held (s : State) (slot p : Nat) : List Rec := mget nil0 s.fabric.pos (posKey slot p)

/-- The progress of a record at fabric time `t` (R141). -/
def recU (r : Rec) (t : Nat) : Nat :=
  if r.duration = 0 then if r.start ≤ t then 65535 else 0
  else if t ≤ r.start then 0
  else if r.start + r.duration * 100 ≤ t then 65535
  else 65535 * (t - r.start) / (r.duration * 100)

/-- The value of a record at `t` (R142). -/
def State.recValue (s : State) (r : Rec) (t : Nat) : Nat := lerp16 r.src r.dst (s.curve r.curve (recU r t))

/-- Whether a record in force at `t` is active (R144). -/
def recActive (r : Rec) (t : Nat) : Bool := r.active && !(r.release && decide (r.start + r.duration * 100 ≤ t))

/-- What a position gives at a zone time: its value, whether it is active, its priority and start, and how many history
records the lanes read (R153). -/
structure PosVal where
  value : Nat
  active : Bool
  prio : Nat
  start : Nat
  walked : Nat
deriving DecidableEq, Repr

/-- Walk back from the current record to the one in force at `t`; before the oldest kept, its `from` (R151). DESIGN CHOICE: its
priority and its start stand there too (log entry 85). -/
def State.walk (s : State) (t : Nat) : List Rec → Nat → Option PosVal
  | [], _ => none
  | [r], n =>
    if r.start ≤ t then some ⟨s.recValue r t, recActive r t, r.prio, r.start, n⟩
    else some ⟨r.src, r.wasActive, r.prio, r.start, n⟩
  | r :: q :: l, n =>
    if r.start ≤ t then some ⟨s.recValue r t, recActive r t, r.prio, r.start, n⟩ else s.walk t (q :: l) (n + 1)

/-- A position at `t`; one that never held a record counts as an inactive one at the slot's default (R137). -/
def State.posAt (s : State) (slot p dflt t : Nat) : PosVal :=
  (s.walk t (s.held slot p) 0).getD ⟨dflt, false, 0, 0, 0⟩

/-- History records in use. -/
def State.historyUsed (s : State) : Nat := s.fabric.pos.foldl (fun n e => n + (e.2.length - 1)) 0

def historyPool : Nat := 4194304

def State.setPos (s : State) (slot p : Nat) (l : List Rec) : State :=
  { s with fabric := { s.fabric with pos := mset nil0 s.fabric.pos (posKey slot p) l } }

/-- Put a record on a position at the input cut of frame `r.cut` (R134, R151). The record it replaces is lost if the
same cut wrote it or the slot's zone has no delay; otherwise it passes to the history, of three records. DESIGN CHOICE: a record of the
same cut counts for `was_active` (log entry 111). -/
def State.putRec (s : State) (slot p : Nat) (d : SlotD) (r0 : Rec) : State :=
  let r := { r0 with wasActive := (s.posAt slot p d.dflt r0.start).active }
  match s.held slot p with
  | [] => s.setPos slot p [r]
  | o :: hist =>
    if o.cut = r.cut ∨ s.zoneDelay d.zone = 0 then s.setPos slot p (r :: hist)
    else if 3 ≤ hist.length then
      ((s.setPos slot p (r :: o :: hist.take 2)).bumpF R.PF_HISTORY_DROP_COUNT).report 0x04 slot
    else if historyPool ≤ s.historyUsed then (s.setPos slot p (r :: hist)).bumpF R.PF_HISTORY_POOL_FULL_COUNT
    else s.setPos slot p (r :: o :: hist)

/-- The history behind a record: each one is kept until φ − a reaches the start of its successor. -/
def keepBehind (phi a : Nat) (succ : Rec) : List Rec → List Rec
  | [] => []
  | q :: l => if succ.start + a ≤ phi then keepBehind phi a q l else q :: keepBehind phi a q l

/-- The current record, and the history records that some frame may still evaluate (R151). -/
def keepHistory (phi a : Nat) : List Rec → List Rec
  | [] => []
  | r :: l => r :: keepBehind phi a r l

/-- The history release of an input cut (R151). -/
def State.releaseHistory (s : State) : State :=
  let t := s.live
  { s with fabric := { s.fabric with
      pos := s.fabric.pos.map (fun e => (e.1, keepHistory s.fabric.phi (s.zoneDelay (t.slot (e.1 / 4)).zone) e.2)) } }

/-! ### Writers (R135..R140) -/

/-- A record that starts at φ with one value and no fade. -/
def State.snapRec (s : State) (v prio cut : Nat) : Rec :=
  { src := v, dst := v, start := s.fabric.phi, duration := 0, curve := 0, prio := prio, active := true, release := false,
    wasActive := false, cut := cut }

/-- The record that releases a position at φ (R138). -/
def State.releaseRec (s : State) (slot p : Nat) (d : SlotD) (cut : Nat) : Rec :=
  let v := (s.posAt slot p d.dflt s.fabric.phi).value
  let prio := match s.held slot p with
    | r :: _ => r.prio
    | [] => 0
  { s.snapRec v prio cut with release := true }

/-- Write a value record on a position; a slot or position that takes none is counted. -/
def State.writeValue (s : State) (slot p v prio cut : Nat) : State :=
  let d := s.live.slot slot
  if d.takes p then s.putRec slot p d (s.snapRec v prio cut) else s.bumpF R.PF_FADEQ_BAD_COUNT

/-- Release a position, where it is one. -/
def State.releasePos (s : State) (slot p cut : Nat) : State :=
  let d := s.live.slot slot
  if d.takes p then s.putRec slot p d (s.releaseRec slot p d cut) else s.bumpF R.PF_FADEQ_BAD_COUNT

/-- A store of the fabric window (R135): the largest value of a frame is kept. -/
def State.cueSnap (s : State) (slot v : Nat) : State :=
  match mget none0 s.fabric.snaps slot with
  | none => { s with fabric := { s.fabric with snaps := mset none0 s.fabric.snaps slot (some v) } }
  | some u =>
    ({ s with fabric := { s.fabric with snaps := mset none0 s.fabric.snaps slot (some (max u v)) } }).bumpF
      R.PF_CUE_MERGE_COUNT

/-- The cue snaps are taken in (R140, 1). DESIGN CHOICE: those of a frame after which no cut is evaluated wait for the next one that
is (log entry 86). -/
def State.takeSnaps (s : State) (cut : Nat) : State :=
  let l := s.fabric.snaps
  l.foldl (fun s e =>
    match e.2 with
    | none => s
    | some v =>
      let d := s.live.slot e.1
      if d.takes 0 then s.putRec e.1 0 d (s.snapRec v d.cuePrio cut) else s.bumpF R.PF_FADEQ_BAD_COUNT)
    { s with fabric := { s.fabric with snaps := [] } }

/-- A fade queue entry's words. -/
structure FadeEntry where
  w : List Nat
deriving DecidableEq, Repr

def FadeEntry.word (e : FadeEntry) (i : Nat) : Nat := e.w.getD i 0
def FadeEntry.slot (e : FadeEntry) : Nat := bits (e.word 0) 22 0
def FadeEntry.position (e : FadeEntry) : Nat := bits (e.word 0) 26 25
def FadeEntry.dst (e : FadeEntry) : Nat := bits (e.word 1) 31 16
def FadeEntry.seq (e : FadeEntry) : Nat := e.word 6

/-- Whether a list of words comes no later than another. -/
def wordsLe : List Nat → List Nat → Bool
  | a :: l, b :: m => decide (a < b) || (decide (a = b) && wordsLe l m)
  | _, _ => true

/-- The order of R140, 2. DESIGN CHOICE: entries that are equal there follow their words, so that none stands for the core that
wrote it (log entry 87). -/
def fadeLe (a b : FadeEntry) : Bool :=
  if a.seq ≠ b.seq then decide (a.seq < b.seq)
  else if a.slot ≠ b.slot then decide (a.slot < b.slot)
  else if a.position ≠ b.position then decide (a.position < b.position)
  else if a.dst ≠ b.dst then decide (a.dst < b.dst)
  else wordsLe a.w b.w

def fadeInsert (e : FadeEntry) : List FadeEntry → List FadeEntry
  | [] => [e]
  | a :: t => if fadeLe a e then a :: fadeInsert e t else e :: a :: t

def fadeSort (l : List FadeEntry) : List FadeEntry := l.foldl (fun acc e => fadeInsert e acc) []

/-- The Reservoir address of an entry of core `n`'s fade queue (R136). -/
def State.fadeAddr (s : State) (n idx : Nat) : Nat :=
  s.fget R.PF_FADEQ_BASE_base_64k * 65536 + 32768 * n + 32 * (idx % 1024)

def State.fadeEntry (s : State) (n idx : Nat) : FadeEntry :=
  ⟨(List.range 8).map (fun i => memNat s.mem.reservoir (s.fadeAddr n idx + 4 * i) 4)⟩

/-- Entries between a head and a tail of 11 bits. -/
def fadeSpan (head tail : Nat) : Nat := (tail + 2048 - head) % 2048

/-- One queue is taken in up to its latched tail: its entries of frame `frame`, the others counted, the head moved. -/
def State.drainFadeq (s : State) (n frame : Nat) : State × List FadeEntry :=
  let head := s.fget R.PF_FADEQ_HEAD_head n
  let tail := mget nat0 s.fabric.tails n
  let all := (List.range (fadeSpan head tail)).map (fun i => s.fadeEntry n (head + i))
  let good := all.filter (fun e => e.word 7 = frame % 2 ^ 32)
  ((s.bumpN (R.DR_LATE_WRITE_COUNT.off) (all.length - good.length)).fset R.PF_FADEQ_HEAD_head tail n, good)

/-- The entry obeys R137's format. -/
def FadeEntry.ok (e : FadeEntry) : Bool :=
  decide (1 ≤ bits (e.word 0) 31 29 ∧ bits (e.word 0) 31 29 ≤ 3) && bits (e.word 0) 24 23 = 0 &&
    bits (e.word 3) 31 16 = 0 && bits (e.word 5) 23 0 = 0 && (bits (e.word 0) 27 27 = 1 || bits (e.word 3) 15 0 = 0)

/-- Apply one fade queue entry (R137). DESIGN CHOICE: a relative start keeps its value beyond 48 bits (log entry 83). -/
def State.applyFade (s : State) (cut : Nat) (e : FadeEntry) : State :=
  let p := e.position
  let d := s.live.slot e.slot
  if e.ok && d.takes p then
    let op := bits (e.word 0) 31 29
    let start := if bits (e.word 0) 27 27 = 1 then bits (e.word 3) 15 0 * 2 ^ 32 + e.word 2 else s.fabric.phi + e.word 2
    let now := (s.posAt e.slot p d.dflt start).value
    let old := (s.held e.slot p).head?
    if op = 3 then
      s.putRec e.slot p d
        { src := now, dst := now, start := start, duration := 0, curve := (old.map Rec.curve).getD 0,
          prio := (old.map Rec.prio).getD 0, active := (old.map Rec.active).getD false,
          release := (old.map Rec.release).getD false, wasActive := false, cut := cut }
    else
      s.putRec e.slot p d
        { src := if bits (e.word 0) 28 28 = 1 then now else bits (e.word 1) 15 0, dst := e.dst, start := start,
          duration := bits (e.word 4) 31 8, curve := bits (e.word 4) 7 0, prio := bits (e.word 5) 31 24,
          active := true, release := decide (op = 2), wasActive := false, cut := cut }
  else s.bumpF R.PF_FADEQ_BAD_COUNT

/-- The fade queues are taken in (R136, R140, 2), while `fadeq_enable` is 1. -/
def State.takeFades (s : State) (cut : Nat) : State :=
  if s.fbit R.PF_CTRL_fadeq_enable then
    let (s1, l) := (List.range 64).foldl (fun (a : State × List FadeEntry) n =>
      let (s2, g) := a.1.drainFadeq n (cut - 1)
      (s2, a.2 ++ g)) (s, [])
    (fadeSort l).foldl (fun s e => s.applyFade cut e) s1
  else s

/-- The cue deadline latches every queue's tail (R136). -/
def State.latchTails (s : State) : State :=
  (List.range 64).foldl (fun s n =>
    { s with fabric := { s.fabric with tails := mset nat0 s.fabric.tails n (s.fget R.PF_FADEQ_TAIL_tail n) } }) s

/-- One value of SET_VALUES (R138): with priority 0 it releases the position. -/
def State.setValue (s : State) (slot p v prio cut : Nat) : State :=
  if prio = 0 then s.releasePos slot p cut else s.writeValue slot p v prio cut

/-- SET_VALUES writes its records (R138). -/
def State.applyValues (s : State) (f : Flight) : State :=
  let ws := f.words
  (List.range (vCount ws)).foldl (fun s i =>
    s.setValue (vFirst ws + i) (vContrib ws) (vValue ws i) (vPrio ws) f.target) s

/-! ### Groups and the checks of R154 -/

/-- A group's descriptor words. -/
def Tabs.groupValid (t : Tabs) (g : Nat) : Bool := bits (t.word 0x03 0 (4 * g)) 31 31 = 1
def Tabs.groupParent (t : Tabs) (g : Nat) : Nat := bits (t.word 0x03 0 (4 * g + 1)) 15 0
def Tabs.groupMaster (t : Tabs) (g : Nat) : Nat := bits (t.word 0x03 0 (4 * g)) 22 0

/-- The length of a group chain, up to the fuel. -/
def Tabs.chain (t : Tabs) : Nat → Nat → Nat
  | 0, _ => 0
  | n + 1, g => if g = 0 then 0 else 1 + t.chain n (t.groupParent g)

/-- Whether walking up from `g` meets `x`. -/
def Tabs.reaches (t : Tabs) (x : Nat) : Nat → Nat → Bool
  | 0, _ => false
  | n + 1, g => g ≠ 0 && (decide (g = x) || t.reaches x n (t.groupParent g))

/-- Slots with an entry. -/
def Tabs.slots (t : Tabs) : List Nat := t.entries 0x02 0 16

/-- Groups in use: those with `valid` 1, group 0 apart. -/
def Tabs.groups (t : Tabs) : List Nat := (t.entries 0x03 0 16).filter (fun g => g ≠ 0 && t.groupValid g)

/-- The lowest of the failing items, if any. -/
def lowest (l : List Nat) : Option Nat := l.foldl (fun m x => some (match m with | none => x | some y => min x y)) none

/-- The items that fail a check of R154, by code. -/
def Tabs.fabricBad (t : Tabs) (code : Nat) : List Nat :=
  match code with
  | 1 => t.slots.filter (fun n => hasParams (t.role n) && decide (16 < t.chain 17 (t.slot n).group))
  | 2 => t.groups.filter (fun g => t.reaches g ((t.entries 0x03 0 16).length + 1) (t.groupParent g))
  | 3 => t.groups.filter (fun g => t.role (t.groupMaster g) ≠ roleMaster) ++
      t.slots.filter (fun n => t.role n = roleMaster && (t.slot n).group ≠ 0)
  | 4 => t.slots.filter (fun n =>
      (t.role n = roleFine && (n % 512 = 0 || t.role (n - 1) ≠ roleParam16)) || (t.role n = roleParam16 && n % 512 = 511))
  | 5 => t.slots.filter (fun n =>
      hasParams (t.role n) && bits (t.word 0x02 0 (4 * n)) 24 24 = 1 &&
        bits (t.word 0x01 0 (8 * bits (t.word 0x02 0 (4 * n)) 17 0)) 31 31 = 0)
  | 6 => t.slots.filter (fun n => hasParams (t.role n) && (t.slot n).group ≠ 0 && !(t.groupValid (t.slot n).group)) ++
      t.groups.filter (fun g => t.groupParent g ≠ 0 && !(t.groupValid (t.groupParent g)))
  | 11 => (t.entries 0x01 0 32).filter (fun f =>
      let w0 := t.word 0x01 0 (8 * f)
      let w1 := t.word 0x01 0 (8 * f + 1)
      let w3 := t.word 0x01 0 (8 * f + 3)
      bits w0 31 31 = 1 && (bits w0 30 23 ≠ 0 || bits w1 19 11 ≠ 0 || bits (t.word 0x01 0 (8 * f + 2)) 31 16 ≠ 0 ||
        bits w3 31 28 ≠ 0 || bits w3 21 8 ≠ 0 || decide (bits w1 10 0 = 0 ∨ 1024 < bits w1 10 0) ||
        decide (8388608 < bits w0 22 0 + bits w1 10 0)))
  | 12 => t.slots.filter (fun n =>
      decide (6 ≤ t.role n) || bits (t.word 0x02 0 (4 * n + 2)) 19 16 ≠ 0 || bits (t.word 0x02 0 (4 * n + 3)) 23 14 ≠ 0)
  | 13 => t.groups.filter (fun g =>
      bits (t.word 0x03 0 (4 * g)) 29 28 ≠ 0 || bits (t.word 0x03 0 (4 * g)) 23 23 ≠ 0 ||
        bits (t.word 0x03 0 (4 * g + 1)) 31 16 ≠ 0 || t.word 0x03 0 (4 * g + 2) ≠ 0 || t.word 0x03 0 (4 * g + 3) ≠ 0)
  | 14 => (t.entries 0x05 0 16).filter (fun z =>
      bits (t.word 0x05 0 (4 * z)) 29 24 ≠ 0 || bits (t.word 0x05 0 (4 * z)) 31 30 = 3 ||
        bits (t.word 0x05 0 (4 * z + 1)) 31 21 ≠ 0)
  | _ => []

/-- Enabled positions of a set of four. -/
def popCount4 (v : Nat) : Nat := v % 2 + v / 2 % 2 + v / 4 % 2 + v / 8 % 2

/-- The contributors of R153. -/
def Tabs.contributors (t : Tabs) : Nat :=
  t.slots.foldl (fun a n =>
    let d := t.slot n
    if hasParams d.role then a + popCount4 d.positions + b2n d.rillOn + t.chain 17 d.group else a) 0

/-- R36: at most 16 × 10^9 × 0.625 P contributors. -/
def Tabs.fabricOver (t : Tabs) : Bool := decide (10000000000 * t.rateDen < t.contributors * t.rateNum)

end Sys2Proof.Machine
end

