-- ==== Sys2Proof/Machine/Rills.lean ====
section
/-! DEFINITION. Rills (chapter 5) and the passes of the fabric (R152): the Rill pass, the master pass and the member pass
with the universe image. -/

namespace Sys2Proof.Machine

/-! ### Contexts (R163) -/

/-- Word `w` of context `i`. -/
def Tabs.rillWord (t : Tabs) (i w : Nat) : Nat := t.word 0x06 0 (16 * i + w)

def Tabs.rillValid (t : Tabs) (i : Nat) : Bool := bits (t.rillWord i 0) 31 31 = 1
def Tabs.rillKind (t : Tabs) (i : Nat) : Nat := bits (t.rillWord i 0) 30 28
def Tabs.rillBit (t : Tabs) (i b : Nat) : Bool := bits (t.rillWord i 0) b b = 1
def Tabs.rillGlide (t : Tabs) (i : Nat) : Bool := t.rillBit i 26
def Tabs.rillShared (t : Tabs) (i : Nat) : Bool := t.rillBit i 25
def Tabs.rillKeepPhase (t : Tabs) (i : Nat) : Bool := t.rillBit i 24
def Tabs.rillGateUse (t : Tabs) (i : Nat) : Bool := t.rillBit i 23
def Tabs.rillRetrigger (t : Tabs) (i : Nat) : Bool := t.rillBit i 22
def Tabs.rillDepthUse (t : Tabs) (i : Nat) : Bool := t.rillBit i 21
def Tabs.rillZone (t : Tabs) (i : Nat) : Nat := bits (t.rillWord i 0) 19 8
def Tabs.rillCurve (t : Tabs) (i : Nat) : Nat := bits (t.rillWord i 0) 7 0
def Tabs.rillRate (t : Tabs) (i : Nat) : Int := sint (t.rillWord i 2) 32
def Tabs.rillPhase0 (t : Tabs) (i : Nat) : Nat := t.rillWord i 3
def Tabs.rillSpread (t : Tabs) (i : Nat) : Int := sint (t.rillWord i 4) 32
def Tabs.rillSpreadY (t : Tabs) (i : Nat) : Int := sint (t.rillWord i 15) 32
def Tabs.rillAnchorSlot (t : Tabs) (i : Nat) : Nat := bits (t.rillWord i 7) 22 0
def Tabs.rillStride (t : Tabs) (i : Nat) : Nat := bits (t.rillWord i 8) 10 0
def Tabs.rillStart (t : Tabs) (i : Nat) : Nat := t.rillWord i 9 + 2 ^ 32 * bits (t.rillWord i 10) 15 0
def Tabs.rillStop (t : Tabs) (i : Nat) : Nat := t.rillWord i 11 + 2 ^ 32 * bits (t.rillWord i 12) 15 0
def Tabs.rillGateSlot (t : Tabs) (i : Nat) : Nat := bits (t.rillWord i 13) 22 0
def Tabs.rillDepthSlot (t : Tabs) (i : Nat) : Nat := bits (t.rillWord i 14) 22 0

def rill0 (_ : Nat) : Rill := {}

def State.rill (s : State) (i : Nat) : Rill := mget rill0 s.fabric.rills i

def State.setRill (s : State) (i : Nat) (r : Rill) : State :=
  { s with fabric := { s.fabric with rills := mset rill0 s.fabric.rills i r } }

/-! ### Phase (R165) -/

/-- The anchor in force: the one that was set, else (`start`, `phase0`). -/
def Tabs.anchorOf (t : Tabs) (i : Nat) (r : Rill) : Nat × Int := r.anchor.getD (t.rillStart i, (t.rillPhase0 i : Int))

/-- The base phase P(t) of a context. -/
def Tabs.basePhase (t : Tabs) (i : Nat) (r : Rill) (time : Nat) : Int :=
  let (ta, pa) := t.anchorOf i r
  pa + (((time : Int) - ta) * t.rillRate i) / 1000

/-! ### Shapes (R167, R168) -/

/-- The mixing function of R168. -/
def rillMix (v0 : Word) : Word :=
  let v1 := v0 ^^^ (v0 >>> 16)
  let v2 := v1 * 0x6C8E9CF5#32
  let v3 := v2 ^^^ (v2 >>> 15)
  let v4 := v3 * 0x2B3A4E17#32
  v4 ^^^ (v4 >>> 16)

/-- rnd(k) of R168. -/
def rillRnd (seed : Nat) (k : Int) (mm : Nat) : Nat :=
  (rillMix (BitVec.ofNat 32 seed ^^^ rillMix (BitVec.ofNat 32 (twos k 32) ^^^ rillMix (BitVec.ofNat 32 mm)))).toNat / 65536

/-- tri(x) of BREATHE. -/
def rillTri (x : Nat) : Nat := if x ≤ 32768 then x * 65535 / 32768 else (65536 - x) * 65535 / 32768

/-- The shape w of a member, from its unwrapped phase and its hash index. -/
def State.rillShape (s : State) (i : Nat) (pm : Int) (mm : Nat) : Nat :=
  let t := s.live
  let k := pm / (2 ^ 32 : Int)
  let x16 := (pm - k * 2 ^ 32).toNat / 65536
  let c := t.rillCurve i
  let pt (j : Nat) : Nat := curvePoint (s.table 0x04 c) c j
  let m := if t.rillShared i then 0 else mm
  let seed := t.rillWord i 6
  match t.rillKind i with
  | 0 => s.curve c (rillTri x16)
  | 1 => s.curve c x16
  | 2 => if x16 < bits (t.rillWord i 5) 31 16 then 65535 else 0
  | 3 =>
    let n := bits (t.rillWord i 5) 10 0
    let j := x16 * n / 65536
    if t.rillGlide i then lerp16 (pt j) (pt ((j + 1) % n)) (x16 * n % 65536) else pt j
  | _ =>
    let a := rillRnd seed k m
    if t.rillGlide i then lerp16 (rillRnd seed (k - 1) m) a (s.curve c x16) else a

/-- The value of R169 from a shape. -/
def State.rillOut (s : State) (i w : Nat) : Nat :=
  let t := s.live
  let w1 := if t.rillBit i 27 then 65535 - w else w
  let d := q16 (bits (t.rillWord i 1) 31 16) (if t.rillDepthUse i then (s.rill i).depth else 65535)
  min 65535 (bits (t.rillWord i 1) 15 0 + q16 w1 d)

/-- The value of a context for a slot bound to it (R170). -/
def State.rillSlot (s : State) (i slot : Nat) : Nat :=
  let t := s.live
  let m := (slot - t.rillAnchorSlot i) / t.rillStride i
  s.rillOut i (s.rillShape i (t.basePhase i (s.rill i) (s.zoneTime (t.rillZone i)) + m * t.rillSpread i) m)

/-- The value of a context for a field pixel (R171). -/
def State.rillField (s : State) (i x y : Nat) : Nat :=
  let t := s.live
  let p := t.basePhase i (s.rill i) (s.zoneTime (t.rillZone i)) + x * t.rillSpread i + y * t.rillSpreadY i
  s.rillOut i (s.rillShape i p (y * 65536 + x))

/-! ### The Rill pass (R172..R175) -/

/-- A slot's final value in the latest completed member pass. -/
def State.finalValue (s : State) (slot : Nat) : Nat := mget nat0 s.fabric.final slot

/-- One context in the Rill pass: its gate and depth of F−1, whether it runs, and the retrigger row of R173. DESIGN CHOICE: after
frames without a pass the gate counts as it stood in the latest one, or as closed where a COMMIT has set the context up since, and
the values are those of the latest member pass (log entry 84). -/
def State.rillOne (s : State) (i : Nat) : State :=
  let t := s.live
  let r := s.rill i
  let tF := s.zoneTime (t.rillZone i)
  let isOpen := decide (32768 ≤ s.finalValue (t.rillGateSlot i))
  let opens := t.rillGateUse i && isOpen && (!r.gateOpen || r.fresh)
  let runs := s.fbit R.RL_CTRL_run_enable && (!t.rillGateUse i || isOpen) && decide (t.rillStart i ≤ tF) &&
    (decide (t.rillStop i = 0) || decide (tF < t.rillStop i))
  let re := opens && t.rillRetrigger i && runs
  let r1 : Rill :=
    { anchor := if re then some (tF, (t.rillPhase0 i : Int)) else r.anchor
      running := runs
      gateOpen := isOpen
      openedAt := if opens then tF else r.openedAt
      depth := if t.rillDepthUse i then s.finalValue (t.rillDepthSlot i) else 65535
      fresh := false }
  let s1 := s.setRill i r1
  if re then s1.bumpF R.RL_RETRIGGER_COUNT else s1

/-- No context runs: the pass does not take place (R175). -/
def State.rillsStop (s : State) : State :=
  let rs := s.fabric.rills.map (fun e => (e.1, { e.2 with running := false }))
  { s with fabric := { s.fabric with rills := rs.filter (fun e => e.2 ≠ {}) } }

/-- RL_STATUS and RL_RUNNING_MAP show the running contexts. -/
def State.rillStatus (s : State) : State :=
  let run := (s.fabric.rills.filter (fun e => e.2.running)).map (fun e => e.1)
  let word (j : Nat) : Word := run.foldl (fun w i => if i / 32 = j then w ||| (1 <<< (i % 32)) else w) 0
  let s1 := s.fset R.RL_STATUS_running run.length
  (List.range 512).foldl (fun s j => s.setRg (R.RL_RUNNING_MAP.off j) (word j)) s1

/-- The Rill pass of a frame, in the frame's take-in (R152). It ends within 4 µs; how long it took is a free value below
that. -/
def State.rillPass (s : State) : State :=
  if s.fbit R.PF_CTRL_eval_enable then
    let t := s.live
    let valid := (t.entries 0x06 0 64).filter (fun i => t.rillValid i)
    let s1 := (s.rillsStop)
    let s2 := valid.foldl (fun s i => s.rillOne i) s1
    let (n, s3) := s2.rillStatus.fresh
    s3.fset R.RL_PASS_TIME (Config.pick n % 4001)
  else s.rillsStop.rillStatus

/-- What a COMMIT of scope FABRIC does to a context that it makes live (R173): `old` is the view before it, `t` the one after. -/
def State.rillCommitted (s : State) (old t : Tabs) (i : Nat) : State :=
  let r := s.rill i
  let tF := s.zoneTime (t.rillZone i)
  let a := if t.rillKeepPhase i && r.running then some (tF, old.basePhase i r tF) else none
  s.setRill i { r with anchor := a, fresh := true }

/-- Whether a commit changed any byte of a context. -/
def rillChanged (old new : Tabs) (i : Nat) : Bool := (List.range 16).any (fun w => old.rillWord i w ≠ new.rillWord i w)

/-- The anchors of every context that one commit made live. -/
def State.rillsMoved (s : State) (old t : Tabs) : State :=
  let l := (t.entries 0x06 0 64 ++ old.entries 0x06 0 64).eraseDups
  (l.filter (fun i => rillChanged old t i)).foldl (fun s i => s.rillCommitted old t i) s

/-- The anchors after the cut's commits, in their order: each with the views before and after it. -/
def State.rillsCommitted (s : State) (views : List (Tabs × Tabs)) : State := views.foldl (fun s v => s.rillsMoved v.1 v.2) s

/-- The items that fail a check of R164, by code. -/
def Tabs.rillBad (t : Tabs) (code : Nat) : List Nat :=
  let ctx := (t.entries 0x06 0 64).filter (fun i => t.rillValid i)
  match code with
  | 7 => ctx.filter (fun i =>
      bits (t.rillWord i 0) 20 20 ≠ 0 || decide (4 < t.rillKind i) || bits (t.rillWord i 5) 15 11 ≠ 0 ||
        bits (t.rillWord i 7) 31 23 ≠ 0 || bits (t.rillWord i 8) 31 11 ≠ 0 || bits (t.rillWord i 10) 31 16 ≠ 0 ||
        bits (t.rillWord i 12) 31 16 ≠ 0 || bits (t.rillWord i 13) 31 23 ≠ 0 || bits (t.rillWord i 14) 31 23 ≠ 0 ||
        (t.rillKind i = 3 && decide (bits (t.rillWord i 5) 10 0 = 0 ∨ 1024 < bits (t.rillWord i 5) 10 0)) ||
        decide (t.rillStride i = 0 ∨ 1024 < t.rillStride i))
  | 8 => t.slots.filter (fun n =>
      let d := t.slot n
      hasParams d.role && d.rillOn && t.rillValid d.rill && decide (n < t.rillAnchorSlot d.rill))
  | 9 => ctx.filter (fun i =>
      (t.rillGateUse i && !(hasParams (t.role (t.rillGateSlot i)))) ||
        (t.rillDepthUse i && !(hasParams (t.role (t.rillDepthSlot i)))))
  | _ => []

/-! ### Merge and groups (R144, R145) -/

/-- One active contributor: its value, priority, start, and place among equals. -/
structure Contrib where
  value : Nat
  prio : Nat
  start : Nat
  place : Nat
deriving DecidableEq, Repr

/-- Whether `b` comes after `a` for LTP. -/
def laterThan (a b : Contrib) : Bool := decide (a.start < b.start ∨ (a.start = b.start ∧ a.place < b.place))

def mergeHtp (l : List Contrib) : Nat := l.foldl (fun m c => max m c.value) 0

def mergeLtp : List Contrib → Nat
  | [] => 0
  | c :: l => (l.foldl (fun m x => if laterThan m x then x else m) c).value

/-- Merge active contributors under a slot's rule (R144). -/
def mergeSlot (rule dflt : Nat) (l : List Contrib) : Nat :=
  match l with
  | [] => dflt
  | _ =>
    let top := l.foldl (fun m c => max m c.prio) 0
    let best := l.filter (fun c => c.prio = top)
    match rule with
    | 0 => mergeHtp l
    | 1 => mergeLtp l
    | 2 => mergeHtp best
    | _ => mergeLtp best

/-- A slot's active contributors at its zone time. -/
def State.contribs (s : State) (n : Nat) (d : SlotD) : List Contrib :=
  let t := s.zoneTime d.zone
  let fades := (List.range 4).filterMap (fun p =>
    if d.takes p then
      let v := s.posAt n p d.dflt t
      if v.active then some { value := v.value, prio := v.prio, start := v.start, place := p : Contrib } else none
    else none)
  let r := s.rill d.rill
  let tb := s.live
  let start := if tb.rillGateUse d.rill then max (tb.rillStart d.rill) r.openedAt else tb.rillStart d.rill
  if d.rillOn && r.running && tb.rillValid d.rill then
    fades ++ [{ value := s.rillSlot d.rill n, prio := d.rillPrio, start := start, place := 4 }]
  else fades

/-- Most history records read for one position of a slot. -/
def State.walkMax (s : State) (n : Nat) (d : SlotD) : Nat :=
  let t := s.zoneTime d.zone
  (List.range 4).foldl (fun m p => if d.takes p then max m (s.posAt n p d.dflt t).walked else m) 0

def State.merged (s : State) (n : Nat) (d : SlotD) : Nat := mergeSlot d.merge d.dflt (s.contribs n d)

/-- Apply a slot's groups from the innermost outwards, with the masters' values of the frame. -/
def groupsApply (t : Tabs) (master : Nat → Nat) (kind : Nat) : Nat → Nat → Nat → Nat
  | 0, _, v => v
  | n + 1, g, v =>
    if g = 0 then v
    else
      let w := t.word 0x03 0 (4 * g)
      let m := master (t.groupMaster g)
      let v1 := if bits w 27 24 / 2 ^ kind % 2 = 1 then (if bits w 30 30 = 0 then q16 v m else min v m) else v
      groupsApply t master kind n (t.groupParent g) v1

/-- The response curve and `invert`. -/
def State.respond (s : State) (d : SlotD) (v : Nat) : Nat :=
  let r := s.curve d.response v
  if d.invert then 65535 - r else r

/-- The final value of a MASTER slot (R132: no group of its own). -/
def State.masterValue (s : State) (n : Nat) : Nat := let d := s.live.slot n; s.respond d (s.merged n d)

/-- The final value of a PARAM8 or PARAM16 slot. -/
def State.memberValue (s : State) (master : Nat → Nat) (n : Nat) : Nat :=
  let d := s.live.slot n
  s.respond d (groupsApply s.live master d.kind 16 d.group (s.merged n d))

/-! ### Output bytes (R129) -/

/-- The byte of a 16-bit value: floor((v + 128) / 257). -/
def byteOf16 (v : Nat) : Byte := BitVec.ofNat 8 ((v + 128) / 257)

/-- The byte of a slot, given the final values. -/
def Tabs.slotByte (t : Tabs) (final : Nat → Nat) (n : Nat) : Byte :=
  let d := t.slot n
  match d.role with
  | 1 => byteOf16 (final n)
  | 2 => BitVec.ofNat 8 (final n / 256)
  | 3 => BitVec.ofNat 8 (final (n - 1) % 256)
  | 4 => byteOf16 (final n)
  | 5 => byteOf16 (if d.invert then 65535 - d.dflt else d.dflt)
  | _ => 0

/-- The value that a slot sends while `eval_enable` is 0 (R158): its default with its own `invert`. -/
def Tabs.idleValue (t : Tabs) (n : Nat) : Nat := let d := t.slot n; if d.invert then 65535 - d.dflt else d.dflt

/-- The universe image of the slots, by slot index. -/
def Tabs.universeImage (t : Tabs) (final : Nat → Nat) : Memory :=
  t.slots.foldl (fun m n => memSet m n (t.slotByte final n)) []

/-! ### The member pass -/

/-- The master and member passes (R152), and the universe image. -/
def State.evaluate (s : State) : State :=
  let t := s.live
  if s.fbit R.PF_CTRL_eval_enable then
    let masters := (t.slots.filter (fun n => t.role n = roleMaster)).map (fun n => (n, s.masterValue n))
    let mv := mget nat0 masters
    let members := (t.slots.filter (fun n => t.role n = roleParam8 || t.role n = roleParam16)).map
      (fun n => (n, s.memberValue mv n))
    let final := (masters ++ members).foldl (fun m e => mset nat0 m e.1 e.2) []
    let wm := (t.slots.filter (fun n => hasParams (t.role n))).foldl (fun m n => max m (s.walkMax n (t.slot n))) 0
    { s.fset R.PF_STATUS_history_walk_max wm with
      fabric := { s.fabric with final := final, image := t.universeImage (mget nat0 final), memberDone := true, evaluated := true } }
  else
    { s.fset R.PF_STATUS_history_walk_max 0 with
      fabric := { s.fabric with image := t.universeImage t.idleValue, memberDone := true, evaluated := false } }

/-- Whether a time since the input cut is past the evaluation window of 20 sub-ticks. -/
def State.pastWindow (s : State) (ns : Nat) : Bool :=
  decide (20 * 1000000000 * s.live.rateDen < 32 * ns * s.live.rateNum)

/-- The member pass ends: its values stand, and PF_EVAL_TIME and the overrun show how long it took. -/
def State.memberPassEnd (s : State) : State :=
  if s.fabric.memberDone then s
  else
    let ns := nsSince s s.fabric.cutAt
    let s1 := s.evaluate.fset R.PF_EVAL_TIME ns
    if s.pastWindow ns && s.fbit R.PF_CTRL_eval_enable then
      (s1.bumpF R.PF_OVERRUN_COUNT).fset R.PF_STATUS_overrun_last 1
    else s1.fset R.PF_STATUS_overrun_last 0

/-! ### Register writes of the fabric and the Rills -/

/-- A write of PF_CTRL (R158): taking the fade queues in is refused while they overlap the staging area. -/
def State.pfCtrlWrite (s : State) (req : Requester) (v : Word) : State :=
  let bad := v.getLsbD 0 && overlapsStaging (s.fget R.PF_FADEQ_BASE_base_64k * 65536) 2097152 &&
    !(s.fbit R.PF_CTRL_fadeq_enable)
  let s1 := (s.fset R.PF_CTRL_eval_enable (b2n (v.getLsbD 31))).fset R.PF_CTRL_fadeq_enable
    (b2n (v.getLsbD 0 && !bad))
  if bad then s1.accessErr true req R.PF_CTRL.off else s1

/-- A write of PF_FADEQ_TAIL (R136): one more than 1,024 beyond the head is discarded. -/
def State.fadeqTailWrite (s : State) (n : Nat) (v : Word) : State :=
  let t := getBits v 10 0
  if 1024 < fadeSpan (s.fget R.PF_FADEQ_HEAD_head n) t then s.bumpF R.PF_FADEQ_OVERFLOW_COUNT
  else s.fset R.PF_FADEQ_TAIL_tail t n

/-- A write of PF_FADEQ_BASE: discarded and counted while `fadeq_enable` is 1 (R160, R539). -/
def State.fadeqBaseWrite (s : State) (req : Requester) (v : Word) : State :=
  if s.fbit R.PF_CTRL_fadeq_enable then s.accessErr true req R.PF_FADEQ_BASE.off else s.fset R.PF_FADEQ_BASE_base_64k (getBits v 17 0)

/-- A write of PF_DELAY_SLEW: 0 is stored as 1 (R160). -/
def State.delaySlewWrite (s : State) (v : Word) : State :=
  s.fset R.PF_DELAY_SLEW_slew_us (if getBits v 20 0 = 0 then 1 else getBits v 20 0)

/-! ### Stores to the fabric window (R116, R135) -/

/-- A store of a task: it lands as a contribution of its frame, or is late: the frame is past, or the task late (R104). A core
without a task has no frame, so its store belongs to none that an input cut will take in: late. -/
def State.windowStore (s : State) (core slot v : Nat) : State :=
  let lands : Bool := match (s.core core).task with
    | some i => (s.task i).any (fun t => t.frame = s.evalFrame && !t.late)
    | none => false
  if lands then s.cueSnap slot v else s.bumpF R.DR_LATE_WRITE_COUNT

def State.windowExec (s : State) (core addr : Nat) (wide : Bool) (rs2 : Nat) : State :=
  if s.coreReady core then
    let n := if wide then 4 else 2
    if addr % n ≠ 0 then s.coreTrap core 6 (BitVec.ofNat 32 (0x20000000 + addr))
    else
      let v := (s.core core).xr rs2
      let s1 := s.windowStore core (addr / 2) (lane0 v)
      (if wide then s1.windowStore core (addr / 2 + 1) (lane1 v) else s1).coreStep core
  else s

def execFabricWindowStore (core : Fin 64) (addr : BitVec 24) (wide : Bool) (rs2 : Fin 32) (s : State) :
    Host.Outcome State Fault Refusal :=
  .next (s.windowExec core addr.toNat wide rs2).settle

end Sys2Proof.Machine
end

