-- ==== Sys2Proof/Machine/HostRings.lean ====
section
/-! DEFINITION. The commands of the host rings (chapter 2): polling and fetch, ring control, table transfers, and the
descriptors that act at once. Descriptors of other chapters start there. -/

namespace Sys2Proof.Machine

/-! ### Reaches and domains that a descriptor names (R69) -/

/-- Whether the canvas, lateral, MAC, raster output or cluster that a scope names is in service. -/
def State.inService (s : State) (kind idx : Nat) : Bool :=
  let has (f : RF) : Bool := s.fget f / 2 ^ idx % 2 = 1
  if kind = scCanvas then has R.UPD_REACH_STATUS_canvases
  else if kind = scLateral then has R.UPD_REACH_STATUS_laterals
  else if kind = scNet then decide (idx < 4) && has R.UPD_REACH_STATUS_macs
  else if kind = scRaster then has R.UPD_REACH_STATUS_rasters
  else if kind = scCluster then has R.UPD_REACH_STATUS_clusters
  else false

/-- The domain of a scope's target block; index 8 of LATERAL stands for F8 while it serves no lateral, in PD_SYS. -/
def scopeDomain (kind idx : Nat) : Domain :=
  if kind = scLateral then if idx < 4 then .latLo else if idx < 8 then .latHi else .sys
  else if kind = scNet ∨ kind = scTime then .net
  else if kind = scRaster then .cistern
  else if kind = scCluster then if idx = 0 then .coreA else .coreB
  else if kind = scPower then .tend
  else .pix

/-- REACH_IN_SERVICE or POWERED_OFF for a target, if either holds. -/
def State.targetStatus (s : State) (kind idx : Nat) : Option Nat :=
  if s.inService kind idx then some stInService
  else if s.domOn (scopeDomain kind idx) then none
  else some stPoweredOff

/-- The lateral that flume microcode or slice tables of flume `f` belong to (R60): F8 with the lateral it serves. -/
def State.flumeLateral (s : State) (f : Nat) : Nat :=
  if f < 8 then f else if s.fbit R.FL_TAKEOVER_active then s.fget R.FL_TAKEOVER_lateral else 8

/-- The scope of a table class's instance. -/
def State.scopeOf (s : State) (cls inst : Nat) : Nat × Nat :=
  match findClass cls with
  | none => (0, 0)
  | some (n, _, k) =>
    if cls = 0x40 ∨ cls = 0x41 then (k, s.flumeLateral inst)
    else if k = scColour then (k, 0)
    else if k = scFabric then (k, 0)
    else if n = 1 then (k, if k = scNet then 0xFFFFFF else 0)
    else (k, inst)

/-! ### SERVICE_REACH at its fetch (R33, R511) -/

def reachScope (kind idx : Nat) : Bool :=
  if kind = scLateral then decide (idx < 8)
  else if kind = scCluster ∨ kind = scRaster then decide (idx < 2)
  else if kind = scNet ∨ kind = scCanvas then decide (idx < 4)
  else false

def reachOk (ws : List Word) : Bool := formCOk ws && reachScope (cKind ws) (cIndex ws) && decide (cArg ws < 8)

def isReach (begin_ : Bool) (ws : List Word) : Bool := dOpcode ws = 0x0D && decide ((cArg ws % 2 = 1) = (begin_ = true))

/-- Whether one of these descriptors asks a reach of a kind into service. -/
def reachAsked (l : List (List Word)) (kind : Nat) (other : Nat → Bool) : Bool :=
  l.any (fun ws => isReach true ws && reachOk ws && cKind ws = kind && other (cIndex ws))

/-- The descriptors fetched and not completed. -/
def State.fetched (s : State) : List (List Word) :=
  s.rings.inbox.map (fun d => d.words) ++ s.rings.flight.map (fun f => f.words)

/-- REACH_BUSY (R33): a second lateral or a second cluster, as the descriptor's fetch finds it. -/
def State.reachBusy (s : State) (ws : List Word) : Bool :=
  let i := cIndex ws
  let other (j : Nat) : Bool := j ≠ i
  if !(isReach true ws) then false
  else if cKind ws = scLateral then
    (match s.die.svc with
     | some v => other v.lateral
     | none => false) || s.die.ask.any other || reachAsked s.fetched scLateral other
  else if cKind ws = scCluster then
    s.inService scCluster (1 - i) || mget bool0 s.ditch.draining (1 - i) ||
      (s.live_.hand ≠ 0 && other (s.fget R.UPD_STATUS_cluster)) || reachAsked s.fetched scCluster other
  else false

/-! ### Polling and fetch (R48..R53) -/

/-- Whether the ring engine runs: PD_SYS on, and not in WATCH, where only the Ditchrider, the Silt trap and register
access are clocked (R18), nor once it is asked to agree to a sleep (R452), nor on a standby (R432). -/
def State.engineOn (s : State) : Bool :=
  s.domOn .sys && decide (s.fget R.PM_STATE_state ≤ 1) && !(s.quiesced 0x01) && !s.isStandby

/-- Ring `n` reads its two doorbell words; an index fault puts it into ERROR (R48, R49). -/
def State.takeDoorbell (s : State) (n : Nat) (page : List Byte) : State × Nat :=
  let tail := leNat ((page.drop (4 * n)).take 4)
  let head := leNat ((page.drop (128 + 4 * n)).take 4)
  let ks := s.sqLog n
  let kc := s.cqLog n
  let sqHead := s.fget R.HOST_RING_STATUS_sq_head n
  let r := s.ring n
  let ok := decide (tail < 2 ^ (ks + 1)) && decide (head < 2 ^ (kc + 1)) &&
    decide ((tail + 2 ^ (ks + 1) - sqHead) % 2 ^ (ks + 1) ≤ 2 ^ ks) &&
    decide ((head + 2 ^ (kc + 1) - r.cqHead) % 2 ^ (kc + 1) ≤ (r.cqTail + 2 ^ (kc + 1) - r.cqHead) % 2 ^ (kc + 1))
  if ok then (s.setRing n { r with sqTail := tail, cqHead := head }, 0) else (s.ringFault n 2, 1)

/-- One doorbell page reaches its live rings; an unreadable one puts them into ERROR (R74). -/
def State.readPage (s : State) (place : Nat) (page : Option (List Byte)) : State :=
  (List.range 32).foldl (fun s n =>
    if s.ringLive n && s.ringPlace n = place then
      match page with
      | some p => (s.takeDoorbell n p).1
      | none => s.ringFault n 3
    else s) s

def State.sqCount (s : State) (n : Nat) : Nat :=
  let k := s.sqLog n
  ((s.ring n).sqTail + 2 ^ (k + 1) - s.fget R.HOST_RING_STATUS_sq_head n) % 2 ^ (k + 1)

/-- The ring's next fetched descriptor waits at a fence, or its target presses back on it. -/
def State.ringHolds (s : State) (n : Nat) : Bool :=
  s.rings.inbox.any (fun d => d.ring = n && dFence d.words) ||
    (match s.rings.inbox.find? (fun d => d.ring == n) with
     | some d => s.pressed d.words
     | none => false)

/-- R52, apart from the free CQ slot. -/
def State.wants (s : State) (n : Nat) : Bool :=
  s.ringState n = rRunning && decide (0 < s.sqCount n) && !(s.ringHolds n)

/-- A ring eligible for fetch (R52). -/
def State.eligible (s : State) (n : Nat) : Bool := s.wants n && decide (0 < s.cqFree n)

/-- Fetch one descriptor: its bytes, its reservation (its place in the inbox), the head moved. A failed fetch leaves
`sq_head` at it (R74). -/
def State.fetchOne (s : State) (host : HostView) (n : Nat) : State :=
  let k := s.sqLog n
  let h := s.fget R.HOST_RING_STATUS_sq_head n
  match s.dmaRead host (s.ringPlace n) (s.sqBase n + 64 * (h % 2 ^ k)) 64 with
  | none => s.ringFault n 3
  | some b =>
    let ws := (List.range 16).map (fun i => BitVec.ofNat 32 (leNat ((b.drop (4 * i)).take 4)))
    let d : Fetched := { ring := n, words := ws, target := extendFrame s.frame (dTargetLow ws), busy := s.reachBusy ws }
    let s1 := s.fset R.HOST_RING_STATUS_sq_head ((h + 1) % 2 ^ (k + 1)) n
    { s1 with rings := { s1.rings with inbox := s1.rings.inbox ++ [d] } }

/-- A turn: at most 8 descriptors of one ring. -/
def State.fetchTurn (s : State) (host : HostView) (n : Nat) : Nat → State
  | 0 => s
  | k + 1 => if s.eligible n then (s.fetchOne host n).fetchTurn host n k else s

/-- The ring served next: the lowest priority value, round-robin within it. -/
def State.nextRing (s : State) : Option Nat :=
  let el := (List.range 32).filter (fun n => s.eligible n)
  match el with
  | [] => none
  | a :: t =>
    let prio (n : Nat) : Nat := s.fget R.HOST_RING_CFG_priority n
    let p := t.foldl (fun m n => min m (prio n)) (prio a)
    let same := el.filter (fun n => prio n = p)
    match mget none0 (s.rings.lastServed.map (fun e => (e.1, some e.2))) p with
    | some last =>
      match same.find? (fun n => decide (last < n)) with
      | some n => some n
      | none => same.head?
    | none => same.head?

/-- Fetch turns until no ring is eligible. -/
def State.fetchAll (s : State) (host : HostView) : Nat → State
  | 0 => s
  | k + 1 =>
    match s.nextRing with
    | none => s
    | some n =>
      let p := s.fget R.HOST_RING_CFG_priority n
      let s1 := s.fetchTurn host n 8
      let l := (s1.rings.lastServed.filter (fun e => e.1 ≠ p))
      ({ s1 with rings := { s1.rings with lastServed := mins p n l } }).fetchAll host k

/-- Count each stop of a ring by a full CQ once (R53): a stop lasts until a slot of the CQ is free. -/
def State.countFull (s : State) : State :=
  (List.range 32).foldl (fun s n =>
    if s.wants n && s.cqFree n = 0 then
      if (s.ring n).stalled then s
      else (s.setRing n { s.ring n with stalled := true }).bumpF R.HOST_RING_STALL_COUNT n
    else if (s.ring n).stalled && decide (0 < s.cqFree n) then s.setRing n { s.ring n with stalled := false } else s) s

/-- The doorbell page in host memory and in the Reservoir. -/
def State.hostPage (s : State) (host : HostView) : Option (List Byte) :=
  s.dmaRead host 0 (s.pair R.HOST_DOORBELL_BASE_LO) 256

def State.resPage (s : State) (host : HostView) : Option (List Byte) :=
  s.dmaRead host 1 (s.fget R.HOST_AUTO_DOORBELL_BASE_page * 256) 256

/-- More turns than 32 rings of 2^16 descriptors can take. -/
def fetchFuel : Nat := 32 * 65536

/-- A poll (R50..R53). The ranges of host memory that fail now also fail the completions written until the next
poll. -/
def State.hostPoll (s : State) (host : HostView) : State :=
  if s.engineOn then
    let s0 := { s with pcie := { s.pcie with fails := host.fails }
                       rings := { s.rings with pollStart := s.now, nudgePending := false } }
    let s1 := (s0.readPage 0 (s0.hostPage host)).readPage 1 (s0.resPage host)
    ((s1.countFull).fetchAll host fetchFuel).countFull
  else s

def execHostPoll (host : HostView) (s : State) : Host.Outcome State Fault Refusal := .next (s.hostPoll host).settle

/-- R51: each nudge is counted; those before the next poll are merged into it. -/
def State.nudge (s : State) : State :=
  let s1 := s.bumpF R.HOST_NUDGE_COUNT
  { s1 with rings := { s1.rings with nudgePending := true } }

/-! ### Descriptors that act at once -/

/-- 0x00. NOP has no form: words 4..15 are reserved (R591). -/
def execNop (s : State) : Host.Outcome State Fault Refusal :=
  .next (s.startDesc (isOp 0x00) (fun ws => tailZero ws 4) (fun s f => s.finish f stOk 0)).settle

/-- An opcode that R59 does not list. In VOID it is denied as every other (R486). -/
def execUnknownOpcode (s : State) : Host.Outcome State Fault Refusal :=
  .next (match s.next with
    | some (d, rest) =>
      if 0x0F < dOpcode d.words then
        let fl : Flight := { id := s.rings.nextId, ring := d.ring, words := d.words, target := 0 }
        let s1 := { s with rings := { s.rings with
          inbox := rest, nextId := s.rings.nextId + 1, flight := s.rings.flight ++ [fl] } }
        s1.finish fl (if s.opDenied (dOpcode d.words) then stDenied else stBadOpcode) 0
      else s
    | none => s).settle

/-! ### Tables (R60..R62) -/

/-- Why a table transfer is refused before its data moves, if it is. DESIGN CHOICE: R60's causes in this order (log entry 108). -/
def State.tableRefusal (s : State) (write : Bool) (ws : List Word) : Option Nat :=
  match findClass (aClass ws) with
  | none => some stBadField
  | some (n, size, _) =>
    if n ≤ aInst ws ∨ (write ∧ ((aClass ws = 0x04 ∧ aInst ws < 16) ∨ (aClass ws = 0x46 ∧ aInst ws = 0))) then
      some stBadField
    else if expertClass (aClass ws) && !(s.fbit R.HOST_CTRL_expert_enable) then some stExpertLocked
    else if size < aOffset ws + aLength ws then some stTableRange
    else none

/-- The bytes gathered from an operand, or the status that refuses it. -/
def State.operandBytes (s : State) (host : HostView) (ws : List Word) : List Byte ⊕ Nat :=
  match s.pieces host ws with
  | .bad => .inr stBadField
  | .dma => .inr stDmaError
  | .ok l =>
    match s.gather host (aSpace ws) l with
    | some b => .inl b
    | none => .inr stDmaError

/-- 0x01: the bytes are being staged; the completion follows at WRITE_TABLE_STAGED. -/
def State.writeTable (s : State) (host : HostView) (f : Flight) : State :=
  match s.tableRefusal true f.words with
  | some st => s.finish f st 0
  | none =>
    if stagingSize < s.stagedBytes + aLength f.words then s.finish f stStageFull 0
    else if !(s.domOn .res) then s.finish f stPoweredOff 0
    else
      match s.operandBytes host f.words with
      | .inr st => s.finish f st 0
      | .inl b => s.setFlight { f with got := b, applied := true }

def execWriteTable (host : HostView) (s : State) : Host.Outcome State Fault Refusal :=
  .next (s.startDesc (isOp 0x01) formAOk (fun s f => s.writeTable host f)).settle

/-- The last byte is staged: the write receives its staging number with its completion, posted or discarded (R62). -/
def State.tableStaged (s : State) (id : Nat) : State :=
  match s.flight id with
  | none => s
  | some f =>
    if dOpcode f.words = 0x01 ∧ f.applied then
      let n := s.rings.stageNext
      let w : Staged := { cls := aClass f.words, inst := aInst f.words, offset := aOffset f.words, bytes := f.got,
                          number := n }
      let s1 := { s with rings := { s.rings with staged := s.rings.staged ++ [w], stageNext := (n + 1) % 2 ^ 32 } }
      (s1.ledgerAdd 0x0B (w.cls * 65536 + w.inst) (w.offset :: n :: w.bytes.map (fun b => b.toNat))).finish f stOk
        (f.got.length + n * 2 ^ 32)
    else s

def execWriteTableStaged (id : Nat) (s : State) : Host.Outcome State Fault Refusal := .next (s.tableStaged id).settle

/-- A byte of a live table as READ_TABLE sees it: words 2 and 3 of a delay zone show its delays (R146). -/
def State.liveByte (s : State) (cls inst a : Nat) : Byte :=
  if cls = 0x05 ∧ 8 ≤ a % 16 then
    let z := a / 16
    byteOf (if a % 16 < 12 then s.zoneDelay z else mget nat0 s.fabric.target z) (a % 4)
  else mget (tableDefault cls inst) (s.table cls inst) a

def State.liveBytes (s : State) (cls inst a n : Nat) : List Byte := (List.range n).map (fun i => s.liveByte cls inst (a + i))

/-- Write an operand's bytes where its addressing says, and leave the descriptor in flight with its result; a refused
access finishes it at once. -/
def State.answerA (s : State) (host : HostView) (f : Flight) (b : List Byte) (result : Nat) : State :=
  match s.pieces host f.words with
  | .bad => s.finish f stBadField 0
  | .dma => s.finish f stDmaError 0
  | .ok l =>
    match s.spread host.fails (aSpace f.words) l b with
    | some s1 => s1.setFlight { f with count := result, applied := true }
    | none => s.finish f stDmaError 0

/-- 0x02: the live copy as of the latest input cut. The tables of F8 are in PD_SYS (R18). -/
def State.readTable (s : State) (host : HostView) (f : Flight) : State :=
  match s.tableRefusal false f.words with
  | some st => s.finish f st 0
  | none =>
    let (k, i) := s.scopeOf (aClass f.words) (aInst f.words)
    match s.targetStatus k (if aInst f.words = 8 ∧ k = scLateral ∧ s.inService k i = false then 8 else i) with
    | some st => s.finish f st 0
    | none =>
      s.answerA host f (s.liveBytes (aClass f.words) (aInst f.words) (aOffset f.words) (aLength f.words))
        (aLength f.words)

def execReadTable (host : HostView) (s : State) : Host.Outcome State Fault Refusal :=
  .next (s.startDesc (isOp 0x02) formAOk (fun s f => s.readTable host f)).settle

/-- The counters of R539 in READ_COUNTERS's order; one whose domain is off is all ones. -/
def State.counterWords (s : State) : List Word :=
  spillTable.flatMap (fun e => (List.range e.2.1).flatMap (fun i => (List.range e.2.2).map (fun j =>
    let off := e.1.off i j
    match findReg off with
    | some (r, _) => if s.domOn r.dom then s.rg off else 0xFFFFFFFF
    | none => s.rg off)))

/-- 0x0F: the length must hold every counter (R540). Form A names `class`, `instance` and `offset`, so R591 reserves none of
them; nothing gives them a meaning here. -/
def State.readCounters (s : State) (host : HostView) (f : Flight) : State :=
  let ws := s.counterWords
  if aLength f.words < 4 * ws.length then s.finish f stBadField 0
  else s.answerA host f (ws.flatMap (fun w => leBytes w.toNat 4)) ws.length

def execReadCounters (host : HostView) (s : State) : Host.Outcome State Fault Refusal :=
  .next (s.startDesc (isOp 0x0F) formAOk (fun s f => s.readCounters host f)).settle

/-- The opcodes whose form A transfer completes when its data has moved: READ_TABLE, TIME_QUERY, UPDATE_CHUNK,
READ_COUNTERS. -/
def transferOp (op : Nat) : Bool := [0x02, 0x0B, 0x0E, 0x0F].contains op

/-- A transfer's last byte is written, and its completion posted. -/
def State.transferDone (s : State) (id : Nat) : State :=
  match s.flight id with
  | none => s
  | some f => if transferOp (dOpcode f.words) && f.applied then s.finish f stOk f.count else s

/-! ### Descriptors that wait for an input cut -/

/-- 0x05 waits for its input cut. -/
def execSetValues (s : State) : Host.Outcome State Fault Refusal :=
  .next (s.startDesc (isOp 0x05) formVOk (fun s f =>
    if s.domOn .pix then s else s.finish f stPoweredOff 0)).settle

/-- 0x06: the task takes its pool descriptor and waits for its target frame's input cut (R97). -/
def State.postTask (s : State) (f : Flight) : State :=
  let ws := f.words
  let t : Task := { gen := 0, kind := 0, family := tFamily ws, source := 0, hint := tHint ws, prio := tPrio ws,
                    args := tArgs ws, host := some f.id, hostHandle := 2 ^ 31 + f.ring * 2 ^ 16 + dTag ws,
                    frame := f.target }
  (s.newTask t).2

def execPostTask (s : State) : Host.Outcome State Fault Refusal :=
  .next (s.startDesc (isOp 0x06) (fun ws => formTOk ws && tHandle ws = 0) (fun s f => s.postTask f)).settle

/-- 0x07 (R98, R106): the older outstanding task of the handle, while it has not been dispatched. -/
def State.cancelTask (s : State) (f : Flight) : State :=
  match s.byHostHandle (tHandle f.words) with
  | none => s.finish f stTaskUnknown 0
  | some (i, t) =>
    match t.st with
    | .dispatched => s.finish f stTaskUnknown 0
    | .ready => (s.cancelReady i t).finish f stOk 0
    | .waiting => ((s.freeTask i).taskDone t stCancelled 0).finish f stOk 0

/-- CANCEL_TASK uses only `handle`; the other operand fields of form T carry nothing for it and must be 0. -/
def execCancelTask (s : State) : Host.Outcome State Fault Refusal :=
  .next (s.startDesc (isOp 0x07) (fun ws => formTOk ws) (fun s f => s.cancelTask f)).settle

/-! ### Completions and events that wait (R70, R71) -/

/-- The oldest unsignalled completion reaches `time_us`; a `count` of 0 leaves only `irq` (R82). -/
def execCqModTimeout (ring : Fin 32) (s : State) : Host.Outcome State Fault Refusal :=
  let r := s.ring ring
  let us := s.fget R.HOST_CQ_MOD_time_us ring
  .next (if us ≠ 0 ∧ s.fget R.HOST_CQ_MOD_count ring ≠ 0 ∧ 0 < r.unsignalled ∧ us * 1000 ≤ nsSince s r.unsignalledSince then s.signalCq ring else s).settle

/-- Post queued events while slots are free. -/
def State.drainEvents (s : State) : Nat → State
  | 0 => s
  | n + 1 =>
    match s.rings.events with
    | [] => s
    | (b, c) :: t =>
      if s.fbit R.HOST_CTRL_event_enable && s.eventSlot then
        (({ s with rings := { s.rings with events := t } }).postEvent b c).drainEvents n
      else s

def execEventPost (s : State) : Host.Outcome State Fault Refusal := .next (s.drainEvents 64).settle

/-! ### Ring control (R74..R76) -/

/-- Geometry of R46. -/
def State.ringAligned (s : State) (n : Nat) : Bool :=
  decide (4 ≤ s.sqLog n ∧ s.sqLog n ≤ 16 ∧ 4 ≤ s.cqLog n ∧ s.cqLog n ≤ 16) && s.sqBase n % 4096 = 0 &&
    s.cqBase n % 4096 = 0 && (s.ringPlace n = 1 || s.pair R.HOST_DOORBELL_BASE_LO % 256 = 0)

/-- Placement of R84. -/
def State.ringPlaced (s : State) (n : Nat) : Bool :=
  s.ringPlace n = 0 ||
    (s.fbit R.HOST_CTRL_autonomous && !(overlapsStaging (s.sqBase n) (64 * 2 ^ s.sqLog n)) &&
      !(overlapsStaging (s.cqBase n) (32 * 2 ^ s.cqLog n)) &&
      !(overlapsStaging (s.fget R.HOST_AUTO_DOORBELL_BASE_page * 256 + 4 * n) 4) &&
      !(overlapsStaging (s.fget R.HOST_AUTO_DOORBELL_BASE_page * 256 + 128 + 4 * n) 4))

/-- `enable` is written 1 to a ring that does not run: it starts, resuming or at index 0, or goes to ERROR. -/
def State.ringStart (s : State) (n : Nat) : State :=
  if !(s.ringAligned n) then s.ringFault n 1
  else if !(s.ringPlaced n) then s.ringFault n 6
  else
    let s1 := ((s.fset R.HOST_RING_STATUS_state rRunning n).fset R.HOST_RING_STATUS_error 0 n)
    if s.fbit R.HOST_RING_CFG_resume n then s1.setRing n { s1.ring n with stalled := false }
    else (s1.fset R.HOST_RING_STATUS_sq_head 0 n).setRing n {}

/-- The RX_BUFFER descriptors of a ring that drains are withdrawn (R74). -/
def State.withdrawBuffers (s : State) (n : Nat) : State :=
  (s.rings.flight.filter (fun f => f.ring = n && dOpcode f.words = 0x08)).foldl
    (fun s f => s.finish f stSuperseded 0) s

/-- A write of HOST_RING_CFG (R74, R76). Only what differs in the fields other than `enable` counts as a write to
them. -/
def State.ringCfgWrite (s : State) (req : Requester) (n : Nat) (v : Word) : State :=
  let old := s.rg (R.HOST_RING_CFG.off n)
  let en := v.getLsbD 31
  let off := R.HOST_RING_CFG.off n
  let differ := getBits old 30 10 ≠ getBits v 30 10
  if s.ringState n = rDraining ∧ en then s.accessErr true req off
  else if old.getLsbD 31 || s.ringState n = rDraining then
    let s1 := if differ then s.accessErr true req off else s
    if s.ringState n = rRunning ∧ en = false then
      (((s1.fset R.HOST_RING_CFG_enable 0 n).fset R.HOST_RING_STATUS_state rDraining n)).withdrawBuffers n
    else s1
  else
    let s1 := s.setRg off (BitVec.ofNat 32 (getBits v 31 10 * 1024))
    if en then s1.ringStart n else s1

/-- A write of a ring's base register: discarded and counted while the ring is enabled or draining (R76). -/
def State.ringBaseHeld (s : State) (n : Nat) : Bool := s.fbit R.HOST_RING_CFG_enable n || s.ringState n = rDraining

/-- The last reserved completion of a DRAINING ring has been posted. -/
def State.ringDrained (s : State) (n : Nat) : State :=
  if s.ringState n = rDraining ∧ s.reserved n = 0 then s.fset R.HOST_RING_STATUS_state rDisabled n else s

def execRingDrained (ring : Fin 32) (s : State) : Host.Outcome State Fault Refusal := .next (s.ringDrained ring).settle

/-! ### Link and function (R43, R74, R565) -/

/-- Loss of the PCIe link halts every host-memory ring. -/
def execPcieLinkLoss (s : State) : Host.Outcome State Fault Refusal :=
  .next (({ s with pcie := { s.pcie with linkUp := false } }).haltHostRings).settle

/-- What a D reset of PD_HOST does to the function: its configuration space returns (R553), MSI-X is off, its masks set and its
pending bits clear. The subsystem IDs stay the boot image's. -/
def State.resetFunction (s : State) : State :=
  { s with pcie := { s.pcie with
      msixOn := false, msixMasked := false, mask := 0xFFFFFFFFFFFFFFFF, pending := 0, entries := [], bars := [] } }

/-! #### Configuration requests and BAR4 (R3, R39, R551) -/

/-- The base address registers, by word of the configuration space: the bits that can be written, and the bits that say what the
BAR is (64-bit; BAR2 prefetchable). PRESUMED: the layout of a type 0 configuration header is the PCIe standard's (log entry 77). -/
def barRow (word : Nat) : Option (Word × Word) :=
  match word with
  | 4 => some (0xFF000000, 0x4)
  | 6 => some (0xF8000000, 0xC)
  | 8 => some (0xFFFFC000, 0x4)
  | 5 => some (0xFFFFFFFF, 0)
  | 7 => some (0xFFFFFFFF, 0)
  | 9 => some (0xFFFFFFFF, 0)
  | _ => none

/-- A word of the configuration space: the IDs, the class code and revision, the base address registers, the subsystem IDs. -/
def State.configWord (s : State) (word : Nat) : Word :=
  if word = 0 then 0x82561F3C
  else if word = 2 then 0x048000B0
  else if word = 11 then s.pcie.subsystem.2 ++ s.pcie.subsystem.1
  else
    match barRow word with
    | some (_, kind) => mget word0 s.pcie.bars word ||| kind
    | none => Config.pcieConfigWord word

/-- Whether configuration requests are answered: not while a start or an exit from WATCH or DORMANT has yet to reach SHOW. -/
def State.configReady (s : State) : Bool := s.power.start = 0 || s.power.start = 5

/-- A word of BAR4: the MSI-X table at 0x0000, the pending bits at 0x2000, and 0 elsewhere. -/
def State.bar4Word (s : State) (word : Nat) : Word :=
  if word < 256 then
    if word % 4 = 3 then BitVec.ofNat 32 (b2n (s.pcie.mask.getLsbD (word / 4))) else mget word0 s.pcie.entries word
  else if word = 0x800 then s.pcie.pending.setWidth 32
  else if word = 0x801 then (s.pcie.pending >>> 32).setWidth 32
  else 0

/-- The messages of the vectors that are pending and no longer masked leave. -/
def State.sendUnmasked (s : State) : State :=
  (List.range 64).foldl (fun s v =>
    if s.pcie.pending.getLsbD v && !(s.pcie.mask.getLsbD v) && !s.pcie.msixMasked && s.msixReady then
      ({ s with pcie := { s.pcie with pending := s.pcie.pending &&& ~~~((1 : BitVec 64) <<< v) } }).emit (s.msixMsg v)
    else s) s

/-- A write of a word of the MSI-X table; the pending bits are read-only. -/
def State.bar4Write (s : State) (word : Nat) (v : Word) : State :=
  if 256 ≤ word then s
  else if word % 4 = 3 then
    let m := s.pcie.mask &&& ~~~((1 : BitVec 64) <<< (word / 4))
    ({ s with pcie := { s.pcie with mask := if v.getLsbD 0 then m ||| (1 <<< (word / 4)) else m } }).sendUnmasked
  else { s with pcie := { s.pcie with entries := mset word0 s.pcie.entries word v } }

/-- One access. Until SHOW is reached every configuration request is answered with Configuration Request Retry Status (R551), and
no memory access has been set up. -/
def State.pcieAccess (s : State) (a : PcieAccess) : State :=
  if !(s.hostReach) then s
  else
    match a with
    | .configRead w => s.emit (.pcieAnswer (if s.configReady then some (s.configWord w.toNat).toNat else none))
    | .configWrite w v =>
      if !(s.configReady) then s.emit (.pcieAnswer none)
      else
        match barRow w.toNat with
        | some (mask, _) => { s with pcie := { s.pcie with bars := mset word0 s.pcie.bars w.toNat (v &&& mask) } }
        | none => s
    | .msixControl en m =>
      if s.configReady then ({ s with pcie := { s.pcie with msixOn := en, msixMasked := m } }).sendUnmasked
      else s.emit (.pcieAnswer none)
    | .bar4Read w => if s.configReady then s.emit (.pcieAnswer (some (s.bar4Word w.toNat).toNat)) else s
    | .bar4Write w v => if s.configReady then s.bar4Write w.toNat v else s

/-- Whether a ring's CQ holds a completion that the host has not consumed. -/
def State.unread (s : State) (n : Nat) : Bool := (s.ring n).cqTail ≠ (s.ring n).cqHead

/-- MSI-X can deliver again, with this mask: one message per vector 32..45 whose status bit is set, and per vector of a
host-memory ring with unread completions. DESIGN CHOICE: whatever the ring's `count` (log entry 109). -/
def State.msixResume (s : State) (mask : BitVec 64) : State :=
  let s1 := { s with pcie := { s.pcie with msixOn := true, mask := mask } }
  let src := (List.range 14).filterMap (fun i =>
    if s.fget R.GLB_IRQ_STATUS_source / 2 ^ i % 2 = 1 then some (32 + i) else none)
  let cq := (List.range 32).filterMap (fun n =>
    if s.unread n && s.ringPlace n = 0 then some (s.fget R.HOST_RING_CFG_vector n) else none)
  ((src ++ cq).eraseDups).foldl (fun s v => s.sendVector v) s1

/-- The link is up where PD_HOST has power; the host's accesses come first, and delivery resumes once the function answers. -/
def execMsixDeliveryResume (mask : BitVec 64) (accesses : List PcieAccess) (s : State) : Host.Outcome State Fault Refusal :=
  let s1 := { s with pcie := { s.pcie with linkUp := s.domOn .host } }
  let s2 := accesses.foldl (fun s a => s.pcieAccess a) s1
  .next (if s2.hostReach && s2.configReady then s2.msixResume mask else s2).settle

end Sys2Proof.Machine
end

