-- ==== Sys2Proof/Machine/TimeBases.lean ====
section
/-! DEFINITION. The TIME unit's operations (chapter 12): advancing and reading the bases, their state machine and servo,
the lattice and its placement, SHOW, gate schedules, tally stamps, and the time set-up table. -/

namespace Sys2Proof.Machine

/-! ### What a tandem device drives (R425, R426, R428) -/

/-- Whether the device may drive its outputs: not a standby, and not joining a pair (R425, R426). -/
def State.drives (s : State) : Bool := (s.role = roleSolo || s.role = roleActive) && !s.tandem.silent

/-! ### Advancing (R357) -/

/-- One TIME clock cycle of a base: 2 ns times (1 + rate · 2^−44). -/
def Base.tick (b : Base) : Base :=
  let n : Int := b.sub + b.rate
  { b with t := b.t + 131072 + n / 2 ^ 27, sub := (n % 2 ^ 27).toNat }

/-- One cycle of Tender time: 32,768 ticks in 10^9 ns. -/
def Time.tendTick (u : Time) : Time :=
  if u.tendRunning then
    let n := u.tendSub + 65536
    { u with tendTicks := u.tendTicks + n / 1000000000, tendSub := n % 1000000000 }
  else u

/-- One TIME clock cycle. The bases run while PD_NET is on; Tender time runs in every state. -/
def State.tick (s : State) : State :=
  let u := s.time.tendTick
  let u1 := { u with cycles := u.cycles + 1 }
  if s.domOn .net then
    { s with time := { u1 with
      ptp := u1.ptp.tick, tcode := u1.tcode.tick, loc := u1.loc.tick, drv := u1.drv.tick } }
  else { s with time := u1 }

/-! ### Reading (R356, R369) -/

/-- The lock base of a `lock_source` code. -/
def State.lockBase (s : State) (src : Nat) : Base :=
  match src with
  | 0 => s.time.ptp
  | 1 => s.time.tcode
  | 2 => s.time.loc
  | _ => s.time.drv

/-- The reading of the base that the frame clock runs on. -/
def State.clockNow (s : State) : Int := (s.lockBase s.time.clock.onBase).t

def int0 (_ : Nat) : Int := 0

def State.tfOf (s : State) (n : Nat) : Int := mget int0 s.time.clock.tf n
def State.shOf (s : State) (n : Nat) : Int := mget int0 s.time.clock.sh n

def State.setClock (s : State) (c : FrameClock) : State := { s with time := { s.time with clock := c } }

def State.setTf (s : State) (n : Nat) (t : Int) : State :=
  s.setClock { s.time.clock with tf := mset int0 s.time.clock.tf n t }

/-- `show_mode` of the live set-up. -/
def State.showMode (s : State) : Nat := bits (s.tword 0x15 0 0) 29 28

def State.setSh (s : State) (n : Nat) (t : Int) : State :=
  let c := s.time.clock
  s.setClock { c with sh := mset int0 c.sh n t, modes := (n, s.showMode) :: c.modes.filter (fun e => e.1 ≠ n) }

/-- The `show_mode` that leads from S_n to the next: the one under which S of the frame after `n` was fixed, which its input cut does
before T_f(n); the live one while that frame is not fixed. -/
def State.modeFrom (s : State) (n : Nat) : Nat :=
  match s.time.clock.modes.find? (fun e => e.1 == n + 1) with
  | some e => e.2
  | none => s.showMode

/-- The SHOW reading between frame instants (R369), at the reading `c` of the clock's base, behind T_f(n). SHOW does not go backwards
but by a step (R357): the reading runs, or holds, as the S of the next frame was fixed, and does not pass it (log entry 100). -/
def State.showIn (s : State) (n : Nat) (c : Int) : Int :=
  let next := s.shOf (n + 1)
  let run := s.shOf n + (c - s.tfOf n)
  if n = 0 then 0
  else if s.modeFrom n = 2 then s.shOf n
  else if s.time.clock.modes.any (fun e => e.1 == n + 1) && decide (s.shOf n ≤ next) then min run next
  else run

def State.showNow (s : State) : Int := s.showIn s.frame s.clockNow

/-- The reading of base `b` (R356). -/
def State.reading (s : State) (b : Nat) : Int :=
  match b with
  | 0 => s.time.ptp.t
  | 1 => s.showNow
  | 2 => s.time.tcode.t
  | _ => s.time.loc.t

/-- A base's reading `ago` before LOCAL read `loc`, as the base stood at that instant: its steps since are taken off. -/
def Base.before (x : Base) (loc ago : Int) : Int :=
  (x.jumps.filter (fun j => decide (loc - ago < j.1))).foldl (fun t j => t - j.2) (x.t - ago * (2 ^ 44 + x.rate) / 2 ^ 44)

/-- The reading of the clock's base `ago` before now, in the lattice as it is placed now. -/
def State.clockBack (s : State) (ago : Int) : Int :=
  s.clockNow - ago * (2 ^ 44 + (s.lockBase s.time.clock.onBase).rate) / 2 ^ 44

/-- GLB_FRAME_NUMBER at an instant `ago` ns before now. -/
def State.frameAt (s : State) (ago : Nat) : Nat :=
  let n := s.frame
  if n ≠ 0 ∧ s.clockBack ((ago : Int) * 65536) < s.tfOf n then n - 1 else n

/-- The reading of base `b` at an instant `ago` ns before now. -/
def State.readingAt (s : State) (b ago : Nat) : Int :=
  let d : Int := (ago : Int) * 65536
  match b with
  | 0 => s.time.ptp.before s.time.loc.t d
  | 1 => s.showIn (s.frameAt ago) (s.clockBack d)
  | 2 => s.time.tcode.before s.time.loc.t d
  | _ => s.time.loc.t - d

/-- The state of a base under R360; SHOW and LOCAL have no master of their own and show 0. -/
def State.baseSt (s : State) (b : Nat) : Nat :=
  match b with
  | 0 => s.time.ptp.st
  | 2 => s.time.tcode.st
  | _ => 0

/-- Seconds of a reading, rounded down; its fraction of a nanosecond. -/
def secOf (t : Int) : Int := t / sec16
def fracOf (t : Int) : Nat := (t % 65536).toNat

/-- The 16-byte record of a reading (R358). -/
def timeRecord (t : Int) (st : Nat) : List Byte :=
  leBytes (twos (secOf t) 64) 8 ++ leBytes (nsOf t) 4 ++ leBytes (fracOf t) 2 ++ leBytes st 1 ++ leBytes 0 1

def State.timeRecords (s : State) : List Byte :=
  (List.range 4).flatMap (fun b => timeRecord (s.reading b) (s.baseSt b))

/-- A write of TIM_CAPTURE copies the four readings (R358). -/
def State.capture (s : State) : State :=
  (List.range 4).foldl (fun (a : State) b =>
    let t := s.reading b
    ((((a.fset R.TIM_CAP_SEC_LO (twos (secOf t) 64 % 2 ^ 32) b).fset R.TIM_CAP_SEC_HI (twos (secOf t) 64 / 2 ^ 32) b).fset
      R.TIM_CAP_NS_ns (nsOf t) b).fset R.TIM_CAP_FRAC_state (s.baseSt b) b).fset R.TIM_CAP_FRAC_frac (fracOf t) b) s

/-! ### Following a master (R361, R362) -/

/-- The three bases that follow a master: PTP, TIMECODE, and the frame clock's own base under DRAVUD. -/
inductive Follow where
  | ptp | tcode | drv
deriving DecidableEq, Repr

def State.follow (s : State) : Follow → Base
  | .ptp => s.time.ptp
  | .tcode => s.time.tcode
  | .drv => s.time.drv

def State.setFollow (s : State) (w : Follow) (b : Base) : State :=
  match w with
  | .ptp => { s with time := { s.time with ptp := b } }
  | .tcode => { s with time := { s.time with tcode := b } }
  | .drv => { s with time := { s.time with drv := b } }

/-- The base code of R356 that reports and registers use; DRAVUD steps the frame clock, whose base is LOCAL to
software. -/
def followCode : Follow → Nat
  | .ptp => 0
  | .tcode => 2
  | .drv => 3

def followSource : Follow → Nat
  | .ptp => 0
  | .tcode => 1
  | .drv => 3

/-- One LTC frame duration in 2^-16 ns (R366). -/
def ltcFrame (rate : Nat) : Int :=
  match rate with
  | 0 => sec16 / 24
  | 1 => sec16 / 25
  | 2 => sec16 / 30
  | 3 => 1001 * sec16 / 24000
  | _ => 1001 * sec16 / 30000

def State.ltcRate (s : State) : Nat := bits (s.tword 0x15 0 10) 23 21

/-- The consecutive samples that confirm a master. For DRAVUD, R414 names R361 and gives no number of its own: 4, as for
PTP. -/
def State.confirmRun (s : State) : Follow → Nat
  | .tcode => bits (s.tword 0x15 0 10) 20 17
  | _ => 4

/-- Whether an offset lies beyond the step threshold (R361, R367, R383, R414). -/
def State.beyondStep (s : State) (w : Follow) (o : Int) : Bool :=
  let a : Int := o.natAbs
  match w with
  | .ptp =>
    let us := bits (s.tword 0x15 0 11) 31 16
    us ≠ 0xFFFF && decide ((us : Int) * 1000 * 65536 < a)
  | .tcode => decide ((bits (s.tword 0x15 0 11) 15 0 : Int) * ltcFrame s.ltcRate < a)
  | .drv => decide ((1000 : Int) * 65536 < a)

/-- A base's frequency word after a sample (R362): o in ns, d in s, acc in ns·s, all held exactly in 2^-16 ns. -/
def servoRate (o acc : Int) : Int :=
  -- -(o/8 + acc/64)/1e9 · 2^44, with o in 2^-16 ns and acc in (2^-16 ns)^2: acc/(2^16·sec16) is acc in ns·s
  let num : Int := -(o * 8 * sec16 + acc) * 2 ^ 44
  let den : Int := 64 * 1000000000 * 65536 * sec16
  clampI (-1759218604) 1759218604 ((2 * num + den) / (2 * den))

/-- Show a base's registers. -/
def State.showBase (s : State) (w : Follow) : State :=
  match w with
  | .drv => s
  | _ =>
    let b := s.follow w
    let c := followCode w
    (s.fset R.TIM_BASE_STATUS_state b.st c).setRg (R.TIM_RATE.off c) (BitVec.ofInt 32 b.rate)

/-! ### The lattice (R370..R372) -/

/-- Lattice instant k, in 2^-16 ns. -/
def State.latticeAt (s : State) (k : Int) : Int :=
  (bits (s.tword 0x15 0 3) 29 0 : Int) * 65536 + k * (s.live.rateDen * sec16) / s.live.rateNum

/-- The period, rounded down to 2^-16 ns. -/
def State.period (s : State) : Int := (s.live.rateDen * sec16) / s.live.rateNum

/-- An evaluation period begins: its sub-ticks count from here, by the period of the lattice in force (R589). -/
def State.openPeriod (s : State) : State := s.setClock { s.time.clock with periodAt := s.now, period := s.period }

/-- The first lattice instant at or after `t`. -/
def State.latticeFrom (s : State) (t : Int) : Int :=
  let x := t - (bits (s.tword 0x15 0 3) 29 0 : Int) * 65536
  let den : Int := s.live.rateDen * sec16
  let k := x * s.live.rateNum / den
  if t ≤ s.latticeAt k then s.latticeAt k
  else if t ≤ s.latticeAt (k + 1) then s.latticeAt (k + 1) else s.latticeAt (k + 2)

/-- The lock source in force: that of the set-up; a tandem standby's clock follows its active under the rules of DRAVUD
(R427). -/
def State.lockSource (s : State) : Nat := if s.isStandby then 3 else bits (s.tword 0x15 0 0) 31 30

/-- Whether a lock base has been acquired and not lost to UNLOCKED. LOCAL has no master and is always there. -/
def State.lockable (s : State) (src : Nat) : Bool :=
  let b := s.lockBase src
  src = 2 || b.st = 2 || b.st = 3 || (b.st = 1 && b.prior = 3)

/-- The base that the frame clock runs on now (R371): the chosen one, or LOCAL while that is UNLOCKED. -/
def State.clockSource (s : State) : Nat := if s.lockable s.lockSource then s.lockSource else 2

/-- Place the lattice (R372). The frame being read out keeps its instant; the frame in evaluation takes the first instant
of the new lattice at least one new period later. `shift` is what the reading of the base moved by under it. -/
def State.place (s : State) (newBase : Nat) (shift : Int) : State :=
  let c := s.time.clock
  let r := c.cutFrame - 1
  let tfs := c.tf.map (fun e => (e.1, e.2 + shift))
  let s1 := s.setClock { c with tf := tfs, onBase := newBase, placing := some c.cutFrame }
  let s2 := if c.cutFrame = 0 then s1.setTf 1 (s1.latticeFrom (s1.clockNow + 2 * s1.period))
            else if c.cutFrame = 1 then s1.setTf 1 (s1.latticeFrom (mget int0 tfs 1))
            else s1.setTf c.cutFrame (s1.latticeFrom (mget int0 tfs r + s1.period))
  let s3 := ((s2.bumpF R.TIM_PLACE_COUNT).fset R.TIM_STATUS_placing 1).fset R.GLB_FRAME_STATUS_lock 0
  (s3.fset R.TIM_STATUS_on_local (b2n (newBase = 2))).fset R.TIM_STATUS_source_active newBase

/-- Follow a change of the clock's source: on to a base that was acquired, or back to LOCAL. -/
def State.reclock (s : State) : State :=
  let b := s.clockSource
  let o := s.time.clock.onBase
  if b = o then s else s.place b ((s.lockBase b).t - (s.lockBase o).t)

/-! ### Gates (R380, R381) -/

def State.gate (s : State) (g : Nat) : Gate := mget gate0 s.time.gates g
def State.setGate (s : State) (g : Nat) (x : Gate) : State :=
  { s with time := { s.time with gates := mset gate0 s.time.gates g x } }

/-- Disarm a gate: its registers show it, with no pulse left. -/
def State.gateOff (s : State) (g : Nat) : State :=
  (((s.setGate g {}).fset R.TIM_GATE_STATUS_armed 0 g).fset R.TIM_GATE_STATUS_remaining 0 g).fset R.TIM_GATE_CFG_arm 0 g

/-- `delay_ns` of a gate, by which each leading edge leaves the ball early (R380, R382). -/
def State.gateLead (s : State) (g : Nat) : Int := (s.fget R.TIM_GATE_CFG_delay_ns g : Int) * 65536

/-- When the leading edge of a FRAME gate's pulse of frame `n` leaves, as a reading of the clock's base. -/
def State.gateFrameEdge (s : State) (g n : Nat) : Int :=
  s.tfOf n + sint (s.fget R.TIM_GATE_START_NS g) 32 * 65536 - s.gateLead g

/-- The first frame at or after `n` for whose FRAME pulse the instant in hand satisfies `p`. -/
def State.gateFrame (s : State) (g n : Nat) (p : Int → Bool) : Option Nat :=
  ((s.time.clock.tf.filter (fun e => decide (n ≤ e.1) && p (s.gateFrameEdge g e.1))).map (fun e => e.1)).min?

/-- Whether the leading edge of a gate's next pulse is to leave now (R381). -/
def State.gateDue (s : State) (g : Nat) : Bool :=
  if s.fget R.TIM_GATE_CFG_mode g = 3 then (s.gateFrame g (s.gate g).frame (fun t => decide (t ≤ s.clockNow))).isSome
  else decide ((s.gate g).next - s.gateLead g ≤ s.reading (s.fget R.TIM_GATE_CFG_base g))

/-- One pulse of a gate: it leaves the ball while the gates are enabled, and its leading edge fires source 64 + g. -/
def State.gateEdge (s : State) (g : Nat) : State :=
  if s.fbit R.TIM_CTRL_gate_enable && s.drives then
    (s.emit (.gate g (s.fget R.TIM_GATE_WIDTH_NS g) (!(s.fbit R.TIM_GATE_CFG_low_active g)))).fireSource (64 + g)
  else s

/-- A gate's schedule after `n` due times have gone by: disarmed once its pulses are spent. -/
def State.gateSpent (s : State) (g n : Nat) : State :=
  let x := s.gate g
  let per : Int := (s.fget R.TIM_GATE_PERIOD_NS g : Int) * 65536
  if s.fget R.TIM_GATE_CFG_mode g = 3 then
    match s.gateFrame g x.frame (fun t => decide (t ≤ s.clockNow)) with
    | some k => s.setGate g { x with frame := k + 1 }
    | none => s
  else if s.fget R.TIM_GATE_CFG_mode g = 1 then s.gateOff g
  else if !x.endless && decide (x.left ≤ n) then s.gateOff g
  else
    let left := if x.endless then 0 else x.left - n
    (s.setGate g { x with left := left, next := x.next + n * per }).fset R.TIM_GATE_STATUS_remaining left g

/-- A pulse falls due (R381). Before its instant nothing happens. -/
def State.gatePulse (s : State) (g : Nat) : State :=
  if (s.gate g).armed && s.gateDue g then
    (((s.gateEdge g).fset R.TIM_GATE_STATUS_late_last 0 g).gateSpent g 1).raise 36
  else s

def gateBase (src : Nat) (b : Nat) : Bool := decide (src = b)

/-- A base steps from `old` to `new`: each armed gate on it whose due times the step passes sends one late pulse, and
every due time passed counts as late. -/
def State.stepGates (s : State) (b : Nat) (old new : Int) : State :=
  (List.range 8).foldl (fun s g =>
    let x := s.gate g
    let m := s.fget R.TIM_GATE_CFG_mode g
    if x.armed && (m = 1 || m = 2) && s.fget R.TIM_GATE_CFG_base g = b && decide (old < x.next ∧ x.next ≤ new) then
      let per : Int := (s.fget R.TIM_GATE_PERIOD_NS g : Int) * 65536
      let k := if m = 1 then 1 else ((new - x.next) / per).toNat + 1
      let n := if x.endless then k else min k x.left
      let s1 := ((s.gateEdge g).fset R.TIM_GATE_STATUS_late_last 1 g)
      ((s1.bumpN (R.TIM_GATE_LATE_COUNT.off) n).gateSpent g k).raise 36
    else s) s

/-- Arm a gate with the schedule its registers give (R380, R381). -/
def State.gateArm (s : State) (req : Requester) (g : Nat) (v : Word) : State :=
  let off := R.TIM_GATE_CFG.off g
  let mode := getBits v 30 29
  let b := getBits v 28 27
  let width := s.fget R.TIM_GATE_WIDTH_NS g
  let per := s.fget R.TIM_GATE_PERIOD_NS g
  if mode = 0 then (s.gateOff g).setRg off (v &&& 0x7FFFFFFF)
  else if decide (width < 8) || (mode = 2 && decide (per < 100 ∨ per < width + 8)) then s.accessErr true req off
  else
    let s1 := s.setRg off v
    let start : Int := sint (s.fget R.TIM_GATE_START_SEC_LO g + 2 ^ 32 * s.fget R.TIM_GATE_START_SEC_HI g) 64 * sec16 +
      (s.fget R.TIM_GATE_START_NS g : Int) * 65536
    let now := s.reading b
    let cnt := getBits v 15 0
    if mode = 1 ∧ start < now then (s1.gateOff g).bumpF R.TIM_GATE_MISS_COUNT
    else
      let p16 : Int := (per : Int) * 65536
      let first := if mode = 2 ∧ start < now then start + ((now + 65536000 - start + p16 - 1) / p16) * p16 else start
      let left := if mode = 1 then 1 else if mode = 2 then cnt else 0
      let endless := mode = 3 ∨ (mode = 2 ∧ cnt = 0)
      let frame := (s1.gateFrame g 0 (fun t => decide (s1.clockNow < t))).getD (s1.frame + 1)
      ((s1.setGate g { armed := true, next := first, frame := frame, left := left, endless := decide endless }).fset
        R.TIM_GATE_STATUS_armed 1 g).fset R.TIM_GATE_STATUS_remaining (if endless then 0 else left) g

/-! ### Steps and samples -/

/-- How far a tally stamp looks back: the longest filter and board delay, in 2^-16 ns (R386). -/
def tallyBack : Int := (65535 + 1023) * 65536

/-- Step a base to its master: counted, reported, vector 36; gates on it may be passed; a lattice on it is placed. -/
def State.stepBase (s : State) (w : Follow) (o : Int) : State :=
  let b := s.follow w
  let old := b.t
  let loc := s.time.loc.t
  let s1 := s.setFollow w { b with
    t := b.t - o, acc := 0, st := 2, run := 0, beyond := 0
    jumps := (loc, -o) :: b.jumps.filter (fun j => decide (loc - tallyBack < j.1)) }
  let s2 := (((s1.bumpF R.TIM_STEP_COUNT).report 0x10 (followCode w)).raise 36).showBase w
  let s3 := match w with
    | .drv => s2
    | _ => s2.stepGates (followCode w) old (old - o)
  if s.time.clock.onBase = followSource w then s3.place (followSource w) (-o) else s3.reclock

/-- Whole seconds spent in HOLDOVER. -/
def State.holdSeconds (s : State) (b : Base) : Nat := (2 * b.held + nsSince s b.holdSince) / 1000000000

/-- A base leaves HOLDOVER or UNLOCKED on its first sample. -/
def State.acquireFrom (s : State) (w : Follow) (b : Base) : State :=
  let s1 := match w with
    | .drv => s
    | _ => if b.st = 3 then s.fset R.TIM_BASE_STATUS_holdover_s (s.holdSeconds b) (followCode w) else s
  let held := if b.st = 3 then b.held + (s.now - b.holdSince) else 0
  (s1.setFollow w { b with st := 1, prior := b.st, run := 1, beyond := 0, held := held }).showBase w

/-- A sample (R361, R362): the master's time at an instant `ago` before now, in 2^-16 ns. -/
def State.sample (s : State) (w : Follow) (master ago : Int) : State :=
  let b := s.follow w
  let at_ := s.time.loc.t - ago
  let o := b.t - ago - master
  let predicted := b.lastMaster + (at_ - b.lastLocal)
  let near := b.sampled && decide ((master - predicted).natAbs ≤ 10000 * 65536)
  let b1 := { b with lastLocal := at_, lastMaster := master, sampled := true }
  let s1 := match w with
    | .drv => s
    | _ => s.setRg (R.TIM_OFFSET.off (followCode w)) (BitVec.ofInt 32 (clampI (-2147483648) 2147483647 (o / 65536)))
  match b.st with
  | 2 =>
    let far := s.beyondStep w o
    let n := if far then (if near then b.beyond + 1 else 1) else 0
    let lost := match w with
      | .tcode => if b.beyond ≠ 0 ∧ n ≤ 1 then b.beyond else 0
      | _ => 0
    let s2 := s1.bumpN (R.TIM_LTC_ERR_COUNT.off) lost
    if s.confirmRun w ≤ n then (s2.setFollow w b1).stepBase w o
    else
      let steer := match w with
        | .tcode => !far
        | _ => true
      if steer then
        let acc := b.acc + o * (at_ - b.lastLocal)
        (s2.setFollow w { b1 with acc := acc, beyond := n, rate := servoRate o acc }).showBase w
      else s2.setFollow w { b1 with beyond := n }
  | 1 =>
    let n := if near then b.run + 1 else 1
    if s.confirmRun w ≤ n then (s1.setFollow w b1).stepBase w o else s1.setFollow w { b1 with run := n }
  | _ => s1.acquireFrom w { b1 with sampled := true }

/-- An entry to HOLDOVER: fault class TIME_HOLDOVER and vector 36 (R361). -/
def State.holdoverEntered (s : State) (w : Follow) : State := (s.report 0x11 (followCode w)).raise 36

/-- No sample for the loss time (R361). A base that goes back from ACQUIRING to HOLDOVER counts on from the seconds that it had spent
there (log entry 114). Labels that had begun to disagree are counted as those that disagreed and did not go on (R367). -/
def State.baseLoss (s : State) (w : Follow) : State :=
  let b := s.follow w
  match b.st with
  | 1 =>
    let s1 := (s.setFollow w { b with st := b.prior, run := 0, sampled := false, holdSince := s.now }).showBase w
    (if b.prior = 3 then s1.holdoverEntered w else s1).reclock
  | 2 =>
    let s1 := (s.setFollow w { b with
      st := 3, holdSince := s.now, held := 0, limitSent := false, sampled := false, beyond := 0 }).showBase w
    (match w with
      | .drv => s1
      | .ptp => s1.fset R.TIM_BASE_STATUS_holdover_s 0 0
      | .tcode => (s1.fset R.TIM_BASE_STATUS_holdover_s 0 2).bumpN (R.TIM_LTC_ERR_COUNT.off) b.beyond).holdoverEntered w
  | _ => s

/-- HOLDOVER reaches `holdover_max_s`. -/
def State.holdoverLimit (s : State) (w : Follow) : State :=
  let b := s.follow w
  let m := bits (s.tword 0x15 0 12) 23 0
  if b.st = 3 ∧ m ≠ 0 ∧ b.limitSent = false ∧ m ≤ s.holdSeconds b then
    (s.setFollow w { b with limitSent := true }).report 0x11 (followCode w)
  else s

/-! ### Timecode (R365, R366) -/

/-- Whole frames per second of a label's count. -/
def ltcFps (rate : Nat) : Nat := if rate = 0 ∨ rate = 3 then 24 else if rate = 1 then 25 else 30

/-- Whether a label is a valid time: fields in range, and no dropped label in drop-frame. -/
def ltcValid (rate h m sec f : Nat) : Bool :=
  decide (h < 24 ∧ m < 60 ∧ sec < 60 ∧ f < ltcFps rate) && !(rate = 5 && sec = 0 && decide (f < 2) && m % 10 ≠ 0)

/-- The label's frame count c. -/
def ltcCount (rate h m sec f : Nat) : Nat :=
  let c := (3600 * h + 60 * m + sec) * ltcFps rate + f
  let tm := 60 * h + m
  if rate = 5 then c - 2 * (tm - tm / 10) else c

/-- Labels in a day. -/
def ltcDayFrames (rate : Nat) : Nat := if rate = 5 then 2589408 else 86400 * ltcFps rate

/-- A frame count as a time: c frame durations, exact and rounded down to 2^-16 ns. -/
def ltcTime (rate c : Nat) : Int :=
  match rate with
  | 0 => (c : Int) * sec16 / 24
  | 1 => (c : Int) * sec16 / 25
  | 2 => (c : Int) * sec16 / 30
  | 3 => (c : Int) * 1001 * sec16 / 24000
  | _ => (c : Int) * 1001 * sec16 / 30000

/-- The kind under which an LTC sample waits for the ledger that the next input cut opens (R376). -/
def ltcWaiting : Nat := 0x16

/-- A codeword, `ago` in 2^-16 ns after its instant: discarded, or one sample of TIMECODE, entered in the ledger. -/
def State.ltcTake (s : State) (h m sec f : Nat) (good : Bool) (ago : Int) : State :=
  let rate := s.ltcRate
  if good && ltcValid rate h m sec f then
    let hms := 3600 * h + 60 * m + sec
    let day := if hms = 0 ∧ s.time.ltcHms = some 86399 then s.time.ltcDay + 1 else s.time.ltcDay
    let t := ltcTime rate (ltcCount rate h m sec f + day * ltcDayFrames rate)
    let s1 := { s with time := { s.time with ltcHms := some hms, ltcDay := day } }
    (s1.ledgerAdd ltcWaiting 0 [twos t 64, twos (s.clockNow - ago) 96]).sample .tcode t ago
  else s.bumpF R.TIM_LTC_ERR_COUNT

/-- Whether LTC is decoded from the source `audio` (R365): the LTC_IN comparator, or an audio channel. A standby takes its active's
samples from the ledger instead (R428). -/
def State.ltcOn (s : State) (audio : Bool) : Bool :=
  let w := s.tword 0x15 0 10
  s.domOn .net && !s.isStandby && bits w 31 31 = 1 && decide ((bits w 30 30 = 1) = (audio = true))

/-- A codeword decoded from LTC_IN, `ago` ns after its instant. One from audio comes with the samples of the channel, which the
device decodes itself, and not by this command (log entry 113). -/
def State.ltc (s : State) (h m sec f : Nat) (good audio : Bool) (ago : Nat) : State :=
  if s.ltcOn false && !audio then s.ltcTake h m sec f good ((ago : Int) * 65536) else s

/-! ### Timecode on an audio channel (R365, R366)

The biphase mark code, the places of the label and the sync word are those of SMPTE ST 12-1, which R365 names
(PRESUMED, log entry 113). -/

/-- A codeword that the decoder has read: its label and its instant, or one to discard. -/
structure LtcWord where
  h : Nat := 0
  m : Nat := 0
  sec : Nat := 0
  f : Nat := 0
  good : Bool := false
  at_ : Int := 0
deriving DecidableEq, Repr

/-- Whether an interval is one n-th of a bit cell, of which a frame has 80, at the nominal rate ±10 %. -/
def ltcCell (rate n : Nat) (d : Int) : Bool :=
  decide (720 * n * d ≤ 10 * ltcFrame rate ∧ 10 * ltcFrame rate ≤ 880 * n * d)

/-- The sync word, bits 64..79, as the newest sixteen bits show it, newest first; and what it is on a source that runs backwards. -/
def ltcSync : List Bool := [true, false] ++ List.replicate 12 true ++ [false, false]
def ltcSyncBack : List Bool := [false, false] ++ List.replicate 12 true ++ [false, true]

/-- A field of a codeword's bits, oldest first. -/
def ltcField (l : List Bool) (lo n : Nat) : Nat := ((l.drop lo).take n).reverse.foldl (fun v b => 2 * v + b2n b) 0

/-- The label of 80 bits, newest first. A unit above 9 is no time. -/
def ltcLabel (l : List (Bool × Int)) : LtcWord :=
  let b := (l.map (fun e => e.1)).reverse
  let two (u t n : Nat) : Nat := ltcField b u 4 + 10 * ltcField b t n
  {
    h := two 48 56 2, m := two 32 40 3, sec := two 16 24 3, f := two 0 8 2,
    good := [0, 16, 32, 48].all (fun u => decide (ltcField b u 4 < 10)),
    at_ := ((l.getLast?).map (fun e => e.2)).getD 0 }

/-- A bit that began at `start` is complete at `t`. -/
def LtcIn.push (x : LtcIn) (b : Bool) (start t : Int) : LtcIn × List LtcWord :=
  let l := (b, start) :: x.bits.take 79
  let newest := (l.take 16).map (fun e => e.1)
  let y : LtcIn := { x with cross := some t, half := none, bits := l }
  if newest = ltcSync then
    ({ y with bits := [], synced := true }, if l.length = 80 then [ltcLabel l] else if x.synced then [{}] else [])
  else if newest = ltcSyncBack then ({ y with bits := [], synced := false }, [{}])
  else ({ y with synced := x.synced && decide (l.length < 80) }, [])

/-- A transition at `t`. Bit timing out of range discards the codeword in progress. -/
def LtcIn.edge (x : LtcIn) (rate : Nat) (t : Int) : LtcIn × List LtcWord :=
  match x.cross with
  | none => ({ x with cross := some t }, [])
  | some t0 =>
    if ltcCell rate 1 (t - t0) && x.half.isNone then x.push false t0 t
    else if ltcCell rate 2 (t - t0) then
      match x.half with
      | none => ({ x with cross := some t, half := some t0 }, [])
      | some h => x.push true h t
    else ({ x with cross := some t, half := none, bits := [], synced := false }, if x.synced then [{}] else [])

/-- One sample of the channel at media tick `i`. A transition lies where the line between two samples meets zero. Where samples are
missing the decoder begins again. -/
def LtcIn.sample (x : LtcIn) (rate i : Nat) (v : Int) : LtcIn × List LtcWord :=
  match x.last with
  | none => ({ last := some (i, v) }, [])
  | some (j, u) =>
    if i ≠ j + 1 then ({ last := some (i, v) }, [])
    else
      let y : LtcIn := { x with last := some (i, v) }
      if (u < 0) = (v < 0) then (y, [])
      else
        let n : Int := u.natAbs + v.natAbs
        y.edge rate (((j : Int) * n + u.natAbs) * sec16 / (48000 * n))

/-- The samples of the channel that carries LTC, in media-time order. -/
def State.ltcSamples (s : State) (l : List (Nat × Int)) : State :=
  l.foldl (fun s e =>
    let r := s.time.ltcIn.sample s.ltcRate e.1 e.2
    r.2.foldl (fun s w => s.ltcTake w.h w.m w.sec w.f w.good (s.time.ptp.t - w.at_))
      { s with time := { s.time with ltcIn := r.1 } }) s

/-! ### Tallies (R377..R379) -/

/-- Words of a tally entry (R378). -/
def tallyWord (e : TallyEntry) (w : Nat) : Nat :=
  if e.gap then (match w with | 0 => 2 ^ 30 | 1 => e.dropped % 2 ^ 32 | _ => 0)
  else
    match w with
    | 0 => b2n e.rising * 2 ^ 29 + e.tally * 2 ^ 24 + e.base * 2 ^ 22 + e.frame % 2 ^ 22
    | 1 => nsOf e.t
    | 2 => twos (secOf e.t) 64 % 2 ^ 32
    | _ => fracOf e.t * 65536 + twos (secOf e.t) 64 / 2 ^ 32 % 65536

/-- Entries of the tally queue. -/
def tallySize : Nat := 1024

/-- Whether edges of a kind are selected: bit 0 rising, bit 1 falling. -/
def edgeWanted (edges : Nat) (rising : Bool) : Bool := if rising then edges % 2 = 1 else edges / 2 = 1

/-- A stamp enters the tally queue, or is dropped from a full one; the first entry raises vector 36. -/
def State.tallyQueue (s : State) (e : TallyEntry) : State :=
  if s.time.tally.length < tallySize then
    let s1 := { s with time := { s.time with tally := s.time.tally ++ [e] } }
    if s.time.tally = [] then s1.raise 36 else s1
  else ({ s with time := { s.time with tallyGap := s.time.tallyGap + 1 } }).bumpF R.TIM_TALLY_DROP_COUNT

/-- Whether an edge of a tally is accepted, its new level having lasted `ago` ns (R377). A standby stamps from the ledger, never
from its own balls. -/
def State.edgeAccepted (s : State) (i : Nat) (rising : Bool) (ago : Nat) : Bool :=
  s.domOn .net && s.fbit R.TIM_CTRL_tally_enable && edgeWanted (s.fget R.TIM_TALLY_CFG_edges i) rising &&
    decide (s.fget R.TIM_TALLY_CFG_filter_ns i ≤ ago) && !s.isStandby

/-- A tally edge whose new level has lasted `ago` ns. -/
def State.tallyEdge (s : State) (i : Nat) (rising : Bool) (ago : Nat) : State :=
  let lvl := if rising then s.time.tallyLevel ||| BitVec.ofNat 32 (2 ^ i)
    else s.time.tallyLevel &&& ~~~(BitVec.ofNat 32 (2 ^ i))
  let s0 := { s with time := { s.time with tallyLevel := lvl } }
  if s.edgeAccepted i rising ago then
    let b := s.fget R.TIM_TALLY_CFG_base i
    let e : TallyEntry := {
      rising := rising, tally := i, base := b, frame := s.frameAt ago,
      t := s.readingAt b (ago + s.fget R.TIM_TALLY_CFG_delay_ns i) }
    let s1 := if s.fbit R.TIM_TALLY_CFG_ledger i then
      { s0 with time := { s0.time with tallyLedger := s0.time.tallyLedger ++ [e] } } else s0
    (s1.tallyQueue e).fireSource (32 + i)
  else s0

/-- Remove the oldest entry; a pending gap takes the entry that comes free. -/
def State.tallyPop (s : State) : State :=
  match s.time.tally with
  | [] => s
  | _ :: l =>
    if s.time.tallyGap = 0 then { s with time := { s.time with tally := l } }
    else { s with time := { s.time with tally := l ++ [{ gap := true, dropped := s.time.tallyGap }], tallyGap := 0 } }

/-! ### SHOW (R368, R369) -/

/-- The TIMECODE reading at an instant of the clock's base, extrapolated at the current rates. -/
def State.tcodeAt (s : State) (t : Int) : Int :=
  let d := t - s.clockNow
  s.time.tcode.t + d * (2 ^ 44 + s.time.tcode.rate) / (2 ^ 44 + (s.lockBase s.time.clock.onBase).rate)

/-- A signed seconds and nanoseconds pair of the set-up table, from word `w`. -/
def Tabs.timePair (t : Tabs) (w : Nat) : Int :=
  sint (t.word 0x15 0 w + 2 ^ 32 * t.word 0x15 0 (w + 1)) 64 * sec16 + (bits (t.word 0x15 0 (w + 2)) 29 0 : Int) * 65536

/-- Write a signed time into words `w`..`w + 2` of the set-up table. -/
def State.setTimePair (s : State) (w : Nat) (v : Int) : State :=
  let m := tabWrite 0x15 0 (s.table 0x15 0) (4 * w) (leBytes (twos (secOf v) 64) 8 ++ leBytes (nsOf v) 4)
  s.setTable 0x15 0 m

/-- S of frame `n`, fixed at its input cut. -/
def State.showFor (s : State) (n : Nat) : Int :=
  let prev := s.shOf (n - 1)
  if n ≤ 1 ∨ (s.time.clock.tf.find? (fun e => e.1 == n - 1)).isNone then 0
  else
    match s.showMode with
    | 1 => if s.time.tcode.st = 0 then prev else s.tcodeAt (s.tfOf n) + s.live.timePair 7
    | 2 => prev
    | _ => prev + (s.tfOf n - s.tfOf (n - 1))

/-! ### The checks of a TIME commit (R384) -/

def Tabs.ptpWord (t : Tabs) (m w : Nat) : Nat := t.word 0x15 0 (16 + 8 * m + w)
def Tabs.ptpOn (t : Tabs) (m : Nat) : Bool := bits (t.ptpWord m 0) 31 31 = 1

/-- The words of class 0x15 that fail the format check. -/
def Tabs.timeBadWords (t : Tabs) : List Nat :=
  let w (i : Nat) : Nat := t.word 0x15 0 i
  let num := t.rateNum
  let den := t.rateDen
  let fails (i : Nat) : Bool :=
    if i = 0 then bits (w 0) 26 0 ≠ 0 || bits (w 0) 29 28 = 3
    else if i = 1 then bits (w 1) 31 20 ≠ 0 || num = 0 || decide (1001 * num < 24000 * den) || decide (240 * den < num)
    else if i = 2 then bits (w 2) 31 16 ≠ 0 || den = 0
    else if i = 3 ∨ i = 6 ∨ i = 9 then bits (w i) 31 30 ≠ 0 || decide (1000000000 ≤ bits (w i) 29 0)
    else if i = 10 then bits (w 10) 16 0 ≠ 0 || decide (5 < bits (w 10) 23 21) || decide (bits (w 10) 20 17 < 2)
    else if i = 11 then bits (w 11) 15 0 = 0
    else if i = 12 then bits (w 12) 31 24 ≠ 0
    else if 13 ≤ i ∧ i < 16 then w i ≠ 0
    else if 16 ≤ i then
      let m := (i - 16) / 8
      if i % 8 = 0 then bits (w i) 26 24 ≠ 0 || bits (w i) 30 29 = 3
      else if i % 8 = 2 then t.ptpOn m && decide (bits (w i) 7 0 < 2)
      else if 3 ≤ i % 8 then w i ≠ 0
      else false
    else false
  (List.range 48).filter fails

/-- The MACs that fail 0x61. Of a pair, the higher number is named. -/
def Tabs.ptpBadMacs (t : Tabs) : List Nat :=
  let on (m : Nat) : Bool := t.ptpOn m
  let role (m : Nat) : Nat := bits (t.ptpWord m 0) 30 29
  let prof (m : Nat) : Nat := bits (t.ptpWord m 0) 28 28
  let dom (m : Nat) : Nat := bits (t.ptpWord m 0) 23 16
  (List.range 4).filter (fun m => on m &&
    ((prof m = 1 && bits (t.ptpWord m 0) 27 27 = 0) ||
      (List.range m).any (fun k => on k && ((role k = 0 && role m = 0) || prof k ≠ prof m || dom k ≠ dom m))))

/-- Whether 0x62 fails: `joined` tells whether the device is joined to a basin and not its root (R414). -/
def Tabs.lockAbsent (t : Tabs) (joined : Bool) : Bool :=
  let src := bits (t.word 0x15 0 0) 31 30
  let ltcOff := bits (t.word 0x15 0 10) 31 31 = 0
  (src = 0 && !((List.range 4).any (fun m => t.ptpOn m))) || (src = 1 && ltcOff) || (src = 3 && !joined) ||
    (bits (t.word 0x15 0 0) 29 28 = 1 && ltcOff)

/-- Whether a COMMIT of scope TIME changes what places the lattice (R372). -/
def latticeChanged (old new : Tabs) : Bool :=
  bits (old.word 0x15 0 0) 31 30 ≠ bits (new.word 0x15 0 0) 31 30 || old.rateNum ≠ new.rateNum ||
    old.rateDen ≠ new.rateDen || old.word 0x15 0 3 ≠ new.word 0x15 0 3

end Sys2Proof.Machine
end

