-- ==== Sys2Proof/Machine/Gauges.lean ====
section
/-! DEFINITION. The Gauge units (R526..R533) and the Silt trap's own commands (R536..R538). -/

namespace Sys2Proof.Machine

def State.gauge (s : State) (g : Nat) : Gauge := mget gauge0 s.gauges g
def State.setGauge (s : State) (g : Nat) (v : Gauge) : State := { s with gauges := mset gauge0 s.gauges g v }

/-! ### The check of R526 -/

/-- The parameters of a unit's check, each in its low w bits. -/
structure CrcP where
  w : Nat
  poly : Nat
  init : Nat
  xorout : Nat
  refin : Bool
  refout : Bool
deriving DecidableEq, Repr

/-- The low `n` bits of a value in reverse order. -/
def reverseBits (v : Nat) : Nat → Nat
  | 0 => 0
  | n + 1 => v % 2 * 2 ^ n + reverseBits (v / 2) n

/-- One of the eight shifts of a byte. -/
def crcShift (p : CrcP) (run : Nat) : Nat :=
  if run / 2 ^ (p.w - 1) % 2 = 1 then ((run * 2) ^^^ p.poly) % 2 ^ p.w else run * 2 % 2 ^ p.w

def crcShifts (p : CrcP) : Nat → Nat → Nat
  | 0, run => run
  | n + 1, run => crcShifts p n (crcShift p run)

def crcFeed (p : CrcP) (run : Nat) (b : Byte) : Nat :=
  let v := if p.refin then reverseBits b.toNat 8 else b.toNat
  crcShifts p 8 (run ^^^ (v * 2 ^ (p.w - 8)))

def crcFinish (p : CrcP) (run : Nat) : Nat := (if p.refout then reverseBits run p.w else run) ^^^ p.xorout

/-- The check of a list of bytes from `init`. -/
def crcOf (p : CrcP) (l : List Byte) : Nat := crcFinish p (l.foldl (crcFeed p) p.init)

/-- CRC-32C, the reset setting of every unit. -/
def crc32c : CrcP := ⟨32, 0x1EDC6F41, 0xFFFFFFFF, 0xFFFFFFFF, true, true⟩

/-- The Ethernet CRC-32. -/
def crc32 : CrcP := ⟨32, 0x04C11DB7, 0xFFFFFFFF, 0xFFFFFFFF, true, true⟩

/-! ### Units -/

def State.gaWidth (s : State) (g : Nat) : Nat := s.fget R.GA_CFG_width_m1 g + 1

def State.gaCrc (s : State) (g : Nat) : CrcP :=
  let w := s.gaWidth g
  { w := w, poly := s.fget R.GA_POLY g % 2 ^ w, init := s.fget R.GA_INIT g % 2 ^ w, xorout := s.fget R.GA_XOROUT g % 2 ^ w,
    refin := s.fbit R.GA_CFG_refin g, refout := s.fbit R.GA_CFG_refout g }

def gaBound : Nat := 0
def gaSoftware : Nat := 1
def gaTx : Nat := 2
def gaRx : Nat := 3

/-- The outcome of a comparison against an expected value (R530). -/
def State.gaCompared (s : State) (g result expect : Nat) : State :=
  let w := s.gaWidth g
  if result % 2 ^ w = expect % 2 ^ w then s.fset R.GA_STATUS_mismatch_last 0 g
  else
    let s1 := ((s.bumpF R.GA_MISMATCH_COUNT g).fset R.GA_STATUS_mismatch_last 1 g).report 0x23 g
    if s.fbit R.GA_STATUS_irq_pending g then s1 else (s1.fset R.GA_STATUS_irq_pending 1 g).raise 37

/-- A check ends with a result over the content of frame `f` (R529). -/
def State.gaEnd (s : State) (g result f : Nat) : State :=
  let s1 := (((s.fset R.GA_RESULT result g).fset R.GA_RESULT_FRAME (f % 2 ^ 32) g).fset R.GA_STATUS_alive
    ((s.fget R.GA_STATUS_alive g + 1) % 256) g).fset R.GA_STATUS_stalled 0 g
  let s2 := s1.setGauge g { s1.gauge g with missed := 0, done := true }
  let siphon := s.fget R.GA_CFG_source g = gaTx || s.fget R.GA_CFG_source g = gaRx
  match (if siphon then 0 else s.fget R.GA_CFG_compare g) with
  | 1 => s2.gaCompared g result (s.fget R.GA_EXPECT g)
  | 2 =>
    let a := s.fget R.GA_EXPECT_BASE_base_64k * 65536 + 2048 * g + 8 * (f % 256)
    if memNat s.mem.reservoir a 4 = f % 2 ^ 32 then s2.gaCompared g result (memNat s.mem.reservoir (a + 4) 4)
    else s2.bumpF R.GA_SKIP_COUNT g
  | _ => s2

/-- A whole check of a unit that a source other than software feeds: nothing is fed while the unit does not run, or while
another source is selected. -/
def State.gaCheck (s : State) (g src : Nat) (l : List Byte) (f : Nat) : State :=
  if s.fbit R.GA_CFG_enable g && s.fget R.GA_CFG_source g = src then s.gaEnd g (crcOf (s.gaCrc g) l) f else s

/-- Every unit with a source takes the same bytes as one check: the Siphon feeds. -/
def State.gaFeedAll (s : State) (src : Nat) (l : List Byte) (f : Nat) : State :=
  (List.range 16).foldl (fun s g => s.gaCheck g src l f) s

/-- A due frame of a BOUND unit ends without a completed check (R532). -/
def State.gaMissed (s : State) (g : Nat) : State :=
  let lim := s.fget R.GA_CFG_alive_limit g
  let n := (s.gauge g).missed + 1
  let s1 := s.setGauge g { s.gauge g with missed := n }
  if lim ≠ 0 ∧ n = lim then ((s1.fset R.GA_STATUS_stalled 1 g).bumpF R.GA_STALL_COUNT g).report 0x24 g else s1

/-- One frame passes for a BOUND unit whose source was due in it. -/
def State.gaDue (s : State) (g : Nat) : State :=
  if s.fbit R.GA_CFG_enable g && s.fget R.GA_CFG_source g = gaBound then
    if (s.gauge g).done then s.setGauge g { s.gauge g with done := false } else s.gaMissed g
  else s

/-! ### Software checks (R533) -/

def State.gaSoft (s : State) (g : Nat) : Bool := s.fget R.GA_CFG_source g = gaSoftware

/-- Whether a unit checks: enabled, and clocked, which no Gauge unit is in WATCH (R18). -/
def State.gaRuns (s : State) (g : Nat) : Bool := s.fbit R.GA_CFG_enable g && !s.inWatch

/-- Feed bytes to the software check, opening one from `init` if none is open. -/
def State.gaSoftFeed (s : State) (g : Nat) (l : List Byte) : State :=
  let p := s.gaCrc g
  let run := if s.fbit R.GA_STATUS_open g then s.fget R.GA_RUN g % 2 ^ p.w else p.init
  (s.fset R.GA_RUN (l.foldl (crcFeed p) run) g).fset R.GA_STATUS_open 1 g

def State.gaRunWrite (s : State) (req : Requester) (g : Nat) (v : Word) : State :=
  if s.gaSoft g then (s.fset R.GA_RUN (v.toNat % 2 ^ s.gaWidth g) g).fset R.GA_STATUS_open 1 g
  else s.accessErr true req (R.GA_RUN.off g)

def State.gaDataWrite (s : State) (req : Requester) (g : Nat) (v : Word) : State :=
  if s.gaSoft g then if s.gaRuns g then s.gaSoftFeed g (leBytes v.toNat 4) else s
  else s.accessErr true req (R.GA_DATA.off g)

def State.gaData8Write (s : State) (req : Requester) (g : Nat) (v : Word) : State :=
  if s.gaSoft g then if s.gaRuns g then s.gaSoftFeed g (leBytes v.toNat 1) else s
  else s.accessErr true req (R.GA_DATA8.off g)

/-- A write of GA_FINISH. Which frame's content a software check covers, the spec does not say: a free value stands for
it. -/
def State.gaFinishWrite (s : State) (req : Requester) (g : Nat) : State :=
  if s.gaSoft g then
    if s.gaRuns g then
      let p := s.gaCrc g
      let run := if s.fbit R.GA_STATUS_open g then s.fget R.GA_RUN g % 2 ^ p.w else p.init
      let (n, s1) := s.fresh
      (s1.fset R.GA_STATUS_open 0 g).gaEnd g (crcFinish p run) (Config.pick n % 2 ^ 32)
    else s
  else s.accessErr true req (R.GA_FINISH.off g)

/-! ### The Silt trap's commands -/

/-- SLT_ACK with `release` 0: `seen` of an entry that is not FREE. -/
def State.siltSeen (s : State) (i : Nat) : State :=
  let e := s.entry i
  if e.st = 0 then s else s.setEntry i { e with seen := true }

/-- SLT_ACK with `release` 1: the entry is freed, and `full` clears. -/
def State.siltRelease (s : State) (i : Nat) : State :=
  if (s.entry i).st = 0 then s else (s.setEntry i {}).fset R.SLT_STATUS_full 0

/-- 1 s without a report. -/
def State.siltQuiet (s : State) (i : Nat) : State :=
  let e := s.entry i
  if e.st = 1 ∧ 1000000000 ≤ nsSince s e.lastTick then s.setEntry i { e with st := 2 } else s

/-- The end of an entry's 10 ms window (R538). -/
def State.siltWindow (s : State) (i : Nat) : State :=
  let e := s.entry i
  if e.window then
    if e.pending then (s.setEntry i { e with pending := false }).siltRaise i e.cls
    else s.setEntry i { e with window := false }
  else s

def execSiltEntryQuiet (entry : Fin 1024) (s : State) : Host.Outcome State Fault Refusal := .next (s.siltQuiet entry).settle

def execSiltWindowEnd (entry : Fin 1024) (s : State) : Host.Outcome State Fault Refusal :=
  .next (s.siltWindow entry).settle

end Sys2Proof.Machine
end

