-- ==== Sys2Proof/Machine/Canvas.lean ====
section
/-! DEFINITION. Canvases (chapter 6): the canvas table, sources, fetch geometry, scaling, blending and the composed sample;
the checks of a CANVAS commit and the lane sum. What happens at input cuts stands in CanvasOps. -/

namespace Sys2Proof.Machine

/-! ### Samples -/

/-- A sample: R, G, B and alpha, 16 bits each. -/
structure Px where
  r : Nat := 0
  g : Nat := 0
  b : Nat := 0
  a : Nat := 0
deriving DecidableEq, Repr

def Px.comp (p : Px) (k : Nat) : Nat := if k = 0 then p.r else if k = 1 then p.g else if k = 2 then p.b else p.a

def pxOf (f : Nat → Nat) : Px := { r := f 0, g := f 1, b := f 2, a := f 3 }

/-! ### The canvas table (R179..R183) -/

/-- Word `w` of canvas `c`'s header. -/
def Tabs.cvWord (t : Tabs) (c w : Nat) : Nat := t.word 0x08 c w

def Tabs.cvOn (t : Tabs) (c : Nat) : Bool := bits (t.cvWord c 0) 31 31 = 1
def Tabs.cvLayers (t : Tabs) (c : Nat) : Nat := bits (t.cvWord c 0) 27 24
def Tabs.cvSpace (t : Tabs) (c : Nat) : Nat := bits (t.cvWord c 0) 23 16
def Tabs.cvZone (t : Tabs) (c : Nat) : Nat := bits (t.cvWord c 0) 11 0
def Tabs.cvWidth (t : Tabs) (c : Nat) : Nat := bits (t.cvWord c 1) 31 17
def Tabs.cvHeight (t : Tabs) (c : Nat) : Nat := bits (t.cvWord c 1) 13 0
def Tabs.cvBack (t : Tabs) (c : Nat) : Px :=
  { r := bits (t.cvWord c 2) 31 16, g := bits (t.cvWord c 2) 15 0, b := bits (t.cvWord c 3) 31 16, a := 65535 }

/-- Region `r`: valid, zone, and its corners x0, y0, x1, y1. -/
def Tabs.region (t : Tabs) (c r : Nat) : Bool × Nat × Nat × Nat × Nat × Nat :=
  let a := t.cvWord c (8 + 3 * r)
  let b := t.cvWord c (9 + 3 * r)
  let d := t.cvWord c (10 + 3 * r)
  (bits a 31 31 = 1, bits a 11 0, bits b 31 18, bits b 17 5, bits d 31 18, bits d 17 5)

/-- The zone of a sample (R182). -/
def Tabs.sampleZone (t : Tabs) (c x y : Nat) : Nat :=
  match (List.range 16).find? (fun r =>
    let (v, _, x0, y0, x1, y1) := t.region c r
    v && decide (x0 ≤ x ∧ x ≤ x1 ∧ y0 ≤ y ∧ y ≤ y1)) with
  | some r => (t.region c r).2.1
  | none => t.cvZone c

/-- Signature rectangle `k`: on, Gauge unit, x0, y0, x1, y1. -/
def Tabs.sigRect (t : Tabs) (c k : Nat) : Bool × Nat × Nat × Nat × Nat × Nat :=
  let a := t.cvWord c (56 + 2 * k)
  let b := t.cvWord c (57 + 2 * k)
  (bits a 4 4 = 1, bits a 3 0, bits a 31 18, bits a 17 5, bits b 31 18, bits b 17 5)

/-- Word `w` of layer `l`'s descriptor. -/
def Tabs.lyWord (t : Tabs) (c l w : Nat) : Nat := t.word 0x08 c (64 + 16 * l + w)

/-- A layer descriptor as the pixel pipeline reads it. -/
structure LayerD where
  on : Bool
  source : Nat
  blend : Nat
  static_ : Bool
  holdFall : Bool
  zoneFollow : Bool
  stripe : Bool
  rotate : Nat
  mirrorH : Bool
  mirrorV : Bool
  format : Nat
  matrix : Nat
  full : Bool
  opaque_ : Bool
  filter : Nat
  opacity : Nat
  srcW : Nat
  srcH : Nat
  dstW : Nat
  dstH : Nat
  dstX : Int
  dstY : Int
  index : Nat
  latency : Nat
  col : Px
  cropX : Nat
  cropY : Nat
  cropW : Nat
  cropH : Nat
  fieldAlpha : Bool
deriving DecidableEq, Repr

def Tabs.layer (t : Tabs) (c l : Nat) : LayerD :=
  let w (i : Nat) : Nat := t.lyWord c l i
  let bit (b : Nat) : Bool := bits (w 0) b b = 1
  { on := bit 31
    source := bits (w 0) 30 28
    blend := bits (w 0) 27 24
    static_ := bit 23
    holdFall := bit 22
    zoneFollow := bit 21
    stripe := bit 20
    rotate := bits (w 0) 19 18
    mirrorH := bit 17
    mirrorV := bit 16
    format := bits (w 0) 15 8
    matrix := bits (w 0) 7 6
    full := bit 5
    opaque_ := bit 4
    filter := bits (w 0) 3 0
    opacity := bits (w 1) 31 16
    srcW := bits (w 2) 31 17
    srcH := bits (w 2) 13 0
    dstW := bits (w 3) 31 17
    dstH := bits (w 3) 13 0
    dstX := sint (bits (w 4) 31 16) 16
    dstY := sint (bits (w 4) 15 0) 16
    index := w 5
    latency := bits (w 6) 20 0
    col := { r := bits (w 7) 31 16, g := bits (w 7) 15 0, b := bits (w 8) 31 16, a := bits (w 8) 15 0 }
    cropX := bits (w 9) 31 17
    cropY := bits (w 9) 13 0
    cropW := bits (w 10) 31 17
    cropH := bits (w 10) 13 0
    fieldAlpha := bits (w 11) 0 0 = 1 }

def srcBuffer : Nat := 0
def srcVideo : Nat := 1
def srcRill : Nat := 2
def srcFabric : Nat := 3
def srcSolid : Nat := 4

/-- Layers that take part: enabled and below `layers`. -/
def Tabs.layersOn (t : Tabs) (c : Nat) : List Nat := (List.range (min 8 (t.cvLayers c))).filter (fun l => (t.layer c l).on)

/-! ### Formats (R185) -/

/-- Bytes per two pixels of a BUFFER format; 0 for a code that R185 does not list. -/
def formatBytes2 (f : Nat) : Nat :=
  match f with
  | 0x01 => 8 | 0x02 => 8 | 0x03 => 8 | 0x04 => 16 | 0x05 => 16 | 0x06 => 16
  | 0x10 => 4 | 0x11 => 8 | 0x12 => 8 | 0x13 => 8 | 0x14 => 16
  | 0x20 => 2 | 0x21 => 4
  | _ => 0

def format422 (f : Nat) : Bool := f = 0x10 || f = 0x11 || f = 0x12

/-- Formats whose alpha is 65,535. -/
def formatOpaque (f : Nat) : Bool := f = 0x01 || f = 0x05 || format422 f || f = 0x20

/-- Bytes of `n` pixels of a format. -/
def formatLine (f n : Nat) : Nat := n * formatBytes2 f / 2

/-- Expand an n-bit code to 16 bits (R186). -/
def expand16 (n v : Nat) : Nat := (2 * 65535 * v + 2 ^ n - 1) / (2 * (2 ^ n - 1))

/-! ### YCbCr (R187) -/

/-- kr and kb in 1/10,000. -/
def yccK (m : Nat) : Nat × Nat := if m = 0 then (2990, 1140) else if m = 1 then (2126, 722) else (2627, 593)

/-- Round 65,535 times a fraction clamped to 0..1, then within 1 of it as the device may differ. -/
def yccRound (key : Nat) (num den : Int) : Nat :=
  let exact : Int := if num ≤ 0 then 0 else if den ≤ num then 65535 else (2 * 65535 * num + den) / (2 * den)
  (clampI 0 65535 (exact + Config.yccOff key)).toNat

/-- Convert n-bit codes Y, Cb, Cr. The exact value is R187's; the device's may differ from it by at most 1, the same on
every device, which a free value of the codes stands for. -/
def yccToRgb (m : Nat) (full : Bool) (n y cb cr : Nat) : Nat × Nat × Nat :=
  let s : Int := 2 ^ (n - 8)
  let yn : Int := if full then y else y - 16 * s
  let yd : Int := if full then 2 ^ n - 1 else 219 * s
  let off : Int := if full then 2 ^ (n - 1) else 128 * s
  let cd : Int := if full then 2 ^ n - 1 else 224 * s
  let (kr, kb) := yccK m
  let den : Int := yd * cd * 10000
  let yy : Int := yn * cd * 10000
  let r : Int := yy + 2 * (10000 - kr) * ((cr : Int) - off) * yd
  let b : Int := yy + 2 * (10000 - kb) * ((cb : Int) - off) * yd
  let g : Int := yy * 10000 - kr * r - kb * b
  let kg : Int := 10000 - kr - kb
  let key := (((y * 65536 + cb) * 65536 + cr) * 16 + (n - 8)) * 8 + m * 2 + b2n full
  (yccRound (3 * key) r den, yccRound (3 * key + 1) g (den * kg), yccRound (3 * key + 2) b den)

/-! ### Reading a source (R184) -/

/-- What the source samples come from: bytes of a buffer at its pixel offset, the bits of a video frame, Rill and slot
values. -/
structure SrcEnv where
  bufByte : Nat → Byte
  vidByte : Nat → Byte
  vidW : Nat
  vidH : Nat
  vidFormat : Nat
  rill : Nat → Nat → Nat → Nat
  slot : Nat → Nat

/-- A little-endian number of a buffer. -/
def SrcEnv.num (e : SrcEnv) (a : Nat) : Nat → Nat
  | 0 => 0
  | n + 1 => (e.bufByte a).toNat + 256 * e.num (a + 1) n

/-- The code of 4:2:2 component `k` (0 Cb, 1 Y0, 2 Cr, 3 Y1) of the pair at byte `a`. -/
def SrcEnv.ycc422 (e : SrcEnv) (f a k : Nat) : Nat :=
  if f = 0x10 then e.num (a + k) 1 else if f = 0x11 then e.num (a + 2 * k) 2 / 64 else e.num (a + 2 * k) 2 / 16

/-- Chroma of column x from the pairs' chroma `c`: an even column's own, an odd one's mean with the next, the last column
repeating (R187). -/
def chromaAt (c : Nat → Nat) (x w : Nat) : Nat :=
  if x % 2 = 0 then c (x / 2) else if x + 1 < w then (c (x / 2) + c (x / 2 + 1) + 1) / 2 else c (x / 2)

/-- Pixel (x, y) of a buffer of lines of `stride` bytes, decoded by its format. -/
def SrcEnv.bufPixel (e : SrcEnv) (d : LayerD) (stride x y : Nat) : Px :=
  let line := y * stride
  let f := d.format
  let a := line + formatLine f x
  match f with
  | 0x01 => { r := 257 * e.num a 1, g := 257 * e.num (a + 1) 1, b := 257 * e.num (a + 2) 1, a := 65535 }
  | 0x02 => pxOf (fun k => 257 * e.num (a + k) 1)
  | 0x03 =>
    let w := e.num a 4
    { r := expand16 10 (bits w 9 0), g := expand16 10 (bits w 19 10), b := expand16 10 (bits w 29 20),
      a := expand16 2 (bits w 31 30) }
  | 0x04 => pxOf (fun k => expand16 12 (e.num (a + 2 * k) 2 / 16))
  | 0x05 => { r := e.num a 2, g := e.num (a + 2) 2, b := e.num (a + 4) 2, a := 65535 }
  | 0x06 => pxOf (fun k => e.num (a + 2 * k) 2)
  | 0x13 =>
    let (r, g, b) := yccToRgb d.matrix d.full 8 (e.num a 1) (e.num (a + 1) 1) (e.num (a + 2) 1)
    { r := r, g := g, b := b, a := 257 * e.num (a + 3) 1 }
  | 0x14 =>
    let (r, g, b) := yccToRgb d.matrix d.full 16 (e.num a 2) (e.num (a + 2) 2) (e.num (a + 4) 2)
    { r := r, g := g, b := b, a := e.num (a + 6) 2 }
  | 0x20 => let v := 257 * e.num a 1; { r := v, g := v, b := v, a := 65535 }
  | 0x21 => let v := 257 * e.num a 1; { r := v, g := v, b := v, a := 257 * e.num (a + 1) 1 }
  | _ =>
    let n := if f = 0x10 then 8 else if f = 0x11 then 10 else 12
    let at_ (p : Nat) : Nat := line + p * formatBytes2 f
    let yv := e.ycc422 f (at_ (x / 2)) (if x % 2 = 0 then 1 else 3)
    let cb := chromaAt (fun p => e.ycc422 f (at_ p) 0) x d.srcW
    let cr := chromaAt (fun p => e.ycc422 f (at_ p) 2) x d.srcW
    let (r, g, b) := yccToRgb d.matrix d.full n yv cb cr
    { r := r, g := g, b := b, a := 65535 }

/-- `n` bits of a big-endian bit stream from bit `p`: the pixel groups of ST 2110-20 in network order. -/
def SrcEnv.vidBits (e : SrcEnv) (p : Nat) : Nat → Nat
  | 0 => 0
  | n + 1 => (e.vidByte (p / 8)).toNat / 2 ^ (7 - p % 8) % 2 * 2 ^ n + e.vidBits (p + 1) n

/-- Bits per pixel pair of a received format. -/
def vidPair (f : Nat) : Nat := if f = 0 then 40 else if f = 1 then 48 else if f = 2 then 60 else 72

/-- Pixel (x, y) of a video frame in its received format. -/
def SrcEnv.vidPixel (e : SrcEnv) (d : LayerD) (x y : Nat) : Px :=
  let line := y * e.vidW * vidPair e.vidFormat / 2
  if e.vidFormat = 0 then
    let c (i p : Nat) : Nat := e.vidBits (line + p * 40 + 10 * i) 10
    let yv := c (if x % 2 = 0 then 1 else 3) (x / 2)
    let (r, g, b) := yccToRgb d.matrix d.full 10 yv (chromaAt (c 0) x e.vidW) (chromaAt (c 2) x e.vidW)
    { r := r, g := g, b := b, a := 65535 }
  else
    let n := if e.vidFormat = 1 then 8 else if e.vidFormat = 2 then 10 else 12
    let c (i : Nat) : Nat := expand16 n (e.vidBits (line + x * 3 * n + i * n) n)
    { r := c 0, g := c 1, b := c 2, a := 65535 }

/-- A field value as colour (the RILL row of R184). -/
def fieldPx (d : LayerD) (v : Nat) : Px :=
  { r := q16 d.col.r v, g := q16 d.col.g v, b := q16 d.col.b v, a := if d.fieldAlpha then v else d.col.a }

/-- Channels of a FABRIC layer. -/
def fabChannels (d : LayerD) : Nat := if bits d.index 31 30 = 0 then 1 else if bits d.index 31 30 = 1 then 3 else 4

def fabPixel (e : SrcEnv) (d : LayerD) (x y : Nat) : Px :=
  let ch := fabChannels d
  let base := bits d.index 22 0 + (y * d.srcW + x) * ch
  if ch = 1 then fieldPx d (e.slot base)
  else
    { r := e.slot base, g := e.slot (base + 1), b := e.slot (base + 2),
      a := if ch = 4 then e.slot (base + 3) else if d.fieldAlpha then 65535 else d.col.a }

/-- The source grid of a layer (R184). -/
def gridW (e : SrcEnv) (d : LayerD) : Nat := if d.source = srcVideo then e.vidW else if d.source = srcSolid then d.dstW else d.srcW
def gridH (e : SrcEnv) (d : LayerD) : Nat := if d.source = srcVideo then e.vidH else if d.source = srcSolid then d.dstH else d.srcH

/-- Source sample (x, y). `stride` is the buffer's. -/
def srcSample (e : SrcEnv) (d : LayerD) (stride x y : Nat) : Px :=
  match d.source with
  | 0 => e.bufPixel d stride x y
  | 1 => e.vidPixel d x y
  | 2 => fieldPx d (e.rill (bits d.index 13 0) x y)
  | 3 => fabPixel e d x y
  | _ => d.col

/-! ### Geometry (R188) -/

/-- The crop used: the whole grid when both sizes are 0. -/
def cropOf (d : LayerD) (gw gh : Nat) : Nat × Nat := if d.cropW = 0 ∧ d.cropH = 0 then (gw, gh) else (d.cropW, d.cropH)

/-- The layer image's size. -/
def imageSize (d : LayerD) (cw ch : Nat) : Nat × Nat := if d.rotate % 2 = 0 then (cw, ch) else (ch, cw)

/-- The crop sample that layer sample (u, v) reads. -/
def unrotate (d : LayerD) (cw ch u0 v0 : Nat) : Nat × Nat :=
  let (lw, lh) := imageSize d cw ch
  let u := if d.mirrorH then lw - 1 - u0 else u0
  let v := if d.mirrorV then lh - 1 - v0 else v0
  match d.rotate with
  | 0 => (u, v)
  | 1 => (v, ch - 1 - u)
  | 2 => (cw - 1 - u, ch - 1 - v)
  | _ => (cw - 1 - v, u)

/-- Layer sample (u, v) before scaling. -/
def layerSample (e : SrcEnv) (d : LayerD) (stride u v : Nat) : Px :=
  let (cw, ch) := cropOf d (gridW e d) (gridH e d)
  let (sx, sy) := unrotate d cw ch u v
  srcSample e d stride (d.cropX + sx) (d.cropY + sy)

/-! ### Filters (R189, R190) -/

/-- Catmull–Rom at a distance of m/64, in 1/16,384 times 32: exact. -/
def cubicNum (m : Nat) : Int :=
  let x : Int := m
  if m < 64 then 3 * x * x * x - 320 * x * x + 524288
  else if m < 128 then -(x * x * x) + 320 * x * x - 32768 * x + 1048576
  else 0

/-- CUBIC coefficient k of a phase, rounded to the nearest 1/16,384 (no value lies midway). -/
def cubicRaw (ph k : Nat) : Int :=
  let m := ((k : Int) * 64 - 192 - ph).natAbs
  (cubicNum m + 16) / 32

/-- LANCZOS4, a = 4: the coefficients of R190, phases 0..63 in eight parts, c_3 already adjusted. -/
def lanczos0 : List (List Int) :=
  [[0, 0, 0, 16384, 0, 0, 0, 0],
   [-25, 80, -226, 16377, 235, -83, 26, 0],
   [-49, 158, -443, 16356, 478, -168, 53, -1],
   [-71, 232, -651, 16319, 730, -255, 82, -2],
   [-93, 304, -850, 16271, 990, -345, 111, -4],
   [-113, 373, -1040, 16206, 1258, -436, 142, -6],
   [-132, 439, -1220, 16129, 1533, -529, 173, -9],
   [-149, 501, -1391, 16039, 1816, -624, 205, -13]]

def lanczos1 : List (List Int) :=
  [[-165, 560, -1552, 15933, 2106, -719, 238, -17],
   [-180, 616, -1704, 15816, 2402, -816, 271, -21],
   [-193, 668, -1846, 15685, 2705, -914, 305, -26],
   [-205, 717, -1978, 15539, 3014, -1012, 340, -31],
   [-216, 763, -2101, 15382, 3329, -1111, 375, -37],
   [-226, 805, -2215, 15215, 3649, -1210, 410, -44],
   [-234, 843, -2319, 15033, 3974, -1308, 445, -50],
   [-241, 878, -2413, 14839, 4304, -1406, 481, -58]]

def lanczos2 : List (List Int) :=
  [[-247, 910, -2499, 14636, 4637, -1504, 516, -65],
   [-252, 938, -2575, 14419, 4975, -1600, 552, -73],
   [-255, 962, -2642, 14192, 5316, -1695, 587, -81],
   [-257, 984, -2700, 13956, 5659, -1789, 621, -90],
   [-259, 1001, -2749, 13710, 6005, -1881, 656, -99],
   [-259, 1016, -2790, 13453, 6353, -1970, 689, -108],
   [-258, 1027, -2822, 13187, 6702, -2057, 722, -117],
   [-256, 1036, -2846, 12911, 7053, -2142, 754, -126]]

def lanczos3 : List (List Int) :=
  [[-254, 1041, -2862, 12630, 7403, -2223, 785, -136],
   [-250, 1043, -2870, 12338, 7754, -2301, 815, -145],
   [-246, 1042, -2870, 12039, 8104, -2375, 844, -154],
   [-241, 1038, -2863, 11736, 8453, -2446, 871, -164],
   [-236, 1032, -2849, 11425, 8800, -2512, 897, -173],
   [-229, 1023, -2828, 11106, 9146, -2573, 921, -182],
   [-223, 1012, -2800, 10783, 9489, -2629, 943, -191],
   [-215, 998, -2767, 10457, 9828, -2681, 963, -199]]

def lanczos4 : List (List Int) :=
  [[-207, 982, -2727, 10124, 10164, -2727, 982, -207],
   [-199, 963, -2681, 9789, 10496, -2767, 998, -215],
   [-191, 943, -2629, 9448, 10824, -2800, 1012, -223],
   [-182, 921, -2573, 9106, 11146, -2828, 1023, -229],
   [-173, 897, -2512, 8762, 11463, -2849, 1032, -236],
   [-164, 871, -2446, 8416, 11773, -2863, 1038, -241],
   [-154, 844, -2375, 8066, 12077, -2870, 1042, -246],
   [-145, 815, -2301, 7718, 12374, -2870, 1043, -250]]

def lanczos5 : List (List Int) :=
  [[-136, 785, -2223, 7369, 12664, -2862, 1041, -254],
   [-126, 754, -2142, 7019, 12945, -2846, 1036, -256],
   [-117, 722, -2057, 6671, 13218, -2822, 1027, -258],
   [-108, 689, -1970, 6324, 13482, -2790, 1016, -259],
   [-99, 656, -1881, 5978, 13737, -2749, 1001, -259],
   [-90, 621, -1789, 5633, 13982, -2700, 984, -257],
   [-81, 587, -1695, 5290, 14218, -2642, 962, -255],
   [-73, 552, -1600, 4952, 14442, -2575, 938, -252]]

def lanczos6 : List (List Int) :=
  [[-65, 516, -1504, 4617, 14656, -2499, 910, -247],
   [-58, 481, -1406, 4284, 14859, -2413, 878, -241],
   [-50, 445, -1308, 3957, 15050, -2319, 843, -234],
   [-44, 410, -1210, 3634, 15230, -2215, 805, -226],
   [-37, 375, -1111, 3314, 15397, -2101, 763, -216],
   [-31, 340, -1012, 3001, 15552, -1978, 717, -205],
   [-26, 305, -914, 2696, 15694, -1846, 668, -193],
   [-21, 271, -816, 2394, 15824, -1704, 616, -180]]

def lanczos7 : List (List Int) :=
  [[-17, 238, -719, 2099, 15940, -1552, 560, -165],
   [-13, 205, -624, 1811, 16044, -1391, 501, -149],
   [-9, 173, -529, 1528, 16134, -1220, 439, -132],
   [-6, 142, -436, 1254, 16210, -1040, 373, -113],
   [-4, 111, -345, 989, 16272, -850, 304, -93],
   [-2, 82, -255, 728, 16321, -651, 232, -71],
   [-1, 53, -168, 478, 16356, -443, 158, -49],
   [0, 26, -83, 235, 16377, -226, 80, -25]]

def lanczosTable : List (List Int) :=
  lanczos0 ++ lanczos1 ++ lanczos2 ++ lanczos3 ++ lanczos4 ++ lanczos5 ++ lanczos6 ++ lanczos7

/-- Coefficient k of a phase of Expert set `n`, horizontal or vertical, in class 0x48. -/
def Tabs.expertCoef (t : Tabs) (c n : Nat) (vert : Bool) (ph k : Nat) : Int :=
  sint (tabNat 0x48 c (t 0x48 c) (2048 * n + (if vert then 1024 else 0) + 16 * ph + 2 * k) 2) 16

/-- Coefficient k of a phase of a layer's filter. -/
def Tabs.coef (t : Tabs) (c f : Nat) (vert : Bool) (ph k : Nat) : Int :=
  if 8 ≤ f then t.expertCoef c (f - 8) vert ph k
  else
    match f with
    | 0 => if (ph < 32 ∧ k = 3) ∨ (32 ≤ ph ∧ k = 4) then 16384 else 0
    | 1 => if k = 3 then 256 * (64 - ph) else if k = 4 then 256 * ph else 0
    | 2 =>
      if k = 3 then 16384 - ((List.range 8).foldl (fun a j => if j = 3 then a else a + cubicRaw ph j) 0)
      else cubicRaw ph k
    | _ => (lanczosTable.getD ph []).getD k 0

/-- The source position of output sample d: its index i and phase (R189). -/
def scalePos (d l dd : Nat) : Int × Nat :=
  let pos : Int := ((2 * d + 1) * l * 65536 / (2 * dd) : Nat) - 32768
  let i := pos / 65536
  (i, ((pos - 65536 * i) / 1024).toNat)

/-- One filtered component. -/
def taps (coef : Nat → Int) (i : Int) (l : Nat) (get : Nat → Nat) : Nat :=
  let s := (List.range 8).foldl (fun (a : Int) k =>
    a + coef k * (get (clampI 0 (l - 1 : Nat) (i - 3 + k)).toNat : Nat)) 0
  (clampI 0 65535 ((s + 8192) / 16384)).toNat

/-- One pass over samples along one direction; unfiltered where the sizes are equal. -/
def scalePass (coef : Nat → Nat → Int) (d l dd : Nat) (get : Nat → Px) : Px :=
  if l = dd then get d
  else
    let (i, ph) := scalePos d l dd
    pxOf (fun k => taps (coef ph) i l (fun j => (get j).comp k))

/-- The scaled sample (x, y) of a layer's destination. -/
def Tabs.scaled (t : Tabs) (c : Nat) (e : SrcEnv) (d : LayerD) (stride x y : Nat) : Px :=
  if d.source = srcSolid then d.col
  else
    let (cw, ch) := cropOf d (gridW e d) (gridH e d)
    let (lw, lh) := imageSize d cw ch
    let hc := t.coef c d.filter false
    let vc := t.coef c d.filter true
    if d.dstW ≤ lw then scalePass vc y lh d.dstH (fun v => scalePass hc x lw d.dstW (fun u => layerSample e d stride u v))
    else scalePass hc x lw d.dstW (fun u => scalePass vc y lh d.dstH (fun v => layerSample e d stride u v))

/-! ### Blending (R193) -/

/-- Blend a sample onto the canvas sample below it. -/
def blendPx (d : LayerD) (s below : Px) : Px :=
  let a := q16 (if d.opaque_ then 65535 else s.a) d.opacity
  let one (s d' : Nat) : Nat :=
    match d.blend with
    | 0 => min 65535 (q16 s a + q16 d' (65535 - a))
    | 1 => min 65535 (d' + q16 s a)
    | 2 => lerp16 d' (q16 d' s) a
    | 3 => lerp16 d' (max d' s) a
    | _ => s
  { r := one s.r below.r, g := one s.g below.g, b := one s.b below.b, a := 65535 }

/-! ### Skipped layers and the flattened run (R194, R195) -/

/-- A layer's clipped destination: x0, y0, x1, y1, the ends exclusive; empty where x1 ≤ x0 or y1 ≤ y0. -/
def Tabs.clip (t : Tabs) (c : Nat) (d : LayerD) : Int × Int × Int × Int :=
  (max 0 d.dstX, max 0 d.dstY, min (t.cvWidth c) (d.dstX + d.dstW), min (t.cvHeight c) (d.dstY + d.dstH))

def clipEmpty (r : Int × Int × Int × Int) : Bool := decide (r.2.2.1 ≤ r.1 ∨ r.2.2.2 ≤ r.2.1)

def clipHolds (o i : Int × Int × Int × Int) : Bool :=
  decide (o.1 ≤ i.1 ∧ o.2.1 ≤ i.2.1 ∧ i.2.2.1 ≤ o.2.2.1 ∧ i.2.2.2 ≤ o.2.2.2)

def clipArea (r : Int × Int × Int × Int) : Nat :=
  if clipEmpty r then 0 else ((r.2.2.1 - r.1) * (r.2.2.2 - r.2.1)).toNat

/-- Whether a layer is opaque. -/
def layerOpaque (d : LayerD) : Bool :=
  d.blend = 4 || (d.blend = 0 && d.opacity = 65535 &&
    (d.opaque_ || d.source = srcVideo || (d.source = srcBuffer && formatOpaque d.format) ||
      (d.source = srcSolid && d.col.a = 65535)))

/-- The layers that the device skips. -/
def Tabs.skipped (t : Tabs) (c l : Nat) : Bool :=
  let d := t.layer c l
  let r := t.clip c d
  clipEmpty r || (d.blend ≠ 4 && d.opacity = 0) ||
    (t.layersOn c).any (fun m => decide (l < m) && layerOpaque (t.layer c m) && clipHolds (t.clip c (t.layer c m)) r)

/-- Layers of the flattened run: the enabled static ones below the first enabled one that is not. -/
def Tabs.runLayers (t : Tabs) (c : Nat) : List Nat := (t.layersOn c).takeWhile (fun l => (t.layer c l).static_)

/-- Layers composed each frame. -/
def Tabs.dynLayers (t : Tabs) (c : Nat) : List Nat :=
  ((t.layersOn c).filter (fun l => !((t.layer c l).static_))).filter (fun l => !(t.skipped c l))

/-! ### Images: 8 bytes per sample -/

/-- Sample (x, y) of the image of width `w` at an address of a memory. -/
def imgGet (m : Memory) (a w x y : Nat) : Px := pxOf (fun k => memNat m (a + 8 * (y * w + x) + 2 * k) 2)

def Px.bytes (p : Px) : List Byte := leBytes p.r 2 ++ leBytes p.g 2 ++ leBytes p.b 2 ++ leBytes p.a 2

/-- The bytes of an image of `w` by `h` samples. -/
def imgBytes (w h : Nat) (f : Nat → Nat → Px) : List Byte :=
  (List.range h).flatMap (fun y => (List.range w).flatMap (fun x => (f x y).bytes))

/-! ### The flatten cache (R197, R198)

Its parts are the run of each canvas that has one (key 9 c) and each layer that keeps hold copies (key 9 c + 1 + l), each with two
copies of one size. -/

/-- Whether a layer keeps hold copies. -/
def Tabs.keepsHold (t : Tabs) (c l : Nat) : Bool :=
  let d := t.layer c l
  (t.layersOn c).contains l && d.holdFall && (d.source = srcBuffer || d.source = srcVideo)

def runPart (c : Nat) : Nat := 9 * c
def holdPart (c l : Nat) : Nat := 9 * c + 1 + l

/-- The parts of canvas c in ascending key, with the bytes of one copy. -/
def Tabs.canvasParts (t : Tabs) (c : Nat) : List (Nat × Nat) :=
  (if t.runLayers c ≠ [] then [(runPart c, 8 * t.cvWidth c * t.cvHeight c)] else []) ++
    ((List.range 8).filter (fun l => t.keepsHold c l)).map (fun l => (holdPart c l, 8 * clipArea (t.clip c (t.layer c l))))

def Tabs.flattenParts (t : Tabs) : List (Nat × Nat) := (List.range 4).flatMap t.canvasParts

/-- A part's place in the cache and the bytes of one copy: the parts lie one after the other in ascending key (DESIGN CHOICE, log
entry 88: the spec does not place them). -/
def Tabs.partPlace (t : Tabs) (key : Nat) : Option (Nat × Nat) :=
  (t.flattenParts.find? (fun e => e.1 = key)).map (fun e =>
    ((t.flattenParts.filter (fun p => decide (p.1 < key))).foldl (fun n p => n + 2 * p.2) 0, e.2))

/-! ### Buffers (R199) -/

/-- The bytes a buffer must hold. -/
def bufferNeeds (d : LayerD) (stride : Nat) : Nat := 64 + stride * (d.srcH - 1) + formatLine d.format d.srcW

/-- Whether a LAYER_FRAME fits a layer descriptor. -/
def bufferFits (d : LayerD) (ws : List Word) : Bool :=
  d.source = srcBuffer && lStride ws % 64 = 0 && decide (formatLine d.format d.srcW ≤ lStride ws) &&
    decide (bufferNeeds d (lStride ws) ≤ lLength ws)

/-! ### Pixel maps (R204) -/

def Tabs.mapEntries (t : Tabs) (c : Nat) : List Nat :=
  (t.entries 0x09 c 16).filter (fun k => bits (t.word 0x09 c (4 * k)) 31 31 = 1)

def Tabs.mapX (t : Tabs) (c k : Nat) : Nat := bits (t.word 0x09 c (4 * k)) 30 17
def Tabs.mapY (t : Tabs) (c k : Nat) : Nat := bits (t.word 0x09 c (4 * k)) 16 4
def Tabs.mapSample (t : Tabs) (c k : Nat) : Nat := bits (t.word 0x09 c (4 * k)) 3 2
def Tabs.mapPort (t : Tabs) (c k : Nat) : Nat := bits (t.word 0x09 c (4 * k + 1)) 31 24
def Tabs.mapIndex (t : Tabs) (c k : Nat) : Nat := bits (t.word 0x09 c (4 * k + 1)) 23 9
def Tabs.mapProfile (t : Tabs) (c k : Nat) : Nat := bits (t.word 0x09 c (4 * k + 2)) 9 0
def Tabs.mapKey (t : Tabs) (c k : Nat) : Nat := 32768 * t.mapPort c k + t.mapIndex c k

/-- The sample that a map entry takes from a canvas (R205). -/
def Tabs.mapTake (t : Tabs) (c k : Nat) (get : Nat → Nat → Px) : Px :=
  let x := t.mapX c k
  let y := t.mapY c k
  let at_ (i j : Nat) : Px := get (min (x + i) (t.cvWidth c - 1)) (min (y + j) (t.cvHeight c - 1))
  let box (n half : Nat) : Px :=
    pxOf (fun q => (((List.range n).flatMap (fun j => (List.range n).map (fun i => (at_ i j).comp q))).foldl (· + ·) half) /
      (n * n))
  match t.mapSample c k with
  | 0 => get x y
  | 1 => box 2 2
  | _ => box 4 8

/-! ### Stripes and line buffers (R191, R192) -/

/-- A layer's source sizes at a commit: a VIDEO layer's grid is the stream's. -/
def layerImage (d : LayerD) (vw vh : Nat) : Nat × Nat :=
  let gw := if d.source = srcVideo then vw else if d.source = srcSolid then d.dstW else d.srcW
  let gh := if d.source = srcVideo then vh else if d.source = srcSolid then d.dstH else d.srcH
  if d.source = srcSolid then (gw, gh) else let (cw, ch) := cropOf d gw gh; imageSize d cw ch

/-- W_s: the line buffer a layer needs, 0 where it needs none. -/
def lineNeed (d : LayerD) (lw lh : Nat) : Nat := if d.source = srcSolid ∨ lh = d.dstH then 0 else min lw d.dstW

/-- Stripes of a layer. -/
def stripesOf (ws : Nat) : Nat := if ws ≤ 8192 then 1 else (ws - 8 + 8183) / 8184

end Sys2Proof.Machine
end

