-- ==== Sys2Proof/Machine/Colour.lean ====
section
/-! DEFINITION. The colour and emitter pipeline (chapter 7): decode, emitter matrix, pixel correction, output LUT and
dither of one mapped pixel; where its tables live; the checks and effects of a COLOUR commit. -/

namespace Sys2Proof.Machine

/-! ### Decode (R216, R217) -/

/-- The largest `d` below `2 ^ n` above the bits already fixed that satisfies a test which holds up to some value. -/
def largestBits (p : Nat → Bool) : Nat → Nat → Nat
  | 0, d => d
  | n + 1, d => if p (d + 2 ^ n) then largestBits p n (d + 2 ^ n) else largestBits p n d

/-- floor(65,535 · (num / den)^2.4 + 1/2), by comparing (2d − 1)/131,070 to the power 5 with (num / den) to the
power 12. -/
def pow24 (num den : Nat) : Nat :=
  largestBits (fun d => decide ((2 * d - 1) ^ 5 * den ^ 12 ≤ 131070 ^ 5 * num ^ 12)) 16 0

/-- Point i of the table D of IEC 61966-2-1: V ≤ 0.040 45 is i ≤ 165. -/
def srgbPoint (i : Nat) : Nat :=
  if i ≤ 165 then (2 * 65535 * i * 100 + 4095 * 1292) / (2 * 4095 * 1292) else pow24 (1000 * i + 225225) 4320225

/-- Point i of the table D of BT.1886 with zero black. -/
def bt1886Point (i : Nat) : Nat := pow24 i 4095

/-- lut4k of R217 over points `t`. -/
def lut4k (t : Nat → Nat) (v : Nat) : Nat :=
  let k := v * 4095
  let i := k / 65535
  if i = 4095 then t 4095
  else
    let f := k - 65535 * i
    let a := t i
    let b := t (i + 1)
    if a ≤ b then a + ((b - a) * f + 32767) / 65535 else a - ((a - b) * f + 32767) / 65535

/-- Stage 1: decode of a colour space. -/
def decodeSpace (sp v : Nat) : Nat :=
  if sp = 1 ∨ sp = 4 then lut4k srgbPoint v else if sp = 2 ∨ sp = 3 then lut4k bt1886Point v else v

/-- The colour spaces of R216. -/
def spaceKnown (sp : Nat) : Bool := decide (sp ≤ 6)

/-- MONO weights of a space. -/
def monoWeights (sp : Nat) : List Int :=
  if sp = 3 ∨ sp = 6 then [17216, 44434, 3886, 0] else if sp = 4 then [15008, 45331, 5197, 0]
  else [13933, 46871, 4732, 0]

/-! ### Profiles and matrices (R218..R221) -/

def Tabs.profWord (t : Tabs) (p w : Nat) : Nat := t.word 0x0A 0 (8 * p + w)
def Tabs.profValid (t : Tabs) (p : Nat) : Bool := bits (t.profWord p 0) 31 31 = 1
def Tabs.profBits (t : Tabs) (p : Nat) : Nat := bits (t.profWord p 0) 4 0
def Tabs.profLut (t : Tabs) (p j : Nat) : Nat :=
  if j % 2 = 0 then bits (t.profWord p (1 + j / 2)) 9 0 else bits (t.profWord p (1 + j / 2)) 25 16

def one16 : Int := 65536

/-- The rows of a preset (R219). -/
def presetRows (sp code : Nat) : List (List Int) :=
  let r : List Int := [one16, 0, 0, 0]
  let g : List Int := [0, one16, 0, 0]
  let b : List Int := [0, 0, one16, 0]
  let w : List Int := [0, 0, 0, one16]
  let rw : List Int := [one16, 0, 0, -one16]
  let gw : List Int := [0, one16, 0, -one16]
  let bw : List Int := [0, 0, one16, -one16]
  match code with
  | 0 => [monoWeights sp]
  | 1 => [r, g, b]
  | 2 => [g, r, b]
  | 3 => [rw, gw, bw, w]
  | 4 => [gw, rw, bw, w]
  | _ => [r, g, b, w]

/-- Whether a matrix, a LUT is loaded (R229). -/
def State.matrixLoaded (s : State) (p : Nat) : Bool :=
  s.fget R.CLR_MATRIX_LOADED (p / 32) / 2 ^ (p % 32) % 2 = 1
def State.lutLoaded (s : State) (n : Nat) : Bool := s.fget R.CLR_LUT_LOADED (n / 32) / 2 ^ (n % 32) % 2 = 1

/-- The rows of a profile's matrix: its preset's, or its Expert matrix, 0 where unloaded. The table holds 8 rows. -/
def State.profRows (s : State) (sp p : Nat) : List (List Int) :=
  let t := s.live
  let w0 := t.profWord p 0
  if bits w0 30 30 = 0 then presetRows sp (bits w0 23 16)
  else
    (List.range (min 8 (bits w0 11 8))).map (fun j => (List.range 4).map (fun k =>
      if s.matrixLoaded p then sint (t.word 0x44 p (4 * j + k)) 32 else 0))

/-- Stage 2 of one row: the exact sum, rounded, before the clamp. -/
def driveRaw (row : List Int) (r g b : Nat) : Int :=
  let m := min r (min g b)
  (row.getD 0 0 * r + row.getD 1 0 * g + row.getD 2 0 * b + row.getD 3 0 * m + 32768) / 65536

def clamp16 (v : Int) : Nat := (clampI 0 65535 v).toNat

/-! ### Correction (R222) -/

/-- The colour region's Reservoir offset and size (R228). -/
def State.colourBase (s : State) : Nat := s.fget R.CLR_TABLE_BASE_base_64k * 65536
def colourSize : Nat := 528 * 1048576

/-- Where a colour class's instance lies in the region. -/
def colourPlace (cls inst : Nat) : Nat :=
  if cls = 0x0A then 0 else if cls = 0x44 then 32768 + 128 * inst
  else if cls = 0x46 then 1048576 + 8192 * inst else 16777216 + 134217728 * inst

/-- The 128-bit correction entry k of canvas c; all-zero at and above the extent. -/
def State.correction (s : State) (c k : Nat) : Nat :=
  if k < s.fget R.CLR_CORR_EXTENT_entries c then memNat s.mem.reservoir (s.colourBase + colourPlace 0x45 c + 16 * k) 16
  else 0

/-- Stage 3 on the drive values. -/
def corrected (v : Nat) (e : List Nat) : List Nat :=
  let r := min 3 e.length
  let a (i j : Nat) : Int := sint (bits v (12 * (3 * i + j) + 11) (12 * (3 * i + j))) 12
  let gain := bits v 123 108
  (List.range e.length).map (fun i =>
    if i < 3 then
      let sum := (List.range r).foldl (fun (n : Int) j =>
        n + ((if i = j then 4096 else 0) + a i j) * (e.getD j 0 : Nat)) 0
      clamp16 ((sum + 2048) / 4096)
    else (e.getD i 0 * (65536 - gain) + 32768) / 65536)

/-! ### LUTs, dither and codes (R223..R225) -/

/-- Stage 4. -/
def State.outputLut (s : State) (n v : Nat) : Nat :=
  if n ≠ 0 ∧ s.lutLoaded n then
    let m := s.table 0x46 n
    lut4k (fun i => tabNat 0x46 n m (2 * i) 2) v
  else lut4k identityPoint v

/-- The dither threshold of R224. -/
def ditherD (dither : Bool) (port index j frame : Nat) : Nat :=
  if dither then
    let a := (port * 32768 + index) * 8 + j
    let h := (rillMix (BitVec.ofNat 32 frame ^^^ rillMix (BitVec.ofNat 32 a))).toNat / 65536
    h * 65535 / 65536
  else 32767

/-- Stage 5: the n-bit code. -/
def outCode (o n d : Nat) : Nat := (o * (2 ^ n - 1) + d) / 65535

/-- What a conversion gives: the staged value of each emitter, and the drive values clipped low and high. -/
structure Converted where
  values : List Nat := []
  low : Nat := 0
  high : Nat := 0
deriving DecidableEq, Repr

/-- Stages 1 to 5 of map entry k of canvas c, from its canvas sample. -/
def State.convert (s : State) (c k : Nat) (px : Px) : Converted :=
  let t := s.live
  let sp := t.cvSpace c
  let p := t.mapProfile c k
  let w0 := t.profWord p 0
  let n := t.profBits p
  let raw := (s.profRows sp p).map (fun row => driveRaw row (decodeSpace sp px.r) (decodeSpace sp px.g) (decodeSpace sp px.b))
  let e := raw.map clamp16
  let cor := if bits w0 28 28 = 1 then corrected (s.correction c k) e else e
  let dither := bits w0 29 29 = 1 && !(s.fbit R.CLR_CTRL_dither_hold)
  { values := (List.range cor.length).map (fun j =>
      let o := s.outputLut (t.profLut p j) (cor.getD j 0)
      outCode o n (ditherD dither (t.mapPort c k) (t.mapIndex c k) j s.evalFrame) * 2 ^ (16 - n))
    low := (raw.filter (fun v => decide (v < 0))).length
    high := (raw.filter (fun v => decide (65535 < v))).length }

/-! ### COLOUR commits (R229, R230) -/

/-- Whether byte ranges cover `0 .. n − 1`: at most one more step than there are ranges. -/
def coversFrom (l : List (Nat × Nat)) (n : Nat) : Nat → Nat → Bool
  | 0, p => decide (n ≤ p)
  | k + 1, p =>
    if n ≤ p then true
    else
      match l.find? (fun r => decide (r.1 ≤ p ∧ p < r.1 + r.2)) with
      | some r => coversFrom l n k (r.1 + r.2)
      | none => false

def rangesCover (l : List (Nat × Nat)) (n : Nat) : Bool := coversFrom l n l.length 0

/-- Byte ranges that a list of writes puts into a class's instance. -/
def writtenRanges (ws : List Staged) (cls inst : Nat) : List (Nat × Nat) :=
  (ws.filter (fun w => w.cls = cls ∧ w.inst = inst ∧ w.bytes ≠ [])).map (fun w => (w.offset, w.bytes.length))

/-- The loaded flag of a class's instance. -/
def State.colourLoaded (s : State) (cls inst : Nat) : Bool :=
  if cls = 0x0A then s.fbit R.CLR_STATUS_profiles_loaded
  else if cls = 0x44 then s.matrixLoaded inst else s.lutLoaded inst

def colourTableSize (cls : Nat) : Nat := if cls = 0x0A then 32768 else if cls = 0x44 then 128 else 8192

/-- The items that fail a check of R230. `t` is the result, `ws` the writes taken in. -/
def State.colourBad (s : State) (t : Tabs) (ws : List Staged) (code : Nat) : List Nat :=
  match code with
  | 0x20 => (List.range 1024).filter (fun p =>
      let w (i : Nat) : Nat := t.profWord p i
      t.profValid p && (bits (w 0) 27 24 ≠ 0 || bits (w 0) 15 12 ≠ 0 || bits (w 0) 7 5 ≠ 0 ||
        (List.range 4).any (fun i => bits (w (1 + i)) 31 26 ≠ 0 || bits (w (1 + i)) 15 10 ≠ 0) ||
        (List.range 3).any (fun i => w (5 + i) ≠ 0) ||
        (bits (w 0) 30 30 = 0 && decide (5 < bits (w 0) 23 16)) ||
        (bits (w 0) 30 30 = 1 && bits (w 0) 11 8 = 0) || decide (t.profBits p < 8 ∨ 16 < t.profBits p)))
  | 0x21 => (ws.filterMap (fun w => if w.cls = 0x44 then some w.inst else none)).eraseDups.filter (fun p =>
      (List.range 32).any (fun i => decide (524288 < (sint (t.word 0x44 p i) 32).natAbs)))
  | 0x22 => (ws.filterMap (fun w =>
      if (w.cls = 0x0A ∨ w.cls = 0x44 ∨ w.cls = 0x46) ∧ w.bytes ≠ [] ∧ !(s.colourLoaded w.cls w.inst) ∧
          !(rangesCover (writtenRanges ws w.cls w.inst) (colourTableSize w.cls))
        then some (w.cls * 2 ^ 24 + w.inst) else none)).eraseDups
  | 0x23 => ((List.range 4).filter (fun c =>
      ws.any (fun w => w.cls = 0x45 && w.inst = c && decide (16 * s.fget R.CLR_CORR_EXTENT_entries c < w.offset)) ||
        (t.entries 0x45 c 16).any (fun k => bits (t.word 0x45 c (4 * k + 3)) 31 28 ≠ 0))).map (fun c => 16 * c)
  | 0x24 => if overlapsStaging s.colourBase colourSize || decide (reservoirSize < s.colourBase + colourSize) then [0] else []
  | _ => []

/-- One colour write is taken in: its bytes reach the colour region, and its flag or extent moves (R228, R229). -/
def State.takeColour (s : State) (w : Staged) : State :=
  let s1 := s.setReservoir (memWrite s.mem.reservoir (s.colourBase + colourPlace w.cls w.inst + w.offset) w.bytes)
  let b := 2 ^ (w.inst % 32)
  if w.bytes = [] then s
  else if w.cls = 0x0A then s1.fset R.CLR_STATUS_profiles_loaded 1
  else if w.cls = 0x44 then s1.fset R.CLR_MATRIX_LOADED (s1.fget R.CLR_MATRIX_LOADED (w.inst / 32) ||| b) (w.inst / 32)
  else if w.cls = 0x46 then s1.fset R.CLR_LUT_LOADED (s1.fget R.CLR_LUT_LOADED (w.inst / 32) ||| b) (w.inst / 32)
  else if w.cls = 0x45 then
    s1.fset R.CLR_CORR_EXTENT_entries (max (s1.fget R.CLR_CORR_EXTENT_entries w.inst) ((w.offset + w.bytes.length) / 16))
      w.inst
  else s

/-- Every loaded flag and extent returns to 0, and every colour table to what an unloaded one means (R229). -/
def State.unloadColour (s : State) : State :=
  let s0 := { s with tables := s.tables.filter (fun e => !([0x0A, 0x44, 0x45, 0x46].contains (e.1 / 65536))) }
  let s1 := (List.range 32).foldl (fun s j => (s.fset R.CLR_LUT_LOADED 0 j).fset R.CLR_MATRIX_LOADED 0 j) s0
  (List.range 4).foldl (fun s c => s.fset R.CLR_CORR_EXTENT_entries 0 c) (s1.fset R.CLR_STATUS_profiles_loaded 0)

/-- The working copies of the loaded tables are reloaded from the region at the first input cut after PD_PIX powers up (R228);
what is not loaded stays at its default (R229). -/
def State.reloadColour (s : State) : State :=
  let m := s.mem.reservoir
  let one (s : State) (cls inst : Nat) : State :=
    s.setTable cls inst (if s.colourLoaded cls inst then
      tabWrite cls inst [] 0 (memRead m (s.colourBase + colourPlace cls inst) (colourTableSize cls)) else [])
  if s.cmp.reload then
    let s1 := (List.range 1024).foldl (fun s i => one (one s 0x44 i) 0x46 i) (one s 0x0A 0)
    { s1 with cmp := { s1.cmp with reload := false } }
  else s

/-! ### Registers (R231) -/

/-- A write of CLR_CTRL. -/
def State.clrCtrlWrite (s : State) (req : Requester) (v : Word) : State :=
  let bad := v.getLsbD 31 && !(s.fbit R.CLR_CTRL_colour_enable) && overlapsStaging s.colourBase colourSize
  let s1 := (s.fset R.CLR_CTRL_dither_hold (b2n (v.getLsbD 30))).fset R.CLR_CTRL_colour_enable (b2n (v.getLsbD 31 && !bad))
  if bad then s1.accessErr true req R.CLR_CTRL.off else s1

/-- A write of CLR_TABLE_BASE: discarded and counted while `colour_enable` is 1; else every flag returns to 0. -/
def State.clrBaseWrite (s : State) (req : Requester) (v : Word) : State :=
  if s.fbit R.CLR_CTRL_colour_enable then s.accessErr true req R.CLR_TABLE_BASE.off
  else (s.fset R.CLR_TABLE_BASE_base_64k (getBits v 17 0)).unloadColour

end Sys2Proof.Machine
end

