-- ==== Sys2Proof/Machine/CanvasOps.lean ====
section
/-! DEFINITION. Canvases at work: buffers and their retirement, video picks, the flatten cache, composition into the
staged pixels; the checks of a CANVAS commit (R191..R211). -/

namespace Sys2Proof.Machine

def cv0 (_ : Nat) : Canvas := {}
def ly0 (_ : Nat) : LayerSt := {}
def vid0 (_ : Nat) : Video := {}
def vb0 (_ : Nat) : VidBuf := {}
def px0 (_ : Nat) : List Nat := []

def State.canvas (s : State) (c : Nat) : Canvas := mget cv0 s.cmp.canvases c
def State.setCanvas (s : State) (c : Nat) (v : Canvas) : State :=
  { s with cmp := { s.cmp with canvases := mset cv0 s.cmp.canvases c v } }
def State.layerSt (s : State) (c l : Nat) : LayerSt := mget ly0 (s.canvas c).layers l
def State.setLayer (s : State) (c l : Nat) (v : LayerSt) : State :=
  s.setCanvas c { s.canvas c with layers := mset ly0 (s.canvas c).layers l v }
def State.vid (s : State) (k : Nat) : Video := mget vid0 s.video k
def State.setVid (s : State) (k : Nat) (v : Video) : State := { s with video := mset vid0 s.video k v }

/-- Set bit `c` of a register field to a truth value. -/
def State.fsetBit (s : State) (f : RF) (c : Nat) (b : Bool) (i : Nat := 0) : State :=
  let v := s.fget f i
  s.fset f (if b then v ||| 2 ^ c else v - (if v / 2 ^ c % 2 = 1 then 2 ^ c else 0)) i

/-! ### Canvas geometry of the live tables -/

/-- Whether the flattened run takes part: it has layers, and no opaque layer above it covers the canvas. -/
def Tabs.runUsed (t : Tabs) (c : Nat) : Bool :=
  t.runLayers c ≠ [] && !((t.layersOn c).any (fun l =>
    !((t.layer c l).static_) && layerOpaque (t.layer c l) &&
      clipHolds (t.clip c (t.layer c l)) (0, 0, (t.cvWidth c : Int), (t.cvHeight c : Int))))

/-- Effective layers of a canvas (R209). -/
def Tabs.effective (t : Tabs) (c : Nat) : Nat := (t.dynLayers c).length + b2n (t.runUsed c)

/-- The size of a video stream's frames. -/
def State.vidW (s : State) (k : Nat) : Nat := s.fget R.NET_VID_SIZE_width k
def State.vidH (s : State) (k : Nat) : Nat := s.fget R.NET_VID_SIZE_height k

/-- A layer's W_s at a commit. -/
def State.layerNeed (s : State) (t : Tabs) (c l : Nat) : Nat :=
  let d := t.layer c l
  let k := bits d.index 1 0
  let (lw, lh) := layerImage d (s.vidW k) (s.vidH k)
  lineNeed d lw lh

/-- The sum of R37 and R209. -/
def State.laneSum (s : State) (t : Tabs) : Nat :=
  (List.range 4).foldl (fun n c =>
    let layers := if t.cvOn c then
      t.cvWidth c * t.cvHeight c * t.effective c +
        (t.dynLayers c).foldl (fun m l => m + 8 * (t.layer c l).dstH * (stripesOf (s.layerNeed t c l) - 1)) 0
      else 0
    n + layers + (t.mapEntries c).length) 0

/-- Whether the sum breaks R37. -/
def State.pixOver (s : State) (t : Tabs) : Bool := decide (7200000000 * t.rateDen < s.laneSum t * t.rateNum)

/-- The space that the parts of the flatten cache take, as (item of R208, bytes) in ascending item. -/
def Tabs.flattenAll (t : Tabs) : List (Nat × Nat) :=
  t.flattenParts.map (fun e => (8 * (e.1 / 9) + (e.1 % 9 - 1), 2 * e.2))
def Tabs.flattenUsed (t : Tabs) : Nat := t.flattenAll.foldl (fun n e => n + e.2) 0

/-- The items from which on the total passes the cache's size. -/
def overflowItems (cap : Nat) : List (Nat × Nat) → Nat → List Nat
  | [], _ => []
  | (k, b) :: r, n => if cap < n + b then k :: overflowItems cap r (n + b) else overflowItems cap r (n + b)

/-! ### The checks of a CANVAS commit (R208) -/

/-- Reserved bits of a header, and, where the canvas is enabled, sizes outside their range. -/
def Tabs.headerBad (t : Tabs) (c : Nat) : Bool :=
  let w (i : Nat) : Nat := t.cvWord c i
  bits (w 0) 30 28 ≠ 0 || bits (w 0) 15 12 ≠ 0 || bits (w 1) 16 14 ≠ 0 || bits (w 3) 15 0 ≠ 0 ||
    (List.range 4).any (fun i => w (4 + i) ≠ 0) ||
    (List.range 16).any (fun r => bits (w (8 + 3 * r)) 30 12 ≠ 0 || bits (w (9 + 3 * r)) 4 0 ≠ 0 ||
      bits (w (10 + 3 * r)) 4 0 ≠ 0) ||
    (List.range 4).any (fun k => bits (w (57 + 2 * k)) 4 0 ≠ 0) ||
    (t.cvOn c && decide (t.cvLayers c < 2 ∨ 8 < t.cvLayers c ∨ t.cvWidth c < 16 ∨ 16384 < t.cvWidth c ∨
      t.cvHeight c < 16 ∨ 8192 < t.cvHeight c))

/-- Whether a 1-based size is out of a bound. -/
def sizeBad (w h : Nat) : Bool := decide (w < 1 ∨ 16384 < w ∨ h < 1 ∨ 8192 < h)

/-- Reserved bits or refused codes of a layer descriptor, whether or not the layer takes part (R183). -/
def Tabs.layerCodes (t : Tabs) (c l : Nat) : Bool :=
  let d := t.layer c l
  let w (i : Nat) : Nat := t.lyWord c l i
  bits (w 1) 15 0 ≠ 0 || bits (w 2) 16 14 ≠ 0 || bits (w 3) 16 14 ≠ 0 || bits (w 6) 31 21 ≠ 0 ||
    bits (w 9) 16 14 ≠ 0 || bits (w 10) 16 14 ≠ 0 || bits (w 11) 31 1 ≠ 0 || (List.range 4).any (fun i => w (12 + i) ≠ 0) ||
    decide (4 < d.source ∨ 4 < d.blend ∨ d.matrix = 3 ∨ (4 ≤ d.filter ∧ d.filter < 8)) ||
    (match d.source with
    | 1 => bits d.index 31 2 ≠ 0
    | 2 => bits d.index 31 14 ≠ 0
    | 3 => bits d.index 29 23 ≠ 0 || bits d.index 31 30 = 3
    | _ => d.index ≠ 0)

/-- The layer descriptor of a layer that takes part fails LAYER_FORMAT beside its codes. -/
def State.layerBad (s : State) (t : Tabs) (c l : Nat) : Bool :=
  let d := t.layer c l
  let k := bits d.index 1 0
  let gw := if d.source = srcVideo then s.vidW k else d.srcW
  let gh := if d.source = srcVideo then s.vidH k else d.srcH
  let sized := d.source = srcBuffer || d.source = srcRill || d.source = srcFabric
  let (cw, ch) := cropOf d gw gh
  (d.source = srcBuffer && formatBytes2 d.format = 0) ||
    (d.source = srcFabric && decide (8388608 < bits d.index 22 0 + d.srcW * d.srcH * fabChannels d)) ||
    (sized && sizeBad d.srcW d.srcH) || sizeBad d.dstW d.dstH ||
    (d.source = srcVideo && decide (2000000 < d.latency)) ||
    (d.source ≠ srcSolid && decide (cw = 0 ∨ ch = 0 ∨ gw < d.cropX + cw ∨ gh < d.cropY + ch)) ||
    (d.source = srcBuffer && format422 d.format && decide (d.srcW % 2 ≠ 0 ∨ d.cropX % 2 ≠ 0 ∨ d.cropW % 2 ≠ 0))

/-- A rectangle outside its canvas or turned inside out. -/
def Tabs.rectBad (t : Tabs) (c x0 y0 x1 y1 : Nat) : Bool :=
  decide (x1 < x0 ∨ y1 < y0 ∨ t.cvWidth c ≤ x1 ∨ t.cvHeight c ≤ y1)

/-- The pairs of rectangle k of canvas c and another one that names its Gauge: the higher-numbered of each (R61). -/
def Tabs.sigTwice (t : Tabs) (c k : Nat) : List Nat :=
  let g := (t.sigRect c k).2.1
  (List.range 4).flatMap (fun c' => ((List.range 4).filter (fun j =>
    (t.sigRect c' j).1 && (t.sigRect c' j).2.1 = g && !(c' = c && j = k))).map (fun j => max (16 * c + k) (16 * c' + j)))

/-- The items that fail a check of R208, or R216's SPACE_BAD, for canvas c. Reserved bits and refused codes count in every descriptor; sizes, static runs and filter sets
in the layers that take part, and a disabled canvas's header may leave its sizes unset (DEDUCED, log entry 90). -/
def State.canvasBad (s : State) (t : Tabs) (c code : Nat) : List Nat :=
  let ls := t.layersOn c
  let item (l : Nat) : Nat := 8 * c + l
  match code with
  | 0x10 => (if t.headerBad c then [8 * c] else []) ++
      ((List.range 8).filter (fun l => t.layerCodes c l || (ls.contains l && s.layerBad t c l))).map item
  | 0x11 => (ls.filter (fun l =>
      let d := t.layer c l
      d.static_ && ((d.source ≠ srcBuffer && d.source ≠ srcSolid) ||
        ls.any (fun m => decide (m < l) && !((t.layer c m).static_))))).map item
  | 0x12 => overflowItems (s.fget R.CMP_FLATTEN_SIZE_size_mib * 1048576) t.flattenAll 0
  | 0x13 => (t.mapEntries c).filter (fun k =>
      decide (t.cvWidth c ≤ t.mapX c k ∨ t.cvHeight c ≤ t.mapY c k ∨ t.mapSample c k = 3) ||
        bits (t.word 0x09 c (4 * k)) 1 0 ≠ 0 || bits (t.word 0x09 c (4 * k + 1)) 8 0 ≠ 0 ||
        bits (t.word 0x09 c (4 * k + 2)) 31 10 ≠ 0 || t.word 0x09 c (4 * k + 3) ≠ 0)
  | 0x14 => (t.mapEntries c).flatMap (fun k => (List.range 4).flatMap (fun c' =>
      ((t.mapEntries c').filter (fun k' => t.mapKey c' k' = t.mapKey c k && !(c' = c && k' = k))).map (fun k' => max k k')))
  | 0x15 =>
    let all := (List.range 4).flatMap t.mapEntries
    if 8388608 < all.length then [all.getD 8388608 0] else []
  | 0x16 => (List.range 4).flatMap (fun k =>
      let (sig, _, x0, y0, x1, y1) := t.sigRect c k
      if sig then
        (if t.rectBad c x0 y0 x1 y1 || s.fget R.GA_CFG_source (t.sigRect c k).2.1 ≠ gaBound then [16 * c + k] else []) ++ t.sigTwice c k
      else [])
  | 0x17 => ((List.range 8).filter (fun l => (t.layer c l).stripe && !(s.fbit R.HOST_CTRL_expert_enable))).map item
  | 0x18 => (ls.filter (fun l =>
      let f := (t.layer c l).filter
      decide (8 ≤ f) && [false, true].any (fun v => (List.range 64).any (fun ph =>
        (List.range 8).foldl (fun (a : Int) k => a + t.expertCoef c (f - 8) v ph k) 0 ≠ 16384)))).map item
  | 0x19 => ((List.range 16).filter (fun r =>
      let (v, _, x0, y0, x1, y1) := t.region c r
      v && t.rectBad c x0 y0 x1 y1)).map (fun r => 16 * c + r)
  | 0x1A => if !(spaceKnown (t.cvSpace c)) then [8 * c] else []
  | _ => []

/-- LB_SHORT (R191): the first layer of canvas c that needs more than the line buffer without `stripe`, as the
completion's result. -/
def State.lbShort (s : State) (t : Tabs) (c : Nat) : Option Nat :=
  ((t.layersOn c).find? (fun l => !((t.layer c l).stripe) && decide (8192 < s.layerNeed t c l))).map
    (fun l => s.layerNeed t c l * 2 ^ 32 + 8 * c + l)

/-! ### Buffers (R72, R73, R199..R201) -/

/-- A layer buffer retires: OK, or LAYER_TORN where a fetch tore; `frame` is the last that fetched it. -/
def State.retireBuffer (s : State) (f : Flight) (status : Nat) : State :=
  s.finish f (if f.torn && status = stOk then stTorn else status) f.count (some f.upTo)

/-- The descriptor of the buffer in use on a layer. -/
def State.bufOf (s : State) (c l : Nat) : Option Flight :=
  match (s.layerSt c l).buf with
  | some id => s.flight id
  | none => none

/-- Take a buffer off its layer and complete it. -/
def State.dropBuffer (s : State) (c l : Nat) (status : Nat) : State :=
  let s1 := s.setLayer c l { s.layerSt c l with buf := none, mirror := none }
  match s.bufOf c l with
  | some f => s1.retireBuffer f status
  | none => s1

/-- A refill starts, or starts again with the newest state (R196). -/
def State.refillEvent (s : State) (c : Nat) : State :=
  let v := s.canvas c
  let s1 := if v.refillFrom.isSome then s.bumpF R.CMP_FLATTEN_RESTART_COUNT c else s
  (s1.setCanvas c { v with refillFrom := some s.evalFrame, flatNext := none }).fsetBit
    R.CMP_STATUS_flatten_pending c true

/-- A LAYER_FRAME at its input cut (R201): refused, or the buffer in use from now on. One that the same cut put there
before it is superseded (R73). -/
def State.applyLayerFrame (s : State) (f : Flight) : State :=
  let c := lCanvas f.words
  let l := lLayer f.words
  let d := s.live.layer c l
  if !(bufferFits d f.words) then
    (s.finish f stBadField 0 (some s.evalFrame)).bumpF R.CMP_BUFFER_REFUSED_COUNT c
  else
    let s1 := match s.bufOf c l with
      | some g =>
        if g.applied && g.target = f.target && g.count = 0 && g.upTo = f.target then
          (s.setLayer c l { s.layerSt c l with buf := none }).finish g stSuperseded 0 (some g.target)
        else s.dropBuffer c l stOk
      | none => s
    let s2 := (s1.setFlight { f with applied := true, upTo := f.target }).setLayer c l
      { s1.layerSt c l with buf := some f.id, mirror := none }
    if (s.live.runLayers c).contains l then s2.refillEvent c else s2

/-- The buffers of draining rings are replaced by their fallback at the next input cut (R74). -/
def State.dropDraining (s : State) : State :=
  (List.range 32).foldl (fun s k =>
    let c := k / 8
    let l := k % 8
    match s.bufOf c l with
    | some f => if s.ringState f.ring = rDraining then s.dropBuffer c l stSuperseded else s
    | none => s) s

/-! ### A CANVAS commit takes effect (R194..R201) -/

/-- Whether a commit changed the header or a layer of the run, before or after it. -/
def runChanged (old new : Tabs) (c : Nat) : Bool :=
  (List.range 64).any (fun w => old.cvWord c w ≠ new.cvWord c w) || old.runLayers c ≠ new.runLayers c ||
    (new.runLayers c).any (fun l => (List.range 16).any (fun w => old.lyWord c l w ≠ new.lyWord c l w))

/-- The words of the LAYER_FRAME in use on a layer, this device's own or the ledger's. -/
def State.frameWords (s : State) (c l : Nat) : Option (List Word) :=
  match s.bufOf c l with
  | some f => some f.words
  | none => ((s.layerSt c l).mirror).map (fun m => m.words)

/-- One layer after a commit: a buffer that no longer fits retires with OK, and hold copies of another size are gone. -/
def State.layerCommitted (s : State) (old : Tabs) (c l : Nat) : State :=
  let d := s.live.layer c l
  let s1 := match s.frameWords c l with
    | some ws => if bufferFits d ws then s else s.dropBuffer c l stOk
    | none => s
  if old.clip c (old.layer c l) = s.live.clip c d && old.keepsHold c l && s.live.keepsHold c l then s1
  else s1.setLayer c l { s1.layerSt c l with hold := none }

/-- Where copy `half` of a part of the flatten cache stands in the Reservoir. -/
def State.copyAt (s : State) (t : Tabs) (key half : Nat) : Nat :=
  let p := (t.partPlace key).getD (0, 0)
  s.fget R.CMP_FLATTEN_BASE_base_64k * 65536 + p.1 + half * p.2

/-- Write bytes to the Reservoir, where it can be accessed. -/
def State.resPut (s : State) (a : Nat) (b : List Byte) : State :=
  { s with mem := { s.mem with reservoir := if s.resAwake then memWrite s.mem.reservoir a b else s.mem.reservoir } }

/-- The copies of parts whose size a commit leaves alone follow their parts' places. -/
def State.moveCopies (s : State) (old : Tabs) : State :=
  s.live.flattenParts.foldl (fun u e =>
    match old.partPlace e.1 with
    | some (p, n) =>
      if n = e.2 && (s.live.partPlace e.1).any (fun q => q.1 ≠ p) then
        u.resPut (s.copyAt s.live e.1 0) (memRead s.mem.reservoir (s.copyAt old e.1 0) (2 * n))
      else u
    | none => u) s

/-- The figures that a commit leaves in the registers (R198, R209). -/
def State.canvasFigures (s : State) : State :=
  (s.fset R.CMP_FLATTEN_USED_used_mib (cdiv s.live.flattenUsed 1048576)).fset R.CMP_LANE_SUM (s.laneSum s.live)

def State.canvasCommitted (s : State) (old : Tabs) (c : Nat) : State :=
  let s1 := (List.range 8).foldl (fun s l => s.layerCommitted old c l) s
  let s2 := if s.live.runLayers c = [] then
      (s1.setCanvas c { s1.canvas c with flat := none, flatNext := none, refillFrom := none }).fsetBit
        R.CMP_STATUS_flatten_pending c false
    else if runChanged old s.live c then s1.refillEvent c else s1
  let s3 :=
    if old.cvWidth c = s2.live.cvWidth c && old.cvHeight c = s2.live.cvHeight c then s2
    else s2.setCanvas c { s2.canvas c with flat := none, flatNext := none }
  s3.canvasFigures

/-! ### The input cut of a canvas (R196, R202, R203, R210) -/

/-- A completed refill's copy is swapped in; a run without a copy or a refill starts one. -/
def State.swapFlat (s : State) (c : Nat) : State :=
  let v := s.canvas c
  match v.flatNext with
  | some h => s.setCanvas c { v with flat := some h, flatNext := none }
  | none => s

def State.startRefill (s : State) (c : Nat) : State :=
  let v := s.canvas c
  if s.live.cvOn c && s.live.runLayers c ≠ [] && v.flat.isNone && v.flatNext.isNone && v.refillFrom.isNone then
    s.refillEvent c
  else s

/-- The reading of base `b` at an instant of the frame clock's base, extrapolated at the current rates. -/
def State.baseAt (s : State) (b : Base) (t : Int) : Int :=
  b.t + (t - s.clockNow) * (2 ^ 44 + b.rate) / (2 ^ 44 + (s.lockBase s.time.clock.onBase).rate)

/-- φ_T of R202: the PTP time of T_f(F) in µs. -/
def State.phiT (s : State) (n : Nat) : Int := s.baseAt s.time.ptp (s.tfOf n) / 65536 / 1000

/-- The complete frames of a stream's history: buffer and media time. -/
def State.vidFrames (s : State) (k : Nat) : List (Nat × Nat) :=
  ((s.vid k).bufs.filter (fun e => e.2.used && e.2.complete)).map (fun e => (e.1, e.2.media))

def newestOf : List (Nat × Nat) → Option (Nat × Nat)
  | [] => none
  | a :: l => some (l.foldl (fun m e => if m.2 < e.2 then e else m) a)

def oldestOf : List (Nat × Nat) → Option (Nat × Nat)
  | [] => none
  | a :: l => some (l.foldl (fun m e => if e.2 < m.2 then e else m) a)

/-- The stream's frame period in ticks: the step between its two newest kept frames. -/
def vidPeriod (l : List (Nat × Nat)) : Option Nat :=
  match newestOf l with
  | none => none
  | some a => (newestOf (l.filter (fun e => decide (e.2 < a.2)))).map (fun b => a.2 - b.2)

/-- A choice of R202 and R203: the buffer, whether it counts as early, and as stale. -/
structure Pick where
  buf : Option Nat
  media : Nat
  early : Bool
  stale : Bool
deriving DecidableEq, Repr

/-- The choice for a target in µs of PTP time, from the kept frames. -/
def pickVideo (l : List (Nat × Nat)) (target : Int) : Pick :=
  match newestOf (l.filter (fun e => decide (((e.2 * 100 : Nat) : Int) ≤ target * 9))) with
  | some (b, m) =>
    let stale := match vidPeriod l with
      | some p => decide (((m * 100 + 2 * p * 100 : Nat) : Int) < target * 9)
      | none => false
    ⟨some b, m, false, stale⟩
  | none =>
    match oldestOf l with
    | some (b, m) => ⟨some b, m, true, false⟩
    | none => ⟨none, 0, true, false⟩

/-- The zones that a layer's samples show. -/
def Tabs.layerZones (t : Tabs) (c l : Nat) : List Nat :=
  let d := t.layer c l
  if d.zoneFollow then
    let (x0, y0, x1, y1) := t.clip c d
    ((List.range (y1 - y0).toNat).flatMap (fun j => (List.range (x1 - x0).toNat).map (fun i =>
      t.sampleZone c (x0.toNat + i) (y0.toNat + j)))).eraseDups
  else [t.cvZone c]

/-- The VIDEO layers composed on a canvas. -/
def Tabs.videoLayers (t : Tabs) (c : Nat) : List Nat :=
  if t.cvOn c then (t.dynLayers c).filter (fun l => (t.layer c l).source = srcVideo) else []

def pickKey (l z : Nat) : Nat := 4096 * l + z

/-- The choices of one layer, entered in the ledger (R211). -/
def State.pickLayer (s : State) (c l : Nat) : State :=
  let t := s.live
  let d := t.layer c l
  let k := bits d.index 1 0
  let all := (t.layerZones c l).map (fun z =>
    (z, pickVideo (s.vidFrames k) (s.phiT s.evalFrame - s.zoneDelay z - d.latency)))
  let s1 := all.foldl (fun s e =>
    let v := s.canvas c
    (s.setCanvas c { v with picks := mset none0 v.picks (pickKey l e.1) e.2.buf }).ledgerAdd 0x07 (8 * c + l)
      [e.1, b2n e.2.buf.isSome, e.2.media]) s
  let s2 := if all.any (fun e => e.2.early) then s1.bumpF R.CMP_VIDEO_EARLY_COUNT c else s1
  if all.any (fun e => e.2.stale) then s2.bumpF R.CMP_VIDEO_STALE_COUNT c else s2

/-- The choices of R202 at an input cut, and the pins of R347. -/
def State.pickVideos (s : State) : State :=
  let s0 := (List.range 4).foldl (fun s c => s.setCanvas c { s.canvas c with picks := [] }) s
  let s1 := (List.range 4).foldl (fun s c => (s.live.videoLayers c).foldl (fun s l => s.pickLayer c l) s) s0
  (List.range 4).foldl (fun s k =>
    let used := (List.range 4).flatMap (fun c => (s.canvas c).picks.filterMap (fun e =>
      if bits (s.live.layer c (e.1 / 4096)).index 1 0 = k then e.2 else none))
    let v := s.vid k
    s.setVid k { v with bufs := v.bufs.map (fun e => (e.1, { e.2 with pinned := used.contains e.1 })) }) s1

/-! ### Fetches (R200) -/

/-- A byte of the memory that a buffer lies in. -/
def State.spaceByte (s : State) (host : HostView) (space a : Nat) : Byte :=
  if space = 1 then memByte s.mem.reservoir a else viewByte host a

/-- How a fetch of a buffer goes: 0 good, 1 torn, 2 an access failed. `host` is host memory as the first generation read
and the pixels find it, `after` as the last generation read does. -/
def State.fetchBuf (s : State) (host after : HostView) (d : LayerD) (f : Flight) : Nat :=
  let sp := lSpace f.words
  let a := lAddr f.words
  match s.dmaRead host sp a (bufferNeeds d (lStride f.words)), s.dmaRead after sp a 4 with
  | some b, some g =>
    if leNat (b.take 4) = lGeneration f.words ∧ leNat g = lGeneration f.words then 0 else 1
  | _, _ => 2

/-- Whether a reading of a layer's buffer enters the ledger (R211): the one in the frame in which its LAYER_FRAME takes effect;
of a layer of the run, whose refill may end in a later frame, its first (DEDUCED, log entry 89). -/
def State.entersLedger (s : State) (c l : Nat) (f : Flight) : Bool :=
  if (s.live.layer c l).static_ then f.count = 0 && !f.torn else f.target = s.evalFrame

/-- LAYER (R211, R428): the layer's stride, whether the fetch tore, and the buffer's bytes. -/
def State.layerRecord (s : State) (host : HostView) (c l : Nat) (f : Flight) (torn : Bool) : State :=
  let n := bufferNeeds (s.live.layer c l) (lStride f.words)
  s.ledgerAdd 0x0C (8 * c + l) (lStride f.words :: b2n torn ::
    (List.range n).map (fun i => (s.spaceByte host (lSpace f.words) (lAddr f.words + i)).toNat))

/-- One fetch's outcome on a layer's buffer: counted, torn, or failed. -/
def State.afterFetch (s : State) (host : HostView) (c l : Nat) (f : Flight) (r : Nat) : State :=
  let n := s.evalFrame
  if r = 2 then s.dropBuffer c l stDmaError
  else
    let s0 := if s.entersLedger c l f then s.layerRecord host c l f (r = 1) else s
    if r = 0 then s0.setFlight { f with count := f.count + 1, upTo := n }
    else ((s0.setFlight { f with torn := true, upTo := n }).bumpF R.CMP_TORN_COUNT c).fsetBit R.CMP_STATUS_torn_last c true

/-- Whether a BUFFER layer has pixels to read, and the outcome of reading them. A standby reads what the ledger gave, and
its layer fails in the frame in which the active's fetch tore. -/
def State.fetchLayer (s : State) (host after : HostView) (c l : Nat) : State × Bool :=
  match s.bufOf c l with
  | some f =>
    let r := s.fetchBuf host after (s.live.layer c l) f
    (s.afterFetch host c l f r, r = 0)
  | none => (s, (s.layerSt c l).mirror.any (fun m => m.bytes ≠ [] && m.torn ≠ some s.evalFrame))

/-! ### Composition (R181..R197) -/

/-- Bytes of one video buffer: its samples, rounded up to 4 KiB (R347). -/
def State.vidBytes (s : State) (k : Nat) : Nat :=
  cdiv (s.vidW k * s.vidH k * vidPair (s.fget R.NET_VID_CFG_format k) / 16) 4096 * 4096

/-- What a layer's source samples come from. `vb` is the video buffer that serves them. -/
def State.srcEnv (s : State) (host : HostView) (c l vb : Nat) : SrcEnv :=
  let d := s.live.layer c l
  let k := bits d.index 1 0
  let st := s.layerSt c l
  let base := s.fget R.NET_VID_HIST_BASE_base_64k k * 65536 + vb * s.vidBytes k
  { bufByte := fun a => match s.bufOf c l with
      | some f => s.spaceByte host (lSpace f.words) (lAddr f.words + 64 + a)
      | none => ((st.mirror.getD {}).bytes).getD (64 + a) 0
    vidByte := fun a => memByte s.mem.reservoir (base + a)
    vidW := s.vidW k
    vidH := s.vidH k
    vidFormat := s.fget R.NET_VID_CFG_format k
    rill := fun i x y => s.rillField i x y
    slot := fun n => s.finalValue n }

def State.strideOf (s : State) (c l : Nat) : Nat :=
  match s.frameWords c l with
  | some ws => lStride ws
  | none => 0

/-- The scaled sample of a layer at a canvas sample inside its clipped destination. -/
def State.layerScaled (s : State) (host : HostView) (c l vb x y : Nat) : Px :=
  let d := s.live.layer c l
  s.live.scaled c (s.srcEnv host c l vb) d (s.strideOf c l) ((x : Int) - d.dstX).toNat ((y : Int) - d.dstY).toNat

/-- The sample of the last good hold copy, where the layer keeps one. -/
def State.holdPx (s : State) (c l x y : Nat) : Option Px :=
  let d := s.live.layer c l
  let (x0, y0, x1, _) := s.live.clip c d
  if d.holdFall then
    (s.layerSt c l).hold.map (fun h =>
      imgGet s.mem.reservoir (s.copyAt s.live (holdPart c l) h) (x1 - x0).toNat ((x : Int) - x0).toNat ((y : Int) - y0).toNat)
  else none

/-- What a layer gives at a canvas sample: nothing outside its destination, its fallback where it failed. -/
def State.layerAt (s : State) (host : HostView) (good : List Nat) (c l x y : Nat) : Option Px :=
  let d := s.live.layer c l
  let (x0, y0, x1, y1) := s.live.clip c d
  if (x : Int) < x0 ∨ x1 ≤ x ∨ (y : Int) < y0 ∨ y1 ≤ y then none
  else if d.source = srcBuffer then
    if good.contains l then some (s.layerScaled host c l 0 x y) else s.holdPx c l x y
  else if d.source = srcVideo then
    let z := if d.zoneFollow then s.live.sampleZone c x y else s.live.cvZone c
    match mget none0 (s.canvas c).picks (pickKey l z) with
    | some b => some (s.layerScaled host c l b x y)
    | none => s.holdPx c l x y
  else some (s.layerScaled host c l 0 x y)

/-- Blend layers in ascending order onto a sample. -/
def State.blendLayers (s : State) (host : HostView) (good : List Nat) (c x y : Nat) (ls : List Nat) (px : Px) : Px :=
  ls.foldl (fun p l =>
    match s.layerAt host good c l x y with
    | some q => blendPx (s.live.layer c l) q p
    | none => p) px

/-- The sample that the dynamic layers are blended onto. -/
def State.underPx (s : State) (c x y : Nat) : Px :=
  let v := s.canvas c
  let t := s.live
  match v.flat with
  | some h => if t.runUsed c then imgGet s.mem.reservoir (s.copyAt t (runPart c) h) (t.cvWidth c) x y else t.cvBack c
  | none => t.cvBack c

/-- The composed sample of a canvas. -/
def State.composed (s : State) (host : HostView) (good : List Nat) (c x y : Nat) : Px :=
  s.blendLayers host good c x y (s.live.dynLayers c) (s.underPx c x y)

/-- Fetch the dynamic BUFFER layers of a canvas: the layers that are good. -/
def State.fetchCanvas (s : State) (host after : HostView) (c : Nat) : State × List Nat :=
  ((s.live.dynLayers c).filter (fun l => (s.live.layer c l).source = srcBuffer)).foldl
    (fun (a : State × List Nat) l =>
      let (s1, ok) := a.1.fetchLayer host after c l
      (s1, if ok then a.2 ++ [l] else a.2)) (s, [])

/-- The copy of a pair that is written next: not the one in use. -/
def otherCopy (h : Option Nat) : Nat := if h = some 0 then 1 else 0

/-- The hold copies of those of the layers `ls` that were fetched good (R197). -/
def State.keepHolds (s : State) (host : HostView) (good ls : List Nat) (c : Nat) : State :=
  let t := s.live
  ls.foldl (fun s l =>
    let d := t.layer c l
    let ok := (d.source = srcBuffer && good.contains l) ||
      (d.source = srcVideo && (t.layerZones c l).all (fun z => (mget none0 (s.canvas c).picks (pickKey l z)).isSome))
    let (x0, y0, x1, y1) := t.clip c d
    if t.keepsHold c l && ok then
      let h := otherCopy (s.layerSt c l).hold
      (s.resPut (s.copyAt t (holdPart c l) h) (imgBytes (x1 - x0).toNat (y1 - y0).toNat (fun x y =>
        (s.layerAt host good c l (x0.toNat + x) (y0.toNat + y)).getD {}))).setLayer c l { s.layerSt c l with hold := some h }
    else s) s

/-- Whether canvas c is composed in this frame. -/
def State.composes (s : State) (c : Nat) : Bool := s.fbit R.CMP_CTRL_compose_enable && s.live.cvOn c && !(s.inService scCanvas c)

/-- The values of a canvas's mapped pixels in the frame being staged: converted; 0 (no values) where the canvas is not
composed, the pipeline is off or the profile is not valid; the last staged ones, or 0 for black, while the canvas is in service (R513). -/
def State.stagePixels (s : State) (host : HostView) (good : List Nat) (c : Nat) : State :=
  let t := s.live
  (t.mapEntries c).foldl (fun s k =>
    let key := t.mapKey c k
    if s.inService scCanvas c && s.cmp.dark.contains c then s
    else if s.inService scCanvas c then
      { s with cmp := { s.cmp with pixels := mset px0 s.cmp.pixels key (mget px0 s.cmp.outPixels key) } }
    else if s.composes c && s.fbit R.CLR_CTRL_colour_enable then
      if s.fbit R.CLR_STATUS_profiles_loaded && t.profValid (t.mapProfile c k) then
        let v := s.convert c k (t.mapTake c k (s.composed host good c))
        let s1 := { s with cmp := { s.cmp with pixels := mset px0 s.cmp.pixels key v.values } }
        (s1.fset R.CLR_CLIP_LOW_LAST (s1.fget R.CLR_CLIP_LOW_LAST + v.low)).fset R.CLR_CLIP_HIGH_LAST
          (s1.fget R.CLR_CLIP_HIGH_LAST + v.high)
      else s.fset R.CLR_PROFILE_INVALID_LAST_profile (t.mapProfile c k)
    else s) s

/-- Whether a mapped pixel of this frame names a profile that is not valid. -/
def State.profileMissing (s : State) : Bool :=
  s.fbit R.CLR_CTRL_colour_enable && (List.range 4).any (fun c => s.composes c &&
    (s.live.mapEntries c).any (fun k => !(s.fbit R.CLR_STATUS_profiles_loaded && s.live.profValid (s.live.mapProfile c k))))

/-- The composed samples under a signature rectangle, row by row, each R, G, B in 16-bit little-endian form (R207). -/
def State.sigBytes (s : State) (host : HostView) (good : List Nat) (c k : Nat) : List Byte :=
  let (_, _, x0, y0, x1, y1) := s.live.sigRect c k
  (List.range (y1 + 1 - y0)).flatMap (fun j => (List.range (x1 + 1 - x0)).flatMap (fun i =>
    let p := s.composed host good c (x0 + i) (y0 + j)
    leBytes p.r 2 ++ leBytes p.g 2 ++ leBytes p.b 2))

/-- The signature rectangles of a canvas feed their Gauges; their checks end as the canvas is staged (R528). -/
def State.feedSigs (s : State) (host : HostView) (good : List Nat) (c : Nat) : State :=
  (List.range 4).foldl (fun s k =>
    if (s.live.sigRect c k).1 then
      s.gaCheck (s.live.sigRect c k).2.1 gaBound (s.sigBytes host good c k) s.evalFrame
    else s) s

/-! ### Refills (R196, R200) -/

/-- The BUFFER layers of a run that a refill reads. -/
def Tabs.runBuffers (t : Tabs) (c : Nat) : List Nat :=
  (t.runLayers c).filter (fun l => (t.layer c l).source = srcBuffer && !(t.skipped c l))

/-- A refill's reading of its layers: good layers, and whether one tore. -/
def State.fetchRun (s : State) (host after : HostView) (c : Nat) : State × List Nat × Bool :=
  (s.live.runBuffers c).foldl (fun (a : State × List Nat × Bool) l =>
    let torn := match a.1.bufOf c l with
      | some f => a.1.fetchBuf host after (a.1.live.layer c l) f = 1
      | none => false
    let (s1, ok) := a.1.fetchLayer host after c l
    (s1, if ok then a.2.1 ++ [l] else a.2.1, a.2.2 || torn)) (s, [], false)

/-- The work of canvas c's refill ends: the copy, written beside the one in use, waits for the next input cut, or a torn refill is abandoned and tried
again. -/
def State.refillDone (s : State) (c : Nat) (host after : HostView) : State :=
  match (s.canvas c).refillFrom with
  | some n =>
    if s.composes c && s.domOn .pix then
      let t := s.live
      let (s1, good, torn) := s.fetchRun host after c
      if torn then s1
      else
        let ls := (t.runLayers c).filter (fun l => !(t.skipped c l))
        let h := otherCopy (s1.canvas c).flat
        let s2 := (s1.resPut (s1.copyAt t (runPart c) h) (imgBytes (t.cvWidth c) (t.cvHeight c) (fun x y =>
          s1.blendLayers host good c x y ls (t.cvBack c)))).keepHolds host good (t.runBuffers c) c
        ((s2.setCanvas c { s2.canvas c with flatNext := some h, refillFrom := none }).fset R.CMP_FLATTEN_LAG (s.evalFrame + 1 - n) c).fsetBit R.CMP_STATUS_flatten_pending c false
    else s
  | none => s

def execFlattenRefillDone (canvas : Fin 4) (host after : HostView) (s : State) : Host.Outcome State Fault Refusal :=
  .next (s.refillDone canvas host after).settle

/-! ### LAYER_FRAME and the registers -/

/-- 0x04 waits for its input cut, where its fit is checked (R201); its canvas must be out of service and its block powered. -/
def execLayerFrame (s : State) : Host.Outcome State Fault Refusal :=
  .next (s.startDesc (isOp 0x04) formLOk (fun s f =>
    match s.targetStatus scCanvas (lCanvas f.words) with
    | some st => s.finish f st 0
    | none => s)).settle

/-- The flatten cache overlaps the staging area. -/
def State.flattenStaging (s : State) : Bool :=
  overlapsStaging (s.fget R.CMP_FLATTEN_BASE_base_64k * 65536) (s.fget R.CMP_FLATTEN_SIZE_size_mib * 1048576)

/-- A write of CMP_CTRL (R213). -/
def State.cmpCtrlWrite (s : State) (req : Requester) (v : Word) : State :=
  let bad := v.getLsbD 31 && !(s.fbit R.CMP_CTRL_compose_enable) && s.flattenStaging
  let s1 := s.fset R.CMP_CTRL_compose_enable (b2n (v.getLsbD 31 && !bad))
  if bad then s1.accessErr true req R.CMP_CTRL.off else s1

/-- Writes of the flatten cache's place: discarded and counted while `compose_enable` is 1; a size above 2,048 MiB is stored as
that. -/
def State.flattenBaseWrite (s : State) (req : Requester) (v : Word) : State :=
  if s.fbit R.CMP_CTRL_compose_enable then s.accessErr true req R.CMP_FLATTEN_BASE.off else s.fset R.CMP_FLATTEN_BASE_base_64k (getBits v 17 0)

def State.flattenSizeWrite (s : State) (req : Requester) (v : Word) : State :=
  if s.fbit R.CMP_CTRL_compose_enable then s.accessErr true req R.CMP_FLATTEN_SIZE.off
  else s.fset R.CMP_FLATTEN_SIZE_size_mib (min 2048 (getBits v 11 0))

end Sys2Proof.Machine
end

