-- ==== Sys2Proof/Machine/Net.lean ====
section
/-! DEFINITION. The Ethernet MACs (chapter 11): filtering, receive queues and weirs, pause, host buffers, and the launch of
frames in step order with their time stamps. -/

namespace Sys2Proof.Machine

def nm0 (_ : Nat) : NetMac := {}

def State.mac (s : State) (m : Nat) : NetMac := mget nm0 s.net.macs m
def State.setMac (s : State) (m : Nat) (v : NetMac) : State :=
  { s with net := { s.net with macs := mset nm0 s.net.macs m v } }

/-! ### Addresses -/

/-- The 48-bit address in a HI/LO pair: bytes 0..1 in HI, 2..5 in LO. -/
def State.macAddr (s : State) (m : Nat) : Nat :=
  s.fget R.NET_MAC_ADDR_HI_addr_hi m * 2 ^ 32 + (s.fget R.NET_MAC_ADDR_LO m)

def State.matchAddr (s : State) (m i : Nat) : Nat :=
  s.fget R.NET_MATCH_HI_addr_hi m i * 2 ^ 32 + s.fget R.NET_MATCH_LO m i

/-- The Ethernet group address of an IPv4 group: 01:00:5E and the group's low 23 bits (RFC 1112, which R325's examples
use). -/
def groupMac (ip : Nat) : Nat := 0x01005E000000 + ip % 2 ^ 23

/-- The IPv4 group of an E1.31 universe (R337). -/
def sacnGroup (u : Nat) : Nat := 239 * 2 ^ 24 + 255 * 2 ^ 16 + u

/-- The hash bin of an address (R325). -/
def hashBin (addr : Nat) : Nat := crcOf crc32 (beBytes addr 6) / 2 ^ 20

/-- The PTP groups. -/
def ptpGroups : List Nat := [0x011B19000000, 0x0180C200000E, 0x01005E000181, 0x01005E00006B]

/-! ### The sACN table (R335, R336) -/

def Tabs.sacnWord (t : Tabs) (w : Nat) : Nat := t.word 0x13 0 w
def Tabs.txWord (t : Tabs) (u w : Nat) : Nat := t.sacnWord (1024 + 2 * u + w)
def Tabs.rxWord (t : Tabs) (r w : Nat) : Nat := t.sacnWord (33792 + 2 * r + w)
def Tabs.sacnTx (t : Tabs) : Bool := bits (t.sacnWord 4) 31 31 = 1
def Tabs.sacnRx (t : Tabs) : Bool := bits (t.sacnWord 4) 30 30 = 1
def Tabs.sacnSync (t : Tabs) : Nat := bits (t.sacnWord 4) 15 0

/-- The transmit entries and receive entries that anything has written, ascending. -/
def Tabs.txEntries (t : Tabs) : List Nat :=
  ((t.entries 0x13 0 8).filter (fun e => decide (512 ≤ e ∧ e < 16896))).map (fun e => e - 512)
def Tabs.rxEntries (t : Tabs) : List Nat :=
  ((t.entries 0x13 0 8).filter (fun e => decide (16896 ≤ e))).map (fun e => e - 16896)

def entryValid (w0 : Nat) : Bool := bits w0 31 31 = 1
def entryOnMac (w0 m : Nat) : Bool := bits w0 30 27 / 2 ^ m % 2 = 1
def entryUniverse (w0 : Nat) : Nat := bits w0 15 0

/-- The receive entries valid on a MAC. -/
def Tabs.rxOn (t : Tabs) (m : Nat) : List Nat :=
  t.rxEntries.filter (fun r => entryValid (t.rxWord r 0) && entryOnMac (t.rxWord r 0) m)

/-- The transmit entries that a MAC sends, in ascending internal universe. -/
def Tabs.txOn (t : Tabs) (m : Nat) : List Nat :=
  if t.sacnTx then t.txEntries.filter (fun u => entryValid (t.txWord u 0) && entryOnMac (t.txWord u 0) m) else []

/-! ### Filtering (R324, R325) -/

/-- Universes whose arrival wakes the device from WATCH (R450). -/
def State.wakeUniverses (s : State) : List Nat :=
  if s.fbit R.PM_WAKE_CFG_sacn then
    ((List.range 8).filter (fun i => s.fbit R.PM_SACN_WAKE_valid i)).map (fun i => s.fget R.PM_SACN_WAKE_universe i)
  else []

/-- Group addresses whose bins the device sets on a MAC by itself. -/
def State.ownGroups (s : State) (m : Nat) : List Nat :=
  (s.live.rxOn m).map (fun r => groupMac (sacnGroup (entryUniverse (s.live.rxWord r 0)))) ++
    ((List.range 4).filter (fun k => s.fbit R.NET_VID_CFG_enable k && s.fget R.NET_VID_CFG_mac k = m)).map
      (fun k => groupMac (s.fget R.NET_VID_GROUP k)) ++
    ((List.range 8).filter (fun a => s.fbit R.NET_AUD_CFG_enable a && s.fget R.NET_AUD_CFG_mac a = m)).map
      (fun a => groupMac (s.fget R.NET_AUD_GROUP a)) ++ ptpGroups ++
    (if s.fget R.PM_STATE_state = 2 then s.wakeUniverses.map (fun u => groupMac (sacnGroup u)) else [])

def State.binSet (s : State) (m dest : Nat) : Bool :=
  let b := hashBin dest
  s.fget R.NET_HASH m (b / 32) / 2 ^ (b % 32) % 2 = 1 || (s.ownGroups m).any (fun g => hashBin g = b)

/-- Bytes `a..a+n-1` of a frame as a big-endian number. -/
def fNum (f : List Byte) (a n : Nat) : Nat := beNat ((f.drop a).take n)

/-- The frame's VLAN tag is removed; `none` where the tag refuses the frame. -/
def State.untag (s : State) (m : Nat) (f : List Byte) : Option (List Byte) :=
  if fNum f 12 2 = 0x8100 then
    if s.fbit R.NET_VLAN_enable m && fNum f 14 2 % 4096 = s.fget R.NET_VLAN_vid m then some (f.take 12 ++ f.drop 16)
    else none
  else some f

/-- The first test of R325 that a destination passes: the test's number, and the route of a match entry. -/
def State.filterTest (s : State) (m dest : Nat) : Option (Nat × Nat) :=
  if dest = s.macAddr m then some (1, 0)
  else
    match (List.range 64).find? (fun i => s.fbit R.NET_MATCH_HI_valid m i && s.matchAddr m i = dest) with
    | some i => some (2, s.fget R.NET_MATCH_HI_route m i)
    | none =>
      if dest = 0xFFFFFFFFFFFF && s.fbit R.NET_MAC_CFG_bcast m then some (3, 0)
      else if dest / 2 ^ 40 % 2 = 1 && s.binSet m dest then some (4, 0)
      else if s.fbit R.NET_MAC_CFG_promiscuous m then some (5, 0)
      else none

/-- IPv4 and UDP fields of an untagged frame, where it is an unfragmented UDP datagram: destination address, destination
port, payload. -/
def udpOf (f : List Byte) : Option (Nat × Nat × List Byte) :=
  let ihl := fNum f 14 1 % 16 * 4
  if fNum f 12 2 = 0x0800 ∧ fNum f 14 1 / 16 = 4 ∧ 20 ≤ ihl ∧ fNum f 23 1 = 17 ∧ fNum f 20 2 % 16384 = 0 ∧
      14 + ihl + 8 ≤ f.length then
    some (fNum f 30 4, fNum f (14 + ihl + 2) 2, ((f.drop (14 + ihl + 8)).take (fNum f (14 + ihl + 4) 2 - 8)))
  else none

/-- The enabled audio or video stream on a MAC that a datagram is for. -/
def State.audioOf (s : State) (m ip port : Nat) : Option Nat :=
  (List.range 8).find? (fun a => s.fbit R.NET_AUD_CFG_enable a && s.fget R.NET_AUD_CFG_mac a = m &&
    s.fget R.NET_AUD_GROUP a = ip && s.fget R.NET_AUD_CFG_udp_port a = port)

def State.videoOf (s : State) (m ip port : Nat) : Option Nat :=
  (List.range 4).find? (fun k => s.fbit R.NET_VID_CFG_enable k && s.fget R.NET_VID_CFG_mac k = m &&
    s.fget R.NET_VID_GROUP k = ip && s.fget R.NET_VID_CFG_udp_port k = port)

/-- Classification by content (R326): the first class whose rule matches. -/
def State.classOf (s : State) (m : Nat) (f : List Byte) : Nat :=
  let et := fNum f 12 2
  let udp := udpOf f
  let port := match udp with
    | some (_, p, _) => p
    | none => 0
  if (et = 0x88F7 ∧ fNum f 14 1 % 16 < 4) ∨ port = 319 then 0
  else if et = 0x88F7 ∨ port = 320 then 1
  else if et = 0x88B5 then 2
  else
    match udp with
    | some (ip, p, _) =>
      if (s.audioOf m ip p).isSome then 3
      else if p = 5568 ∧ s.live.sacnRx then 4
      else if (s.videoOf m ip p).isSome then 5
      else 7
    | none => 7

/-! ### Queues (R327..R330) -/

def State.rxq (s : State) (m c : Nat) : List RxFrame := mget nil0 (s.mac m).rx c
def State.setRxq (s : State) (m c : Nat) (l : List RxFrame) : State :=
  s.setMac m { s.mac m with rx := mset nil0 (s.mac m).rx c l }

def State.rxLog (s : State) (m c : Nat) : Nat := s.fget R.NET_RXQ_CFG_log2 m c

/-- The fill of a queue in cells. -/
def State.rxFill (s : State) (m c : Nat) : Nat :=
  let n := 2 ^ (s.rxLog m c + 1)
  (s.fget R.NET_RXQ_STATUS_wr_ptr m c % n + n - s.fget R.NET_RXQ_STATUS_rd_ptr m c % n) % n

/-- Cells of a frame, or of its part that is still to be written. -/
def frameCells (bytes : Nat) : Nat := cdiv (bytes + 16) 64

/-- The cells summed over the queues that count toward pause (R332). -/
def State.occupancy (s : State) (m : Nat) : Nat :=
  (List.range 8).foldl (fun n c => if s.fbit R.NET_RXQ_CFG_pause_count m c then n + s.rxFill m c else n) 0

/-- The write pointer moves by `n` cells; rising through `thresh` sets `thresh_hit` and may raise vector 38 + m (R329). -/
def State.rxPush (s : State) (m c n : Nat) : State :=
  let k := s.rxLog m c
  let old := s.rxFill m c
  let s1 := s.fset R.NET_RXQ_STATUS_wr_ptr ((s.fget R.NET_RXQ_STATUS_wr_ptr m c + n) % 2 ^ (k + 1)) m c
  let th := s.fget R.NET_RXQ_CFG_thresh m c
  if th ≠ 0 ∧ old < th ∧ th ≤ s1.rxFill m c then
    let s2 := s1.fset R.NET_RXQ_STATUS_thresh_hit 1 m c
    if s1.fbit R.NET_RXQ_STATUS_thresh_hit m c then s2 else s2.raise (38 + m)
  else s1

def State.rxFree (s : State) (m c n : Nat) : State :=
  s.fset R.NET_RXQ_STATUS_rd_ptr ((s.fget R.NET_RXQ_STATUS_rd_ptr m c + n) % 2 ^ (s.rxLog m c + 1)) m c

/-- `n` cells are written and read again at once: what a frame streams into its host buffers. -/
def State.rxPass (s : State) (m c n : Nat) : State :=
  (s.fset R.NET_RXQ_STATUS_wr_ptr ((s.fget R.NET_RXQ_STATUS_wr_ptr m c + n) % 2 ^ (s.rxLog m c + 1)) m c).rxFree m c n

/-- The consumer takes the oldest frame of a class. -/
def State.rxPop (s : State) (m c : Nat) : Option (RxFrame × State) :=
  match s.rxq m c with
  | [] => none
  | f :: t => some (f, (s.setRxq m c t).rxFree m c f.cells)

/-! ### The wire (R349, R350) -/

/-- Bits a second of a MAC. -/
def State.macBps (s : State) (m : Nat) : Nat := if s.fbit R.NET_MAC_CFG_speed m then 25000000000 else 10000000000

/-- Wire time of a frame without FCS, in 2^-16 ns: 24 further bytes of FCS, preamble and gap (R339). -/
def State.wireTime (s : State) (m n : Nat) : Int := ((n + 24) * 8 * 1000000000 * 65536 / s.macBps m : Nat)

/-- The LOCAL reading at an instant of base `b`, at the current rates. -/
def State.localAt (s : State) (b : Base) (t : Int) : Int := s.time.loc.t + (t - b.t) * 2 ^ 44 / (2 ^ 44 + b.rate)

/-- A MAC can send: enabled, its link up, out of service, PD_NET on. -/
def State.macRuns (s : State) (m : Nat) : Bool :=
  s.domOn .net && s.fbit R.NET_MAC_CFG_enable m && s.fbit R.NET_MAC_STATUS_link m && !(s.inService scNet m)

/-- When a TX_FRAME is due, as a LOCAL reading. -/
def State.txDue (s : State) (f : Flight) : Int := s.localAt s.time.ptp ((aWhen f.words : Int) * 65536)

/-- The timed TX_FRAMEs of a MAC that have not fallen due. -/
def State.timedTx (s : State) (m : Nat) : List Flight :=
  s.rings.flight.filter (fun f => dOpcode f.words = 0x09 && aInst f.words = m && aWhen f.words ≠ 0 && !f.applied)

/-- a and b of R338 for the frame in read-out, as ns from T_f; a rounds down to whole ns, as the example of R338 does. -/
def State.sacnA (s : State) : Int := -((cdiv (s.live.rateDen * 1000000000) s.live.rateNum : Nat) : Int) + 100000
def State.sacnB (s : State) (m : Nat) : Int := -((s.mac m).trim : Int) - 100000

/-- The frame in read-out: the next to commit. -/
def State.readFrame (s : State) : Nat := if s.isStandby then s.time.clock.stageFrame else s.frame + 1

/-- The frame whose instant comes next. -/
def State.nextFrame (s : State) : Nat := s.frame + 1

/-- An instant `ns` from T_f of the frame in read-out, as a LOCAL reading. -/
def State.fromTf (s : State) (ns : Int) : Int :=
  match s.time.clock.armed.find? (fun e => e.1 == s.readFrame) with
  | some e => e.2 + ns * 65536
  | none => s.localAt (s.lockBase s.time.clock.onBase) (s.tfOf s.readFrame + ns * 65536)

/-- When the packet of rank `i` of `k` is due (R338). -/
def State.sacnDue (s : State) (m i k : Nat) : Int := s.fromTf (s.sacnA + (i : Int) * (s.sacnB m - s.sacnA) / k)

/-- The universes that a MAC sends in a frame, ascending. -/
def State.sacnList (s : State) (m : Nat) : List Nat := if s.net.ended then [] else s.live.txOn m

/-- The terminating universes of a MAC in this frame. -/
def State.termsOn (s : State) (m : Nat) : List SacnTerm := s.net.terms.filter (fun t => t.mac = m && decide (t.left < 3))

/-- Terminating packets are due as the data packets of the frame end (log entry 101). -/
def State.termDue (s : State) (m : Nat) : Int := s.fromTf (s.sacnB m)

/-- Whether a MAC sends a synchronization packet each frame (R337). -/
def State.syncOn (s : State) (m : Nat) : Bool :=
  s.live.sacnTx && s.live.sacnSync ≠ 0 && (s.live.txOn m).any (fun u => bits (s.live.txWord u 0) 26 26 = 1) &&
    s.domOn .net && s.fbit R.NET_MAC_STATUS_link m && !s.net.ended

/-- When the synchronization packet is due (R337). -/
def State.syncDue (s : State) (m : Nat) : Int := s.fromTf (-((s.mac m).trim : Int))

/-- Whether this device puts UDP on a MAC's wire: the MAC runs, it has an IPv4 address, and the device is not a standby
(R341, R354), nor a new active in the frame of its declaration (R437). -/
def State.udpSends (s : State) (m : Nat) : Bool :=
  s.macRuns m && s.fget R.NET_IPV4 m ≠ 0 && s.drives && s.tandem.hush ≠ some s.readFrame

/-- The instants at which the frame's sACN packets that a MAC has still to send fall due: none on a MAC that sends none. -/
def State.sacnDues (s : State) (m : Nat) : List Int :=
  let v := s.mac m
  let k := (s.sacnList m).length
  if s.udpSends m then
    (if v.rank < k then [s.sacnDue m v.rank k] else []) ++
      (if v.termRank < (s.termsOn m).length then [s.termDue m] else []) ++
      (if s.syncOn m && !v.synced then [s.syncDue m] else [])
  else []

/-- The next instant at which a timed frame of a MAC falls due. -/
def State.nextDue (s : State) (m : Nat) : Option Int :=
  let l := (if s.drives then (s.timedTx m).map (fun f => s.txDue f) else []) ++ s.sacnDues m
  match l with
  | [] => none
  | a :: t => some (t.foldl min a)

/-- The earliest due of timed items. -/
def firstDue (l : List TxItem) : Option TxItem :=
  match l.filter (fun i => i.step = 3) with
  | [] => none
  | a :: t => some (t.foldl (fun m i => if i.due < m.due then i else m) a)

/-- The item that a free wire takes, in the order of R349. While the MAC honours a PAUSE only PAUSE leaves (R333), and a
device that does not drive sends no output (R426). -/
def State.nextItem (s : State) (m : Nat) : Option TxItem :=
  let q := (s.mac m).txq.filter (fun i => s.drives || !i.output)
  let paused := s.fbit R.NET_MAC_CFG_rx_pause m && s.fbit R.NET_MAC_STATUS_paused m && !(s.fbit R.NET_MAC_STATUS_wd_rx m)
  let fits (i : TxItem) : Bool :=
    match s.nextDue m with
    | some d => decide (s.time.loc.t + s.wireTime m i.bytes.length ≤ d)
    | none => true
  match q.find? (fun i => i.step = 1) with
  | some i => some i
  | none =>
    if paused then none
    else
      match q.find? (fun i => i.step = 2) with
      | some i => some i
      | none =>
        match firstDue q with
        | some i => some i
        | none =>
          match q.find? (fun i => i.step = 4 && fits i) with
          | some i => some i
          | none => q.find? (fun i => i.step = 5 && fits i)

/-- Remove one item from a queue. -/
def dropItem (i : TxItem) : List TxItem → List TxItem
  | [] => []
  | a :: t => if a = i then t else a :: dropItem i t

/-! ### The time-stamp queue (R352) -/

/-- Entries open to software stamps. -/
def tsqSize : Nat := 224

def State.showTsq (s : State) (m : Nat) : State :=
  (s.fset R.NET_TSQ_STATUS_entries (s.mac m).tsq.length m).fset R.NET_TSQ_STATUS_gap_pending (b2n ((s.mac m).tsqGap ≠ 0)) m

/-- A stamp enters the queue, or is dropped into the pending gap. -/
def State.stamp (s : State) (m : Nat) (e : TsEntry) : State :=
  let v := s.mac m
  if v.tsqGap = 0 ∧ v.tsq.length < tsqSize then (s.setMac m { v with tsq := v.tsq ++ [e] }).showTsq m
  else ((s.setMac m { v with tsqGap := v.tsqGap + 1 }).bumpF R.NET_TSQ_OVERFLOW_COUNT m).showTsq m

/-- Any write of NET_TSQ_POP removes the oldest entry; the slot that comes free takes a pending GAP. -/
def State.tsqPop (s : State) (m : Nat) : State :=
  let v := s.mac m
  match v.tsq with
  | [] => s
  | _ :: t =>
    if v.tsqGap = 0 then (s.setMac m { v with tsq := t }).showTsq m
    else (s.setMac m { v with tsq := t ++ [{ gap := true, dropped := v.tsqGap }], tsqGap := 0 }).showTsq m

/-- Word w of a time-stamp entry. -/
def tsWord (e : TsEntry) (w : Nat) : Nat :=
  if e.gap then (match w with | 0 => 2 ^ 30 | 1 => e.dropped % 2 ^ 32 | _ => 0)
  else
    match w with
    | 0 => b2n e.late * 2 ^ 28 + e.ring * 2 ^ 23 + b2n e.sync * 2 ^ 22 + e.tag
    | 1 => nsOf e.t
    | 2 => twos (secOf e.t) 64 % 2 ^ 32
    | _ => twos (secOf e.t) 64 / 2 ^ 32 % 65536

/-! ### Launch -/

/-- One NET cycle, 2.56 ns, in 2^-16 ns (R350). -/
def netCycle : Int := 167773

/-- A frame is launched: it leaves, a timed one may be late, its stamp is taken, its TX_FRAME completes, and the wire is
busy until WIRE_FREE. -/
def State.launch (s : State) (m : Nat) (i : TxItem) : State :=
  let late := i.step = 3 && decide (netCycle ≤ s.time.loc.t - i.due)
  let v := s.mac m
  let s1 := (s.setMac m { v with txq := dropItem i v.txq, busy := true }).emit (.netFrame m i.bytes)
  let s2 := if late then s1.bumpF R.NET_TX_LATE_COUNT m else s1
  let now := s.time.ptp.t
  match i.kind with
  | 1 =>
    match s.flight i.ref with
    | none => s2
    | some f =>
      let s3 := if i.stamp then s2.stamp m { late := late, ring := f.ring, tag := dTag f.words, t := now } else s2
      s3.finish f stOk (twos (now / 65536) 64)
  | 2 =>
    let p := v.ptp
    if i.stamp then s2.setMac m { s2.mac m with ptp := { p with lastSync := some (i.ref, now) } }
    else s2.setMac m { s2.mac m with ptp := { p with delayReq := some (i.ref, some now) } }
  | 3 => if i.stamp then s2.stamp m { late := late, sync := true, tag := i.ref, t := now } else s2
  | _ => s2

/-- Give a free wire its next frame. -/
def State.tryLaunch (s : State) (m : Nat) : State :=
  if s.macRuns m && !(s.mac m).busy then
    match s.nextItem m with
    | some i => s.launch m i
    | none => s
  else s

/-- A frame waits for the wire, and takes it if it is free. -/
def State.sendItem (s : State) (m : Nat) (i : TxItem) : State :=
  (s.setMac m { s.mac m with txq := (s.mac m).txq ++ [i] }).tryLaunch m

def State.wireFree (s : State) (m : Nat) : State := (s.setMac m { s.mac m with busy := false }).tryLaunch m

def execWireFree (mac : Fin 4) (s : State) : Host.Outcome State Fault Refusal := .next (s.wireFree mac).settle

/-! ### Pause (R332..R334) -/

/-- An IEEE 802.3 PAUSE frame. -/
def State.pauseFrame (s : State) (m quanta : Nat) : List Byte :=
  beBytes 0x0180C2000001 6 ++ beBytes (s.macAddr m) 6 ++ beBytes 0x8808 2 ++ beBytes 1 2 ++ beBytes quanta 2 ++
    List.replicate 42 0

def State.sendPause (s : State) (m quanta : Nat) : State :=
  s.sendItem m { bytes := s.pauseFrame m quanta, step := 1, kind := 4, due := s.time.loc.t }

/-- The weirs act on the occupancy. With `tx_pause` 0 the MAC sends no PAUSE, so it is not pausing (log entry 102); a tripped
watchdog ends at the low weir all the same (R334). -/
def State.weirs (s : State) (m : Nat) : State :=
  let o := s.occupancy m
  let low := s.fget R.NET_WEIR_low_weir m
  if s.fbit R.NET_MAC_STATUS_wd_tx m then
    if o ≤ low then s.fset R.NET_MAC_STATUS_wd_tx 0 m else s
  else if s.fbit R.NET_MAC_CFG_tx_pause m then
    if s.fbit R.NET_MAC_STATUS_pausing m then
      if o ≤ low then (s.fset R.NET_MAC_STATUS_pausing 0 m).sendPause m 0 else s
    else if s.fget R.NET_WEIR_high_weir m ≤ o then
      ((s.fset R.NET_MAC_STATUS_pausing 1 m).setMac m { s.mac m with pauseSince := s.now }).sendPause m
        (s.fget R.NET_PAUSE_CFG_quanta m)
    else s
  else s.fset R.NET_MAC_STATUS_pausing 0 m

/-- PAUSE is repeated while occupancy stays above the low weir. -/
def State.pauseRepeat (s : State) (m : Nat) : State :=
  if s.fbit R.NET_MAC_CFG_tx_pause m && s.fbit R.NET_MAC_STATUS_pausing m && !(s.fbit R.NET_MAC_STATUS_wd_tx m) &&
      decide (s.fget R.NET_WEIR_low_weir m < s.occupancy m) then
    s.sendPause m (s.fget R.NET_PAUSE_CFG_quanta m)
  else s

def execPauseRepeat (mac : Fin 4) (s : State) : Host.Outcome State Fault Refusal := .next (s.pauseRepeat mac).settle

/-- The pause watchdog trips on the sending (`tx`) or the receiving side once its time has passed. -/
def State.pauseWatchdog (s : State) (m : Nat) (tx : Bool) : State :=
  let ms := s.fget R.NET_PAUSE_CFG_wd_ms m
  let spent (since : Nat) : Bool := ms ≠ 0 && decide (ms * 1000000 ≤ nsSince s since)
  let v := s.mac m
  if tx then
    if s.fbit R.NET_MAC_STATUS_pausing m && !(s.fbit R.NET_MAC_STATUS_wd_tx m) && spent v.pauseSince then
      ((((s.fset R.NET_MAC_STATUS_wd_tx 1 m).fset R.NET_MAC_STATUS_pausing 0 m).bumpF R.NET_PAUSE_WD_COUNT m).report
        0x0F m).sendPause m 0
    else s
  else if s.fbit R.NET_MAC_STATUS_wd_rx m then
    if spent v.lastPause then s.fset R.NET_MAC_STATUS_wd_rx 0 m else s
  else if s.fbit R.NET_MAC_STATUS_paused m && spent v.pausedSince then
    ((((s.fset R.NET_MAC_STATUS_wd_rx 1 m).fset R.NET_MAC_STATUS_paused 0 m).bumpF R.NET_PAUSE_WD_COUNT m).report
      0x0F m).tryLaunch m
  else s

def execPauseWatchdog (mac : Fin 4) (tx : Bool) (s : State) : Host.Outcome State Fault Refusal :=
  .next (s.pauseWatchdog mac tx).settle

/-- A received PAUSE with its quanta (R333, R334). -/
def State.takePause (s : State) (m quanta : Nat) : State :=
  let v := s.mac m
  let s1 := s.setMac m { v with lastPause := s.now }
  if s.fbit R.NET_MAC_CFG_rx_pause m then
    if quanta = 0 then ((s1.fset R.NET_MAC_STATUS_paused 0 m).fset R.NET_MAC_STATUS_wd_rx 0 m).tryLaunch m
    else if s.fbit R.NET_MAC_STATUS_wd_rx m then s1
    else if s.fbit R.NET_MAC_STATUS_paused m then s1
    else (s1.setMac m { v with lastPause := s.now, pausedSince := s.now }).fset R.NET_MAC_STATUS_paused 1 m
  else s1

/-- The received pause time runs out. -/
def State.pauseEnd (s : State) (m : Nat) : State := (s.fset R.NET_MAC_STATUS_paused 0 m).tryLaunch m

def execReceivedPauseEnd (mac : Fin 4) (s : State) : Host.Outcome State Fault Refusal := .next (s.pauseEnd mac).settle

/-! ### Host buffers (R330, R331) -/

/-- The buffers of a MAC and class that hold nothing, in the order in which they were fetched. -/
def State.freeBufs (s : State) (m c : Nat) (used : List Nat) : List Flight :=
  s.rings.flight.filter (fun f => dOpcode f.words = 0x08 && aInst f.words = m && aClass f.words = c && f.count = 0 &&
    !(used.contains f.id))

/-- The pieces of an operand that a run of `n` bytes from `a` covers. -/
def partsFrom : List (Nat × Nat) → Nat → Nat → List (Nat × Nat)
  | [], _, _ => []
  | (b, l) :: t, a, n =>
    if n = 0 then []
    else if l ≤ a then partsFrom t (a - l) n
    else (b + a, min n (l - a)) :: partsFrom t 0 (n - min n (l - a))

/-- Write the rest of a frame into buffers, one after another. Answers the frame with what is written; a buffer whose
write fails completes with DMA_ERROR and is passed over. -/
def State.fillBufs (s : State) (m c : Nat) : Nat → RxFrame → State × RxFrame
  | 0, f => (s, f)
  | k + 1, f =>
    let left := f.bytes.length - f.sent
    if left = 0 then (s, f)
    else
      match s.freeBufs m c (f.bufs.map (fun b => b.1)) with
      | [] => (s, f)
      | b :: _ =>
        let n := min left (aLength b.words)
        match s.spread s.pcie.fails (aSpace b.words) (partsFrom b.parts 0 n) ((f.bytes.drop f.sent).take n) with
        | none => (s.finish b stDmaError 0).fillBufs m c k f
        | some s1 => s1.fillBufs m c k { f with sent := f.sent + n, bufs := f.bufs ++ [(b.id, n)] }

/-- Complete the buffers of a frame together, `more` on all but the last (R330). -/
def State.finishBufs (s : State) (status : Nat) : List (Nat × Nat) → State
  | [] => s
  | [(id, n)] =>
    match s.flight id with
    | some f => s.finish f status n
    | none => s
  | (id, n) :: b :: t =>
    match s.flight id with
    | some f => (s.finish f status n none true).finishBufs status (b :: t)
    | none => s.finishBufs status (b :: t)

/-- The oldest frame of class c goes on into its buffers; complete, it leaves its queue. -/
def State.drainOne (s : State) (m c : Nat) : State × Bool :=
  match s.rxq m c with
  | [] => (s, false)
  | f :: t =>
    let (s1, f1) := s.fillBufs m c 4096 f
    if f1.sent = f1.bytes.length then
      (((s1.setRxq m c t).rxFree m c f.cells).finishBufs stOk f1.bufs, true)
    else (s1.setRxq m c (f1 :: t), false)

/-- Class 6 first, then class 7, until neither moves (R328). -/
def State.drainHost (s : State) (m : Nat) : Nat → State
  | 0 => s
  | k + 1 =>
    let (s1, a) := s.drainOne m 6
    if a then s1.drainHost m k
    else
      let (s2, b) := s1.drainOne m 7
      if b then s2.drainHost m k else s2

/-- More frames than two queues of 2^12 cells can hold. -/
def drainFuel : Nat := 8193

def State.rxToHost (s : State) (m : Nat) : State := (s.drainHost m drainFuel).weirs m

def execRxFrameToHost (mac : Fin 4) (s : State) : Host.Outcome State Fault Refusal := .next (s.rxToHost mac).settle

/-- 0x08 (R331): the buffer joins its MAC's; a frame that waited goes on at RX_FRAME_TO_HOST. -/
def State.rxBuffer (s : State) (host : HostView) (f : Flight) : State :=
  let m := aInst f.words
  if 4 ≤ m ∨ !(aClass f.words = 6 || aClass f.words = 7) ∨ aLength f.words < 256 then s.finish f stBadField 0
  else
    match s.targetStatus scNet m with
    | some st => s.finish f st 0
    | none =>
      match s.pieces host f.words with
      | .bad => s.finish f stBadField 0
      | .dma => s.finish f stDmaError 0
      | .ok l => s.setFlight { f with parts := l }

def execRxBuffer (host : HostView) (s : State) : Host.Outcome State Fault Refusal :=
  .next (s.startDesc (isOp 0x08) formAOk (fun s f => s.rxBuffer host f)).settle

/-! ### Receiving a frame (R323..R330) -/

/-- A frame joins its queue, in `n` cells. -/
def State.rxHold (s : State) (m c n : Nat) (f : RxFrame) : State :=
  (s.setRxq m c (s.rxq m c ++ [{ f with cells := n }])).rxPush m c n

/-- A frame of a host class streams through its queue into buffers as it arrives: every cell that it occupies is written, and
those whose bytes are in buffers are read at once. The rest stays where it fits the queue; where it does not, a frame with
nothing in buffers is dropped whole, and the rest of another is discarded (log entry 103). -/
def State.streamFrame (s : State) (m c : Nat) (f : RxFrame) : State :=
  let (s1, f1) := s.fillBufs m c 4096 f
  let all := frameCells f.bytes.length
  let left := f1.bytes.length - f1.sent
  let rest := frameCells left
  if left = 0 then (s1.rxPass m c all).finishBufs stOk f1.bufs
  else if rest ≤ 2 ^ s.rxLog m c - s.rxFill m c then (s1.rxPass m c (all - rest)).rxHold m c rest f1
  else if f1.bufs = [] then s1.bumpF R.NET_RX_DROP_COUNT m c
  else ((s1.rxPass m c all).finishBufs stPartial f1.bufs).bumpF R.NET_RX_PARTIAL_COUNT m c

/-- A frame enters its class. The pause watchdog discards frames of pause-counting classes while it has tripped. -/
def State.rxEnter (s : State) (m c : Nat) (f : RxFrame) : State :=
  let n := frameCells f.bytes.length
  if s.fbit R.NET_MAC_STATUS_wd_tx m && s.fbit R.NET_RXQ_CFG_pause_count m c then s.bumpF R.NET_RX_DROP_COUNT m c
  else if 6 ≤ c ∧ s.rxq m c = [] then s.streamFrame m c f
  else if n ≤ 2 ^ s.rxLog m c - s.rxFill m c then s.rxHold m c n f
  else s.bumpF R.NET_RX_DROP_COUNT m c

/-- The class and filter test of an accepted frame. -/
def State.rxRoute (s : State) (m : Nat) (f : List Byte) : Option (Nat × Nat) :=
  match s.filterTest m (fNum f 0 6) with
  | none => none
  | some (t, r) => some (t, if r = 1 then 6 else if r = 2 then 7 else s.classOf m f)

/-- A frame arrives: `bytes` from the destination address, without its FCS; `good` tells whether the FCS matches.
Frames below 64 bytes are not frames the MAC receives. -/
def State.macReceive (s : State) (m : Nat) (bytes : List Byte) (good : Bool) : State :=
  if !(s.macRuns m) || decide (bytes.length + 4 < 64) then s
  else if 9216 < bytes.length + 4 then s.bumpF R.NET_RX_OVERSIZE_COUNT m
  else if !good then s.bumpF R.NET_RX_FCS_ERR_COUNT m
  else if fNum bytes 12 2 = 0x8808 && fNum bytes 14 2 = 1 then s.takePause m (fNum bytes 16 2)
  else
    match s.untag m bytes with
    | none => s.bumpF R.NET_RX_VLAN_DROP_COUNT m
    | some f =>
      match s.rxRoute m f with
      | none => s.bumpF R.NET_RX_FILTER_DROP_COUNT m
      | some (_, c) => (s.rxEnter m c { bytes := f, ptp := s.time.ptp.t, loc := s.time.loc.t }).weirs m

/-! ### TX_FRAME (R351) -/

def txBytes (ws : List Word) : Nat := aLength ws - bits (aClass ws) 1 0

/-- 0x09: an untimed frame waits for the wire; a timed one for its launch time. -/
def State.txFrame (s : State) (host : HostView) (f : Flight) : State :=
  let m := aInst f.words
  let n := txBytes f.words
  if 4 ≤ m ∨ 8 ≤ aClass f.words ∨ n < 60 ∨ 9212 < n then s.finish f stBadField 0
  else
    match s.targetStatus scNet m with
    | some st => s.finish f st 0
    | none =>
      match s.operandBytes host f.words with
      | .inr st => s.finish f st 0
      | .inl b =>
        let g := { f with got := b.take n }
        let s1 := s.setFlight g
        if aWhen f.words = 0 then
          (s1.setFlight { g with applied := true }).sendItem m
            { bytes := b.take n, step := 5, kind := 1, ref := f.id, stamp := bits (aClass f.words) 2 2 = 1, output := true }
        else s1

def execTxFrame (host : HostView) (s : State) : Host.Outcome State Fault Refusal :=
  .next (s.startDesc (isOp 0x09) formAOk (fun s f => s.txFrame host f)).settle

/-- The first timed TX_FRAME of a MAC, by launch time then fetch. -/
def State.firstTimed (s : State) (m : Nat) : Option Flight :=
  match s.timedTx m with
  | [] => none
  | a :: t => some (t.foldl (fun b f => if aWhen f.words < aWhen b.words then f else b) a)

/-- A timed TX_FRAME's launch time has come: it takes the wire in step order. A standby sends none (R426). -/
def State.txLaunch (s : State) (m : Nat) : State :=
  match s.firstTimed m with
  | none => s
  | some f =>
    if (aWhen f.words : Int) * 65536 ≤ s.time.ptp.t && s.drives then
      (s.setFlight { f with applied := true }).sendItem m
        { bytes := f.got, step := 3, due := s.txDue f, kind := 1, ref := f.id, stamp := bits (aClass f.words) 2 2 = 1,
          output := true }
    else s

def execTxFrameLaunch (mac : Fin 4) (s : State) : Host.Outcome State Fault Refusal := .next (s.txLaunch mac).settle

/-! ### Registers and links -/

/-- Cells of the eight queues. -/
def State.rxCells (s : State) (m : Nat) : Nat := (List.range 8).foldl (fun n c => n + 2 ^ s.rxLog m c) 0

/-- A write of NET_MAC_CFG (R322, R327): `speed` and `fec` are held while `enable` is 1, and an enable with too many cells
is refused. A MAC that no longer honours PAUSE is not paused (R333). -/
def State.macCfgWrite (s : State) (req : Requester) (m : Nat) (v : Word) : State :=
  let old := s.rg (R.NET_MAC_CFG.off m)
  let on := old.getLsbD 31
  let held := on && getBits old 30 29 ≠ getBits v 30 29
  let bad := v.getLsbD 31 && !on && decide (8192 < s.rxCells m)
  let sf := if on then getBits old 30 29 else getBits v 30 29
  let s1 := s.setRg (R.NET_MAC_CFG.off m) (BitVec.ofNat 32
    (b2n (v.getLsbD 31 && !bad) * 2 ^ 31 + sf * 2 ^ 29 + getBits v 28 25 * 2 ^ 25))
  let s2 := if held || bad then s1.accessErr true req (R.NET_MAC_CFG.off m) else s1
  let s3 := if v.getLsbD 26 then s2 else s2.fset R.NET_MAC_STATUS_paused 0 m
  (if v.getLsbD 31 && !bad then s3.tryLaunch m else s3).weirs m

/-- A write of NET_WEIR: discarded and counted unless `low_weir` is below `high_weir` (R332). -/
def State.weirWrite (s : State) (req : Requester) (m : Nat) (v : Word) : State :=
  if getBits v 28 16 ≤ getBits v 12 0 then s.accessErr true req (R.NET_WEIR.off m)
  else (s.setRg (R.NET_WEIR.off m) (BitVec.ofNat 32 (getBits v 28 16 * 65536 + getBits v 12 0))).weirs m

/-- A queue takes a new size 2^k: its pointers become k + 1 bits wide and keep the fill. Frames that the new size cannot
hold are dropped, every one, and counted (DESIGN CHOICE, log entry 112). -/
def State.rxqResize (s : State) (m c k : Nat) : State :=
  let n := 2 ^ (k + 1)
  let fill := s.rxFill m c
  let rd := s.fget R.NET_RXQ_STATUS_rd_ptr m c % n
  let s1 := s.fset R.NET_RXQ_CFG_log2 k m c
  if fill ≤ 2 ^ k then
    (s1.fset R.NET_RXQ_STATUS_rd_ptr rd m c).fset R.NET_RXQ_STATUS_wr_ptr ((rd + fill) % n) m c
  else
    let s2 := (s.rxq m c).foldl (fun s _ => s.bumpF R.NET_RX_DROP_COUNT m c) s1
    ((s2.setRxq m c []).fset R.NET_RXQ_STATUS_rd_ptr 0 m c).fset R.NET_RXQ_STATUS_wr_ptr 0 m c

/-- A write of NET_RXQ_CFG: the size is written only while the MAC is off, discarded and counted otherwise (R327, R539),
and clamped to 4..12. -/
def State.rxqCfgWrite (s : State) (req : Requester) (m c : Nat) (v : Word) : State :=
  let k := clampN 4 12 (getBits v 19 16)
  let s1 := ((s.fset R.NET_RXQ_CFG_pause_count (b2n (v.getLsbD 31)) m c).fset R.NET_RXQ_CFG_thresh (getBits v 12 0) m c)
  let same := decide (k = s.rxLog m c)
  (if same then s1
    else if s.fbit R.NET_MAC_CFG_enable m then s1.accessErr true req (R.NET_RXQ_CFG.off m c)
    else s1.rxqResize m c k).weirs m

/-- A MAC's link comes up or goes down. -/
def State.linkChange (s : State) (m : Nat) (up : Bool) : State :=
  if !(s.domOn .net) then s
  else if up then (s.fset R.NET_MAC_STATUS_link 1 m).tryLaunch m
  else ((s.fset R.NET_MAC_STATUS_link 0 m).fset R.NET_MAC_STATUS_paused 0 m).fset R.NET_MAC_STATUS_pausing 0 m

end Sys2Proof.Machine
end

