-- ==== Sys2Proof/Machine/Symbols.lean ====
section
/-! DEFINITION. The line code of a Furrow link (R291, R292): the 8b/10b code of IEEE 802.3 Clause 36, its control symbols, and
the running disparity. A code group is a number of 10 bits whose highest bit is a, the first on the line. -/

namespace Sys2Proof.Machine

/-- A symbol before it is coded: a byte, or the control symbol Kx.y. -/
inductive Symbol where
  | data (b : Byte)
  | k (x y : Nat)
deriving DecidableEq, Repr

/-- The control symbols of R292. -/
def Symbol.idle : Symbol := .k 28 5
def Symbol.sof : Symbol := .k 27 7
def Symbol.eof : Symbol := .k 29 7
def Symbol.abort : Symbol := .k 30 7
def Symbol.turn : Symbol := .k 28 1
def Symbol.pong : Symbol := .k 28 6

/-- abcdei of Dx at negative disparity, x = 0..31. -/
def sixCodes : List Nat :=
  [0b100111, 0b011101, 0b101101, 0b110001, 0b110101, 0b101001, 0b011001, 0b111000] ++
  [0b111001, 0b100101, 0b010101, 0b110100, 0b001101, 0b101100, 0b011100, 0b010111] ++
  [0b011011, 0b100011, 0b010011, 0b110010, 0b001011, 0b101010, 0b011010, 0b111010] ++
  [0b110011, 0b100110, 0b010110, 0b110110, 0b001110, 0b101110, 0b011110, 0b101011]

/-- fghj of Dx.y at negative disparity, y = 0..7, apart from the alternate form of y = 7. -/
def fourCodes : List Nat := [0b1011, 0b1001, 0b0101, 0b1100, 0b1101, 0b1010, 0b0110, 0b1110]

/-- fghj of Kx.y at negative disparity; at positive disparity every bit is the other. -/
def controlFours : List Nat := [0b1011, 0b0110, 0b1010, 0b1100, 0b1101, 0b0101, 0b1001, 0b0111]

/-- The ones of a number of `n` bits. -/
def onesOf (n v : Nat) : Nat := ((List.range n).filter (fun i => v.testBit i)).length

/-- A sub-block of `n` bits at disparity `rd` (`true` positive): the other column is the complement, for a code that is not
balanced or that `flips`. -/
def column (n : Nat) (rd : Bool) (flips : Bool) (c : Nat) : Nat :=
  if rd && (flips || decide (2 * onesOf n c ≠ n)) then 2 ^ n - 1 - c else c

/-- The disparity after a sub-block. -/
def disparity (n : Nat) (rd : Bool) (c : Nat) : Bool :=
  if n < 2 * onesOf n c then true else if 2 * onesOf n c < n then false else rd

/-- The first six bits of a symbol. -/
def Symbol.six (rd : Bool) : Symbol → Nat
  | .data b => column 6 rd (b.toNat % 32 = 7) (sixCodes.getD (b.toNat % 32) 0)
  | .k x _ => column 6 rd true (if x = 28 then 0b001111 else sixCodes.getD x 0)

/-- Whether Dx.7 takes its alternate form. -/
def alternate (rd : Bool) (x : Nat) : Bool :=
  if rd then x = 11 || x = 13 || x = 14 else x = 17 || x = 18 || x = 20

/-- The last four bits, at the disparity after the first six. -/
def Symbol.four (rd : Bool) : Symbol → Nat
  | .data b =>
    if b.toNat / 32 = 7 && alternate rd (b.toNat % 32) then column 4 rd false 0b0111
    else column 4 rd (b.toNat / 32 = 3) (fourCodes.getD (b.toNat / 32) 0)
  | .k _ y => column 4 rd true (controlFours.getD y 0)

/-- A symbol's code group, and the disparity after it. -/
def Symbol.code (rd : Bool) (s : Symbol) : Nat × Bool :=
  let a := s.six rd
  let r := disparity 6 rd a
  let b := s.four r
  (16 * a + b, disparity 4 r b)

/-- The code groups of a run of symbols, and the disparity after it. -/
def codeGroups : Bool → List Symbol → List Nat × Bool
  | rd, [] => ([], rd)
  | rd, s :: l =>
    let c := s.code rd
    let r := codeGroups c.2 l
    (c.1 :: r.1, r.2)

end Sys2Proof.Machine
end

