-- ==== Sys2Proof/Machine/PortEntry.lean ====
section
/-! DEFINITION. What the Watermaster, the lines and the Furrow link share of a port: its entry and the timing that it gives (R260..R266),
the levels of its balls (R259), the symbols that a Furrow port sends (R291..R293), and the node map and node table (R316, R321). -/

namespace Sys2Proof.Machine

def pt0 (_ : Nat) : Port := {}

def State.port (s : State) (p : Nat) : Port := mget pt0 s.die.ports p
def State.setPort (s : State) (p : Nat) (v : Port) : State :=
  { s with die := { s.die with ports := mset pt0 s.die.ports p v } }

/-- The domain of a port's buffer and serializer (R258). -/
def portDomain (p : Nat) : Domain := if p / 32 < 4 then .latLo else .latHi

/-! ### Port entries (R260, R261, R318) -/

/-- Sixteen words of a port entry. -/
abbrev PEntry := Nat → Nat

/-- A port's entry in a view of class 0x11. -/
def Tabs.portEntry (t : Tabs) (p : Nat) : PEntry := fun w => t.word 0x11 (p / 32) (16 + 16 * (p % 32) + w)

def Tabs.sliceExpert (t : Tabs) (l : Nat) : Bool := bits (t.word 0x11 l 0) 31 31 = 1

/-- A port's live entry. -/
def Port.ent (v : Port) : PEntry := fun w => v.entry.getD w 0

def mREST : Nat := 0
def mDMX : Nat := 1
def mFURROW : Nat := 2
def mSW : Nat := 3
def mCLOCKED : Nat := 4
def mEXPERT : Nat := 5

/-- The mode that runs: REST while `enable` is 0. -/
def peMode (e : PEntry) : Nat := if bits (e 0) 31 31 = 1 then bits (e 0) 30 28 else mREST

/-- The mode whose line the port has: an EXPERT port's serializer decides. -/
def peLine (e : PEntry) : Nat :=
  if peMode e = mEXPERT then
    match bits (e 12) 17 16 with
    | 0 => mDMX
    | 1 => mSW
    | 2 => mCLOCKED
    | _ => mFURROW
  else peMode e

def peCustom (e : PEntry) : Bool := bits (e 0) 25 25 = 1
def peRdm (e : PEntry) : Bool := bits (e 0) 26 26 = 1
def pePreset (e : PEntry) : Nat := bits (e 0) 15 8
def pePixels (e : PEntry) : Nat := bits (e 1) 31 16
def peEmitters (e : PEntry) : Nat := bits (e 1) 15 12
def peBits (e : PEntry) : Nat := bits (e 1) 4 0
def peUniverse (e : PEntry) : Nat := bits (e 1) 31 18
def peSlots (e : PEntry) : Nat := bits (e 1) 9 0

/-- Whether the line's timing comes from words 2..7. An EXPERT port reads its timing as a port of its serializer's mode does. -/
def peTimed (e : PEntry) : Bool := peCustom e

/-- DMX timing in µs (R262). -/
def peBreak (e : PEntry) : Nat := if peTimed e then bits (e 2) 31 20 else if pePreset e = 1 then 92 else 176
def peMab (e : PEntry) : Nat := if peTimed e then bits (e 2) 19 8 else if pePreset e = 1 then 12 else 16
def peMark (e : PEntry) : Nat := if peTimed e then bits (e 2) 7 0 else 0
def peRdmTimeout (e : PEntry) : Nat := if bits (e 3) 31 16 = 0 then 2800 else bits (e 3) 31 16
def peRdmResp (e : PEntry) : Nat := if bits (e 3) 15 8 = 0 then 64 else bits (e 3) 15 8
def peRdmDefer (e : PEntry) : Nat := if bits (e 3) 7 4 = 0 then 4 else bits (e 3) 7 4

/-- SINGLE_WIRE bit period in ns, the high times of 0 and 1 in ns, and low time in µs. -/
def peBitNs (e : PEntry) : Nat := if peTimed e then 4 * bits (e 4) 31 20 else if pePreset e = 1 then 2500 else 1250
def peT0h (e : PEntry) : Nat := if peTimed e then 4 * bits (e 4) 19 10 else if pePreset e = 1 then 600 else 360
def peT1h (e : PEntry) : Nat := if peTimed e then 4 * bits (e 4) 9 0 else if pePreset e = 1 then 1800 else 880
def peResetUs (e : PEntry) : Nat := if peTimed e then bits (e 5) 31 16 else if pePreset e = 1 then 120 else 300

/-- CLOCKED timing. -/
def peClkDiv (e : PEntry) : Nat := if peTimed e then bits (e 6) 31 24 else if pePreset e = 1 then 50 else 20
def peStart (e : PEntry) : Nat := if peTimed e then bits (e 6) 23 20 else if pePreset e = 1 then 0 else 4
/-- The bits sent before each pixel of a CLOCKED port, from the most significant on (R261, R262). -/
def pePrefix (e : PEntry) : Nat := if peTimed e then bits (e 7) 31 16 else 0xFFFF
def pePrefixLen (e : PEntry) : Nat := if peTimed e then bits (e 6) 19 15 else if pePreset e = 1 then 0 else 8
def peClockIdle (e : PEntry) : Bool := if peTimed e then bits (e 6) 14 14 = 1 else pePreset e = 1
def peEndLen (e : PEntry) : Nat :=
  if peClockIdle e then 0 else if peTimed e then bits (e 7) 15 0 else max 32 (cdiv (pePixels e) 2)
def peIdleUs (e : PEntry) : Nat := if peClockIdle e then (if peTimed e then bits (e 7) 15 0 else 500) else 0

/-- RW of a Furrow port, in µs. -/
def peReturnUs (e : PEntry) : Nat := if bits (e 8) 27 16 = 0 then 1000 else bits (e 8) 27 16

/-- Bits of a SINGLE_WIRE or CLOCKED frame. -/
def peFrameBits (e : PEntry) : Nat :=
  if peLine e = mCLOCKED then 8 * peStart e + pePixels e * (pePrefixLen e + peEmitters e * peBits e) + peEndLen e
  else pePixels e * peEmitters e * peBits e

/-- Line bytes of R297. -/
def peLineBytes (e : PEntry) : Nat := cdiv (pePixels e * peEmitters e * peBits e) 8

/-- D in ns (R264, R297). -/
def peD (e : PEntry) : Nat :=
  let m := peLine e
  if m = mDMX then 1000 * (peBreak e + peMab e + (peSlots e + 1) * (44 + peMark e))
  else if m = mSW then peFrameBits e * peBitNs e
  else if m = mCLOCKED then peFrameBits e * peClkDiv e * 4
  else if m = mFURROW then 40 * (peLineBytes e + 16 * cdiv (peLineBytes e) 512 + 4096)
  else 0

/-- The low time after the commit event, in ns (R265). -/
def peLow (e : PEntry) : Nat :=
  if peLine e = mSW then 1000 * peResetUs e else if peLine e = mCLOCKED then 1000 * peIdleUs e else 0

/-! ### Balls (R259) -/

/-- The ports have sent their last: in the commit phase of a sleep, until which they carry black frames (R453); in that of an orderly
stop with `crit_hold` 1 (R471). -/
def State.portsEnded (s : State) : Bool :=
  decide (s.fget R.PM_STATE_phase = 2) && decide (2 ≤ s.fget R.PM_STATE_target) &&
    (s.power.stopAt.isNone || s.fbit R.TH_CTRL_crit_hold)

/-- Whether a port drives its balls. -/
def State.portDrives (s : State) (p : Nat) : Bool :=
  s.domOn (portDomain p) && s.fbit R.FL_CTRL_output_enable && s.drives && peMode (s.port p).ent ≠ mREST && !s.portsEnded

/-- The times of a port's mode, as `Wire` lists them. -/
def peTimes (e : PEntry) : List Nat :=
  let m := peLine e
  if m = mDMX then [peBreak e, peMab e, peMark e]
  else if m = mSW then [peBitNs e, peT0h e, peT1h e]
  else if m = mCLOCKED then [4 * peClkDiv e]
  else []

def peInvert (e : PEntry) : Bool := bits (e 0) 27 27 = 1

/-- How a port's line is shaped; `mark` where the launch-timed unit starts. -/
def Port.wire (v : Port) (mark : Option Nat := none) : Wire :=
  { invert := peInvert v.ent, rise := v.rise, fall := v.fall, times := peTimes v.ent, mark := mark }

/-- The levels of Pppp_TX and Pppp_DE between frames, as a port that drives them holds them; no level of Pppp_TX while symbols run.
DE is low while RDM listens and in the return window. -/
def Port.levels (v : Port) : Option Bool × Bool :=
  let m := peLine v.ent
  if m = mDMX then (some true, v.rdm.isNone)
  else if m = mFURROW then (none, !v.window)
  else if m = mSW then (some false, true)
  else (some false, false)

/-- What a ball shows: a level, a signal that moves, a released open-drain line, electrical idle, or high impedance (R446). -/
inductive Ball where
  | low | high | moving | released | idle | highZ
deriving DecidableEq, Repr

def ballOf (b : Bool) : Ball := if b then .high else .low

/-- Whether VIO33 is present, and VSER (R442). -/
def State.vio33 (s : State) : Bool := s.power.enables.getLsbD 3 && s.power.pgs.getLsbD 3
def State.vser (s : State) : Bool := s.power.enables.getLsbD 1 && s.power.pgs.getLsbD 1

/-- The balls of a port between frames, Pppp_TX and Pppp_DE. One that does not drive them shows those of REST; `tx_invert` inverts
Pppp_TX. Those of a domain that is off are held low by the pad keepers while VIO33 is present (R446). -/
def State.portBalls (s : State) (p : Nat) : Ball × Ball :=
  let v := s.port p
  if s.domOn (portDomain p) then
    let l := if s.portDrives p then v.levels else (some false, false)
    (l.1.elim .moving (fun b => ballOf (b != peInvert v.ent)), ballOf l.2)
  else if s.vio33 then (.low, .low)
  else (.highZ, .highZ)

/-- The PCIe and DisplayPort lanes, and a PMBus line, while their domain is off (R446); `moving` while it is on. -/
def State.laneBalls (s : State) : Ball := if s.domOn .host then .moving else if s.vser then .idle else .highZ
def State.pmbusBalls (s : State) : Ball := if s.domOn .sys then .moving else if s.vio33 then .released else .highZ

/-- A GATE_g ball: between pulses, and while PD_NET is off, it shows the inactive level of R380 (R446). A domain's D reset makes
`low_active` 0. -/
def State.gateBall (s : State) (g : Nat) : Ball :=
  if s.domOn .net || s.vio33 then ballOf (s.fbit R.TIM_GATE_CFG_low_active g) else .highZ

/-! ### Symbols of a Furrow port (R291..R293) -/

/-- CRC-32C of a Furrow frame's bytes, and the frame itself without its symbols (R293). -/
def furFrame (type flags address frame : Nat) (payload : List Byte) : List Byte :=
  let b := leBytes type 1 ++ leBytes flags 1 ++ leBytes address 2 ++ leBytes payload.length 2 ++ leBytes frame 2 ++ payload
  b ++ leBytes (crcOf crc32c b) 4

/-- The symbols of a frame from SOF to EOF, and `fill` IDLE symbols after it. -/
def furSymbols (b : List Byte) (fill : Nat) : List Symbol :=
  .sof :: b.map Symbol.data ++ .eof :: List.replicate fill .idle

/-- Symbols leave a port behind the fill that has kept the line running, with correct running disparity. -/
def State.sendSymbols (s : State) (p : Nat) (l : List Symbol) : State :=
  let (n, s1) := s.fresh
  let c := codeGroups (s1.port p).rd (List.replicate (Config.idleFill n) .idle ++ l)
  (s1.setPort p { s1.port p with rd := c.2 }).emit (.symbols p (s1.port p).wire c.1)

/-- Send a Furrow frame of the frame in read-out, while the port drives its line. -/
def State.furSend (s : State) (p type flags addr : Nat) (payload : List Byte) (fill : Nat := 0) : State :=
  if s.portDrives p then s.sendSymbols p (furSymbols (furFrame type flags addr (s.readFrame % 65536) payload) fill) else s

/-! ### Nodes (R316, R321) -/

/-- A node map entry (R316). -/
def Tabs.nodeW (t : Tabs) (p n w : Nat) : Nat := t.word 0x12 (p / 32) (2048 * (p % 32) + 2 * n + w)
def Tabs.nodeOk (t : Tabs) (p n : Nat) : Bool := bits (t.nodeW p n 0) 31 31 = 1
def Tabs.nodeFirst (t : Tabs) (p n : Nat) : Nat := bits (t.nodeW p n 0) 30 16
def Tabs.nodePixels (t : Tabs) (p n : Nat) : Nat := bits (t.nodeW p n 0) 6 0

/-- The nodes of a port with a valid entry. -/
def Tabs.nodes (t : Tabs) (p : Nat) : List Nat := (List.range 1024).filter (fun n => t.nodeOk p n)

/-- Those of them that the class holds anything for, without a search of all 1,024. -/
def Tabs.nodesListed (t : Tabs) (p : Nat) : List Nat :=
  (((t 0x12 (p / 32)).filterMap (fun e =>
    if e.1 / 8192 = p % 32 then some (e.1 % 8192 / 8) else none)).eraseReps).filter (fun n => t.nodeOk p n)

/-- The node that takes a port pixel. -/
def Tabs.nodeOfPixel (t : Tabs) (p i : Nat) : Option Nat :=
  (t.nodes p).find? (fun n => decide (t.nodeFirst p n ≤ i ∧ i < t.nodeFirst p n + t.nodePixels p n))

def nd0 (_ : Nat) : Node := {}
def nodeKey (p n : Nat) : Nat := 1024 * p + n
def State.node (s : State) (p n : Nat) : Node := mget nd0 s.nodes (nodeKey p n)

/-- The 32 bytes of a node in the node table. DESIGN CHOICE: the spec gives what they hold and no layout (log entry 93). -/
def Node.bytes (v : Node) : List Byte :=
  leBytes v.uid 6 ++ leBytes v.model 4 ++ leBytes v.channels 1 ++ leBytes v.caps 1 ++ leBytes v.tMin 2 ++ leBytes v.tPwm 4 ++
    leBytes v.fwd 2 ++ leBytes v.delay 4 ++ leBytes v.hop 2 ++ leBytes v.crcErrors 2 ++
    leBytes (b2n v.heard + 2 * b2n v.configured) 1 ++ [0, 0, 0]

/-- Where a node's bytes stand in the Reservoir. -/
def State.nodeAt (s : State) (p n : Nat) : Nat := s.fget R.FUR_NODE_BASE_base_64k * 65536 + 32 * nodeKey p n

/-- What the device knows of a node, and with it the node's bytes in the node table. -/
def State.setNode (s : State) (p n : Nat) (v : Node) : State :=
  ({ s with nodes := mset nd0 s.nodes (nodeKey p n) v }).resPut (s.nodeAt p n) v.bytes

end Sys2Proof.Machine
end

