-- ==== Sys2Proof/Machine/Watermaster.lean ====
section
/-! DEFINITION. The Watermaster (chapter 8): loads and power models, the feeder tree, supply zones and their commands,
legibility groups, the values that read-out sends, and the checks of a COMMIT of scope WATERMASTER. -/

namespace Sys2Proof.Machine

/-! ### Loads (R234..R237) -/

def Tabs.fixW (t : Tabs) (f w : Nat) : Nat := t.word 0x01 0 (8 * f + w)

/-- A fixture that is a load. -/
def Tabs.fixLoad (t : Tabs) (f : Nat) : Bool := bits (t.fixW f 0) 31 31 = 1 && bits (t.fixW f 4) 31 31 = 1

/-- The offset of emitter `j`'s slot. -/
def Tabs.fixOff (t : Tabs) (f j : Nat) : Nat := bits (t.fixW f (5 + j / 3)) (10 * (j % 3) + 9) (10 * (j % 3))

def Tabs.fixEmitters (t : Tabs) (f : Nat) : Nat := bits (t.fixW f 7) 31 28

/-- The slot of emitter `j`. -/
def Tabs.fixSlot (t : Tabs) (f j : Nat) : Nat := bits (t.fixW f 0) 22 0 + t.fixOff f j

def Tabs.fixLoads (t : Tabs) : List Nat := (t.entries 0x01 0 32).filter (fun f => t.fixLoad f)

/-- Code 10 LOAD_BAD of R154. -/
def Tabs.loadBad (t : Tabs) : List Nat :=
  t.fixLoads.filter (fun f =>
    bits (t.fixW f 4) 28 26 ≠ 0 || bits (t.fixW f 4) 15 8 ≠ 0 || bits (t.fixW f 5) 31 30 ≠ 0 ||
      bits (t.fixW f 6) 31 30 ≠ 0 || bits (t.fixW f 7) 27 20 ≠ 0 || bits (t.fixW f 4) 30 29 = 3 ||
      decide (8 < t.fixEmitters f) ||
      (List.range (min 8 (t.fixEmitters f))).any (fun j =>
        decide (bits (t.fixW f 1) 10 0 ≤ t.fixOff f j) || !(hasParams (t.role (t.fixSlot f j)))))

/-- Class 0x0B: word `w` of feeder, model or run. -/
def Tabs.fdW (t : Tabs) (f w : Nat) : Nat := t.word 0x0B 0 (4 * f + w)
def Tabs.modelW (t : Tabs) (m w : Nat) : Nat := t.word 0x0B 0 (4096 + 16 * m + w)
def Tabs.runW (t : Tabs) (r w : Nat) : Nat := t.word 0x0B 0 (8192 + 4 * r + w)
def Tabs.curveW (t : Tabs) (m w : Nat) : Nat := t.word 0x42 0 (144 * m + w)

def Tabs.runOk (t : Tabs) (r : Nat) : Bool := bits (t.runW r 0) 31 31 = 1
def Tabs.runClass (t : Tabs) (r : Nat) : Nat := bits (t.runW r 0) 30 29
def Tabs.runFeeder (t : Tabs) (r : Nat) : Nat := bits (t.runW r 0) 25 16
def Tabs.runPort (t : Tabs) (r : Nat) : Nat := bits (t.runW r 0) 15 8
def Tabs.runModel (t : Tabs) (r : Nat) : Nat := bits (t.runW r 0) 7 0
def Tabs.runFirst (t : Tabs) (r : Nat) : Nat := bits (t.runW r 1) 31 17
def Tabs.runCount (t : Tabs) (r : Nat) : Nat := bits (t.runW r 1) 16 0
def Tabs.runZoned (t : Tabs) (r : Nat) : Bool := bits (t.runW r 2) 31 31 = 1
def Tabs.runZone (t : Tabs) (r : Nat) : Nat := bits (t.runW r 2) 23 16
def Tabs.runVZero (t : Tabs) (r : Nat) : Nat := bits (t.runW r 2) 15 0
def Tabs.runVFull (t : Tabs) (r : Nat) : Nat := bits (t.runW r 3) 31 16

/-- The runs in use. -/
def Tabs.runs (t : Tabs) : List Nat :=
  (((t 0x0B 0).filterMap (fun e => if 32768 ≤ e.1 then some ((e.1 - 32768) / 16) else none)).eraseReps).filter
    (fun r => t.runOk r)

/-- Whether a pixel key lies in a run. -/
def Tabs.inRun (t : Tabs) (r key : Nat) : Bool :=
  key / 32768 = t.runPort r && decide (t.runFirst r ≤ key % 32768 ∧ key % 32768 < t.runFirst r + t.runCount r)

/-- Point `k` of an Expert curve's x axis. -/
def curveX (k : Nat) : Nat := min 65535 (4096 * k)

/-- p_j of model `m` (R237). -/
def Tabs.power (t : Tabs) (m j v : Nat) : Nat :=
  if bits (t.curveW m 0) 31 31 = 1 then
    let k := min 15 (v / 4096)
    let p (i : Nat) : Nat := t.curveW m (1 + 17 * j + i)
    p k + (p (k + 1) - p k) * (v - curveX k) / (curveX (k + 1) - curveX k)
  else t.modelW m (1 + j) * v / 65535

/-- The drive part of a load from its emitters' values in order. -/
def Tabs.drive (t : Tabs) (m : Nat) : List Nat → Nat → Nat
  | [], _ => 0
  | v :: l, j => t.power m j v + t.drive m l (j + 1)

/-- A fixture slot's final value before `invert` (R145), as the member pass ran: with `eval_enable` 0 its default (R158). -/
def State.preInvert (s : State) (n : Nat) : Nat :=
  let d := s.live.slot n
  if s.fabric.evaluated then (if d.invert then 65535 - s.finalValue n else s.finalValue n) else d.dflt

/-- A load's class, feeder, idle power and drive power, in µW. -/
structure Draw where
  cls : Nat
  feeder : Nat
  idle : Nat
  drive : Nat
deriving DecidableEq, Repr

/-- Every load of the frame being staged. -/
def State.draws (s : State) : List Draw :=
  let t := s.live
  t.fixLoads.map (fun f =>
    let m := bits (t.fixW f 4) 7 0
    { cls := bits (t.fixW f 4) 30 29, feeder := bits (t.fixW f 4) 25 16, idle := t.modelW m 0
      drive := t.drive m ((List.range (t.fixEmitters f)).map (fun j => s.preInvert (t.fixSlot f j))) 0 : Draw }) ++
  t.runs.map (fun r =>
    let m := t.runModel r
    { cls := t.runClass r, feeder := t.runFeeder r, idle := t.modelW m 0
      drive := (s.cmp.pixels.filter (fun e => t.inRun r e.1)).foldl (fun a e => a + t.drive m e.2 0) 0 : Draw })

/-! ### The feeder tree (R238, R239) -/

def Tabs.fdOk (t : Tabs) (f : Nat) : Bool := bits (t.fdW f 0) 31 31 = 1
def Tabs.fdHasParent (t : Tabs) (f : Nat) : Bool := bits (t.fdW f 0) 30 30 = 1
def Tabs.fdParent (t : Tabs) (f : Nat) : Nat := bits (t.fdW f 0) 29 20
def Tabs.fdRamp (t : Tabs) (f : Nat) : Nat := t.fdW f 3

/-- B_f in mW. -/
def Tabs.budget (t : Tabs) (f : Nat) : Nat := t.fdW f 1 * bits (t.fdW f 2) 31 16 / 10

def Tabs.feeders (t : Tabs) : List Nat := (List.range 1024).filter (fun f => t.fdOk f)

/-- Feeders in a chain from `f` to its root, at most `n`. -/
def Tabs.fdDepth (t : Tabs) : Nat → Nat → Nat
  | 0, _ => 0
  | n + 1, f => if t.fdHasParent f then 1 + t.fdDepth n (t.fdParent f) else 1

/-- Children first: deepest chain position first, then ascending number. -/
def Tabs.fdOrder (t : Tabs) : List Nat :=
  [4, 3, 2, 1].flatMap (fun d => t.feeders.filter (fun f => t.fdDepth 5 f = d))

/-- One feeder's sums and factors. -/
structure Calc where
  ks : Nat := 65536
  kn : Nat := 65536
  lu : Nat := 0
  ls : Nat := 0
  ln : Nat := 0
  u : Nat := 0
  a : Nat := 0
  b : Nat := 0
  excess : Bool := false
deriving DecidableEq, Repr

/-- The branch of R239 for one feeder. -/
def calcOf (u a b cap : Nat) : Calc :=
  let k : Nat × Nat × Bool :=
    if cap ≤ u then (0, 0, true)
    else if cap ≤ u + b then (0, (cap - u) * 65536 / b, false)
    else if cap < u + b + a then ((cap - u - b) * 65536 / a, 65536, false)
    else (65536, 65536, false)
  { ks := k.1, kn := k.2.1, lu := u, ls := a * k.1 / 65536, ln := b * k.2.1 / 65536, u := u, a := a, b := b,
    excess := k.2.2 }

def fd0 (_ : Nat) : Feeder := {}
def calc0 (_ : Nat) : Calc := {}
def zn0 (_ : Nat) : Zone := {}
def mb0 (_ : Nat) : Member := {}

def State.feeder (s : State) (f : Nat) : Feeder := mget fd0 s.water.feeders f

/-- The calculations of a frame, children first. -/
def State.calcs (s : State) (draws : List Draw) : List (Nat × Calc) :=
  let t := s.live
  t.fdOrder.foldl (fun acc f =>
    let mine := draws.filter (fun d => d.feeder = f)
    let kids := acc.filter (fun e => t.fdHasParent e.1 && t.fdParent e.1 = f)
    let sum (g : Draw → Nat) : Nat := mine.foldl (fun n d => n + g d) 0
    let ksum (g : Calc → Nat) : Nat := kids.foldl (fun n e => n + g e.2) 0
    let u := sum (fun d => d.idle + if d.cls = 2 then d.drive else 0) + ksum Calc.lu
    let a := sum (fun d => if d.cls = 1 then d.drive else 0) + ksum Calc.ls
    let b := sum (fun d => if d.cls = 0 then d.drive else 0) + ksum Calc.ln
    let prev := if (s.feeder f).fresh then u + a + b else (s.feeder f).sent
    let cap0 := 1000 * t.budget f
    let cap := if t.fdRamp f = 0 then cap0 else min cap0 (prev + 1000 * t.fdRamp f)
    acc ++ [(f, calcOf u a b cap)]) []

/-- The effective factors and delivered powers, parents first. -/
def feederResults (t : Tabs) (cs : List (Nat × Calc)) : List (Nat × Feeder) :=
  cs.reverse.foldl (fun acc e =>
    let (f, c) := e
    let par := if t.fdHasParent f then mget fd0 acc (t.fdParent f) else {}
    mset fd0 acc f
      { ks := c.ks, kn := c.kn, es := c.ks * par.es / 65536, en := c.kn * par.en / 65536,
        sent := c.lu + c.ls * par.es / 65536 + c.ln * par.en / 65536 }) []

def State.setFeeders (s : State) (l : List (Nat × Feeder)) : State := { s with water := { s.water with feeders := l } }

/-- The tree of a staged frame (R239, R241, R243). While `wm_enable` is 0, every factor is 65,536. -/
def State.wmTree (s : State) : State :=
  let ds := s.draws
  let unfed := (ds.filter (fun d => !(s.live.fdOk d.feeder))).length
  if s.fbit R.WM_CTRL_wm_enable then
    let cs := s.calcs ds
    let s1 := s.setFeeders (feederResults s.live cs)
    let ov := (cs.filter (fun e => e.2.excess)).map (fun e => e.1)
    let s2 := ov.foldl (fun s f => (s.bumpF R.WM_PROTECTED_OVER_COUNT).report 0x05 f) s1
    ((s2.fset R.WM_STATUS_over_last (b2n (ov ≠ []))).fset R.WM_SCALED_LAST_feeders
      (cs.filter (fun e => decide (e.2.ks < 65536 ∨ e.2.kn < 65536))).length).fset R.WM_UNFED_LAST unfed
  else
    (((s.setFeeders (s.water.feeders.filter (fun e => e.2.fresh))).fset R.WM_STATUS_over_last 0).fset
      R.WM_SCALED_LAST_feeders 0).fset R.WM_UNFED_LAST unfed

/-- The factor of a load (R240, R243). -/
def State.factor (s : State) (cls feeder : Nat) : Nat :=
  if s.fbit R.WM_CTRL_wm_enable && s.live.fdOk feeder then
    if cls = 0 then (s.feeder feeder).en else if cls = 1 then (s.feeder feeder).es else 65536
  else 65536

def scaleV (v e : Nat) : Nat := (v * e + 32768) / 65536

/-! ### Supply zones (R244..R248) -/

def Tabs.zoneW (t : Tabs) (z w : Nat) : Nat := t.word 0x0C 0 (8 * z + w)
def Tabs.zoneOk (t : Tabs) (z : Nat) : Bool := bits (t.zoneW z 0) 31 31 = 1
def Tabs.zonePath (t : Tabs) (z : Nat) : Nat := bits (t.zoneW z 0) 30 29
def Tabs.zoneMin (t : Tabs) (z : Nat) : Nat := bits (t.zoneW z 2) 31 16
def Tabs.zoneMax (t : Tabs) (z : Nat) : Nat := bits (t.zoneW z 2) 15 0
def Tabs.zoneMargin (t : Tabs) (z : Nat) : Nat := bits (t.zoneW z 3) 31 16
def Tabs.zoneStep (t : Tabs) (z : Nat) : Nat := bits (t.zoneW z 3) 15 0
def Tabs.zones (t : Tabs) : List Nat := (List.range 256).filter (fun z => t.zoneOk z)

/-- The PMBus word of a set-point: ceil(v · 2^(−N) / 1,000). -/
def Tabs.pmWord (t : Tabs) (z v : Nat) : Nat :=
  let n := sint (bits (t.zoneW z 4) 4 0) 5
  if n < 0 then cdiv (v * 2 ^ (-n).toNat) 1000 else cdiv v (1000 * 2 ^ n.toNat)

def State.zone (s : State) (z : Nat) : Zone := mget zn0 s.water.zones z
def State.setZone (s : State) (z : Nat) (v : Zone) : State :=
  { s with water := { s.water with zones := mset zn0 s.water.zones z v } }

/-- The largest scaled emitter value of a run in the frame being staged. -/
def State.runPeak (s : State) (r : Nat) : Nat :=
  let t := s.live
  let e := s.factor (t.runClass r) (t.runFeeder r)
  (s.cmp.pixels.filter (fun p => t.inRun r p.1)).foldl (fun m p => p.2.foldl (fun m v => max m (scaleV v e)) m) 0

/-- The need of a zone (R245). -/
def State.zoneNeed (s : State) (z : Nat) : Nat :=
  let t := s.live
  let rs := t.runs.filter (fun r => t.runZoned r && t.runZone r = z)
  let need0 := match rs with
    | [] => t.zoneMin z
    | _ => rs.foldl (fun m r => max m (t.runVZero r + (t.runVFull r - t.runVZero r) * s.runPeak r / 65535)) 0
  let need1 := need0 + t.zoneMargin z
  let need2 := if t.zoneMin z < need1 then
      t.zoneMin z + t.zoneStep z * cdiv (need1 - t.zoneMin z) (t.zoneStep z) else need1
  clampN (t.zoneMin z) (t.zoneMax z) need2

/-- Every value is sent as 0: in a sleep's black from the first frame staged in it, the black frame, on (R453), and at the end of an
orderly stop. -/
def State.asBlack (s : State) : Bool := decide (s.water.black = 1) && s.water.blackFrame.isSome

/-- The first frame staged in a sleep's black is the black frame. -/
def State.markBlack (s : State) (frame : Nat) : State :=
  if s.water.black = 1 ∧ s.water.blackFrame = none then { s with water := { s.water with blackFrame := some frame } } else s

/-- The staging deadline of a frame for one zone: its need, and a rise of H (R246). In the sleep black a zone needs
`v_min_mv` only (R453). -/
def State.zoneStage (s : State) (frame z : Nat) : State :=
  let v := s.zone z
  let need := if s.asBlack then s.live.zoneMin z else s.zoneNeed z
  let v1 := { v with prev := v.need, need := need }
  s.setZone z (if s.fbit R.WM_CTRL_supply_enable && decide (v.h < need) then
    { v1 with h := need, rise := some (v.rise.getD frame) } else v1)

def State.bus (s : State) (b : Nat) : List Supply := if b = 0 then s.water.bus0 else s.water.bus1
def State.setBus (s : State) (b : Nat) (l : List Supply) : State :=
  if b = 0 then { s with water := { s.water with bus0 := l } } else { s with water := { s.water with bus1 := l } }

/-- The CRC-8 of SMBus, x^8 + x^2 + x + 1 from 0 (PRESUMED; log entry 94). -/
def crc8 : CrcP := ⟨8, 0x07, 0, 0, false, false⟩

/-- One write on a PMBus bus; with `pec` its packet error code covers the address byte, the command and the data (R244). -/
def State.pmWrite (s : State) (b : Nat) (pec : Bool) (addr code : Nat) (data : List Byte) : State :=
  s.emit (.pmbus b addr code data
    (if pec then some (BitVec.ofNat 8 (crcOf crc8 (leBytes (2 * addr) 1 ++ leBytes code 1 ++ data))) else none))

/-- One command's transfers on its bus (R247). -/
def State.pmSend (s : State) (b : Nat) (c : Supply) : State :=
  let t := s.live
  let addr := bits (t.zoneW c.zone 0) 7 1
  let page := bits (t.zoneW c.zone 0) 15 8
  let pec : Bool := bits (t.zoneW c.zone 0) 28 28 = 1
  let s1 := if page = 255 then s else s.pmWrite b pec addr 0x00 (leBytes page 1)
  s1.pmWrite b pec addr 0x21 (leBytes (t.pmWord c.zone c.value) 2)

/-- A command starts: it is outstanding (R257). -/
def Zone.start (v : Zone) (cmd : Nat) : Zone := { v with pending := true, begun := max v.begun (cmd + 1) }

/-- The bus starts its head command. A device that does not drive sends nothing (R255). -/
def State.busStart (s : State) (b : Nat) : State :=
  match s.bus b with
  | [] => s
  | c :: _ => if s.drives then (s.pmSend b c).setZone c.zone ((s.zone c.zone).start c.cmd) else s

/-- The SUPPLY frame of a command (R311). It belongs to the frame in read-out. -/
def State.furSupply (s : State) (c : Supply) : State :=
  s.furSend c.port 0x05 (if c.rising then 2 else 0) c.node (leBytes c.value 2 ++ leBytes c.seq 1 ++ [0])

/-- Send a zone's set-point H on its path. A bus that is not enabled runs nothing. -/
def State.zoneSend (s : State) (z : Nat) (rising : Bool) : State :=
  if s.drives then
    let t := s.live
    let v := s.zone z
    let v1 := { v with cmds := v.cmds + 1, riseCmd := if rising then some v.cmds else v.riseCmd }
    let c : Supply := { zone := z, value := v.h, cmd := v.cmds, rising := rising }
    if t.zonePath z ≤ 1 then
      let b := t.zonePath z
      if s.fbit R.WM_PMBUS_CFG_enable b then
        let idle := s.bus b = []
        let s1 := (s.setZone z v1).setBus b (s.bus b ++ [c])
        if idle then s1.busStart b else s1
      else s
    else
      let c1 := { c with port := bits (t.zoneW z 1) 31 24, node := bits (t.zoneW z 1) 23 14, seq := (v.seq + 1) % 256 }
      let s1 := s.setZone z (({ v1 with seq := (v.seq + 1) % 256 } : Zone).start v.cmds)
      ({ s1 with water := { s1.water with supply := s1.water.supply ++ [c1] } }).furSupply c1
  else s

/-- Whether a zone's rising set-point falls due before the next frame instant. -/
def State.riseDue (s : State) (z : Nat) : Bool := (s.zone z).rise.any (fun n => decide (n ≤ s.frame + 1))

/-- A zone's rising set-point goes out. -/
def State.sendRise (s : State) (z : Nat) : State := (s.setZone z { s.zone z with rise := none }).zoneSend z true

/-- SUPPLY_RISE_SEND (R246). -/
def State.supplyRise (s : State) : State :=
  if s.fbit R.WM_CTRL_supply_enable then
    (s.live.zones.filter (fun z => s.riseDue z)).foldl (fun s z => s.sendRise z) s
  else s

def execSupplyRiseSend (s : State) : Host.Outcome State Fault Refusal := .next s.supplyRise.settle

/-- The black frame of a sleep has reached light (R453). -/
def State.blackLit (s : State) : Bool := s.water.blackFrame.any (fun b => decide (b ≤ s.frame))

/-- `v_min_mv` of a sleep goes out with the falling commands behind the black frame's T_f (R453). -/
def State.noteMin (s : State) : State :=
  if s.water.minSent = none && s.blackLit then
    { s with water := { s.water with minSent := some s.now } }
  else s

/-- A zone's falling set-point goes out, unless a frame to come needs a rise. -/
def State.sendFall (s : State) (z : Nat) : State :=
  let v := s.zone z
  let m := max v.prev v.need
  if m < v.h ∧ v.rise = none then (s.setZone z { v with h := m }).zoneSend z false else s

/-- SUPPLY_FALL_SEND (R246): at T_f(N) + G, unless N was repeated. -/
def State.supplyFall (s : State) : State :=
  if s.fbit R.WM_CTRL_supply_enable && !(s.fbit R.GLB_FRAME_STATUS_repeat_last) then
    (s.live.zones.foldl (fun s z => s.sendFall z) s).noteMin
  else s

def execSupplyFallSend (s : State) : Host.Outcome State Fault Refusal := .next s.supplyFall.settle

/-- A zone's mark and cap end. -/
def State.clearZoneFault (s : State) (z : Nat) : State :=
  s.fset R.WM_ZONE_FAULT (s.fget R.WM_ZONE_FAULT (z / 32) - s.fget R.WM_ZONE_FAULT (z / 32) / 2 ^ (z % 32) % 2 * 2 ^ (z % 32))
    (z / 32)

/-- A command is acknowledged: H_ack, and the end of the zone's mark and cap. A later command that has started is still outstanding,
and an earlier one counts as acknowledged with it (R257). -/
def State.zoneAck (s : State) (z cmd value : Nat) : State :=
  let v := s.zone z
  ((s.setZone z { v with
      ack := some value, riseCmd := v.riseCmd.filter (fun k => decide (cmd < k)),
      pending := v.pending && decide (cmd + 1 < v.begun) }).clearZoneFault z).ledgerAdd 0x0A z [1, cmd, value]

def State.zoneFaulted (s : State) (z : Nat) : Bool := s.fget R.WM_ZONE_FAULT (z / 32) / 2 ^ (z % 32) % 2 = 1

/-- A command has failed with its repeat: the zone is marked. A zone that never acknowledged has no H_ack: a free value. -/
def State.zoneFail (s : State) (z : Nat) : State :=
  let v := s.zone z
  let (n, s1) := s.fresh
  let s2 := if v.ack = none then s1.setZone z { v with ack := some (Config.ackNone n % 65536) } else s
  ((s2.fset R.WM_ZONE_FAULT (s2.fget R.WM_ZONE_FAULT (z / 32) ||| 2 ^ (z % 32)) (z / 32)).report 0x07 z).ledgerAdd
    0x0A z [0]

/-- PMBUS_COMMAND_DONE: the head command of a bus was acknowledged, or not at some byte. -/
def State.pmDone (s : State) (b : Nat) (ack : Bool) : State :=
  match s.bus b with
  | [] => s
  | c :: q =>
    if ack then ((s.setBus b q).zoneAck c.zone c.cmd c.value).busStart b
    else
      let s1 := s.bumpF R.WM_PMBUS_NACK_COUNT
      if c.again then ((s1.setBus b q).zoneFail c.zone).busStart b
      else (s1.setBus b ({ c with again := true } :: q)).busStart b

def execPmbusCommandDone (bus : Fin 2) (ack : Bool) (s : State) : Host.Outcome State Fault Refusal :=
  .next (s.pmDone bus ack).settle

/-- Rising commands of the frame whose instant comes that nothing has acknowledged (R248). -/
def State.supplyLate (s : State) : State :=
  s.live.zones.foldl (fun s z =>
    if (s.zone z).riseCmd.isSome then
      ((s.setZone z { s.zone z with riseCmd := none }).bumpF R.WM_SUPPLY_LATE_COUNT).report 0x06 z
    else s) s

/-- The cap of a run under a silent supply, fixed at a staging deadline. -/
def State.runCap (s : State) (r : Nat) : Option Nat :=
  let t := s.live
  let z := t.runZone r
  if t.runZoned r && s.zoneFaulted z then
    let h : Int := (s.zone z).ack.getD 0
    let top := (h - t.zoneMargin z - t.runVZero r) * 65535
    if t.runVFull r = t.runVZero r then some (Config.capFlat r % 65536)
    else some (clampI 0 65535 (top / ((t.runVFull r : Int) - t.runVZero r))).toNat
  else none

/-! ### Legibility groups (R249..R253) -/

def Tabs.grpW (t : Tabs) (g w : Nat) : Nat := t.word 0x0D 0 (4 * g + w)
def Tabs.memW (t : Tabs) (m w : Nat) : Nat := t.word 0x0D 0 (16384 + 2 * m + w)
def Tabs.grpOk (t : Tabs) (g : Nat) : Bool := bits (t.grpW g 0) 31 31 = 1
def Tabs.grpBit (t : Tabs) (g b : Nat) : Bool := bits (t.grpW g 0) b b = 1
/-- The group and the member entries that hold anything. -/
def Tabs.grpAll (t : Tabs) : List Nat := ((t 0x0D 0).filterMap (fun e => if e.1 < 65536 then some (e.1 / 16) else none)).eraseReps
def Tabs.memAll (t : Tabs) : List Nat :=
  ((t 0x0D 0).filterMap (fun e => if 65536 ≤ e.1 then some ((e.1 - 65536) / 8) else none)).eraseReps

def Tabs.memOk (t : Tabs) (m : Nat) : Bool := bits (t.memW m 0) 31 31 = 1

/-- The groups and the member entries in use. -/
def Tabs.legGroups (t : Tabs) : List Nat := t.grpAll.filter (fun g => t.grpOk g)
def Tabs.memEntries (t : Tabs) : List Nat := t.memAll.filter (fun m => t.memOk m)

def Tabs.memGroup (t : Tabs) (m : Nat) : Nat := bits (t.memW m 0) 27 16
def Tabs.memPort (t : Tabs) (m : Nat) : Nat := bits (t.memW m 0) 15 8
def Tabs.memFirst (t : Tabs) (m : Nat) : Nat := bits (t.memW m 1) 31 17
def Tabs.memCount (t : Tabs) (m : Nat) : Nat := bits (t.memW m 1) 16 0

/-- The pixel keys of a member entry. A port has no pixel from 32,768 on. -/
def Tabs.memKeys (t : Tabs) (m : Nat) : List Nat :=
  (List.range (min (t.memCount m) (32768 - t.memFirst m))).map (fun i => 32768 * t.memPort m + t.memFirst m + i)

/-- The pixel keys of a group, in member-entry order. -/
def Tabs.grpKeys (t : Tabs) (g : Nat) : List Nat := (t.memEntries.filter (fun m => t.memGroup m = g)).flatMap (fun m => t.memKeys m)

/-- Whether a pixel is a member of some group. -/
def Tabs.isMember (t : Tabs) (key : Nat) : Bool :=
  t.memEntries.any (fun m => t.memPort m = key / 32768 &&
    decide (t.memFirst m ≤ key % 32768 ∧ key % 32768 < t.memFirst m + t.memCount m))

def State.member (s : State) (key : Nat) : Member := mget mb0 s.water.members key
def State.setMember (s : State) (key : Nat) (v : Member) : State :=
  { s with water := { s.water with members := mset mb0 s.water.members key v } }

/-- The emitters that a pixel's profile fills: those of the profile of its map entry, if that is loaded and valid. -/
def State.filled (s : State) (key : Nat) : Nat :=
  let t := s.live
  let rows (c k : Nat) : Nat :=
    let p := t.mapProfile c k
    if s.fbit R.CLR_STATUS_profiles_loaded && t.profValid p then (s.profRows (t.cvSpace c) p).length else 0
  ((List.range 4).filterMap (fun c => ((t.mapEntries c).find? (fun k => t.mapKey c k = key)).map (fun k => rows c k))).head?.getD 0

/-- Frames since every filled emitter was last measured good; `none` where one never was. -/
def State.memberAge (s : State) (frame key : Nat) : Option Nat :=
  let m := s.member key
  (List.range (s.filled key)).foldl (fun a e =>
    match a with
    | none => none
    | some n => let g := mget nat0 m.good e; if g = 0 then none else some (max n (frame + 1 - g))) (some 0)

/-- A pixel's node has sent nothing in four windows running, whether the node table lists it or not. -/
def State.memberSilent (s : State) (key : Nat) : Bool :=
  (s.live.nodeOfPixel (key / 32768) (key % 32768)).any (fun n =>
    (s.node (key / 32768) n).reported || decide (4 ≤ mget nat0 s.water.mute (nodeKey (key / 32768) n)))

def State.memberFailed (s : State) (key : Nat) : Bool := (s.member key).bad ≠ [] || s.memberSilent key

/-- UNVERIFIED: not FAILED, and some emitter not measured within `interval` frames. -/
def State.memberUnverified (s : State) (frame key : Nat) : Bool :=
  !(s.memberFailed key) && (match s.memberAge frame key with
    | none => true
    | some a => decide (s.water.interval ≤ a))

def State.grpFailed (s : State) (g : Nat) : Bool := s.fget R.WM_LEG_FAILED (g / 32) / 2 ^ (g % 32) % 2 = 1

def State.setGrpFailed (s : State) (g : Nat) (b : Bool) : State :=
  let w := s.fget R.WM_LEG_FAILED (g / 32)
  let bit := 2 ^ (g % 32)
  s.fset R.WM_LEG_FAILED (if b then w ||| bit else w - w / bit % 2 * bit) (g / 32)

/-- A group's state at a staging deadline (R250, R251). -/
def State.grpStage (s : State) (frame g : Nat) : State :=
  let t := s.live
  let ks := t.grpKeys g
  let fails := ks.any (fun k => s.memberFailed k) ||
    (t.grpBit g 29 && ks.any (fun k => s.memberUnverified frame k))
  let old := s.grpFailed g
  let new := fails || (t.grpBit g 28 && old && !(s.water.acks.contains g))
  let s1 := s.setGrpFailed g new
  if new && !old then (s1.bumpF R.WM_LEG_FAIL_COUNT).report 0x08 g else s1

/-- Whether a group's members send 0 in the frame read out (R251). -/
def State.grpDark (s : State) (g : Nat) : Bool :=
  let t := s.live
  s.grpFailed g || (t.grpBit g 27 && !(s.grpFailed (bits (t.grpW g 0) 11 0)))

/-- Group states, dark groups and acknowledgements at a staging deadline. -/
def State.legStage (s : State) (frame : Nat) : State :=
  let gs := s.live.legGroups
  let s1 := gs.foldl (fun s g => s.grpStage frame g) s
  { s1 with water := { s1.water with
      acks := [], dark := if s1.fbit R.WM_CTRL_legibility_enable then gs.filter (fun g => s1.grpDark g) else [] } }

/-- The members of a port that its probe rule names, oldest first (R252). -/
def State.probeKeys (s : State) (frame : Nat) : List Nat :=
  let t := s.live
  let keys := (t.memEntries.filter (fun m => t.grpBit (t.memGroup m) 30)).flatMap (fun m => t.memKeys m)
  let aged := keys.filterMap (fun k =>
    match s.memberAge frame k with
    | none => some (k, 2 ^ 40)
    | some a => if s.water.interval ≤ 2 * a then some (k, a) else none)
  let sorted := aged.mergeSort (fun a b => decide (b.2 ≤ a.2))
  (List.range 256).flatMap (fun p => ((sorted.filter (fun e => e.1 / 32768 = p)).take 1024).map (fun e => e.1))

/-! ### What read-out sends (R240, R251, R263) -/

/-- The scaled values of the pixels in read-out. -/
def State.scalePixels (s : State) : List (Nat × List Nat) :=
  let t := s.live
  let rs := t.runs
  s.cmp.outPixels.map (fun e =>
    match rs.find? (fun r => t.inRun r e.1) with
    | some r => let f := s.factor (t.runClass r) (t.runFeeder r); (e.1, e.2.map (fun v => scaleV v f))
    | none => e)

/-- A slot's bytes in the universe image after scaling by `e`: before `invert`, and inverted again. A PARAM16 value is rebuilt from
its coarse and fine bytes. -/
def Tabs.scaleSlot (t : Tabs) (img : Memory) (n e : Nat) : Memory :=
  let d := t.slot n
  if d.role = roleParam16 then
    let v := 256 * (memByte img n).toNat + (if t.role (n + 1) = roleFine then (memByte img (n + 1)).toNat else 0)
    let w := scaleV (if d.invert then 65535 - v else v) e
    let x := if d.invert then 65535 - w else w
    let img1 := memSet img n (BitVec.ofNat 8 (x / 256))
    if t.role (n + 1) = roleFine then memSet img1 (n + 1) (BitVec.ofNat 8 (x % 256)) else img1
  else
    let v := (memByte img n).toNat
    let w := scaleV (if d.invert then 255 - v else v) e
    memSet img n (BitVec.ofNat 8 (if d.invert then 255 - w else w))

/-- The scaled universe image: the emitter slots of the scalable fixtures. -/
def State.scaleImage (s : State) : Memory :=
  let t := s.live
  t.fixLoads.foldl (fun img f =>
    let e := s.factor (bits (t.fixW f 4) 30 29) (bits (t.fixW f 4) 25 16)
    if e = 65536 then img
    else (((List.range (t.fixEmitters f)).map (fun j => t.fixSlot f j)).eraseDups).foldl (fun m n => t.scaleSlot m n e) img)
    s.cmp.outImage

/-- Caps and blanking of the pixels in read-out. -/
def State.darken (s : State) (l : List (Nat × List Nat)) : List (Nat × List Nat) :=
  let t := s.live
  let off := s.water.dark.flatMap (fun g => t.memEntries.filter (fun m => t.memGroup m = g))
  let caps := s.water.caps
  l.map (fun e =>
    let dark := off.any (fun m => t.memPort m = e.1 / 32768 &&
      decide (t.memFirst m ≤ e.1 % 32768 ∧ e.1 % 32768 < t.memFirst m + t.memCount m))
    let cap := (caps.find? (fun c => t.inRun c.1 e.1)).bind (fun c => c.2)
    (e.1, e.2.map (fun v => if dark then 0 else match cap with | some c => min v c | none => v)))

/-- The pixels of PROTECTED runs. -/
def Tabs.protectedPx (t : Tabs) (key : Nat) : Bool := t.runs.any (fun r => t.runClass r = 2 && t.inRun r key)

/-- The slots of PROTECTED fixtures, a PARAM16 slot with its fine slot. -/
def Tabs.protectedSlots (t : Tabs) : List Nat :=
  (t.fixLoads.filter (fun f => bits (t.fixW f 4) 30 29 = 2)).flatMap (fun f =>
    (List.range (t.fixEmitters f)).flatMap (fun j =>
      let n := t.fixSlot f j
      if t.role n = roleParam16 then [n, n + 1] else [n]))

/-- Fix what the frame sends: caps and blanking, then the sleep black, which sends 0 everywhere (R453), or the safe look
of an orderly stop, in which only PROTECTED loads keep values (R471). -/
def State.fixSent (s : State) : State :=
  let t := s.live
  let px := s.darken s.cmp.scaled
  let zero (l : List (Nat × List Nat)) : List (Nat × List Nat) := l.map (fun e => (e.1, e.2.map (fun _ => 0)))
  if s.asBlack then { s with cmp := { s.cmp with sent := zero px, sentImage := [] } }
  else if s.water.black ≠ 2 then { s with cmp := { s.cmp with sent := px, sentImage := s.cmp.scaledImage } }
  else
    let keep := t.protectedSlots
    { s with cmp := { s.cmp with
        sent := px.map (fun e => if t.protectedPx e.1 then e else (e.1, e.2.map (fun _ => 0)))
        sentImage := s.cmp.scaledImage.filter (fun e => keep.contains e.1) } }

/-- The values that legibility groups with `gauge_on` feed to their Gauges (R528). -/
def State.feedGroups (s : State) (frame : Nat) : State :=
  let t := s.live
  (t.legGroups.filter (fun g => bits (t.grpW g 1) 31 31 = 1)).foldl (fun s g =>
    s.gaCheck (bits (t.grpW g 1) 3 0) gaBound
      ((t.grpKeys g).flatMap (fun k => (mget px0 s.cmp.sent k).flatMap (fun v => leBytes v 2))) frame) s

/-- The feeder tree and the zones are worked out for a staged frame, and its content becomes what is read out. -/
def State.stageWater (s : State) (frame : Nat) : State :=
  let s2 := s.wmTree
  let s3 := s2.live.zones.foldl (fun s z => s.zoneStage frame z) s2
  let s4 := { s3 with cmp := { s3.cmp with outPixels := s3.cmp.pixels, outImage := s3.fabric.image } }
  { s4 with cmp := { s4.cmp with scaled := s4.scalePixels, scaledImage := s4.scaleImage } }

/-- What `frame` sends is kept for the records that come back of it (R307). -/
def State.keepPast (s : State) (frame : Nat) : State :=
  { s with cmp := { s.cmp with past := ({ frame := frame, instant := s.tfOf frame, px := s.cmp.sent } : Past) :: s.cmp.past.take 3 } }

/-- The Watermaster's staging deadline of `frame`. A frame not staged repeats the one before with its factors and needs
(R242, R246) and takes the latest group states. -/
def State.wmStage (s : State) (frame : Nat) (staged : Bool) : State :=
  let s1 := if staged then (s.markBlack frame).stageWater frame
    else s.live.zones.foldl (fun s z => s.setZone z { s.zone z with prev := (s.zone z).need }) s
  let s5 := { s1 with water := { s1.water with
      caps := (s1.live.runs.filter (fun r => (s1.runCap r).isSome)).map (fun r => (r, s1.runCap r)) } }
  let s6 := s5.legStage frame
  let s7 := { s6 with water := { s6.water with
      probes := if s6.fbit R.WM_CTRL_legibility_enable then s6.probeKeys frame else [] } }
  (s7.fixSent.keepPast frame).feedGroups frame

/-! ### Commit (R253, R254) -/

def Tabs.overlap (a1 n1 a2 n2 : Nat) : Bool := decide (a1 < a2 + n2 ∧ a2 < a1 + n1)

/-- The later of two that share a pixel: those that an earlier one in the list overlaps. -/
def laterShared (hit : Nat → Nat → Bool) : List Nat → List Nat → List Nat
  | _, [] => []
  | seen, r :: l => (if seen.any (fun q => hit q r) then [r] else []) ++ laterShared hit (r :: seen) l

/-- An Expert curve's points are convex from 0 (R237). -/
def Tabs.curveGood (t : Tabs) (m j : Nat) : Bool :=
  let p (i : Nat) : Int := t.curveW m (1 + 17 * j + i)
  let x (i : Nat) : Int := curveX i
  p 0 = 0 && (List.range 15).all (fun i =>
    let k := i + 1
    decide ((p k - p (k - 1)) * (x (k + 1) - x k) ≤ (p (k + 1) - p k) * (x k - x (k - 1))))

/-- The items that fail a check of R254. -/
def State.waterBad (s : State) (t : Tabs) (code : Nat) : List Nat :=
  match code with
  | 0x30 => t.feeders.filter (fun f =>
      bits (t.fdW f 0) 19 0 ≠ 0 || bits (t.fdW f 2) 15 0 ≠ 0 || (t.fdHasParent f && !(t.fdOk (t.fdParent f))))
  | 0x31 => t.feeders.filter (fun f => decide (4 < t.fdDepth 5 f))
  | 0x32 => t.runs.filter (fun r =>
      bits (t.runW r 0) 28 26 ≠ 0 || bits (t.runW r 2) 30 24 ≠ 0 || bits (t.runW r 3) 15 0 ≠ 0 || t.runClass r = 3 ||
        t.runCount r = 0 || decide (32768 < t.runFirst r + t.runCount r) || decide (t.runVFull r < t.runVZero r))
  | 0x33 => laterShared (fun a b => t.runPort a = t.runPort b &&
      Tabs.overlap (t.runFirst a) (t.runCount a) (t.runFirst b) (t.runCount b)) [] t.runs
  | 0x34 => (List.range 256).filter (fun m =>
      bits (t.curveW m 0) 31 31 = 1 && (List.range 8).any (fun j => !(t.curveGood m j)))
  | 0x35 => t.zones.filter (fun z =>
      bits (t.zoneW z 0) 27 16 ≠ 0 || bits (t.zoneW z 0) 0 0 ≠ 0 || bits (t.zoneW z 1) 13 0 ≠ 0 ||
        bits (t.zoneW z 4) 31 5 ≠ 0 || t.zoneW z 5 ≠ 0 || t.zoneW z 6 ≠ 0 || t.zoneW z 7 ≠ 0 || t.zonePath z = 3 ||
        t.zoneStep z = 0 || decide (t.zoneMax z < t.zoneMin z) ||
        (decide (t.zonePath z ≤ 1) && decide (65535 < t.pmWord z (t.zoneMax z)))) ++
      t.runs.filter (fun r => t.runZoned r && (!(t.zoneOk (t.runZone r)) ||
        decide (t.zoneMax (t.runZone r) < t.runVFull r + t.zoneMargin (t.runZone r))))
  | 0x36 => (t.grpAll.filter (fun g =>
      let p := bits (t.grpW g 0) 11 0
      bits (t.grpW g 0) 26 12 ≠ 0 || bits (t.grpW g 1) 30 4 ≠ 0 || t.grpW g 2 ≠ 0 || t.grpW g 3 ≠ 0 ||
        (t.grpOk g && t.grpBit g 27 && (!(t.grpOk p) || t.grpBit p 27)))) ++
      (t.memAll.filter (fun m => bits (t.memW m 0) 30 28 ≠ 0 || bits (t.memW m 0) 7 0 ≠ 0 ||
        (t.memOk m && !(t.grpOk (t.memGroup m))))).map (fun m => t.memGroup m)
  | 0x37 => laterShared (fun a b => t.memPort a = t.memPort b && decide (0 < t.memCount a) && decide (0 < t.memCount b) &&
      Tabs.overlap (t.memFirst a) (t.memCount a) (t.memFirst b) (t.memCount b)) [] t.memEntries
  | 0x38 =>
    (t.memEntries.foldl (fun (a : Nat × List Nat) m =>
      let n := a.1 + t.memCount m
      (n, if 1048576 < n then a.2 ++ [m] else a.2)) (0, [])).2
  | 0x39 => (List.range 256).filter (fun p =>
      let n := (t.memEntries.filter (fun m => t.memPort m = p && t.grpBit (t.memGroup m) 30)).foldl
        (fun n m => n + t.memCount m) 0
      decide (1024 * s.fget R.WM_PROBE_CFG_interval < 2 * n))
  | 0x3A => t.legGroups.filter (fun g =>
      let u := bits (t.grpW g 1) 3 0
      bits (t.grpW g 1) 31 31 = 1 && (s.fget R.GA_CFG_source u ≠ gaBound ||
        t.legGroups.any (fun h => decide (h < g) && bits (t.grpW h 1) 31 31 = 1 && bits (t.grpW h 1) 3 0 = u) ||
        (List.range 4).any (fun c => (List.range 4).any (fun k => (t.sigRect c k).1 && (t.sigRect c k).2.1 = u))))
  | _ => []

/-- What a COMMIT of scope WATERMASTER does as it becomes live at the input cut of `frame`: feeders and zones that become valid or
leave, groups that leave, the members, and `interval`. -/
def State.waterCommitted (s : State) (old : Tabs) (frame : Nat) : State :=
  let t := s.live
  let fs := t.feeders.filterMap (fun f =>
    if old.fdOk f then some (f, s.feeder f) else some (f, { s.feeder f with sent := 0, fresh := true }))
  let s1 := s.setFeeders (fs.filter (fun e => e.2 ≠ fd0 e.1))
  let s2 := (List.range 256).foldl (fun s z =>
    if t.zoneOk z then
      if old.zoneOk z then s
      else s.setZone z { h := t.zoneMax z, need := t.zoneMax z, prev := t.zoneMax z, rise := some frame }
    else (s.setZone z {}).clearZoneFault z) s1
  let s3 := (List.range 128).foldl (fun s j =>
    s.fset R.WM_LEG_FAILED ((List.range 32).foldl (fun w b =>
      if t.grpOk (32 * j + b) then w else w - w / 2 ^ b % 2 * 2 ^ b) (s.fget R.WM_LEG_FAILED j)) j) s2
  { s3 with water := { s3.water with
      interval := s3.fget R.WM_PROBE_CFG_interval
      members := s3.water.members.filter (fun e => t.isMember e.1) } }

/-! ### Registers (R257) -/

/-- A write of WM_CTRL: `wm_enable` from 0 to 1 starts sent_f at 0 (R242). -/
def State.wmCtrlWrite (s : State) (v : Word) : State :=
  let s1 := if v.getLsbD 31 && !(s.fbit R.WM_CTRL_wm_enable) then s.setFeeders [] else s
  s1.setRg R.WM_CTRL.off (BitVec.ofNat 32 (getBits v 31 29 * 2 ^ 29))

/-- A write of WM_LEG_ACK. -/
def State.legAckWrite (s : State) (v : Word) : State :=
  let g := getBits v 11 0
  { (s.ledgerAdd 0x0A g [2]) with water := { s.water with acks := (s.water.acks.filter (· ≠ g)) ++ [g] } }

/-- A write of WM_SUPPLY_TIMING: stored clamped. -/
def State.supplyTimingWrite (s : State) (v : Word) : State :=
  (s.fset R.WM_SUPPLY_TIMING_lead_us (clampN 100 8000 (getBits v 28 16))).fset R.WM_SUPPLY_TIMING_lag_us
    (min 1000 (getBits v 9 0))

/-- A write of WM_PROBE_CFG: stored clamped. -/
def State.probeCfgWrite (s : State) (v : Word) : State :=
  (s.fset R.WM_PROBE_CFG_pulse_us (clampN 1 32 (getBits v 21 16))).fset R.WM_PROBE_CFG_interval
    (clampN 32 4096 (getBits v 12 0))

/-- A write of WM_PMBUS_CFG: speed 3 is stored as 2. DESIGN CHOICE: a bus that no longer runs drops its commands (log entry 92). -/
def State.pmbusCfgWrite (s : State) (b : Nat) (v : Word) : State :=
  let s1 := if v.getLsbD 31 then s else s.setBus b []
  (s1.fset R.WM_PMBUS_CFG_enable (b2n (v.getLsbD 31)) b).fset R.WM_PMBUS_CFG_speed (min 2 (getBits v 1 0)) b

/-- A device that stands by sends no commands: what waited is dropped, and nothing is outstanding (R255). -/
def State.dropSupplies (s : State) : State :=
  { s with water := { s.water with
      bus0 := [], bus1 := [], supply := []
      zones := s.water.zones.map (fun e => (e.1, { e.2 with riseCmd := none, pending := false })) } }

/-- Whether L is clamped (R25): it exceeds P − P/32. -/
def State.leadClamped (s : State) : Bool :=
  decide (31 * 1000000 * s.live.rateDen < s.fget R.WM_SUPPLY_TIMING_lead_us * 32 * s.live.rateNum)

/-- The three feeder registers, which show the feeder selected. -/
def State.feederView (s : State) (w : Nat) : Nat :=
  let f := s.feeder (s.fget R.WM_FEEDER_SEL_feeder)
  if w = 0 then f.sent / 1000 else if w = 1 then f.kn else f.ks

/-- WM_ZONE_STATUS of the zone selected. -/
def State.zoneView (s : State) : Nat :=
  let z := s.fget R.WM_ZONE_SEL_zone
  let v := s.zone z
  b2n (s.zoneFaulted z) * 2 ^ 31 + b2n v.pending * 2 ^ 30 + v.h

end Sys2Proof.Machine
end

