-- ==== Sys2Proof/Machine/Ports.lean ====
section
/-! DEFINITION. Ports and flumes (chapter 9): windows and demands, slice tables, the checks of a COMMIT of scope
LATERAL, and the flume instructions. Lines, RDM and the spare flume stand in Lines, the Furrow link in Furrow. -/

namespace Sys2Proof.Machine

def fl0 (_ : Nat) : Flume := {}

def State.flume (s : State) (f : Nat) : Flume := mget fl0 s.die.flumes f
def State.setFlume (s : State) (f : Nat) (v : Flume) : State :=
  { s with die := { s.die with flumes := mset fl0 s.die.flumes f v } }

/-- P less some ns, in ns rounded down; 0 where nothing is left. -/
def Tabs.pLess (t : Tabs) (ns : Nat) : Nat := (1000000000 * t.rateDen - ns * t.rateNum) / t.rateNum

/-- X of R270. -/
def peX (e : PEntry) : Nat :=
  let m := peLine e
  if m = mSW ∨ m = mCLOCKED then peD e else if m = mFURROW then peD e + 1000 * peReturnUs e else 0

/-- t_e for a launch trim `tp` (R270). -/
def Tabs.trimEff (t : Tabs) (e : PEntry) (tp : Nat) : Nat := min tp (t.pLess (140000 + peX e))

/-- What W lacks of P, in ns (R264). -/
def Tabs.windowLack (t : Tabs) (e : PEntry) (tp : Nat) : Nat :=
  let m := peLine e
  40000 + t.trimEff e tp + (if m = mSW ∨ m = mCLOCKED then peD e else if m = mFURROW then 1000 * peReturnUs e else 0)

/-- The cost of a port per frame (R273). -/
def peCost (e : PEntry) : Nat :=
  let m := peMode e
  if m = mDMX then peSlots e + 40
  else if m = mSW then pePixels e * peEmitters e + 40
  else if m = mCLOCKED then pePixels e * (peEmitters e + 2) + 8 * peStart e + 60
  else if m = mFURROW then pePixels e * peEmitters e + 16 * cdiv (peLineBytes e) 512 + 200
  else 0

/-- The demand of a port (R273). A port whose W is not positive can be given no slices that are enough: 257. -/
def Tabs.demand (t : Tabs) (e : PEntry) (tp : Nat) : Nat :=
  let m := peMode e
  if m = mREST then 0
  else if m = mEXPERT then bits (e 0) 20 16
  else
    let p := 1000000000 * t.rateDen
    let lack := t.windowLack e tp * t.rateNum
    if p ≤ lack then 257 else max 1 (cdiv (peCost e * 320 * t.rateNum) (p - lack))

/-! ### Slice tables (R274, R275) -/

/-- An entry of a slice table that names port `k`. -/
def sliceOf (k : Nat) : Nat := 128 + k

/-- The first free entry from `j` on, at most `n` away. -/
def freeFrom (tab : List Nat) : Nat → Nat → Nat
  | 0, j => j
  | n + 1, j => if tab.getD j 0 = 0 then j else freeFrom tab n ((j + 1) % 256)

/-- Give port `k` its `d` entries. -/
def placeDemand (tab : List Nat) (k d : Nat) : List Nat :=
  (List.range d).foldl (fun tab i =>
    let j := freeFrom tab 256 ((256 * i / d + 8 * k) % 256)
    if tab.getD j 0 = 0 then tab.set j (sliceOf k) else tab) tab

/-- The next port not at REST, from `k` on. -/
def nextActive (rest : Nat → Bool) : Nat → Nat → Nat
  | 0, k => k
  | n + 1, k => if rest k then nextActive rest n ((k + 1) % 32) else k

/-- Deal the entries left. -/
def dealRest (rest : Nat → Bool) : List Nat → Nat → List Nat
  | [], _ => []
  | 0 :: t, k => let q := nextActive rest 32 k; sliceOf q :: dealRest rest t ((q + 1) % 32)
  | a :: t, k => a :: dealRest rest t k

/-- The built slice table of a lateral. -/
def buildSlices (demand : Nat → Nat) (rest : Nat → Bool) : List Nat :=
  let order := (List.range 32).mergeSort (fun a b => decide (demand b < demand a ∨ (demand a = demand b ∧ a ≤ b)))
  let tab := order.foldl (fun tab k => placeDemand tab k (demand k)) (List.replicate 256 0)
  if (List.range 32).all rest then tab else dealRest rest tab 0

/-- The demands of a lateral's ports in a view, with the trims in force. -/
def State.latDemand (s : State) (t : Tabs) (l k : Nat) : Nat :=
  t.demand (t.portEntry (32 * l + k)) (s.fget R.PT_LAUNCH_TRIM_trim_ns (32 * l + k))

/-- Byte `j` of a flume's Expert slice table. -/
def Tabs.sliceByte (t : Tabs) (f j : Nat) : Nat := tabNat 0x41 f (t 0x41 f) j 1

/-- The slice table that flume `f` has for lateral `l` under a view. -/
def State.slicesFor (s : State) (t : Tabs) (f l : Nat) : List Nat :=
  if t.sliceExpert l then (List.range 256).map (fun j => t.sliceByte f j)
  else buildSlices (s.latDemand t l) (fun k => peMode (t.portEntry (32 * l + k)) = mREST)

/-- Whether a flume serves a port: an enabled port of its lateral that is not on F8, or for F8 one that is. -/
def State.flumeServes (s : State) (f : Nat) : Bool :=
  (List.range 256).any (fun p => s.portFlume p = f && peMode (s.port p).ent ≠ mREST && !(s.fbit R.PT_STATUS_held p))

/-- FL_STATUS of a flume. -/
def State.flumeStatus (s : State) (f : Nat) : State :=
  let v := s.flume f
  ((s.fset R.FL_STATUS_serving (b2n (s.flumeServes f)) f).fset R.FL_STATUS_ucode_loaded (b2n (v.loaded ≠ [])) f).fset
    R.FL_STATUS_slices_used (v.slices.filter (fun b => 128 ≤ b)).length f

/-! ### Commit checks (R280, R319) -/

/-- Words of an entry that its mode names (R261). -/
def namedWords (m line : Nat) : List Nat :=
  if m = 0 then [0]
  else if m = 5 then
    [0, 1, 12, 13, 14, 15] ++ (if line = 1 then [2, 3] else if line = 2 then [8, 9, 10, 11] else if line = 3 then [4, 5] else [6, 7])
  else if m = 1 then [0, 1, 2, 3] else if m = 2 then [0, 1, 8, 9, 10, 11] else if m = 3 then [0, 1, 4, 5] else [0, 1, 6, 7]

/-- Range checks of the fields that a port's mode reads. The words of a Furrow port have checks of their own apart from the range of
`return_us` (R318, R319). -/
def peRangeBad (e : PEntry) : Bool :=
  let line := peLine e
  let timed := peTimed e
  (line ≠ mDMX && line ≠ mREST && (pePixels e = 0 || decide (32768 < pePixels e) || peEmitters e = 0 || decide (8 < peEmitters e) ||
      decide (peBits e < 8) || decide (16 < peBits e))) ||
    (line = mDMX && (decide (peSlots e < 24) || decide (512 < peSlots e))) ||
    (line = mDMX && timed && (decide (peBreak e < 92) || decide (1000 < peBreak e) || decide (peMab e < 12) ||
      decide (1000 < peMab e) || decide (127 < peMark e))) ||
    (line = mDMX && peRdm e && (decide (peRdmTimeout e < 2000) || decide (10000 < peRdmTimeout e))) ||
    (line = mSW && timed && (decide (peResetUs e < 10) || decide (2000 < peResetUs e) || decide (bits (e 4) 31 20 < 125) ||
      decide (2500 < bits (e 4) 31 20) || bits (e 4) 19 10 = 0 || decide (bits (e 4) 9 0 ≤ bits (e 4) 19 10) ||
      decide (bits (e 4) 31 20 ≤ bits (e 4) 9 0))) ||
    (line = mCLOCKED && timed && (decide (peClkDiv e < 10) || decide (250 < peClkDiv e) || decide (8 < peStart e) ||
      decide (16 < pePrefixLen e))) ||
    (line = mFURROW && bits (e 8) 27 16 ≠ 0 && decide (bits (e 8) 27 16 < 50)) ||
    (peMode e = mEXPERT && (bits (e 0) 20 16 = 0 || decide (0x3000 ≤ bits (e 12) 13 0)))

/-- An entry as it reads with `enable` 1. -/
def peForced (e : PEntry) : PEntry := fun w => if w = 0 then e 0 ||| 2 ^ 31 else e w

/-- Whether a table of presets lists a code for the line a port has (R262). -/
def presetKnown (line k : Nat) : Bool := if line = mDMX ∨ line = mSW ∨ line = mCLOCKED then decide (k ≤ 1) else k = 0

/-- Reserved bits, refused modes and presets, and the ranges of what the entry sets, whether `enable` runs it or not. -/
def peFormatBad (e : PEntry) : Bool :=
  let m := bits (e 0) 30 28
  let line := if m = 5 then (match bits (e 12) 17 16 with | 0 => 1 | 1 => 3 | 2 => 4 | _ => 2) else m
  let named := namedWords m line
  bits (e 0) 24 21 ≠ 0 || bits (e 0) 7 0 ≠ 0 || decide (5 < m) ||
    (List.range 16).any (fun w => !(named.contains w) && e w ≠ 0) ||
    !(presetKnown line (pePreset e)) ||
    (line = 1 && bits (e 1) 17 10 ≠ 0) || (decide (2 ≤ line) && bits (e 1) 11 5 ≠ 0) ||
    (line = 1 && bits (e 3) 3 0 ≠ 0) || (line = 3 && bits (e 5) 15 0 ≠ 0) || (line = 4 && bits (e 6) 13 0 ≠ 0) ||
    (m = 5 && (bits (e 12) 31 18 ≠ 0 || bits (e 12) 15 14 ≠ 0)) ||
    peRangeBad (peForced e)

/-- Whether some of the ranges (first byte, length) take in byte `a`. -/
def covered (l : List (Nat × Nat)) (a : Nat) : Bool := l.any (fun r => decide (r.1 ≤ a ∧ a < r.1 + r.2))

/-- The items that fail a check of R280 or R319 for lateral `l`; `ws` are the staged writes taken in. -/
def State.lateralBad (s : State) (t : Tabs) (ws : List Staged) (l code : Nat) : List Nat :=
  let ps := (List.range 32).map (fun k => 32 * l + k)
  let ent (p : Nat) : PEntry := t.portEntry p
  let tp (p : Nat) : Nat := s.fget R.PT_LAUNCH_TRIM_trim_ns p
  let pixel (p : Nat) : Bool := peLine (ent p) = mSW || peLine (ent p) = mCLOCKED
  match code with
  | 0x40 => (if bits (t.word 0x11 l 0) 30 0 ≠ 0 || (List.range 15).any (fun w => t.word 0x11 l (w + 1) ≠ 0) then [32 * l] else []) ++
      ps.filter (fun p => peFormatBad (ent p))
  | 0x41 =>
    let sum := (List.range 32).foldl (fun n k => n + s.latDemand t l k) 0
    if 256 < sum then
      match (List.range 32).find? (fun k => (List.range 32).all (fun j => decide (s.latDemand t l j ≤ s.latDemand t l k))) with
      | some k => [32 * l + k]
      | none => []
    else []
  | 0x42 =>
    if t.sliceExpert l then
      let tab := (List.range 256).map (fun j => t.sliceByte l j)
      (tab.filter (fun b => bits b 6 5 ≠ 0)).map (fun b => 32 * l + b % 32) ++
        ((List.range 32).filter (fun k => decide ((tab.filter (fun b => b = sliceOf k)).length < s.latDemand t l k))).map
          (fun k => 32 * l + k)
    else []
  | 0x43 => ps.filter (fun p => pixel p &&
      decide (1000000000 * t.rateDen < (peD (ent p) + peLow (ent p) + 140000 + tp p) * t.rateNum))
  | 0x44 => ps.filter (fun p => pixel p && decide (131072 < peFrameBits (ent p)))
  | 0x45 => ps.filter (fun p =>
      let a := 4 * bits (ent p 12) 13 0
      let cov := (s.flume l).loaded ++ (ws.filter (fun w => w.cls = 0x40 ∧ w.inst = l)).map (fun w => (w.offset, w.bytes.length))
      peMode (ent p) = mEXPERT && decide (a < 32768) && !((List.range 4).all (fun i => covered cov (a + i))))
  | 0x46 => ((ws.filter (fun w => w.cls = 0x40)).map (fun w => w.inst)).eraseDups.filter (fun f => s.flumeServes f)
  | 0x47 => ps.filter (fun p => peLine (peForced (ent p)) = mFURROW &&
      (bits (ent p 8) 30 28 ≠ 0 || bits (ent p 8) 15 0 ≠ 0 || ent p 9 ≠ 0 || ent p 10 ≠ 0 || ent p 11 ≠ 0 ||
        decide (4000 < bits (ent p 8) 27 16)))
  | 0x48 => ps.flatMap (fun p =>
      let ns := t.nodes p
      let bad := ns.filter (fun n =>
        bits (t.nodeW p n 0) 15 7 ≠ 0 || decide (96 < t.nodePixels p n * peEmitters (ent p)) ||
          decide (pePixels (ent p) < t.nodeFirst p n + t.nodePixels p n) || bits (t.nodeW p n 1) 29 20 = 0)
      (bad ++ laterShared (fun a b => decide (0 < t.nodePixels p a) && decide (0 < t.nodePixels p b) && Tabs.overlap (t.nodeFirst p a) (t.nodePixels p a) (t.nodeFirst p b) (t.nodePixels p b))
        [] ns).map (fun n => 1024 * p + n))
  | _ => []

/-- What a COMMIT of scope LATERAL, index `l`, does at once beside the tables: microcode is loaded, slice tables are
built, and the status of the flumes follows. Port entries wait for their rest points (R281). While the lateral is in service a
table that its port entries give is held with them (R284). -/
def State.lateralCommitted (s : State) (ws : List Staged) (l : Nat) : State :=
  let s1 := (ws.filter (fun w => w.cls = 0x40)).foldl (fun s w =>
    s.setFlume w.inst { s.flume w.inst with loaded := (s.flume w.inst).loaded ++ [(w.offset, w.bytes.length)] }) s
  let s2 := if s1.inService scLateral l && !(s1.live.sliceExpert l) then s1
    else s1.setFlume l { s1.flume l with slices := s1.slicesFor s1.live l l }
  (List.range 9).foldl (fun s f => s.flumeStatus f) s2

/-! ### Flume contexts (R276, R277) -/

/-- Whether flumes run for a port: its domain on, and `output_enable` 1 or a standby (R289). -/
def State.flumeRuns (s : State) (p : Nat) : Bool :=
  s.domOn (portDomain p) && s.domOn .sys && (s.fbit R.FL_CTRL_output_enable || s.isStandby)

/-- The place, counted on from the one that a flume runs, of the next entry of its table that names local port `k`. -/
def Flume.ahead (v : Flume) (k : Nat) : Option Nat :=
  (List.range 256).find? (fun i => v.slices.getD ((v.pos + 1 + i) % 256) 0 = sliceOf k)

/-- The cycles of a slice (R272). -/
def sliceCycles : Nat := 8

/-- Whether local port `k` holds the slice in progress. -/
def Flume.holds (v : Flume) (k : Nat) : Bool := v.slices.getD v.pos 0 = sliceOf k && decide (0 < v.used ∧ v.used < sliceCycles)

/-- A flume after one more cycle for local port `k`: of the slice in progress, or of the port's next one. -/
def Flume.take (v : Flume) (k : Nat) : Flume :=
  if v.holds k then { v with used := v.used + 1 }
  else
    match v.ahead k with
    | some i => { v with pos := (v.pos + 1 + i) % 256, used := 1 }
    | none => v

/-- The slice in progress ends. -/
def Flume.endSlice (v : Flume) : Flume := { v with used := 0 }

/-! ### The catalogue ROM (R277) -/

/-- Where the catalogue program of a mode starts. That of SINGLE_WIRE fits before the ROM's end. -/
def romStart (m : Nat) : Nat := 0x2000 + Config.romEntry m % 0xFFC

/-- The catalogue SINGLE_WIRE program: `emit 0`, `par g3, 2`, `lui g5, 4`, `move g4, g5, g3`, `end`. -/
def swProgram : List Word := [0x50000000, 0x54C00002, 0x09400004, 0x4D14C000, 0x74000000]

/-- A word of the ROM. The other programs stand in the spec by what they send only (`State.catalogue`). -/
def romWord (a : Nat) : Word :=
  if romStart mSW ≤ a then (swProgram[a - romStart mSW]?).getD (Config.flumeRom a) else Config.flumeRom a

/-- The word at a flume's program address: its RAM as class 0x40 has written it, or the catalogue ROM. -/
def State.flumeWord (s : State) (f a : Nat) : Word :=
  if a < 0x2000 then
    if (List.range 4).all (fun i => covered (s.flume f).loaded (4 * a + i)) then
      BitVec.ofNat 32 (tabNat 0x40 f (s.table 0x40 f) (4 * a) 4)
    else Config.flumeRam f a
  else romWord a

/-- Whether a port's context executes the instruction `is` now: flumes run, the context runs, its flume's table gives the port a
slice, and the word at its program counter is that instruction (R272, R276, R277). -/
def State.flowLive (s : State) (p : Nat) (is_ : Word → Bool) : Bool :=
  let v := s.flume (s.portFlume p)
  let f := (s.port p).flow
  s.flumeRuns p && f.running && (v.holds (p % 32) || (v.ahead (p % 32)).isSome) && is_ (s.flumeWord (s.portFlume p) f.pc)

/-- A cycle of a port's slice passes. -/
def State.flowCycle (s : State) (p : Nat) : State :=
  s.setFlume (s.portFlume p) ((s.flume (s.portFlume p)).take (p % 32))

/-- A port's slice ends. -/
def State.flowYield (s : State) (p : Nat) : State := s.setFlume (s.portFlume p) (s.flume (s.portFlume p)).endSlice

/-- `n` cycles of a port's slices pass. -/
def State.flowCycles (s : State) (p n : Nat) : State :=
  s.setFlume (s.portFlume p) (n.repeat (fun v => v.take (p % 32)) (s.flume (s.portFlume p)))

/-! The fields of an instruction word (R277). -/

def wOp (w : Word) : Nat := getBits w 31 26
def wD (w : Word) : Nat := getBits w 25 22
def wA (w : Word) : Nat := getBits w 21 18
def wB (w : Word) : Nat := getBits w 17 14
def wImm (w : Word) : Nat := getBits w 13 0

/-- `li` and `lui`, whose bits [21:16] must be 0. -/
def isLoad (op d imm16 : Nat) (w : Word) : Bool := wOp w = op && wD w = d && getBits w 15 0 = imm16 && getBits w 21 16 = 0

/-- An instruction on three registers, on two and an immediate, and so on, by the fields that it uses. -/
def isDAB (op d a b : Nat) (w : Word) : Bool := wOp w = op && wD w = d && wA w = a && wB w = b
def isDAI (op d a imm : Nat) (w : Word) : Bool := wOp w = op && wD w = d && wA w = a && wImm w = imm
def isAB (op a b : Nat) (w : Word) : Bool := wOp w = op && wA w = a && wB w = b
def isDI (op d imm : Nat) (w : Word) : Bool := wOp w = op && wD w = d && wImm w = imm
def isAI (op a imm : Nat) (w : Word) : Bool := wOp w = op && wA w = a && wImm w = imm
def isD (op d : Nat) (w : Word) : Bool := wOp w = op && wD w = d
def isI (op imm : Nat) (w : Word) : Bool := wOp w = op && wImm w = imm
def isOpWord (op : Nat) (w : Word) : Bool := wOp w = op

def Flow.reg (f : Flow) (r : Nat) : Word := if r = 0 then 0 else mget word0 f.g r
def Flow.setReg (f : Flow) (r : Nat) (v : Word) : Flow := if r = 0 then f else { f with g := mset word0 f.g r v }
def Flow.next (f : Flow) : Flow := { f with pc := (f.pc + 1) % 16384 }

def State.setFlow (s : State) (p : Nat) (f : Flow) : State := s.setPort p { s.port p with flow := f }

/-- The intake's length (R263). -/
def Port.intakeLen (v : Port) : Nat :=
  if peLine v.ent = mDMX then peSlots v.ent else pePixels v.ent * peEmitters v.ent

/-- Intake value `i` of a port. -/
def State.intakeAt (s : State) (p i : Nat) : Nat :=
  let v := s.port p
  if v.black then 0
  else if peLine v.ent = mDMX then (memByte s.cmp.sentImage (512 * peUniverse v.ent + i)).toNat
  else (mget px0 s.cmp.sent (32768 * p + i / peEmitters v.ent)).getD (i % peEmitters v.ent) 0

/-- Whole bytes of a bit accumulator, and the bits left. -/
def drainBits : Nat → Nat → Nat → List Byte × Nat × Nat
  | 0, acc, n => ([], acc, n)
  | k + 1, acc, n =>
    if 8 ≤ n then
      let r := drainBits k (acc % 2 ^ (n - 8)) (n - 8)
      (BitVec.ofNat 8 (acc / 2 ^ (n - 8)) :: r.1, r.2)
    else ([], acc, n)

/-- Append the low `n` bits of `v`, most significant first. -/
def Flow.push (f : Flow) (v n : Nat) : Flow :=
  let r := drainBits 6 (f.acc * 2 ^ n + v % 2 ^ n) (f.accBits + n)
  { f with buf := f.buf ++ r.1, acc := r.2.1, accBits := r.2.2 }

/-- Pad to a byte with 0. -/
def Flow.flush (f : Flow) : Flow := if f.accBits = 0 then f else f.push 0 (8 - f.accBits)

/-- Whether `n` more bits fit the 16 KiB buffer. -/
def Flow.fits (f : Flow) (n : Nat) : Bool := decide (8 * f.buf.length + f.accBits + n ≤ 131072)

/-! ### What the catalogue programs send (R227, R263) -/

/-- The top `n` bits of a 16-bit value; for a count above 16 the spec states no bits. -/
def topBits (v n : Nat) : Nat := if n ≤ 16 then v / 2 ^ (16 - n) else Config.flumeWide v n

/-- Bit strings, each a value and its length, packed most significant bit first and padded to a byte with 0. -/
def packBits (l : List (Nat × Nat)) : List Byte := ((l.foldl (fun (f : Flow) v => f.push v.1 v.2) {}).flush).buf

/-- The frame that a Basic port's catalogue program leaves in the outfall: a DMX port's slots; the top m bits of every intake value;
around them, on a CLOCKED port, the start bytes of 0, the prefix before each pixel, and the end bits of 1. -/
def State.catalogue (s : State) (p : Nat) : List Byte :=
  let v := s.port p
  let e := v.ent
  let values (a n : Nat) : List (Nat × Nat) := (List.range n).map (fun i => (topBits (s.intakeAt p (a + i)) (peBits e), peBits e))
  if peLine e = mDMX then packBits ((List.range v.intakeLen).map (fun i => (s.intakeAt p i, 8)))
  else if peLine e = mCLOCKED then
    packBits (List.replicate (peStart e) (0, 8) ++
      (List.range (pePixels e)).flatMap (fun i =>
        (pePrefix e / 2 ^ (16 - pePrefixLen e), pePrefixLen e) :: values (i * peEmitters e) (peEmitters e)) ++
      List.replicate (peEndLen e) (1, 1))
  else packBits (values 0 v.intakeLen)

/-- Whether a port runs a catalogue program. -/
def Port.basic (v : Port) : Bool := peMode v.ent ≠ mEXPERT

/-- Send a Furrow block: a PIXEL frame of the block's bytes and two IDLE symbols (R297), unless the port drops its frame (R279). A
catalogue program's blocks are those of its line byte stream, in turn. -/
def State.pixelBlock (s : State) (p : Nat) (f : Flow) (b : List Byte) : State × Flow :=
  let out := if (s.port p).basic then ((s.catalogue p).drop (512 * f.block)).take 512 else b
  (if f.dropped || out = [] then s else s.furSend p 0x01 0 f.block out 2,
    { f with buf := f.buf.drop b.length, block := f.block + 1 })

/-- The blocks of a catalogue program's stream that are left at its `end`, at most `n`. -/
def State.restBlocks (s : State) (p : Nat) : Nat → Flow → State × Flow
  | 0, f => (s, f)
  | n + 1, f =>
    if 512 * f.block < (s.catalogue p).length then
      let (s1, f1) := s.pixelBlock p f []
      s1.restBlocks p n f1
    else (s, f)

/-- A Furrow port hands its complete blocks to the link; `all` closes the block in progress too. -/
def State.handBlocks (s : State) (p : Nat) (all : Bool) : Nat → Flow → State × Flow
  | 0, f => (s, f)
  | k + 1, f =>
    if 512 ≤ f.buf.length then
      let (s1, f1) := s.pixelBlock p f (f.buf.take 512)
      s1.handBlocks p all k f1
    else if all && f.buf ≠ [] then s.pixelBlock p f f.buf
    else (s, f)

/-- Store a context after bits were appended: a Furrow port's complete blocks leave. -/
def State.keepFlow (s : State) (p : Nat) (f : Flow) (all : Bool := false) : State :=
  if peLine (s.port p).ent = mFURROW then
    let (s1, f1) := s.handBlocks p all 1024 f
    s1.setFlow p f1
  else s.setFlow p f

/-- A context faults with a code (R278). -/
def State.flowFault (s : State) (p code : Nat) : State :=
  let f := (s.port p).flow
  let s1 := (s.setFlow p { f with running := false, faulted := true }).flowYield p
  ((s1.bumpF R.PT_UCODE_FAULT_COUNT p).bumpF R.FL_UCODE_FAULT_COUNT (s.portFlume p)).report 0x0A p code

/-- An instruction that takes one cycle: `run` of the context, where the word at its program counter is the instruction. -/
def State.flowStep (s : State) (p : Nat) (is_ : Word → Bool) (run : State → Flow → State) : State :=
  if s.flowLive p is_ then run (s.flowCycle p) (s.port p).flow else s

/-- An instruction that computes on registers: `d` takes `v`, and the pc moves on. -/
def State.flowSet (s : State) (p : Nat) (is_ : Word → Bool) (d : Nat) (v : Flow → Word) : State :=
  s.flowStep p is_ (fun s f => s.setFlow p (f.setReg d (v f)).next)

/-- `op d, a, b` on registers. -/
def State.flow2 (s : State) (p code d a b : Nat) (op : Word → Word → Word) : State :=
  s.flowSet p (isDAB code d a b) d (fun f => op (f.reg a) (f.reg b))

/-- A jump to `imm`, which must lie in RAM or ROM (R278). -/
def State.flowJump (s : State) (p imm : Nat) (f : Flow) : State :=
  if imm < 0x3000 then s.setFlow p { f with pc := imm } else (s.setFlow p f).flowFault p 0xFFFF

def execFlNop (port : Fin 256) (s : State) : Host.Outcome State Fault Refusal :=
  .next (s.flowSet port (isOpWord 0x00) 0 (fun _ => 0)).settle

def execFlLi (port : Fin 256) (d : Fin 16) (imm16 : BitVec 16) (s : State) : Host.Outcome State Fault Refusal :=
  .next (s.flowSet port (isLoad 0x01 d imm16.toNat) d (fun _ => imm16.zeroExtend 32)).settle

def execFlLui (port : Fin 256) (d : Fin 16) (imm16 : BitVec 16) (s : State) : Host.Outcome State Fault Refusal :=
  .next (s.flowSet port (isLoad 0x02 d imm16.toNat) d
    (fun f => BitVec.ofNat 32 (imm16.toNat * 65536 + lane0 (f.reg d)))).settle

def execFlAdd (port : Fin 256) (d a b : Fin 16) (s : State) : Host.Outcome State Fault Refusal :=
  .next (s.flow2 port 0x03 d a b (fun x y => x + y)).settle

def execFlSub (port : Fin 256) (d a b : Fin 16) (s : State) : Host.Outcome State Fault Refusal :=
  .next (s.flow2 port 0x04 d a b (fun x y => x - y)).settle

def execFlAnd (port : Fin 256) (d a b : Fin 16) (s : State) : Host.Outcome State Fault Refusal :=
  .next (s.flow2 port 0x05 d a b (fun x y => x &&& y)).settle

def execFlOr (port : Fin 256) (d a b : Fin 16) (s : State) : Host.Outcome State Fault Refusal :=
  .next (s.flow2 port 0x06 d a b (fun x y => x ||| y)).settle

def execFlXor (port : Fin 256) (d a b : Fin 16) (s : State) : Host.Outcome State Fault Refusal :=
  .next (s.flow2 port 0x07 d a b (fun x y => x ^^^ y)).settle

def execFlShl (port : Fin 256) (d a b : Fin 16) (s : State) : Host.Outcome State Fault Refusal :=
  .next (s.flow2 port 0x08 d a b (fun x y => x <<< (y.toNat % 32))).settle

def execFlShr (port : Fin 256) (d a b : Fin 16) (s : State) : Host.Outcome State Fault Refusal :=
  .next (s.flow2 port 0x09 d a b (fun x y => x >>> (y.toNat % 32))).settle

def execFlAddi (port : Fin 256) (d a : Fin 16) (imm : BitVec 14) (s : State) : Host.Outcome State Fault Refusal :=
  .next (s.flowSet port (isDAI 0x0A d a imm.toNat) d (fun f => f.reg a + imm.signExtend 32)).settle

def execFlMin (port : Fin 256) (d a b : Fin 16) (s : State) : Host.Outcome State Fault Refusal :=
  .next (s.flow2 port 0x0B d a b (fun x y => if x.toNat ≤ y.toNat then x else y)).settle

def execFlMax (port : Fin 256) (d a b : Fin 16) (s : State) : Host.Outcome State Fault Refusal :=
  .next (s.flow2 port 0x0C d a b (fun x y => if x.toNat ≤ y.toNat then y else x)).settle

def execFlMulq (port : Fin 256) (d a b : Fin 16) (s : State) : Host.Outcome State Fault Refusal :=
  .next (s.flow2 port 0x0D d a b (fun x y => BitVec.ofNat 32 (q16 (lane0 x) (lane0 y)))).settle

/-- `take`: all of the intake stands from the start of read-out on. -/
def State.flTake (s : State) (p d : Nat) : State :=
  s.flowStep p (isD 0x10 d) (fun s f =>
    if f.intake < (s.port p).intakeLen then
      s.setFlow p ({ f with intake := f.intake + 1 }.setReg d (BitVec.ofNat 32 (s.intakeAt p f.intake))).next
    else s.setFlow p (f.setReg d 0xFFFFFFFF).next)

def execFlTake (port : Fin 256) (d : Fin 16) (s : State) : Host.Outcome State Fault Refusal :=
  .next (s.flTake port d).settle

/-- Append `n` bits; a full buffer makes the instruction yield and repeat. -/
def State.flPut (s : State) (p v n : Nat) : State :=
  let f := (s.port p).flow
  if peLine (s.port p).ent = mFURROW || f.fits n then s.keepFlow p (f.push v n).next else s.flowYield p

def State.flPutv (s : State) (p a b : Nat) : State :=
  s.flowStep p (isAB 0x11 a b) (fun s f =>
    let n := (f.reg b).toNat % 32
    if n = 0 ∨ 16 < n then s.flowFault p 0xFFFF else s.flPut p (lane0 (f.reg a) / 2 ^ (16 - n)) n)

def State.flPutb (s : State) (p a b : Nat) : State :=
  s.flowStep p (isAB 0x12 a b) (fun s f =>
    let n := (f.reg b).toNat % 64
    if n = 0 ∨ 32 < n then s.flowFault p 0xFFFF else s.flPut p (f.reg a).toNat n)

def execFlPutv (port : Fin 256) (a b : Fin 16) (s : State) : Host.Outcome State Fault Refusal :=
  .next (s.flPutv port a b).settle

def execFlPutb (port : Fin 256) (a b : Fin 16) (s : State) : Host.Outcome State Fault Refusal :=
  .next (s.flPutb port a b).settle

/-- `move`'s values one by one, until `want` are moved, the intake ends or the buffer is full. -/
def State.moveLoop (s : State) (p n : Nat) : Nat → Flow → State × Flow × Bool
  | 0, f => (s, f, true)
  | k + 1, f =>
    if (s.port p).intakeLen ≤ f.intake then (s, f, true)
    else if peLine (s.port p).ent = mFURROW || f.fits n then
      let f1 := { (f.push (topBits (s.intakeAt p f.intake) n) n) with intake := f.intake + 1, moved := f.moved + 1 }
      if peLine (s.port p).ent = mFURROW then
        let (s1, f2) := s.handBlocks p false 2 f1
        s1.moveLoop p n k f2
      else s.moveLoop p n k f1
    else (s, f, false)

def State.flMove (s : State) (p d a b : Nat) : State :=
  s.flowStep p (isDAB 0x13 d a b) (fun s f =>
    let want := min (f.reg a).toNat (s.port p).intakeLen - f.moved
    let (s0, f1, all) := s.moveLoop p ((f.reg b).toNat % 32) want f
    let s1 := s0.flowCycles p (f1.moved - f.moved - 1)
    if all then s1.setFlow p ({ f1 with moved := 0 }.setReg d (BitVec.ofNat 32 f1.moved)).next
    else (s1.setFlow p f1).flowYield p)

def execFlMove (port : Fin 256) (d a b : Fin 16) (s : State) : Host.Outcome State Fault Refusal :=
  .next (s.flMove port d a b).settle

/-- `emit`: PACKET, FLUSH, BLOCK; other codes are reserved. -/
def State.flEmit (s : State) (p imm : Nat) : State :=
  s.flowStep p (isI 0x14 imm) (fun s f =>
    match imm with
    | 0 => s.setFlow p { f with mark := some f.buf.length }.next
    | 1 => s.keepFlow p f.flush.next
    | 2 => s.keepFlow p f.next true
    | _ => s.flowFault p 0xFFFF)

def execFlEmit (port : Fin 256) (imm : BitVec 14) (s : State) : Host.Outcome State Fault Refusal :=
  .next (s.flEmit port imm.toNat).settle

/-- Parameter `imm` of a port. A number that R277 does not list gives a free value. -/
def State.flParam (s : State) (p imm : Nat) : Word :=
  let e := (s.port p).ent
  if imm = 0 then BitVec.ofNat 32 (pePixels e)
  else if imm = 1 then BitVec.ofNat 32 (peEmitters e)
  else if imm = 2 then BitVec.ofNat 32 (peBits e)
  else if imm = 3 then BitVec.ofNat 32 (peSlots e)
  else if imm = 4 then BitVec.ofNat 32 (peUniverse e)
  else if imm = 5 then BitVec.ofNat 32 p
  else if imm = 6 then BitVec.ofNat 32 s.readFrame
  else if 8 ≤ imm ∧ imm ≤ 15 then BitVec.ofNat 32 (e imm)
  else Config.flumePar imm

def execFlPar (port : Fin 256) (d : Fin 16) (imm : BitVec 14) (s : State) : Host.Outcome State Fault Refusal :=
  .next (s.flowSet port (isDI 0x15 d imm.toNat) d (fun _ => s.flParam port imm.toNat)).settle

def execFlLdk (port : Fin 256) (d : Fin 16) (imm : BitVec 14) (s : State) : Host.Outcome State Fault Refusal :=
  .next (s.flowSet port (isDI 0x16 d imm.toNat) d (fun f => mget word0 f.keep (imm.toNat % 16))).settle

def State.flStk (s : State) (p a imm : Nat) : State :=
  s.flowStep p (isAI 0x17 a imm) (fun s f => s.setFlow p { f with keep := mset word0 f.keep (imm % 16) (f.reg a) }.next)

def execFlStk (port : Fin 256) (a : Fin 16) (imm : BitVec 14) (s : State) : Host.Outcome State Fault Refusal :=
  .next (s.flStk port a imm.toNat).settle

/-- A jump taken if `c` holds of the context. -/
def State.flBranch (s : State) (p : Nat) (is_ : Word → Bool) (imm : Nat) (c : Flow → Bool) : State :=
  s.flowStep p is_ (fun s f => if c f then s.flowJump p imm f else s.setFlow p f.next)

def execFlJmp (port : Fin 256) (imm : BitVec 14) (s : State) : Host.Outcome State Fault Refusal :=
  .next (s.flBranch port (isI 0x18 imm.toNat) imm.toNat (fun _ => true)).settle

def execFlBz (port : Fin 256) (a : Fin 16) (imm : BitVec 14) (s : State) : Host.Outcome State Fault Refusal :=
  .next (s.flBranch port (isAI 0x19 a imm.toNat) imm.toNat (fun f => f.reg a = 0)).settle

def execFlBnz (port : Fin 256) (a : Fin 16) (imm : BitVec 14) (s : State) : Host.Outcome State Fault Refusal :=
  .next (s.flBranch port (isAI 0x1A a imm.toNat) imm.toNat (fun f => f.reg a ≠ 0)).settle

/-- `djnz`: the register's value after the decrement decides, so g0, which stays 0, never jumps. -/
def State.flDjnz (s : State) (p d imm : Nat) : State :=
  s.flowStep p (isDI 0x1B d imm) (fun s f =>
    let f1 := f.setReg d (f.reg d - 1)
    if f1.reg d ≠ 0 then s.flowJump p imm f1 else s.setFlow p f1.next)

def execFlDjnz (port : Fin 256) (d : Fin 16) (imm : BitVec 14) (s : State) : Host.Outcome State Fault Refusal :=
  .next (s.flDjnz port d imm.toNat).settle

/-- `yield` ends the slice. -/
def State.flYield (s : State) (p : Nat) : State :=
  s.flowStep p (isOpWord 0x1C) (fun s f => (s.setFlow p f.next).flowYield p)

def execFlYield (port : Fin 256) (s : State) : Host.Outcome State Fault Refusal := .next (s.flYield port).settle

/-- The frame of a port whose program has ended: the outfall, padded to a byte; a catalogue program's is the frame that R263 gives it,
launch-timed from its start. -/
def State.endFrame (s : State) (p : Nat) (f : Flow) : State :=
  if !((s.port p).basic) then s.keepFlow p f.flush true
  else if peLine (s.port p).ent = mFURROW then
    let (s1, f1) := s.restBlocks p 1024 { f with buf := [], acc := 0, accBits := 0 }
    s1.setFlow p f1
  else s.setFlow p { f with buf := s.catalogue p, acc := 0, accBits := 0, mark := some 0 }

/-- `end` ends the port's frame. -/
def State.flEnd (s : State) (p : Nat) : State :=
  s.flowStep p (isOpWord 0x1D) (fun s f =>
    (s.endFrame p { f with running := false, done := true, stuck := 0 }).flowYield p)

def execFlEnd (port : Fin 256) (s : State) : Host.Outcome State Fault Refusal := .next (s.flEnd port).settle

def execFlTrap (port : Fin 256) (imm : BitVec 14) (s : State) : Host.Outcome State Fault Refusal :=
  .next (s.flowStep port (isI 0x1E imm.toNat) (fun s _ => s.flowFault port imm.toNat)).settle

/-- Whether R277 gives a word's `op` an instruction. -/
def flDefined (w : Word) : Bool := decide (wOp w ≤ 0x0D) || decide (0x10 ≤ wOp w ∧ wOp w ≤ 0x1E)

/-- Whether a word is a jump that its context takes. -/
def flJumps (f : Flow) (w : Word) : Bool :=
  wOp w = 0x18 || (wOp w = 0x19 && f.reg (wA w) = 0) || (wOp w = 0x1A && f.reg (wA w) ≠ 0) ||
    (wOp w = 0x1B && wD w ≠ 0 && f.reg (wD w) ≠ 1)

/-- What makes a word one that R278 faults, beside a `trap`, with the context's registers as they are: an undefined `op`, set bits
[21:16] of `li` and `lui`, a reserved `emit` code, a jump to an address outside RAM and ROM, a count out of range. -/
def flBad (f : Flow) (w : Word) : Bool :=
  let n := (f.reg (wB w)).toNat
  !(flDefined w) || ((wOp w = 0x01 || wOp w = 0x02) && getBits w 21 16 ≠ 0) || (wOp w = 0x14 && decide (2 < wImm w)) ||
    (flJumps f w && decide (0x3000 ≤ wImm w)) || (wOp w = 0x11 && decide (n % 32 = 0 ∨ 16 < n % 32)) ||
    (wOp w = 0x12 && decide (n % 64 = 0 ∨ 32 < n % 64))

/-- Such a word reaches a context. -/
def State.flUndefined (s : State) (p : Nat) (w : Word) : State :=
  s.flowStep p (fun v => v == w && flBad (s.port p).flow w) (fun s _ => s.flowFault p 0xFFFF)

def execFlUndefinedOp (port : Fin 256) (word : Word) (s : State) : Host.Outcome State Fault Refusal :=
  .next (s.flUndefined port word).settle

end Sys2Proof.Machine
end

