-- ==== Sys2Proof/Machine/Lines.lean ====
section
/-! DEFINITION. Lines of the ports (R264..R271, R279..R289): the launch trims, line starts and commit events, rest points,
RDM, the spare flume, and flume faults. -/

namespace Sys2Proof.Machine

/-- A code of R71 for event `k` of block `blk`: where its rule names none, it is a free value. -/
def State.eventOf (s : State) (blk k : Nat) : State := s.event blk (Config.eventCode blk k)

/-! ### Trims (R270) -/

def State.te (s : State) (p : Nat) : Nat := s.fget R.PT_STATUS_trim_eff_ns p

/-- What FUR_PORT_STATUS and the Silt trap make of S: `span_short` while it exceeds t_e, reported once as it begins (R308). -/
def State.spanShort (s : State) (p : Nat) : State :=
  let short := decide (16 * (s.te p : Int) < (s.port p).span)
  let was := s.fbit R.FUR_PORT_STATUS_span_short p
  let s1 := s.fset R.FUR_PORT_STATUS_span_short (b2n short) p
  if short && !was then s1.report 0x0E p else s1

/-- A launch stage latches t_p and the edge trims: t_e, and a clamp reported once as it begins. -/
def State.armPort (s : State) (p : Nat) : State :=
  let tp := s.fget R.PT_LAUNCH_TRIM_trim_ns p
  let te := s.live.trimEff (s.port p).ent tp
  let clamped := decide (te < tp)
  let was := s.fbit R.PT_STATUS_trim_clamped p
  let s1 := (s.fset R.PT_STATUS_trim_eff_ns te p).fset R.PT_STATUS_trim_clamped (b2n clamped) p
  let s2 := if clamped && !was then s1.report 0x09 p else s1
  (s2.setPort p { s2.port p with
    rise := sint (s2.fget R.PT_EDGE_TRIM_rise p) 6, fall := sint (s2.fget R.PT_EDGE_TRIM_fall p) 6 }).spanShort p

/-- The launch stages are armed by −P. -/
def State.armPorts (s : State) : State := (List.range 256).foldl (fun s p => s.armPort p) s

/-! ### Lines -/

/-- Cycles of 2 ns that cover some ns. -/
def cyclesOf (ns : Nat) : Nat := (ns + 1) / 2

/-- A port is starved of its frame (R279). -/
def State.starve (s : State) (p : Nat) : State :=
  ((s.bumpF R.PT_STARVED_COUNT p).fset R.PT_STATUS_starved_last 1 p).report 0x0B p

/-- What a port has to send: its whole frame, nothing because it faulted, or starved; a held port replays its buffer. -/
inductive LineState where
  | ready (b : List Byte)
  | nothing
  | starved
deriving DecidableEq, Repr

def State.lineState (s : State) (p : Nat) : LineState :=
  let f := (s.port p).flow
  if s.fbit R.PT_STATUS_held p then (if f.done then .ready f.buf else .nothing)
  else if f.faulted then .nothing
  else if f.done then .ready f.buf
  else .starved

/-- LINE_START: a pixel line starts at T_f − t_e − D (R265, R266). -/
def State.lineStart (s : State) (p : Nat) : State :=
  let v := s.port p
  if s.portDrives p && (peLine v.ent = mSW || peLine v.ent = mCLOCKED) then
    if s.now < v.freeAt then s.bumpF R.PT_LINE_SKIP_COUNT p
    else
      match s.lineState p with
      | .nothing => s.fset R.PT_STATUS_starved_last 0 p
      | .starved => s.starve p
      | .ready b =>
        ((s.setPort p { v with freeAt := s.now + cyclesOf (peD v.ent + peLow v.ent), lineOn := true }).fset
          R.PT_STATUS_starved_last 0 p).emit (.line p 1 (v.wire v.flow.mark) b)
  else s

def execLineStart (port : Fin 256) (s : State) : Host.Outcome State Fault Refusal := .next (s.lineStart port).settle

/-- A DMX packet's break (R27, R264). A break that the port skips to make room for an RDM transaction, which counted it then, or
that falls within an RDM response, is not sent (R269). -/
def State.dmxBreak (s : State) (p : Nat) : State :=
  let v := s.port p
  if v.skip then s.setPort p { v with skip := false }
  else if v.rdm.isSome then s.bumpF R.PT_RDM_SKIP_COUNT p
  else if s.now < v.freeAt then s
  else
    match s.lineState p with
    | .nothing => s.fset R.PT_STATUS_starved_last 0 p
    | .starved => s.starve p
    | .ready b =>
      ((s.setPort p { v with freeAt := s.now + cyclesOf (peD v.ent), lineOn := true }).fset
        R.PT_STATUS_starved_last 0 p).emit (.line p 0 (v.wire v.flow.mark) (0 :: b))

/-- The COMMIT frame of a Furrow port (R299): `hold` in 1/16 ns. A starved port withholds it and drops the blocks left, and a held
one sends none (R279, R283). -/
def State.furCommit (s : State) (p : Nat) : State :=
  if s.fbit R.PT_STATUS_held p then s
  else
    match s.lineState p with
    | .nothing => s.fset R.PT_STATUS_starved_last 0 p
    | .starved => (s.setFlow p { (s.port p).flow with dropped := true }).starve p
    | .ready _ =>
      let hold := 16 * (s.te p : Int) - (s.port p).out0
      ((s.fset R.PT_STATUS_starved_last 0 p).setPort p { s.port p with committed := some s.readFrame }).furSend p 0x02 0 0x03FF
        (leBytes (twos hold 32) 4 ++ leBytes (s.readFrame % 2 ^ 32) 4)

/-- PORT_COMMIT_EVENT (R264). -/
def State.commitEvent (s : State) (p : Nat) : State :=
  let v := s.port p
  if s.portDrives p then
    if peLine v.ent = mDMX then s.dmxBreak p
    else if peLine v.ent = mFURROW then s.furCommit p
    else if v.lineOn then (s.setPort p { v with lineOn := false }).emit (.line p 2 v.wire [])
    else s
  else s

def execPortCommitEvent (port : Fin 256) (s : State) : Host.Outcome State Fault Refusal :=
  .next (s.commitEvent port).settle

/-! ### RDM (R267..R269) -/

/-- The pieces of a form A operand as they are kept in a flight. -/
def State.rdmRequest (s : State) (host : HostView) (f : Flight) : State :=
  let ws := f.words
  let p := aInst ws
  let e := (s.port p).ent
  if 256 ≤ p ∨ 2 < aClass ws ∨ aOffset ws ≠ 0 ∨ aLength ws < 260 ∨ peLine e ≠ mDMX ∨ peRdm e = false then
    s.finish f stBadField 0
  else
    match s.targetStatus scLateral (p / 32) with
    | some st => s.finish f st 0
    | none =>
      match s.pieces host ws with
      | .bad => s.finish f stBadField 0
      | .dma => s.finish f stDmaError 0
      | .ok l =>
        match s.gather host (aSpace ws) l with
        | none => s.finish f stDmaError 0
        | some b =>
          if leNat (b.take 1) ≠ 0xCC ∨ leNat ((b.drop 2).take 1) < 24 then s.finish f stBadField 0
          else s.setFlight { f with got := b.take (leNat ((b.drop 2).take 1) + 2), parts := l }

def execRdmRequest (host : HostView) (s : State) : Host.Outcome State Fault Refusal :=
  .next (s.startDesc (isOp 0x0A) formAOk (fun s f => s.rdmRequest host f)).settle

/-- The requests that a port holds, in fetch order. -/
def State.rdmQueue (s : State) (p : Nat) : List Flight :=
  s.rings.flight.filter (fun f => dOpcode f.words = 0x0A && aInst f.words = p && !f.applied)

/-- A of R269, in ns. -/
def rdmAllowance (e : PEntry) (slots : Nat) : Nat :=
  1000 * (peBreak e + peMab e + slots * 44 + peRdmTimeout e + peRdmResp e * 44 + 300 + 176)

/-- The time from now to the port's next scheduled break, in 2^-16 ns: the next T_f − t_e, one period later while the
port skips a packet. -/
def State.toBreak (s : State) (p : Nat) : Int :=
  let d := s.fromTf (-(s.te p : Int)) - s.time.loc.t
  let d1 := if 0 ≤ d then d else d % s.period
  if (s.port p).skip then d1 + s.period else d1

/-- The least gap behind a transaction, in ns (R269). -/
def rdmGap : Nat := 176000

/-- How long a port has until the line is free for the next request, in 2^-16 ns. -/
def State.toFree (s : State) (p : Nat) : Int := (2 * ((s.port p).freeAt - s.now : Nat) : Int) * 65536

/-- A transaction has ended: the next packet or request follows at least 176 µs later. -/
def State.rdmEnd (s : State) (p : Nat) : State :=
  s.setPort p { s.port p with rdm := none, freeAt := max (s.port p).freeAt (s.now + cyclesOf rdmGap) }

/-- How long the slots of a request take, in ns: break, mark after break, and 44 µs a slot. -/
def rdmSlots (e : PEntry) (slots : Nat) : Nat := 1000 * (peBreak e + peMab e + slots * 44)

/-- Send a request: its slots leave, and the port listens. One of class 2 completes once its last slot is sent (R268), and the next
may follow behind its gap. -/
def State.rdmSend (s : State) (p : Nat) (f : Flight) : State :=
  let e := (s.port p).ent
  let s1 := s.emit (.line p 4 (s.port p).wire f.got)
  if aClass f.words = 2 then
    (s1.finish { f with applied := true } stOk 0).setPort p { s.port p with
      deferred := 0, freeAt := max (s.port p).freeAt s.now + cyclesOf (rdmSlots e f.got.length + rdmGap) }
  else (s1.setFlight { f with applied := true }).setPort p { s.port p with rdm := some f.id, deferred := 0 }

/-- Whether a request fits before the port's next break, from the time at which the line is free for it. -/
def State.rdmFits (s : State) (p : Nat) (f : Flight) : Bool :=
  decide (s.toFree p + (rdmAllowance (s.port p).ent f.got.length : Int) * 65536 ≤ s.toBreak p)

/-- Start the head request if it fits before the next break, and each following one while the line stays the port's. -/
def State.rdmTry (s : State) (p : Nat) : Nat → State
  | 0 => s
  | n + 1 =>
    match s.rdmQueue p with
    | [] => s
    | f :: _ =>
      if (s.port p).rdm = none && s.rdmFits p f then (s.rdmSend p f).rdmTry p n else s

/-- Every request that a port may hold (R269). -/
def rdmHeld : Nat := 16

/-- RDM_TRANSACTION_START: a packet has ended. A head request that has not fitted at `rdm_defer_max` packet ends in a row
makes the port skip its next packet. -/
def State.rdmStart (s : State) (p : Nat) : State :=
  let v := s.port p
  if s.portDrives p && peLine v.ent = mDMX && peRdm v.ent && v.rdm = none && v.lineOn then
    let s0 := s.setPort p { v with lineOn := false }
    let s1 := s0.rdmTry p rdmHeld
    if s0.rdmQueue p ≠ [] ∧ s1.rdmQueue p = s0.rdmQueue p then
      let n := (s1.port p).deferred + 1
      if peRdmDefer v.ent ≤ n then
        ((s1.setPort p { s1.port p with deferred := 0, skip := true }).bumpF R.PT_RDM_SKIP_COUNT p).rdmTry p rdmHeld
      else s1.setPort p { s1.port p with deferred := n }
    else s1
  else s

def execRdmTransactionStart (port : Fin 256) (s : State) : Host.Outcome State Fault Refusal :=
  .next (s.rdmStart port).settle

/-- Whether a DISC_UNIQUE_BRANCH response decodes with a good checksum (E1.20's preamble, separator and encoding). -/
def discGood (b : List Byte) : Bool :=
  let d := (b.dropWhile (fun x => x = 0xFE#8)).drop 1
  let c (i : Nat) : Nat := (d.getD i 0 &&& d.getD (i + 1) 0).toNat
  decide (16 ≤ d.length) && (b.dropWhile (fun x => x = 0xFE#8)).head? = some 0xAA#8 &&
    (d.take 12).foldl (fun n x => n + x.toNat) 0 % 65536 = c 12 * 256 + c 14

/-- A response ends (R268): its bytes go to the request's buffer from byte 0. -/
def State.rdmResponse (s : State) (p : Nat) (b : List Byte) (framing : Bool) : State :=
  match (s.port p).rdm with
  | none => s
  | some id =>
    let s0 := s.rdmEnd p
    match s0.flight id with
    | none => s0
    | some f =>
      let got := b.take (aLength f.words)
      let s1 :=
        match s0.spread s0.pcie.fails (aSpace f.words) (partsFrom f.parts 0 got.length) got with
        | none => s0.finish f stDmaError 0
        | some s2 =>
          if aClass f.words = 1 then s2.finish f stOk (got.length + if framing || !(discGood got) then 2 ^ 32 else 0)
          else if (got.getD 16 0).toNat = 2 then s2.finish f stRdmNack got.length
          else s2.finish f stOk got.length
      s1.rdmTry p rdmHeld

def execRdmResponse (port : Fin 256) (bytes : List Byte) (framing : Bool) (s : State) :
    Host.Outcome State Fault Refusal :=
  .next (s.rdmResponse port bytes framing).settle

/-- No response started within `rdm_timeout_us`. -/
def State.rdmTimeout (s : State) (p : Nat) : State :=
  match (s.port p).rdm with
  | none => s
  | some id =>
    let s0 := s.rdmEnd p
    match s0.flight id with
    | none => s0
    | some f => ((s0.finish f stRdmNone 0).bumpF R.PT_RDM_TIMEOUT_COUNT p).rdmTry p rdmHeld

def execRdmTimeout (port : Fin 256) (s : State) : Host.Outcome State Fault Refusal := .next (s.rdmTimeout port).settle

/-- Complete the requests that a port has not started. -/
def State.dropRdm (s : State) (p status : Nat) : State := (s.rdmQueue p).foldl (fun s f => s.finish f status 0) s

/-! ### The spare flume and laterals in service (R282..R287) -/

def State.setSvc (s : State) (v : Option LatSvc) : State := { s with die := { s.die with svc := v } }

/-- Whether a port keeps its entry because its lateral is in service (R284), or because the table's is not committed again after a
D reset put the port to REST (R289). -/
def State.entryHeld (s : State) (p : Nat) : Bool :=
  s.die.stale.contains p ||
    match s.die.svc with
    | some v => v.lateral = p / 32 && v.ending = none
    | none => false

/-- Show what FL_TAKEOVER shows while lateral `l` moves to F8. -/
def State.showTakeover (s : State) (active : Bool) (l moved : Nat) : State :=
  ((s.fset R.FL_TAKEOVER_active (b2n active)).fset R.FL_TAKEOVER_lateral l).fset R.FL_TAKEOVER_moved moved

/-- A lateral enters service at its target input cut. With `mode` 2, F8 has taken the lateral's microcode, slice table and
port entries in place of its own. -/
def State.latBegin (s : State) (l mode frame : Nat) (flight : Option Nat) : State :=
  let s1 := (s.fset R.UPD_REACH_STATUS_laterals (s.fget R.UPD_REACH_STATUS_laterals ||| 2 ^ l)).setSvc
    (some { lateral := l, mode := mode, begin_ := frame, flight := flight })
  let s2 := (List.range 32).foldl (fun s k => s.dropRdm (32 * l + k) stInService) s1
  let s3 := if mode = 2 then
      (((s2.setFlume 8 (s2.flume l)).setTable 0x40 8 (s2.table 0x40 l)).setTable 0x41 8 (s2.table 0x41 l)).showTakeover
        true l 0
    else s2
  (s3.flumeStatus 8).eventOf blkUpd (32 + 2 * l)

/-- Service of the lateral ends: at the target input cut of `frame` the held table counts, and the ports return at their
rest points. A begin that has not completed yet completes OK first. -/
def State.latEnd (s : State) (frame : Nat) (flight : Option Nat) : State :=
  match s.die.svc with
  | none => s
  | some v =>
    let s1 := match v.flight.bind (fun id => s.flight id) with
      | some f => s.finish f stOk 0
      | none => s
    let s2 := (s1.fset R.UPD_REACH_STATUS_laterals
      (s1.fget R.UPD_REACH_STATUS_laterals - s1.fget R.UPD_REACH_STATUS_laterals / 2 ^ v.lateral % 2 * 2 ^ v.lateral)).eventOf
        blkUpd (33 + 2 * v.lateral)
    let l := v.lateral
    let s3 := s2.setFlume l { s2.flume l with slices := s2.slicesFor s2.live l l }
    if v.moved = [] then
      let s4 := (s3.setSvc none).showTakeover false 15 0
      match flight.bind (fun id => s4.flight id) with
      | some f => s4.finish f stOk 0
      | none => s4
    else s3.setSvc (some { v with flight := none, ending := some frame, endFlight := flight })

/-- The service step of a port's rest point: it moves to F8 or is held, or comes back. -/
def State.svcRest (s : State) (p : Nat) : State :=
  match s.die.svc with
  | none => s
  | some v =>
    if v.lateral ≠ p / 32 then s
    else
      match v.ending with
      | none =>
        let due := if v.mode = 2 ∨ v.read && peLine (s.port p).ent = mDMX then v.begin_ ≤ s.readFrame else v.begin_ < s.readFrame
        if ¬ due ∨ v.moved.contains p then s
        else
          let v1 := { v with moved := v.moved ++ [p] }
          let s1 := s.setSvc (some v1)
          let s2 := if v.mode = 2 then (s1.fset R.PT_STATUS_on_spare 1 p).showTakeover true v.lateral v1.moved.length
            else s1.fset R.PT_STATUS_held 1 p
          let s3 := (s2.flumeStatus v.lateral).flumeStatus 8
          if v1.moved.length = 32 then
            let s4 := (if v.mode = 2 then s3.bumpF R.FL_TAKEOVER_COUNT else s3).setSvc (some { v1 with flight := none })
            match v.flight.bind (fun id => s4.flight id) with
            | some f => s4.finish f stOk 0
            | none => s4
          else s3
      | some n =>
        if s.readFrame < n ∨ !(v.moved.contains p) then s
        else
          let v1 := { v with moved := v.moved.filter (· ≠ p) }
          let s1 := ((s.setSvc (some v1)).fset R.PT_STATUS_on_spare 0 p).fset R.PT_STATUS_held 0 p
          let s2 := if v.mode = 2 then s1.showTakeover true v.lateral v1.moved.length else s1
          let s3 := (s2.flumeStatus v.lateral).flumeStatus 8
          if v1.moved = [] then
            let s4 := ((s3.setSvc none).showTakeover false 15 0).setFlume v.lateral
              { s3.flume v.lateral with slices := s3.slicesFor s3.live v.lateral v.lateral }
            match v.endFlight.bind (fun id => s4.flight id) with
            | some f => s4.finish f stOk 0
            | none => s4
          else s3

/-- The take-in of a lateral that a flume fault moves (R287). -/
def State.takeAsk (s : State) (frame : Nat) : State :=
  match s.die.ask with
  | some l =>
    let s1 := { s with die := { s.die with ask := none } }
    if s1.die.svc = none then s1.latBegin l 2 frame none else s1
  | none => s

/-! ### Rest points (R281) -/

/-- Begin an enumeration of a Furrow port (R314). -/
def State.enumStart (s : State) (p : Nat) : State :=
  let v := s.port p
  (s.setPort p { v with enumPhase := 1, identFirst := 0, identCount := 0, top := 0, idents := [] }).fset R.FUR_PORT_STATUS_enum_busy 1 p

/-- Whether a port that enters FURROW mode enumerates: `auto_enum`, or the first time after an exit from DORMANT (R314, R321). -/
def State.enumsOnEntry (s : State) (p : Nat) : Bool := bits ((s.port p).ent 8) 31 31 = 1 || s.die.again.contains p

/-- A port takes its new entry: its keep area is cleared, and what belongs to the old mode ends. An entry of zeros is none. -/
def State.takeEntry (s : State) (p : Nat) : State :=
  let v := s.port p
  let new := (List.range 16).map (fun w => s.live.portEntry p w)
  let stored := if new.all (fun w => w = 0) then [] else new
  if stored = v.entry then s
  else
    let v1 : Port := { v with entry := stored, flow := {}, lineOn := false, deferred := 0, skip := false }
    let s1 := (s.setPort p v1).fset R.PT_STATUS_mode (peMode v1.ent) p
    let s2 := if peLine v.ent = mDMX ∧ peLine v1.ent ≠ mDMX then s1.dropRdm p stBadField else s1
    let s3 := if peLine v1.ent = mFURROW ∧ peLine v.ent ≠ mFURROW ∧ s2.enumsOnEntry p then
        { s2.enumStart p with die := { (s2.enumStart p).die with again := s2.die.again.filter (· ≠ p) } }
      else s2
    (s3.flumeStatus (p / 32)).flumeStatus 8

/-- A port's rest point after the black frame is noted (R452). -/
def State.noteRest (s : State) (p : Nat) : State :=
  if s.blackLit && !(s.die.rested.contains p) then { s with die := { s.die with rested := s.die.rested ++ [p] } } else s

/-- PORT_REST_POINT: not while an RDM transaction is in flight. -/
def State.restPoint (s : State) (p : Nat) : State :=
  if (s.port p).rdm.isSome then s
  else
    let s0 := s.noteRest p
    let s1 := if s0.entryHeld p then s0 else s0.takeEntry p
    s1.svcRest p

/-- Whether a lateral half's ports have all come to a rest point after the black frame. A port that flumes do not run for has none. -/
def State.halfRested (s : State) (h : Nat) : Bool :=
  (List.range 128).all (fun k =>
    let p := 128 * h + k
    peMode (s.port p).ent = mREST || !(s.flumeRuns p) || s.die.rested.contains p)

def execPortRestPoint (port : Fin 256) (s : State) : Host.Outcome State Fault Refusal := .next (s.restPoint port).settle

/-! ### Flume faults (R286, R287) -/

/-- A flume fault. DESIGN CHOICE: a lateral that a fetched descriptor asks into service counts as one in service (R33, R287; log
entry 105). An ECC error also faults every port of the flume that reads the word (R278). -/
def State.flumeFault (s : State) (f : Nat) (ecc : Bool) (ports : BitVec 32) : State :=
  let mine := (List.range 256).filter (fun p => s.portFlume p = f && peMode (s.port p).ent ≠ mREST)
  let stuck := mine.any (fun p => decide (4 ≤ (s.port p).flow.stuck))
  if ecc || stuck then
    let s1 := if ecc then (mine.filter (fun p => ports.getLsbD (p % 32) && (s.port p).flow.running)).foldl
      (fun s p => s.flowFault p 0xFFFF) s else s
    let s2 := (s1.bumpF R.FL_FAULT_COUNT f).report 0x0C f
    if f < 8 ∧ s2.fbit R.FL_CTRL_auto_spare ∧ s2.die.svc = none ∧ s2.die.ask = none ∧
        !(reachAsked s2.fetched scLateral (fun l => l ≠ f)) then
      { s2 with die := { s2.die with ask := some f } }
    else s2
  else s

def execFlumeFault (flume : Fin 9) (ecc : Bool) (ports : BitVec 32) (s : State) : Host.Outcome State Fault Refusal :=
  .next (s.flumeFault flume ecc ports).settle

end Sys2Proof.Machine
end

