-- ==== Sys2Proof/Machine/Furrow.lean ====
section
/-! DEFINITION. The Furrow link (chapter 10): the start of read-out, probes, the return window and its records, and the
enumeration and configuration of nodes. -/

namespace Sys2Proof.Machine

/-- The nodes of a port that the node table lists. -/
def State.portNodes (s : State) (p : Nat) : List Nat :=
  s.nodes.filterMap (fun e => if e.1 / 1024 = p then some (e.1 % 1024) else none)

/-! ### The start of read-out (R276, R296) -/

/-- TIME (R301). -/
def State.timePayload (s : State) : List Byte :=
  let t := s.baseAt s.time.ptp (s.tfOf s.readFrame)
  leBytes (twos (secOf t) 48) 6 ++ leBytes (nsOf t) 4 ++ leBytes (s.period / 65536).toNat 4 ++
    leBytes (s.period % 65536).toNat 2 ++ leBytes (b2n (s.fbit R.GLB_FRAME_STATUS_lock)) 1 ++ [0, 0, 0]

/-- Repeat the SUPPLY commands of a port that its last window did not acknowledge (R311). -/
def State.supplyAgain (s : State) (p : Nat) : State :=
  (s.water.supply.filter (fun c => c.port = p && !c.sentNow)).foldl (fun s c => s.furSupply c)
    { s with water := { s.water with supply := s.water.supply.map (fun c => if c.port = p then { c with sentNow := true } else c) } }

/-- A context restarts (R276): at the catalogue program of its mode, or at `entry` for EXPERT. -/
def restartFlow (e : PEntry) (f : Flow) : Flow :=
  { keep := f.keep
    pc := if peMode e = mEXPERT then bits (e 12) 13 0 else romStart (peMode e)
    running := true
    stuck := if f.running || f.faulted then f.stuck + 1 else 0 }

/-- The TIME and ENUM frames of a period (R296, R312), after the SUPPLY frames that are repeated. -/
def State.furOpen (s : State) (p : Nat) : State :=
  let v := s.port p
  let s1 := (s.supplyAgain p).furSend p 0x03 0 0x03FF s.timePayload
  s1.furSend p 0x06 0 0x03FF (leBytes 0 2 ++ leBytes v.identFirst 2 ++ leBytes v.identCount 2)

/-- Whether read-out leaves a port alone: its lateral is in service without F8, and the target frame has been read out (R283). -/
def State.unserved (s : State) (p : Nat) : Bool :=
  s.fbit R.PT_STATUS_held p ||
    match s.die.svc with
    | some c => c.lateral = p / 32 && c.mode ≠ 2 && c.ending = none && decide (c.begin_ < s.readFrame)
    | none => false

/-- Read-out of one port starts. A port that is not served keeps its buffer (R283); its link goes on. -/
def State.readoutPort (s : State) (p : Nat) : State :=
  let v := s.port p
  if peMode v.ent = mREST ∨ s.flumeRuns p = false then s
  else
    let black := match s.die.svc with
      | some c => c.lateral = p / 32 && c.mode = 1 && c.ending = none && c.begin_ = s.readFrame
      | none => false
    let s1 := if s.unserved p then s.setPort p { v with fired := [], probed := [] }
      else s.setPort p { v with flow := restartFlow v.ent v.flow, black := black, fired := [], probed := [] }
    if peLine v.ent = mFURROW then s1.furOpen p else s1

/-- The ports to which a pixel map sends pixels that they do not have: a mode without pixels, or too few of them (R206). -/
def State.unsentPorts (s : State) : List Nat :=
  ((List.range 4).flatMap (fun c => (s.live.mapEntries c).filterMap (fun k =>
    let e := (s.port (s.live.mapPort c k)).ent
    if peLine e = mREST ∨ peLine e = mDMX ∨ pePixels e ≤ s.live.mapIndex c k then some (s.live.mapPort c k) else none))).eraseDups

/-- Each such port is counted once a frame. -/
def State.countUnsent (s : State) : State :=
  ((List.range 256).filter (fun p => s.unsentPorts.contains p)).foldl (fun s p =>
    (s.bumpF R.CMP_MAP_UNSENT_COUNT).fset R.CMP_MAP_UNSENT_PORT_port p) s

def State.readoutStart (s : State) : State :=
  let s1 := (List.range 256).foldl (fun s p => s.readoutPort p) s.countUnsent
  s1.setSvc (s1.die.svc.map (fun c => { c with read := c.read || decide (c.begin_ ≤ s1.readFrame) }))

def execReadoutStart (s : State) : Host.Outcome State Fault Refusal := .next s.readoutStart.settle

/-! ### Probes and configuration (R310, R315) -/

/-- A probe target: node in [9:0], its pixel in [16:10]. -/
def Tabs.probeTarget (t : Tabs) (p key : Nat) : Option (List Byte) :=
  (t.nodeOfPixel p (key % 32768)).map (fun n => leBytes (n + 1024 * (key % 32768 - t.nodeFirst p n)) 3)

/-- List frames of at most 170 targets. -/
def chunkBytes : Nat → List (List Byte) → List (List Byte)
  | 0, _ => []
  | _, [] => []
  | k + 1, l => ((l.take 170).flatMap (fun x => x)) :: chunkBytes k (l.drop 170)

/-- The CONFIG payload of a node (R315). -/
def State.configPayload (s : State) (p n seq : Nat) : List Byte :=
  let t := s.live
  let e := (s.port p).ent
  let w1 := t.nodeW p n 1
  leBytes seq 1 ++ [0] ++ leBytes (t.nodeFirst p n * peEmitters e * peBits e) 3 ++ leBytes (t.nodePixels p n * peEmitters e) 1 ++
    leBytes (peBits e) 1 ++ leBytes (bits w1 31 30) 1 ++ leBytes (bits w1 29 20) 2 ++ leBytes (bits w1 19 8) 2 ++
    leBytes (bits w1 7 0) 1 ++ leBytes (peEmitters e) 1 ++ leBytes n 2 ++ [0, 0]

/-- A node's CONFIG frame. From now on its latest CONFIG is not acknowledged. -/
def State.sendConfig (s : State) (p n : Nat) : State :=
  let q := ((s.port p).seq + 1) % 256
  let s1 := (s.setPort p { s.port p with seq := q }).setNode p n { s.node p n with
    configPending := 2, cfgSeq := q, configured := false }
  s1.furSend p 0x07 0 n (s1.configPayload p n q)

/-- The nodes whose CONFIG waits. -/
def State.configsDue (s : State) (p : Nat) : List Nat :=
  (s.portNodes p).filter (fun n => (s.node p n).configPending = 1 && s.live.nodeOk p n)

/-- Send the CONFIG frames that wait and fit, `fit` of them; the others wait for the next period (R296). -/
def State.sendConfigs (s : State) (p fit : Nat) : State :=
  ((s.configsDue p).take fit).foldl (fun s n => s.sendConfig p n) s

/-- T_f + G of the frame in light has not come. -/
def State.fallWaits (s : State) : Bool :=
  !(s.fbit R.GLB_FRAME_STATUS_repeat_last) &&
    decide (s.clockNow < s.tfOf s.frame + (s.fget R.WM_SUPPLY_TIMING_lag_us : Int) * 1000 * 65536)

/-- The set-points of a port's zones that fall due behind the firing frame go out ahead of it (R296). -/
def State.supplyEarly (s : State) (p : Nat) : State :=
  if s.fbit R.WM_CTRL_supply_enable then
    let mine := s.live.zones.filter (fun z => s.live.zonePath z = 2 && bits (s.live.zoneW z 1) 31 24 = p)
    let s1 := if s.fallWaits then mine.foldl (fun s z => s.sendFall z) s else s
    (mine.filter (fun z => s1.riseDue z)).foldl (fun s z => s.sendRise z) s1
  else s

/-- FIRING_PROBE: the probe list, the CONFIG frames that fit, what SUPPLY would fall due later, and the firing frame. -/
def State.firingProbe (s : State) (p configs : Nat) : State :=
  if s.portDrives p && peLine (s.port p).ent = mFURROW then
    let keys := s.water.probes.filter (fun k => k / 32768 = p && (s.live.nodeOfPixel p (k % 32768)).isSome)
    let lists := chunkBytes 8 (keys.filterMap (fun k => s.live.probeTarget p k))
    let s1 := lists.foldl (fun s b => s.furSend p 0x04 0 0x03FF b) s
    let s2 := (s1.sendConfigs p configs).supplyEarly p
    (s2.setPort p { s2.port p with fired := keys, probed := [] }).furSend p 0x04 1 0x03FF
      (leBytes (s.fget R.WM_PROBE_CFG_pulse_us) 2)
  else s

def execFiringProbe (port : Fin 256) (configs : Fin 1025) (s : State) : Host.Outcome State Fault Refusal :=
  .next (s.firingProbe port configs).settle

/-! ### The return window (R303..R309) -/

/-- out_0 in ns, rounded down. -/
def Port.out0Ns (v : Port) : Int := v.out0 / 16

/-- TURN_SET: the turn set leaves, and the line is released. W is sent low byte first. -/
def State.turnSet (s : State) (p : Nat) : State :=
  let v := s.port p
  if s.portDrives p && peLine v.ent = mFURROW then
    let w := leBytes (1000 * (peReturnUs v.ent : Int) - 1000 - 2 * v.out0Ns).toNat 3
    (s.setPort p { v with window := true, heard := [] }).sendSymbols p
      (.turn :: (w ++ [w.getD 0 0 ^^^ w.getD 1 0 ^^^ w.getD 2 0]).map Symbol.data)
  else s

def execTurnSet (port : Fin 256) (s : State) : Host.Outcome State Fault Refusal := .next (s.turnSet port).settle

/-- FURROW_PONG: r_0 in 1/16 ns gives out_0 (R308). -/
def State.furPong (s : State) (p r0 : Nat) : State :=
  let v := s.port p
  if v.window then
    s.setPort p { v with out0 := ((r0 : Int) - 6400 + 16 * sint (s.fget R.PT_PATH_ASYM_asym_ns p) 12) / 2 }
  else s

def execFurrowPong (port : Fin 256) (r0 : BitVec 32) (s : State) : Host.Outcome State Fault Refusal :=
  .next (s.furPong port r0.toNat).settle

/-- I in 2^-16 ns: the interval between a node's two latest apply instants, and P until it has applied two frames (R302). -/
def State.applyInterval (s : State) (v : Node) : Int :=
  match v.applies with
  | [a, b] => a - b
  | _ => s.period

/-- T_pwm of a node in ns, as a numerator and a denominator: its own, or T_lock of a locked one (R302). -/
def State.nodePwm (s : State) (p n : Nat) : Nat × Nat :=
  let w1 := s.live.nodeW p n 1
  if bits w1 31 30 = 0 then ((s.node p n).tPwm, 1)
  else ((s.applyInterval (s.node p n)).toNat, 65536 * max 1 (bits w1 29 20))

/-- Whether a value lights its emitter for at least t_min. -/
def litFor (tMin : Nat) (pwm : Nat × Nat) (v : Nat) : Bool := decide (tMin ≤ v * pwm.1 / (65535 * pwm.2))

/-- `n` little-endian bytes of a record from byte `a`. -/
def lNum (b : List Byte) (a n : Nat) : Nat := leNat ((b.drop a).take n)

/-- The channels that a record reports faulted. -/
def faultChannels (b : List Byte) : List Nat :=
  if bits (lNum b 0 2) 15 12 = 2 then
    (List.range 96).filter (fun c => (lNum b 16 12 ||| lNum b 28 12) / 2 ^ c % 2 = 1)
  else if bits (lNum b 0 2) 15 12 = 1 then []
  else if lNum b 10 1 = 255 then [] else [lNum b 10 1]

/-- The flags of a TELEMETRY or EXTENDED record; an IDENT has none. -/
def recordFlag (b : List Byte) (i : Nat) : Bool := bits (lNum b 0 2) 15 12 ≠ 1 && lNum b 2 1 / 2 ^ i % 2 = 1

/-- A node that reports `applied` has applied the frame of its port's latest COMMIT, `f`; otherwise it keeps the frame before
(R299, R300). -/
def State.nodeApplies (s : State) (p n f : Nat) (b : List Byte) : State :=
  match s.cmp.past.find? (fun v => v.frame == f) with
  | some v =>
    let w := s.node p n
    if recordFlag b 0 && w.frame ≠ some f then
      s.setNode p n { w with
        frame := some f, applies := v.instant :: w.applies.take 1
        vals := (List.range (s.live.nodePixels p n)).map (fun i => mget px0 v.px (32768 * p + s.live.nodeFirst p n + i)) }
    else s
  | none => s

/-- What a record says of the legibility members of its node (R250, R307): each emitter that the frame last applied lit, or whose
pixel was probed, is measured good for that frame, unless the record reports it faulted. `probed` are the pixels of the port's
probes; a node that has applied nothing counts for frame `f`. -/
def State.recordMembers (s : State) (p n f : Nat) (probed : List Nat) (b : List Byte) : State :=
  let t := s.live
  if t.nodeOk p n then
    let em := max 1 (peEmitters (s.port p).ent)
    let bad := faultChannels b
    let v := s.node p n
    let pwm := s.nodePwm p n
    (List.range (t.nodePixels p n)).foldl (fun s i =>
      let key := 32768 * p + t.nodeFirst p n + i
      if t.isMember key then
        let vals := v.vals.getD i []
        s.setMember key ((List.range em).foldl (fun (m : Member) e =>
          let lit := (recordFlag b 2 && probed.contains key) || (v.known && litFor v.tMin pwm (vals.getD e 0))
          if bad.contains (i * em + e) then { m with bad := if m.bad.contains e then m.bad else m.bad ++ [e] }
          else if lit then { m with good := mset nat0 m.good e (v.frame.getD f + 1), bad := m.bad.filter (· ≠ e) }
          else m) (s.member key))
      else s) s
  else s

/-- A node's acknowledgement of a SUPPLY command. -/
def State.supplyAcked (s : State) (p n seq : Nat) : State :=
  match s.water.supply.find? (fun c => c.port = p && c.node = n && c.seq = seq && c.sentNow) with
  | some c =>
    ({ s with water := { s.water with supply := s.water.supply.filter (fun d => !(d.zone = c.zone && d.cmd = c.cmd)) } }).zoneAck
      c.zone c.cmd c.value
  | none => s

/-- The fields of a TELEMETRY or EXTENDED record. -/
def State.takeTelemetry (s : State) (p n : Nat) (b : List Byte) : State :=
  let v := s.node p n
  let flags := lNum b 2 1
  let bit (i : Nat) : Bool := flags / 2 ^ i % 2 = 1
  let crc := lNum b 4 2
  let s1 := if v.seen then s.bumpN (R.FUR_CRC_ERR_COUNT.off p) ((crc + 65536 - v.crcErrors) % 65536) else s
  let s2 := if bit 1 then s1.bumpF R.FUR_NODE_MISS_COUNT p else s1
  let s3 := if bit 3 then s2.bumpF R.FUR_LATE_APPLY_COUNT p else s2
  let acked := v.configPending = 2 && lNum b 7 1 = v.cfgSeq
  let v1 := { v with seen := true, crcErrors := crc, hop := lNum b 8 2 }
  let v2 := if bit 6 then { v1 with configured := false, configPending := if v.configPending = 2 && !acked then 2 else 1 }
    else if acked then { v1 with configured := true, configPending := 0 } else v1
  let s4 := s3.setNode p n v2
  let s5 := if bit 2 then s4.setPort p { s4.port p with probed := (s4.port p).probed ++ [n] } else s4
  s5.supplyAcked p n (lNum b 6 1)

/-- The fields of an IDENT record (R313). -/
def State.takeIdent (s : State) (p n : Nat) (b : List Byte) : State :=
  let v := { s.node p n with known := true, uid := lNum b 2 6, model := lNum b 8 4, channels := lNum b 12 1 % 128, caps := lNum b 13 1,
                             tMin := lNum b 14 2, tPwm := lNum b 16 4, fwd := lNum b 20 2 }
  let q := s.port p
  (s.setNode p n v).setPort p { q with idents := if q.idents.contains n then q.idents else q.idents ++ [n] }

/-- How many frames in a row a mapped node has sent nothing in (R250). -/
def State.setMute (s : State) (p n k : Nat) : State :=
  { s with water := { s.water with mute := mset nat0 s.water.mute (nodeKey p n) k } }

/-- A record with good CRC (R307), from the window or, on a standby, from the ledger: `f` is the frame of the port's latest COMMIT,
`probed` the pixels of its probes. -/
def State.takeRecord (s : State) (p f : Nat) (probed : List Nat) (b : List Byte) : State :=
  let n := bits (lNum b 0 2) 9 0
  let s1 := if bits (lNum b 0 2) 15 12 = 1 then s.takeIdent p n b else s.takeTelemetry p n b
  let v := s1.node p n
  let q := s1.port p
  let s2 := (((s1.setNode p n { v with silent := 0, reported := false }).setMute p n 0)).setPort p
    { q with heard := if q.heard.contains n then q.heard else q.heard ++ [n] }
  (s2.nodeApplies p n f b).recordMembers p n f probed b

/-- FURROW_RECORD. -/
def State.furRecord (s : State) (p : Nat) (b : List Byte) (crcGood : Bool) : State :=
  let v := s.port p
  if v.window then
    let f := v.committed.getD (s.readFrame - 1)
    if crcGood then (s.takeRecord p f v.fired b).ledgerAdd 0x0A p (3 :: f :: v.fired.length :: (v.fired ++ b.map BitVec.toNat))
    else s.bumpF R.FUR_RET_BAD_COUNT p
  else s

def execFurrowRecord (port : Fin 256) (bytes : List Byte) (crcGood : Bool) (s : State) : Host.Outcome State Fault Refusal :=
  .next (s.furRecord port bytes crcGood).settle

/-- Arrival delays along the chain from node `k` on, at most `n` nodes (R308). -/
def State.chainDelays (s : State) (p : Nat) : Nat → Nat → Int → State
  | 0, _, _ => s
  | n + 1, k, d =>
    if s.nodes.any (fun e => e.1 / 1024 = p && decide (k ≤ e.1 % 1024)) then
      let v := s.node p k
      let s1 := if v = {} then s else s.setNode p k { v with delay := twos d 32 }
      s1.chainDelays p n (k + 1) (d + v.fwd + if v.hop = 0xFFFF then 0 else v.hop)
    else s

/-- The largest of some delays; 0 of none. -/
def largest : List Int → Int
  | [] => 0
  | a :: l => l.foldl max a

/-- S and its signs. FUR_PORT_SPAN shows a negative S as two's complement. -/
def State.furSpan (s : State) (p : Nat) : State :=
  let s1 := s.chainDelays p 1024 0 (s.port p).out0
  let span := largest ((s.port p).heard.map (fun n => sint (s1.node p n).delay 32))
  ((s1.fset R.FUR_PORT_SPAN (twos (-((-span) / 16)) 32) p).setPort p { s1.port p with span := span }).spanShort p

/-- How many nodes identify in one window (R309, R314): at least one. -/
def State.identFit (s : State) (p : Nat) : Nat :=
  let v := s.port p
  let room := (1000 * peReturnUs v.ent : Int) + 2 * ((-v.span) / 16) - 2000 - 960 * (v.top + 1)
  max 1 (room / 640).toNat

/-- An enumeration ends: the node table holds its results and no node beside them, and the nodes with a valid entry are to be
configured (R314, R315). -/
def State.enumDone (s : State) (p : Nat) : State :=
  let s0 := ((s.portNodes p).filter (fun n => !((s.port p).idents.contains n))).foldl (fun s n => s.setNode p n {}) s
  let s1 := (s0.setPort p { s0.port p with enumPhase := 0, identFirst := 0, identCount := 0 }).fset R.FUR_PORT_STATUS_enum_busy 0 p
  (s1.portNodes p).foldl (fun s n =>
    if s.live.nodeOk p n then s.setNode p n { s.node p n with configPending := 1 } else s) s1

/-- The enumeration's step at a window's end (R314). -/
def State.enumStep (s : State) (p : Nat) : State :=
  let v := s.port p
  if v.enumPhase = 0 then s
  else
    let top := if v.enumPhase = 1 then v.heard.foldl max 0 else v.top
    if v.enumPhase = 1 ∧ v.heard = [] then s.enumDone p
    else
      match (List.range (top + 1)).find? (fun n => !(v.idents.contains n)) with
      | none => s.enumDone p
      | some n =>
        let s1 := s.setPort p { v with enumPhase := 2, top := top }
        s1.setPort p { v with enumPhase := 2, top := top, identFirst := n, identCount := s1.identFit p }

/-- A SUPPLY command whose window has passed (R311). -/
def State.supplyWindow (s : State) (p : Nat) : State :=
  let mine := s.water.supply.filter (fun c => c.port = p && c.sentNow)
  mine.foldl (fun s c =>
    if c.again then
      ({ s with water := { s.water with supply := s.water.supply.filter (fun d => !(d.zone = c.zone && d.cmd = c.cmd)) } }).zoneFail
        c.zone
    else
      { s with water := { s.water with supply := s.water.supply.map (fun d =>
        if d.zone = c.zone && d.cmd = c.cmd then { d with again := true, sentNow := false } else d) } }) s

/-- The nodes of a port at a window's end: who was heard, who is missing, which CONFIG is to be repeated. -/
def State.windowNodes (s : State) (p : Nat) : State :=
  let heard := (s.port p).heard
  (s.portNodes p).foldl (fun s n =>
    let v := s.node p n
    let h := heard.contains n
    let s1 := s.setNode p n { v with heard := h, silent := if h then 0 else v.silent + 1
                                     configPending := if v.configPending = 2 then 1 else v.configPending }
    let s2 := if v.configured && !h then s1.bumpF R.FUR_UNHEARD_COUNT p else s1
    if v.configPending = 2 then s2.bumpF R.FUR_CONFIG_RETRY_COUNT p else s2) s

/-- A configured node was not heard, and none of the nodes beyond it either (R309). -/
def State.windowShort (s : State) (p : Nat) : Bool :=
  let heard := (s.port p).heard
  let ns := s.portNodes p
  ns.any (fun k => (s.node p k).configured && !(heard.contains k) && ns.any (fun j => decide (k < j)) &&
    heard.all (fun j => decide (j < k)))

/-- Probed members whose result did not come back (R252). -/
def State.probeMisses (s : State) (p : Nat) : Nat :=
  ((s.port p).fired.filter (fun k =>
    match s.live.nodeOfPixel p (k % 32768) with
    | some n => !((s.port p).probed.contains n)
    | none => true)).length

/-- The mapped nodes of a port that a window did not hear; from the fourth in a row on their member pixels are FAILED, which the ledger
tells a standby (R250, R251). -/
def State.windowMute (s : State) (p : Nat) : State :=
  ((s.live.nodesListed p).filter (fun n => !((s.port p).heard.contains n))).foldl (fun s n =>
    let k := mget nat0 s.water.mute (nodeKey p n) + 1
    let s1 := s.setMute p n (min k 4)
    if k = 4 then s1.ledgerAdd 0x0A p [5, n] else s1) s

/-- RETURN_WINDOW_END. -/
def State.windowEnd (s : State) (p : Nat) : State :=
  if (s.port p).window then
    let s1 := (s.fset R.FUR_PORT_STATUS_nodes_heard (s.port p).heard.length p).fset R.FUR_PORT_STATUS_window_short
      (b2n (s.windowShort p)) p
    let s2 := s1.bumpN R.WM_PROBE_MISS_COUNT.off (s1.probeMisses p)
    let s3 := ((((s2.windowNodes p).windowMute p).furSpan p).supplyWindow p).enumStep p
    s3.setPort p { s3.port p with window := false, fired := [], probed := [] }
  else s

def execReturnWindowEnd (port : Fin 256) (s : State) : Host.Outcome State Fault Refusal := .next (s.windowEnd port).settle

/-- A node has sent nothing in four windows running, and its member pixels are FAILED until it is heard (R250). -/
def State.nodeLost (s : State) (p n : Nat) : State := s.setNode p n { s.node p n with reported := true }

/-- FUR_NODE_SILENT: a node unheard in 4 windows running is reported once (R307). -/
def State.nodeSilent (s : State) (p n : Nat) : State :=
  if decide (4 ≤ (s.node p n).silent) && !(s.node p n).reported then
    ((s.nodeLost p n).report 0x0D p n).ledgerAdd 0x0A p [4, n]
  else s

def execFurNodeSilent (port : Fin 256) (node : Fin 1024) (s : State) : Host.Outcome State Fault Refusal :=
  .next (s.nodeSilent port node).settle

/-- What a LATERAL commit does to the nodes whose entry it changes: they are to be configured (R315). -/
def State.nodesCommitted (s : State) (old : Tabs) (l : Nat) : State :=
  let t := s.live
  (s.nodes.filter (fun e => e.1 / 32768 = l)).foldl (fun s e =>
    let p := e.1 / 1024
    let n := e.1 % 1024
    if t.nodeOk p n && (old.nodeW p n 0 ≠ t.nodeW p n 0 || old.nodeW p n 1 ≠ t.nodeW p n 1) then
      s.setNode p n { s.node p n with configPending := 1 }
    else s) s

/-! ### Registers (R321) -/

/-- A write of FUR_CTRL: `enum_port` is stored, and `enum_go` enumerates a port in FURROW mode. -/
def State.furCtrlWrite (s : State) (v : Word) : State :=
  let s1 := s.fset R.FUR_CTRL_enum_port (getBits v 7 0)
  if v.getLsbD 31 && peLine (s1.port (getBits v 7 0)).ent = mFURROW then s1.enumStart (getBits v 7 0) else s1

/-- A write of FUR_NODE_BASE: discarded and counted while any port is in FURROW mode. -/
def State.nodeBaseWrite (s : State) (req : Requester) (v : Word) : State :=
  if s.die.ports.any (fun e => peLine e.2.ent = mFURROW) then s.accessErr true req R.FUR_NODE_BASE.off
  else s.fset R.FUR_NODE_BASE_base_64k (getBits v 17 0)

/-- The node registers, word `w` from 0x0010, of the node that FUR_NODE_SEL names, as the node table holds it (`Node.bytes`). What the
Reservoir held before a reset is no node: they read 0 (the Reset column of R321). -/
def State.nodeView (s : State) (w : Nat) : Nat :=
  if s.node (s.fget R.FUR_NODE_SEL_port) (s.fget R.FUR_NODE_SEL_node) = {} then 0
  else
  let a := s.nodeAt (s.fget R.FUR_NODE_SEL_port) (s.fget R.FUR_NODE_SEL_node)
  let g (i n : Nat) : Nat := memNat s.mem.reservoir (a + i) n
  match w with
  | 0 => g 0 4
  | 1 => g 4 2
  | 2 => g 28 1 % 2 * 2 ^ 31 + g 28 1 / 2 % 2 * 2 ^ 30 + g 10 1 % 128 * 256 + g 11 1
  | 3 => g 12 2 * 65536 + g 18 2
  | 4 => g 14 4
  | 5 => g 20 4
  | _ => g 26 2 * 65536 + g 24 2

end Sys2Proof.Machine
end

