-- ==== Sys2Proof/Machine/Sacn.lean ====
section
/-! DEFINITION. sACN (chapter 11, R335..R345): the E1.31 packets that a MAC sends with their due instants, the packets it
receives, the sources of each receive entry and their merge at an input cut, and the checks of a NET commit. Packet
layouts inside E1.31, UDP, IPv4 and Ethernet are those of the standards that the spec names. -/

namespace Sys2Proof.Machine

/-! ### Frames that the device originates (R323) -/

/-- The one's complement sum of 16-bit words, for the IPv4 header checksum. -/
def ipSum : List Byte → Nat
  | a :: b :: t => a.toNat * 256 + b.toNat + ipSum t
  | [a] => a.toNat * 256
  | [] => 0

def ipCheck (b : List Byte) : Nat :=
  let s := ipSum b
  let s1 := s % 65536 + s / 65536
  let s2 := s1 % 65536 + s1 / 65536
  65535 - s2

/-- An Ethernet frame from MAC `m`, tagged while NET_VLAN is enabled, padded to 60 bytes without its FCS. -/
def State.ownFrame (s : State) (m dest et : Nat) (payload : List Byte) : List Byte :=
  let tag := if s.fbit R.NET_VLAN_enable m then
      beBytes 0x8100 2 ++ beBytes (s.fget R.NET_VLAN_pcp m * 8192 + s.fget R.NET_VLAN_vid m) 2 else []
  let f := beBytes dest 6 ++ beBytes (s.macAddr m) 6 ++ tag ++ beBytes et 2 ++ payload
  f ++ List.replicate (60 - f.length) 0

/-- A UDP datagram over IPv4 to a group. -/
def State.udpFrame (s : State) (m ttl group port : Nat) (payload : List Byte) : List Byte :=
  let n := payload.length
  let head (c : Nat) : List Byte :=
    beBytes 0x4500 2 ++ beBytes (28 + n) 2 ++ beBytes 0 4 ++ beBytes ttl 1 ++ beBytes 17 1 ++ beBytes c 2 ++
      beBytes (s.fget R.NET_IPV4 m) 4 ++ beBytes group 4
  s.ownFrame m (groupMac group) 0x0800
    (head (ipCheck (head 0)) ++ beBytes port 2 ++ beBytes port 2 ++ beBytes (8 + n) 2 ++ beBytes 0 2 ++ payload)

/-! ### E1.31 packets -/

/-- An E1.31 packet: the root layer with its vector and CID before its framing layer. -/
def Tabs.acnPacket (t : Tabs) (vector : Nat) (framing : List Byte) : List Byte :=
  beBytes 0x0010 2 ++ beBytes 0 2 ++ beBytes 0x4153432D45312E3137000000 12 ++
    beBytes (0x7000 + 22 + framing.length) 2 ++ beBytes vector 4 ++ (List.range 16).map (fun i => byteOf (t.sacnWord (i / 4)) (i % 4)) ++
    framing

/-- The source name, 64 bytes. -/
def Tabs.sourceName (t : Tabs) : List Byte := (List.range 64).map (fun i => byteOf (t.sacnWord (16 + i / 4)) (i % 4))

/-- Octets of a layer with its flags and length before them. -/
def acnLayer (body : List Byte) : List Byte := beBytes (0x7000 + 2 + body.length) 2 ++ body

/-- A data packet: `w0` and `w1` of its transmit entry, its sequence number, whether it terminates, and the universe's
bytes. -/
def Tabs.dataPacket (t : Tabs) (w0 w1 seq : Nat) (last : Bool) (values : List Byte) : List Byte :=
  let dmp := acnLayer (beBytes 0x02 1 ++ beBytes 0xA1 1 ++ beBytes 0 2 ++ beBytes 1 2 ++ beBytes (1 + bits w1 9 0) 2 ++
    beBytes 0 1 ++ values)
  let options := bits w0 25 25 * 128 + b2n last * 64 + bits (t.sacnWord 4) 28 28 * 32
  t.acnPacket 4 (acnLayer (beBytes 2 4 ++ t.sourceName ++ beBytes (bits w0 23 16) 1 ++
    beBytes (if bits w0 26 26 = 1 then t.sacnSync else 0) 2 ++ beBytes seq 1 ++ beBytes options 1 ++
    beBytes (entryUniverse w0) 2 ++ dmp))

def Tabs.syncPacket (t : Tabs) (seq : Nat) : List Byte :=
  t.acnPacket 8 (acnLayer (beBytes 1 4 ++ beBytes seq 1 ++ beBytes t.sacnSync 2 ++ beBytes 0 2))

/-- A page of the universe discovery packet. -/
def Tabs.discoveryPacket (t : Tabs) (page last : Nat) (universes : List Nat) : List Byte :=
  t.acnPacket 8 (acnLayer (beBytes 2 4 ++ t.sourceName ++ beBytes 0 4 ++
    acnLayer (beBytes 1 4 ++ beBytes page 1 ++ beBytes last 1 ++ universes.flatMap (fun u => beBytes u 2))))

def sacnPort : Nat := 5568

/-! ### Transmit (R337..R341) -/

def State.txSeq (s : State) (u m : Nat) : Nat := mget nat0 s.net.seqs (4 * u + m)

def State.bumpSeq (s : State) (u m : Nat) : State :=
  { s with net := { s.net with seqs := mset nat0 s.net.seqs (4 * u + m) ((s.txSeq u m + 1) % 256) } }

/-- Bytes 0..n-1 of universe `u`'s scaled image in the frame in read-out. -/
def State.universeBytes (s : State) (u n : Nat) : List Byte := memRead s.cmp.sentImage (512 * u) n

/-- Send one packet of internal universe `u` and take its sequence number, which a standby and a MAC out of the way take
too. A packet that is not sent no longer keeps the wire from others (R349). -/
def State.sacnSend (s : State) (m u w0 w1 : Nat) (last : Bool) (due : Int) : State :=
  let t := s.live
  let p := t.dataPacket w0 w1 (s.txSeq u m) last (s.universeBytes u (bits w1 9 0))
  let f := s.udpFrame m (bits (t.sacnWord 5) 7 0) (sacnGroup (entryUniverse w0)) sacnPort p
  let s1 := s.bumpSeq u m
  if s.udpSends m then s1.sendItem m { bytes := f, step := 3, due := due, output := true } else s1.tryLaunch m

/-- The next data packet of the frame falls due on a MAC; after the last of its rank come the terminating packets. On a
MAC whose link is down none is due. -/
def State.sacnData (s : State) (m : Nat) : State :=
  let t := s.live
  let l := s.sacnList m
  let v := s.mac m
  if !(s.domOn .net) || !(s.fbit R.NET_MAC_STATUS_link m) then s
  else
    match l[v.rank]? with
    | some u =>
      (s.setMac m { v with rank := v.rank + 1 }).sacnSend m u (t.txWord u 0) (t.txWord u 1) false
        (s.sacnDue m v.rank l.length)
    | none =>
      match (s.termsOn m)[v.termRank]? with
      | some e => (s.setMac m { v with termRank := v.termRank + 1 }).sacnSend m e.unit e.w0 e.w1 true (s.termDue m)
      | none => s

def execSacnDataDue (mac : Fin 4) (s : State) : Host.Outcome State Fault Refusal := .next (s.sacnData mac).settle

/-- Read-out of a frame begins: every packet of it is still to send, a terminating universe has one frame less, and t_n is
latched (R375). -/
def State.sacnFrame (s : State) : State :=
  let s1 := (List.range 4).foldl (fun s m =>
    s.setMac m { s.mac m with rank := 0, termRank := 0, synced := false, trim := s.fget R.TIM_NET_TRIM_trim_ns m }) s
  { s1 with net := { s1.net with
      terms := (s.net.terms.filter (fun t => t.left ≠ 0)).map (fun t => { t with left := t.left - 1 }) } }

/-- The synchronization packet of a MAC (R337): due at T_f − t_n. -/
def State.sacnSync (s : State) (m : Nat) : State :=
  let t := s.live
  if s.syncOn m then
    let v := s.mac m
    let s1 := s.setMac m { v with syncSeq := (v.syncSeq + 1) % 256, synced := true }
    if s.udpSends m then
      s1.sendItem m {
        bytes := s.udpFrame m (bits (t.sacnWord 5) 7 0) (sacnGroup t.sacnSync) sacnPort (t.syncPacket v.syncSeq),
        step := 3, due := s.syncDue m, kind := 3, ref := t.sacnSync,
        stamp := bits (t.sacnWord 4) 27 27 = 1, output := true }
    else s1.tryLaunch m
  else s

def execSyncPacketLaunch (mac : Fin 4) (s : State) : Host.Outcome State Fault Refusal := .next (s.sacnSync mac).settle

/-- Pages of 512 universes. -/
def pagesOf : Nat → List Nat → List (List Nat)
  | 0, _ => []
  | n + 1, l => if l.length ≤ 512 then [l] else l.take 512 :: pagesOf n (l.drop 512)

/-- Ascending order without repeats. -/
def ascending (l : List Nat) : List Nat :=
  l.foldl (fun acc x => (acc.filter (fun y => decide (y < x))) ++ [x] ++ acc.filter (fun y => decide (x < y))) []

/-- Universe discovery (R340) on a MAC: a page at a time, as untimed frames of the device. -/
def State.sacnDiscover (s : State) (m : Nat) : State :=
  let t := s.live
  if t.sacnTx && !s.net.ended && bits (t.sacnWord 4) 29 29 = 1 && s.udpSends m then
    let pages := pagesOf 33 (ascending ((t.txOn m).map (fun u => entryUniverse (t.txWord u 0))))
    (List.range pages.length).foldl (fun s i =>
      s.sendItem m {
        bytes := s.udpFrame m (bits (t.sacnWord 5) 7 0) (sacnGroup 64214) sacnPort
          (t.discoveryPacket i (pages.length - 1) (pages.getD i [])),
        step := 4, output := true }) s
  else s

def execSacnDiscovery (mac : Fin 4) (s : State) : Host.Outcome State Fault Refusal := .next (s.sacnDiscover mac).settle

/-! ### Sources (R342..R344) -/

def src0 (_ : Nat) : SacnSrc := {}
def State.sacnSrc (s : State) (r k : Nat) : SacnSrc := mget src0 s.net.sources (4 * r + k)

/-- Set a place of an entry, and show how many sources are tracked. -/
def State.setSrc (s : State) (r k : Nat) (v : SacnSrc) : State :=
  let l := mset src0 s.net.sources (4 * r + k) v
  ({ s with net := { s.net with sources := l } }).fset R.NET_SACN_STATUS_sources (l.filter (fun (e : Nat × SacnSrc) => e.2.used)).length

/-- A source leaves its place. -/
def State.dropSrc (s : State) (r k : Nat) : State := s.setSrc r k {}

/-- Held data are applied. -/
def SacnSrc.apply (v : SacnSrc) : SacnSrc :=
  match v.heldData with
  | some (p, b) => { v with prio := p, data := some b, heldData := none, heldAddr := 0 }
  | none => v

/-- A data packet's fields. -/
structure SacnData where
  cid : Nat
  prio : Nat
  sync : Nat
  seq : Nat
  preview : Bool
  last : Bool
  uni : Nat
  code : Nat
  values : List Byte
deriving DecidableEq, Repr

/-- The UDP payload of a frame of class 4, where it is an E1.31 packet of a root vector. -/
def acnOf (f : List Byte) (vector : Nat) : Option (List Byte) :=
  match udpOf f with
  | some (_, _, b) =>
    if fNum b 0 2 = 0x0010 ∧ fNum b 4 12 = 0x4153432D45312E3137000000 ∧ fNum b 18 4 = vector then some b else none
  | none => none

def dataOf (f : List Byte) : Option SacnData :=
  match acnOf f 4 with
  | some b =>
    if 126 ≤ b.length ∧ fNum b 40 4 = 2 ∧ fNum b 117 1 = 2 then
      some { cid := fNum b 22 16, prio := fNum b 108 1, sync := fNum b 109 2, seq := fNum b 111 1,
             preview := fNum b 112 1 / 128 = 1, last := fNum b 112 1 / 64 % 2 = 1, uni := fNum b 113 2,
             code := fNum b 125 1, values := (b.drop 126).take (min 512 (fNum b 123 2 - 1)) }
    else none
  | none => none

/-- The synchronization address of a synchronization packet. -/
def syncOf (f : List Byte) : Option Nat :=
  match acnOf f 8 with
  | some b => if 49 ≤ b.length ∧ fNum b 40 4 = 1 then some (fNum b 45 2) else none
  | none => none

/-- The place of a tracked source, a free place, or the place of the source that a new one of priority `p` replaces. Of
several equally low, a free value picks. -/
def State.srcPlace (s : State) (r cid p : Nat) : Option Nat :=
  let places := List.range 4
  match places.find? (fun k => (s.sacnSrc r k).used && (s.sacnSrc r k).cid = cid) with
  | some k => some k
  | none =>
    match places.find? (fun k => !(s.sacnSrc r k).used) with
    | some k => some k
    | none =>
      let low := places.foldl (fun m k => min m (s.sacnSrc r k).prio) p
      match places.filter (fun k => decide ((s.sacnSrc r k).prio = low)) with
      | [] => none
      | k :: t => if low < p then some ((k :: t).getD (Config.pick s.free % (t.length + 1)) k) else none

/-- A receive entry takes a data packet. -/
def State.entryTakes (s : State) (r : Nat) (d : SacnData) : State :=
  let tracked := (List.range 4).find? (fun k => (s.sacnSrc r k).used && (s.sacnSrc r k).cid = d.cid)
  let step (k : Nat) (v : SacnSrc) : State :=
    let v1 := { v with seq := d.seq, lastAt := s.now }
    if d.last then s.dropSrc r k
    else if d.sync = 0 then s.setSrc r k { v1 with prio := d.prio, data := some d.values, heldData := none, heldAddr := 0 }
    else
      s.setSrc r k { v1 with heldAddr := d.sync, heldData := some (d.prio, d.values),
                             heldAt := if v.heldData = none then s.now else v.heldAt }
  match tracked with
  | some k =>
    let v := s.sacnSrc r k
    let n := (d.seq + 256 - v.seq) % 256
    if n = 0 ∨ 237 ≤ n then (s.setSrc r k { v with lastAt := s.now }).bumpF R.NET_SACN_SEQ_DROP_COUNT
    else step k v
  | none =>
    if d.last then s
    else
      match s.srcPlace r d.cid d.prio with
      | none => s.bumpF R.NET_SACN_SOURCE_FULL_COUNT
      | some k =>
        let v : SacnSrc := { cid := d.cid, prio := d.prio, used := true }
        { step k v with free := s.free + 1 }

/-- A data packet on a MAC. -/
def State.sacnPacket (s : State) (m : Nat) (d : SacnData) : State :=
  let l := (s.live.rxOn m).filter (fun r => entryUniverse (s.live.rxWord r 0) = d.uni)
  if d.code ≠ 0 ∨ d.preview ∨ l = [] then s.bumpF R.NET_SACN_IGNORED_COUNT
  else l.foldl (fun s r => s.entryTakes r d) s

/-- The sACN receiver takes the oldest frame of class 4, unless it is a synchronization packet. One that is neither has
no effect. -/
def State.sacnReceive (s : State) (m : Nat) : State :=
  match s.rxPop m 4 with
  | none => s
  | some (f, s1) =>
    match syncOf f.bytes with
    | some _ => s
    | none =>
      match dataOf f.bytes with
      | some d => (s1.weirs m).sacnPacket m d
      | none => s1.weirs m

/-- Apply the data held for a synchronization address (R344). -/
def State.applyHeld (s : State) (addr : Nat) : State :=
  s.net.sources.foldl (fun s e =>
    if e.2.used && e.2.heldAddr = addr then s.setSrc (e.1 / 4) (e.1 % 4) e.2.apply else s) s

def State.sacnSyncReceive (s : State) (m : Nat) : State :=
  match s.rxPop m 4 with
  | none => s
  | some (f, s1) =>
    match syncOf f.bytes with
    | some a => if a = 0 then s1.weirs m else (s1.weirs m).applyHeld a
    | none => s

def execSacnSyncReceived (mac : Fin 4) (s : State) : Host.Outcome State Fault Refusal :=
  .next (s.sacnSyncReceive mac).settle

/-- 2.5 s, R343 and R344. -/
def sacnLost : Nat := 2500000000

def State.sacnSyncTimeout (s : State) (r k : Nat) : State :=
  let v := s.sacnSrc r k
  if v.heldData ≠ none ∧ sacnLost ≤ nsSince s v.heldAt then s.setSrc r k v.apply else s

def execSacnSyncTimeout (entry : Fin 4096) (place : Fin 4) (s : State) : Host.Outcome State Fault Refusal :=
  .next (s.sacnSyncTimeout entry place).settle

def State.sacnSourceTimeout (s : State) (r k : Nat) : State :=
  let v := s.sacnSrc r k
  if v.used ∧ sacnLost ≤ nsSince s v.lastAt then (s.dropSrc r k).bumpF R.NET_SACN_SOURCE_LOST_COUNT else s

def execSacnSourceTimeout (entry : Fin 4096) (place : Fin 4) (s : State) : Host.Outcome State Fault Refusal :=
  .next (s.sacnSourceTimeout entry place).settle

/-! ### Merge (R345) -/

def bytesMax : List Byte → List Byte → List Byte
  | a :: s, b :: t => (if a.toNat ≤ b.toNat then b else a) :: bytesMax s t
  | s, [] => s
  | [], t => t

/-- What a receive entry yields: nothing while a source is tracked that has no data applied yet; a release with no source;
else the merged priority and bytes. -/
inductive Yield where
  | none_
  | release
  | values (prio : Nat) (bytes : List Byte)
deriving DecidableEq, Repr

def State.entryYield (s : State) (r : Nat) : Yield :=
  let srcs := ((List.range 4).map (fun k => s.sacnSrc r k)).filter (fun v => v.used)
  let l := srcs.filterMap (fun v => v.data.map (fun (b : List Byte) => (v.prio, b)))
  if srcs = [] then .release
  else if l = [] then .none_
  else
    let p := l.foldl (fun m e => max m e.1) 0
    .values p ((l.filter (fun e => e.1 = p)).foldl (fun acc e => bytesMax acc e.2) [])

/-- Whether a position's record still holds it: an entry with no source, or a follower that is down, releases it once. -/
def State.toRelease (s : State) (slot p : Nat) : Bool :=
  (s.live.slot slot).takes p &&
    (match s.held slot p with
     | r :: _ => r.active && !r.release
     | [] => false)

/-- Release a position that an input no longer feeds. -/
def State.inputRelease (s : State) (slot p cut : Nat) : State :=
  if s.toRelease slot p then s.releasePos slot p cut else s

/-- The records that a yield gives on the 512 slots of a target universe. -/
def State.applyYield (s : State) (target p cut : Nat) (y : Yield) : State :=
  match y with
  | .none_ => s
  | .release => (List.range 512).foldl (fun s k => s.inputRelease (512 * target + k) p cut) s
  | .values prio b =>
    (List.range 512).foldl (fun s k =>
      let n := 512 * target + k
      let d := s.live.slot n
      let v (i : Nat) : Nat := (b.getD i 0).toNat
      if !(d.takes p) then s
      else if d.role = roleParam16 then s.writeValue n p (v k * 256 + v (k + 1)) prio cut
      else s.writeValue n p (v k * 257) prio cut) s

def yieldWords : Yield → List Nat
  | .none_ => [0]
  | .release => [1]
  | .values p b => 2 :: p :: b.map (·.toNat)

def yieldOf : List Nat → Yield
  | [1] => .release
  | 2 :: p :: b => .values p (b.map (fun x => BitVec.ofNat 8 x))
  | _ => .none_

/-- One receive entry at an input cut, from its own sources, or on a standby from the ledger's record. -/
def State.sacnEntryCut (s : State) (cut r : Nat) (y : Yield) : State :=
  (s.applyYield (bits (s.live.rxWord r 1) 13 0) (bits (s.live.rxWord r 0) 26 25) cut y).ledgerAdd 0x03 r (yieldWords y)

/-- The sACN records of an input cut, in ascending entry. -/
def State.sacnCut (s : State) (cut : Nat) : State :=
  (s.live.rxEntries.filter (fun r => entryValid (s.live.rxWord r 0))).foldl
    (fun s r => s.sacnEntryCut cut r (s.entryYield r)) s

/-! ### The NET commit (R339, R340, R355) -/

def universeBad (u : Nat) : Bool := decide (u = 0 ∨ 63999 < u)

/-- R339: K data packets of the MAC's longest take at most half the time there is, P as R370 has it and t_n as in force (R375). -/
def State.sacnOver (s : State) (t : Tabs) (m : Nat) : Bool :=
  let l := t.txOn m
  let n := l.foldl (fun a u => max a (bits (t.txWord u 1) 9 0)) 0
  let bytes := 126 + n + 66 + (if s.fbit R.NET_VLAN_enable m then 4 else 0)
  let room : Int := (s.live.rateDen * 1000000000 : Nat) - (((s.mac m).trim + 200000) * s.live.rateNum : Nat)
  l ≠ [] && decide (room * (s.macBps m : Int) < (2 * l.length * bytes * 8 * 1000000000 * s.live.rateNum : Nat))

/-- Two entries share a universe and a MAC. -/
def entriesClash (a b : Nat) : Bool :=
  entryUniverse a = entryUniverse b && (List.range 4).any (fun m => entryOnMac a m && entryOnMac b m)

/-- The items that fail a check of R355. The header comes after every entry. -/
def State.netBad (s : State) (t : Tabs) (code : Nat) : List Nat :=
  let w (i : Nat) : Nat := t.sacnWord i
  match code with
  | 0x50 =>
    let head := bits (w 4) 26 16 ≠ 0 || (t.sacnSync ≠ 0 && universeBad t.sacnSync) || bits (w 5) 31 8 ≠ 0 ||
      bits (w 5) 7 0 = 0 || (List.range 10).any (fun i => w (6 + i) ≠ 0) || (List.range 992).any (fun i => w (32 + i) ≠ 0)
    (t.txEntries.filter (fun u =>
      let a := t.txWord u 0
      let b := t.txWord u 1
      bits a 24 24 ≠ 0 || bits b 31 10 ≠ 0 || (entryValid a && (bits a 30 27 = 0 || universeBad (entryUniverse a) ||
        decide (200 < bits a 23 16 ∨ bits b 9 0 = 0 ∨ 512 < bits b 9 0))))) ++
    (t.rxEntries.filter (fun r =>
      let a := t.rxWord r 0
      bits a 24 16 ≠ 0 || bits (t.rxWord r 1) 31 14 ≠ 0 || (entryValid a && (bits a 30 27 = 0 || universeBad (entryUniverse a))))) ++
    (if head then [0xFFFF] else [])
  | 0x51 =>
    let l := t.txEntries.filter (fun u => entryValid (t.txWord u 0))
    laterShared (fun a b => entriesClash (t.txWord a 0) (t.txWord b 0)) [] l
  | 0x52 =>
    let l := t.rxEntries.filter (fun r => entryValid (t.rxWord r 0))
    laterShared (fun a b => entriesClash (t.rxWord a 0) (t.rxWord b 0)) [] l
  | 0x53 => (List.range 4).filter (fun m => s.sacnOver t m)
  | _ => []

/-- The universe map that was live gives way: the entries that leave a MAC terminate there, receive entries of another
universe lose their sources, and the status shows what is live. -/
def State.netCommitted (s : State) (old : Tabs) : State :=
  let t := s.live
  let gone := (List.range 4).flatMap (fun m =>
    ((old.txOn m).filter (fun u => !((t.txOn m).contains u))).map (fun u =>
      ({ unit := u, mac := m, w0 := old.txWord u 0, w1 := old.txWord u 1, left := 3 } : SacnTerm)))
  let s1 := { s with net := { s.net with terms := s.net.terms ++ gone } }
  let s2 := (old.rxEntries.filter (fun r => entryValid (old.rxWord r 0) &&
      (!(entryValid (t.rxWord r 0)) || entryUniverse (t.rxWord r 0) ≠ entryUniverse (old.rxWord r 0)))).foldl
    (fun s r => (List.range 4).foldl (fun s k => s.dropSrc r k) s) s1
  (s2.fset R.NET_SACN_STATUS_tx_active (b2n t.sacnTx)).fset R.NET_SACN_STATUS_rx_active (b2n t.sacnRx)

end Sys2Proof.Machine
end

