-- ==== Sys2Proof/Machine/Media.lean ====
section
/-! DEFINITION. Media streams (chapter 11, R346..R348): ST 2110-20 video into the histories, audio into the envelope
followers, and the followers' records at an input cut. Packet layouts are those of RFC 3550, RFC 4175 and ST 2110. -/

namespace Sys2Proof.Machine

/-! ### RTP -/

/-- What an RTP packet of a stream carries: marker, sequence number, time stamp and payload. -/
structure Rtp where
  marker : Bool
  seq : Nat
  stamp : Nat
  payload : List Byte
deriving DecidableEq, Repr

def rtpOf (b : List Byte) : Option Rtp :=
  let cc := fNum b 0 1 % 16
  let x := fNum b 0 1 / 16 % 2 = 1
  let h := 12 + 4 * cc
  let ext := if x then 4 + 4 * fNum b (h + 2) 2 else 0
  if fNum b 0 1 / 64 = 2 ∧ h + ext ≤ b.length then
    some { marker := fNum b 1 1 / 128 = 1, seq := fNum b 2 2, stamp := fNum b 4 4, payload := b.drop (h + ext) }
  else none

/-- The count of media ticks since the PTP epoch, congruent to `stamp` modulo 2^32, nearest to a PTP reading (R347). -/
def mediaNear (rate : Nat) (now : Int) (stamp : Nat) : Nat :=
  let k := (now * rate / sec16).toNat
  let exact := decide (now * rate % sec16 = 0)
  let d := (stamp + 2 ^ 32 - k % 2 ^ 32) % 2 ^ 32
  if d < 2 ^ 31 ∨ (d = 2 ^ 31 ∧ !(exact && Config.nearTieLow)) ∨ k + d < 2 ^ 32 then k + d else k + d - 2 ^ 32

/-! ### Video (R346, R347) -/

def State.showVid (s : State) (k : Nat) : State :=
  s.fset R.NET_VID_STATUS_complete ((s.vid k).bufs.filter (fun e => e.2.complete)).length k

/-- The line segments of an ST 2110-20 payload: line, pixel offset, length, field bit, until the continuation bit is 0. -/
def vidHeads : Nat → List Byte → List (Nat × Nat × Nat × Bool) × List Byte
  | 0, b => ([], b)
  | n + 1, b =>
    if b.length < 6 then ([], [])
    else
      let h := (fNum b 2 2 % 32768, fNum b 4 2 % 32768, fNum b 0 2, decide (fNum b 2 2 / 32768 = 1))
      if fNum b 4 2 / 32768 = 1 then
        let (l, r) := vidHeads n (b.drop 6)
        (h :: l, r)
      else ([h], b.drop 6)

/-- Bytes of the samples of one frame. -/
def State.vidFrameBytes (s : State) (k : Nat) : Nat := s.vidW k * s.vidH k * vidPair (s.fget R.NET_VID_CFG_format k) / 16

/-- The buffer that a new frame takes: one that holds none, else the oldest unpinned. -/
def State.vidTake (s : State) (k : Nat) : Option Nat :=
  let v := s.vid k
  let n := s.fget R.NET_VID_HIST_BASE_frames k
  match (List.range n).find? (fun b => !((mget vb0 v.bufs b).used)) with
  | some b => some b
  | none => (oldestOf (((List.range n).filter (fun b => !((mget vb0 v.bufs b).pinned))).map
      (fun b => (b, (mget vb0 v.bufs b).media)))).map (fun e => e.1)

/-- The buffer that holds the frame of a media time. -/
def Video.bufOf (v : Video) (media : Nat) : Option Nat :=
  (v.bufs.find? (fun e => e.2.used && e.2.media = media)).map (fun e => e.1)

/-- Go on to the frame of a media time: the buffer that holds it, a new one, or none where every buffer is pinned, or was when the
frame began. -/
def State.vidFrame (s : State) (k media : Nat) : State :=
  let v := s.vid k
  match v.bufOf media with
  | some b => s.setVid k { v with cur := some b }
  | none =>
    if v.skip = some media then s.setVid k { v with cur := none }
    else
    match s.vidTake k with
    | none => (s.setVid k { v with cur := none, skip := some media }).bumpF R.NET_VID_DISCARD_COUNT k
    | some b =>
      (s.setVid k { v with cur := some b, bufs := mset vb0 v.bufs b { used := true, media := media } }).showVid k

/-- Write one segment into a buffer; what lies outside its line or its frame is not written. -/
def State.vidSegment (s : State) (k b : Nat) (h : Nat × Nat × Nat × Bool) (data : List Byte) : State :=
  let pair := vidPair (s.fget R.NET_VID_CFG_format k)
  let line := s.vidW k * pair / 16
  let x := h.2.1 * pair / 16
  let n := min (min h.2.2.1 data.length) (line - x)
  if s.vidH k ≤ h.1 ∨ n = 0 ∨ !s.resAwake then s
  else
    let a := h.1 * line + x
    let base := s.fget R.NET_VID_HIST_BASE_base_64k k * 65536 + b * s.vidBytes k
    let v := s.vid k
    let e := mget vb0 v.bufs b
    (s.setReservoir (memWrite s.mem.reservoir (base + a) (data.take n))).setVid k
      { v with bufs := mset vb0 v.bufs b { e with segs := (a, n) :: e.segs } }

def State.vidSegments (s : State) (k b : Nat) : List (Nat × Nat × Nat × Bool) → List Byte → State
  | [], _ => s
  | h :: t, d => (s.vidSegment k b h (d.take h.2.2.1)).vidSegments k b t (d.drop h.2.2.1)

/-- The marker of a frame, and whether that makes it complete. -/
def State.vidEnd (s : State) (k b : Nat) (marker : Bool) : State :=
  let v := s.vid k
  let e := mget vb0 v.bufs b
  let m := e.marker || marker
  let done := m && !e.gap && rangesCover e.segs (s.vidFrameBytes k)
  (s.setVid k { v with bufs := mset vb0 v.bufs b { e with marker := m, complete := done,
                                                          segs := if done then [] else e.segs } }).showVid k

/-- Count `n` at a counter in one move (R541). -/
def State.addCount (s : State) (off n : Nat) : State :=
  let v := (s.rg off).toNat
  if v = maxWord ∨ n = 0 then s
  else
    let s1 := s.setRg off (BitVec.ofNat 32 (min maxWord (v + n)))
    if maxWord ≤ v + n ∧ isSpill off then s1.report 0x25 off else s1

/-- Count the packets that an extended sequence number shows missing, and mark the frame being written. -/
def State.vidSeq (s : State) (k seq media : Nat) : State :=
  let v := s.vid k
  match v.seq with
  | none => s.setVid k { v with seq := some seq }
  | some q =>
    let d := (seq + 2 ^ 32 - q) % 2 ^ 32
    if d = 0 ∨ 2 ^ 31 ≤ d then s
    else
      let s1 := s.setVid k { v with seq := some seq }
      if d = 1 then s1
      else
        let bufs := match v.bufOf media with
          | some b => mset vb0 v.bufs b { mget vb0 v.bufs b with gap := true }
          | none => v.bufs
        (s1.setVid k { v with seq := some seq, bufs := bufs }).addCount (R.NET_VID_LOSS_COUNT.off k) (d - 1)

/-- One packet of stream k, received at a PTP reading. -/
def State.vidPacket (s : State) (k : Nat) (ptp : Int) (b : List Byte) : State :=
  let s0 := (s.setVid k { s.vid k with lastAt := s.now }).fset R.NET_VID_STATUS_receiving 1 k
  match rtpOf b with
  | none => s0
  | some p =>
    let (hs, data) := vidHeads 64 (p.payload.drop 2)
    let media := mediaNear 90000 ptp p.stamp
    let s2 := s0.vidSeq k (fNum p.payload 0 2 * 65536 + p.seq) media
    if hs.any (fun h => h.2.2.2) then s2.bumpF R.NET_VID_DISCARD_COUNT k
    else
      let s1 := s2.vidFrame k media
      match (s1.vid k).cur with
      | some buf =>
        if (mget vb0 (s1.vid k).bufs buf).complete then s1 else (s1.vidSegments k buf hs data).vidEnd k buf p.marker
      | none => s1

/-- The video writer takes the oldest frame of class 5. -/
def State.videoReceive (s : State) (m : Nat) : State :=
  match s.rxPop m 5 with
  | none => s
  | some (f, s1) =>
    match udpOf f.bytes with
    | some (ip, port, b) =>
      match s.videoOf m ip port with
      | some k => (s1.weirs m).vidPacket k f.ptp b
      | none => s1.weirs m
    | none => s1.weirs m

def execVideoPacketReceived (mac : Fin 4) (s : State) : Host.Outcome State Fault Refusal :=
  .next (s.videoReceive mac).settle

/-- A stream has sent nothing for 100 ms (R354). -/
def State.vidSilent (s : State) (k : Nat) : State :=
  if 100000000 ≤ nsSince s (s.vid k).lastAt then s.fset R.NET_VID_STATUS_receiving 0 k else s

def execVideoNotReceiving (stream : Fin 4) (s : State) : Host.Outcome State Fault Refusal :=
  .next (s.vidSilent stream).settle

/-! ### Audio (R348) -/

def aud0 (_ : Nat) : Audio := {}
def env0 (_ : Nat) : Env := {}
def State.aud (s : State) (a : Nat) : Audio := mget aud0 s.net.audio a
def State.setAud (s : State) (a : Nat) (v : Audio) : State :=
  { s with net := { s.net with audio := mset aud0 s.net.audio a v } }
def State.env (s : State) (e : Nat) : Env := mget env0 s.net.env e
def State.setEnv (s : State) (e : Nat) (v : Env) : State :=
  { s with net := { s.net with env := mset env0 s.net.env e v } }

/-- The follower's input for a sample of `bytes` octets. -/
def envInput (l24 : Bool) (b : List Byte) : Nat :=
  if l24 then min 65535 ((sint (beNat b) 24).natAbs / 128) else min 65535 (2 * (sint (beNat b) 16).natAbs)

/-- One sample of a follower. -/
def envStep (env x attack release : Nat) : Nat :=
  let t := if env < x then attack else release
  let k := if t = 0 then 65536 else max 1 (65536 / (48 * t))
  if env < x then env + (x - env) * k / 65536 else env - (env - x) * k / 65536

/-- The longest latency of NET_ENV_LATENCY, in 48 kHz ticks. -/
def envKeep : Nat := 2097152 * 48 / 1000 + 96000

/-- A follower takes the samples of its channel, in media-time order; each is kept for the latency's reach. -/
def Env.take (l24 : Bool) (attack release : Nat) : List (Nat × List Byte) → Env → Env
  | [], v => v
  | (m, b) :: t, v =>
    let old := match v.hist with
      | [] => false
      | h :: _ => decide (m ≤ h.1)
    if old then v.take l24 attack release t
    else
      let c := envStep v.cur (envInput l24 b) attack release
      Env.take l24 attack release t { cur := c, hist := (m, c) :: v.hist }

/-- The samples of one channel of a packet. -/
def channelSamples (width channels c media : Nat) (b : List Byte) : List (Nat × List Byte) :=
  let n := b.length / (width * channels)
  (List.range n).map (fun i => (media + i, (b.drop ((i * channels + c) * width)).take width))

/-- A sample's value. -/
def sampleValue (l24 : Bool) (b : List Byte) : Int := sint (beNat b) (if l24 then 24 else 16)

/-- The samples of a packet reach the LTC decoder, where their stream and channel are those that it listens to (R365). -/
def State.ltcPacket (s : State) (a ch media : Nat) (l24 : Bool) (b : List Byte) : State :=
  let w := s.tword 0x15 0 10
  let c := bits w 26 24
  if s.ltcOn true && decide (bits w 29 27 = a ∧ c < ch) then
    s.ltcSamples ((channelSamples (if l24 then 3 else 2) ch c media b).map (fun e => (e.1, sampleValue l24 e.2)))
  else s

/-- A packet of an audio stream: its samples go to the envelope followers and to the LTC decoder. -/
def State.audPacket (s : State) (a : Nat) (ptp : Int) (b : List Byte) : State :=
  match rtpOf b with
  | none => s
  | some p =>
    let v := s.aud a
    let gap := match v.seq with
      | some q => decide (p.seq ≠ (q + 1) % 65536)
      | none => false
    let s1 := (s.setAud a { seq := some p.seq, lastAt := s.now }).fset R.NET_AUD_STATUS_down 0 a
    let s2 := if gap then s1.bumpF R.NET_AUD_LOSS_COUNT a else s1
    let l24 := s.fbit R.NET_AUD_CFG_l24 a
    let ch := s.fget R.NET_AUD_CFG_channels a
    let media := mediaNear 48000 ptp p.stamp
    (List.range 64).foldl (fun s e =>
      let c := s.fget R.NET_ENV_CFG_channel e
      if s.fbit R.NET_ENV_CFG_enable e && s.fget R.NET_ENV_CFG_stream e = a && decide (c < ch) then
        let u := (s.env e).take l24 (s.fget R.NET_ENV_CFG_attack_ms e) (s.fget R.NET_ENV_CFG_release_ms e)
          (channelSamples (if l24 then 3 else 2) ch c media p.payload)
        s.setEnv e { u with hist := u.hist.filter (fun h => decide (media < h.1 + envKeep)) }
      else s) (s2.ltcPacket a ch media l24 p.payload)

/-- The audio receiver takes the oldest frame of class 3. -/
def State.audioReceive (s : State) (m : Nat) : State :=
  match s.rxPop m 3 with
  | none => s
  | some (f, s1) =>
    match udpOf f.bytes with
    | some (ip, port, b) =>
      match s.audioOf m ip port with
      | some a => (s1.weirs m).audPacket a f.ptp b
      | none => s1.weirs m
    | none => s1.weirs m

def execAudioPacketReceived (mac : Fin 4) (s : State) : Host.Outcome State Fault Refusal :=
  .next (s.audioReceive mac).settle

/-- A stream has sent nothing for 50 ms. -/
def State.audSilent (s : State) (a : Nat) : State :=
  if 50000000 ≤ nsSince s (s.aud a).lastAt then s.fset R.NET_AUD_STATUS_down 1 a else s

def execAudioStreamDown (stream : Fin 8) (s : State) : Host.Outcome State Fault Refusal :=
  .next (s.audSilent stream).settle

/-! ### Followers at the input cut -/

/-- env after the last sample whose media time is at most φ_T of the input cut minus the latency, both in µs. -/
def State.envAt (s : State) (e : Nat) : Nat :=
  let target := s.time.ptp.t / 65536 / 1000 - s.fget R.NET_ENV_LATENCY_latency_us
  match (s.env e).hist.find? (fun h => decide (((h.1 * 1000 : Nat) : Int) ≤ target * 48)) with
  | some h => h.2
  | none => 0

/-- A follower's record, with the value that a standby finds in the ledger; `none` releases. -/
def State.envCutOne (s : State) (cut e : Nat) (v : Option Nat) : State :=
  let slot := s.fget R.NET_ENV_TARGET_slot e
  let p := s.fget R.NET_ENV_CFG_position e
  match v with
  | none => (s.inputRelease slot p cut).ledgerAdd 0x04 e []
  | some x =>
    ((s.writeValue slot p x (s.fget R.NET_ENV_TARGET_priority e) cut).fset R.NET_ENV_VALUE_env x e).ledgerAdd 0x04 e [x]

/-- The followers of an input cut, ascending. -/
def State.envCut (s : State) (cut : Nat) : State :=
  ((List.range 64).filter (fun e => s.fbit R.NET_ENV_CFG_enable e)).foldl
    (fun s e => s.envCutOne cut e
      (if s.fbit R.NET_AUD_STATUS_down (s.fget R.NET_ENV_CFG_stream e) then none else some (s.envAt e))) s

end Sys2Proof.Machine
end

