-- ==== Sys2Proof/Machine/Ptp.lean ====
section
/-! DEFINITION. PTP on the MACs (chapter 12, R363, R364): the messages received and sent, the choice of a leader, and the
samples that the PTP base takes. Message layouts, and what the spec leaves to IEEE 1588 and ST 2059-2, follow them. -/

namespace Sys2Proof.Machine

/-! ### Set-up of a port -/

def State.ptpOn (s : State) (m : Nat) : Bool := s.domOn .net && s.live.ptpOn m
/-- 0 FOLLOWER, 1 LEADER, 2 AUTO. -/
def State.ptpRole (s : State) (m : Nat) : Nat := bits (s.live.ptpWord m 0) 30 29
def State.ptpUdp (s : State) (m : Nat) : Bool := bits (s.live.ptpWord m 0) 27 27 = 1
def State.ptpDomain (s : State) (m : Nat) : Nat := bits (s.live.ptpWord m 0) 23 16

def State.pport (s : State) (m : Nat) : PtpPort := (s.mac m).ptp
def State.setPport (s : State) (m : Nat) (p : PtpPort) : State := s.setMac m { s.mac m with ptp := p }

/-- The clockIdentity: MAC 0's address in the EUI-64 form. -/
def State.clockId (s : State) : Nat :=
  let a := s.macAddr 0
  a / 2 ^ 24 * 2 ^ 40 + 0xFFFE * 2 ^ 24 + a % 2 ^ 24

/-- The port identity of MAC m. -/
def State.portId (s : State) (m : Nat) : Nat := s.clockId * 65536 + (m + 1)

/-! ### Choice of a leader (IEEE 1588's BMCA) -/

/-- The dataset of this device on a MAC: priority1, class, accuracy, variance, priority2, grandmaster, steps, sender, receiver. -/
def State.ownData (s : State) (m : Nat) : List Nat :=
  let w0 := s.live.ptpWord m 0
  let w1 := s.live.ptpWord m 1
  [bits w0 15 8, bits w1 31 24, bits w1 23 16, bits w1 15 0, bits w0 7 0, s.clockId, 0, s.clockId * 65536, s.clockId * 65536]

/-- Lexicographic order of two datasets. -/
def dataLt : List Nat → List Nat → Bool
  | a :: s, b :: t => decide (a < b) || (a == b && dataLt s t)
  | _, _ => false

/-- The data set comparison: how `a` stands to `b`. -/
inductive DataOrder where
  | better | byTopology | same | worseByTopology | worse
deriving DecidableEq, Repr

/-- The comparison where the two come from one grandmaster: by the steps, the senders and the receivers. -/
def sameMaster (a b : List Nat) : DataOrder :=
  let steps (l : List Nat) : Nat := l.getD 6 0
  let from_ (l : List Nat) : Nat := l.getD 7 0
  let at_ (l : List Nat) : Nat := l.getD 8 0
  if steps a + 1 < steps b then .better
  else if steps b + 1 < steps a then .worse
  else if steps a < steps b then (if at_ b < from_ b then .better else .byTopology)
  else if steps b < steps a then (if at_ a < from_ a then .worse else .worseByTopology)
  else if from_ a < from_ b then .byTopology
  else if from_ b < from_ a then .worseByTopology
  else if at_ a % 65536 < at_ b % 65536 then .byTopology
  else if at_ b % 65536 < at_ a % 65536 then .worseByTopology
  else .same

def dataOrder (a b : List Nat) : DataOrder :=
  if a.getD 5 0 = b.getD 5 0 then sameMaster a b else if dataLt (a.take 6) (b.take 6) then .better else .worse

/-- Whether `a` comes before `b` in the choice of the best, by topology too. -/
def DataOrder.wins : DataOrder → Bool
  | .better => true
  | .byTopology => true
  | _ => false

/-- Two to the power of a signed log2 of seconds, in ns. -/
def logNs (v : Nat) : Nat :=
  if v < 128 then 1000000000 * 2 ^ min v 32 else 1000000000 / 2 ^ min (256 - v) 32

/-- The announce interval of a port, and its announce receipt timeout, in ns. -/
def State.announceNs (s : State) (m : Nat) : Nat := logNs (bits (s.live.ptpWord m 2) 31 24)
def State.announceLoss (s : State) (m : Nat) : Nat := bits (s.live.ptpWord m 2) 7 0 * s.announceNs m

/-- An announced leader is qualified by two announcements within four announce intervals. -/
def State.qualified (s : State) (m : Nat) (r : PtpForeign) : Bool :=
  match r.prev with
  | some t => decide ((r.last - t) * 2 ≤ 4 * s.announceNs m)
  | none => false

/-- The best leader announced on a port (E_rbest). -/
def State.portBest (s : State) (m : Nat) : Option PtpForeign :=
  ((s.pport m).foreign.filter (fun r => s.qualified m r)).foldl (fun b r =>
    match b with
    | none => some r
    | some e => if (dataOrder r.data e.data).wins then some r else b) none

/-- The best over all the ports (E_best), and its port. A fixed LEADER's port takes no part. -/
def State.ptpBest (s : State) : Option (Nat × List Nat) :=
  (List.range 4).foldl (fun b m =>
    if s.ptpOn m && s.ptpRole m ≠ 1 then
      match s.portBest m, b with
      | some r, none => some (m, r.data)
      | some r, some e => if (dataOrder r.data e.2).wins then some (m, r.data) else b
      | none, _ => b
    else b) none

/-- A port takes the best leader announced to it; one that is new ends what was under way with the one before. A FOLLOWER keeps the
sender of the Sync that it began with until a leader is announced. -/
def State.chooseParent (s : State) (m : Nat) : State :=
  let p := s.pport m
  match s.portBest m with
  | some r =>
    if p.parent = some r.id then s.setPport m { p with parentData := r.data }
    else s.setPport m { p with parent := some r.id, parentData := r.data, twoStep := none, pair := none, path := none }
  | none =>
    if p.parentData = [] then s
    else s.setPport m { p with parent := none, parentData := [], twoStep := none, pair := none, path := none }

/-- The state decision of a port: 0 it goes on listening, 1 FOLLOWER, 2 LEADER, 3 PASSIVE, 4 LEADER after the qualification time. -/
def State.ptpStateOf (s : State) (m : Nat) : Nat :=
  let p := s.pport m
  match s.ptpRole m with
  | 0 => if p.parent.isSome then 1 else 0
  | 1 => 2
  | _ =>
    let own := s.ownData m
    let here := s.portBest m
    let beats (l : Option (List Nat)) : Bool :=
      match l with
      | some d => (dataOrder own d).wins
      | none => true
    if here.isNone && p.st = 0 && decide (nsSince s p.listenAt < s.announceLoss m) then 0
    else if 1 ≤ own.getD 1 0 ∧ own.getD 1 0 < 128 then (if beats (here.map (fun r => r.data)) then 2 else 3)
    else
      match s.ptpBest with
      | none => 2
      | some (k, d) =>
        if (dataOrder own d).wins then 2
        else if k = m then 1
        else
          match here with
          | some r => if dataOrder d r.data = .byTopology then 3 else 4
          | none => 4

/-- The steps from the best leader, and one: the announce intervals that a port waits before it leads below it. -/
def State.qualSteps (s : State) : Nat :=
  match s.ptpBest with
  | some (_, d) => d.getD 6 0 + 1
  | none => 0

/-- A port takes the state decided for it. -/
def State.takeState (s : State) (m v : Nat) : State :=
  let p := s.pport m
  if v = 4 then
    match p.leadAt with
    | some t =>
      s.setPport m { p with st := if p.st = 2 ∨ s.qualSteps * s.announceNs m ≤ nsSince s t then 2 else 4 }
    | none => s.setPport m { p with st := if p.st = 2 then 2 else 4, leadAt := some s.now }
  else s.setPport m { p with st := v, leadAt := none }

def State.ptpDecide (s : State) : State :=
  (List.range 4).foldl (fun s m => s.takeState m (if s.ptpOn m then s.ptpStateOf m else 0))
    ((List.range 4).foldl (fun s m => if s.ptpOn m then s.chooseParent m else s) s)

/-- Leaders whose announcements have stopped for the announce receipt timeout are forgotten. -/
def State.ptpAge (s : State) (m : Nat) : State :=
  let p := s.pport m
  s.setPport m { p with foreign := p.foreign.filter (fun r => decide (nsSince s r.last < s.announceLoss m)) }

/-! ### Messages -/

/-- The flags' octet 0 of a two-step message. -/
def ptpHeader (type flags domain corr : Nat) (source seq control log : Nat) (body : List Byte) : List Byte :=
  beBytes type 1 ++ beBytes 0x02 1 ++ beBytes (34 + body.length) 2 ++ beBytes domain 1 ++ beBytes 0 1 ++ beBytes flags 2 ++
    beBytes corr 8 ++ beBytes 0 4 ++ beBytes source 10 ++ beBytes seq 2 ++ beBytes control 1 ++ beBytes log 1 ++ body

/-- A PTP time stamp: 48 bits of seconds, 32 of ns. -/
def ptpStamp (t : Int) : List Byte := beBytes (twos (secOf t) 48) 6 ++ beBytes (nsOf t) 4

/-- The frame that carries a message of MAC m. -/
def State.ptpFrame (s : State) (m : Nat) (event : Bool) (b : List Byte) : List Byte :=
  if s.ptpUdp m then s.udpFrame m 1 0xE0000181 (if event then 319 else 320) b
  else s.ownFrame m 0x011B19000000 0x88F7 b

/-- Whether a MAC sends PTP: its MAC runs, over UDP it has an address; as leader, not on a standby (R426). -/
def State.ptpSends (s : State) (m : Nat) : Bool :=
  s.ptpOn m && s.macRuns m && (!(s.ptpUdp m) || s.fget R.NET_IPV4 m ≠ 0)

def State.ptpGeneral (s : State) (m : Nat) (b : List Byte) : State :=
  s.sendItem m { bytes := s.ptpFrame m false b, step := 4, output := true }

/-- Whether the device is grandmaster: a port leads and none follows. -/
def State.grandmaster (s : State) : Bool :=
  (List.range 4).any (fun m => s.ptpOn m && (s.pport m).st = 2) && !((List.range 4).any (fun m => s.ptpOn m && (s.pport m).st = 1))

/-- The dataset that a leader announces: the grandmaster's, one step further, or its own. -/
def State.announced (s : State) (m : Nat) : List Nat :=
  match (List.range 4).find? (fun k => s.ptpOn k && (s.pport k).st = 1 && (s.pport k).parentData ≠ []) with
  | some k =>
    let d := (s.pport k).parentData
    d.take 6 ++ [d.getD 6 0 + 1]
  | none => s.ownData m

def State.announceBody (s : State) (m : Nat) : List Byte :=
  let d := s.announced m
  ptpStamp 0 ++ beBytes 0 2 ++ beBytes 0 1 ++ beBytes (d.getD 0 0) 1 ++ beBytes (d.getD 1 0) 1 ++ beBytes (d.getD 2 0) 1 ++
    beBytes (d.getD 3 0) 2 ++ beBytes (d.getD 4 0) 1 ++ beBytes (d.getD 5 0) 8 ++ beBytes (d.getD 6 0) 2 ++ beBytes 0xA0 1

/-- The ST 2059-2 synchronization metadata: a management message with the TLV of R363's table. -/
def State.metadataBody (s : State) : List Byte :=
  let locked := s.time.ptp.st = 2 ∨ s.grandmaster = true
  let status := if locked then 2 else if s.time.ptp.st = 3 then 3 else 0
  beBytes (2 ^ 80 - 1) 10 ++ beBytes 0 4 ++ beBytes 0x0003 2 ++ beBytes 48 2 ++ beBytes 0x6897E8 3 ++ beBytes 1 3 ++
    beBytes s.live.rateNum 4 ++ beBytes s.live.rateDen 4 ++ beBytes status 1 ++ List.replicate 33 0

/-- A message of a kind falls due: 0 Announce, 1 Sync, 2 the Follow_Up of the Sync that has left, 3 Delay_Req, 4 the
synchronization metadata. -/
def State.ptpDue (s0 : State) (m kind : Nat) : State :=
  let s := if s0.ptpOn m then (s0.ptpAge m).ptpDecide else s0
  let p := s.pport m
  let dom := s.ptpDomain m
  let w2 := s.live.ptpWord m 2
  let id := s.portId m
  let leads := p.st = 2 && s.drives
  if !(s.ptpSends m) then s
  else
    match kind with
    | 0 =>
      if leads then
        (s.setPport m { p with seqAnnounce := (p.seqAnnounce + 1) % 65536 }).ptpGeneral m
          (ptpHeader 0xB 0x0008 dom 0 id p.seqAnnounce 5 (bits w2 31 24) (s.announceBody m))
      else s
    | 1 =>
      if leads then
        (s.setPport m { p with seqSync := (p.seqSync + 1) % 65536, lastSync := none }).sendItem m
          { bytes := s.ptpFrame m true (ptpHeader 0x0 0x0200 dom 0 id p.seqSync 0 (bits w2 23 16) (ptpStamp 0)),
            step := 2, kind := 2, ref := p.seqSync, stamp := true, output := true }
      else s
    | 2 =>
      match p.lastSync with
      | some (q, t) =>
        if leads then
          (s.setPport m { p with lastSync := none }).ptpGeneral m
            (ptpHeader 0x8 0 dom 0 id q 2 (bits w2 23 16) (ptpStamp t))
        else s
      | none => s
    | 3 =>
      if p.st = 1 then
        (s.setPport m { p with seqDelay := (p.seqDelay + 1) % 65536, delayReq := some (p.seqDelay, none) }).sendItem m
          { bytes := s.ptpFrame m true (ptpHeader 0x1 0 dom 0 id p.seqDelay 1 0x7F (ptpStamp 0)),
            step := 2, kind := 2, ref := p.seqDelay }
      else s
    | _ =>
      if leads && bits (s.live.ptpWord m 0) 28 28 = 1 then
        s.ptpGeneral m (ptpHeader 0xD 0 dom 0 id p.seqAnnounce 4 0x7F s.metadataBody)
      else s

def execPtpMessageDue (mac : Fin 4) (kind : Fin 5) (s : State) : Host.Outcome State Fault Refusal :=
  .next (s.ptpDue mac kind).settle

/-! ### Reception -/

/-- A message's time stamp at octet `a`, in 2^-16 ns. -/
def ptpTime (b : List Byte) (a : Nat) : Int := (fNum b a 6 : Int) * sec16 + (fNum b (a + 6) 4 : Int) * 65536

/-- A message's correctionField, 2^-16 ns. -/
def ptpCorr (b : List Byte) : Int := sint (fNum b 8 8) 64

/-- Whether a message's sender is the port's leader. A FOLLOWER without one takes the sender of its first Sync. -/
def State.fromParent (s : State) (m : Nat) (b : List Byte) : Bool := (s.pport m).parent = some (fNum b 20 10)

/-- The PTP base's reading at a LOCAL reading. -/
def State.ptpAt (s : State) (loc : Int) : Int := s.time.ptp.t - (s.time.loc.t - loc) * (2 ^ 44 + s.time.ptp.rate) / 2 ^ 44

/-- A Sync's time t1 at its ingress `loc`: a sample, and a pair for the path (R361, R364). A step that the sample brings moves
the stamps in hand with the base, so that the path is measured on one timeline. -/
def State.ptpSync (s : State) (m : Nat) (t1 : Int) (loc : Int) : State :=
  let p := s.pport m
  let asym := sint (s.fget R.TIM_PTP_ASYM_asym_ns m) 16 * 65536 / 2
  let s1 := s.sample .ptp (t1 + p.path.getD 0 + asym) (s.time.loc.t - loc)
  let jump := s1.time.ptp.t - s.time.ptp.t
  s1.setPport m { s1.pport m with
    pair := some (t1, s.ptpAt loc + jump), twoStep := none
    delayReq := p.delayReq.map (fun d => (d.1, d.2.map (fun t => t + jump))) }

/-- A received Announce: a port keeps five leaders. One of this clock itself, or 255 steps away, counts for nothing. -/
def State.ptpAnnounce (s : State) (m : Nat) (b : List Byte) : State :=
  let p := s.pport m
  let id := fNum b 20 10
  let d := [fNum b 47 1, fNum b 48 1, fNum b 49 1, fNum b 50 2, fNum b 52 1, fNum b 53 8, fNum b 61 2, id, s.portId m]
  let note (l : List PtpForeign) : State := (s.setPport m { p with foreign := l }).ptpDecide
  if id / 65536 = s.clockId ∨ 255 ≤ fNum b 61 2 then s
  else
    match p.foreign.find? (fun r => r.id = id) with
    | some r => note (p.foreign.map (fun x => if x.id = id then ⟨id, d, s.now, some r.last⟩ else x))
    | none => if p.foreign.length < 5 then note (p.foreign ++ [⟨id, d, s.now, none⟩]) else s

/-- A message, by its type, received at the PTP reading `t` and the LOCAL reading `loc`. -/
def State.ptpMessage (s0 : State) (m : Nat) (t loc : Int) (b : List Byte) : State :=
  let type := fNum b 0 1 % 16
  let seq := fNum b 30 2
  let s := if type = 0 && s0.ptpRole m = 0 && (s0.pport m).parent = none then
      (s0.setPport m { s0.pport m with parent := some (fNum b 20 10) }).ptpDecide else s0
  let p := s.pport m
  match type with
  | 0x0 =>
    if p.st = 1 && s.fromParent m b then
      if fNum b 6 1 / 2 % 2 = 1 then s.setPport m { p with twoStep := some (seq, loc - ptpCorr b) }
      else s.ptpSync m (ptpTime b 34 + ptpCorr b) loc
    else s
  | 0x8 =>
    match p.twoStep with
    | some (q, l) => if p.st = 1 && s.fromParent m b && q = seq then s.ptpSync m (ptpTime b 34 + ptpCorr b) l else s
    | none => s
  | 0x1 =>
    if p.st = 2 && s.drives && s.ptpSends m then
      s.ptpGeneral m (ptpHeader 0x9 0 (s.ptpDomain m) (fNum b 8 8) (s.portId m) seq 3
        (bits (s.live.ptpWord m 2) 15 8) (ptpStamp t ++ beBytes (fNum b 20 10) 10))
    else s
  | 0x9 =>
    match p.delayReq, p.pair with
    | some (q, some t3), some (t1, t2) =>
      if p.st = 1 && s.fromParent m b && q = seq && fNum b 44 10 = s.portId m then
        s.setPport m { p with delayReq := none, path := some (((t2 - t1) + (ptpTime b 34 - ptpCorr b - t3)) / 2) }
      else s
    | _, _ => s
  | 0xB => s.ptpAnnounce m b
  | 0xC => s.bumpF R.TIM_PTP_IGNORED_COUNT
  | 0xD => s.bumpF R.TIM_PTP_IGNORED_COUNT
  | _ => s

/-- A frame's PTP message, where its transport is the port's. -/
def State.ptpOf (s : State) (m : Nat) (f : List Byte) : Option (List Byte) :=
  let b := match udpOf f with
    | some (_, _, b) => if s.ptpUdp m then some b else none
    | none => if s.ptpUdp m then none else if fNum f 12 2 = 0x88F7 then some (f.drop 14) else none
  match b with
  | some x => if 34 ≤ x.length ∧ fNum x 1 1 % 16 = 2 ∧ fNum x 4 1 = s.ptpDomain m then some x else none
  | none => none

/-- The TIME unit takes the oldest frame of class 0, or else of class 1. -/
def State.ptpReceive (s : State) (m : Nat) : State :=
  let c := if s.rxq m 0 = [] then 1 else 0
  match s.rxPop m c with
  | none => s
  | some (f, s1) =>
    let s2 := s1.weirs m
    if s2.ptpOn m then
      match s2.ptpOf m f.bytes with
      | some b => s2.ptpMessage m f.ptp f.loc b
      | none => s2
    else s2

def execPtpMessageReceived (mac : Fin 4) (s : State) : Host.Outcome State Fault Refusal := .next (s.ptpReceive mac).settle

/-- A TIME commit changes the PTP entries: a port that is off, or whose set-up changed, starts again. -/
def State.ptpCommitted (s : State) (old : Tabs) : State :=
  ((List.range 4).foldl (fun s m =>
    if (List.range 3).all (fun w => old.ptpWord m w = s.live.ptpWord m w) then s
    else
      let p := s.pport m
      s.setPport m { seqSync := p.seqSync, seqAnnounce := p.seqAnnounce, seqDelay := p.seqDelay, listenAt := s.now }) s).ptpDecide

end Sys2Proof.Machine
end

