-- ==== Sys2Proof/Machine/Raster.lean ====
section
/-! DEFINITION. The raster outputs and the Cistern (chapter 13), and the composition of a frame with the pictures that the
Cistern filler makes of it. -/

namespace Sys2Proof.Machine

/-! ### The raster table (R389, R390) -/

def rw (l : List Nat) (i : Nat) : Nat := l.getD i 0

/-- The sixteen words of an instance. -/
def Tabs.rasWords (t : Tabs) (r : Nat) : List Nat := (List.range 16).map (fun i => t.word 0x14 r i)

def rasOn (l : List Nat) : Bool := bits (rw l 0) 31 31 = 1
def rasSplit (l : List Nat) : Bool := bits (rw l 0) 30 30 = 1
def rasDeep (l : List Nat) : Bool := bits (rw l 0) 25 25 = 1
def rasMult (l : List Nat) : Nat := bits (rw l 0) 22 20
def rasDiv (l : List Nat) : Nat := bits (rw l 0) 19 18 + 1
def rasCanvas (l : List Nat) : Nat := bits (rw l 0) 17 16
def rasHa (l : List Nat) : Nat := bits (rw l 1) 31 16
def rasVa (l : List Nat) : Nat := bits (rw l 1) 15 0
def rasHt (l : List Nat) : Nat := rasHa l + bits (rw l 2) 31 16 + bits (rw l 2) 15 0 + bits (rw l 3) 31 16
def rasVt (l : List Nat) : Nat := rasVa l + bits (rw l 3) 15 0 + bits (rw l 4) 31 16 + bits (rw l 4) 15 0
/-- W and H of R390, and B. -/
def rasW (l : List Nat) : Nat := if rasSplit l then 2 * rasHa l else rasHa l
def rasB (l : List Nat) : Nat := if rasDeep l then 4 else 3
/-- The source rectangle's size. -/
def rasCw (l : List Nat) : Nat := if bits (rw l 0) 29 28 % 2 = 0 then rasW l else rasVa l
def rasCh (l : List Nat) : Nat := if bits (rw l 0) 29 28 % 2 = 0 then rasVa l else rasW l

/-- Whether instance 0 locks both outputs to one panel, and instance 1 is ignored (R399). -/
def Tabs.split (t : Tabs) : Bool := rasSplit (t.rasWords 0)

/-- The instance whose set-up output r uses (R399). -/
def Tabs.rasLead (t : Tabs) (r : Nat) : Nat := if t.split then 0 else r

/-- The words that output r runs under. -/
def Tabs.rasOf (t : Tabs) (r : Nat) : List Nat := t.rasWords (t.rasLead r)

/-- The timing group (R397). -/
def rasGroup (l : List Nat) : List Nat :=
  [b2n (rasOn l), b2n (rasSplit l), b2n (rasDeep l), rasMult l, rasDiv l, rw l 1, rw l 2, rw l 3, rw l 4, rw l 5, rw l 7]

/-- Whether two sets of words give an output the same timing: off in both, or the same group. -/
def rasSame (a b : List Nat) : Bool := (!(rasOn a) && !(rasOn b)) || rasGroup a = rasGroup b

/-- VID over f, and the pixel clock of a rate. -/
def rasVid (l : List Nat) : Nat := rasMult l * rasHt l * rasVt l * rasDiv l
def Tabs.rasClock (t : Tabs) (l : List Nat) : Nat × Nat := (t.rateNum * rasMult l * rasHt l * rasVt l, t.rateDen)

/-! ### The Cistern (R393, R394) -/

def rasPicture (l : List Nat) : Nat := rasW l * rasVa l * rasB l
def rasPlace (l : List Nat) (buf : Nat) : Nat := bits (rw l 7) 14 0 * 4096 + buf * (cdiv (rasPicture l) 4096 * 4096)
/-- The bytes from the first of the buffers to the end of the second. -/
def rasSpan (l : List Nat) : Nat := cdiv (rasPicture l) 4096 * 4096 + rasPicture l

/-- A 16-bit component at n bits (R390). -/
def rasCode (n v : Nat) : Nat := (v * (2 ^ n - 1) + 32767) / 65535

/-- A pixel's bytes (R394). -/
def rasBytes (l : List Nat) (p : Px) : List Byte :=
  if rasDeep l then leBytes (rasCode 10 p.r + rasCode 10 p.g * 2 ^ 10 + rasCode 10 p.b * 2 ^ 20) 4
  else [BitVec.ofNat 8 (rasCode 8 p.r), BitVec.ofNat 8 (rasCode 8 p.g), BitVec.ofNat 8 (rasCode 8 p.b)]

/-- The canvas sample that raster pixel (u, v) takes (R390, R188). -/
def Tabs.rasSample (t : Tabs) (l : List Nat) (u v : Nat) : Nat × Nat :=
  let d := { t.layer 0 0 with
    rotate := bits (rw l 0) 29 28, mirrorH := decide (bits (rw l 0) 27 27 = 1), mirrorV := decide (bits (rw l 0) 26 26 = 1) }
  let (x, y) := unrotate d (rasCw l) (rasCh l) u v
  (bits (rw l 6) 31 16 + x, bits (rw l 6) 15 0 + y)

/-- The bytes of a picture, in raster order. -/
def Tabs.rasImage (t : Tabs) (l : List Nat) (get : Nat → Nat → Px) : List Byte :=
  (List.range (rasVa l)).flatMap (fun v => (List.range (rasW l)).flatMap (fun u =>
    let (x, y) := t.rasSample l u v
    rasBytes l (get x y)))

/-! ### State of an output -/

def ro0 (_ : Nat) : RasOut := {}
def State.ro (s : State) (r : Nat) : RasOut := mget ro0 s.ras r
def State.setRo (s : State) (r : Nat) (v : RasOut) : State := { s with ras := mset ro0 s.ras r v }

/-- The filler and the timing of the outputs run: R405; on a standby too (R403). -/
def State.rasRuns (s : State) : Bool := s.fbit R.RAS_CTRL_raster_enable && s.domOn .cistern

/-- The transmitters run: R405, R403. -/
def State.rasDrives (s : State) : Bool := s.rasRuns && s.drives && !(s.power.agreed.contains 0x09)

/-- Whether the filler makes pictures for output r in the frame in evaluation. -/
def State.rasFills (s : State) (r : Nat) : Bool :=
  let l := s.live.rasWords r
  s.rasRuns && rasOn l && (r = 0 || !(s.live.split)) && (s.ro r).mode = 0 &&
    (s.ro r).changes.all (fun c => c.frame ≠ s.evalFrame)

/-- The buffer that the filler writes into: not that of the newest complete picture of this layout. -/
def RasOut.target (v : RasOut) (l : List Nat) : Nat :=
  match v.pics.find? (fun p => rasSame p.words l) with
  | some p => 1 - p.buf
  | none => 0

/-- The filler's work for output r in a frame, given the composed canvas; `ready` tells whether that canvas gives one. -/
def State.rasFill (s : State) (r : Nat) (ready : Bool) (get : Nat → Nat → Px) : State :=
  let l := s.live.rasWords r
  if s.rasFills r && ready then
    let v := s.ro r
    let b := v.target l
    let m := memWrite s.mem.cistern (rasPlace l b) (s.live.rasImage l get)
    ({ s with mem := { s.mem with cistern := m } }).setRo r
      { v with pics := { frame := s.evalFrame, buf := b, words := l } ::
                  v.pics.filter (fun p => !(rasSame p.words l && p.buf = b)) }
  else s

/-- The pictures that a canvas gives. -/
def State.rasFillCanvas (s : State) (host : HostView) (good : List Nat) (c : Nat) : State :=
  let held := s.inService scCanvas c && !(s.cmp.dark.contains c)
  let get (x y : Nat) : Px := if s.composes c then s.composed host good c x y else {}
  (List.range 2).foldl (fun s r => if rasCanvas (s.live.rasWords r) = c then s.rasFill r (!held) get else s) s

/-- Compose every canvas, convert its mapped pixels, feed its signatures and make its pictures. -/
def State.composeFrame (s : State) (host after : HostView) : State :=
  let s0 := ({ s with cmp := { s.cmp with pixels := [] } }.fset R.CLR_CLIP_LOW_LAST 0).fset R.CLR_CLIP_HIGH_LAST 0
  let s1 := (List.range 4).foldl (fun s c =>
    let (s2, good) := if s.composes c then s.fetchCanvas host after c else (s, [])
    let s3 := (s2.stagePixels host good c).rasFillCanvas host good c
    if s.composes c then (s3.feedSigs host good c).keepHolds host good (s3.live.dynLayers c) c else s3) s0
  if s.profileMissing then s1.bumpF R.CLR_PROFILE_INVALID_COUNT else s1

/-- A picture not complete at −P (R395). -/
def State.rasFillLate (s : State) : State :=
  (List.range 2).foldl (fun s r => if s.rasFills r then s.bumpF R.RAS_FILL_LATE_COUNT r else s) s

/-! ### The link (R388) -/

/-- Main-link rates in 10 Mbit/s per lane. -/
def dpRate (c : Nat) : Nat := if c = 0 then 162 else if c = 1 then 270 else if c = 2 then 540 else 810

def dpLanes (n : Nat) : Nat := if 4 ≤ n then 4 else if 2 ≤ n then 2 else 1

/-- Whether lanes × rate × 0.8 covers a pixel clock at a depth. -/
def dpCovers (lanes rate : Nat) (clock : Nat × Nat) (deep : Bool) : Bool :=
  decide (clock.1 * 3 * (if deep then 10 else 8) ≤ lanes * dpRate rate * 8000000 * clock.2)

/-- The lanes and rate chosen for a sink: its largest lane count, the lowest rate that covers, or its best. -/
def dpChoice (sink : Nat × Nat) (clock : Nat × Nat) (deep : Bool) : Nat × Nat :=
  let n := dpLanes sink.1
  match (List.range (sink.2 + 1)).find? (fun c => dpCovers n c clock deep) with
  | some c => (n, c)
  | none => (n, sink.2)

/-- Training starts; `again` where it is not the first of a hot plug. -/
def State.rasTrain (s : State) (r : Nat) (again : Bool) : State :=
  let v := s.ro r
  match v.sink with
  | none => s
  | some k =>
    let l := s.live.rasOf r
    let (n, c) := dpChoice k (s.live.rasClock l) (rasDeep l)
    let s1 := (((s.setRo r { v with training := true, failed := false }).fset R.RAS_OUT_STATUS_trained 0 r).fset
      R.RAS_OUT_STATUS_lanes n r).fset R.RAS_OUT_STATUS_rate c r
    if again then s1.bumpF R.RAS_RETRAIN_COUNT r else s1

/-- Whether an output is enabled. -/
def State.rasEnabled (s : State) (r : Nat) : Bool := s.rasDrives && rasOn (s.live.rasOf r)

/-- Whether an output has nothing to send, or sends the idle pattern for a sleep (R452). -/
def State.rasIdle (s : State) (r : Nat) : Bool := !(s.rasDrives) || !(rasOn (s.ro r).scan) || (s.ro r).idle

/-- A sleep prepare is rolled back: the outputs scan again. -/
def State.rasResume (s : State) : State :=
  (List.range 2).foldl (fun s r => s.setRo r { s.ro r with idle := false }) s

/-- DPn_HPD is seen: the outputs have power, and the transmitters whose balls are ignored while PD_HOST is off (R446). -/
def State.hpdSeen (s : State) : Bool := s.domOn .cistern && s.domOn .host

/-- A rise of DPn_HPD: the sink's capabilities, its EDID, then training, if the output is enabled (R388). -/
def State.hpdRise (s : State) (r lanes rate : Nat) (edid : List Byte) : State :=
  if !(s.hpdSeen) then s
  else
    let s1 := ((s.fset R.RAS_OUT_STATUS_hpd 1 r).bumpF R.RAS_HPD_COUNT r).raise 42
    let s2 := s1.setRo r { s1.ro r with sink := some (lanes, rate), training := false, failed := false }
    if s2.rasEnabled r then
      ((List.range 128).foldl (fun s i => s.setRg (R.RAS_EDID.off r i)
        (BitVec.ofNat 32 (leNat ((edid.drop (4 * i)).take 4)))) s2).rasTrain r false
    else s2

def execHpdRise (output : Fin 2) (lanes : Fin 5) (rate : Fin 4) (edid : List Byte) (s : State) :
    Host.Outcome State Fault Refusal :=
  .next (s.hpdRise output lanes rate edid).settle

/-- An HPD fall stops the output. -/
def State.hpdFall (s : State) (r : Nat) : State :=
  if !(s.hpdSeen) then s
  else
    let s1 := ((s.fset R.RAS_OUT_STATUS_hpd 0 r).bumpF R.RAS_HPD_COUNT r).raise 42
    let s2 := (s1.setRo r { s1.ro r with sink := none, training := false, failed := false }).fset R.RAS_OUT_STATUS_trained 0 r
    if s2.rasEnabled r then s2.emit (.raster r 2) else s2

def execHpdFall (output : Fin 2) (s : State) : Host.Outcome State Fault Refusal := .next (s.hpdFall output).settle

/-- An IRQ_HPD that reports a lost link. -/
def State.linkLost (s : State) (r : Nat) : State := if s.rasEnabled r then s.rasTrain r true else s

def execIrqHpd (output : Fin 2) (s : State) : Host.Outcome State Fault Refusal := .next (s.linkLost output).settle

/-- Training ends. -/
def State.trained (s : State) (r : Nat) (good : Bool) : State :=
  let v := s.ro r
  if v.training then
    ((s.setRo r { v with training := false, failed := !good }).fset R.RAS_OUT_STATUS_trained (b2n good) r).raise 42
  else s

def execLinkTrainingDone (output : Fin 2) (good : Bool) (s : State) : Host.Outcome State Fault Refusal :=
  .next (s.trained output good).settle

/-- A failed training is retried once per period: at the frame instant. -/
def State.rasRetry (s : State) : State :=
  (List.range 2).foldl (fun s r => if (s.ro r).failed && s.rasEnabled r then s.rasTrain r true else s) s

/-! ### Launch (R392, R395, R398) -/

/-- The words that an output runs under from the launch of frame `n` on. -/
def RasOut.wordsAt (v : RasOut) (n : Nat) : List Nat :=
  ((v.changes.filter (fun c => decide (c.frame ≤ n))).getLast?).elim v.scan (fun c => c.words)

/-- The trims latch at the arming of frame `n`; under `split` both outputs take t_r of instance 0 (R399). -/
def State.armRasters (s : State) (n : Nat) : State :=
  (List.range 2).foldl (fun s r =>
    let v := s.ro r
    let lead := if rasSplit (v.wordsAt n) then 0 else r
    s.setRo r { v with trims := (n, s.fget R.RAS_LAUNCH_TRIM_trim_ns lead) :: v.trims.take 1 }) s

/-- T_f(n) − t_r, as a reading of the clock's base (R392). -/
def State.rasAt (s : State) (r n : Nat) : Int :=
  s.tfOf n - ((((s.ro r).trims.find? (fun t => t.1 == n)).elim 0 (fun t => t.2) : Nat) : Int) * 65536

/-- The show frame whose raster frame j the scan has come to: with j = 0 the newest whose launch instant is reached, and else the one
that is being scanned, j · P / `mult` later. -/
def State.rasDue (s : State) (r j : Nat) : Option Nat :=
  let v := s.ro r
  if j = 0 then
    ((s.time.clock.tf.filter (fun e => decide (v.shown < e.1 ∧ s.rasAt r e.1 ≤ s.clockNow))).map (fun e => e.1)).max?
  else if s.rasAt r v.shown + j * s.period / (rasMult v.scan : Nat) ≤ s.clockNow then some v.shown else none

/-- RAS_STATUS: VID is locked while an enabled output runs on it. -/
def State.showVidLock (s : State) : State :=
  s.fset R.RAS_STATUS_vid_locked (b2n (s.rasEnabled 0 || s.rasEnabled 1))

/-- Whether two pixel clocks differ by more than 0.5 %. -/
def clockMoved (a b : Nat × Nat) : Bool :=
  let x := a.1 * b.2
  let y := b.1 * a.2
  decide (x < 200 * (y - x) ∨ x < 200 * (x - y)) || (a.1 = 0 && b.1 ≠ 0)

/-- The timing of a change is taken, and those of frames up to its own have landed; pictures of other timings are of no more use,
but for those that a later change waits with. -/
def State.rasTake (s : State) (r : Nat) (c : RasChange) : State :=
  let v := s.ro r
  let rest := v.changes.filter (fun d => decide (c.frame < d.frame))
  s.setRo r { v with
    changes := rest, scan := c.words, clock := c.clock
    pics := v.pics.filter (fun p => (c :: rest).any (fun d => rasSame p.words d.words)) }

/-- The old timing ends: the idle pattern is sent for a period, and the link is trained again where it must be. -/
def State.rasLeave (s : State) (r : Nat) (c : RasChange) : State :=
  let v := s.ro r
  let l := c.words
  let k := c.clock
  let s1 := s.rasTake r c
  let s2 := (s1.bumpF R.RAS_BLANK_COUNT r).emit (.raster r (if rasOn l then 0 else 2))
  if !(rasOn l) then (s2.fset R.RAS_OUT_STATUS_blanking 0 r).fset R.RAS_OUT_STATUS_trained 0 r
  else
    let s3 := s2.fset R.RAS_OUT_STATUS_blanking 1 r
    let chosen := match v.sink with
      | some q => dpChoice q k (rasDeep l)
      | none => (0, 0)
    if clockMoved v.clock k || chosen ≠ (s.fget R.RAS_OUT_STATUS_lanes r, s.fget R.RAS_OUT_STATUS_rate r) ||
        !(s.fbit R.RAS_OUT_STATUS_trained r) then s3.rasTrain r true
    else s3

/-- The newest complete picture that frame `n` may show on output r in the timing in force. -/
def State.rasShown (s : State) (r n : Nat) : Option Pict :=
  let v := s.ro r
  (s.ro (if rasSplit v.scan then 0 else r)).pics.find? (fun p => decide (p.frame ≤ n) && rasSame p.words v.scan)

/-- The bytes of CRC rectangle k of a picture (R400): an 8-bit pixel as R, G, B, a 10-bit one as three 16-bit words. -/
def State.rasCrc (s : State) (p : Pict) (k : Nat) : List Byte :=
  let l := p.words
  let a := rw l (8 + 2 * k)
  let b := rw l (9 + 2 * k)
  let base := rasPlace l p.buf
  (List.range (bits b 12 0 + 1 - bits a 12 0)).flatMap (fun j => (List.range (bits b 26 13 + 1 - bits a 26 13)).flatMap
    (fun i =>
      let at_ := base + ((bits a 12 0 + j) * rasW l + bits a 26 13 + i) * rasB l
      if rasDeep l then
        let w := memNat s.mem.cistern at_ 4
        leBytes (bits w 9 0) 2 ++ leBytes (bits w 19 10) 2 ++ leBytes (bits w 29 20) 2
      else memRead s.mem.cistern at_ 3))

/-- The rectangles of a picture feed their Gauges as raster frame 0 is read. -/
def State.rasFeed (s : State) (p : Pict) : State :=
  (List.range 4).foldl (fun s k =>
    let a := rw p.words (8 + 2 * k)
    if bits a 31 31 = 1 then s.gaCheck (bits a 30 27) gaBound (s.rasCrc p k) p.frame else s) s

/-- What an output sends of a picture: black in its timing where it is in service with black; the colorimetry in the MSA; and its
columns, the right half of the panel for output 1 under `split` (R387, R399). -/
def State.rasSends (s : State) (r : Nat) (l : List Nat) : Emission :=
  .raster r (if (s.ro r).mode = 2 then 3 else 1) (bits (rw l 0) 24 23) (if r = 1 ∧ rasSplit l = true then rasHa l else 0) (rasHa l)

/-- A picture goes out. -/
def State.rasShow (s : State) (r j : Nat) (p : Pict) : State :=
  let s1 := (s.fset R.RAS_OUT_STATUS_blanking 0 r).emit (s.rasSends r p.words)
  if j = 0 && (r = 0 || !(rasSplit p.words)) then s1.rasFeed p else s1

/-- The change that lands at the launch of frame `n`. -/
def RasOut.landing (v : RasOut) (n : Nat) : Option RasChange := (v.changes.filter (fun c => decide (c.frame ≤ n))).getLast?

/-- Raster frame j of show frame `n` on output r, where no change of the timing lands: the newest complete picture goes out, or an
output that is blank stays so, which counts once a frame. Asked to agree to a sleep, it sends the idle pattern from raster frame 0 on
(R452). -/
def State.rasScan (s : State) (r j n : Nat) : State :=
  let v := s.ro r
  if !(s.rasDrives) ∨ !(rasOn v.scan) ∨ (j ≠ 0 ∧ rasMult v.scan ≤ j) then s
  else if s.quiesced 0x09 && (j = 0 || v.idle) then
    if v.idle then s else (s.setRo r { v with idle := true }).emit (.raster r 0)
  else
    match (if s.fbit R.RAS_OUT_STATUS_trained r then s.rasShown r n else none) with
    | some p => s.rasShow r j p
    | none => if j = 0 && s.fbit R.RAS_OUT_STATUS_blanking r then (s.bumpF R.RAS_BLANK_COUNT r).emit (.raster r 0) else s

/-- Raster frame j is launched on output r, once its instant is reached (R392). A standby takes a change of the timing in silence
(R403). -/
def State.rasLaunch (s : State) (r j : Nat) : State :=
  match (if s.rasRuns then s.rasDue r j else none) with
  | none => s
  | some n =>
    if j = 0 then
      let s1 := s.setRo r { s.ro r with shown := n }
      match (s.ro r).landing n with
      | some c => if s.rasDrives then (s1.rasLeave r c).showVidLock else s1.rasTake r c
      | none => s1.rasScan r j n
    else s.rasScan r j n

def execRasterFrameLaunch (output : Fin 2) (j : Fin 4) (s : State) : Host.Outcome State Fault Refusal :=
  .next (s.rasLaunch output j).settle

/-! ### BAR2 (R396, R41) -/

/-- Whether a Cistern byte lies in a buffer of an enabled output: of the live set-up, or of the timing still scanned. -/
def State.inBuffer (s : State) (a : Nat) : Bool :=
  (List.range 2).any (fun r =>
    [s.live.rasOf r, (s.ro r).scan].any (fun l =>
      rasOn l && decide (rasPlace l 0 ≤ a ∧ a < rasPlace l 0 + rasPicture l ∨
        rasPlace l 1 ≤ a ∧ a < rasPlace l 1 + rasPicture l)))

/-- Write the bytes that belong to software; answers whether one did not. -/
def State.bar2Bytes (s : State) (a : Nat) : List Byte → State × Bool
  | [] => (s, false)
  | b :: t =>
    if s.inBuffer a then ((s.bar2Bytes (a + 1) t).1, true)
    else { s with mem := { s.mem with cistern := memSet s.mem.cistern a b } }.bar2Bytes (a + 1) t

/-- A BAR2 write: bytes from 96 MiB on are ignored (R11); with the domain off it is discarded and counted (R40). -/
def State.bar2Write (s : State) (a : Nat) (b : List Byte) : State :=
  if !(s.domOn .cistern) then s.accessErr true .host a
  else
    let (s1, hit) := s.bar2Bytes a (b.take (cisternSize - a))
    if hit then s1.bumpF R.RAS_BAR2_DROP_COUNT else s1

/-- A BAR2 read of `n` bytes (R41): Cistern bytes, 0 from 96 MiB on; with the domain off all ones, and counted (R40). -/
def State.bar2Read (s : State) (a n : Nat) : State :=
  if n = 0 then s
  else if !(s.domOn .cistern) then (s.accessErr false .host a).emit (.bar2Data (List.replicate n 0xFF))
  else s.emit (.bar2Data ((List.range n).map (fun i => if a + i < cisternSize then memByte s.mem.cistern (a + i) else 0)))

/-- A BAR2 write, and the host's read of the same offset behind it (none with `readBack` 0; of no bytes written, the read alone). -/
def execBar2Write (offset : BitVec 27) (bytes : List Byte) (readBack : Fin 65) (s : State) : Host.Outcome State Fault Refusal :=
  .next (((if bytes = [] then s else s.bar2Write offset.toNat bytes)).bar2Read offset.toNat readBack).settle

/-! ### Commit and registers (R397, R398, R401) -/

/-- Whether a rectangle of an instance is on, and its Gauge. -/
def rasRect (l : List Nat) (k : Nat) : Bool × Nat := (decide (bits (rw l (8 + 2 * k)) 31 31 = 1), bits (rw l (8 + 2 * k)) 30 27)

/-- Reserved bits and codes that no instance may hold. -/
def rasReserved (r : Nat) (l : List Nat) : Bool :=
  bits (rw l 0) 15 0 ≠ 0 || bits (rw l 5) 29 0 ≠ 0 || bits (rw l 7) 31 15 ≠ 0 || bits (rw l 0) 24 23 = 3 ||
    (r = 1 && rasSplit l) || (List.range 4).any (fun k => bits (rw l (9 + 2 * k)) 31 27 ≠ 0)

/-- Sizes and porches outside R389. -/
def rasSizes (l : List Nat) : Bool :=
  decide (rasMult l = 0 ∨ 4 < rasMult l ∨ rasHa l < 16 ∨ 7680 < rasHa l ∨ rasVa l < 16 ∨ 4320 < rasVa l ∨
    bits (rw l 2) 31 16 < 8 ∨ bits (rw l 2) 15 0 < 8 ∨ bits (rw l 3) 15 0 < 1 ∨
    bits (rw l 4) 31 16 < 1 ∨ bits (rw l 4) 15 0 < 1)

/-- The instances that count: enabled ones, instance 1 only without `split`. -/
def Tabs.rasLive (t : Tabs) : List Nat :=
  (List.range 2).filter (fun r => rasOn (t.rasWords r) && (r = 0 || !(t.split)))

/-- The items that fail a check of R401. `index` is the instance that a COMMIT of scope RASTER names. -/
def State.rasterBad (s : State) (t : Tabs) (index : Option Nat) (code : Nat) : List Nat :=
  let l (r : Nat) : List Nat := t.rasWords r
  let on := t.rasLive
  match code with
  | 0x70 => (List.range 2).filter (fun r => rasReserved r (l r) || (on.contains r && rasSizes (l r)))
  | 0x71 => on.filter (fun r =>
      let c := rasCanvas (l r)
      decide (t.cvWidth c < bits (rw (l r) 6) 31 16 + rasCw (l r) ∨ t.cvHeight c < bits (rw (l r) 6) 15 0 + rasCh (l r)))
  | 0x72 =>
    let bad := on.filter (fun r =>
      decide (rasVid (l r) * t.rateNum < 25000000 * t.rateDen ∨ 600000000 * t.rateDen < rasVid (l r) * t.rateNum))
    if bad ≠ [] then bad else if on.length = 2 ∧ rasVid (l 0) ≠ rasVid (l 1) then [1] else []
  | 0x73 => (List.range 2).filter (fun r =>
      let w := t.rasOf r
      let k := ((s.ro r).sink).getD (4, 3)
      rasOn w && !(dpCovers (dpLanes k.1) k.2 (t.rasClock w) (rasDeep w)))
  | 0x74 => if 100663296 < on.foldl (fun n r => n + rasPicture (l r) * 2) 0 then [on.getLastD 0] else []
  | 0x75 => on.filter (fun r =>
      decide (cisternSize < rasPlace (l r) 0 + rasSpan (l r)) ||
        (r = 1 && on.contains 0 && decide (rasPlace (l 0) 0 < rasPlace (l 1) 0 + rasSpan (l 1) ∧
          rasPlace (l 1) 0 < rasPlace (l 0) 0 + rasSpan (l 0))))
  | 0x76 => on.flatMap (fun r => ((List.range 4).filter (fun k =>
      let a := rw (l r) (8 + 2 * k)
      let b := rw (l r) (9 + 2 * k)
      let g := (rasRect (l r) k).2
      (rasRect (l r) k).1 && (decide (bits b 26 13 < bits a 26 13 ∨ bits b 12 0 < bits a 12 0 ∨ rasW (l r) ≤ bits b 26 13 ∨
        rasVa (l r) ≤ bits b 12 0) ||
        (List.range 4).any (fun c => (List.range 4).any (fun j => (t.sigRect c j).1 && (t.sigRect c j).2.1 = g)) ||
        t.legGroups.any (fun h => bits (t.grpW h 1) 31 31 = 1 && bits (t.grpW h 1) 3 0 = g)))).map (fun k => 4 * r + k))
  | 0x77 => if index = some 1 ∧ t.split then [1] else []
  | _ => []

/-- Whether two pixel clocks, each a fraction, are the same. -/
def clockSame (a b : Nat × Nat) : Bool := decide (a.1 * b.2 = b.1 * a.2)

/-- The words of the live set-up are taken at once, as a change of no frame to come. -/
def State.rasLive (s : State) (r : Nat) : RasChange :=
  let l := s.live.rasOf r
  { frame := s.frame, words := l, clock := s.live.rasClock l }

/-- The class 0x14 that was live gives way at the input cut of frame F: outputs whose timing changes blank at F. With the outputs
off, the new timing is simply taken. -/
def State.rasterCommitted (s : State) (old : Tabs) (frame : Nat) : State :=
  let both := old.split || s.live.split
  let moved (r : Nat) : Bool := !(rasSame (old.rasOf r) (s.live.rasOf r)) ||
    (rasOn (s.live.rasOf r) && !(clockSame (s.live.rasClock (s.live.rasOf r)) (old.rasClock (old.rasOf r))))
  (List.range 2).foldl (fun s r =>
    let v := s.ro r
    if moved r || (both && (moved 0 || moved 1)) then
      if s.rasRuns then s.setRo r { v with changes := v.changes ++ [{ s.rasLive r with frame := frame }] }
      else (s.setRo r { v with changes := [] }).rasTake r (s.rasLive r)
    else if v.changes = [] then s.setRo r { v with scan := s.live.rasOf r }
    else s.setRo r { v with changes := v.changes.map (fun c =>
      if rasSame c.words (s.live.rasOf r) then { c with words := s.live.rasOf r } else c) }) s

/-- The outputs start, an output with a sink training first; they begin to scan at the next raster launch. -/
def State.rasStart (s : State) : State :=
  ((List.range 2).foldl (fun s r =>
    let s2 := (s.setRo r { s.ro r with changes := [], shown := s.frame }).rasTake r (s.rasLive r)
    if s2.rasEnabled r then s2.rasTrain r false else s2) s).showVidLock

/-- A write of RAS_CTRL: with 0 both outputs and the filler stop, with 1 they run. -/
def State.rasCtrlWrite (s : State) (v : Word) : State :=
  let on := v.getLsbD 31
  let was := s.fbit R.RAS_CTRL_raster_enable
  let s1 := s.fset R.RAS_CTRL_raster_enable (b2n on)
  if on && !was then s1.rasStart
  else if !on && was then
    ((List.range 2).foldl (fun s r =>
      let s2 := (s.fset R.RAS_OUT_STATUS_trained 0 r).fset R.RAS_OUT_STATUS_blanking 0 r
      (s2.setRo r { s2.ro r with training := false, failed := false, changes := [] }).emit (.raster r 2)) s1).showVidLock
  else s1

/-- PD_CISTERN goes off: the Cistern, the outputs and their service are lost, and the registers show it (log entry 116). -/
def State.clearCistern (s : State) : State :=
  let s1 := { s with mem := { s.mem with cistern := [] }, ras := [] }
  let s2 := (List.range 2).foldl (fun s r =>
    (((s.fset R.RAS_OUT_STATUS_hpd 0 r).fset R.RAS_OUT_STATUS_trained 0 r).fset R.RAS_OUT_STATUS_blanking 0 r).fset
      R.RAS_OUT_STATUS_in_service 0 r) s1
  (s2.fset R.UPD_REACH_STATUS_rasters 0).fset R.RAS_STATUS_vid_locked 0

/-! ### Service (R402) -/

/-- Output r goes into service, or leaves it; of a pair (`both`), the two outputs. -/
def State.rasService (s : State) (both : Bool) (r mode : Nat) : State :=
  let l := if both then [0, 1] else [r]
  l.foldl (fun s r => ((s.setRo r { s.ro r with mode := mode }).fset R.RAS_OUT_STATUS_in_service (b2n (mode ≠ 0)) r).fset
    R.UPD_REACH_STATUS_rasters
      (let u := s.fget R.UPD_REACH_STATUS_rasters
       if mode = 0 then u - u / 2 ^ r % 2 * 2 ^ r else u - u / 2 ^ r % 2 * 2 ^ r + 2 ^ r)) s

end Sys2Proof.Machine
end

