-- ==== Sys2Proof/Machine/Basin.lean ====
section
/-! DEFINITION. Basins (chapter 14, R406..R423): messages, the tree, frame lock and frame numbers, barriers and broadcasts.
The operations that act through a COMMIT, a snapshot or a reset stand in BasinOps. -/

namespace Sys2Proof.Machine


/-! ### Messages (R408, R409) -/

structure BsnMsg where
  type : Nat
  refused : Bool
  lock : Bool
  origin : Nat
  id : Nat
  frame : Nat
  payload : List Byte
deriving DecidableEq, Repr

/-- The bytes of a message. -/
def BsnMsg.bytes (m : BsnMsg) : List Byte :=
  let b := leBytes m.type 1 ++ leBytes (b2n m.refused + 2 * b2n m.lock) 1 ++ leBytes m.origin 2 ++ leBytes m.id 4 ++
    leBytes m.frame 8 ++ leBytes m.payload.length 2 ++ leBytes 0 2 ++ m.payload
  b ++ leBytes (crcOf crc32c b) 4

/-- A received message; `none` where its CRC, type or length is bad. -/
def bsnParse (b : List Byte) : Option BsnMsg :=
  let n := lNum b 16 2
  let t := lNum b 0 1
  if 256 < n ∨ t = 0 ∨ 11 < t ∨ b.length ≠ 24 + n ∨ crcOf crc32c (b.take (20 + n)) ≠ lNum b (20 + n) 4 then none
  else some { type := t, refused := lNum b 1 1 % 2 = 1, lock := lNum b 1 1 / 2 % 2 = 1, origin := lNum b 2 2, id := lNum b 4 4,
              frame := lNum b 8 8, payload := (b.drop 20).take n }

def bp0 (_ : Nat) : BasinPort := {}
def State.bport (s : State) (k : Nat) : BasinPort := mget bp0 s.basin.ports k
def State.setBasin (s : State) (b : Basin) : State := { s with basin := b }
def State.setBport (s : State) (k : Nat) (v : BasinPort) : State :=
  s.setBasin { s.basin with ports := mset bp0 s.basin.ports k v }

def State.bAddr (s : State) : Nat := s.fget R.BSN_STATUS_address
def State.joined (s : State) : Bool := s.fbit R.BSN_STATUS_joined
def State.isRoot (s : State) : Bool := s.fbit R.BSN_CTRL_basin_enable && s.fbit R.BSN_CTRL_is_root
def addrDepth (a : Nat) : Nat := a / 2 ^ 14

/-- A down port with a joined child. -/
def State.childOn (s : State) (k : Nat) : Bool :=
  s.fbit R.BSN_PORT_STATUS_child k && s.fget R.BSN_CTRL_down_enable / 2 ^ k % 2 = 1

def State.children (s : State) : List Nat := (List.range 16).filter (fun k => s.childOn k)

/-- Send a message on a port. A tandem standby sends none on its down ports (R426). -/
def State.bsnSend (s : State) (port : Nat) (m : BsnMsg) : State :=
  if port < 16 ∧ ¬ s.drives then s else s.emit (.dravud port (m.bytes.map (fun b => b.toNat)))

def State.msgOf (s : State) (type id frame : Nat) (payload : List Byte) (refused : Bool := false) : BsnMsg :=
  { type := type, refused := refused, lock := false, origin := s.bAddr, id := id, frame := frame, payload := payload }

def State.bsnDown (s : State) (m : BsnMsg) : State := s.children.foldl (fun s k => s.bsnSend k m) s

/-- Take in a message of a type on a port; a bad one is counted. Nothing arrives while PD_NET is off. -/
def State.bsnTake (s : State) (bytes : List Byte) (type : Nat) (f : State → BsnMsg → State) : State :=
  if !(s.domOn .net) then s
  else
    match bsnParse bytes with
    | none => s.bumpF R.BSN_MSG_ERR_COUNT
    | some m => if m.type = type then f s m else s

/-! ### The tree (R410..R412) -/

/-- The devices known below a port. -/
def BasinPort.devices (p : BasinPort) : Nat := p.known.foldl (fun n e => n + e.2.1) 0

/-- The depth of the lowest of them below the port's child. -/
def BasinPort.depth (p : BasinPort) : Nat := p.known.foldl (fun n e => max n e.2.2) 0

/-- Whether address `b` lies strictly below address `a` (R411). -/
def addrBelow (a b : Nat) : Bool :=
  let k := 2 ^ (12 - 4 * addrDepth a)
  decide (addrDepth a < addrDepth b ∧ a % 2 ^ 12 / k = b % 2 ^ 12 / k)

/-- A JOIN of `n` devices is accepted at address `a`. DESIGN CHOICE: where `n` can hold the devices already known below `a`, they are
among the `n`; else the JOIN takes their place (log entry 68). -/
def BasinPort.accept (p : BasinPort) (a n low : Nat) : BasinPort :=
  let under := p.known.filter (fun e => addrBelow a e.1)
  let rest := p.known.filter (fun e => e.1 ≠ a && !(addrBelow a e.1))
  let m := under.foldl (fun n e => n + e.2.1) 0
  { p with known := if m + 1 ≤ n then rest ++ under ++ [(a, n - m, low)] else rest ++ [(a, n, low)] }

/-- `n` devices below a port are what is left of those known. -/
def BasinPort.left (p : BasinPort) (a n : Nat) : BasinPort :=
  if n < p.devices then { p with known := [(a, n, p.depth)] } else p

/-- Devices of the subtree, this one included. -/
def State.subtree (s : State) : Nat := s.children.foldl (fun n k => n + (s.bport k).devices) 1

def State.showSubtree (s : State) : State := s.fset R.BSN_SUBTREE_devices (if s.joined then s.subtree else 0)

/-- Depth of the subtree below this device. -/
def State.subDepth (s : State) : Nat := s.children.foldl (fun n k => max n ((s.bport k).depth + 1)) 0

/-- A device that is not the root sends JOIN for its whole subtree. -/
def State.sendJoin (s : State) : State :=
  if s.domOn .net && s.fbit R.BSN_CTRL_basin_enable && !(s.isRoot) && !(s.joined) && s.fbit R.BSN_PORT_STATUS_link 16 then
    s.bsnSend 16 (s.msgOf 0x03 0 0 (leBytes s.subtree 2 ++ leBytes s.subDepth 2))
  else s

/-- The address of the child on down port k. -/
def State.childAddr (s : State) (k : Nat) : Nat :=
  let d := addrDepth s.bAddr
  (d + 1) * 2 ^ 14 + s.bAddr % 2 ^ 12 + k * 2 ^ (8 - 4 * d)

/-- The down port that leads to an address. -/
def State.portTo (s : State) (a : Nat) : Nat := a / 2 ^ (8 - 4 * addrDepth s.bAddr) % 16

/-- A JOIN that this device sees answered or forwards: its child's, or one of its subtree. -/
def State.accepted (s : State) (j : JoinReq) : State :=
  let below := addrDepth j.address - (addrDepth s.bAddr + 1)
  let p := (s.bport j.port).accept j.address j.devices (below + j.depth)
  if j.own then
    ((s.setBport j.port { p with marked := false, missed := 0 }).fset R.BSN_PORT_STATUS_child 1 j.port).showSubtree
  else (s.setBport j.port p).showSubtree

/-- The root answers a JOIN: refused where the basin would then exceed 4,096 devices or go below depth 3. -/
def State.rootAnswer (s : State) (j : JoinReq) : State :=
  let s1 := s.accepted j
  let bad := decide (4096 < s1.subtree ∨ 3 < addrDepth j.address + j.depth)
  (if bad then s else s1).bsnSend j.port (s.msgOf 0x04 0 s.frame (leBytes j.address 2) bad)

/-- Send up, or answer, the JOINs that wait. -/
def State.forwardJoins (s : State) : State :=
  let l := s.basin.joins.filter (fun j => !j.sent)
  if s.isRoot then
    l.foldl (fun s j => s.rootAnswer j) (s.setBasin { s.basin with joins := s.basin.joins.filter (fun j => j.sent) })
  else if s.joined then
    l.foldl (fun s j =>
      s.bsnSend 16 { s.msgOf 0x03 0 0 (leBytes j.devices 2 ++ leBytes j.depth 2) with origin := j.address })
      (s.setBasin { s.basin with joins := s.basin.joins.map (fun j => { j with sent := true }) })
  else s

/-- A JOIN on a down port: the child's own, from address 0, or one that it forwards. Below depth 3 there is no address to give. -/
def State.takeJoin (s : State) (k : Nat) (m : BsnMsg) : State :=
  if k < 16 ∧ s.fget R.BSN_CTRL_down_enable / 2 ^ k % 2 = 1 ∧ s.fbit R.BSN_CTRL_basin_enable then
    let direct := decide (m.origin = 0)
    if direct && 3 ≤ addrDepth s.bAddr then s.bsnSend k (s.msgOf 0x04 0 s.frame (leBytes 0 2) true)
    else
      let j : JoinReq := { address := if direct then s.childAddr k else m.origin, devices := lNum m.payload 0 2,
                           depth := lNum m.payload 2 2, port := k, own := direct }
      let same (q : JoinReq) : Bool := q.port = k && (direct || q.address = j.address)
      (s.setBasin { s.basin with joins := s.basin.joins.filter (fun q => !(same q)) ++ [j] }).forwardJoins
  else s

def execBasinJoin (port : Fin 17) (bytes : List Byte) (s : State) : Host.Outcome State Fault Refusal :=
  .next (s.bsnTake bytes 0x03 (fun s m => s.takeJoin port m)).settle

/-! ### Operations' state (R417) -/

def opIdle : Nat := 0
def opBusy : Nat := 1
def opDone : Nat := 2
def opPartial : Nat := 3
def opRefused : Nat := 4

def State.opState (s : State) : Nat := s.fget R.BSN_OP_STATUS_op_state

/-- An operation completes. -/
def State.opEnd (s : State) (st count : Nat) : State :=
  (((s.fset R.BSN_OP_STATUS_op_state st).fset R.BSN_OP_STATUS_count count).raise 43).event blkBsn (Config.eventCode blkBsn st)

/-- A start: discarded while BUSY, REFUSED off the root where only the root may. -/
def State.opStart (s : State) (req : Requester) (rootOnly : Bool) (f : State → State) : State :=
  if !(s.domOn .net) then s.accessErr true req R.BSN_OP.off
  else if s.opState = opBusy then s.accessErr true req R.BSN_OP.off
  else if rootOnly && !(s.isRoot) then s.fset R.BSN_OP_STATUS_op_state opRefused
  else f ((s.fset R.BSN_OP_STATUS_op_state opBusy).fset R.BSN_OP_STATUS_count 0)

/-- Whether this device and every joined child have arrived; if so ARRIVE goes up, or the root releases. -/
def State.barrierTry (s : State) : State :=
  match s.basin.barrier with
  | none => s
  | some id =>
    if s.basin.arrived && s.children.all (fun k => (s.bport k).arrived.isSome) then
      let n := s.children.foldl (fun n k => n + (s.bport k).arrived.getD 0) 1
      if s.isRoot then
        let lost := s.basin.lost
        let s1 := s.bsnDown (s.msgOf 0x08 id 0 (leBytes n 2))
        let s2 := s1.setBasin { s1.basin with
          barrier := none, arrived := false, lost := 0, ports := s1.basin.ports.map (fun e => (e.1, { e.2 with arrived := none })) }
        s2.opEnd (if lost = 0 then opDone else opPartial) lost
      else if s.joined then s.bsnSend 16 (s.msgOf 0x07 id 0 (leBytes n 2))
      else s
    else s

/-! ### ACCEPT (R410, R416) -/

/-- This device's own ACCEPT (R410, R416). A barrier that it has arrived at goes on (R420). -/
def State.ownAccept (s : State) (m : BsnMsg) : State :=
  if m.refused then s.bumpF R.BSN_JOIN_REFUSED_COUNT
  else
    let s1 := ((s.fset R.BSN_STATUS_joined 1).fset R.BSN_STATUS_address (lNum m.payload 0 2)).fset R.BSN_PORT_STATUS_child 1 16
    let s2 := s1.setBasin { s1.basin with
      take := some m.frame, takeJoin := true,
      joins := s1.basin.joins.map (fun j =>
        if !j.own then j else { j with address := s1.childAddr j.port, sent := false }) }
    s2.showSubtree.forwardJoins.barrierTry

/-- An ACCEPT on the up port: this device's own, or one on its way down. -/
def State.takeAccept (s : State) (m : BsnMsg) : State :=
  if !(s.fbit R.BSN_CTRL_basin_enable) || s.isRoot then s
  else if !(s.joined) then s.ownAccept m
  else
    match s.basin.joins.find? (fun j => j.sent && j.address = lNum m.payload 0 2) with
    | none => s
    | some j =>
      let s1 := s.setBasin { s.basin with joins := s.basin.joins.filter (fun q => q ≠ j) }
      (if m.refused then s1 else s1.accepted j).bsnSend j.port m

def execBasinAccept (port : Fin 17) (bytes : List Byte) (s : State) : Host.Outcome State Fault Refusal :=
  .next (s.bsnTake bytes 0x04 (fun s m => if port.val = 16 then s.takeAccept m else s)).settle

/-- A refused device tries again (R410). -/
def execJoinRetry (s : State) : Host.Outcome State Fault Refusal := .next s.sendJoin.settle

/-- The lanes of a port come up (R412). -/
def State.dravudUp (s : State) (k : Nat) : State :=
  if s.domOn .net then
    let s1 := s.fset R.BSN_PORT_STATUS_link 1 k
    if k = 16 then s1.sendJoin else s1
  else s

def execDravudLinkUp (port : Fin 17) (s : State) : Host.Outcome State Fault Refusal := .next (s.dravudUp port).settle

/-- The write of BSN_CTRL: the root stands at address 0; a device that leaves is unjoined. -/
def State.bsnCtrlWrite (s : State) (v : Word) : State :=
  let was := s.isRoot
  let s1 := ((s.fset R.BSN_CTRL_basin_enable (getBits v 31 31)).fset R.BSN_CTRL_is_root (getBits v 30 30)).fset
    R.BSN_CTRL_down_enable (getBits v 15 0)
  if s1.isRoot then ((s1.fset R.BSN_STATUS_joined 1).fset R.BSN_STATUS_address 0).showSubtree.forwardJoins
  else if !(s1.fbit R.BSN_CTRL_basin_enable) || was then
    (((s1.fset R.BSN_STATUS_joined 0).fset R.BSN_STATUS_address 0).fset R.BSN_PORT_STATUS_child 0 16).showSubtree.sendJoin
  else s1.showSubtree.sendJoin

/-! ### Barriers (R420) -/

/-- Software arrives at a barrier. -/
def State.arrive (s : State) (id : Nat) : State :=
  match s.basin.barrier with
  | some q =>
    if q = id then (s.setBasin { s.basin with arrived := true }).barrierTry
    else (s.fset R.BSN_OP_STATUS_op_state opIdle).bumpF R.BSN_MSG_ERR_COUNT
  | none => (s.setBasin { s.basin with barrier := some id, arrived := true, lost := 0 }).barrierTry

def execBsnOpBarrier (req : Requester) (value : Word) (s : State) : Host.Outcome State Fault Refusal :=
  .next (if getBits value 31 28 = 3 then
    (s.opStart req false (fun s => s.arrive (s.fget R.BSN_OP_ARG))).settle else s.settle)

/-- A child's subtree arrives. The devices known below the child that do not arrive with it are lost. -/
def State.takeArrive (s : State) (k : Nat) (m : BsnMsg) : State :=
  if k < 16 ∧ s.childOn k then
    let ok := match s.basin.barrier with
      | some q => decide (q = m.id)
      | none => true
    if ok then
      let n := lNum m.payload 0 2
      let p := s.bport k
      let s1 := s.setBport k { p.left (s.childAddr k) n with arrived := some n }
      let gone := if s.basin.barrier.isSome then s.basin.lost else 0
      (s1.setBasin { s1.basin with barrier := some m.id, lost := gone + (p.devices - n) }).showSubtree.barrierTry
    else s.bumpF R.BSN_MSG_ERR_COUNT
  else s

def execBasinArrive (port : Fin 17) (bytes : List Byte) (s : State) : Host.Outcome State Fault Refusal :=
  .next (s.bsnTake bytes 0x07 (fun s m => s.takeArrive port m)).settle

/-- The barrier is complete. -/
def State.takeRelease (s : State) (m : BsnMsg) : State :=
  if s.basin.barrier = some m.id then
    let s1 := s.bsnDown m
    let s2 := s1.setBasin { s1.basin with
      barrier := none, arrived := false, lost := 0, ports := s1.basin.ports.map (fun e => (e.1, { e.2 with arrived := none })) }
    if s.basin.arrived then s2.opEnd opDone 0 else s2
  else s.bsnDown m

def execBasinRelease (port : Fin 17) (bytes : List Byte) (s : State) : Host.Outcome State Fault Refusal :=
  .next (s.bsnTake bytes 0x08 (fun s m => if port.val = 16 then s.takeRelease m else s)).settle

/-! ### Reports (R418) -/

/-- REPORT goes up, or the root's operation ends, once this device and every joined child have a result. -/
def State.reportTry (s : State) : State :=
  if s.basin.op = 0 then s
  else
    match s.basin.own with
    | none => s
    | some n =>
      if s.children.all (fun k => (s.bport k).report.isSome) then
        let all := s.children.foldl (fun m k => m + (s.bport k).report.getD 0) n
        let id := s.basin.opId
        let s1 := s.setBasin { s.basin with
          op := 0, own := none, ports := s.basin.ports.map (fun e => (e.1, { e.2 with report := none })) }
        if s.isRoot then s1.opEnd (if all = 0 then opDone else opPartial) all
        else s1.bsnSend 16 (s.msgOf 0x0B id 0 (leBytes all 2))
      else s

def State.takeReport (s : State) (k : Nat) (m : BsnMsg) : State :=
  if k < 16 ∧ s.childOn k ∧ s.basin.op ≠ 0 ∧ s.basin.opId = m.id then
    (s.setBport k { s.bport k with report := some (lNum m.payload 0 2) }).reportTry
  else s

def execBasinReport (port : Fin 17) (bytes : List Byte) (s : State) : Host.Outcome State Fault Refusal :=
  .next (s.bsnTake bytes 0x0B (fun s m => s.takeReport port m)).settle

/-! ### Loss (R412) -/

/-- A child and its subtree are gone; the up port's loss leaves this device unjoined. -/
def State.childLoss (s : State) (k : Nat) : State :=
  let had := s.fbit R.BSN_PORT_STATUS_child k
  let n := (s.bport k).devices
  let s1 := (s.fset R.BSN_PORT_STATUS_child 0 k).setBport k {}
  let s2 := if had then (s1.bumpF R.BSN_LINK_LOSS_COUNT).report 0x12 k else s1
  if k = 16 then ((s2.fset R.BSN_STATUS_joined 0).fset R.BSN_STATUS_address 0).showSubtree
  else
    let lost := if s.basin.barrier.isSome then s.basin.lost + n else s.basin.lost
    let s3 := s2.setBasin { s2.basin with lost := lost, joins := s2.basin.joins.filter (fun j => j.port ≠ k) }
    s3.showSubtree.barrierTry.reportTry

/-- A segment is lost, or the fourth ECHO in a row is missing. -/
def State.dravudLoss (s : State) (k : Nat) (segment : Bool) : State :=
  if !(s.domOn .net) then s
  else if segment then (s.fset R.BSN_PORT_STATUS_link 0 k).childLoss k
  else if k < 16 ∧ 4 ≤ (s.bport k).missed then s.childLoss k
  else s

def execDravudChildLoss (port : Fin 17) (segment : Bool) (s : State) : Host.Outcome State Fault Refusal :=
  .next (s.dravudLoss port segment).settle

/-! ### Frame lock (R413..R416) -/

/-- MARK for the next frame on every joined down port. -/
def State.markSend (s : State) : State :=
  if s.domOn .net && (s.joined || s.isRoot) && s.drives then
    s.children.foldl (fun s k =>
      let p := s.bport k
      (s.setBport k { p with marked := true, missed := if p.marked then p.missed + 1 else p.missed }).bsnSend k
        (s.msgOf 0x01 0 s.nextFrame (leBytes p.d16 4))) s
  else s

/-- An ECHO after a round trip of `r` 1/16 ns: d = (r − 1 µs + asym) / 2. -/
def State.takeEcho (s : State) (k r : Nat) : State :=
  if k < 16 ∧ s.childOn k then
    let d := ((r : Int) - 16000 + 16 * sint (s.fget R.BSN_PORT_ASYM_asym_ns k) 12) / 2
    (s.setBport k { s.bport k with d16 := twos d 32, marked := false, missed := 0 }).fset R.BSN_PORT_STATUS_d_ns
      (twos (d / 16) 15) k
  else s

def execBasinEcho (port : Fin 17) (bytes : List Byte) (r : BitVec 32) (s : State) : Host.Outcome State Fault Refusal :=
  .next (s.bsnTake bytes 0x02 (fun s _ => s.takeEcho port r.toNat)).settle

/-- The nearest lattice instant to a reading. -/
def State.latticeNear (s : State) (t : Int) : Int := s.latticeFrom (t - s.period / 2)

/-- A parent frame instant `ahead` of now: one sample of the frame clock's own base (R414). -/
def State.parentInstant (s : State) (ahead : Int) : State :=
  s.sample .drv (s.latticeNear (s.time.drv.t + ahead)) (-ahead)

/-- The skew against this device's own frame instant, within half a period (R415). -/
def State.skewOf (s : State) (ahead : Int) : Int :=
  let x := s.clockNow + ahead - s.tfOf s.nextFrame
  let p := s.period
  let m := x % p
  if 2 * m ≤ p then m else m - p

def State.takeSkew (s : State) (ahead : Int) : State :=
  let ns := s.skewOf ahead / 65536
  let s1 := s.fset R.BSN_PORT_STATUS_skew_ns (twos (clampI (-16384) 16383 ns) 15) 16
  let far := decide (1000 * 65536 < (s.skewOf ahead).natAbs)
  let s2 := s1.setBasin { s1.basin with skewed := far }
  if far && !(s.basin.skewed) then s2.report 0x13 s.bAddr else s2

/-- A MARK on the up port: ECHO, the parent's frame instant, its frame number. A joining whose number has not been taken yet goes on. -/
def State.takeMark (s : State) (m : BsnMsg) : State :=
  if s.joined && !(s.isRoot) then
    let d := sint (lNum m.payload 0 4) 32
    let ahead := s.period / 2 - d * 4096
    let s1 := (s.bsnSend 16 (s.msgOf 0x02 0 m.frame [])).takeSkew ahead
    let s2 := if s.lockSource = 3 then s1.parentInstant ahead else s1
    if m.frame ≠ s.nextFrame && s.basin.take ≠ some m.frame then
      (s2.setBasin { s2.basin with take := some m.frame }).bumpF R.BSN_SLIP_COUNT
    else s2
  else s

def execBasinMark (port : Fin 17) (bytes : List Byte) (s : State) : Host.Outcome State Fault Refusal :=
  .next (s.bsnTake bytes 0x01 (fun s m => if port.val = 16 then s.takeMark m else s)).settle

/-- A frame number moved by a change of numbering. -/
def shiftFrame (by_ : Int) (n : Nat) : Nat := ((n : Int) + by_).toNat

/-- The frame numbers that the clock holds, moved. -/
def FrameClock.renumber (c : FrameClock) (by_ : Int) : FrameClock :=
  let sh := shiftFrame by_
  { c with
    tf := c.tf.map (fun e => (sh e.1, e.2)), sh := c.sh.map (fun e => (sh e.1, e.2)),
    modes := c.modes.map (fun e => (sh e.1, e.2)), placing := c.placing.map sh,
    cutFrame := sh c.cutFrame, stageFrame := sh c.stageFrame, contentLast := sh c.contentLast,
    armed := c.armed.map (fun e => (sh e.1, e.2)) }

/-- The frames of released tasks, moved; a host task that waits keeps the frame that its descriptor names. -/
def State.renumberTasks (s : State) (by_ : Int) : State :=
  { s with ditch := { s.ditch with pool := s.ditch.pool.map (fun e => (e.1, e.2.map (fun t =>
      if t.st = .waiting then t else { t with frame := shiftFrame by_ t.frame }))) } }

/-- The frames of pictures, of laterals in service, of what the ports have sent and of members last measured, moved. -/
def State.renumberOutputs (s : State) (by_ : Int) : State :=
  let sh := shiftFrame by_
  { s with
    ras := s.ras.map (fun e => (e.1, { e.2 with
      changes := e.2.changes.map (fun c => { c with frame := sh c.frame }), shown := sh e.2.shown
      trims := e.2.trims.map (fun t => (sh t.1, t.2)), pics := e.2.pics.map (fun p => { p with frame := sh p.frame }) }))
    die := { s.die with
      svc := s.die.svc.map (fun v => { v with begin_ := sh v.begin_, ending := v.ending.map sh })
      ports := s.die.ports.map (fun e => (e.1, { e.2 with committed := e.2.committed.map sh })) }
    nodes := s.nodes.map (fun e => (e.1, { e.2 with frame := e.2.frame.map sh }))
    cmp := { s.cmp with past := s.cmp.past.map (fun v => { v with frame := sh v.frame }) }
    water := { s.water with
      blackFrame := s.water.blackFrame.map sh
      zones := s.water.zones.map (fun e => (e.1, { e.2 with rise := e.2.rise.map sh }))
      members := s.water.members.map (fun e => (e.1, { e.2 with good := e.2.good.map (fun g => (g.1, sh g.2)) })) } }

/-- Shift every frame number that the device counts itself. -/
def State.renumber (s : State) (by_ : Int) : State :=
  let sh := shiftFrame by_
  let s1 := ((s.setClock (s.time.clock.renumber by_)).renumberTasks by_).renumberOutputs by_
  { s1 with
    tandem := { s1.tandem with
      eval := sh s1.tandem.eval, ownFrame := sh s1.tandem.ownFrame, hush := s1.tandem.hush.map sh }
    power := { s1.power with stopAt := s1.power.stopAt.map sh }
    time := { s1.time with gates := s1.time.gates.map (fun e => (e.1, { e.2 with frame := sh e.2.frame })) }
    basin := { s1.basin with resetAt := s1.basin.resetAt.map sh } }

/-- A placement that the clock does not make itself: counted, and shown until its next instant (R372). -/
def State.markPlacing (s : State) : State :=
  let s1 := s.setClock { s.time.clock with placing := some s.time.clock.cutFrame }
  ((s1.bumpF R.TIM_PLACE_COUNT).fset R.TIM_STATUS_placing 1).fset R.GLB_FRAME_STATUS_lock 0

/-- At a frame instant, the parent's number is taken (R416). A change of number on joining counts as a placement. -/
def State.takeNumber (s : State) : State :=
  match s.basin.take with
  | none => s
  | some n =>
    let s1 := s.setBasin { s.basin with take := none, takeJoin := false }
    if n = s.nextFrame then s1
    else
      let s2 := s1.renumber ((n : Int) - s.nextFrame)
      let s3 := (s2.setBasin { s2.basin with shift := s2.basin.shift + (n - s.nextFrame) }).setFrame (n - 1)
      if s.basin.takeJoin then s3.markPlacing else s3

/-! ### Broadcasts (R421) -/

def bcastSize : Nat := 16

def State.showBcast (s : State) : State := s.fset R.BSN_BCAST_STATUS_entries s.basin.bcast.length

/-- A received broadcast goes on down, then into the queue. -/
def State.takeBcast (s : State) (m : BsnMsg) : State :=
  let s1 := s.bsnDown m
  if s.basin.bcast.length < bcastSize then (s1.setBasin { s1.basin with bcast := s1.basin.bcast ++ [m.payload] }).showBcast
  else s1.bumpF R.BSN_BCAST_DROP_COUNT

def execBasinBcast (port : Fin 17) (bytes : List Byte) (s : State) : Host.Outcome State Fault Refusal :=
  .next (s.bsnTake bytes 0x09 (fun s m => if port.val = 16 then s.takeBcast m else s)).settle

/-- Any write of BSN_BCAST_POP removes the oldest entry. -/
def State.bcastPop (s : State) : State :=
  (s.setBasin { s.basin with bcast := s.basin.bcast.drop 1 }).showBcast

/-- The bytes that the root's BSN_BCAST_DATA holds. -/
def State.bcastData (s : State) (n : Nat) : List Byte :=
  (List.range n).map (fun i => BitVec.ofNat 8 (s.fget R.BSN_BCAST_DATA (i / 4) / 256 ^ (i % 4)))

/-- BSN_OP BROADCAST at the root, of 1..256 bytes. A length outside that sends nothing and is refused. -/
def State.bcastStart (s : State) (n : Nat) : State :=
  if 1 ≤ n ∧ n ≤ 256 then (s.bsnDown (s.msgOf 0x09 0 0 (s.bcastData n))).opEnd opDone 0
  else s.fset R.BSN_OP_STATUS_op_state opRefused

def execBsnOpBroadcast (req : Requester) (value : Word) (s : State) : Host.Outcome State Fault Refusal :=
  .next (if getBits value 31 28 = 4 then
    (s.opStart req true (fun s => s.bcastStart (getBits value 8 0))).settle else s.settle)

/-- BSN_BCAST_DATA as read: at the root what was written, elsewhere the oldest entry. -/
def State.bcastView (s : State) (i : Nat) : Nat :=
  if s.isRoot then s.fget R.BSN_BCAST_DATA i else leNat (((s.basin.bcast.headD []).drop (4 * i)).take 4)

end Sys2Proof.Machine
end

