-- ==== Sys2Proof/Machine/Reset.lean ====
section
/-! DEFINITION. What each reset and each loss of a domain does to the state (R14, R122, R359, R544..R549, R553, R590).
The commands that start them stand in Tender. -/

namespace Sys2Proof.Machine

/-! ### Registers -/

/-- The domain of the register at an offset. -/
def regDomain (off : Nat) : Option Domain := (findReg off).map (fun e => e.1.dom)

/-- The registers of a domain return to their Reset columns: every field outside PD_TEND lists D, or is taken to by R545. -/
def State.dropRegs (s : State) (d : Domain) : State :=
  { s with regs := s.regs.filter (fun e => decide (regDomain e.1 ≠ some d)) }

/-- The Tender's registers return to their Reset columns at P, apart from those with none: the hour counters. -/
def State.tenderRegs (s : State) : State :=
  { s with regs := s.regs.filter (fun e =>
      decide (regDomain e.1 ≠ some .tend) || decide (R.TH_HOURS_BIN.off 0 ≤ e.1 ∧ e.1 ≤ R.TH_SHOW_HOURS.off)) }

/-- The fields of PM_STATE whose Reset column lists C return at a C reset (R463). -/
def State.transitionClear (s : State) : State :=
  ((((((s.fset R.PM_STATE_state 0).fset R.PM_STATE_target 0).fset R.PM_STATE_phase 0).fset R.PM_STATE_pending_valid 0).fset
    R.PM_STATE_pending 0).fset R.PM_STATE_block 0)

/-! ### One domain at a time -/

/-- Keys outside a range. -/
def dropKeys {β : Type} (a n : Nat) (m : List (Nat × β)) : List (Nat × β) :=
  m.filter (fun e => decide (e.1 < a ∨ a + n ≤ e.1))

/-- Numbers outside a range. -/
def dropNums (a n : Nat) (l : List Nat) : List Nat := l.filter (fun e => decide (e < a ∨ a + n ≤ e))

/-- The tasks dispatched to a cluster's cores leave them undispatched (R127). -/
def State.undispatchCluster (s : State) (c : Nat) : State :=
  s.ditch.pool.foldl (fun s e =>
    match s.task e.1 with
    | some t => if t.st = .dispatched ∧ clusterOf t.core = c then s.undispatch e.1 t else s
    | none => s) s

/-- Cluster `c` loses its cores' state, and its arrays are cleared with valid ECC (R122). -/
def State.clearCluster (s : State) (c : Nat) : State :=
  { s with
    cores := dropKeys (32 * c) 32 s.cores
    ditch := { s.ditch with waiting := dropNums (32 * c) 32 s.ditch.waiting }
    mem := { s.mem with
      pads := dropKeys (32 * c * 2 ^ 21) (32 * 2 ^ 21) s.mem.pads
      pools := dropKeys (c * 2 ^ 23) (2 ^ 23) s.mem.pools
      badPads := dropNums (32 * c * 2 ^ 21) (32 * 2 ^ 21) s.mem.badPads
      badPools := dropNums (c * 2 ^ 23) (2 ^ 23) s.mem.badPools } }

/-- A port after a D reset of its domain: on its catalogue program, or at REST if it ran EXPERT mode (R289). -/
def Port.afterReset (v : Port) : Port := if peMode v.ent = mEXPERT then {} else { entry := v.entry }

/-- A flume whose program RAM is empty. -/
def State.emptyRam (s : State) (f : Nat) : State :=
  ((s.setFlume f { s.flume f with pos := 0, used := 0, loaded := [] }).setTable 0x40 f []).flumeStatus f

/-- A lateral half loses what its ports hold beside their entries, an enumeration among it, and its four flumes their program RAM. -/
def State.clearLaterals (s : State) (h : Nat) : State :=
  let s1 := (s.die.ports.filter (fun e => decide (128 * h ≤ e.1 ∧ e.1 < 128 * h + 128))).foldl (fun s e =>
    ((s.setPort e.1 e.2.afterReset).fset R.PT_STATUS_mode (peMode e.2.afterReset.ent) e.1).fset R.FUR_PORT_STATUS_enum_busy 0 e.1) s
  let rest := (s.die.ports.filter (fun e => decide (128 * h ≤ e.1 ∧ e.1 < 128 * h + 128) && peMode e.2.ent = mEXPERT)).map (fun e => e.1)
  let s2 := { s1 with die := { s1.die with stale := rest ++ s1.die.stale } }
  [0, 1, 2, 3].foldl (fun s k => s.emptyRam (4 * h + k)) s2

/-- PD_NET goes down: the Tender keeps LOCAL with its own time (R359), and everything else of the domain is lost. -/
def State.clearNet (s : State) : State :=
  let kept := if s.domOn .net then some (s.time.loc.t, s.time.tendTicks) else s.time.kept
  { s with
    time := { cycles := s.time.cycles, tendTicks := s.time.tendTicks, tendSub := s.time.tendSub,
              tendRunning := s.time.tendRunning, tallyLevel := s.time.tallyLevel, kept := kept,
              clock := { tf := [] } }
    video := [], net := {}, basin := {}, tandem := {} }

/-- PD_SYS is reset: rings, PMBus hosts, pool, Silt trap, Gauge units, live tables and staged writes, with them every port's entry and every
flume's slice table, the spare flume, the requesters' latches, the update engine and the thermal logic. DESIGN CHOICE: `the latch's
last reset` of R10 is this one, for the latches and held values of every pair (log entry 76). An erase that runs is abandoned (R546). -/
def State.clearSys (s : State) : State :=
  { s with
    rings := {}, ditch := {}, silt := {}, gauges := [], tables := [], nodes := [], latches := [], heldHi := []
    cmp := { s.cmp with canvases := [], dark := [] }
    fabric := { pos := s.fabric.pos, rills := s.fabric.rills, final := s.fabric.final, memberDone := s.fabric.memberDone,
                evaluated := s.fabric.evaluated }
    live_ := {}, thermal := {}
    water := { s.water with bus0 := [], bus1 := [] }
    store := if s.live_.running then
      { s.store with cut := s.live_.sector :: s.store.cut.filter (· ≠ s.live_.sector) } else s.store
    die := { ports := [], flumes := [], again := s.die.again } }

/-- A canvas whose copies in the flatten cache are lost. -/
def Canvas.lost (v : Canvas) : Canvas :=
  { v with flat := none, flatNext := none, refillFrom := none, layers := v.layers.map (fun e => (e.1, { e.2 with hold := none })) }

/-- A canvas after a reset of PD_PIX: its buffers stay current, and its hold copies stand in the Reservoir; the flattened copy is not
used before its next refill ends (R196). -/
def Canvas.afterPix (v : Canvas) : Canvas := { v with flat := none, flatNext := none, refillFrom := none, picks := [] }

def canvasMap (f : Canvas → Canvas) (m : List (Nat × Canvas)) : List (Nat × Canvas) :=
  (m.map (fun e => (e.1, f e.2))).filter (fun e => e.2 ≠ {})

/-- PD_PIX is reset: the fade lanes and the Rills lose what they hold (R553); the fabric's control and the canvases' buffers lie in
PD_SYS, as do the PMBus hosts, and the universe image and the flatten cache in the Reservoir. -/
def State.clearPix (s : State) : State :=
  { s.fset R.PF_HISTORY_USED_records 0 with
    fabric := { s.fabric with pos := [], rills := [], final := [], memberDone := false }
    cmp := { canvases := canvasMap Canvas.afterPix s.cmp.canvases, dark := s.cmp.dark, reload := true }
    water := { bus0 := s.water.bus0, bus1 := s.water.bus1 } }

/-- The state that a domain's D reset takes with it. -/
def State.clearDomain (s : State) (d : Domain) : State :=
  match d with
  | .tend => s
  | .sluice => { s with sluice := {} }
  | .sys => s.clearSys
  | .coreA => (s.undispatchCluster 0).clearCluster 0
  | .coreB => (s.undispatchCluster 1).clearCluster 1
  | .pix => s.clearPix
  | .cistern => s.clearCistern
  | .latLo => s.clearLaterals 0
  | .latHi => s.clearLaterals 1
  | .net => s.clearNet
  | .host => (s.resetFunction.haltHostRings)
  | .res => { s with
      mem := { s.mem with reservoir := [] }, nodes := [], fabric := { s.fabric with image := [] }
      cmp := { s.cmp with canvases := canvasMap Canvas.lost s.cmp.canvases } }

/-- The sensors of R464 that lie in a domain. -/
def domSensors (d : Domain) : List Nat :=
  match d with
  | .coreA => [0] | .coreB => [1] | .pix => [2, 3] | .cistern => [4] | .net => [5] | .host => [6] | .sys => [7, 10]
  | .latLo => [8] | .latHi => [9] | .res => [11, 12, 13, 14] | .tend => [15] | .sluice => []

/-- The ports and transmitters (256, 257) that lie in a domain. -/
def domUnits (d : Domain) : List Nat :=
  match d with
  | .latLo => List.range 128
  | .latHi => (List.range 128).map (· + 128)
  | .host => [256, 257]
  | _ => []

/-! ### Units that are calibrated (R478) -/

def cal0 (_ : Nat) : CalUnit := {}
def State.calUnit (s : State) (u : Nat) : CalUnit := mget cal0 s.thermal.units u

/-- Ports 0..255, transmitters 256 and 257. -/
def calUnits : List Nat := List.range 258

def State.unitDue (s : State) (u : Nat) : Bool :=
  if u < 256 then s.fbit R.CAL_PORT_STATUS_due u else (s.calUnit u).due

/-- CAL_STATUS shows the units that are due. -/
def State.showDue (s : State) : State :=
  s.fset R.CAL_STATUS_due ((calUnits.filter (fun u => s.unitDue u)).length)

/-- The launch skew of a unit, the offset of a sensor and the trim of TEND_RC as their fuses give them; a run trims a launch stage
from there (R476, R479). -/
def State.launchSkew (s : State) (u : Nat) : Nat := (s.calUnit u).trim.getD (Config.fuse .calSkew u)

/-- A unit uses its fuse values again, until its first run (R479). -/
def State.calBase (s : State) (u : Nat) : State :=
  let s1 := { s with thermal := { s.thermal with units := s.thermal.units.filter (fun e => e.1 ≠ u) } }
  if u < 256 then s1.setRg (R.CAL_PORT_STATUS.off u) (regReset (R.CAL_PORT_STATUS.off u)) else s1

/-- A domain's sensors and the units that are calibrated in it start anew: a sensor marked `fault` counts again. -/
def State.clearSensors (s : State) (d : Domain) : State :=
  let s1 := (domSensors d).foldl (fun s k => s.setRg (R.TH_SENSOR.off k) (regReset (R.TH_SENSOR.off k))) s
  let s2 := { s1 with thermal := { s1.thermal with far := s1.thermal.far.filter (fun e => !((domSensors d).contains e.1)) } }
  if domUnits d = [] then s2 else ((domUnits d).foldl (fun s u => s.calBase u) s2).showDue

/-- A D reset. -/
def State.resetDomain (s : State) (d : Domain) : State := ((s.clearDomain d).dropRegs d).clearSensors d

/-- A Function Level Reset is a D reset of PD_HOST (R43). -/
def execFunctionLevelReset (s : State) : Host.Outcome State Fault Refusal := .next (s.resetDomain .host).settle

def State.resetDomains (s : State) (l : List Domain) : State := l.foldl (fun s d => s.resetDomain d) s

/-- A domain is switched off: its header switches open after its D reset. -/
def State.powerOff (s : State) (d : Domain) : State :=
  let s1 := s.resetDomain d
  { s1 with
    domains := s1.domains &&& ~~~(BitVec.ofNat 12 (2 ^ domNum d))
    pcie := { s1.pcie with linkUp := s1.pcie.linkUp && decide (d ≠ .host) } }

def State.powerOffs (s : State) (l : List Domain) : State := l.foldl (fun s d => s.powerOff d) s

/-- A set of domains is switched on. PD_NET coming up loads LOCAL: the reading kept, and the Tender time since, in whole ticks
of 1/32,768 s; 0 where none is kept (R359). -/
def State.loadLocal (s : State) : State :=
  let t : Int := match s.time.kept with
    | some (l, k) => l + ((s.time.tendTicks - k : Nat) : Int) * sec16 / 32768
    | none => 0
  { s with time := { s.time with loc := { t := t }, kept := none } }

def State.powerOn (s : State) (l : List Domain) : State :=
  let was := s.domOn .net
  let s1 := { s with domains := l.foldl (fun b d => b ||| BitVec.ofNat 12 (2 ^ domNum d)) s.domains }
  if l.contains .net && !was then s1.loadLocal else s1

/-- PD_NET is reset with its rails kept: LOCAL goes on. -/
def State.renewNet (s : State) : State := if s.domOn .net then s.loadLocal else s

/-- The frame clock starts at t0 (R590): number 0, the first instant at or after t0 + 2P on the lattice of the set-up in
force. -/
def State.startClock (s : State) : State :=
  let b := s.clockSource
  let s1 := s.setClock { tf := [], onBase := b }
  let s2 := (s1.setFrame 0).setTf 1 (s1.latticeFrom (s1.clockNow + 2 * s1.period))
  ((s2.fset R.GLB_FRAME_STATUS_lock (b2n (b = s.lockSource))).fset R.TIM_STATUS_on_local (b2n (b = 2))).fset
    R.TIM_STATUS_source_active b

/-! ### The resets -/

/-- Every domain but PD_TEND, in the order in which R454 switches them off. -/
def mainDomains : List Domain :=
  [.host, .latHi, .latLo, .cistern, .pix, .coreB, .coreA, .net, .sluice, .sys, .res]

/-- A reset is recorded: its bit and code in RST_CAUSE, its count (R555, R556). -/
def State.recordReset (s : State) (bit : RF) (last : Nat) (count : Option Nat) : State :=
  let s1 := (s.fset bit 1).fset R.RST_CAUSE_last last
  match count with
  | some k => s1.bumpF R.RST_COUNT k
  | none => s1

/-- What every reset that restarts the device does in the Tender: nothing of a transition is left, and no request waits. -/
def State.startFrom (s : State) (start : Nat) : State :=
  { s with power := { s.power with
      start := start, startAt := s.now, flight := none, pendFlight := none, heldReset := none, agreed := [], trained := false,
      tries := 0, heatAt := none, stopAt := none, heatRetry := false, retry := false } }

/-- The main rails are dropped, and PMIC_EN0 waits (R443, R546). -/
def State.dropRails (s : State) : State :=
  let s1 := (s.powerOffs mainDomains)
  ([3, 2, 1, 0].filter (fun i => s.power.enables.getLsbD i)).foldl (fun s i => s.emit (.railEnable i false))
    { s1 with extest := false, power := { s1.power with enables := 0, pgs := 0 } }

/-- A C reset, from its source (R544). A sector erase that runs is abandoned, the lock-out of R501 ends, and a save of the Tender's
own hour counters goes on waiting for its hold-up check (R461, R480). -/
def State.coldReset (s : State) (bit : RF) (last count : Nat) : State :=
  let s1 := ((s.dropRails.startFrom 1).transitionClear).recordReset bit last (some count)
  { s1 with power := { s1.power with waitRail := true, stores := s1.power.stores.filter (· = 2), sigFails := 0 } }

/-- An S reset (R506): as C, but PM_STATE keeps its fields, which list no S. -/
def State.sluiceReset (s : State) : State :=
  let s1 := (s.dropRails.startFrom 1).recordReset R.RST_CAUSE_sluice 5 (some 4)
  { s1 with power := { s1.power with waitRail := true, stores := s1.power.stores.filter (· = 2) } }

/-- A W reset (R547): the Reservoir keeps its contents through self-refresh, every domain but PD_TEND and PD_RES is reset, and
the PCIe link goes down. Registers of PD_RES keep what they hold. -/
def State.warmReset (s : State) : State :=
  let on := mainDomains.filter (fun d => d ≠ .res)
  let s1 := (s.resetDomains on).renewNet
  let s2 := (s1.startFrom 3).recordReset R.RST_CAUSE_warm 4 (some 3)
  { s2 with
    pcie := { s2.pcie with linkUp := false }
    power := { s2.power with stores := s2.power.stores.filter (· = 2) } }

/-- Every task of the pool ends (R548): a ONE_SHOT one is cancelled, a dispatched one as its core returns to reset, a kept
one ends. -/
def State.endTasks (s : State) : State :=
  s.ditch.pool.foldl (fun s e =>
    match s.task e.1 with
    | none => s
    | some t =>
      if t.kind = 0 then
        match t.st with
        | .ready => s.cancelReady e.1 t
        | .dispatched => s.undispatch e.1 t
        | .waiting => (s.freeTask e.1).taskDone t stCancelled 0
      else
        match t.st with
        | .dispatched => (s.freeTask e.1).bumpF R.DR_CANCEL_UNDISPATCHED_COUNT
        | _ => s.endKept e.1 t) s

end Sys2Proof.Machine
end

