-- ==== Sys2Proof/Machine/Tender.lean ====
section
/-! DEFINITION. The Tender (chapter 15): power requests, the sleep handshake, wakes, the rails, EBB and the hold-up check. The
end of a start stands in Startup. -/

namespace Sys2Proof.Machine

/-! ### States -/

def pmShow : Nat := 0
def pmIdle : Nat := 1
def pmWatch : Nat := 2
def pmDormant : Nat := 3

def State.pmState (s : State) : Nat := s.fget R.PM_STATE_state
def State.pmPhase (s : State) : Nat := s.fget R.PM_STATE_phase

/-- A transition, an exit or a start is in progress. -/
def State.pmMoving (s : State) : Bool := s.pmPhase ≠ 0 || s.power.start ≠ 0

def State.setPower (s : State) (p : Power) : State := { s with power := p }

/-- Tender time, as the logs hold it. -/
def State.tendSec (s : State) : Nat := s.time.tendTicks / 32768
def State.tendTick (s : State) : Nat := s.time.tendTicks % 32768

/-- A POWER_REQUEST completes, if one goes with the transition. -/
def State.pmFinish (s : State) (f : Option Nat) (status result : Nat) : State :=
  match f with
  | none => s
  | some id =>
    match s.flight id with
    | some fl => s.finish fl status result
    | none => s

/-- The events of the PM block: 0 SHOW reached, 1 a refusal, 2 EBB. -/
def State.pmEvent (s : State) (code : Nat) : State := (s.event blkPm (Config.eventCode blkPm code)).raise 34

/-! ### Rails (R442, R443) -/

/-- Raise an enable. -/
def State.raiseEnable (s : State) (i : Nat) : State :=
  (s.setPower { s.power with enables := s.power.enables ||| BitVec.ofNat 4 (2 ^ i) }).emit (.railEnable i true)

/-- PMIC_EN0 rises: the time to SHOW counts from here (R556). -/
def State.raiseFirst (s : State) : State :=
  (s.setPower { s.power with waitRail := false, retry := false, heatRetry := false, heatRead := false, startAt := s.now }).raiseEnable 0

/-! ### Exits -/

/-- An exit from WATCH or DORMANT begins: every domain of SHOW comes on, at once from WATCH, with the rails from DORMANT. A wake that
EBB holds goes on waiting (R460). -/
def State.beginExit (s : State) : State :=
  let s1 := (s.fset R.PM_STATE_target pmShow).fset R.PM_STATE_rail_fault 0
  let p := { s1.power with startAt := s.now, trained := false, tries := 0, lates := 0, agreed := [] }
  if s.pmState = pmWatch then (s1.setPower { p with start := 2 }).powerOn allDomains
  else (s1.setPower { p with start := 4 }).raiseFirst

/-! ### The pending slot (R455) -/

def State.clearPending (s : State) : State :=
  ((s.setPower { s.power with pendFlight := none }).fset R.PM_STATE_pending_valid 0).fset R.PM_STATE_pending 0

def State.setPending (s : State) (target : Nat) (f : Option Nat) : State :=
  let s1 := s.pmFinish s.power.pendFlight stSuperseded 0
  ((s1.setPower { s1.power with pendFlight := f }).fset R.PM_STATE_pending_valid 1).fset R.PM_STATE_pending target

/-! ### Prepare (R452, R453) -/

/-- The blocks asked, ascending. -/
def prepareList (old target : Nat) : List Nat :=
  if target = pmIdle then [2]
  else if old = pmWatch then [0x06, 0x0F]
  else if target = pmWatch then [1, 2, 3, 4, 5, 7, 8, 9, 10, 11, 12, 13, 14]
  else [1, 2, 3, 4, 5, 6, 7, 8, 9, 10, 11, 12, 13, 14, 15]

/-- The sACN transmitter ends: every universe of every MAC terminates over three frames. -/
def State.sacnEnd (s : State) : State :=
  let t := s.live
  let l := (List.range 4).flatMap (fun m => (t.txOn m).map (fun u =>
    ({ unit := u, mac := m, w0 := t.txWord u 0, w1 := t.txWord u 1, left := 3 } : SacnTerm)))
  { s with net := { s.net with terms := s.net.terms ++ l, ended := true } }

/-- A block is asked. The sleep black starts as the Watermaster is (R453). -/
def State.askBlock (s : State) (b : Nat) : State :=
  let s1 := s.fset R.PM_STATE_block b
  if b = 0x07 then { s1 with water := { s1.water with black := 1 } }
  else if b = 0x08 then s1.sacnEnd
  else s1

/-- Whether a transfer of the ring engine moves bytes. -/
def State.dmaBusy (s : State) : Bool :=
  s.rings.flight.any (fun f => f.applied && (dOpcode f.words = 0x01 || transferOp (dOpcode f.words)))

/-- Whether a command can go out to a zone: its supplies are commanded, and its bus is enabled. -/
def State.zoneReached (s : State) (z : Nat) : Bool :=
  s.fbit R.WM_CTRL_supply_enable && (decide (2 ≤ s.live.zonePath z) || s.fbit R.WM_PMBUS_CFG_enable (s.live.zonePath z))

/-- The zones to which `v_min_mv` goes and that have not acknowledged it. -/
def State.zonesOpen (s : State) : List Nat :=
  s.live.zones.filter (fun z => s.zoneReached z && decide ((s.zone z).ack ≠ some (s.live.zoneMin z)))

/-- 10 ms. -/
def minWait : Nat := 10000000

/-- The sleep black is in light, and every zone has acknowledged `v_min_mv` or 10 ms have passed since it was sent. A zone to which
nothing can be sent is not waited for (log entry 119). -/
def State.waterRests (s : State) : Bool :=
  s.blackLit && (s.zonesOpen = [] || s.water.minSent.any (fun t => decide (minWait ≤ nsSince s t)))

/-- A flatten cache is refilled. -/
def State.refills (s : State) : Bool := s.cmp.canvases.any (fun e => e.2.refillFrom.isSome)

/-- Whether the state lets a block agree (R452). -/
def State.mayAgree (s : State) (b : Nat) : Bool :=
  match b with
  | 0x01 => !(s.dmaBusy)
  | 0x02 => !(s.ditch.pool.any (fun e => e.2.any (fun t => t.st == .dispatched))) &&
      (s.fget R.PM_STATE_target ≠ pmIdle || (List.range 64).all (fun c => !(s.coreRuns c) || s.ditch.waiting.contains c))
  | 0x03 => !(s.fbit R.SLC_STATUS_busy) || s.sluice.op = 0x30 || s.sluice.op = 0x31
  | 0x04 => !(s.rings.flight.any (fun f => dOpcode f.words = 0x0E)) && s.live_.inst = none &&
      (List.range 2).all (fun k => s.fget R.UPD_SLOT_STATUS_state k ≠ 1)
  | 0x05 => !(s.fbit R.SIP_CTRL_tandem_enable)
  | 0x06 => !(s.isRoot) || s.children = []
  | 0x07 => s.waterRests
  | 0x08 => s.net.terms.all (fun t => t.left = 0)
  | 0x09 => s.rasIdle 0 && s.rasIdle 1
  | 0x0A => s.halfRested 0
  | 0x0B => s.halfRested 1
  | 0x0C => !(s.time.clock.evaluating)
  | 0x0D => !(s.fbit R.CAL_STATUS_running)
  | 0x0E => !(s.dmaBusy) && !(s.refills) && !(s.time.clock.evaluating)
  | 0x0F => (List.range 4).all (fun m => (s.mac m).txq = [])
  | _ => true

/-- The zones that have not acknowledged `v_min_mv` within its 10 ms enter WM_ZONE_FAULT (R453). -/
def State.zonesSilent (s : State) : State := s.zonesOpen.foldl (fun s z => s.zoneFail z) s

/-- The commit phase begins: the request completes, and PD_HOST goes with its rings (R85, R454). -/
def State.beginCommit (s : State) : State :=
  let t := s.fget R.PM_STATE_target
  let s1 := (s.fset R.PM_STATE_phase 2).fset R.PM_STATE_block 0
  if t = pmIdle then s1
  else
    let s2 := s1.pmFinish s1.power.flight stOk t
    (s2.setPower { s2.power with flight := none }).powerOff .host

/-- Ask the next block, or begin the commit phase. -/
def State.askNext (s : State) (after : Nat) : State :=
  match (prepareList s.pmState (s.fget R.PM_STATE_target)).find? (fun b => decide (after < b)) with
  | some b => s.askBlock b
  | none => s.beginCommit

/-- The block that is asked agrees. -/
def State.blockAgrees (s : State) : State :=
  let b := s.fget R.PM_STATE_block
  if s.pmPhase = 1 ∧ s.mayAgree b then
    let s1 := if b = 0x07 then s.zonesSilent else s
    (s1.setPower { s1.power with agreed := s1.power.agreed ++ [b] }).askNext b
  else s

/-! ### Requests (R449, R455) -/

/-- A transition starts from a steady state. -/
def State.pmStart (s : State) (target : Nat) (f : Option Nat) : State :=
  let st := s.pmState
  if target = st then s.pmFinish f stOk st
  else if target = pmShow ∧ st = pmIdle then
    (s.setPower { s.power with flight := f, start := 5, startAt := s.now }).fset R.PM_STATE_target pmShow
  else if target = pmShow then
    let s1 := s.beginExit
    s1.setPower { s1.power with flight := f }
  else if st = pmDormant ∨ (st = pmWatch ∧ target = pmIdle) then s.beginExit.setPending target f
  else
    (((s.setPower { s.power with flight := f, agreed := [] }).fset R.PM_STATE_phase 1).fset R.PM_STATE_target target).askNext 0

/-- A request for a power state. During an orderly stop every one completes SUPERSEDED (R472); while the Tender holds the wakes of a
stop, one in DORMANT waits with them (R473). -/
def State.pmAsk (s : State) (target : Nat) (f : Option Nat) : State :=
  if s.power.stopAt.isSome then s.pmFinish f stSuperseded 0
  else if s.power.stopHold && decide (s.pmState = pmDormant ∧ target ≠ pmDormant) && !(s.pmMoving) then
    (s.setPower { s.power with wakeWaits := true }).setPending target f
  else if s.pmMoving then s.setPending target f
  else s.pmStart target f

/-- The pending target is taken once a transition has ended. -/
def State.takePending (s : State) : State :=
  if s.fbit R.PM_STATE_pending_valid then
    let t := s.fget R.PM_STATE_pending
    let f := s.power.pendFlight
    s.clearPending.pmStart t f
  else s

/-! ### Rollback (R454, R456) -/

/-- Kinds of PM_REFUSE_LOG. -/
def kRefused : Nat := 0
def kTimedOut : Nat := 1
def kAborted : Nat := 2

/-- A new entry 0 of PM_REFUSE_LOG. -/
def State.logRefusal (s : State) (block target kind : Nat) : State :=
  let s1 := ([7, 6, 5, 4, 3, 2, 1]).foldl (fun (a : State) i =>
    (a.setRg (R.PM_REFUSE_LOG_0.off i) (a.rg (R.PM_REFUSE_LOG_0.off (i - 1)))).setRg (R.PM_REFUSE_LOG_1.off i)
      (a.rg (R.PM_REFUSE_LOG_1.off (i - 1)))) s
  ((((s1.fset R.PM_REFUSE_LOG_0_block block).fset R.PM_REFUSE_LOG_0_target target).fset R.PM_REFUSE_LOG_0_kind kind).fset
    R.PM_REFUSE_LOG_0_ticks s.tendTick).fset R.PM_REFUSE_LOG_1 s.tendSec

/-- The agreed blocks go on: the sleep black lifts at the next staging deadline, and the transmitter sends again. -/
def State.restart (s : State) : State :=
  { s with
    power := { s.power with agreed := [], flight := none }
    ditch := { s.ditch with paused := s.ditch.paused || s.power.agreed.contains 0x02 }
    water := { s.water with black := 0, blackFrame := none, minSent := none }
    die := { s.die with rested := [] }
    net := { s.net with ended := false, terms := if s.net.ended then [] else s.net.terms } }

/-- A prepare phase ends without its state: logged, counted, rolled back; `status` is what its request completes with. -/
def State.endPrepare (s : State) (block kind status : Nat) : State :=
  let st := s.pmState
  let s1 := ((s.logRefusal block (s.fget R.PM_STATE_target) kind).bumpF R.PM_ABORT_COUNT).pmFinish s.power.flight status
    (if status = stStateRefused then block * 256 + st else 0)
  ((((s1.fset R.PM_STATE_phase 0).fset R.PM_STATE_block 0).fset R.PM_STATE_target st).restart.rasResume).pmEvent 1

/-- The block that is asked refuses, or does not answer. The pending target, if any, is then taken. -/
def State.blockRefuses (s : State) (kind : Nat) : State :=
  if s.pmPhase = 1 then (s.endPrepare (s.fget R.PM_STATE_block) kind stStateRefused).takePending else s

/-- The pending slot is cleared, and its request superseded. -/
def State.dropPending (s : State) : State := (s.pmFinish s.power.pendFlight stSuperseded 0).clearPending

/-- An abort, by the Tender's own block ID or by software (R456, R549); during an orderly stop an ABORT completes SUPERSEDED as every
request does (R472). -/
def State.abortPrepare (s : State) (block : Nat) : State :=
  if s.pmPhase = 1 then (s.endPrepare block kAborted stSuperseded).dropPending else s

def State.pmAbort (s : State) (f : Option Nat) : State :=
  if s.power.stopAt.isSome then s.pmFinish f stSuperseded 0
  else if s.pmPhase = 1 then
    let s1 := s.abortPrepare 0
    s1.pmFinish f stOk s1.pmState
  else s.pmFinish f stStateRefused (0xFE * 256 + s.pmState)

/-! ### Commands of the handshake -/

/-- The operands of a POWER_REQUEST: scope POWER, index 0, a defined `arg`. -/
def powerOk (ws : List Word) : Bool := formCOk ws && cKind ws = scPower && cIndex ws = 0 && decide (cArg ws ≤ 4)

def execPowerRequest (s : State) : Host.Outcome State Fault Refusal :=
  .next (s.startDesc (fun ws => isOp 0x0C ws && cArg ws ≠ 4) powerOk (fun s f => s.pmAsk (cArg f.words) (some f.id))).settle

def execPowerRequestAbort (s : State) : Host.Outcome State Fault Refusal :=
  .next (s.startDesc (fun ws => isOp 0x0C ws && cArg ws = 4) powerOk (fun s f => s.pmAbort (some f.id))).settle

def execPrepareBlockRefuse (s : State) : Host.Outcome State Fault Refusal := .next (s.blockRefuses kRefused).settle

def execPrepareBlockTimeout (s : State) : Host.Outcome State Fault Refusal := .next (s.blockRefuses kTimedOut).settle

/-! ### Stores and the hold-up check (R460, R461) -/

/-- The store kinds, in order, of what waits: the erase of a sector of the boot flash; the erase of its health sector and the pages of
the record; the pages of a sector. What a Sluice operation writes has kinds of its own. -/
def storeKinds (k : Nat) : List Nat := if k = 1 then [2] else if k = 2 then [2, 0] else [0]

/-- The capacitor voltage at the latest sample of VHOLD, in mV. -/
def State.capMv (s : State) : Nat := s.power.vhold * s.fget R.PM_HOLDUP_CFG_div_x16 / 16

/-- E of R461, in µJ. -/
def State.holdupEnergy (s : State) : Nat :=
  let v := s.capMv
  let f := s.fget R.PM_HOLDUP_CFG_floor_100mv * 100
  if v ≤ f then 0 else s.fget R.PM_HOLDUP_CFG_cap_uf * (v * v - f * f) / 2000000

/-- Whether a store of a kind is covered. With `cap_uf` 0 none is, whatever its cost. -/
def State.covered (s : State) (kind : Nat) : Bool :=
  s.fget R.PM_HOLDUP_CFG_cap_uf ≠ 0 && decide (s.fget R.PM_STORE_COST kind ≤ s.holdupEnergy)

/-- Show a check. -/
def State.showCheck (s : State) (kind : Nat) : State :=
  ((s.fset R.PM_HOLDUP_STATUS_cap_mv s.capMv).fset R.PM_HOLDUP_STATUS_last_pass (b2n (s.covered kind))).fset
    R.PM_HOLDUP_STATUS_last_kind kind

def State.ebb (s : State) : Bool := s.fbit R.PM_STATE_ebb

/-- Put a store among those that wait. -/
def State.queueStore (s : State) (k : Nat) : State :=
  if s.power.stores.contains k then s else s.setPower { s.power with stores := s.power.stores ++ [k] }

/-- The checks of some kinds in turn, up to the first that fails: the state that shows them, and whether all passed. -/
def State.checkKinds (s : State) : List Nat → State × Bool
  | [] => (s, true)
  | k :: t => if (s.showCheck k).covered k then (s.showCheck k).checkKinds t else (s.showCheck k, false)

/-- Ask for a store: held in EBB, refused by the check and repeated, or run. -/
def State.askStore (s : State) (k : Nat) (run : State → State) : State :=
  if s.ebb then
    if s.power.stores.contains k then s else (s.queueStore k).bumpF R.PM_STORE_DEFER_COUNT
  else
    let (s1, ok) := s.checkKinds (storeKinds k)
    if ok then
      run (s1.setPower { s1.power with stores := s1.power.stores.filter (· ≠ k) })
    else (s1.queueStore k).bumpF R.PM_HOLDUP_FAIL_COUNT

/-! ### The end of the commit phase (R454) -/

/-- The hour counters as they are saved: the eight bins, power-on, show. -/
def State.hourWords (s : State) : List Nat :=
  (List.range 8).map (fun k => (s.rg (R.TH_HOURS_BIN.off k)).toNat) ++
    [(s.rg R.TH_POH_HOURS.off).toNat, (s.rg R.TH_SHOW_HOURS.off).toNat]

/-- The health sector takes the hour counters, and the repair log with them (R480, R523). -/
def State.saveNow (s : State) : State :=
  { s with store := { s.store with hours := s.hourWords, repairs := s.live_.repaired } }

def State.saveHours (s : State) : State := s.askStore 2 State.saveNow

/-- The hour counters as they are loaded at P. -/
def State.loadHours (s : State) : State :=
  let l := s.store.hours
  let s1 := (List.range 8).foldl (fun s k => s.setRg (R.TH_HOURS_BIN.off k) (BitVec.ofNat 32 (l.getD k 0))) s
  ((s1.setRg R.TH_POH_HOURS.off (BitVec.ofNat 32 (l.getD 8 0))).setRg R.TH_SHOW_HOURS.off (BitVec.ofNat 32 (l.getD 9 0)))

/-- The domains that WATCH leaves off, in the order of R454. -/
def watchOff : List Domain := [.latHi, .latLo, .cistern, .pix, .coreB, .coreA]

/-- The wake sources that PM_WAKE_CFG enables are armed (R450). -/
def State.armWakes (s : State) : State := s.setPower { s.power with wakeArmed := s.rg R.PM_WAKE_CFG_wake_n.base }

/-- After a stop the Tender holds every wake source (R473). -/
def State.holdWakes (s : State) : State := if s.power.stopHold then s.fset R.PM_STATE_wake_held 1 else s

/-- The row of samples that a threshold counts ends. -/
def Cross.rest (c : Cross) : Cross := { c with above := 0, under := 0 }

/-- The thermal logic's clock stops: no sample is next to the one before (R467, R468). -/
def State.thermalRests (s : State) : State :=
  let t := s.thermal
  { s with thermal := { t with warn := t.warn.rest, low := t.low.rest, crit := t.crit.rest, far := [], past := [] } }

/-- The state targeted is reached. What is pending or held is taken afterwards. -/
def State.sleepCore (s : State) : State :=
  let t := s.fget R.PM_STATE_target
  let s1 := (s.fset R.PM_STATE_phase 0).fset R.PM_STATE_state t
  let s2 :=
    if t = pmIdle then s1.pmFinish s1.power.flight stOk pmIdle
    else if t = pmWatch then (s1.powerOffs watchOff).thermalRests.armWakes
    else s1.dropRails.saveHours.armWakes.holdWakes
  s2.setPower { s2.power with flight := none, agreed := [], stopAt := none }

/-! ### Wakes (R450, R455, R460, R473) -/

/-- The device is in WATCH or DORMANT, or on its way there. -/
def State.asleep (s : State) : Bool :=
  decide (pmWatch ≤ s.pmState) || (s.pmPhase ≠ 0 && decide (pmWatch ≤ s.fget R.PM_STATE_target))

/-- Whether a wake source is armed (R450): as PM_WAKE_CFG was on entry to WATCH or DORMANT, and on the way there as it is. -/
def State.wakeOn (s : State) (f : RF) : Bool :=
  if pmWatch ≤ s.pmState then decide (getBits s.power.wakeArmed f.hi f.lo = 1) else s.fbit f

/-- The tallies 0..3 that are armed. -/
def State.wakeTallies (s : State) : Nat :=
  if pmWatch ≤ s.pmState then getBits s.power.wakeArmed 3 0 else s.fget R.PM_WAKE_CFG_tally_wake

/-- In WATCH, or on the way there: where the sources act that act in WATCH only. -/
def State.watchSide (s : State) : Bool :=
  decide (s.pmState = pmWatch) || (s.pmPhase ≠ 0 && decide (s.fget R.PM_STATE_target = pmWatch))

/-- A wake acts: a pending SHOW during a transition or an exit, else an exit (R455). -/
def State.wakeActs (s : State) : State :=
  if s.pmPhase ≠ 0 || s.power.start ≠ 0 then s.setPending pmShow none
  else if pmWatch ≤ s.pmState then s.beginExit
  else s

/-- An armed source fires in a sleep state; EBB and a stop hold it. -/
def State.wake (s : State) (bit : State → State) : State :=
  if s.asleep then
    let s1 := bit s
    if s.ebb || s.power.stopHold then (s1.fset R.PM_STATE_wake_held 1).setPower { s1.power with wakeWaits := true }
    else s1.wakeActs
  else s

/-- The wakes held are released, unless the other of EBB and a stop holds them. -/
def State.releaseWakes (s : State) (byEbb : Bool) : State :=
  if s.power.stopHold then s
  else if s.ebb then s.fset R.PM_STATE_wake_held (b2n s.power.wakeWaits)
  else
    let s1 := (s.fset R.PM_STATE_wake_held 0).setPower { s.power with wakeWaits := false }
    if s.power.wakeWaits then (if byEbb then s1.fset R.PM_WAKE_CAUSE_ebb_held 1 else s1).wakeActs else s1

def execWakeN (s : State) : Host.Outcome State Fault Refusal :=
  .next (if s.wakeOn R.PM_WAKE_CFG_wake_n then s.wake (fun s => s.fset R.PM_WAKE_CAUSE_wake_n 1) else s).settle

/-- TALLY_00..TALLY_03, either edge. -/
def execTallyWake (tally : Fin 4) (s : State) : Host.Outcome State Fault Refusal :=
  .next (if s.wakeTallies / 2 ^ tally.val % 2 = 1 then
    s.wake (fun s => s.fset R.PM_WAKE_CAUSE_tally_wake (s.fget R.PM_WAKE_CAUSE_tally_wake ||| 2 ^ tally.val)) else s).settle

/-- An alarm fires: its `armed` clears and its bit is set. In SHOW and IDLE it raises vector 34; where it acts as a wake source
(`acts`), in a sleep state or on the way there, it wakes the device if it is enabled. -/
def State.alarmFires (s : State) (armed enable bit : RF) (acts : Bool) : State :=
  let s1 := (s.fset armed 0).fset bit 1
  let s2 := if s.pmState < pmWatch then s1.raise 34 else s1
  if acts && s.wakeOn enable then s2.wake (fun s => s) else s2

/-- Tender time has reached the alarm. -/
def State.tenderAlarm (s : State) : State :=
  if s.fbit R.PM_ALARM_TICKS_armed &&
      decide (s.fget R.PM_ALARM_SEC * 32768 + s.fget R.PM_ALARM_TICKS_ticks ≤ s.time.tendTicks) then
    s.alarmFires R.PM_ALARM_TICKS_armed R.PM_WAKE_CFG_alarm R.PM_WAKE_CAUSE_alarm s.asleep
  else s

def execTenderAlarm (s : State) : Host.Outcome State Fault Refusal := .next s.tenderAlarm.settle

/-- The PTP base, LOCKED or in HOLDOVER, has reached the PTP alarm. -/
def State.ptpAlarm (s : State) : State :=
  let t := s.fget R.PM_PTP_ALARM_LO + 2 ^ 32 * s.fget R.PM_PTP_ALARM_HI_sec_hi
  if s.fbit R.PM_PTP_ALARM_HI_armed && s.domOn .net && (s.time.ptp.st = 2 || s.time.ptp.st = 3) &&
      decide (Int.ofNat t ≤ secOf s.time.ptp.t) then
    s.alarmFires R.PM_PTP_ALARM_HI_armed R.PM_WAKE_CFG_ptp_alarm R.PM_WAKE_CAUSE_ptp_alarm s.watchSide
  else s

def execPtpAlarm (s : State) : Host.Outcome State Fault Refusal := .next s.ptpAlarm.settle

/-- A wake source that acts in WATCH only. -/
def State.watchWake (s : State) (enable bit : RF) : State :=
  if s.watchSide && s.wakeOn enable then s.wake (fun s => s.fset bit 1) else s

/-- An address match of the management port is acknowledged, and wakes the device with `smbus` 1. -/
def execSmbusAddressMatch (s : State) : Host.Outcome State Fault Refusal :=
  let s1 := s.emit (.smbus true [])
  .next (if s.wakeOn R.PM_WAKE_CFG_smbus then s1.wake (fun s => s.fset R.PM_WAKE_CAUSE_smbus 1) else s1).settle

/-! ### The rails' commands (R443, R544..R546, R550) -/

/-- VAON reaches its level: a P reset. `pgs` are the power-goods that are already high: with one, every enable stays low until
all four are low. -/
def State.tenderPowerOn (s : State) (pgs : BitVec 4) : State :=
  let s1 := (s.powerOffs mainDomains).tenderRegs.loadHours
  { s1 with
    hourMs := []
    power := { enables := 0, pgs := pgs, start := 1, startAt := s.now, waitRail := true, trained := false, heatRead := false }
    time := { cycles := s1.time.cycles, clock := { tf := [] }, tallyLevel := s1.time.tallyLevel } }

def execTenderPowerOn (pgs : BitVec 4) (s : State) : Host.Outcome State Fault Refusal := .next (s.tenderPowerOn pgs).settle

/-- The four power-goods of a P start with a rail present have fallen. -/
def execPmicPgAllLow (s : State) : Host.Outcome State Fault Refusal :=
  .next (if s.power.waitRail && s.power.pgs ≠ 0 then
    ((s.setPower { s.power with pgs := 0 }).bumpF R.PM_RAIL_FAIL_COUNT).raiseFirst else s).settle

/-- RESET_N is high and the supply has been good for 10 ms. -/
def execRailRestart (s : State) : Host.Outcome State Fault Refusal :=
  .next (if s.power.waitRail && s.power.pgs = 0 then s.raiseFirst else s).settle

/-- The rails are sequenced again, 1 s after a failure. -/
def execRailRetry (s : State) : Host.Outcome State Fault Refusal :=
  .next (if s.power.retry then s.raiseFirst else s).settle

/-- A power-good rises. The last one lets the domains come on, with LOCAL loaded. -/
def State.powerGood (s : State) (i : Nat) : State :=
  if s.power.enables.getLsbD i && !(s.power.pgs.getLsbD i) then
    let s1 := s.setPower { s.power with pgs := s.power.pgs ||| BitVec.ofNat 4 (2 ^ i) }
    if i < 3 then s1.raiseEnable (i + 1) else (s1.setPower { s1.power with lates := 0 }).powerOn allDomains
  else s

def execPmicPowerGood (rail : Fin 4) (s : State) : Host.Outcome State Fault Refusal := .next (s.powerGood rail).settle

/-- A power-good is not high within 8 ms: the enables drop. The third time in a row leaves the device in DORMANT,
which saves the hours and arms the wakes as every entry does (R450, R480). -/
def State.powerLate (s : State) (i : Nat) : State :=
  if s.power.enables.getLsbD i && !(s.power.pgs.getLsbD i) then
    let n := s.power.lates + 1
    let s1 := s.dropRails.bumpF R.PM_RAIL_FAIL_COUNT
    if n < 3 then s1.setPower { s1.power with lates := n, retry := true }
    else
      ((((s1.setPower { s1.power with lates := 0, start := 0, retry := false }).fset R.PM_STATE_rail_fault 1).fset
        R.PM_STATE_state pmDormant).fset R.PM_STATE_target pmDormant).saveHours.armWakes
  else s

def execPowerGoodLate (rail : Fin 4) (s : State) : Host.Outcome State Fault Refusal := .next (s.powerLate rail).settle

/-- A power-good falls while its enable is high. -/
def execPmicPgFall (rail : Fin 4) (s : State) : Host.Outcome State Fault Refusal :=
  .next (if s.power.enables.getLsbD rail && s.power.pgs.getLsbD rail then s.coldReset R.RST_CAUSE_rail 2 1 else s).settle

def execResetN (s : State) : Host.Outcome State Fault Refusal := .next (s.coldReset R.RST_CAUSE_pin 1 0).settle

/-- SENSE_IN falls below `reset_mv`. -/
def execBrownoutReset (s : State) : Host.Outcome State Fault Refusal :=
  .next (if s.fbit R.PM_CTRL_brownout_reset then s.coldReset R.RST_CAUSE_brownout 3 2 else s).settle

/-- DRAM training or PHY retraining ends. A failure is tried once more, and no more (R457, R458); what a second failure does the spec
does not say: the memory stays untrained, and the start does not end (log entry 38). -/
def State.trainingDone (s : State) (good : Bool) : State :=
  if s.power.start ≠ 0 && decide (s.power.tries < 2) && s.domOn .res && !(s.power.trained) && s.power.heatAt = none &&
      (s.power.heatRead || s.power.start = 2 || s.power.start = 3) then
    if good then s.setPower { s.power with trained := true } else s.setPower { s.power with tries := s.power.tries + 1 }
  else s

/-- The 32.768 kHz crystal runs: Tender time counts from 0 (R359). -/
def execTend32kRunning (s : State) : Host.Outcome State Fault Refusal :=
  .next (if s.time.tendRunning then s
    else { s with time := { s.time with tendRunning := true, tendTicks := 0, tendSub := 0 } }).settle

end Sys2Proof.Machine
end

