-- ==== Sys2Proof/Machine/Pair.lean ====
section
/-! DEFINITION. What a tandem pair's link does when it goes down, and the standby's fall from current (R424, R433). The
commands stand in TandemOps. -/

namespace Sys2Proof.Machine

/-- A change of role raises vector 43 (R425). -/
def State.setRole (s : State) (r : Nat) : State := (s.fset R.SIP_STATUS_role r).raise 43

/-- The Siphon link goes down: its keys go, a standby is NOT_CURRENT, and an active reports it. -/
def State.siphonDown (s : State) : State :=
  if s.tandem.link then
    let s1 := { s with
      tandem := { s.tandem with link := false, keyTold := false }
      sluice := { s.sluice with siph := none } }
    if s1.isStandby then s1.notCurrent causeLink
    else if s1.role = roleActive then s1.report 0x16 0
    else s1
  else s

end Sys2Proof.Machine
end

