-- ==== Sys2Proof/Machine/Sluice.lean ====
section
/-! DEFINITION. The Sluice (chapter 17): its keys, its operations, its fuses, random numbers and violations. The writes of
SLC_OP that start an operation stand in Bus. -/

namespace Sys2Proof.Machine

/-! ### Results (R508) -/

def slcOk : Nat := 0x00
def slcDenied : Nat := 0x01
def slcSigBad : Nat := 0x02
def slcTagBad : Nat := 0x03
def slcRange : Nat := 0x04
def slcNoKey : Nat := 0x05
def slcOutputsOn : Nat := 0x06
def slcDrbgFail : Nat := 0x07
def slcNoChallenge : Nat := 0x08
def slcFuseConflict : Nat := 0x09
def slcAborted : Nat := 0x0A
def slcLockedOut : Nat := 0x0B
def slcDmaError : Nat := 0x0C

/-! ### State -/

def State.setSluice (s : State) (c : Sluice) : State := { s with sluice := c }

/-- The lifecycle states and debug levels. -/
def lcFactory : Nat := 0
def lcOwned : Nat := 1
def lcReturned : Nat := 2
def lcVoid : Nat := 3
def State.debugLevel (s : State) : Nat := s.fget R.SLC_STATUS_debug

/-- `n` bytes from the DRBG or a noise source: free values. -/
def State.random (s : State) (n : Nat) : List Byte × State :=
  let (k, s1) := s.fresh
  ((List.range n).map (fun i => Config.random (2 ^ 16 * k + i)), s1)

def State.drbgReady (s : State) : Bool := s.fbit R.SLC_STATUS_drbg_ready

/-- The owner key hash in the fuses, byte 0 first. -/
def State.ownerHash (s : State) : List Byte := leBytes s.fuses.ownerHash.toNat 48

/-- l2 l1 l0 as one byte (R488), from the touched bits (R483). -/
def State.lifeByte (s : State) : Byte :=
  BitVec.ofNat 8 (b2n (lifeBit s.fuses 0) + 2 * b2n (lifeBit s.fuses 1) + 4 * b2n (lifeBit s.fuses 2))

/-! ### Keys (R488) -/

/-- The salt of K_wrap as the fuses stand. DESIGN CHOICE: the fuse shadow follows every burn (log entry 33). -/
def State.fuseSalt (s : State) : List Byte := s.ownerHash ++ [s.lifeByte]

/-- K_wrap as it was derived at the start of PD_SLUICE (R487). -/
def State.wrapKey (s : State) : List Byte :=
  hkdf Config.secretBytes (s.sluice.wrapSalt.getD s.fuseSalt) (ascii "HNK wrap") 32

def flashKey (show_ : List Byte) (id ver : Nat) : List Byte :=
  hkdf show_ (leBytes id 4 ++ leBytes ver 4) (ascii "HNK flash") 32

/-- The keys of the Siphon link for the two sending units. -/
def siphKeys (show_ nonce0 nonce1 : List Byte) : List Byte × List Byte :=
  (hkdf show_ (nonce0 ++ nonce1) (ascii "HNK siphon 0") 32, hkdf show_ (nonce0 ++ nonce1) (ascii "HNK siphon 1") 32)

/-- K_hb, from the lower and the higher identity hash. -/
def hbKey (show_ : List Byte) : List Byte :=
  let own := sha384 Config.identityBytes
  let peer := beBytes Config.peerIdentity.toNat 48
  hkdf show_ (if beNat own ≤ beNat peer then own ++ peer else peer ++ own) (ascii "HNK heartbeat") 32

/-- K_show and every key derived from it are erased; the Siphon link drops (R502, R507). -/
def State.eraseKey (s : State) : State :=
  ((s.setSluice { s.sluice with showKey := none, siph := none }).fset R.SLC_STATUS_show_key_loaded 0).siphonDown

/-- The level closes. -/
def State.closeDebug (s : State) : State := s.fset R.SLC_STATUS_debug 0

/-! ### The boot flash -/

/-- The size of a sector. -/
def sectorSize : Nat := 65536

/-- A byte of the boot flash. A sector whose erase was cut off holds what the erase left: free values. -/
def State.flashByte (s : State) (a : Nat) : Byte :=
  if s.store.cut.contains (a / sectorSize) then Config.random (2 ^ 64 + a)
  else mget Config.flashByte s.store.flash a

def State.flashRead (s : State) (a n : Nat) : List Byte := (List.range n).map (fun i => s.flashByte (a + i))

/-- Write bytes of the boot flash. -/
def flashPut (m : List (Nat × Byte)) (a : Nat) : List Byte → List (Nat × Byte)
  | [] => m
  | b :: t => flashPut (mset Config.flashByte m a b) (a + 1) t

def State.flashWrite (s : State) (a : Nat) (l : List Byte) : State :=
  ({ s with store := { s.store with flash := flashPut s.store.flash a l } }).emit (.flash (a / sectorSize) l)

/-! ### Burns (R485) -/

/-- What a counter is to hold once word `w` of its thermometer has been burned towards `v`. -/
def rollStep (w v : Nat) : Nat := min v (32 * (w + 1))

def State.rollback (s : State) (k : Nat) : Nat := mget nat0 s.fuses.rollback k

def State.ownerWord (s : State) (i : Nat) : Word := BitVec.ofNat 32 (s.fuses.ownerHash.toNat / 2 ^ (32 * i))

/-- Whether a burn's bits already stand as asked. -/
def State.burnStands (s : State) (b : Burn) : Bool :=
  match b with
  | .owner i v => s.ownerWord i = v
  | .life i r => s.fuses.life.getLsbD (3 * i + r)
  | .roll k w v => decide (rollStep w v ≤ s.rollback k)
  | .flash _ _ => false

/-- Whether a burn needs a 0 where a bit is already burned. -/
def State.burnConflict (s : State) (b : Burn) : Bool :=
  match b with
  | .owner i v => decide (s.ownerWord i &&& ~~~v ≠ 0)
  | _ => false

/-- The store kinds of a burn. DESIGN CHOICE: a package that goes to the boot flash takes 4 KiB erases and page programs (log entry 37). -/
def burnKinds (b : Burn) : List Nat :=
  match b with
  | .flash _ _ => [1, 0]
  | _ => [3]

/-- The keys derived at this start stay as they are when a burn changes their fuses. -/
def State.holdSalt (s : State) : State :=
  s.setSluice { s.sluice with wrapSalt := some (s.sluice.wrapSalt.getD s.fuseSalt) }

def State.burn (s : State) (b : Burn) : State :=
  match b with
  | .owner i v => { s.holdSalt with fuses := { s.fuses with
      ownerHash := s.fuses.ownerHash ||| BitVec.ofNat 384 (v.toNat * 2 ^ (32 * i)) } }
  | .life i r => { s.holdSalt with fuses := { s.fuses with life := s.fuses.life ||| BitVec.ofNat 9 (2 ^ (3 * i + r)) } }
  | .roll k w v => { s with fuses := { s.fuses with rollback := mset nat0 s.fuses.rollback k (rollStep w v) } }
  | .flash a l => s.flashWrite a l

/-- The burns of an operation, in order: one that is held in EBB or refused by the hold-up check waits with those after it;
a conflict ends the operation. -/
def State.runBurns (s : State) : List Burn → State
  | [] => (s.setPower { s.power with stores := s.power.stores.filter (· ≠ 0) }).setSluice { s.sluice with burns := [] }
  | b :: t =>
    if s.burnStands b then s.runBurns t
    else if s.burnConflict b then s.setSluice { s.sluice with burns := [], result := slcFuseConflict }
    else if s.ebb then
      let s1 := s.setSluice { s.sluice with burns := b :: t }
      if s1.power.stores.contains 0 then s1 else (s1.queueStore 0).bumpF R.PM_STORE_DEFER_COUNT
    else
      let (s1, ok) := s.checkKinds (burnKinds b)
      if ok then (s1.burn b).runBurns t
      else ((s1.setSluice { s1.sluice with burns := b :: t }).queueStore 0).bumpF R.PM_HOLDUP_FAIL_COUNT

/-- The three replicas of a state bit. -/
def lifeBurns (i : Nat) : List Burn := [.life i 0, .life i 1, .life i 2]

/-- A transition cut off after its state burn began is finished at a start (the rule for a power failure during a burn), before a key
is derived. -/
def State.finishLife (s : State) : State :=
  let l := (List.range 3).flatMap (fun i => if lifeBit s.fuses i then lifeBurns i else [])
  let s1 := s.runBurns l
  s1.setSluice { s1.sluice with wrapSalt := none }

/-! ### Signatures (R491, R501) -/

/-- A message of R491 for this device. -/
def slcMessage (tag : String) (fields : List Byte) : List Byte := ascii tag ++ sha384 Config.identityBytes ++ fields

/-- A boot or update image's message: one image serves every device. -/
def imageMessage (fields : List Byte) : List Byte := ascii "HNKIMAGE" ++ List.replicate 48 0 ++ fields

def State.ownerKey (s : State) (key : List Byte) : Bool := decide (sha384 key = s.ownerHash)
def vendorKey (key : List Byte) : Bool := decide (sha384 key = beBytes Config.vendorHash.toNat 48)

/-- The challenge as SLC_CHALLENGE shows it. -/
def State.challengeBytes (s : State) : List Byte :=
  (List.range 12).flatMap (fun i => leBytes (s.rg (R.SLC_CHALLENGE.off i)).toNat 4)

/-- 60 s, and its validity. -/
def challengeLife : Nat := 60000000000
def State.challengeValid (s : State) : Bool := s.sluice.challenge && decide (nsSince s s.sluice.challengeAt < challengeLife)

/-- The failed signatures without a success after which CHALLENGE is locked out (R501). -/
def sigLimit : Nat := 8

/-- A signature has been checked: counted if it failed. A success ends the row of failures, unless they have locked CHALLENGE out. -/
def State.sigChecked (s : State) (ok : Bool) : State :=
  if ok then s.setPower { s.power with sigFails := if sigLimit ≤ s.power.sigFails then s.power.sigFails else 0 }
  else (s.setPower { s.power with sigFails := s.power.sigFails + 1 }).bumpF R.SLC_AUTH_FAIL_COUNT

/-- An operation that checks a signature on the challenge: it takes the operand block, uses the challenge up, and goes on with
`f` when the signature passes. -/
def State.withSig (s : State) (block : Option (List Byte)) (tag : String) (auth : List Byte → Bool) (f : State → State × Nat) :
    State × Nat :=
  if !(s.challengeValid) then (s, slcNoChallenge)
  else
    match block with
    | none => (s, slcDmaError)
    | some b =>
      let key := b.take 96
      let ok := auth key && ecdsaGood key ((b.drop 96).take 96) (slcMessage tag s.challengeBytes)
      let s1 := (s.setSluice { s.sluice with challenge := false }).sigChecked ok
      if ok then f s1 else (s1, slcSigBad)

/-! ### The operations (R484, R490..R496, R501..R507): each answers the state and the result it will end with -/

def State.opClaim (s : State) (block : Option (List Byte)) : State × Nat :=
  if s.lifecycle ≠ lcFactory then (s, slcDenied)
  else
    match block with
    | none => (s, slcDmaError)
    | some b =>
      let words := (List.range 12).map (fun i => Burn.owner i (BitVec.ofNat 32 (leNat ((b.drop (4 * i)).take 4))))
      let s1 := s.closeDebug
      (s1.setSluice { s1.sluice with burns := words ++ lifeBurns 0 }, slcOk)

def State.opReturn (s : State) (block : Option (List Byte)) : State × Nat :=
  if s.lifecycle ≠ lcOwned then (s, slcDenied)
  else s.withSig block "HNKRETRN" s.ownerKey (fun s =>
    let s1 := s.closeDebug.eraseKey
    (s1.setSluice { s1.sluice with burns := lifeBurns 1 }, slcOk))

/-- The state bit of VOID is l2: with it, whatever the others hold, the pattern is VOID's. -/
def State.toVoid (s : State) : State × Nat :=
  let s1 := s.closeDebug.eraseKey
  (s1.setSluice { s1.sluice with burns := lifeBurns 2 }, slcOk)

def State.opVoid (s : State) (block : Option (List Byte)) : State × Nat :=
  if s.lifecycle = lcFactory then s.toVoid
  else s.withSig block "HNKVOID_"
    (fun k => s.ownerKey k || (s.lifecycle = lcReturned && vendorKey k)) State.toVoid

def State.setChallenge (s : State) (b : List Byte) : State :=
  (List.range 12).foldl (fun s i =>
    s.setRg (R.SLC_CHALLENGE.off i) (BitVec.ofNat 32 (leNat ((b.drop (4 * i)).take 4)))) s

def State.opChallenge (s : State) : State × Nat :=
  if sigLimit ≤ s.power.sigFails then (s, slcLockedOut)
  else if !(s.drbgReady) then (s, slcDrbgFail)
  else
    let (b, s1) := s.random 48
    ((s1.setChallenge b).setSluice { s1.sluice with challenge := true, challengeAt := s1.now }, slcOk)

/-- Whether every output is disabled (R502). -/
def State.outputsOff (s : State) : Bool :=
  !(s.fbit R.FL_CTRL_output_enable) && !(s.fbit R.RAS_CTRL_raster_enable) &&
    (List.range 4).all (fun m => s.live.txOn m = [])

/-- The show regions (R496): the staging area, and the eight ranges, as base and length. -/
def State.showRegions (s : State) : List (Nat × Nat) :=
  (stagingBase, stagingSize) :: (List.range 8).map (fun i =>
    (s.fget R.SLC_SHOW_REGION_BASE_base_64k i * 65536, s.fget R.SLC_SHOW_REGION_SIZE_size_64k i * 65536))

/-- Whether a range lies in the show regions: `n` bounds the regions it runs through. -/
def inRegions (l : List (Nat × Nat)) : Nat → Nat → Nat → Bool
  | 0, _, len => decide (len = 0)
  | n + 1, a, len =>
    if len = 0 then true
    else
      match l.find? (fun r => decide (r.1 ≤ a ∧ a < r.1 + r.2)) with
      | some r => inRegions l n (r.1 + r.2) (len - (r.1 + r.2 - a))
      | none => false

/-- Write 0 over every show region: a byte that is 0 is not listed, and staged writes lie in the staging area. -/
def State.clearRegions (s : State) : State :=
  let s1 := s.setReservoir (s.mem.reservoir.filter (fun e =>
    !(s.showRegions.any (fun r => decide (r.1 ≤ e.1 ∧ e.1 < r.1 + r.2)))))
  { s1 with rings := { s1.rings with
      staged := s1.rings.staged.map (fun w => { w with bytes := w.bytes.map (fun _ => 0) }) } }

/-- DEBUG_OPEN with `arg` 1 OWNER, 2 VENDOR (R501, R502, R505). -/
def State.opDebugOpen (s : State) (arg : Nat) (block : Option (List Byte)) : State × Nat :=
  if arg = 1 then
    if s.lifecycle = lcFactory then (s.fset R.SLC_STATUS_debug 1, slcOk)
    else if s.lifecycle ≠ lcOwned then (s, slcDenied)
    else if !(s.outputsOff) then (s, slcOutputsOn)
    else s.withSig block "HNKDBGOW" s.ownerKey (fun s => (s.eraseKey.clearRegions.fset R.SLC_STATUS_debug 1, slcOk))
  else if arg = 2 then
    if s.lifecycle ≠ lcReturned then (s, slcDenied)
    else s.withSig block "HNKDBGVN" vendorKey (fun s => (s.fset R.SLC_STATUS_debug 2, slcOk))
  else (s, slcRange)

/-- OWNED with the level CLOSED. -/
def State.ownedClosed (s : State) : Bool := s.lifecycle = lcOwned && s.debugLevel = 0

/-- KEY_INSTALL: K_show is wrapped into a blob that goes back to the operand block (R490). -/
def State.opKeyInstall (s : State) (fails : List (Nat × Nat)) (space addr : Nat) (block : Option (List Byte)) : State × Nat :=
  if !(s.ownedClosed) then (s, slcDenied)
  else
    match block with
    | none => (s, slcDmaError)
    | some b =>
      let show_ := b.take 32
      let key := (b.drop 32).take 96
      let ok := s.ownerKey key && ecdsaGood key ((b.drop 128).take 96) (slcMessage "HNKSHOWK" (sha384 show_))
      let s1 := s.sigChecked ok
      if !ok then (s1, slcSigBad)
      else if !(s1.drbgReady) then (s1, slcDrbgFail)
      else
        let (nonce, s2) := s1.random 12
        let (c, tag) := gcmSeal s2.wrapKey nonce [] show_
        match s2.dmaWrite fails space (addr + 256) (nonce ++ c ++ tag ++ [0, 0, 0, 0]) with
        | some s3 => (s3, slcOk)
        | none => (s2, slcDmaError)

/-- A blob is unwrapped into the key store. -/
def State.loadBlob (s : State) (b : List Byte) : State × Nat :=
  match gcmOpen s.wrapKey (b.take 12) [] ((b.drop 12).take 32) ((b.drop 44).take 16) with
  | some k => ((s.setSluice { s.sluice with showKey := some k }).fset R.SLC_STATUS_show_key_loaded 1, slcOk)
  | none => (s, slcTagBad)

def State.opKeyLoad (s : State) (block : Option (List Byte)) : State × Nat :=
  if !(s.ownedClosed) then (s, slcDenied)
  else
    match block with
    | none => (s, slcDmaError)
    | some b => s.loadBlob b

/-! ### Show packages (R495, R496) -/

def chunkSize : Nat := 65536

/-- A package's header: the spec gives its fields and not their places. -/
def packageHeader (id ver len : Nat) : List Byte :=
  leBytes Config.packageMagic.toNat 4 ++ leBytes id 4 ++ leBytes ver 4 ++ leBytes len 4 ++
    leBytes (cdiv len chunkSize) 4 ++ List.replicate 44 0

def chunkNonce (id ver j : Nat) : List Byte := leBytes id 4 ++ leBytes ver 4 ++ leBytes j 4

/-- Read host memory, the Reservoir or the boot flash. -/
def State.slcRead (s : State) (host : HostView) (space a n : Nat) : Option (List Byte) :=
  if space = 2 then some (s.flashRead a n) else s.dmaRead host space a n

/-- The sealed chunks of a text, from chunk `j`. -/
def sealChunks (key hdr : List Byte) (id ver : Nat) : Nat → List (List Byte) → List Byte
  | _, [] => []
  | j, c :: t =>
    let (x, tag) := gcmSeal key (chunkNonce id ver j) hdr c
    x ++ tag ++ sealChunks key hdr id ver (j + 1) t

/-- Open `n` chunks from chunk `j`, writing each as its tag passes. -/
def State.openChunks (s : State) (host : HostView) (key hdr : List Byte) (space src dst id ver len : Nat) : Nat → Nat → State × Nat
  | 0, _ => (s, slcOk)
  | n + 1, j =>
    let m := min chunkSize (len - chunkSize * j)
    match s.slcRead host space (src + 64 + (chunkSize + 16) * j) (m + 16) with
    | none => (s, slcDmaError)
    | some b =>
      match gcmOpen key (chunkNonce id ver j) hdr (b.take m) (b.drop m) with
      | none => (s.bumpF R.SLC_DECRYPT_FAIL_COUNT, slcTagBad)
      | some p =>
        match s.dmaWrite host.fails 1 (dst + chunkSize * j) p with
        | none => (s, slcDmaError)
        | some s1 => s1.openChunks host key hdr space src dst id ver len n (j + 1)

/-- ENCRYPT and DECRYPT. -/
def State.opPackage (s : State) (sealing : Bool) (host : HostView) (block : Option (List Byte)) : State × Nat :=
  if s.lifecycle ≠ lcOwned then (s, slcDenied)
  else
    match (if s.debugLevel = 0 then s.sluice.showKey else none) with
    | none => (s, slcNoKey)
    | some k =>
      match block with
      | none => (s, slcDmaError)
      | some b =>
        let src := leNat (b.take 8)
        let dst := leNat ((b.drop 8).take 8)
        let ss := ((b.drop 16).headD 0).toNat
        let ds := ((b.drop 17).headD 0).toNat
        let id := leNat ((b.drop 20).take 4)
        let ver := leNat ((b.drop 24).take 4)
        let len := leNat ((b.drop 28).take 4)
        let key := flashKey k id ver
        if 2 < ss ∨ 2 < ds then (s, slcRange)
        else if sealing then
          match s.slcRead host ss src len with
          | none => (s, slcDmaError)
          | some p =>
            let hdr := packageHeader id ver len
            let out := hdr ++ sealChunks key hdr id ver 0 (chunksOf chunkSize (cdiv len chunkSize) p)
            if ds = 2 then (s.setSluice { s.sluice with burns := [.flash dst out] }, slcOk)
            else
              match s.dmaWrite host.fails ds dst out with
              | some s1 => (s1, slcOk)
              | none => (s, slcDmaError)
        else if ds ≠ 1 || !(inRegions s.showRegions 9 dst len) then (s, slcRange)
        else
          match s.slcRead host ss src 64 with
          | none => (s, slcDmaError)
          | some hdr => s.openChunks host key hdr ss src dst id ver len (cdiv len chunkSize) 0

/-! ### ATTEST and ADVANCE_ROLLBACK -/

def State.measure (s : State) : List Byte :=
  (List.range 12).flatMap (fun i => leBytes (s.rg (R.SLC_MEASURE.off i)).toNat 4)

def State.opAttest (s : State) (fails : List (Nat × Nat)) (space addr : Nat) (block : Option (List Byte)) : State × Nat :=
  match block with
  | none => (s, slcDmaError)
  | some b =>
    if !(s.drbgReady) then (s, slcDrbgFail)
    else
      let (r, s1) := s.random 56
      let m := slcMessage "HNKATTST" (s1.measure ++ [Config.attestByte s1.lifecycle s1.debugLevel] ++ b.take 48)
      let sig := ecdsaSign Config.identityD (beNat r % (p384N - 1) + 1) m
      match s1.dmaWrite fails space (addr + 64) sig with
      | some s2 => (s2, slcOk)
      | none => (s1, slcDmaError)

def State.opAdvance (s : State) (arg : Nat) : State × Nat :=
  let k := bits arg 9 8
  let v := bits arg 6 0
  if (s.lifecycle ≠ lcFactory && s.lifecycle ≠ lcOwned) || s.debugLevel ≠ 0 then (s, slcDenied)
  else if 64 < v ∨ (k = 0 ∧ s.power.svn < v) then (s, slcRange)
  else (s.setSluice { s.sluice with burns := [.roll k 0 v, .roll k 1 v] }, slcOk)

/-! ### Starting and ending an operation (R486, R507) -/

/-- The operand block's space and address, and its bytes. -/
def State.slcSpace (s : State) : Nat := s.pair R.SLC_OP_ADDR_LO % 2
def State.slcAddr (s : State) : Nat := s.pair R.SLC_OP_ADDR_LO / 2 * 2
def State.slcBlock (s : State) (host : HostView) : Option (List Byte) := s.dmaRead host s.slcSpace s.slcAddr 512

/-- What an operation does and ends with. In VOID none is answered, and a code without an operation is denied. -/
def State.slcRun (s : State) (host : HostView) (op arg : Nat) : State × Nat :=
  let block := s.slcBlock host
  if s.lifecycle = lcVoid then (s, slcDenied)
  else if op = 0x01 then s.opClaim block
  else if op = 0x02 then s.opReturn block
  else if op = 0x03 then s.opVoid block
  else if op = 0x10 then s.opChallenge
  else if op = 0x11 then s.opDebugOpen arg block
  else if op = 0x12 then (s.closeDebug, slcOk)
  else if op = 0x20 then s.opKeyInstall host.fails s.slcSpace s.slcAddr block
  else if op = 0x21 then s.opKeyLoad block
  else if op = 0x22 then (s.eraseKey, slcOk)
  else if op = 0x30 then s.opPackage true host block
  else if op = 0x31 then s.opPackage false host block
  else if op = 0x40 then s.opAttest host.fails s.slcSpace s.slcAddr block
  else if op = 0x50 then s.opAdvance arg
  else (s, slcDenied)

/-- A write of SLC_OP. -/
def State.slcOpWrite (s : State) (req : Requester) (host : HostView) (v : Word) : State :=
  if s.fbit R.SLC_STATUS_busy then s.accessErr true req R.SLC_OP.off
  else
    let op := v.toNat / 2 ^ 24
    let s1 := (s.fset R.SLC_STATUS_busy 1).setSluice { s.sluice with op := op, burns := [] }
    let (s2, r) := s1.slcRun host op (v.toNat % 2 ^ 16)
    let s3 := s2.setSluice { s2.sluice with result := r }
    s3.runBurns s3.sluice.burns

/-- An operation ends with a result (R71, R507). -/
def State.slcEnd (s : State) (r : Nat) : State :=
  (((((s.fset R.SLC_STATUS_busy 0).fset R.SLC_STATUS_result r).setSluice { s.sluice with op := 0, burns := [] }).raise
    35).event blkSlc (Config.eventCode blkSlc r))

/-- The operation in progress ends, once its last burn has. -/
def State.slcComplete (s : State) : State :=
  if s.fbit R.SLC_STATUS_busy && s.sluice.burns = [] then s.slcEnd s.sluice.result else s

def execSlcOpComplete (s : State) : Host.Outcome State Fault Refusal := .next s.slcComplete.settle

/-- The commit phase of DORMANT ends an ENCRYPT or a DECRYPT (R505). -/
def State.slcAbort (s : State) : State :=
  if s.fbit R.SLC_STATUS_busy && (s.sluice.op = 0x30 || s.sluice.op = 0x31) then s.slcEnd slcAborted else s

/-- 60 s have passed without a use of the challenge. -/
def execChallengeExpiry (s : State) : Host.Outcome State Fault Refusal :=
  .next (if s.sluice.challenge && decide (challengeLife ≤ nsSince s s.sluice.challengeAt) then
    s.setSluice { s.sluice with challenge := false } else s).settle

/-! ### The entropy source (R499) -/

def execEntropyFailure (s : State) : Host.Outcome State Fault Refusal :=
  .next (if s.domOn .sluice && s.drbgReady then (s.fset R.SLC_STATUS_drbg_ready 0).report 0x20 0 else s).settle

/-- The start-up tests are repeated. -/
def execEntropyRetest (good : Bool) (s : State) : Host.Outcome State Fault Refusal :=
  .next (if s.domOn .sluice && !(s.drbgReady) && good then s.fset R.SLC_STATUS_drbg_ready 1 else s).settle

/-- A read of SLC_RANDOM: a fresh word, or 0. -/
def State.slcRandom (s : State) : Nat × State :=
  if s.drbgReady then
    let (b, s1) := s.random 4
    (leNat b, s1)
  else (0, s)

/-! ### Violations (R506) -/

/-- The cause: 1 a glitch, 2 the key store, 3 a fuse access. -/
def State.violation (s : State) (cause : Nat) : State :=
  let s1 := ((s.bumpF R.SLC_VIOLATION_COUNT).fset R.SLC_LAST_VIOLATION_cause cause).fset R.SLC_LAST_VIOLATION_sec
    (s.tendSec % 2 ^ 28)
  let s2 := s1.setPower { s1.power with sResets := s1.power.sResets + 1 }
  s2.sluiceReset

def execSluiceViolation (cause : Fin 3) (s : State) : Host.Outcome State Fault Refusal :=
  .next (s.violation (cause.val + 1)).settle

end Sys2Proof.Machine
end

