-- ==== Sys2Proof/Machine/Live.lean ====
section
/-! DEFINITION. Live service (chapter 18): reaches in service, image slots, updates, the boot flash and row repair. -/

namespace Sys2Proof.Machine

def State.setLive (s : State) (v : Live) : State := { s with live_ := v }

/-! ### Reaches in service (R511) -/

/-- A reach enters or leaves service: its bit, and an event. -/
def State.reachMark (s : State) (f : RF) (i : Nat) (on : Bool) (code : Nat) : State :=
  let u := s.fget f
  (s.fset f (u - u / 2 ^ i % 2 * 2 ^ i + b2n on * 2 ^ i)).eventOf blkUpd code

/-! ### Core clusters (R112, R114, R518) -/

def clusterDomain (c : Nat) : Domain := if c = 0 then .coreA else .coreB

/-- A cluster enters service: no new dispatch, and its ready lists join the other cluster's. DESIGN CHOICE: a task that moves so
keeps the age that it has (log entry 82). -/
def State.clusterEnter (s : State) (c : Nat) : State :=
  let s1 := (List.range 8).foldl (fun s p =>
    (s.setReadyList (1 - c) p (s.readyList (1 - c) p ++ s.readyList c p)).setReadyList c p []) s
  { s1 with ditch := { s1.ditch with draining := mset bool0 s1.ditch.draining c true } }

/-- The cluster leaves service: tasks with its hint join its lists again, and its cores' last families are forgotten. -/
def State.clusterLeave (s : State) (c : Nat) : State :=
  let s1 := (List.range 32).foldl (fun s n =>
    let k := 32 * c + n
    s.setCore k { s.core k with lastFamily := none }) s
  let s2 := { s1 with ditch := { s1.ditch with draining := mset bool0 s1.ditch.draining c false } }
  s2.reachMark R.UPD_REACH_STATUS_clusters c false (9 + 2 * c)

/-- A byte of an image: in a slot of the Reservoir, or in the boot flash. -/
def State.slotAddr (s : State) (k : Nat) : Nat := s.fget R.UPD_SLOT_BASE_base_64k k * 65536
def State.slotImage (s : State) (k n : Nat) : List Byte := memRead s.mem.reservoir (s.slotAddr k) n

/-- The size of an image slot and of an image's header. -/
def slotSize : Nat := 33554432
def headerSize : Nat := 4096

/-- A little-endian field of a header. -/
def hNum (h : List Byte) (a n : Nat) : Nat := leNat ((h.drop a).take n)

/-- The segments of an image: kind, body offset, length. -/
def segments (h : List Byte) : List (Nat × Nat × Nat) :=
  (List.range (hNum h 21 1)).map (fun i => (hNum h (128 + 16 * i) 4, hNum h (132 + 16 * i) 4, hNum h (136 + 16 * i) 4))

/-- The bytes of the first segment of a kind. -/
def segBytes (img : List Byte) (kind : Nat) : List Byte :=
  match (segments img).find? (fun g => g.1 == kind) with
  | some g => (img.drop (headerSize + g.2.1)).take g.2.2
  | none => []

/-- The loader writes an image's cue code into every instruction scratchpad of a cluster. -/
def State.loadCode (s : State) (c : Nat) (img : List Byte) : State :=
  let code := segBytes img 1
  { s with mem := { s.mem with
      pads := (List.range 32).foldl (fun m n => memWrite m ((32 * c + n) * 2 ^ 21) code) s.mem.pads } }

/-- A cluster is cycled, loaded and released. -/
def State.switchCluster (s : State) (c : Nat) (img : List Byte) : State :=
  let d := clusterDomain c
  let s1 := (((s.coreRunWrite c 0).powerOff d).powerOn [d]).loadCode c img
  s1.coreRunWrite c 0xFFFFFFFF

/-- The bytes of the image that the update in progress installs. -/
def State.instImage (s : State) : List Byte := s.slotImage (s.fget R.UPD_STATUS_slot) s.live_.size

/-- The SERVICE_REACH that waits for its cluster completes. -/
def State.reachDone (s : State) : State :=
  match s.live_.svcFlight.bind (fun id => s.flight id) with
  | some f => (s.setLive { s.live_ with svcFlight := none }).finish f stOk 0
  | none => s

/-- The loader switches a cluster that a handover drains. -/
def State.handSwitch (s : State) (c : Nat) : State :=
  if s.live_.hand = 2 ∧ s.fget R.UPD_STATUS_cluster = c then
    let s1 := s.switchCluster c s.instImage
    s1.setLive { s1.live_ with hand := 3 }
  else s

/-- A cluster whose last task has retired reports itself in service: the SERVICE_REACH that asked completes, or the loader
switches it. -/
def State.clusterReport (s : State) (c : Nat) : State :=
  if mget bool0 s.ditch.draining c && s.clusterIdle c && !(s.inService scCluster c) then
    ((s.reachMark R.UPD_REACH_STATUS_clusters c true (8 + 2 * c)).reachDone).handSwitch c
  else s

/-- Both clusters' reports, after a command that may have retired a task. -/
def State.clusterReports (s : State) : State := (s.clusterReport 0).clusterReport 1

/-- Whether a cluster is in service, on its way there, or asked into service by a descriptor that has been fetched (R33). -/
def State.clusterTaken (s : State) : Bool :=
  reachAsked s.fetched scCluster (fun _ => true) ||
  s.fget R.UPD_REACH_STATUS_clusters ≠ 0 || (List.range 2).any (fun c => mget bool0 s.ditch.draining c) || s.live_.hand ≠ 0 ||
    s.live_.svcFlight.isSome

/-! ### MACs (R514) -/

/-- A MAC enters service: its buffers and its frames go back, and its queues are emptied. -/
def State.macEnter (s : State) (m : Nat) : State :=
  let s1 := ((s.reachMark R.UPD_REACH_STATUS_macs m true (16 + 2 * m)).fset R.NET_MAC_STATUS_in_service 1 m)
  let s2 := (s1.rings.flight.filter (fun f => dOpcode f.words = 0x08 && aInst f.words = m)).foldl
    (fun s f => s.finish f stSuperseded 0) s1
  let s3 := (s2.rings.flight.filter (fun f => dOpcode f.words = 0x09 && aInst f.words = m)).foldl
    (fun s f => s.finish f stInService 0) s2
  let s4 := (List.range 8).foldl (fun s c => s.rxFree m c (s.rxFill m c)) s3
  (((s4.setMac m { s4.mac m with rx := [], txq := [] }).fset R.NET_MAC_STATUS_paused 0 m).fset R.NET_MAC_STATUS_pausing 0 m).weirs m

/-- A MAC leaves service at its target input cut. -/
def State.macLeave (s : State) (m : Nat) : State :=
  (s.reachMark R.UPD_REACH_STATUS_macs m false (17 + 2 * m)).fset R.NET_MAC_STATUS_in_service 0 m

/-- The end of a MAC's service completes once `enable` is 1 and the link is up, or at once with `enable` 0. -/
def State.macEnds (s : State) : State :=
  s.live_.netEnds.foldl (fun s e =>
    if !(s.fbit R.NET_MAC_CFG_enable e.1) || s.fbit R.NET_MAC_STATUS_link e.1 then
      let s1 := s.setLive { s.live_ with netEnds := s.live_.netEnds.filter (· ≠ e) }
      match s1.flight e.2 with
      | some f => s1.finish f stOk 0
      | none => s1
    else s) s

/-! ### Images (R515, R516) -/

/-- Whether every byte of a range is 0. -/
def zeros (h : List Byte) (a b : Nat) : Bool := ((h.drop a).take (b - a)).all (fun x => decide (x = 0))

/-- A well-formed header. -/
def headerGood (h : List Byte) : Bool :=
  let body := hNum h 16 4
  let n := hNum h 21 1
  decide (h.take 8 = ascii "HNKIMAGE") && decide (hNum h 8 4 ≤ 64) && decide (body ≤ slotSize - headerSize) &&
    decide (hNum h 20 1 < 2) && decide (1 ≤ n ∧ n ≤ 32) && zeros h 22 24 && zeros h 72 128 && zeros h 640 3584 &&
    zeros h 3776 4096 && zeros h (128 + 16 * n) 640 &&
    (List.range n).all (fun i =>
      let k := hNum h (128 + 16 * i) 4
      let len := hNum h (136 + 16 * i) 4
      decide ((k = 1 ∧ len ≤ 65536) ∨ k = 2) && decide (hNum h (132 + 16 * i) 4 + len ≤ body) &&
        hNum h (140 + 16 * i) 4 = 0)

/-- Whether a signer's key is the one that R483 names for the lifecycle. -/
def State.imageKey (s : State) (key : List Byte) : Bool :=
  if s.lifecycle = lcOwned then s.ownerKey key
  else if s.lifecycle = lcVoid then false
  else vendorKey key

/-- What is wrong with an image, in the codes of UPD_BOOT_STATUS: 0 nothing, 1 HASH, 2 SIGNATURE, 3 ROLLBACK, 4 HEADER. -/
def State.imageBad (s : State) (img : List Byte) : Nat :=
  let key := (img.drop 3584).take 96
  if !(headerGood (img.take headerSize)) then 4
  else if !(s.imageKey key && ecdsaGood key ((img.drop 3680).take 96) (imageMessage (sha384 (img.take 3584)))) then 2
  else if sha384 (img.drop headerSize) ≠ (img.drop 24).take 48 then 1
  else if hNum img 8 4 < s.rollback 0 then 3
  else 0

/-- The length of an image, from its header. -/
def imageLength (h : List Byte) : Nat := headerSize + min (hNum h 16 4) (slotSize - headerSize)

/-- The completion status of an image that fails. -/
def imageStatus (bad : Nat) : Nat := if bad = 4 then stBadField else if bad = 3 then stRollback else stSigBad

/-! ### The flash write (R518, R519) -/

def State.updState (s : State) : Nat := s.fget R.UPD_STATUS_state
def updIdle : Nat := 0
def updVerifying : Nat := 1
def updHandover : Nat := 2
def updWriting : Nat := 3
def updFailed : Nat := 4

/-- The update ends, and its INSTALL completes. -/
def State.updEnd (s : State) (st status result : Nat) : State :=
  let s1 := ((s.fset R.UPD_STATUS_state st).fset R.UPD_STATUS_sectors_left 0)
  let s2 := s1.setLive { s1.live_ with inst := none, hand := 0, running := false, pages := false }
  match s.live_.inst.bind (fun id => s2.flight id) with
  | some f => s2.finish f status result
  | none => s2

/-- The bytes of the image in a sector. -/
def sectorImage (img : List Byte) (k : Nat) : List Byte := (img.drop (sectorSize * k)).take sectorSize

/-- The first sector from `k` on, of `n`, that does not hold the image's bytes. -/
def State.nextSector (s : State) (img : List Byte) : Nat → Nat → Option Nat
  | 0, _ => none
  | n + 1, k =>
    if s.flashRead (sectorSize * k) (sectorImage img k).length = sectorImage img k then s.nextSector img n (k + 1)
    else some k

/-- The erase of the sector in hand is asked for. -/
def State.eraseSector (s : State) : State := s.askStore 1 (fun s => s.setLive { s.live_ with running := true })

/-- The pages of the sector in hand are asked for, once its erase has ended (R519). -/
def State.askPages (s : State) : State := s.askStore 3 (fun s => s.setLive { s.live_ with pages := true })

/-- Go on with the sectors from `k`: those that hold the image's bytes are skipped; after the last the INSTALL completes. -/
def State.writeFrom (s : State) (k : Nat) : State :=
  let img := s.instImage
  let n := cdiv img.length sectorSize
  match s.nextSector img (n - k) k with
  | some j =>
    ((s.setLive { s.live_ with sector := j, again := false, running := false, pages := false }).fset R.UPD_STATUS_sectors_left (n - j)).eraseSector
  | none => (s.updEnd updIdle stOk s.live_.written).raise 44

/-- The flash write begins. A flash without a 64 KiB erase type is not written. -/
def State.writeStart (s : State) : State :=
  let s1 := s.fset R.UPD_STATUS_state updWriting
  if getBits Config.flashInfo 22 22 = 1 then (s1.setLive { s1.live_ with hand := 0, written := 0 }).writeFrom 0
  else s1.updEnd updIdle stDmaError 0

/-- A sector has been written and read back. A mismatch is written once more; a second one stops the update. What a sector
holds that does not read back as written is not known: it counts as cut off. -/
def State.sectorWritten (s : State) (good : Bool) : State :=
    let v := s.live_
    let k := v.sector
    let img := sectorImage s.instImage k
    let s1 := s.flashWrite (sectorSize * k) (img ++ List.replicate (sectorSize - img.length) 0xFF)
    if good then
      let s2 := { s1 with
        store := { s1.store with cut := s1.store.cut.filter (· ≠ k) }
        live_ := { v with written := v.written + img.length, running := false, pages := false } }
      s2.writeFrom (k + 1)
    else
      let s2 := { s1 with store := { s1.store with cut := k :: s1.store.cut.filter (· ≠ k) } }
      if v.again then (s2.updEnd updFailed stDmaError 0).report 0x21 k
      else ((s2.setLive { v with again := true, running := false, pages := false }).bumpF R.UPD_FLASH_RETRY_COUNT).eraseSector

/-- The erase of a sector has ended, and the sector is programmed and read back as soon as its pages pass their check; until then
it waits for them. -/
def State.sectorDone (s : State) (good : Bool) : State :=
  if s.updState = updWriting ∧ s.live_.running then
    let s1 := if s.live_.pages || s.power.stores.contains 3 then s else s.askPages
    if s1.live_.pages then s1.sectorWritten good else s1
  else s

/-- An erase that runs is abandoned: the loader takes the sector for one cut by a power loss (R472, R546). -/
def State.cutErase (s : State) : State :=
  if s.live_.running then
    let k := s.live_.sector
    { s with
      store := { s.store with cut := k :: s.store.cut.filter (· ≠ k) }
      live_ := { s.live_ with running := false, pages := false } }
  else s

/-! ### UPDATE_CHUNK (R517) -/

def ucSlot (ws : List Word) : Nat := aInst ws

/-- Why a chunk is refused before anything is stored. -/
def State.chunkRefusal (s : State) (ws : List Word) : Option Nat :=
  let k := ucSlot ws
  if 2 ≤ k ∨ 3 ≤ aClass ws ∨ slotSize < aOffset ws + aLength ws ∨ (aLength ws = 0 ∧ aClass ws = 0) then some stBadField
  else if overlapsStaging (s.slotAddr k) slotSize then some stBadField
  else if !(s.domOn .res) then some stPoweredOff
  else if s.live_.inst.isSome && (aClass ws = 2 || s.fget R.UPD_STATUS_slot = k) then some stReachBusy
  else none

/-- The chunk goes into its slot, which becomes LOADING. -/
def State.chunkStore (s : State) (host : HostView) (f : Flight) : State :=
  match s.chunkRefusal f.words with
  | some st => s.finish f st 0
  | none =>
    match s.operandBytes host f.words with
    | .inr st => s.finish f st 0
    | .inl b =>
      let k := ucSlot f.words
      let n := aOffset f.words + b.length
      let s1 := s.setReservoir (memWrite s.mem.reservoir (s.slotAddr k + aOffset f.words) b)
      let s2 := (s1.fset R.UPD_SLOT_STATUS_state 1 k).fset R.UPD_SLOT_STATUS_bytes
        (max (s1.fget R.UPD_SLOT_STATUS_bytes k) (if b = [] then 0 else n)) k
      let s3 := s2.setFlight { f with applied := true, count := b.length }
      if aClass f.words = 2 then
        ((s3.setLive { s3.live_ with inst := some f.id }).fset R.UPD_STATUS_state updVerifying).fset R.UPD_STATUS_slot k
      else s3

/-- The slot's image is checked: the slot becomes VERIFIED or BAD. Answers what is wrong. -/
def State.verifySlot (s : State) (k : Nat) : State × Nat :=
  let h := s.slotImage k headerSize
  let bad := s.imageBad (s.slotImage k (imageLength h))
  if bad = 0 then (s.fset R.UPD_SLOT_STATUS_state 2 k, 0)
  else
    let s1 := s.fset R.UPD_SLOT_STATUS_state 3 k
    (if bad = 4 then s1 else s1.bumpF R.UPD_SIG_FAIL_COUNT, bad)

/-- An INSTALL goes on from a valid image: the handover, or straight to the flash write. -/
def State.install (s : State) (k : Nat) : State :=
  let h := s.slotImage k headerSize
  let s1 := s.setLive { s.live_ with size := imageLength h }
  if hNum h 20 1 = 0 || s1.fbit R.SLC_STATUS_recovery || !(s1.domOn .coreA || s1.domOn .coreB) then s1.writeStart
  else if s1.clusterTaken then s1.updEnd updIdle stReachBusy 0
  else ((s1.setLive { s1.live_ with hand := 1 }).fset R.UPD_STATUS_state updHandover).fset R.UPD_STATUS_cluster 0

/-- An UPDATE_CHUNK's bytes are in its slot: VERIFY and INSTALL check it. -/
def State.chunkDone (s : State) (f : Flight) : State :=
  let k := ucSlot f.words
  if aClass f.words = 0 then s.finish f stOk f.count
  else
    let (s1, bad) := s.verifySlot k
    if aClass f.words = 1 then
      if bad = 0 then s1.finish f stOk f.count else s1.finish f (imageStatus bad) 0
    else if s.live_.inst = some f.id ∧ s.updState = updVerifying then
      if bad = 0 then s1.install k else s1.updEnd updIdle (imageStatus bad) 0
    else s

/-- The last byte of a transfer has moved. -/
def State.transferEnds (s : State) (id : Nat) : State :=
  match s.flight id with
  | some f => if dOpcode f.words = 0x0E then if f.applied then s.chunkDone f else s else s.transferDone id
  | none => s

def execTransferDone (id : Nat) (s : State) : Host.Outcome State Fault Refusal := .next (s.transferEnds id).settle

/-- The words of an UPDATE_CHUNK with one `class`. -/
def isChunk (cls : Nat) (ws : List Word) : Bool := isOp 0x0E ws && aClass ws = cls

def execUpdateChunkStore (host : HostView) (s : State) : Host.Outcome State Fault Refusal :=
  .next (s.startDesc (fun ws => isOp 0x0E ws && aClass ws ≠ 1 && aClass ws ≠ 2) formAOk (fun s f => s.chunkStore host f)).settle

def execUpdateChunkVerify (host : HostView) (s : State) : Host.Outcome State Fault Refusal :=
  .next (s.startDesc (isChunk 1) formAOk (fun s f => s.chunkStore host f)).settle

def execUpdateChunkInstall (host : HostView) (s : State) : Host.Outcome State Fault Refusal :=
  .next (s.startDesc (isChunk 2) formAOk (fun s f => s.chunkStore host f)).settle

def execFlashSectorDone (good : Bool) (s : State) : Host.Outcome State Fault Refusal := .next (s.sectorDone good).settle

/-- A write of 1 to `abort` (R520). -/
def State.updAbort (s : State) (req : Requester) : State :=
  if s.updState = updVerifying then s.updEnd updIdle stSuperseded 0
  else if s.updState = updHandover ∨ s.updState = updWriting then s.accessErr true req R.UPD_CTRL.off
  else s

/-! ### The handover at an input cut (R518) -/

/-- A switched cluster leaves service, and the next one enters it; after the second, the flash write begins and the new image
runs. -/
def State.handover (s : State) : State :=
  let c := s.fget R.UPD_STATUS_cluster
  if s.live_.hand = 1 then (s.setLive { s.live_ with hand := 2 }).clusterEnter c
  else if s.live_.hand = 3 then
    let s1 := s.clusterLeave c
    if c = 0 then ((s1.fset R.UPD_STATUS_cluster 1).setLive { s1.live_ with hand := 2 }).clusterEnter 1
    else (s1.setPower { s1.power with svn := hNum (s1.slotImage (s1.fget R.UPD_STATUS_slot) headerSize) 8 4 }).writeStart
  else s

/-! ### Row repair (R523) -/

/-- The stack of a Reservoir offset. -/
def stackOf (addr : Nat) : Nat := b2n (Config.stackOne addr)

/-- A row with an uncorrectable error, or with its sixteenth corrected one, is remapped to a spare row. What it holds does not
change: correctable words are copied, and an uncorrectable word keeps its bad value. -/
def State.rowRepair (s : State) (addr : Nat) : State :=
  let k := stackOf addr
  if s.fbit R.UPD_CTRL_auto_repair && s.domOn .res then
    if s.fget R.UPD_REPAIR_USED_rows k < 32 then
      ((s.setLive { s.live_ with repaired := s.live_.repaired ++ [addr] }).bumpF R.UPD_REPAIR_COUNT).fset R.UPD_REPAIR_USED_rows
        (s.fget R.UPD_REPAIR_USED_rows k + 1) k
    else (s.bumpF R.UPD_REPAIR_FULL_COUNT).report 0x22 (addr / 64)
  else s

/-- The corrected errors of a row for which it is repaired. -/
def rowErrors : Nat := 16

/-- The errors that a row has given enter the health record (R439): one uncorrectable one, or the sixteen corrected ones. -/
def State.rowTold (s : State) (uncorrectable : Bool) : State :=
  let t := s.tandem
  { s with tandem := if uncorrectable then { t with resUncorrected := t.resUncorrected + 1 }
                     else { t with resCorrected := t.resCorrected + rowErrors } }

def execReservoirRowRepair (addr : BitVec 34) (uncorrectable : Bool) (s : State) : Host.Outcome State Fault Refusal :=
  .next (if s.domOn .res then ((s.rowTold uncorrectable).rowRepair addr.toNat).settle else s.settle)

/-- The repairs of the log are applied again after a DRAM training. -/
def State.reapplyRepairs (s : State) : State :=
  let l := s.store.repairs
  (List.range 2).foldl (fun s k => s.fset R.UPD_REPAIR_USED_rows ((l.filter (fun a => stackOf a = k)).length) k)
    (s.setLive { s.live_ with repaired := l })

end Sys2Proof.Machine
end

