-- ==== Sys2Proof/Machine/Thermal.lean ====
section
/-! DEFINITION. Temperature, calibration and hours (chapter 16). -/

namespace Sys2Proof.Machine

def State.setThermal (s : State) (t : Thermal) : State := { s with thermal := t }

/-! ### Sensors (R464, R465) -/

/-- A reading, in 0.01 °C. -/
abbrev Temp := Int

def sensorDomain (k : Nat) : Domain :=
  match k with
  | 0 => .coreA | 1 => .coreB | 2 => .pix | 3 => .pix | 4 => .cistern | 5 => .net | 6 => .host | 7 => .sys
  | 8 => .latLo | 9 => .latHi | 10 => .sys | 11 => .res | 12 => .res | 13 => .res | 14 => .res | _ => .tend

/-- The sensors of a die: the compute die, the port die, and the two DRAM stacks, which count as one. -/
def dieSensors (die : Nat) : List Nat :=
  if die = 0 then [0, 1, 2, 3, 4, 5, 6, 7, 15] else if die = 1 then [8, 9, 10] else [11, 12, 13, 14]

def sensorDie (k : Nat) : Nat := if k < 8 ∨ k = 15 then 0 else if k < 11 then 1 else 2

def State.senTemp (s : State) (k : Nat) : Temp := sint (s.fget R.TH_SENSOR_temp k) 16
def State.senValid (s : State) (k : Nat) : Bool := s.fbit R.TH_SENSOR_valid k
def State.senFault (s : State) (k : Nat) : Bool := s.fbit R.TH_SENSOR_fault k

/-- A sensor that takes part in the rules. -/
def State.senIn (s : State) (k : Nat) : Bool := s.senValid k && !(s.senFault k)
def State.senSelected (s : State) (k : Nat) : Bool := s.fget R.TH_SELECT_sensors / 2 ^ k % 2 = 1

/-- Show a sample: a sensor whose domain is off is not valid. -/
def State.showSample (s : State) (temps : List (BitVec 16)) : State :=
  (List.range 16).foldl (fun s k =>
    if s.domOn (sensorDomain k) then
      (s.fset R.TH_SENSOR_valid 1 k).fset R.TH_SENSOR_temp (temps.getD k 0).toNat k
    else s.setRg (R.TH_SENSOR.off k) 0) s

/-- A sorted list of readings. -/
def tempInsert (t : Temp) : List Temp → List Temp
  | [] => [t]
  | a :: l => if t ≤ a then t :: a :: l else a :: tempInsert t l

def tempSort (l : List Temp) : List Temp := l.foldl (fun acc t => tempInsert t acc) []

/-- Twice the median: of an even number, the sum of the middle two. -/
def median2 (l : List Temp) : Temp :=
  let v := tempSort l
  let n := v.length
  v.getD ((n - 1) / 2) 0 + v.getD (n / 2) 0

/-- One sensor against the median of the other sensors of its die. A sample that is not judged ends the row of far ones. -/
def State.farOne (s : State) (k : Nat) : State :=
  let others := ((dieSensors (sensorDie k)).filter (fun j => j ≠ k && s.senIn j)).map (fun j => s.senTemp j)
  if s.senIn k && others ≠ [] then
    let d := 2 * s.senTemp k - median2 others
    let far := decide (5000 < d ∨ d < -5000)
    let n := if far then mget nat0 s.thermal.far k + 1 else 0
    let s1 := s.setThermal { s.thermal with far := mset nat0 s.thermal.far k n }
    if 10 ≤ n then ((s1.fset R.TH_SENSOR_fault 1 k).bumpF R.TH_SENSOR_FAULT_COUNT).report 0x1D k else s1
  else s.setThermal { s.thermal with far := mset nat0 s.thermal.far k 0 }

/-- The sensors that a rule on the hottest or the coldest takes in. -/
def State.selected (s : State) : List Nat := (List.range 16).filter (fun k => s.senIn k && s.senSelected k)

/-- The extreme reading's sensor: of several equal ones, a free value picks. -/
def State.extreme (s : State) (worse : Temp → Temp → Bool) : Option Nat :=
  match s.selected with
  | [] => none
  | a :: l =>
    let best := l.foldl (fun m k => if worse (s.senTemp k) m then s.senTemp k else m) (s.senTemp a)
    let ties := (a :: l).filter (fun k => s.senTemp k = best)
    some (ties.getD (Config.pick s.free % ties.length) a)

def State.hottest (s : State) : Option Nat := s.extreme (fun a b => decide (b < a))
def State.coldest (s : State) : Option Nat := s.extreme (fun a b => decide (a < b))

/-! ### Thresholds (R466, R467) -/

def State.thTemp (s : State) (f : RF) : Temp := sint (s.fget f) 16

/-- One sample for a threshold, in the sense in which it is crossed upwards. Samples while the threshold takes no part end a row. -/
def Cross.step (c : Cross) (t limit : Temp) : Cross :=
  let o := if limit ≤ t then c.above + 1 else 0
  let u := if t < limit - 300 then c.under + 1 else 0
  { above := min o 2, under := min u 2, on := if 2 ≤ o then true else if 2 ≤ u then false else c.on }

/-- The thermal events: 0 WARN, 1 LOW, 2 RISE. -/
def State.thEvent (s : State) (cls k : Nat) (code : Nat) : State := (((s.report cls k).raise 33).eventOf blkTh code)

def State.warnStep (s : State) : State :=
  match (if s.fbit R.TH_SELECT_sel_warn then s.hottest else none) with
  | none => s.setThermal { s.thermal with warn := s.thermal.warn.rest }
  | some k =>
    let c := s.thermal.warn.step (s.senTemp k) (s.thTemp R.TH_WARN_THROTTLE_warn)
    let s1 := (s.setThermal { s.thermal with warn := c }).fset R.TH_STATUS_warn (b2n c.on)
    if c.on && !(s.thermal.warn.on) then (s1.bumpF R.TH_WARN_COUNT).thEvent 0x19 k 0 else s1

def State.lowStep (s : State) : State :=
  match (if s.fbit R.TH_SELECT_sel_low then s.coldest else none) with
  | none => s.setThermal { s.thermal with low := s.thermal.low.rest }
  | some k =>
    let c := s.thermal.low.step (-(s.senTemp k)) (-(s.thTemp R.TH_CRIT_LOW_low))
    let s1 := (s.setThermal { s.thermal with low := c }).fset R.TH_STATUS_low (b2n c.on)
    if c.on && !(s.thermal.low.on) then s1.thEvent 0x1A k 1 else s1

/-! ### The orderly stop (R471, R472) -/

/-- Every POWER_REQUEST not completed completes with SUPERSEDED. -/
def State.dropRequests (s : State) : State :=
  let s1 := (s.abortPrepare 0xFD).dropPending
  let s2 := s1.pmFinish s1.power.flight stSuperseded 0
  s2.setPower { s2.power with flight := none }

/-- Whether the latest health record showed the peer STANDBY and current. -/
def State.peerReady (s : State) : Bool :=
  let w := (s.rg (R.SIP_PEER_HEALTH.off 1)).toNat
  s.role = roleActive && bits w 31 29 = roleStandby && bits w 28 28 = 1

/-- No frame of a stop reaches light: a commit towards WATCH or DORMANT runs already, or a start or exit does. -/
def State.stopDark (s : State) : Bool :=
  (s.pmPhase = 2 && decide (pmWatch ≤ s.fget R.PM_STATE_target)) || (s.power.start ≠ 0 && s.power.start ≠ 5)

/-- The commit phase of DORMANT, from the row for PD_HOST (R471). With `crit_hold` 1 the MACs have sent their last. -/
def State.stopCommit (s : State) : State :=
  let s1 := if s.fbit R.TH_CTRL_crit_hold then { s with net := { s.net with ended := true } } else s
  let s2 := ((s1.fset R.PM_STATE_phase 2).fset R.PM_STATE_target pmDormant).fset R.PM_STATE_block 0
  s2.slcAbort.powerOff .host

/-- A device whose peer can take over stops its outputs and heartbeats at once, as for `switchover` (R436, R472). -/
def State.fallSilent (s : State) : State :=
  let s1 := { s with tandem := { s.tandem with silent := true, act := false } }
  if s.tandem.act then s1.emit (.tndAct false) else s1

/-- What every orderly stop does at once: the level, the reports and the log, and every request superseded. Evaluation of the current
frame is abandoned, and the wakes are held from now on (R473). -/
def State.stopBegin (s : State) (k : Nat) : State :=
  let s1 := (((s.fset R.TH_STATUS_level 7).fset R.TH_STATUS_crit 1).report 0x1C k).raise 33
  let s2 := (s1.bumpF R.TH_CRIT_COUNT).setRg R.TH_LAST_STOP.off (BitVec.ofNat 32 s.tendSec)
  let s3 := s2.dropRequests.cutErase
  let s4 := { s3 with fabric := { s3.fabric with memberDone := false } }
  let s5 := s4.setClock { s4.time.clock with evaluating := false, staged := false }
  s5.setPower { s5.power with stopHold := true }

/-- The orderly stop begins; `k` is the sensor, 0xFF for a stop without one. The safe look is the output of the first frame whose
staging deadline follows; a device whose peer can take over stops its outputs instead, and powers down from its next frame instant.
DESIGN CHOICE: where no frame reaches light, in a commit towards WATCH or DORMANT or in a start, the commit phase of DORMANT begins, or
goes on, at once (log entry 119). -/
def State.orderlyStop (s : State) (k : Nat) : State :=
  if s.power.stopAt.isSome then s
  else
    let s1 := s.stopBegin k
    if s.stopDark then
      (s1.setPower { s1.power with stopAt := some s1.frame, start := 0, heatAt := none, retry := false, heatRetry := false }).stopCommit
    else
      let s2 := (s1.fset R.PM_STATE_phase 0).fset R.PM_STATE_target s1.pmState
      if s2.peerReady then (s2.setPower { s2.power with stopAt := some s2.frame }).fallSilent
      else
        { (s2.setPower { s2.power with stopAt := some (s2.time.clock.stageFrame + 1) }) with
          water := { s2.water with black := 2 } }

def State.critStep (s : State) : State :=
  match (if s.fbit R.TH_SELECT_sel_crit then s.hottest else none) with
  | none => s.setThermal { s.thermal with crit := s.thermal.crit.rest }
  | some k =>
    let c := s.thermal.crit.step (s.senTemp k) (s.thTemp R.TH_CRIT_LOW_crit)
    let s1 := (s.setThermal { s.thermal with crit := c }).fset R.TH_STATUS_crit (b2n (c.on || s.power.stopAt.isSome))
    if c.on && !(s.thermal.crit.on) then s1.orderlyStop k else s1

/-- A powered die whose selected sensors are all faulted: the device acts as at CRIT. -/
def State.blindDie (s : State) : Bool :=
  [0, 1, 2].any (fun d =>
    let l := (dieSensors d).filter (fun k => s.senValid k && s.senSelected k)
    l ≠ [] && l.all (fun k => s.senFault k))

/-! ### Hours (R480) -/

def hourMsMax : Nat := 3600000

/-- One more millisecond on an hour counter. -/
def State.hourTick (s : State) (key off : Nat) : State :=
  let n := mget nat0 s.hourMs key + 1
  if n = hourMsMax then
    { (s.setRg off (BitVec.ofNat 32 (min maxWord ((s.rg off).toNat + 1)))) with hourMs := mset nat0 s.hourMs key 0 }
  else { s with hourMs := mset nat0 s.hourMs key n }

/-- The bin of a reading. -/
def hourBin (t : Temp) : Nat := if t < 3500 then 0 else min 7 (((t - 3500) / 1000).toNat + 1)

/-- The hours of a millisecond: power-on hours and their bin while PMIC_PG0 is high, show hours in SHOW. -/
def State.hourStep (s : State) : State :=
  let s1 := if s.power.pgs.getLsbD 0 then s.hourTick 8 R.TH_POH_HOURS.off else s
  let s2 := if s.power.pgs.getLsbD 0 then
      match s1.hottest with
      | some k => s1.hourTick (hourBin (s1.senTemp k)) (R.TH_HOURS_BIN.off (hourBin (s1.senTemp k)))
      | none => s1
    else s1
  if s2.pmState = pmShow && s2.power.start = 0 then s2.hourTick 9 R.TH_SHOW_HOURS.off else s2

/-! ### Self-heat (R474) -/

/-- Sensors 11..14. -/
def dramSensors : List Nat := [11, 12, 13, 14]

/-- At a start from P or C, or an exit from DORMANT, the sensors of the stacks are read before DRAM training begins; the
device self-heats while any is below LOW, until all four have reached `low_release`. -/
def State.heatStep (s : State) : State :=
  if (s.power.start = 1 || s.power.start = 4) && s.domOn .res && !(s.power.trained) then
    match s.power.heatAt with
    | some t =>
      if dramSensors.all (fun k => decide (s.thTemp R.TH_RISE_low_release ≤ s.senTemp k)) then
        ((s.setPower { s.power with heatAt := none }).fset R.TH_STATUS_self_heat 0).setRg R.TH_HEAT_TIME.off
          (BitVec.ofNat 32 (nsSince s t / 1000000))
      else s
    | none =>
      if s.power.heatRead then s
      else
        let s1 := s.setPower { s.power with heatRead := true }
        if s.fbit R.TH_SELECT_sel_low &&
            dramSensors.any (fun k => decide (s.senTemp k < s.thTemp R.TH_CRIT_LOW_low)) then
          (s1.setPower { s1.power with heatAt := some s1.now }).fset R.TH_STATUS_self_heat 1
        else s1
  else s

/-- 600 s. -/
def heatLimit : Nat := 600000000000

def State.heatTimeout (s : State) : State :=
  match s.power.heatAt with
  | some t =>
    if heatLimit ≤ nsSince s t then
      let s1 := s.dropRails.fset R.PM_STATE_rail_fault 1
      s1.setPower { s1.power with heatAt := none, heatRetry := true }
    else s
  | none => s

def execSelfHeatTimeout (s : State) : Host.Outcome State Fault Refusal := .next s.heatTimeout.settle

def execSelfHeatRetry (s : State) : Host.Outcome State Fault Refusal :=
  .next (if s.power.heatRetry then s.raiseFirst else s).settle

/-! ### Calibration (R475..R479) -/

def State.setCalUnit (s : State) (u : Nat) (v : CalUnit) : State :=
  s.setThermal { s.thermal with units := mset cal0 s.thermal.units u v }

def unitDomain (u : Nat) : Domain := if u < 128 then .latLo else if u < 256 then .latHi else .host
def unitSensor (u : Nat) : Nat := if u < 128 then 8 else if u < 256 then 9 else 6

def State.unitBaseline (s : State) (u : Nat) : Bool :=
  if u < 256 then s.fbit R.CAL_PORT_STATUS_baseline u else (s.calUnit u).baseline

/-- A unit becomes due. -/
def State.makeDue (s : State) (u : Nat) : State :=
  if s.unitDue u then s
  else
    let s1 := s.setCalUnit u { s.calUnit u with since := s.now, missed := false, due := decide (256 ≤ u) }
    if u < 256 then s1.fset R.CAL_PORT_STATUS_due 1 u else s1

/-- Whether a unit's sensor has moved by more than `delta_t` since its last run. -/
def State.unitMoved (s : State) (u : Nat) : Bool :=
  match (s.calUnit u).ref with
  | some r =>
    let d := s.senTemp (unitSensor u) - r
    let m : Int := (s.fget R.CAL_CTRL_delta_t * 100 : Nat)
    s.senIn (unitSensor u) && decide (m < d ∨ d < -m)
  | none => false

/-- The units that a sample makes due: a first run at once, and with `on_delta` a run after a move of their sensor. -/
def State.dueStep (s : State) : State :=
  if s.fbit R.CAL_CTRL_cal_enable then
    (calUnits.foldl (fun s u =>
      if s.domOn (unitDomain u) && (s.unitBaseline u || (s.fbit R.CAL_CTRL_on_delta && s.unitMoved u)) then s.makeDue u
      else s) s).showDue
  else s

/-- Every run counts, and is dated (R478). -/
def State.calCount (s : State) : State :=
  let t := s.time.ptp.t
  ((s.bumpF R.CAL_COUNT).setRg R.CAL_LAST_SEC.off (BitVec.ofNat 32 (twos (secOf t) 32))).fset R.CAL_LAST_NS_ns (nsOf t)

/-- The slices that a run chooses, as bits, with their conductance (R476): `ohms`, the slices measured from index `i` on. -/
def chooseSlices (ohms : Nat) : Nat → Nat → List Nat → Nat × Nat
  | _, g, [] => (0, g)
  | i, g, c :: t =>
    let good := decide (c ≤ 2500 + 750 ∧ 2500 ≤ c + 750)
    if good && decide ((g + c - c / 2) * ohms ≤ 1000000) then
      let r := chooseSlices ohms (i + 1) (g + c) t
      (r.1 + 2 ^ i, r.2)
    else chooseSlices ohms (i + 1) g t

/-- A port's driver is measured: `g` are the conductances of its 16 slices, in µS. -/
def State.calPort (s : State) (p : Nat) (g : List Nat) : State :=
  let ohms := s.fget R.CAL_PORT_CFG_ohms p
  let (set, sum) := chooseSlices ohms 0 0 (g.take 16)
  let s1 := if sum * ohms * 10 < 9000000 then (s.fset R.CAL_PORT_STATUS_slice_fault 1 p).report 0x1E p
    else (s.fset R.CAL_PORT_STATUS_slices set p).fset R.CAL_PORT_STATUS_slice_fault 0 p
  ((((s1.fset R.CAL_PORT_STATUS_due 0 p).fset R.CAL_PORT_STATUS_baseline 0 p).bumpF R.CAL_PORT_COUNT p).setRg
    (R.CAL_PORT_LAST.off p) (BitVec.ofNat 32 (twos (secOf s.time.ptp.t) 32)))

/-- The calibration logic is clocked: not in WATCH, where PD_SYS keeps the Ditchrider, the Silt trap and register access (R447). -/
def State.calRuns (s : State) : Bool := s.domOn .sys && !s.inWatch && s.fbit R.CAL_CTRL_cal_enable

/-- The least natural gap, in ns. -/
def calGap : Nat := 24000

/-- Whether a port is in a natural gap of at least 24 µs (R477): the break of a DMX port, the return window of a FURROW port, the low
time of a pixel line after its commit event; a port at REST, in service, or, by DESIGN CHOICE, one that does not drive its line
(log entry 119), at any time. -/
def State.portGap (s : State) (p : Nat) : Bool :=
  let v := s.port p
  let e := v.ent
  let start := v.freeAt - cyclesOf (peD e + peLow e)
  if !(s.portDrives p) || s.inService scLateral (p / 32) then true
  else if peLine e = mDMX then v.lineOn && decide (start ≤ s.now ∧ s.now < start + cyclesOf (1000 * peBreak e))
  else if peLine e = mFURROW then v.window
  else !v.lineOn && decide (calGap ≤ peLow e ∧ s.now < v.freeAt)

/-- Whether a unit is in its natural gap. The vertical blanking of a transmitter is a matter of timing. -/
def State.unitGap (s : State) (u : Nat) : Bool := decide (256 ≤ u) || s.portGap u

/-- A unit's run: a due port or transmitter inside a natural gap; 258, the sensors, whenever. A run never moves a value that
the device sends (R475). It trims the launch stage too, by a value that the spec gives nowhere. -/
def State.calRun (s : State) (u : Nat) (g : List Nat) : State :=
  if !(s.calRuns) || s.power.agreed.contains 0x0D then s
  else if u = 258 then s.calCount
  else if s.unitDue u && s.domOn (unitDomain u) && s.unitGap u then
    let (n, s0) := s.fresh
    let v := s.calUnit u
    let s1 := s0.setCalUnit u { v with
      ref := some (s.senTemp (unitSensor u)), due := false, missed := false, baseline := false, since := 0,
      count := if 256 ≤ u then v.count + 1 else 0, trim := some (Config.launchTrim n).toNat }
    let s2 := if u < 256 then s1.calPort u g else s1
    s2.calCount.showDue
  else s

def execCalibrationRun (unit : Fin 259) (g : List Nat) (s : State) : Host.Outcome State Fault Refusal :=
  .next (s.calRun unit g).settle

/-- Rotation makes the next unit due. -/
def State.calRotate (s : State) : State :=
  if s.calRuns && s.fbit R.CAL_CTRL_rotate then
    let u := s.thermal.turn
    let s1 := s.setThermal { s.thermal with turn := (u + 1) % 258 }
    if s1.domOn (unitDomain u) then (s1.makeDue u).showDue else s1
  else s

def execCalRotate (s : State) : Host.Outcome State Fault Refusal := .next s.calRotate.settle

/-- 1 s. -/
def calWait : Nat := 1000000000

/-- A unit has been due for 1 s without a gap. -/
def State.calMiss (s : State) (u : Nat) : State :=
  let v := s.calUnit u
  if !s.inWatch && s.unitDue u && !v.missed && decide (calWait ≤ nsSince s v.since) then
    ((s.setCalUnit u { v with missed := true }).bumpF R.CAL_MISS_COUNT).report 0x1F u
  else s

def execCalMiss (unit : Fin 258) (s : State) : Host.Outcome State Fault Refusal := .next (s.calMiss unit).settle

/-- TEND_RC is trimmed against TEND_32K: its frequency stands in no register. -/
def execTendRcCalibration (s : State) : Host.Outcome State Fault Refusal :=
  .next (if s.domOn .sys && s.fbit R.CAL_CTRL_cal_enable && s.time.tendRunning && decide (s.pmState < pmWatch) then s.calCount
    else s).settle

/-! ### The commands of time -/

/-- The thermal logic runs, in a start and an exit too: but in WATCH, where PD_SYS keeps only the Ditchrider, the Silt trap and
register access clocked (R447). -/
def State.thermalOn (s : State) : Bool := s.domOn .sys && (decide (s.pmState < pmWatch) || s.power.start ≠ 0)

/-- R473: once sensor 15 reads below WARN less 3.00 °C, the wakes that a stop holds are released. -/
def State.coolStep (s : State) (temps : List (BitVec 16)) : State :=
  if s.power.stopHold && s.power.stopAt = none &&
      decide (sint (temps.getD 15 0).toNat 16 < s.thTemp R.TH_WARN_THROTTLE_warn - 300) then
    (s.setPower { s.power with stopHold := false }).releaseWakes false
  else s

/-- TH_STATUS shows the hottest sensor. -/
def State.hotStep (s : State) : State :=
  match s.hottest with
  | some k => (s.fset R.TH_STATUS_hottest k).fset R.TH_STATUS_hottest_temp (s.fget R.TH_SENSOR_temp k)
  | none => s

/-- The thresholds and sensor faults are judged on the readings that the sensors show. -/
def State.judgeStep (s : State) : State :=
  let b := ((List.range 16).foldl (fun s k => s.farOne k) s).hotStep
  let c := { b.warnStep.lowStep.critStep with free := b.free + 1 }
  let d := if c.blindDie then c.orderlyStop 0xFF else c
  d.dueStep

/-- The 1 ms sample (R465): the sixteen readings, and VHOLD in mV as the Tender samples it. -/
def State.sensorSample (s : State) (temps : List (BitVec 16)) (vhold : BitVec 11) : State :=
  let s0 := s.setPower { s.power with vhold := vhold.toNat }
  let s1 := if s0.domOn .sys then s0.showSample temps else s0
  let s2 := s1.hourStep.heatStep
  let s3 := if s2.thermalOn then s2.judgeStep else s2
  s3.coolStep temps

def execSensorSample (temps : List (BitVec 16)) (vhold : BitVec 11) (s : State) : Host.Outcome State Fault Refusal :=
  .next (s.sensorSample temps vhold).settle

/-- R469. The stop holds level 7. -/
def State.throttleUpdate (s : State) : State :=
  if s.thermalOn && s.power.stopAt = none then
    match s.hottest with
    | none => s
    | some k =>
      let t := s.senTemp k
      let limit := s.thTemp R.TH_WARN_THROTTLE_throttle
      let level := s.fget R.TH_STATUS_level
      if s.fbit R.TH_SELECT_sel_throttle && decide (limit ≤ t) then s.fset R.TH_STATUS_level (min 7 (level + 1))
      else if t < limit - 300 then s.fset R.TH_STATUS_level (level - 1)
      else s
  else s

def execThrottleUpdate (s : State) : Host.Outcome State Fault Refusal := .next s.throttleUpdate.settle

/-- What an excess of RISE does besides its count and its report. -/
def State.riseAct (s : State) (k : Nat) : State :=
  let a := s.fget R.TH_CTRL_rise_action
  if a = 1 then s.fset R.TH_STATUS_level (min 7 (s.fget R.TH_STATUS_level + 2))
  else if 2 ≤ a then s.orderlyStop k
  else s

/-- R468: each sensor's reading against its reading ten checks ago. -/
def State.riseCheck (s : State) : State :=
  if s.thermalOn then
    let now := (List.range 16).map (fun k => if s.senIn k then some (s.senTemp k) else none)
    let old := s.thermal.past.getD 9 []
    let s1 := (List.range 16).foldl (fun s k =>
      let ov :=
        match now.getD k none, old.getD k none with
        | some a, some b => s.fbit R.TH_SELECT_sel_rise && decide (s.thTemp R.TH_RISE_rise < a - b)
        | _, _ => false
      let was := s.thermal.rising.contains k
      let s1 := s.setThermal { s.thermal with
        rising := if ov then (if was then s.thermal.rising else s.thermal.rising ++ [k])
          else s.thermal.rising.filter (· ≠ k) }
      if ov && !was then ((s1.bumpF R.TH_RISE_COUNT).report 0x1B k |>.eventOf blkTh 2).riseAct k else s1) s
    s1.setThermal { s1.thermal with past := (now :: s1.thermal.past).take 10 }
  else s

def execRiseCheck (s : State) : Host.Outcome State Fault Refusal := .next s.riseCheck.settle

/-- 24 hours have passed since the last save. -/
def execHourSave (s : State) : Host.Outcome State Fault Refusal := .next s.saveHours.settle

end Sys2Proof.Machine
end

