-- ==== Sys2Proof/Machine/Startup.lean ====
section
/-! DEFINITION. The end of a start or an exit (R457, R458, R521, R550), resets that wait for a power state (chapter 20), EBB and
the stores that wait (R460, R461). -/

namespace Sys2Proof.Machine

/-! ### The boot image (R521, R522) -/

/-- The image in the boot flash. -/
def State.bootImage (s : State) : List Byte := s.flashRead 0 (imageLength (s.flashRead 0 headerSize))

/-- The PCIe subsystem IDs are those of the image's loader configuration, and 0x1F3C and 0x8256 if it gives none (R39, R551). -/
def State.takeSubsystem (s : State) (img : List Byte) : State :=
  { s with pcie := { s.pcie with subsystem := (Config.subsystemIds (segBytes img 2)).getD (0x1F3C, 0x8256) } }

/-- The loader writes the cue code of the boot image into both clusters, and gives the endpoint its IDs. -/
def State.loadBoot (s : State) : State :=
  let img := s.bootImage
  ((s.loadCode 0 img).loadCode 1 img).takeSubsystem img

/-- Every core is released. -/
def State.releaseCores (s : State) : State := (s.coreRunWrite 0 0xFFFFFFFF).coreRunWrite 1 0xFFFFFFFF

/-- The domains that host-recovery mode leaves off. -/
def recoveryOff : List Domain := [.latHi, .latLo, .cistern, .pix, .coreB, .coreA, .net]

/-- Host-recovery mode, with the check that failed (R522). -/
def State.recover (s : State) (cause : Nat) : State :=
  let n := s.fget R.UPD_BOOT_STATUS_fail_count
  let s1 := (((s.powerOffs recoveryOff).fset R.SLC_STATUS_recovery 1).fset R.UPD_BOOT_STATUS_last_ok 0).fset
    R.UPD_BOOT_STATUS_cause cause
  s1.fset R.UPD_BOOT_STATUS_fail_count (if cause = 0 then n else min 65535 (n + 1))

/-- The show key is loaded from the blob that the image names, in OWNED with the level CLOSED (R490). -/
def State.loadShowKey (s : State) (img : List Byte) : State :=
  match Config.blobPlace (segBytes img 2) with
  | some a => if s.ownedClosed then (s.loadBlob (s.flashRead a 64)).1 else s
  | none => s

/-- A valid image boots: its SHA-384 stands in SLC_MEASURE, its code runs on every core. -/
def State.bootWith (s : State) (img : List Byte) : State :=
  let h := sha384 img
  let s1 := (List.range 12).foldl (fun s i =>
    s.setRg (R.SLC_MEASURE.off i) (BitVec.ofNat 32 (leNat ((h.drop (4 * i)).take 4)))) s
  let s2 := ((s1.fset R.UPD_BOOT_STATUS_last_ok 1).fset R.UPD_BOOT_STATUS_cause 0).setPower
    { s1.power with svn := hNum img 8 4, sResets := 0 }
  (((s2.loadCode 0 img).loadCode 1 img).takeSubsystem img).releaseCores.loadShowKey img

/-- S resets in a row after which only host-recovery mode starts (R506). -/
def sLimit : Nat := 16

/-- What the loader does at a start that runs it: a lifecycle transition that was cut off is finished, the DRBG is seeded, the
flash is described, and the image is checked. -/
def State.loader (s : State) : State :=
  let s1 := ((s.finishLife).fset R.SLC_STATUS_drbg_ready 1).setRg R.UPD_FLASH_INFO.off
    (BitVec.ofNat 32 (Config.flashInfo.toNat / 2 ^ 22 * 2 ^ 22))
  let img := s1.bootImage
  let bad := s1.imageBad img
  if bad ≠ 0 then s1.recover bad
  else if sLimit ≤ s1.power.sResets then s1.recover 0
  else (s1.bootWith img).startClock

/-! ### SHOW is reached -/

/-- A start or an exit can end: every domain is on, and the memory trained where it must be. -/
def State.startReady (s : State) : Bool :=
  s.power.start = 5 ||
    (s.power.start ≠ 0 && decide (s.domains = 0xFFF) && s.power.trained && s.power.heatAt = none)

/-- What a start or exit leaves in RST: the exits of WATCH and DORMANT, and the time that a start took. -/
def State.recordStart (s : State) (k : Nat) : State :=
  let s1 :=
    if k = 2 then s.recordReset R.RST_CAUSE_watch 8 none
    else if k = 4 then s.recordReset R.RST_CAUSE_dormant 7 none
    else s
  if k = 1 ∨ k = 3 ∨ k = 4 then s1.fset R.RST_STARTUP_MS_ms (nsSince s1 s1.power.startAt / 1000000) else s1

/-- The steady state SHOW, with its event and vector 34. -/
def State.enterShow (s : State) : State :=
  let s1 := (((s.fset R.PM_STATE_state pmShow).fset R.PM_STATE_target pmShow).fset R.PM_STATE_phase 0).fset
    R.PM_STATE_rail_fault 0
  let s2 := { s1 with
    power := { s1.power with start := 0, agreed := [] }
    net := { s1.net with ended := false } }
  (s2.pmEvent 0).pmFinish s2.power.flight stOk pmShow

/-! ### Resets that software asks for (R547, R548) -/

/-- 200 µs. -/
def resetLead : Int := 200000 * 65536

/-- The instant of the next input cut: T_f − 2P of the first frame, and else the staging deadline of the frame in evaluation
(R22). -/
def State.nextCutAt (s : State) : Int :=
  let c := s.time.clock.cutFrame
  if c = 0 then s.tfOf 1 - 2 * s.period else s.tfOf c - s.period

/-- The first frame whose input cut lies at least `lead`, of at most one period, after now. -/
def State.cutAfter (s : State) (lead : Int) : Nat :=
  let c := s.time.clock.cutFrame
  if s.clockNow + lead ≤ s.nextCutAt then c + 1 else c + 2

/-- A basin reset is due at the input cut of a frame. -/
def State.resetAtCut (s : State) (n : Nat) : State := { s with basin := { s.basin with resetAt := some n } }

/-- A W or a `basin_local` acts. -/
def State.actReset (s : State) (basinLocal : Bool) : State :=
  if basinLocal then s.resetAtCut (s.cutAfter resetLead) else s.warmReset

/-- A request for a W or a `basin_local`: it aborts a prepare phase, waits for the end of a commit phase or of an exit, and
wakes a sleeping device. -/
def State.askReset (s : State) (basinLocal : Bool) : State :=
  if s.pmPhase = 1 then (s.abortPrepare 0xFC).actReset basinLocal
  else if s.pmPhase = 2 ∨ s.power.start ≠ 0 then
    s.setPower { s.power with heldReset := some (basinLocal && s.power.heldReset ≠ some false) }
  else if pmWatch ≤ s.pmState then
    (s.setPower { s.power with heldReset := some basinLocal }).wake (fun s => s)
  else s.actReset basinLocal

/-- A state has been reached: what is held acts, or wakes the device again, and else what is pending is taken. -/
def State.afterState (s : State) : State :=
  match s.power.heldReset with
  | some b =>
    if pmWatch ≤ s.pmState then s.wake (fun s => s)
    else (s.setPower { s.power with heldReset := none }).actReset b
  | none => s.takePending

/-- After an exit from DORMANT every Furrow port enumerates before its nodes receive values (R321). -/
def State.reenumerate (s : State) (start : Nat) : State :=
  if start = 4 then { s with die := { s.die with again := List.range 256 } } else s

def State.showReached (s : State) : State :=
  if s.startReady then
    let k := s.power.start
    let s1 :=
      if k = 1 ∨ k = 3 ∨ k = 4 then s.loader
      else if k = 2 then
        if s.fbit R.SLC_STATUS_recovery then s.powerOffs recoveryOff
        else if s.rasRuns then s.loadBoot.rasStart else s.loadBoot
      else { s with ditch := { s.ditch with paused := true } }
    let s2 := ((s1.reenumerate k).recordStart k).enterShow
    (s2.setPower { s2.power with flight := none }).coreInterrupts.afterState
  else s

def execShowReached (s : State) : Host.Outcome State Fault Refusal := .next s.showReached.settle

/-- The commit phase has ended. -/
def execSleepStateReached (s : State) : Host.Outcome State Fault Refusal :=
  .next (if s.pmPhase = 2 then s.sleepCore.afterState else s).settle

/-- A block agrees. At the commit phase of DORMANT an ENCRYPT or DECRYPT ends (R505). -/
def State.agreeStep (s : State) : State :=
  let s1 := s.blockAgrees
  if s1.pmPhase = 2 ∧ s1.fget R.PM_STATE_target = pmDormant then s1.slcAbort else s1

def execPrepareBlockAgree (s : State) : Host.Outcome State Fault Refusal := .next s.agreeStep.settle

/-- The repairs of the log are applied after a training; an exit from WATCH only retrains the PHY. -/
def execDramTrainingDone (good : Bool) (s : State) : Host.Outcome State Fault Refusal :=
  let s1 := s.trainingDone good
  .next (if s1.power.trained && !(s.power.trained) && s.power.start ≠ 2 then s1.reapplyRepairs else s1).settle

/-! ### EBB and the stores that wait (R460, R461) -/

/-- Try a store that waits once more. -/
def State.tryStore (s : State) (k : Nat) : State :=
  if k = 0 then s.runBurns s.sluice.burns
  else if k = 1 then if s.updState = updWriting ∧ !(s.live_.running) then s.eraseSector else s
  else if k = 3 then if s.updState = updWriting ∧ s.live_.running ∧ !(s.live_.pages) then s.askPages else s
  else s.saveHours

def State.rerunStores (s : State) : State := s.power.stores.foldl (fun s k => s.tryStore k) s

/-- SENSE_IN falls below `warn_mv`. An erase that runs is suspended unless it is covered; a page program that runs finishes, and the next
one is held. -/
def State.ebbEntry (s : State) : State :=
  if s.fbit R.PM_CTRL_ebb_enable && !(s.ebb) then
    let s1 := ((s.fset R.PM_STATE_ebb 1).bumpF R.PM_EBB_COUNT).pmEvent 2
    if s1.live_.pages then ((s1.showCheck 0).setLive { s1.live_ with pages := false }).askPages
    else if s1.live_.running && !(s1.power.stores.contains 3) then
      let s2 := s1.showCheck 2
      if s2.covered 2 then s2 else (s2.setLive { s2.live_ with running := false }).queueStore 1
    else s1
  else s

def execEbbEntry (s : State) : Host.Outcome State Fault Refusal := .next s.ebbEntry.settle

/-- SENSE_IN has stayed above `warn_mv` + `hyst_mv` for 1 ms. -/
def State.ebbExit (s : State) : State :=
  if s.ebb then ((s.fset R.PM_STATE_ebb 0).rerunStores).releaseWakes true else s

def execEbbExit (s : State) : Host.Outcome State Fault Refusal := .next s.ebbExit.settle

/-- 10 ms after a check that failed, with VHOLD as it is sampled then. -/
def execHoldupRetry (vhold : BitVec 11) (s : State) : Host.Outcome State Fault Refusal :=
  let s1 := s.setPower { s.power with vhold := vhold.toNat }
  .next (if s1.ebb then s1 else s1.rerunStores).settle

end Sys2Proof.Machine
end

