-- ==== Sys2Proof/Machine/Commit.lean ====
section
/-! DEFINITION. COMMIT and SERVICE_REACH (R61, R62, R511..R514): what they take in, their checks as they start, and what
each does at the input cut of its target frame. -/

namespace Sys2Proof.Machine

/-! ### The staged writes of a scope (R60..R62, R285) -/

/-- A staged write of class 0x40 or 0x41 for F8 itself. -/
def spareWrite (w : Staged) : Bool := (w.cls = 0x40 || w.cls = 0x41) && w.inst = 8

/-- Whether a COMMIT of a scope takes a staged write in. A COMMIT of scope ALL leaves the writes of a canvas or raster
output in service, which change only as R512 says, and those of a cluster, which R114 keeps for SERVICE_REACH. -/
def State.commitTakes (s : State) (kind idx : Nat) (w : Staged) : Bool :=
  match findClass w.cls with
  | none => false
  | some (_, _, k) =>
    if spareWrite w then (kind = scLateral || kind = scAll) && s.flumeLateral 8 = 8
    else if kind = scAll then k ≠ scCluster && !((k = scCanvas || k = scRaster) && s.inService k w.inst)
    else k = kind && ((k ≠ scCanvas && k ≠ scLateral && k ≠ scRaster && k ≠ scCluster) || w.inst = idx)

/-- The staged writes of a scope with numbers up to `upTo`. -/
def State.taken (s : State) (kind idx upTo : Nat) : List Staged :=
  s.rings.staged.filter (fun w => s.commitTakes kind idx w && stageLe w.number upTo)

/-- The live tables with staged writes in them. -/
def State.stageInto (s : State) (ws : List Staged) : State :=
  ws.foldl (fun s w => s.setTable w.cls w.inst (tabWrite w.cls w.inst (s.table w.cls w.inst) w.offset w.bytes)) s

/-- The staging that taken writes used is free. -/
def State.dropStaged (s : State) (ws : List Staged) : State :=
  { s with rings := { s.rings with staged := s.rings.staged.filter (fun w => !(ws.contains w)) } }

/-! ### The checks of a COMMIT (R61) -/

/-- The canvases and laterals that a scope covers. -/
def State.scopeCanvases (s : State) (kind idx : Nat) : List Nat :=
  if kind = scCanvas then [idx]
  else if kind = scAll then (List.range 4).filter (fun c => !(s.inService scCanvas c))
  else []

def scopeLaterals (kind idx : Nat) : List Nat := if kind = scLateral then [idx] else if kind = scAll then List.range 8 else []

/-- The items that fail a check of the TIME scope (R384, R414). -/
def State.timeBad (s : State) (t : Tabs) (code : Nat) : List Nat :=
  match code with
  | 0x60 => t.timeBadWords
  | 0x61 => t.ptpBadMacs
  | 0x62 => if t.lockAbsent (s.joined && !(s.isRoot)) then [0] else []
  | _ => []

/-- The items that fail a check of the FABRIC scope (R154, R164, R236). -/
def Tabs.fabricItems (t : Tabs) (code : Nat) : List Nat :=
  if code = 10 then t.loadBad else if 7 ≤ code ∧ code ≤ 9 then t.rillBad code else t.fabricBad code

/-- The items that fail the check of a code, among those that a scope brings. `t` is the result, `ws` what is taken in. -/
def State.badItems (s : State) (t : Tabs) (ws : List Staged) (kind idx code : Nat) : List Nat :=
  let has (k : Nat) : Bool := kind = k || kind = scAll
  match code / 16 with
  | 0 => if has scFabric then t.fabricItems code else []
  | 1 => (s.scopeCanvases kind idx).flatMap (fun c =>
      s.canvasBad t c code)
  | 2 => if has scColour then s.colourBad t ws code else []
  | 3 => if has scWater then s.waterBad t code else []
  | 4 => (scopeLaterals kind idx).flatMap (fun l => s.lateralBad t ws l code)
  | 5 => if has scNet then s.netBad t code else []
  | 6 => if has scTime then s.timeBad t code else []
  | 7 => if has scRaster then s.rasterBad t (if kind = scRaster then some idx else none) code else []
  | _ => []

/-- The failing check with the lowest code from `code` up, and its lowest item, as the completion's result. -/
def State.firstBad (s : State) (t : Tabs) (ws : List Staged) (kind idx : Nat) : Nat → Nat → Option Nat
  | 0, _ => none
  | n + 1, code =>
    match lowest (s.badItems t ws kind idx code) with
    | some i => some (code * 2 ^ 32 + i)
    | none => s.firstBad t ws kind idx n (code + 1)

/-- The status and result that refuse a COMMIT: the owning chapters' checks, then R191, R36 and R37. -/
def State.commitRefusal (s : State) (t : Tabs) (ws : List Staged) (kind idx : Nat) : Option (Nat × Nat) :=
  match s.firstBad t ws kind idx 0x78 0 with
  | some r => some (stCommitInvalid, r)
  | none =>
    match (s.scopeCanvases kind idx).findSome? (fun c => s.lbShort t c) with
    | some r => some (stLbShort, r)
    | none =>
      if (kind = scFabric ∨ kind = scTime ∨ kind = scAll) ∧ t.fabricOver then some (stFabricOver, t.contributors)
      else if (kind = scCanvas ∨ kind = scTime ∨ kind = scAll) ∧ s.pixOver t then some (stPixOver, s.laneSum t)
      else none

/-! ### A COMMIT starts -/

/-- Whether a scope that COMMIT knows has the index it may have. NET's indices 0..3 serve SERVICE_REACH only (R335). -/
def commitScope (kind idx : Nat) : Bool :=
  if kind = scCanvas then decide (idx < 4)
  else if kind = scLateral then decide (idx < 8)
  else if kind = scRaster then decide (idx < 2)
  else if kind = scNet then idx = 0xFFFFFF
  else (kind = scFabric || kind = scColour || kind = scWater || kind = scTime || kind = scAll) && idx = 0

/-- The operand rules of R58 and R591. -/
def commitOk (ws : List Word) : Bool :=
  formCOk ws && commitScope (cKind ws) (cIndex ws) &&
    (cArg ws = 0 || (cArg ws = 1 && (cKind ws = scFabric || cKind ws = scAll)))

/-- What a LATERAL commit changes beside the tables, for every lateral of its scope. -/
def State.lateralsTaken (s : State) (old : Tabs) (ws : List Staged) (kind idx : Nat) : State :=
  (scopeLaterals kind idx).foldl (fun s l => (s.lateralCommitted (ws.filter (fun w => w.inst = l || spareWrite w)) l).nodesCommitted
    old l) s

/-- R284: while the lateral is in service, classes 0x40 and 0x41 are taken in at once. -/
def State.serviceTake (s : State) (f : Flight) : State :=
  if cKind f.words = scLateral ∧ s.inService scLateral (cIndex f.words) then
    let ws := (s.taken scLateral (cIndex f.words) f.upTo).filter (fun w => w.cls = 0x40 ∨ w.cls = 0x41)
    let old := s.live
    ((s.stageInto ws).dropStaged ws).lateralsTaken old ws scLateral (cIndex f.words)
  else s

/-- 0x03 starts: its checks, and then it waits for the input cut of its target frame. -/
def State.commitStart (s : State) (f : Flight) : State :=
  let k := cKind f.words
  let i := cIndex f.words
  if (k = scCanvas ∨ k = scRaster) ∧ s.inService k i then s.finish f stInService 0
  else if !(s.domOn (scopeDomain k i)) then s.finish f stPoweredOff 0
  else
    let f1 := { f with upTo := s.stageLatest }
    let ws := s.taken k i f1.upTo
    match s.commitRefusal (s.stageInto ws).live ws k i with
    | some (st, r) => s.finish f st r
    | none => (s.setFlight f1).serviceTake f1

def execCommit (s : State) : Host.Outcome State Fault Refusal :=
  .next (s.startDesc (isOp 0x03) commitOk (fun s f => s.commitStart f)).settle

/-! ### A COMMIT at its input cut -/

/-- What a COMMIT of scope TIME does beside its table, the lattice and SHOW apart. -/
def State.timeTaken (s : State) (old : Tabs) (frame : Nat) : State :=
  let s1 := s.ptpCommitted old
  if old.rateNum ≠ s1.live.rateNum ∨ old.rateDen ≠ s1.live.rateDen then s1.rasterCommitted old frame else s1

/-- The effects of a COMMIT beside its tables, scope by scope. The Rills' anchors, the lattice and SHOW follow once the cut's
commits are all in. -/
def State.commitEffects (s : State) (old : Tabs) (ws : List Staged) (kind idx frame : Nat) : State :=
  let has (k : Nat) : Bool := kind = k || kind = scAll
  let s1 := if has scFabric then s.setRg R.PF_CONTRIB_COUNT.off (BitVec.ofNat 32 s.live.contributors) else s
  let cs := s1.scopeCanvases kind idx
  let s2 := cs.foldl (fun s c => s.canvasCommitted old c) (if cs = [] then s1 else s1.moveCopies old)
  let s3 := ws.foldl (fun s w => if 0x0A = w.cls ∨ 0x44 = w.cls ∨ 0x45 = w.cls ∨ 0x46 = w.cls then s.takeColour w else s) s2
  let s4 := if has scWater then s3.waterCommitted old frame else s3
  let s5 := s4.lateralsTaken old ws kind idx
  let s6 := if has scNet then s5.netCommitted old else s5
  let s7 := if has scRaster then s6.rasterCommitted old frame else s6
  if has scTime then s7.timeTaken old frame else s7

/-- A COMMIT takes effect at the input cut of frame `n`. -/
def State.commitCut (s : State) (f : Flight) (n : Nat) : State :=
  let k := cKind f.words
  let i := cIndex f.words
  let ws := s.taken k i f.upTo
  let old := s.live
  let s1 := (((s.stageInto ws).dropStaged ws).commitEffects old ws k i n)
  let s2 := { s1 with die := { s1.die with stale := s1.die.stale.filter (fun p => !((scopeLaterals k i).contains (p / 32))) } }
  s2.finish f stOk 0 (some n)

/-! ### SERVICE_REACH starts (R33, R511) -/

/-- A begin starts: it waits for its input cut. Whether it is a second lateral or cluster its fetch has decided (R33). -/
def State.reachBegin (s : State) (f : Flight) : State :=
  if !(s.domOn (scopeDomain (cKind f.words) (cIndex f.words))) then s.finish f stPoweredOff 0
  else if f.busy then s.finish f stReachBusy 0
  else s

def execServiceReachBegin (s : State) : Host.Outcome State Fault Refusal :=
  .next (s.startDesc (isReach true) reachOk (fun s f => s.reachBegin f)).settle

/-- The words of class 0x47 that R114 does not allow. -/
def Tabs.affinityBad (t : Tabs) (c : Nat) : Bool :=
  let w (i : Nat) : Nat := t.word 0x47 c i
  bits (w 0) 31 5 ≠ 0 || decide (16 < bits (w 0) 4 0) || bits (w 1) 31 7 ≠ 0 || bits (w 1) 3 1 ≠ 0 ||
    (List.range 5).any (fun i => w (11 + i) ≠ 0)

/-- Why an end is refused as it starts: R114's table for a cluster, R401's checks for a raster output, R208's for a canvas
that is in service or asked into it. -/
def State.endRefusal (s : State) (f : Flight) (t : Tabs) (ws : List Staged) : Option (Nat × Nat) :=
  let k := cKind f.words
  let i := cIndex f.words
  if k = scCluster then if t.affinityBad i then some (stBadField, 0) else none
  else if k = scRaster ∨ (k = scCanvas ∧ (s.inService k i ∨ reachAsked (s.rings.flight.map (fun g => g.words)) k (fun j => decide (j = i)))) then
    (s.firstBad t ws k i 0x78 0).map (fun r => (stCommitInvalid, r))
  else none

/-- An end starts: its checks, and then it waits for its input cut. -/
def State.reachEnd (s : State) (f : Flight) : State :=
  let k := cKind f.words
  let i := cIndex f.words
  if !(s.domOn (scopeDomain k i)) then s.finish f stPoweredOff 0
  else
    let f1 := { f with upTo := s.stageLatest }
    let ws := s.taken k i f1.upTo
    match s.endRefusal f1 (s.stageInto ws).live ws with
    | some (st, r) => s.finish f st r
    | none => s.setFlight f1

def execServiceReachEnd (s : State) : Host.Outcome State Fault Refusal :=
  .next (s.startDesc (isReach false) reachOk (fun s f => s.reachEnd f)).settle

/-! ### SERVICE_REACH at its input cut -/

/-- Canvas c enters service (R513): its buffers retire, and its pixels hold or go black. -/
def State.canvasEnter (s : State) (c : Nat) (black : Bool) : State :=
  let s1 := (List.range 8).foldl (fun s l => s.dropBuffer c l stSuperseded) s
  let s2 := if black then { s1 with cmp := { s1.cmp with dark := s1.cmp.dark ++ [c] } } else s1
  s2.reachMark R.UPD_REACH_STATUS_canvases c true (56 + 2 * c)

/-- The service of canvas c ends. -/
def State.canvasLeave (s : State) (c : Nat) : State :=
  ({ s with cmp := { s.cmp with dark := s.cmp.dark.filter (· ≠ c) } }).reachMark R.UPD_REACH_STATUS_canvases c false (57 + 2 * c)

/-- A lateral's begin at its cut; while the lateral still returns from a service, it waits for the next one. DESIGN CHOICE: where
another lateral has entered service since the fetch, it answers REACH_BUSY (log entry 105). -/
def State.lateralBegin (s : State) (f : Flight) (l n : Nat) : State :=
  let a := cArg f.words
  match s.die.svc with
  | none => s.latBegin l (if 4 ≤ a then 2 else a / 2 % 2) n (some f.id)
  | some v =>
    if v.lateral ≠ l then s.finish f stReachBusy 0 (some n)
    else if v.ending.isSome then s
    else s.finish f stOk 0 (some n)

/-- A cluster's begin at its cut: it completes when the cluster reports itself in service. DESIGN CHOICE: where a live handover has
taken the other cluster since the fetch, it answers REACH_BUSY (log entry 105). -/
def State.clusterBegin (s : State) (f : Flight) (c n : Nat) : State :=
  if s.inService scCluster c || mget bool0 s.ditch.draining c then s.finish f stOk 0 (some n)
  else if s.inService scCluster (1 - c) || mget bool0 s.ditch.draining (1 - c) then s.finish f stReachBusy 0 (some n)
  else ((s.setLive { s.live_ with svcFlight := some f.id }).clusterEnter c).clusterReports

/-- A begin at its input cut. -/
def State.reachBeginCut (s : State) (f : Flight) (n : Nat) : State :=
  let k := cKind f.words
  let i := cIndex f.words
  let black := cArg f.words / 2 % 2 = 1
  if k = scLateral then s.lateralBegin f i n
  else if k = scCluster then s.clusterBegin f i n
  else if s.inService k i then s.finish f stOk 0 (some n)
  else
    let s1 :=
      if k = scNet then s.macEnter i
      else if k = scRaster then (s.rasService s.live.split i (if black then 2 else 1)).eventOf blkUpd (48 + 2 * i)
      else s.canvasEnter i black
    s1.finish f stOk 0 (some n)

/-- The writes that an end takes in become live. -/
def State.endTake (s : State) (f : Flight) (n : Nat) : State :=
  let k := cKind f.words
  let i := cIndex f.words
  let ws := s.taken k i f.upTo
  let old := s.live
  ((s.stageInto ws).dropStaged ws).commitEffects old ws k i n

/-- A cluster's end at its cut: its table, and the end of its service if it is on the way there or in it. -/
def State.clusterEnd (s : State) (f : Flight) (c n : Nat) : State :=
  let s1 := s.endTake f n
  let s2 := if s1.inService scCluster c || mget bool0 s1.ditch.draining c then (s1.reachDone).clusterLeave c else s1
  s2.finish f stOk 0 (some n)

/-- An end at its input cut. One of a raster output under `split` ends the service of both outputs, also where its own staged writes
clear `split` (DESIGN CHOICE, log entry 106). -/
def State.reachEndCut (s : State) (f : Flight) (n : Nat) : State :=
  let k := cKind f.words
  let i := cIndex f.words
  let was := s.inService k i
  if k = scCluster then s.clusterEnd f i n
  else if k = scRaster then
    let s1 := s.endTake f n
    (if was then (s1.rasService s.live.split i 0).eventOf blkUpd (49 + 2 * i) else s1).finish f stOk 0 (some n)
  else if !was then s.finish f stOk 0 (some n)
  else if k = scLateral then s.latEnd n (some f.id)
  else if k = scNet then
    let s1 := s.macLeave i
    (s1.setLive { s1.live_ with netEnds := s1.live_.netEnds ++ [(i, f.id)] }).macEnds
  else ((s.canvasLeave i).endTake f n).finish f stOk 0 (some n)

end Sys2Proof.Machine
end

