-- ==== Sys2Proof/Machine/Catchup.lean ====
section
/-! DEFINITION. The frame ledger as it travels, and catching a standby up (R428..R430, R434): the engine state, the pages of the Reservoir, and what the active
does of it at each take-in and each staging deadline. -/

namespace Sys2Proof.Machine

/-! ### The ledger as it travels (R428..R430) -/

/-- The bytes of a record: its header and its body. -/
def LedgerRec.bytes (r : LedgerRec) : List Byte :=
  let b := Config.ledgerBody r.kind r.key r.body
  leBytes (r.kind + 256 * b.length) 4 ++ leBytes r.key 4 ++ b

/-- The stage digest (R429): the CRC-32C of the staged frame, then es and en of every feeder. -/
def State.stageDigest (s : State) : Nat :=
  let px := s.cmp.outPixels.flatMap (fun e => e.1 :: e.2)
  let im := s.cmp.outImage.flatMap (fun e => [e.1, e.2.toNat])
  let fd := s.live.feeders.flatMap (fun f => leBytes (s.feeder f).es 4 ++ leBytes (s.feeder f).en 4)
  crcOf crc32c (Config.stagedBytes px im ++ fd)

/-- The records of the open ledger in ascending kind. -/
def sortedRecords (l : List LedgerRec) : List LedgerRec :=
  (List.range 16).flatMap (fun k => l.filter (fun r => r.kind = k))

/-- The bound of R430 in bytes. -/
def State.ledgerBound (s : State) : Nat :=
  let b := 5760000000 * s.live.rateDen / s.live.rateNum
  if s.fbit R.SIP_STATUS_one_lane then b / 2 else b

/-- LTC samples go into the ledger that the next cut opens; every other record leaves with this one. -/
def State.clearLedger (s : State) : State :=
  { s with tandem := { s.tandem with ledger := s.tandem.ledger.filter (fun r => r.kind = ltcWaiting) } }

/-- Whether records leave over the Siphon link. -/
def State.siphonOn (s : State) : Bool := s.tandem.link && !s.tandem.silent

/-! ### Transfer units (R497) -/

/-- The longest transfer unit, and how many one set of keys seals. -/
def siphonUnit : Nat := 65536
def siphonKeyLife : Nat := 2 ^ 32

/-- The key under which this unit sends. -/
def State.siphonKey (s : State) : Option (List Byte) :=
  s.sluice.siph.map (fun k => if s.fbit R.SIP_CTRL_unit then k.2 else k.1)

/-- The nonce of a direction's `n`th unit: the direction bit and a 95-bit counter. DESIGN CHOICE: the highest bit is the direction's, 1
for unit 1, and the bytes stand highest first (log entry 118). -/
def siphonNonce (unit : Bool) (n : Nat) : List Byte := beBytes (b2n unit * 2 ^ 95 + n) 12

/-- Texts sealed as the units from the `n`th on. -/
def sealUnits (key : List Byte) (unit : Bool) : Nat → List (List Byte) → List (List Byte)
  | _, [] => []
  | n, t :: l =>
    let (c, tag) := gcmSeal key (siphonNonce unit n) [] t
    (c ++ tag) :: sealUnits key unit (n + 1) l

/-- A text as transfer units. -/
def siphonPieces (text : List Byte) : List (List Byte) := chunksOf siphonUnit (cdiv text.length siphonUnit) text

/-- A text leaves over the Siphon link as sealed units. DESIGN CHOICE: keys that have sealed 2^32 units seal no more, and nothing leaves
until they are derived again (log entry 118). -/
def State.siphonSend (s : State) (kind : Nat) (text : List Byte) : State :=
  match s.siphonKey with
  | none => s
  | some k =>
    let n := s.sluice.siphUnits
    let l := siphonPieces text
    if siphonKeyLife < n + l.length then s
    else
      (sealUnits k (s.fbit R.SIP_CTRL_unit) n l).foldl (fun s u => s.emit (.siphon kind (u.map (fun b => b.toNat))))
        (s.setSluice { s.sluice with siphUnits := n + l.length })

/-- A message of a kind over the Siphon link. -/
def State.siphonSay (s : State) (kind : Nat) (words : List Nat) : State := s.siphonSend kind (Config.siphonText kind words)

/-! ### The engine state -/

def optWords (o : Option Nat) : List Nat :=
  match o with
  | none => [0, 0]
  | some v => [1, v]

def optOf (a b : Nat) : Option Nat := if a = 0 then none else some b

def pairWords (l : List (Nat × Nat)) : List Nat := l.flatMap (fun e => [e.1, e.2])

/-- The pairs that a list of words holds. -/
def pairsOf : List Nat → List (Nat × Nat)
  | a :: b :: l => (a, b) :: pairsOf l
  | _ => []

/-- Put pairs into a map. -/
def mapOf {β : Type} [DecidableEq β] (d : Nat → β) (l : List (Nat × β)) : List (Nat × β) :=
  l.foldl (fun m e => mset d m e.1 e.2) []

def recWords (r : Rec) : List Nat :=
  [r.src, r.dst, r.start, r.duration, r.curve, r.prio, b2n r.active, b2n r.release, b2n r.wasActive, r.cut]

/-- The fade records that a list of words holds. -/
def recsOf : List Nat → List Rec
  | a :: b :: c :: d :: e :: f :: g :: h :: i :: j :: l =>
    { src := a, dst := b, start := c, duration := d, curve := e, prio := f, active := g = 1, release := h = 1,
      wasActive := i = 1, cut := j } :: recsOf l
  | _ => []

def rillWords (r : Rill) : List Nat :=
  (match r.anchor with
    | none => [0, 0, 0]
    | some (t, p) => [1, t, twos p 64]) ++ [b2n r.running, b2n r.gateOpen, r.openedAt, r.depth, b2n r.fresh]

def rillOf (w : List Nat) : Rill :=
  let g (i : Nat) : Nat := w.getD i 0
  { anchor := if g 0 = 0 then none else some (g 1, sint (g 2) 64), running := g 3 = 1, gateOpen := g 4 = 1,
    openedAt := g 5, depth := g 6, fresh := g 7 = 1 }

def memberWords (m : Member) : List Nat := m.bad.length :: (m.bad ++ pairWords m.good)

def memberOf (w : List Nat) : Member :=
  let n := w.getD 0 0
  { bad := (w.drop 1).take n, good := pairsOf (w.drop (1 + n)) }

/-- A node, on which the states of its members rest: its identity, whether it is silent, what it last applied. -/
def nodeWords (v : Node) : List Nat :=
  [b2n v.reported, v.tMin, v.tPwm, v.uid, v.model, v.channels, v.caps, v.fwd, v.delay, v.hop, v.crcErrors, b2n v.known, b2n v.seen,
    b2n v.configured, b2n v.frame.isSome, v.frame.getD 0, v.applies.length] ++ v.applies.map (fun a => twos a 96) ++
    v.vals.flatMap (fun l => l.length :: l)

/-- The pixels' values that a list of words holds, at most `n` of them. -/
def valsOf : Nat → List Nat → List (List Nat)
  | 0, _ => []
  | _, [] => []
  | n + 1, k :: l => l.take k :: valsOf n (l.drop k)

def nodeOf (w : List Nat) : Node :=
  let g (i : Nat) : Nat := w.getD i 0
  let r := w.drop (17 + g 16)
  { reported := g 0 = 1, tMin := g 1, tPwm := g 2, uid := g 3, model := g 4, channels := g 5, caps := g 6, fwd := g 7, delay := g 8
    hop := g 9, crcErrors := g 10, known := g 11 = 1, seen := g 12 = 1, configured := g 13 = 1
    frame := optOf (g 14) (g 15), applies := ((w.drop 17).take (g 16)).map (fun a => sint a 96), vals := valsOf r.length r }

def taskWords (t : Task) : List Nat :=
  [t.gen, t.kind, t.family, t.source, t.hint, t.prio, (t.host.map (fun h => h + 1)).getD 0, t.hostHandle,
    (match t.st with
      | .waiting => 0
      | _ => 1), t.events, t.held, b2n t.late, b2n t.ended, t.frame, t.ledgerPos] ++ t.args.map (fun a => a.toNat)

/-- A task as it arrives. One that was dispatched on the active is ready here. -/
def taskOf (now : Nat) (w : List Nat) : Task :=
  let g (i : Nat) : Nat := w.getD i 0
  { gen := g 0, kind := g 1, family := g 2, source := g 3, hint := g 4, prio := g 5,
    args := (w.drop 15).map (fun a => BitVec.ofNat 32 a), host := if g 6 = 0 then none else some (g 6 - 1),
    hostHandle := g 7, st := if g 8 = 0 then .waiting else .ready,
    events := g 9, held := g 10, late := g 11 = 1, ended := g 12 = 1, frame := g 13, ledgerPos := g 14, since := now }

def dataWords (b : List Byte) : List Nat := b.length :: b.map (fun x => x.toNat)

def srcWords (v : SacnSrc) : List Nat :=
  [v.cid, v.seq, v.prio, v.heldAddr, b2n v.used, b2n v.data.isSome, b2n v.heldData.isSome, (v.heldData.map (fun h => h.1)).getD 0] ++
    dataWords (v.data.getD []) ++ dataWords ((v.heldData.map (fun h => h.2)).getD [])

def srcOf (now : Nat) (w : List Nat) : SacnSrc :=
  let g (i : Nat) : Nat := w.getD i 0
  let n := g 8
  let d := ((w.drop 9).take n).map (fun x => BitVec.ofNat 8 x)
  let h := (w.drop (10 + n)).map (fun x => BitVec.ofNat 8 x)
  { cid := g 0, seq := g 1, prio := g 2, data := if g 5 = 1 then some d else none, heldAddr := g 3,
    heldData := if g 6 = 1 then some (g 7, h) else none, lastAt := now, heldAt := now, used := g 4 = 1 }

/-- The slots that gate and scale valid contexts. -/
def Tabs.rillSlots (t : Tabs) : List Nat :=
  ((t.entries 0x06 0 64).filter (fun i => t.rillValid i)).flatMap (fun i => [t.rillGateSlot i, t.rillDepthSlot i])

/-- The engine state of R434: its parts by number, as listed there (0 fade records and history, 1 Rills, 2 applied delays,
3 sent_f, 4 H, 5 members, 6 to 8 the Ditchrider's pool, generations and ready lists, 9 keep areas, 10 sACN sources, 11 sequence
numbers, 12 the staging count, 13 S), the live tables and staged writes (14, 15), which travel in the pages, and the latest final
values of the slots that gate and scale the Rills (16), and which of the copies in the flatten cache are in use (17 by canvas, 18 by
layer), as the pages bring the cache; and the nodes, on which the member states rest (19), with those that are silent (20). -/
def State.engineState (s : State) : List EngineRec :=
  let one (p : Nat) {β : Type} (l : List (Nat × β)) (f : β → List Nat) : List EngineRec := l.map (fun e => ⟨p, e.1, f e.2⟩)
  one 0 s.fabric.pos (fun l => l.flatMap recWords) ++ one 1 s.fabric.rills rillWords ++ one 2 s.fabric.applied (fun v => [v]) ++
    one 3 s.water.feeders (fun f => [f.ks, f.kn, f.es, f.en, f.sent, b2n f.fresh]) ++
    one 4 s.water.zones (fun z => [z.h, z.need, z.prev] ++ optWords z.ack) ++ one 5 s.water.members memberWords ++
    one 6 (s.ditch.pool.filterMap (fun e => e.2.map (fun t => (e.1, t)))) taskWords ++ one 7 s.ditch.gens (fun v => [v]) ++
    one 8 s.ditch.ready (fun l => l) ++ one 9 s.die.ports (fun p => pairWords (p.flow.keep.map (fun k => (k.1, k.2.toNat)))) ++
    one 10 s.net.sources srcWords ++ one 11 s.net.seqs (fun v => [v]) ++ [⟨12, 0, [s.rings.stageNext]⟩] ++
    one 13 s.time.clock.sh (fun v => [twos v 96]) ++
    one 14 s.tables (fun m => pairWords (m.map (fun c => (c.1, c.2.toNat)))) ++
    s.rings.staged.map (fun w => ⟨15, w.number, [w.cls, w.inst, w.offset] ++ w.bytes.map (fun b => b.toNat)⟩) ++
    one 16 (s.fabric.final.filter (fun e => s.live.rillSlots.contains e.1)) (fun v => [v]) ++
    one 17 s.cmp.canvases (fun v => optWords v.flat ++ optWords v.flatNext ++ optWords v.refillFrom) ++
    s.cmp.canvases.flatMap (fun e => e.2.layers.map (fun l => ⟨18, 8 * e.1 + l.1, optWords l.2.hold⟩)) ++
    one 19 s.nodes nodeWords ++ one 20 s.water.mute (fun v => [v])

/-- What arrives takes the place of what this device held. -/
def State.clearEngine (s : State) : State :=
  { s with
    fabric := { s.fabric with pos := [], rills := [], applied := [], final := [] }
    water := { s.water with feeders := [], members := [], mute := [] }
    ditch := { s.ditch with pool := [], gens := [], ready := [] }
    net := { s.net with sources := [], seqs := [] }
    rings := { s.rings with staged := [] }
    cmp := { s.cmp with canvases := canvasMap Canvas.lost s.cmp.canvases }
    tables := [], nodes := [] }

/-- A piece of the fabric's or the Watermaster's state. -/
def State.loadFabric (s : State) (r : EngineRec) : State :=
  let w := r.words
  let g (i : Nat) : Nat := w.getD i 0
  match r.part with
  | 0 => { s with fabric := { s.fabric with pos := mset nil0 s.fabric.pos r.key (recsOf w) } }
  | 1 => s.setRill r.key (rillOf w)
  | 2 => { s with fabric := { s.fabric with applied := mset nat0 s.fabric.applied r.key (g 0) } }
  | 3 => s.setFeeders (mset fd0 s.water.feeders r.key
      { ks := g 0, kn := g 1, es := g 2, en := g 3, sent := g 4, fresh := g 5 = 1 })
  | 4 => s.setZone r.key { s.zone r.key with h := g 0, need := g 1, prev := g 2, ack := optOf (g 3) (g 4) }
  | 5 => s.setMember r.key (memberOf w)
  | _ => s

/-- A piece of the Ditchrider's, the ports', the network's or the rings' state. -/
def State.loadRest (s : State) (r : EngineRec) : State :=
  let w := r.words
  let g (i : Nat) : Nat := w.getD i 0
  match r.part with
  | 6 => { s with rings := { s.rings with nextId := max s.rings.nextId (g 6) } }.setTask r.key (some (taskOf s.now w))
  | 7 => { s with ditch := { s.ditch with gens := mset nat0 s.ditch.gens r.key (g 0) } }
  | 8 => { s with ditch := { s.ditch with ready := mset nil0 s.ditch.ready r.key w } }
  | 9 => s.setPort r.key { s.port r.key with flow := { (s.port r.key).flow with
        keep := mapOf word0 ((pairsOf w).map (fun e => (e.1, BitVec.ofNat 32 e.2))) } }
  | 10 => { s with net := { s.net with sources := mset src0 s.net.sources r.key (srcOf s.now w) } }
  | 11 => { s with net := { s.net with seqs := mset nat0 s.net.seqs r.key (g 0) } }
  | 12 => { s with rings := { s.rings with stageNext := g 0 } }
  | 13 => s.setSh r.key (sint (g 0) 96)
  | 14 => { s with tables := mset nil0 s.tables r.key (mapOf (tableDefault (r.key / 65536) (r.key % 65536)) ((pairsOf w).map (fun e => (e.1, BitVec.ofNat 8 e.2)))) }
  | 15 => { s with rings := { s.rings with staged := s.rings.staged ++
      [⟨g 0, g 1, g 2, (w.drop 3).map (fun x => BitVec.ofNat 8 x), r.key⟩] } }
  | 16 => { s with fabric := { s.fabric with final := mset nat0 s.fabric.final r.key (g 0) } }
  | 17 => (s.setCanvas r.key { s.canvas r.key with
      flat := optOf (g 0) (g 1), flatNext := optOf (g 2) (g 3), refillFrom := optOf (g 4) (g 5) }).fsetBit
        R.CMP_STATUS_flatten_pending r.key (g 4 = 1)
  | 19 => { s with nodes := mset nd0 s.nodes r.key (nodeOf w) }
  | 18 => s.setLayer (r.key / 8) (r.key % 8) { s.layerSt (r.key / 8) (r.key % 8) with hold := optOf (g 0) (g 1) }
  | _ => s

def State.loadEngine (s : State) (r : EngineRec) : State := if r.part < 6 then s.loadFabric r else s.loadRest r

/-! ### Pages -/

def pageSize : Nat := 65536

/-- The bytes of a page. -/
def pageBytes (m : Memory) (k : Nat) : List Byte := memRead m (pageSize * k) pageSize

/-- The listed bytes of a page. -/
def pageCells (m : Memory) (k : Nat) : Memory := m.filter (fun c => decide (c.1 / pageSize = k))

/-- Whether a page lies in a range of 64 KiB units. -/
def inUnits (base n k : Nat) : Bool := decide (base ≤ k ∧ k < base + n)

/-- The pages apart from video histories and the dock. -/
def State.catchPage (s : State) (k : Nat) : Bool :=
  !(inUnits (s.fget R.SIP_DOCK_BASE_base_64k) (16 * s.fget R.SIP_DOCK_SIZE_size_mib) k) &&
    (List.range 4).all (fun v =>
      !(inUnits (s.fget R.NET_VID_HIST_BASE_base_64k v) (cdiv (s.fget R.NET_VID_HIST_BASE_frames v * s.vidBytes v) pageSize) k))

/-- Every page of the Reservoir that is sent. -/
def State.allPages (s : State) : List Nat := (List.range (reservoirSize / pageSize)).filter (fun k => s.catchPage k)

/-- The pages where two memories differ. -/
def State.changedPages (s : State) (a b : Memory) : List Nat :=
  let l := ((a.filter (fun c => !(b.contains c))) ++ (b.filter (fun c => !(a.contains c)))).map (fun c => c.1 / pageSize)
  ascending (l.eraseDups.filter (fun k => s.catchPage k))

/-- A page's cost on the link: an all-zero page goes as a marker of 16 bytes. -/
def pageCost (m : Memory) (k : Nat) : Nat := if pageCells m k = [] then 16 else pageSize

/-- As many of the pages as fit. -/
def pagesIn (m : Memory) : Nat → List Nat → List Nat
  | _, [] => []
  | room, k :: l => if pageCost m k ≤ room then k :: pagesIn m (room - pageCost m k) l else []

def State.showLeft (s : State) : State := s.fset R.SIP_CATCHUP_LEFT_pages s.tandem.pages.length

def State.setTandem (s : State) (t : Tandem) : State := { s with tandem := t }

/-- What the link carries in one period, in bytes (R424). -/
def State.linkBytes (s : State) : Nat :=
  let b := 6250000000 * s.live.rateDen / s.live.rateNum
  if s.fbit R.SIP_STATUS_one_lane then b / 2 else b

/-- Pages leave, as a memory holds them, and the standby's copy follows. -/
def State.sendPages (s : State) (m : Memory) (l : List Nat) : State :=
  let s1 := l.foldl (fun s k => s.siphonSay 0x20 (k :: (pageCells m k).flatMap (fun c => [c.1 % pageSize, c.2.toNat]))) s
  s1.setTandem { s1.tandem with
    pages := s1.tandem.pages.filter (fun k => !(l.contains k)),
    sentMem := (m.filter (fun c => l.contains (c.1 / pageSize))).foldl (fun a c => memSet a c.1 c.2)
      (s1.tandem.sentMem.filter (fun c => !(l.contains (c.1 / pageSize)))) }

/-- Whether a part stands in the engine state of R434: the others are what the pages of the Reservoir bring on the device. -/
def EngineRec.counts (r : EngineRec) : Bool := decide (r.part < 14)

/-- Pages and engine state of a frame's take-in, as bytes on the link. -/
def stateCost (m : Memory) (pages : List Nat) (l : List EngineRec) : Nat :=
  pages.foldl (fun n k => n + pageCost m k) 0 + ((l.filter EngineRec.counts).foldl (fun n r => n + 8 + 4 * r.words.length) 0)

/-- Before the take-in of a frame the active tries to bring the standby current with it (R434, 3): pages, engine state and a
ledger like the latest fit within the bound. -/
def State.tryCatch (s : State) (n : Nat) : State :=
  if s.tandem.catchPhase = 2 && s.siphonOn then
    let dirty := s.changedPages s.mem.reservoir s.tandem.sentMem
    if stateCost s.mem.reservoir dirty s.engineState + s.fget R.SIP_LEDGER_LAST ≤ s.ledgerBound then
      s.setTandem { s.tandem with catchPhase := 3, catchFrame := n }
    else s
  else s

/-- The memory and the engine state are kept as they stand at the end of that take-in (R434, 4). -/
def State.keepCatch (s : State) (n : Nat) : State :=
  if s.tandem.catchPhase = 3 && s.tandem.catchFrame = n && s.siphonOn then
    (s.setTandem { s.tandem with
      pages := s.changedPages s.mem.reservoir s.tandem.sentMem, takenMem := s.mem.reservoir, takenState := s.engineState }).showLeft
  else s

/-- Back to the dirty pages (R434, 2). -/
def State.abandonCatch (s : State) : State :=
  (s.setTandem { s.tandem with
    catchPhase := 2, takenMem := [], takenState := [],
    pages := s.changedPages s.mem.reservoir s.tandem.sentMem }).showLeft

/-- The pages written since the take-in, as the dock took them. -/
def State.dockPages (s : State) : List Nat :=
  (s.tandem.pages).filter (fun k => (s.changedPages s.mem.reservoir s.tandem.takenMem).contains k)

/-- The dock holds what those pages held. -/
def State.fillDock (s : State) (l : List Nat) : State :=
  let base := s.fget R.SIP_DOCK_BASE_base_64k * pageSize
  ((List.range l.length).zip l).foldl (fun s e =>
    let m := memWrite s.mem.reservoir (base + pageSize * e.1) (pageBytes s.tandem.takenMem e.2)
    { s with mem := { s.mem with reservoir := m } }) s

/-- At −P the active sends what this frame's ledger, of `used` bytes, leaves room for. -/
def State.catchStep (s : State) (n used : Nat) : State :=
  let t := s.tandem
  if !s.siphonOn ∨ t.catchPhase = 0 then s
  else if t.catchPhase = 3 then
    if t.catchFrame ≠ n then s.abandonCatch
    else
      let dock := s.dockPages
      if 16 * s.fget R.SIP_DOCK_SIZE_size_mib < dock.length ∨
          s.ledgerBound < used + stateCost t.takenMem t.pages t.takenState then s.abandonCatch
      else
        let s1 := (s.fillDock dock).sendPages t.takenMem t.pages
        let s2 := t.takenState.foldl (fun s r => s.siphonSay 0x21 (r.part :: r.key :: r.words)) s1
        (s2.setTandem { s2.tandem with catchPhase := 0, takenMem := [], takenState := [] }).showLeft
  else
    let l := pagesIn s.mem.reservoir (s.linkBytes - used) t.pages
    let s1 := s.sendPages s.mem.reservoir l
    if s1.tandem.pages = [] then
      (s1.setTandem { s1.tandem with catchPhase := 2, pages := s1.changedPages s1.mem.reservoir s1.tandem.sentMem }).showLeft
    else s1.showLeft

end Sys2Proof.Machine
end

