-- ==== Sys2Proof/Machine/Frame.lean ====
section
/-! DEFINITION. The show frame (R22, R588): the input cut, the cue deadline, the end of the member pass, staging, the staging
deadline and the frame instant, with what each holds. -/

namespace Sys2Proof.Machine

/-! ### When frames pass -/

/-- The frame clock runs: TIME has power and no start runs that places it afresh (R590). -/
def State.clockRuns (s : State) : Bool :=
  s.domOn .net && (s.power.start = 0 || s.power.start = 2 || s.power.start = 5)

/-- Whether this device evaluates frame `n`: in SHOW and IDLE, until the pixel pipeline is asked to agree to a sleep (R452) or a stop
begins (R471); a standby follows the ledger instead, and a new active begins with its first own frame (R437). -/
def State.evalOn (s : State) (n : Nat) : Bool :=
  s.clockRuns && s.domOn .pix && s.domOn .sys && decide (s.pmState ≤ pmIdle) && s.power.start ≠ 2 &&
    !(s.quiesced 0x0C) && s.power.stopAt = none && !s.isStandby && decide (s.tandem.ownFrame ≤ n)

/-! ### Descriptors at an input cut (R57, R63, R64) -/

/-- The frame-timed descriptors due at the cut of frame `n`, in the order of R63. -/
def State.dueFlights (s : State) (n : Nat) : List Flight :=
  (List.range 32).flatMap (fun r => s.rings.flight.filter (fun f =>
    f.ring = r && frameTimed (dOpcode f.words) && !f.applied && decide (f.target ≤ n)))

/-- A begin that waits for the lateral in service to return. -/
def State.reachWaits (s : State) (f : Flight) : Bool :=
  isReach true f.words && cKind f.words = scLateral && s.die.svc.any (fun v => v.ending.isSome)

/-- R57 at the cut itself: a descriptor whose own cut passed without an evaluation is late, or too late. -/
def State.lateAt (s : State) (n : Nat) (f : Flight) : State :=
  if f.target < n ∧ ¬ s.reachWaits f then
    if dStrict f.words then s.finish f stTooLate 0
    else
      let s1 := s.setFlight { f with target := n, late := true }
      if f.late then s1 else s1.bumpF R.HOST_RING_LATE_COUNT f.ring
  else s

/-- A descriptor that the cut applies is entered in the ledger, with its ring's `sq_head` and the staging number that a COMMIT
takes writes up to. -/
def State.hostRecord (s : State) (f : Flight) : State :=
  s.ledgerAdd 0x02 f.ring (s.fget R.HOST_RING_STATUS_sq_head f.ring :: f.upTo :: b2n f.late :: f.words.map (fun w => w.toNat))

/-- SERVICE_REACH at its cut. -/
def State.reachCut (s : State) (f : Flight) (n : Nat) : State :=
  if s.reachWaits f then s
  else
    let f1 := { f with applied := true }
    let s1 := (s.hostRecord f).setFlight f1
    if isReach true f.words then s1.reachBeginCut f1 n else s1.reachEndCut f1 n

/-- The COMMITs and SERVICE_REACHes of a cut. -/
def State.cutCommits (s : State) (n : Nat) (l : List Flight) : State :=
  l.foldl (fun s g =>
    match s.flight g.id with
    | none => s
    | some f =>
      if isOp 0x03 f.words then (s.hostRecord f).commitCut f n
      else if isOp 0x0D f.words then s.reachCut f n
      else s) s

/-- The views before and after each COMMIT of a cut. -/
def State.commitViews (s : State) (n : Nat) : List Flight → List (Tabs × Tabs)
  | [] => []
  | g :: l =>
    let t := s.cutCommits n [g]
    (s.live, t.live) :: t.commitViews n l

/-- Whether a COMMIT among these sets every applied delay to its target (R149). -/
def delaysJump (l : List Flight) : Bool := l.any (fun f => isOp 0x03 f.words && cArg f.words = 1)

/-- The SET_VALUES of a cut. -/
def State.cutValues (s : State) (n : Nat) (l : List Flight) : State :=
  l.foldl (fun s g =>
    match s.flight g.id with
    | some f => if isOp 0x05 f.words then ((s.hostRecord f).applyValues f).finish f stOk 0 (some n) else s
    | none => s) s

/-- The LAYER_FRAMEs of a cut. -/
def State.cutLayers (s : State) (l : List Flight) : State :=
  l.foldl (fun s g =>
    match s.flight g.id with
    | some f => if isOp 0x04 f.words then (s.hostRecord f).applyLayerFrame f else s
    | none => s) s

/-- The releases of a cut: POST_TASKs in the order of R63, then PERIODIC tasks (R108). In IDLE the PERIODIC releases are
suspended; in SHOW the cut lets dispatch resume (R111). -/
def State.cutTasks (s : State) (n : Nat) (l : List Flight) : State :=
  let s1 := l.foldl (fun s g =>
    match s.flight g.id with
    | some f => if isOp 0x06 f.words then
        ((s.hostRecord f).setFlight { f with applied := true }).releaseHost f else s
    | none => s) s
  if s.pmState = pmShow ∧ s.power.start = 0 then
    let s2 := s1.releasePeriodic n
    { s2 with ditch := { s2.ditch with paused := false } }
  else s1

/-! ### Time at an input cut (R368..R372) -/

/-- The instant of frame `n`, as its cut comes: a lattice that a TIME commit changed is placed, else the next instant. -/
def State.cutLattice (s : State) (n : Nat) (moved : Bool) : State :=
  if moved then s.place s.clockSource ((s.lockBase s.clockSource).t - (s.lockBase s.time.clock.onBase).t)
  else if n ≤ 1 then s
  else s.setTf n (s.latticeFrom (s.tfOf (n - 1) + 1))

/-- Instants and SHOW readings of frames long past are forgotten. -/
def State.trimClock (s : State) (n : Nat) : State :=
  let c := s.time.clock
  s.setClock { c with
    tf := c.tf.filter (fun e => decide (n ≤ e.1 + 4)), sh := c.sh.filter (fun e => decide (n ≤ e.1 + 4)),
    modes := c.modes.filter (fun e => decide (n ≤ e.1 + 4)) }

/-- Whether the live set-up asks for `show_value`. -/
def State.showSet (s : State) : Bool := s.tword 0x15 0 0 / 2 ^ 27 % 2 = 1

/-- `show_set` acts once, at frame `n`: it clears, and in CHASE `chase_offset` is replaced (R368, R383). -/
def State.showTaken (s : State) (n : Nat) : State :=
  if s.showSet then
    let v := s.live.timePair 4
    let b := s.tword 0x15 0 0 / 2 ^ 24 - 8
    let s1 := s.setTable 0x15 0 (tabWrite 0x15 0 (s.table 0x15 0) 3 (leBytes b 1))
    if s.showMode = 1 then s1.setTimePair 7 (v - s.tcodeAt (s.tfOf n)) else s1
  else s

/-- S of frame `n` (R368). -/
def State.takeShow (s : State) (n : Nat) : State :=
  if s.showSet then (s.showTaken n).setSh n (s.live.timePair 4) else s.setSh n (s.showFor n)

/-- φ(n), and the TIME cycle of the cut. -/
def State.takePhi (s : State) (n : Nat) : State :=
  { s with fabric := { s.fabric with phi := phiOf (s.shOf n), cutAt := s.now } }

/-- The air temperature samples of a cut (R148). -/
def State.sampleAir (s : State) : State :=
  { s with fabric := { s.fabric with
      air := (List.range 16).foldl (fun m k => mset nat0 m k (s.airSample k)) [] } }

/-- The CUT record (R428), with the change of frame number since the previous one. -/
def State.cutRecord (s : State) (n : Nat) (br : Bool) : State :=
  let s1 := s.ledgerAdd 0x01 n ([twos (s.shOf n) 96, s.fabric.phi, b2n (s.time.clock.placing = some n), b2n br] ++
    (List.range 16).map (fun k => mget nat0 s.fabric.air k) ++ [twos s.basin.shift 64])
  s1.setBasin { s1.basin with shift := 0 }

/-- The TALLY records: every stamp since the previous cut (R379). -/
def State.tallyRecords (s : State) : State :=
  let s1 := s.time.tallyLedger.foldl (fun s e =>
    s.ledgerAdd 0x05 e.tally [b2n e.rising, e.base, e.frame, twos e.t 96]) s
  { s1 with time := { s1.time with tallyLedger := [] } }

/-! ### Basins at an input cut (R419, R548) -/

/-- A basin reset: every task ends, both clusters are reset, and the loader writes their code from the boot image. -/
def State.basinReset (s : State) : State :=
  let s1 := ((s.endTasks.coreRunWrite 0 0).coreRunWrite 1 0)
  let s2 := ((s1.resetDomain .coreA).resetDomain .coreB).loadBoot
  s2.releaseCores.recordReset R.RST_CAUSE_basin 6 (some 5)

/-- A snapshot: the four time records, then the counters; an event. -/
def State.snapshot (s : State) : State :=
  let b := s.timeRecords ++ s.counterWords.flatMap (fun w => leBytes w.toNat 4)
  let a := s.fget R.BSN_SNAP_BASE_base_64k * 65536
  (s.resPut a b).eventOf blkBsn 0x200

def State.cutSnapshots (s : State) (n : Nat) : State :=
  let l := s.basin.snaps.filter (fun f => decide (f ≤ n))
  l.foldl (fun s _ => s.snapshot) (s.setBasin { s.basin with snaps := s.basin.snaps.filter (fun f => decide (n < f)) })

/-! ### The input cut (R22) -/

/-- The clock's part of the cut of frame `n`. -/
def State.openCut (s : State) (n : Nat) : State := s.setClock { s.time.clock with cutFrame := n }

/-- What the cut does before the inputs are taken: the fields of the frame, the finished flattened copies, the colour tables
after PD_PIX was off, and the handover's step. -/
def State.beginFrame (s : State) : State :=
  let s1 := s.setClock { s.time.clock with cueClosed := false, staged := false, evaluating := true }
  let s2 := { s1 with
    fabric := { s1.fabric with memberDone := false } }
  let s3 := ((List.range 4).foldl (fun s c => s.swapFlat c) s2).dropDraining
  ((s3.fset R.CMP_STATUS_torn_last 0).reloadColour).handover

/-- The LTC samples taken in up to the cut enter its ledger (R376). -/
def State.openLedger (s : State) : State :=
  { s with tandem := { s.tandem with ledger := s.tandem.ledger.map (fun r => if r.kind = ltcWaiting then { r with kind := 0x06 } else r) } }

/-- The fabric takes in the writers of R140 as far as the ledger does not carry them: delays, Rill anchors, cue snaps and the
fade queues. `views` are those before and after each of the cut's commits. -/
def State.cutFabric (s : State) (views : List (Tabs × Tabs)) (n : Nat) (jump : Bool) : State :=
  ((((s.takeDelays jump).rillsCommitted views).releaseHistory).takeSnaps n).takeFades n

/-- The last part of the cut: refills start, the Rills run, and the history pool is shown. -/
def State.cutEnd (s : State) (n : Nat) : State :=
  let s1 := (((List.range 4).foldl (fun s c => s.startRefill c) s).takeAsk n).rillPass
  s1.fset R.PF_HISTORY_USED_records s1.historyUsed

/-- The inputs of frame `n`, evaluated here. -/
def State.cutInputs (s : State) (n : Nat) (br : Bool) : State :=
  let s0 := (s.dueFlights n).foldl (fun s f => s.lateAt n f) (s.tryCatch n).beginFrame.openLedger
  let l := s0.dueFlights n
  let old := s0.live
  let s1 := s0.cutCommits n l
  let s2 := ((s1.cutLattice n (latticeChanged old s1.live)).takeShow n).takePhi n
  let s3 := ((s2.sampleAir).cutRecord n br).tallyRecords
  let s4 := ((s3.cutFabric (s0.commitViews n l) n (delaysJump l)).sacnCut n).envCut n
  let s5 := (s4.cutValues n l).cutLayers l
  (((s5.cutTasks n l).pickVideos).keepCatch n).cutEnd n

/-! ### The cue deadline and the member pass (R104, R105, R152) -/

/-- The handles of the frame-bound tasks past their deadline. -/
def State.lateHandles (s : State) (n : Nat) : List Nat :=
  s.ditch.pool.filterMap (fun e =>
    match e.2 with
    | some t => if s.frameBound t && t.frame = n && !t.late && t.st ≠ .waiting then some (knownHandle t e.1) else none
    | none => none)

/-- The frame-bound tasks that the active named late are late here, whatever this device's own timing (R105). -/
def State.forceLate (s : State) (hs : List Nat) (n : Nat) : State :=
  s.ditch.pool.foldl (fun s e =>
    match s.task e.1 with
    | some t => if s.frameBound t && t.frame = n && !t.late && hs.contains (knownHandle t e.1) then s.deadlineTask e.1 t else s
    | none => s) s

/-- Sub-tick 20 of the frame in evaluation. On a standby, a task late here that the active's was not makes it NOT_CURRENT. -/
def State.cueClose (s : State) : State :=
  let c := s.time.clock
  if c.evaluating && !c.cueClosed then
    let n := s.evalFrame
    let late := s.lateHandles n
    let s1 :=
      if s.shadows then
        let hs := (s.heard 0x09).flatMap (fun r => r.body)
        let s2 := s.forceLate hs n
        if late.all (fun h => hs.contains h) then s2 else (s2.cueDeadline n).notCurrent causeLateTask
      else (if late = [] then s else s.ledgerAdd 0x09 0 late).cueDeadline n
    let s3 := s1.latchTails
    s3.setClock { s3.time.clock with cueClosed := true }
  else s

def execCueDeadline (s : State) : Host.Outcome State Fault Refusal := .next s.cueClose.settle

def execMemberPassEnd (s : State) : Host.Outcome State Fault Refusal :=
  .next (if s.time.clock.evaluating then s.memberPassEnd else s).settle

/-! ### Staging (R588) -/

/-- The staged frame and its pictures are complete. -/
def State.frameStaged (s : State) (host after : HostView) : State :=
  let c := s.time.clock
  if c.evaluating && s.fabric.memberDone && !c.staged then
    let s1 := (s.composeFrame host after).fset R.CMP_COMPOSE_TIME (nsSince s s.fabric.cutAt)
    s1.setClock { s1.time.clock with staged := true }
  else s

def execFrameStaged (host after : HostView) (s : State) : Host.Outcome State Fault Refusal :=
  .next (s.frameStaged host after).settle

/-! ### The ledger's end (R428..R430) -/

/-- What an active does with its closed ledger of frame `n`: its size, and over the link what catching up sends, the transfer,
and the Gauges that the link feeds. -/
def State.sendLedger (s : State) (n : Nat) (l : List LedgerRec) : State :=
  let b := l.flatMap LedgerRec.bytes
  let s0 := (s.fset R.SIP_LEDGER_LAST b.length).fset R.SIP_LEDGER_MAX (max b.length (s.fget R.SIP_LEDGER_MAX))
  let s1 := s0.catchStep n b.length
  if s1.siphonOn then
    (l.foldl (fun s r => s.siphonSend r.kind r.bytes) s1).gaFeedAll gaTx b s1.time.clock.stageFrame
  else s1

/-- The ledger of frame `n` closes, and its transfer begins. -/
def State.closeLedger (s : State) (n : Nat) : State :=
  let l := sortedRecords s.tandem.ledger
  let close : LedgerRec := ⟨0x0F, n, [l.length, b2n s.time.clock.repeatNow, s.stageDigest]⟩
  let s1 := if s.role = roleActive then s.sendLedger n (l ++ [close]) else s
  s1.clearLedger

/-! ### The staging deadline (R22, R31, R588) -/

/-- Buffers of the video histories are free again. -/
def State.unpin (s : State) : State :=
  (List.range 4).foldl (fun s k =>
    let v := s.vid k
    s.setVid k { v with bufs := v.bufs.map (fun e => (e.1, { e.2 with pinned := false })) }) s

/-- A layer that the frame in evaluation fetches each frame (R200). -/
def State.fetches (s : State) (c l : Nat) : Bool :=
  s.composes c && (s.live.dynLayers c).contains l && (s.live.layer c l).source = srcBuffer

/-- An abandoned frame's fetches, which count as fetched (R210): of those layers of `fetched` that the frame reads. -/
def State.fetchAbandoned (s : State) (fetched : List (Fin 4 × Fin 8)) (host after : HostView) : State :=
  (fetched.eraseDups.filter (fun e => s.fetches e.1 e.2)).foldl (fun s e => (s.fetchLayer host after e.1 e.2).1) s

/-- Frame `n` is repeated (R31, R210): counted and reported, with what stopped it: a canvas that was to be
composed and is not, a member pass that has not ended. -/
def State.repeatFrame (s : State) (n : Nat) (passed : Bool) : State :=
  let s1 := ((s.bumpF R.GLB_FRAME_REPEAT_COUNT).report 0x01 0).rasFillLate
  let s2 := if !s.time.clock.evaluating then s1
    else
      let c1 := if (List.range 4).any (fun c => s1.composes c) then
          (s1.bumpF R.CMP_OVERRUN_COUNT).fset R.CMP_STATUS_overrun_last 1
        else s1
      if !passed && c1.fbit R.PF_CTRL_eval_enable then (c1.bumpF R.PF_OVERRUN_COUNT).fset R.PF_STATUS_overrun_last 1 else c1
  s2.wmStage n false

/-- Throttled frames are counted (R470). -/
def State.countThrottled (s : State) (repeated : Bool) : State :=
  if s.fget R.TH_STATUS_level = 0 then s
  else
    let s1 := s.bumpF R.TH_THROTTLE_FRAMES
    if repeated then s1.bumpF R.TH_THROTTLE_REPEAT_COUNT else s1

/-! ### The end of a frame of the ledger (R429, R431, R437) -/

/-- The digests agree: a standby that catches up is current. -/
def State.digestsAgree (s : State) : State :=
  if s.isStandby && s.tandem.catchPhase = 3 then
    ((s.fset R.SIP_STATUS_current 1).fset R.SIP_STATUS_cause 0).setTandem { s.tandem with catchPhase := 0 }
  else s

def State.digestDiffers (s : State) : State :=
  let s1 := (s.bumpF R.SIP_DIGEST_MISMATCH_COUNT).notCurrent causeDigest
  s1.setTandem { s1.tandem with catchPhase := 0 }

/-- The digests of a staged frame are compared, at its deadline. -/
def State.tellDigest (s : State) : State :=
  match s.tandem.digestHeld with
  | none => s
  | some same =>
    let s1 := s.setTandem { s.tandem with digestHeld := none }
    if same then s1.digestsAgree else s1.digestDiffers

/-- The frame is staged, or repeated as the active or this device repeats it; whether its digest is that of CLOSE is kept for its
deadline. -/
def State.shadowStage (s : State) (n : Nat) (close : List Nat) : State :=
  let c := s.time.clock
  let ok := c.staged && close.getD 1 0 = 0
  let s1 :=
    if ok then
      let s2 := (s.wmStage n true).countThrottled false
      s2.setClock { s2.time.clock with contentLast := n, repeatNow := false }
    else
      let s2 := (s.repeatFrame n s.fabric.memberDone).countThrottled true
      s2.setClock { s2.time.clock with repeatNow := true }
  s1.setTandem { s1.tandem with digestHeld := some (decide (s1.stageDigest = close.getD 2 0)) }

/-- The frame is done with. -/
def State.endShadow (s : State) (n : Nat) : State :=
  let c := s.time.clock
  let s1 := s.setClock { c with stageFrame := max c.stageFrame n, evaluating := false, staged := false }
  ((s1.setTandem { s1.tandem with
    started := false, reading := false, ledger := s1.tandem.ledger.filter (fun r => !s1.isStandby && r.kind = ltcWaiting) }).unpin).sacnFrame

/-- CLOSE of the frame in hand. -/
def State.closeRec (s : State) : Option LedgerRec := s.tandem.received.find? (fun r => r.kind = 0x0F)

/-- Whether the frame in hand can be staged before its deadline: its pixels are complete, or its active repeated it. -/
def State.stageEarly (s : State) : Bool := s.closeRec.any (fun r => s.time.clock.staged || r.body.getD 1 0 = 1)

/-- The frame in hand is staged before its deadline, and done with, unless the digest of the one before it ends its evaluation. -/
def State.stageShadow (s : State) : State :=
  let n := s.tandem.eval
  match s.closeRec with
  | some r =>
    let s1 := s.tellDigest
    if s1.tandem.started then (s1.shadowStage n r.body).endShadow n else s1
  | none => s

/-- A new active evaluates its own frames from now on: what it has in hand of its shadow schedule is staged if it can be, and else
abandoned (R437; DESIGN CHOICE, log entry 70). -/
def State.closeShadow (s : State) : State :=
  if s.tandem.started then
    let s1 := if s.stageEarly then s.stageShadow else s.endShadow s.tandem.eval
    s1.setTandem { s1.tandem with startHeld := false, digestHeld := none }
  else s

/-! ### A frame's staging deadline -/

/-- The Watermaster and the Headgate at the staging deadline of frame `n`: the frame staged, or a repeat of the last. -/
def State.stageOutputs (s : State) (n : Nat) (staged passed : Bool) : State :=
  let mark (s : State) (r : Bool) : State := s.setClock { s.time.clock with repeatNow := r }
  if s.power.stopAt = some n then mark ((s.wmStage n false).countThrottled false) false
  else if s.power.stopAt.isSome then
    let s1 := if s.fbit R.TH_CTRL_crit_hold then s else { s with water := { s.water with black := 1, blackFrame := some n } }
    mark ((s1.wmStage n false).countThrottled false) false
  else if staged then
    let s1 := (s.wmStage n true).countThrottled false
    mark (s1.setClock { s1.time.clock with contentLast := n }) false
  else mark ((s.repeatFrame n passed).countThrottled true) true

/-- The Headgate arms every launch stage with the instant of frame `n` (R374). -/
def State.armHeadgate (s : State) (n : Nat) : State :=
  let s1 := (s.armPorts).armRasters n
  s1.setClock { s1.time.clock with armed := [(n, s1.localAt (s1.lockBase s1.time.clock.onBase) (s1.tfOf n))] }

/-- STAGING_DEADLINE of the frame of the latest cut. A standby stages on its own schedule; in WATCH only the clock goes on.
`fetched` are the layers that a frame not staged has read by then, as `host` and `after` show host memory. -/
def State.stagingDeadline (s : State) (fetched : List (Fin 4 × Fin 8)) (host after : HostView) : State :=
  let c := s.time.clock
  let n := c.stageFrame + 1
  if !s.clockRuns || decide (c.cutFrame ≤ c.stageFrame) || s.isStandby then s
  else
    let s0 := s.setClock { c with stageFrame := n }
    let s1 :=
      if s0.domOn .pix && s0.domOn .sys then
        let own := c.evaluating && !s.tandem.started
        let s1 := if own && !c.staged then s0.fetchAbandoned fetched host after else s0
        let s2 := (((s1.fset R.CMP_STATUS_overrun_last 0).stageOutputs n (own && c.staged) (own && s.fabric.memberDone)).unpin).closeLedger n
        if s.tandem.started then s2 else s2.setClock { s2.time.clock with evaluating := false, staged := false }
      else s0
    (s1.armHeadgate n).sacnFrame

def execStagingDeadline (fetched : List (Fin 4 × Fin 8)) (host after : HostView) (s : State) :
    Host.Outcome State Fault Refusal :=
  .next (s.stagingDeadline fetched host after).settle

/-! ### The input cut itself -/

/-- A basin reset that is due acts. -/
def State.cutReset (s : State) (n : Nat) : State × Bool :=
  if s.basin.resetAt.any (fun k => decide (k ≤ n)) && s.domOn .coreA && s.domOn .coreB then
    ((s.setBasin { s.basin with resetAt := none }).basinReset, true)
  else (s, false)

/-- INPUT_CUT of the next frame. A frame that this device does not evaluate gets its instant and its S; a standby takes S from
the ledger. -/
def State.inputCut (s : State) : State :=
  if !s.clockRuns then s
  else
    let n := s.time.clock.cutFrame + 1
    let s1 := s.openCut n
    let s4 :=
      if s1.evalOn n then
        let (s2, br) := s1.closeShadow.cutReset n
        ((s2.cutInputs n br).clusterReports).macEnds
      else if s1.isStandby then s1.cutLattice n false
      else ((s1.cutReset n).1.cutLattice n false).takeShow n
    let s5 := if s1.isStandby then s4 else s4.openPeriod
    (s5.trimClock n).cutSnapshots n

def execInputCut (s : State) : Host.Outcome State Fault Refusal := .next s.inputCut.settle

/-! ### The frame instant (R22) -/

/-- Placing ends at its next instant (R371, R372). -/
def State.endPlacing (s : State) (n : Nat) : State :=
  match s.time.clock.placing with
  | some k =>
    if k ≤ n then
      let s1 := s.setClock { s.time.clock with placing := none }
      (s1.fset R.TIM_STATUS_placing 0).fset R.GLB_FRAME_STATUS_lock (b2n (s1.lockable s1.lockSource))
    else s
  | none => s

/-- The Gauges whose source was due in the frame: signatures of composed canvases, legibility groups, raster rectangles. -/
def State.dueGauges (s : State) : List Nat :=
  let sig := (List.range 4).flatMap (fun c => (List.range 4).filterMap (fun k =>
    if s.composes c && !s.time.clock.repeatNow && (s.live.sigRect c k).1 then some (s.live.sigRect c k).2.1 else none))
  let leg := if s.fbit R.WM_CTRL_legibility_enable then
      s.live.legGroups.filterMap (fun g => if bits (s.live.grpW g 1) 31 31 = 1 then some (bits (s.live.grpW g 1) 3 0) else none)
    else []
  let ras := if s.rasDrives then
      (s.live.rasLive.filter (fun r => s.fbit R.RAS_OUT_STATUS_trained r)).flatMap (fun r => (List.range 4).filterMap (fun k =>
        if (rasRect (s.live.rasWords r) k).1 then some (rasRect (s.live.rasWords r) k).2 else none))
    else []
  (sig ++ leg ++ ras).eraseDups

def State.gaugesDue (s : State) : State := s.dueGauges.foldl (fun s g => s.gaDue g) s

/-- A switchover that waits takes place: outputs and heartbeats stop (R436). -/
def State.switchNow (s : State) : State :=
  if s.tandem.switching then
    let s1 := { s with tandem := { s.tandem with switching := false, silent := true, act := false } }
    if s.tandem.act then s1.emit (.tndAct false) else s1
  else s

/-- T_f of frame `n` where the outputs have power. -/
def State.lightChanges (s : State) (n : Nat) : State :=
  let s1 := s.fset R.GLB_FRAME_STATUS_repeat_last (b2n s.time.clock.repeatNow)
  let s2 := (s1.supplyLate)
  let s4 := (s2.gaugesDue.rasRetry).switchNow
  if s4.power.stopAt.any (fun k => decide (k < n)) && s4.pmPhase ≠ 2 then s4.stopCommit else s4

/-- FRAME_INSTANT of the next frame. -/
def State.frameInstant (s : State) : State :=
  if !s.clockRuns || decide (s.time.clock.cutFrame ≤ s.frame) then s
  else
    let s1 := s.takeNumber
    let n := s1.frame + 1
    let s2 := (s1.setFrame n).endPlacing n
    if s2.domOn .pix && s2.domOn .sys then s2.lightChanges n else s2

def execFrameInstant (s : State) : Host.Outcome State Fault Refusal := .next s.frameInstant.settle

end Sys2Proof.Machine
end

