-- ==== Sys2Proof/Machine/BasinOps.lean ====
section
/-! DEFINITION. The basin operations that act at an input cut (R418, R419, R422): COMMIT, SNAPSHOT and RESET, at the root and as
received. -/

namespace Sys2Proof.Machine

/-- F of R418 and R419, and of RESET: the first frame whose input cut lies `lead` away. -/
def State.showOpFrame (s : State) (f : Nat) : State := s.setPair R.BSN_OP_FRAME_LO f

/-- The words of the COMMIT descriptor as which a basin COMMIT acts: ring 0, `target_frame` F. -/
def basinWords (scope f : Nat) : List Word :=
  [BitVec.ofNat 32 0x03000000, BitVec.ofNat 32 f, 0, 0, BitVec.ofNat 32 scope] ++ List.replicate 11 0

/-- This device starts a basin COMMIT: the checks of a descriptor fetched now, its result an event. -/
def State.basinCommitStart (s : State) (scope f : Nat) : State :=
  let n := s.time.clock.cutFrame + 1
  let late := decide (f < n)
  let fl : Flight := { id := s.rings.nextId, ring := 0, words := basinWords scope f, target := max f n, late := late, basin := true }
  let s1 := { s with rings := { s.rings with nextId := s.rings.nextId + 1, flight := s.rings.flight ++ [fl] } }
  let s2 :=
    if s.opDenied 0x03 then s1.finish fl stDenied 0
    else if !(commitOk fl.words) then s1.finish fl stBadField 0
    else (if late then s1.bumpF R.HOST_RING_LATE_COUNT 0 else s1).commitStart fl
  s2.setBasin { s2.basin with own := some (b2n (s2.flight fl.id).isNone) }

/-- An operation of this subtree begins: `op` 1 COMMIT, 2 SNAPSHOT. -/
def State.beginOp (s : State) (op id : Nat) : State :=
  s.setBasin { s.basin with
    op := op, opId := id, own := none, ports := s.basin.ports.map (fun e => (e.1, { e.2 with report := none })) }

/-- The root's next operation number. -/
def State.nextOp (s : State) : Nat × State :=
  let n := (s.basin.ops + 1) % 2 ^ 32
  (n, s.setBasin { s.basin with ops := n })

/-- BSN_OP COMMIT at the root. -/
def State.rootCommit (s : State) : State :=
  let (id, s1) := s.nextOp
  let f := s1.cutAfter s1.period
  let scope := s1.fget R.BSN_OP_ARG
  let s2 := (s1.showOpFrame f).bsnDown (s1.msgOf 0x05 id f (leBytes scope 4))
  ((s2.beginOp 1 id).basinCommitStart scope f).reportTry

/-- BSN_OP SNAPSHOT at the root. -/
def State.rootSnapshot (s : State) : State :=
  let (id, s1) := s.nextOp
  let f := s1.cutAfter s1.period
  let s2 := ((s1.showOpFrame f).bsnDown (s1.msgOf 0x06 id f [])).beginOp 2 id
  (s2.setBasin { s2.basin with own := some 0, snaps := s2.basin.snaps ++ [f] }).reportTry

/-- BSN_OP RESET at the root: the cut of R548 goes down with the message. -/
def State.rootReset (s : State) : State :=
  let (id, s1) := s.nextOp
  let f := s1.cutAfter resetLead
  (((s1.showOpFrame f).bsnDown (s1.msgOf 0x0A id f [])).resetAtCut f).opEnd opDone 0

/-- A write of BSN_OP with a given `op`. -/
def State.opWrite (s : State) (req : Requester) (op : Nat) (v : Word) (f : State → State) : State :=
  if getBits v 31 28 = op then s.opStart req true f else s

def execBsnOpCommit (req : Requester) (value : Word) (s : State) : Host.Outcome State Fault Refusal :=
  .next (s.opWrite req 1 value (fun s => s.rootCommit)).settle

def execBsnOpSnapshot (req : Requester) (value : Word) (s : State) : Host.Outcome State Fault Refusal :=
  .next (s.opWrite req 2 value (fun s => s.rootSnapshot)).settle

def execBsnOpReset (req : Requester) (value : Word) (s : State) : Host.Outcome State Fault Refusal :=
  .next (s.opWrite req 5 value (fun s => s.rootReset)).settle

/-- A COMMIT from the parent: forwarded, started here, and reported. -/
def State.takeCommit (s : State) (m : BsnMsg) : State :=
  (((s.bsnDown m).beginOp 1 m.id).basinCommitStart (lNum m.payload 0 4) m.frame).reportTry

def State.takeSnapshot (s : State) (m : BsnMsg) : State :=
  let s1 := (s.bsnDown m).beginOp 2 m.id
  (s1.setBasin { s1.basin with own := some 0, snaps := s1.basin.snaps ++ [m.frame] }).reportTry

/-- RESET goes on down, and acts at the cut it names, or at the next one if that has passed. -/
def State.takeReset (s : State) (m : BsnMsg) : State := (s.bsnDown m).resetAtCut m.frame

/-- A message that only a parent sends, to a device that has joined. -/
def State.parentSays (s : State) (port : Nat) (bytes : List Byte) (type : Nat) (f : State → BsnMsg → State) : State :=
  s.bsnTake bytes type (fun s m => if port = 16 ∧ s.joined then f s m else s)

def execBasinCommit (port : Fin 17) (bytes : List Byte) (s : State) : Host.Outcome State Fault Refusal :=
  .next (s.parentSays port bytes 0x05 (fun s m => s.takeCommit m)).settle

def execBasinSnapshot (port : Fin 17) (bytes : List Byte) (s : State) : Host.Outcome State Fault Refusal :=
  .next (s.parentSays port bytes 0x06 (fun s m => s.takeSnapshot m)).settle

def execBasinReset (port : Fin 17) (bytes : List Byte) (s : State) : Host.Outcome State Fault Refusal :=
  .next (s.parentSays port bytes 0x0A (fun s m => s.takeReset m)).settle

end Sys2Proof.Machine
end

