-- ==== Sys2Proof/Machine/TandemOps.lean ====
section
/-! DEFINITION. Tandem pairs (R424..R439, R497, R498): roles, heartbeats, takeover, the standby's schedule, the link, catching
up as the standby sees it, and health records. -/

namespace Sys2Proof.Machine

/-! ### Roles (R425, R436) -/

/-- The device takes part in a pair. -/
def State.paired (s : State) : Bool := s.domOn .net && s.fbit R.SIP_CTRL_tandem_enable && s.role ≠ roleSolo

/-- Take a role: its time begins, and the frame clock follows what the role follows. -/
def State.takeRole (s : State) (r : Nat) : State :=
  let s1 := (s.setRole r)
  (s1.setTandem { s1.tandem with roleAt := s1.now }).reclock

/-- TND_ACT goes low. -/
def State.actLow (s : State) : State :=
  if s.tandem.act then (s.setTandem { s.tandem with act := false }).emit (.tndAct false) else s

/-- The frames of outputs that wait on a MAC go (R426). -/
def State.dropOutputs (s : State) (m : Nat) : State :=
  s.setMac m { s.mac m with txq := (s.mac m).txq.filter (fun i => !i.output) }

/-- Become STANDBY, NOT_CURRENT: outputs and TND_ACT stop, and what its own rings gave goes (R432, R436). -/
def State.becomeStandby (s : State) : State :=
  let s1 := ((List.range 4).foldl (fun s m => s.dropOutputs m) (s.actLow.dropSupplies)).takeRole roleStandby
  let s2 := { s1 with rings := { s1.rings with inbox := [], flight := [] } }
  let s3 := s2.setTandem { s2.tandem with
    ledger := [], incoming := [], received := [], silent := false, switching := false, failed := false,
    catchPhase := 0, hush := none, ownFrame := 0, joining := true, activeAt := some s.now }
  (s3.setBasin { s3.basin with shift := 0 }).notCurrent causeJoining

/-- Become ACTIVE: what waits on the wires may leave. -/
def State.becomeActive (s : State) : State :=
  let s1 := (s.takeRole roleActive).setTandem { s.tandem with roleAt := s.now, activeTime := s.time.ptp.t, silent := false }
  let s1 := s1.setBasin { s1.basin with shift := 0 }
  (List.range 4).foldl (fun s m => s.tryLaunch m) s1.reclock

/-- The write of SIP_CTRL: `tandem_enable` starts in JOINING, or leaves the pair; `switchover` acts on the ACTIVE device. -/
def State.sipCtrlWrite (s : State) (v : Word) : State :=
  let was := s.fbit R.SIP_CTRL_tandem_enable
  let s1 := s.setRg R.SIP_CTRL.off (v &&& 0xFF000000)
  let s2 := if v.getLsbD 23 && s1.role = roleActive then s1.setTandem { s1.tandem with switching := true } else s1
  if v.getLsbD 31 && !was then s2.takeRole roleJoining
  else if !(v.getLsbD 31) && was then
    let s3 := (s2.actLow).takeRole roleSolo
    (s3.fset R.SIP_STATUS_current 0).setTandem { roleAt := s3.now }
  else s2

/-- A switchover needs the write to set its bit, and the device to be ACTIVE. -/
def execSwitchover (req : Requester) (value : Word) (s : State) : Host.Outcome State Fault Refusal :=
  .next (if !(s.domOn .net) then s.accessErr true req R.SIP_CTRL.off
    else if value.getLsbD 23 then s.sipCtrlWrite value else s).settle

/-- A time has passed since an instant, if there was one. -/
def State.within (s : State) (at_ : Option Nat) (ns : Nat) : Bool := at_.any (fun c => decide (nsSince s c < ns))

def joinTime : Nat := 10000000
def heartbeatTime : Nat := 125000
def failTime : Nat := 250000

/-- 10 ms after JOINING (R425). Without a show key, or while a peer of unknown role is heard, the device stays JOINING
(R497, R498). -/
def State.joinTimer (s : State) : State :=
  if s.paired && s.role = roleJoining && decide (joinTime ≤ nsSince s s.tandem.roleAt) && s.sluice.showKey.isSome then
    if s.within s.tandem.heardAt failTime then
      if s.tandem.peerRole = roleActive then s.becomeStandby
      else if s.tandem.peerRole = roleJoining then
        if s.fbit R.SIP_CTRL_unit then s.becomeStandby else s.becomeActive
      else s
    else if s.within s.tandem.unknownAt failTime then s
    else if s.fbit R.SIP_CTRL_prefer_active then s.becomeActive
    else s
  else s

def execTandemJoinTimer (s : State) : Host.Outcome State Fault Refusal := .next s.joinTimer.settle

/-! ### Heartbeats (R427, R435, R436) -/

/-- A heartbeat or FENCE as it leaves: its fields, and their GMAC tag under K_hb (R497). -/
def pairBody (show_ : List Byte) (n kind : Nat) (words : List Nat) : List Byte :=
  let b := Config.heartbeatBody (kind :: words)
  b ++ gcmTag (hbKey show_) (Config.heartbeatIv n) b []

/-- A message of the pair on both paths: over the link, and as an Ethernet frame where that is enabled. Without a show key there is no
tag to send it with. -/
def State.pairSend (s : State) (kind : Nat) (words : List Nat) : State :=
  match s.sluice.showKey with
  | none => s
  | some k =>
    let (n, s0) := s.fresh
    let b := pairBody k n kind words
    let s1 := if s0.siphonOn then s0.siphonSend kind b else s0
    let m := s.fget R.SIP_CTRL_hb_mac
    if s.fbit R.SIP_CTRL_hb_eth_enable && s1.macRuns m then
      s1.sendItem m { bytes := s1.ownFrame m Config.heartbeatDest 0x88B5 b, step := 4 }
    else s1

/-- The heartbeat's fields: role, frame number, ACTIVE time. -/
def State.heartbeat (s : State) : List Nat := [s.role, s.frame, twos s.tandem.activeTime 96]

/-- Every 125 µs: a heartbeat where there is a key to tag it with, and on an ACTIVE device a toggle of TND_ACT. -/
def State.heartbeatSend (s : State) : State :=
  if s.paired && !s.tandem.silent then
    let s1 := s.pairSend 0x40 s.heartbeat
    if s1.role = roleActive then
      let a := !s1.tandem.act
      (s1.setTandem { s1.tandem with act := a }).emit (.tndAct a)
    else s1
  else s

def execHeartbeatSend (s : State) : Host.Outcome State Fault Refusal := .next s.heartbeatSend.settle

/-- Something received did not authenticate: counted, told once for each link-up, and a standby is NOT_CURRENT. -/
def State.authFail (s : State) : State :=
  let s1 := s.bumpF R.SIP_AUTH_FAIL_COUNT
  let s2 := if s1.tandem.keyTold then s1 else (s1.setTandem { s1.tandem with keyTold := true }).report 0x18 0
  s2.notCurrent causeAuth

/-- T_f(N) − P/2 on an ACTIVE device: the instant of its next frame goes to the standby (R427), as a MARK does to a child. -/
def State.instantSend (s : State) : State :=
  if s.paired && s.role = roleActive && s.siphonOn then s.siphonSay 0x42 [s.nextFrame] else s

/-- MARK for the next frame on the down ports, and its instant to the standby. -/
def execMarkSend (s : State) : Host.Outcome State Fault Refusal := .next s.markSend.instantSend.settle

/-- The active's frame instant `ahead` of now, that of the frame after `frame`, as a standby follows it (R413..R416, R427). The first
one brings the number of a joining; a later one that differs is a slip. -/
def State.followActive (s : State) (frame : Nat) (ahead : Option Int) : State :=
  match ahead with
  | none => s
  | some a =>
    let s1 := s.parentInstant a
    let s2 := s1.setTandem { s1.tandem with joining := false }
    if frame + 1 ≠ s2.nextFrame ∧ s2.basin.take ≠ some (frame + 1) then
      let s3 := s2.setBasin { s2.basin with take := some (frame + 1), takeJoin := s2.basin.takeJoin || s.tandem.joining }
      if s.tandem.joining then s3 else s3.bumpF R.BSN_SLIP_COUNT
    else s2

/-- A heartbeat that authenticates. -/
def State.heartbeatTaken (s : State) (role frame : Nat) (since : Int) (ahead : Option Int) : State :=
  let s1 := (s.setTandem { s.tandem with
    heardAt := some s.now, activeAt := if role = roleActive then some s.now else s.tandem.activeAt, peerRole := role,
    peerTime := since, failed := false }).fset R.SIP_STATUS_peer_seen 1
  if s1.role = roleActive ∧ role = roleActive ∧ s1.tandem.activeTime < since then s1.becomeStandby
  else if s1.isStandby ∧ role = roleActive then s1.followActive frame ahead
  else s1

def State.heartbeatReceived (s : State) (auth : Bool) (role frame : Nat) (since : Int) (ahead : Option Int) : State :=
  if !s.paired then s
  else if auth && s.sluice.showKey.isSome then s.heartbeatTaken role frame since ahead
  else (s.setTandem { s.tandem with unknownAt := some s.now }).authFail

/-- A message of the pair reaches this device over the link, or as the oldest class 2 frame of its MAC (R435). -/
def State.pairHears (s : State) (eth : Bool) (f : State → State) : State :=
  if eth then
    if s.paired && s.fbit R.SIP_CTRL_hb_eth_enable then
      match s.rxPop (s.fget R.SIP_CTRL_hb_mac) 2 with
      | some (_, s1) => f (s1.weirs (s.fget R.SIP_CTRL_hb_mac))
      | none => s
    else s
  else if s.tandem.link then f s
  else s

def execHeartbeatReceived (eth auth : Bool) (role : Fin 4) (frame : BitVec 64) (since : Int) (ahead : Option Int) (s : State) :
    Host.Outcome State Fault Refusal :=
  .next (s.pairHears eth (fun s => s.heartbeatReceived auth role frame.toNat since ahead)).settle

/-- No heartbeat within 125 µs of the previous one. -/
def execHeartbeatMiss (s : State) : Host.Outcome State Fault Refusal :=
  .next (if s.paired && s.tandem.heardAt.isSome && !(s.within s.tandem.heardAt heartbeatTime) then
    s.bumpF R.SIP_HB_MISS_COUNT else s).settle

/-! ### The standby's ledger (R428, R431, R432) -/

/-- Engine state takes the place of what this device held. -/
def State.loadState (s : State) (engine : List EngineRec) : State :=
  let s1 := engine.foldl (fun s r => s.loadEngine r) s.clearEngine
  s1.setRg R.PF_CONTRIB_COUNT.off (BitVec.ofNat 32 s1.live.contributors)

/-- Bytes that WRITE_TABLE staged on the active. -/
def State.takeStage (s : State) (r : LedgerRec) : State :=
  let w : Staged := { cls := r.key / 65536, inst := r.key % 65536, offset := r.body.getD 0 0, number := r.body.getD 1 0,
                      bytes := (r.body.drop 2).map (fun x => BitVec.ofNat 8 x) }
  { s with rings := { s.rings with staged := s.rings.staged ++ [w], stageNext := (w.number + 1) % 2 ^ 32 } }

/-- The pixels of the buffer in use on a layer (R211). A refill that has ended without them starts again. -/
def State.takeLayer (s : State) (r : LedgerRec) : State :=
  let c := r.key / 8
  let l := r.key % 8
  match (s.layerSt c l).mirror with
  | some m =>
    let s1 := s.setLayer c l { s.layerSt c l with mirror := some { m with
      bytes := (r.body.drop 2).map (fun x => BitVec.ofNat 8 x),
      torn := if r.body.getD 1 0 = 1 then some s.evalFrame else none } }
    if (s.live.runLayers c).contains l && ((s.canvas c).refillFrom).isNone then s1.refillEvent c else s1
  | none => s

/-- The records that end a ledger act as they come. -/
def State.takeTail (s : State) (r : LedgerRec) : State :=
  if r.kind = 0x0B then s.takeStage r else if r.kind = 0x0C then s.takeLayer r else s

def cutKey (l : List LedgerRec) : Option Nat := (l.find? (fun r => r.kind = 0x01)).map (fun r => r.key)

/-- The size of a received ledger is shown (R430). -/
def State.showLedger (s : State) (l : List LedgerRec) : State :=
  let n := (l.flatMap LedgerRec.bytes).length
  (s.fset R.SIP_LEDGER_LAST n).fset R.SIP_LEDGER_MAX (max n (s.fget R.SIP_LEDGER_MAX))

/-- A record comes in. CUT begins a ledger, and CLOSE ends it. -/
def State.recordTaken (s : State) (r : LedgerRec) : State :=
  let l := if r.kind = 0x01 then [r] else s.tandem.incoming ++ [r]
  let mine := s.tandem.reading && decide (r.kind ≠ 0x01)
  let s1 := s.setTandem { s.tandem with
    incoming := l, reading := mine, received := if mine then s.tandem.received ++ [r] else s.tandem.received }
  let s2 := s1.gaFeedAll gaRx r.bytes s1.tandem.eval
  let s3 := if r.kind = 0x0F then s2.showLedger l else s2
  if mine then s3.takeTail r else s3

def execLedgerRecordReceived (auth : Bool) (kind : Fin 256) (key : Nat) (body : List Nat) (s : State) :
    Host.Outcome State Fault Refusal :=
  .next (if !s.paired || !s.tandem.link || !s.isStandby then s
    else if auth then s.recordTaken ⟨kind, key, body⟩ else s.authFail).settle

/-! ### The standby's frame start (R431) -/

/-- A descriptor of the HOST records. -/
def State.hostFlight (s : State) (n : Nat) (r : LedgerRec) : Flight :=
  { id := s.rings.nextId, ring := r.key, words := (r.body.drop 3).map (fun x => BitVec.ofNat 32 x), target := n,
    late := r.body.getD 2 0 = 1, upTo := r.body.getD 1 0, shadow := true }

/-- A LAYER_FRAME of the ledger at its cut (R201): refused as on the active, or the buffer in use, whose pixels come in LAYER. -/
def State.mirrorFrame (s : State) (ws : List Word) : State :=
  let c := lCanvas ws
  let l := lLayer ws
  if !(bufferFits (s.live.layer c l) ws) then s.bumpF R.CMP_BUFFER_REFUSED_COUNT c
  else
    let s1 := s.setLayer c l { s.layerSt c l with buf := none, mirror := some { words := ws } }
    if (s.live.runLayers c).contains l then s1.refillEvent c else s1

/-- The LAYER_FRAMEs of the ledger, after its COMMITs. -/
def State.mirrorFrames (s : State) (n : Nat) : State :=
  (s.heard 0x02).foldl (fun s r =>
    let ws := (s.hostFlight n r).words
    if isOp 0x04 ws then s.mirrorFrame ws else s) s

/-- The HOST records as descriptors in flight; a standby's `sq_head` follows the active's. A LAYER_FRAME acts by `mirrorFrames`. -/
def State.takeHosts (s : State) (n : Nat) : State × List Flight :=
  (s.heard 0x02).foldl (fun (a : State × List Flight) r =>
    let f := a.1.hostFlight n r
    let s1 := if a.1.isStandby then a.1.fset R.HOST_RING_STATUS_sq_head (r.body.getD 0 0) r.key else a.1
    if isOp 0x04 f.words then (s1, a.2)
    else
      let s2 := { s1 with rings := { s1.rings with nextId := s1.rings.nextId + 1, flight := s1.rings.flight ++ [f] } }
      (if isOp 0x06 f.words then s2.postTask f else s2, a.2 ++ [f])) (s, [])

/-- Supply acknowledgements, telemetry and acknowledgements of groups (R247, R251). -/
def State.takeAck (s : State) (r : LedgerRec) : State :=
  match r.body with
  | [1, cmd, value] => s.zoneAck r.key cmd value
  | [0] => s.zoneFail r.key
  | [2] => s.legAckWrite (BitVec.ofNat 32 r.key)
  | [4, n] => s.nodeLost r.key n
  | [5, n] => s.setMute r.key n 4
  | 3 :: f :: n :: b => s.takeRecord r.key f (b.take n) ((b.drop n).map (fun x => BitVec.ofNat 8 x))
  | _ => s

/-- A tally stamp of the ledger: it enters the queue, and its EVENT tasks are released (R379). -/
def State.takeTally (s : State) (r : LedgerRec) : State :=
  let e : TallyEntry := { rising := r.body.getD 0 0 = 1, tally := r.key, base := r.body.getD 1 0, frame := r.body.getD 2 0,
                          t := sint (r.body.getD 3 0) 96 }
  (s.tallyQueue e).fireSource (32 + r.key)

/-- The active's choice of a video frame; without that frame the standby is NOT_CURRENT (R211). -/
def State.takeVideo (s : State) (r : LedgerRec) : State :=
  let c := r.key / 8
  let l := r.key % 8
  let z := r.body.getD 0 0
  if r.body.getD 1 0 = 0 then s
  else
    let k := bits (s.live.layer c l).index 1 0
    match (s.vidFrames k).find? (fun e => e.2 == r.body.getD 2 0) with
    | some e =>
      let v := s.canvas c
      let s1 := s.setCanvas c { v with picks := mset none0 v.picks (pickKey l z) (some e.1) }
      let w := s1.vid k
      s1.setVid k { w with bufs := w.bufs.map (fun b => if b.1 = e.1 then (b.1, { b.2 with pinned := true }) else b) }
    | none => s.notCurrent causeNoVideo

/-- The choices of the ledger take the place of this device's own. -/
def State.takeVideos (s : State) : State :=
  (s.heard 0x07).foldl (fun s r => s.takeVideo r)
    ((List.range 4).foldl (fun s c => s.setCanvas c { s.canvas c with picks := [] }) s)

/-- S, φ, the air temperatures, a placement that this device has not made itself, and a basin reset, from CUT. -/
def State.takeCut (s : State) (n : Nat) (b : List Nat) : State :=
  let s0 := if b.getD 2 0 = 1 ∧ s.time.clock.placing = none then s.markPlacing else s
  let s1 := if b.getD 3 0 = 1 ∧ s0.domOn .coreA ∧ s0.domOn .coreB then s0.basinReset else s0
  let s2 := s1.setSh n (sint (b.getD 0 0) 96)
  { s2 with fabric := { s2.fabric with
      phi := b.getD 1 0, cutAt := s2.now,
      air := (List.range 16).foldl (fun m k => mset nat0 m k (b.getD (4 + k) 0)) [] } }

/-- The frame K with which a standby catches up has the engine state that the active had at the end of K's take-in (R434). -/
def State.caughtUp (s : State) : State :=
  if s.tandem.catchPhase = 3 ∧ s.tandem.takenState ≠ [] then
    (s.loadState s.tandem.takenState).setTandem { s.tandem with takenState := [] }
  else s

/-- What a TIME commit of the frame does to SHOW beside S, which the record gives: `show_set` acts and clears (R368), and S of the
frame stands under the `show_mode` of the new set-up. -/
def State.showCommitted (s : State) (n : Nat) : State := (s.showTaken n).setSh n (s.shOf n)

/-- The records that take the place of the inputs of frame `n`. -/
def State.applyLedger (s : State) (n : Nat) (cut : List Nat) : State :=
  let s0 := (s.heard 0x06).foldl (fun s r =>
    s.sample .tcode (sint (r.body.getD 0 0) 64) (s.clockNow - sint (r.body.getD 1 0) 96)) (s.beginFrame.takeCut n cut)
  let s1 := (s0.heard 0x0A).foldl (fun s r => s.takeAck r) s0
  let (s2, l) := s1.takeHosts n
  let old := s2.live
  let s3 := s2.cutCommits n l
  let s4 := (if latticeChanged old s3.live then s3.cutLattice s3.time.clock.cutFrame true else s3).showCommitted n
  let s5 := s4.cutFabric (s2.commitViews n l) n (delaysJump l)
  let s6 := (s5.heard 0x03).foldl (fun s r => s.sacnEntryCut n r.key (yieldOf r.body)) s5
  let s7 := (s6.heard 0x04).foldl (fun s r => s.envCutOne n r.key r.body.head?) s6
  let s8 := (s7.heard 0x05).foldl (fun s r => s.takeTally r) (s7.cutValues n l)
  (((s8.mirrorFrames n).cutTasks n l).takeVideos.caughtUp.cutEnd n)


/-- The change of frame number that a CUT record carries. -/
def cutShift (r : LedgerRec) : Int := sint (r.body.getD 20 0) 64

/-- The frame of a ledger, in this device's numbers. The active's change of number reaches a standby with an instant (R416) and in the
next ledger's CUT (R428), which matches the two; what a CUT brings and no instant has, is taken with it. -/
def State.ledgerFrame (s : State) (r : LedgerRec) : Nat × State :=
  let c := cutShift r
  if c = 0 then (shiftFrame s.basin.shift r.key, s)
  else
    let d := c - s.basin.shift
    let s1 := s.setBasin { s.basin with shift := 0 }
    (r.key, if d = 0 then s1 else (s1.renumber d).setFrame (shiftFrame d s.frame))

/-- The frame whose ledger is in transfer starts. A ledger that is not there is over its bound. -/
def State.shadowStart (s : State) : State :=
  let l := s.tandem.incoming
  match l.find? (fun r => r.kind = 0x01) with
  | some r =>
    if l.any (fun q => decide (0x0B ≤ q.kind)) then
      let kept := s.tandem.received.filter (fun q => q.kind = 0x08)
      let (n, s0) := s.ledgerFrame r
      let s1 := s0.setTandem { s0.tandem with eval := n, received := kept ++ l, started := true, reading := true, ledger := [] }
      let s2 := s1.applyLedger n r.body
      let s3 := (l.filter (fun q => q.kind ≠ 0x08)).foldl (fun s q => s.takeTail q) s2
      ((s3.openPeriod).clusterReports).macEnds
    else (s.bumpF R.SIP_OVER_BOUND_COUNT).notCurrent causeOverBound
  | none => (s.bumpF R.SIP_OVER_BOUND_COUNT).notCurrent causeOverBound

/-- The shadow schedule goes on: on a standby that is current or catches up, and on a new active that finishes it. -/
def State.shadowGoes (s : State) : Bool :=
  !s.isStandby || s.fbit R.SIP_STATUS_current || s.tandem.catchPhase = 3

/-- The next frame starts, unless a digest has ended the schedule. -/
def State.shadowNext (s : State) : State := if s.shadowGoes then s.shadowStart else s

/-- The standby starts the frame whose records are in. DESIGN CHOICE: it evaluates one frame at a time; one in hand is staged first,
its digest told at its deadline, or where its pixels are not complete, the start waits for that deadline (log entry 70). -/
def State.standbyStart (s : State) : State :=
  if s.paired && s.isStandby && s.clockRuns && s.domOn .pix && s.shadowGoes then
    if !s.tandem.started then s.shadowStart
    else if s.stageEarly then s.stageShadow.shadowNext
    else s.setTandem { s.tandem with startHeld := true }
  else s

def execStandbyFrameStart (s : State) : Host.Outcome State Fault Refusal := .next s.standbyStart.settle

/-! ### Failure and takeover (R436..R438) -/

/-- The ledger of the frame that the standby evaluates is complete. -/
def State.ledgerWhole (s : State) : Bool := s.tandem.started && s.tandem.received.any (fun r => r.kind = 0x0F)

/-- The standby holds a complete ledger of a frame that it has not started. -/
def State.ledgerNext (s : State) : Bool :=
  !s.tandem.reading && s.tandem.incoming.any (fun r => r.kind = 0x01) && s.tandem.incoming.any (fun r => r.kind = 0x0F) &&
    (s.fbit R.SIP_STATUS_current || s.tandem.catchPhase = 3)

/-- The standby takes over. The frames whose ledgers it holds complete are staged, one after the other; its own frames begin with the
first cut at least P/32 away, and the frame in progress goes out without sACN. -/
def State.takeover (s : State) : State :=
  let go := s.ledgerWhole
  let next := s.ledgerNext
  let s1 := s.becomeActive
  let s2 := s1.pairSend 0x41 s1.heartbeat
  let s3 := ((s2.bumpF R.SIP_TAKEOVER_COUNT).report 0x15 0).fset R.SIP_STATUS_current 0
  let c := s3.time.clock
  let s4 := s3.setClock { c with
    stageFrame := max c.stageFrame (c.cutFrame - 1), evaluating := go, staged := c.staged && go }
  let s5 := s4.setTandem { s4.tandem with
    started := go, reading := false, startHeld := go && next, digestHeld := none, failed := false,
    ownFrame := s4.cutAfter (s4.period / 32), hush := some s4.readFrame, catchPhase := 0,
    incoming := if next then s4.tandem.incoming else [], peerRole := roleJoining }
  if next && !go then s5.shadowStart else s5

/-- Neither path has delivered a heartbeat of the active for 250 µs. -/
def State.failureDeclared (s : State) : State :=
  if s.paired && s.isStandby && !s.tandem.failed && s.tandem.activeAt.isSome && !(s.within s.tandem.activeAt failTime) &&
      !(s.within s.tandem.unknownAt failTime) then
    let s1 := s.fset R.SIP_STATUS_peer_seen 0
    if s1.fbit R.SIP_CTRL_auto_takeover && (s1.fbit R.SIP_STATUS_current || s1.fbit R.SIP_CTRL_takeover_stale) then s1.takeover
    else (s1.setTandem { s1.tandem with failed := true }).eventOf blkSip 0x300
  else s

def execFailureDeclared (s : State) : Host.Outcome State Fault Refusal := .next s.failureDeclared.settle

/-- FENCE stops this device's outputs. -/
def State.fenced (s : State) (auth : Bool) : State :=
  if !auth || s.sluice.showKey.isNone then s.authFail
  else if s.isStandby then s
  else s.becomeStandby

/-- A FENCE comes over the link, or else as an Ethernet frame. -/
def execFenceReceived (auth : Bool) (s : State) : Host.Outcome State Fault Refusal :=
  .next (if s.paired then s.pairHears (!s.tandem.link) (fun s => s.fenced auth) else s).settle

/-! ### The link (R424, R497) -/

/-- Whether the keys of the link have sealed as many units as they may. -/
def State.siphonSpent (s : State) : Bool := decide (siphonKeyLife ≤ s.sluice.siphUnits)

/-- The link comes up, or its keys are spent: both send a nonce and derive their keys. Without a show key the link stays down. -/
def State.siphonUp (s : State) (nonce : List Byte) : State :=
  match s.sluice.showKey with
  | some k =>
    if s.paired && (!s.tandem.link || s.siphonSpent) && s.drbgReady then
      let (own, s1) := s.random 48
      let keys := if s.fbit R.SIP_CTRL_unit then siphKeys k nonce own else siphKeys k own nonce
      let s2 := s1.emit (.siphon 0x50 (own.map (fun b => b.toNat)))
      { s2.setTandem { s2.tandem with link := true, keyTold := false } with sluice := { s2.sluice with siph := some keys, siphUnits := 0 } }
    else s
  | none => s

def execSiphonLinkUp (nonce : List Byte) (s : State) : Host.Outcome State Fault Refusal := .next (s.siphonUp nonce).settle

def execSiphonLinkDown (s : State) : Host.Outcome State Fault Refusal := .next s.siphonDown.settle

/-- A lane fails, or the link has both again. -/
def execSiphonLaneChange (failed : Bool) (s : State) : Host.Outcome State Fault Refusal :=
  .next (if s.domOn .net then
    (s.fset R.SIP_STATUS_one_lane (b2n failed)).setTandem { s.tandem with
      laneErrors := if failed then s.tandem.laneErrors + 1 else s.tandem.laneErrors }
  else s).settle

/-- RESYNC: a standby that is not current sends it, and on an ACTIVE device it begins the first pass over the pages (R434). -/
def State.resync (s : State) (auth : Bool) : State :=
  if !s.paired || !s.tandem.link then s
  else if s.isStandby then
    if s.fbit R.SIP_STATUS_current then s
    else (s.setTandem { s.tandem with catchPhase := 0, incoming := [] }).siphonSay 0x51 []
  else if s.role = roleActive then
    if auth then
      (s.setTandem { s.tandem with catchPhase := 1, pages := s.allPages, sentMem := [], takenMem := [], takenState := [] }).showLeft
    else s.authFail
  else s

def execResync (auth : Bool) (s : State) : Host.Outcome State Fault Refusal := .next (s.resync auth).settle

/-- Pages, and with the last of them the engine state, reach a standby that is not current. -/
def State.catchupPages (s : State) (pages : List (BitVec 18 × List Byte)) (engine : List EngineRec) : State :=
  let s1 := pages.foldl (fun s p =>
    let m := memWrite s.mem.reservoir (pageSize * p.1.toNat) (p.2 ++ List.replicate (pageSize - p.2.length) 0)
    { s with mem := { s.mem with reservoir := m } }) s
  if engine = [] then s1
  else
    let s2 := s1.loadState engine
    let s3 := s2.setBasin { s2.basin with shift := 0 }
    s3.setTandem { s3.tandem with catchPhase := 3, takenState := engine }

def execCatchupPages (auth : Bool) (pages : List (BitVec 18 × List Byte)) (engine : List EngineRec) (s : State) :
    Host.Outcome State Fault Refusal :=
  .next (if !s.paired || !s.tandem.link || !s.isStandby || s.fbit R.SIP_STATUS_current || !(s.domOn .res) then s
    else if auth then s.catchupPages pages engine else s.authFail).settle

/-! ### The standby's staging deadline (R429, R431) -/

/-- A start that waited for the frame in hand. -/
def State.heldStart (s : State) : State :=
  if s.tandem.startHeld then (s.setTandem { s.tandem with startHeld := false }).shadowNext else s

/-- T_f + P/2 of the frame that a standby, or a new active, evaluates from the ledger: it is staged, if that has not been done, and the
digests are compared. -/
def State.standbyDeadline (s : State) : State :=
  if s.clockRuns && s.domOn .pix then
    if s.tandem.digestHeld.isSome then s.tellDigest
    else if s.tandem.started then
      let n := s.tandem.eval
      match s.closeRec with
      | some r => (((s.shadowStage n r.body).tellDigest).endShadow n).heldStart
      | none => (((s.bumpF R.SIP_OVER_BOUND_COUNT).notCurrent causeOverBound).endShadow n).heldStart
    else s
  else s

def execStandbyStagingDeadline (s : State) : Host.Outcome State Fault Refusal := .next s.standbyDeadline.settle

/-! ### dr.ledger (R109) -/

/-- The current task of a core appends a word, or takes the active's word at its handle and position. -/
def State.ledgerWord (s : State) (i : Nat) (t : Task) (v : Word) : State × Word :=
  let h := knownHandle t i
  let s1 := s.setTask i (some { t with ledgerPos := t.ledgerPos + 1 })
  if s.shadows then
    match s.tandem.received.find? (fun r => r.kind = 0x08 && r.key = h && r.body.getD 0 0 = t.ledgerPos) with
    | some r =>
      (s1.setTandem { s1.tandem with received := s1.tandem.received.filter (fun q => q ≠ r) }, BitVec.ofNat 32 (r.body.getD 1 0))
    | none => (s1.notCurrent causeNoWord, v)
  else (s1.ledgerAdd 0x08 h [t.ledgerPos, v.toNat], v)

def State.drLedger (s : State) (core rd : Nat) (v : Word) : State :=
  if s.coreReady core then
    match (s.core core).task with
    | none => s.coreSet core rd v
    | some i =>
      match s.task i with
      | none => s.coreSet core rd v
      | some t =>
        let (s1, w) := s.ledgerWord i t v
        s1.coreSet core rd w
  else s

def execDrLedger (core : Fin 64) (rd rs1 : Fin 32) (s : State) : Host.Outcome State Fault Refusal :=
  .next (s.drLedger core rd ((s.core core).xr rs1)).settle

/-- `dr.done` retires the task; a cluster that drains may so have retired its last (R114). -/
def execDrDone (core : Fin 64) (rs1 : Fin 32) (s : State) : Host.Outcome State Fault Refusal :=
  .next (s.drDone core ((s.core core).xr rs1)).clusterReports.settle

/-! ### Health (R439) -/

/-- Corrected or uncorrectable ECC errors that the clusters have counted. -/
def State.eccTotal (s : State) (f : RF) : Nat := s.fget f 0 + s.fget f 1

/-- The health record (R439): its ECC errors are the clusters' and the Reservoir's. -/
def State.healthWords (s : State) : List Nat :=
  let t := s.tandem
  [nsSince s t.roleAt / 1000000000 % 2 ^ 32,
    s.role * 2 ^ 29 + s.fget R.SIP_STATUS_current * 2 ^ 28 + s.fget R.SIP_STATUS_cause * 2 ^ 20,
    twos ((s.hottest.map (fun k => s.senTemp k)).getD 0) 32, t.tests,
    s.eccTotal R.DR_ECC_CORRECTED_COUNT - t.corrected + t.resCorrected,
    s.eccTotal R.DR_ECC_UNCORR_COUNT - t.uncorrected + t.resUncorrected, t.laneErrors] ++
    List.replicate 9 0

def State.healthSend (s : State) : State :=
  if s.paired && s.siphonOn then
    (s.siphonSay 0x52 s.healthWords).setTandem { s.tandem with
      tests := 0, laneErrors := 0, resCorrected := 0, resUncorrected := 0, corrected := s.eccTotal R.DR_ECC_CORRECTED_COUNT,
      uncorrected := s.eccTotal R.DR_ECC_UNCORR_COUNT }
  else s

def execHealthRecordSend (s : State) : Host.Outcome State Fault Refusal := .next s.healthSend.settle

/-- A record is shown; a failed test or an uncorrectable error in it is reported. -/
def State.healthTaken (s : State) (w : List Word) : State :=
  let s1 := (List.range 16).foldl (fun s i => s.setRg (R.SIP_PEER_HEALTH.off i) (w.getD i 0)) s
  let s2 := s1.setTandem { s1.tandem with healthAt := s1.now }
  if w.getD 3 0 ≠ 0 ∨ w.getD 5 0 ≠ 0 then s2.report 0x17 0 else s2

def execHealthRecordReceived (auth : Bool) (words : List Word) (s : State) : Host.Outcome State Fault Refusal :=
  .next (if !s.paired || !s.tandem.link then s else if auth then s.healthTaken words else s.authFail).settle

/-- 3 s without a health record. -/
def healthLimit : Nat := 3000000000

def execHealthRecordTimeout (s : State) : Host.Outcome State Fault Refusal :=
  .next (if s.paired && decide (healthLimit ≤ nsSince s s.tandem.healthAt) then
    (s.setTandem { s.tandem with healthAt := s.now }).report 0x17 0 else s).settle

/-- A standby has tested one kind of unit (flume, serializer, Headgate arming, transmitter, Reservoir). -/
def execStandbySelfTest (unit : Fin 5) (good : Bool) (s : State) : Host.Outcome State Fault Refusal :=
  .next (if s.paired && s.isStandby && !good then
    s.setTandem { s.tandem with tests := s.tandem.tests ||| 2 ^ unit.val } else s).settle

end Sys2Proof.Machine
end

