-- ==== Sys2Proof/Machine/NetWake.lean ====
section
/-! DEFINITION. What arrives at the MACs and the tally balls, with the wakes from WATCH that it makes (R325, R337, R342, R377,
R450, R514). -/

namespace Sys2Proof.Machine

open Sys2Proof

/-! ### Frames (R325..R334) -/

/-- A frame that the MAC takes and that passes filter test 1 or 2 with the EtherType of PM_WAKE_ETH. -/
def State.mgmtFrame (s : State) (m : Nat) (bytes : List Byte) (good : Bool) : Bool :=
  s.macRuns m && good && decide (64 ≤ bytes.length + 4 ∧ bytes.length + 4 ≤ 9216) && s.fget R.PM_WAKE_ETH_ethertype ≠ 0 &&
    (match s.untag m bytes with
     | none => false
     | some f =>
       match s.rxRoute m f with
       | some (t, _) => decide (t ≤ 2) && fNum f 12 2 = s.fget R.PM_WAKE_ETH_ethertype
       | none => false)

/-- A frame arrives, and may wake the device. -/
def State.frameArrives (s : State) (m : Nat) (bytes : List Byte) (good : Bool) : State :=
  let s1 := s.macReceive m bytes good
  if s.mgmtFrame m bytes good then s1.watchWake R.PM_WAKE_CFG_mgmt R.PM_WAKE_CAUSE_mgmt else s1

def execMacFrameReceive (mac : Fin 4) (bytes : List Byte) (good : Bool) (s : State) : Host.Outcome State Fault Refusal :=
  .next (s.frameArrives mac bytes good).settle

/-- A link change; a link that comes up completes the ends of service that wait for it (R514). -/
def execNetLinkChange (mac : Fin 4) (up : Bool) (s : State) : Host.Outcome State Fault Refusal :=
  .next (s.linkChange mac up).macEnds.settle

/-! ### sACN (R342, R450) -/

/-- The universe of the data packet that the receiver takes next. -/
def State.nextUniverse (s : State) (m : Nat) : Option Nat :=
  match s.rxPop m 4 with
  | none => none
  | some (f, _) => (dataOf f.bytes).map (fun d => d.uni)

/-- A data packet is taken; one of a wake universe wakes the device. -/
def State.sacnArrives (s : State) (m : Nat) : State :=
  let s1 := s.sacnReceive m
  match s.nextUniverse m with
  | some u =>
    if s.wakeUniverses.contains u then s1.watchWake R.PM_WAKE_CFG_sacn R.PM_WAKE_CAUSE_sacn else s1
  | none => s1

def execSacnDataReceived (mac : Fin 4) (s : State) : Host.Outcome State Fault Refusal :=
  .next (s.sacnArrives mac).settle

/-! ### Tallies (R377, R450) -/

/-- An edge; one accepted on tallies 4..31 wakes the device with `tally_watch`. -/
def State.edgeArrives (s : State) (i : Nat) (rising : Bool) (ago : Nat) : State :=
  let s1 := s.tallyEdge i rising ago
  if 4 ≤ i && s.edgeAccepted i rising ago then s1.watchWake R.PM_WAKE_CFG_tally_watch R.PM_WAKE_CAUSE_tally_watch else s1

def execTallyEdge (tally : Fin 32) (rising : Bool) (ago : Nat) (s : State) : Host.Outcome State Fault Refusal :=
  .next (s.edgeArrives tally rising ago).settle

end Sys2Proof.Machine
end

