-- ==== Sys2Proof/Machine/Views.lean ====
section
/-! DEFINITION. Reading a register (R9..R11, R13, R40, R557..R560): what each register shows, the latches of the pairs, and the
reads that have an effect. -/

namespace Sys2Proof.Machine

open Sys2Proof

/-! ### What a register shows -/

/-- Word `w` of an entry of the Silt trap (R543). -/
def siltWord (e : Silt) (w : Nat) : Nat :=
  match w with
  | 0 => e.st * 2 ^ 30 + b2n e.seen * 2 ^ 29 + b2n e.pending * 2 ^ 28 + e.cls * 65536 + e.count
  | 1 => e.located
  | 2 => e.firstOrigin
  | 3 => e.lastOrigin
  | 4 => e.detail
  | 5 => e.firstSec
  | 6 => e.lastSec
  | _ => e.frame

/-- Entries of the Silt trap that are not FREE. -/
def State.siltUsed (s : State) : Nat := (s.silt.entries.filter (fun e => e.2.st ≠ 0)).length

/-- Registers of the HOST, DR, WM and FUR blocks that show state held elsewhere; `w` is what the register file holds. A standby keeps
FL_CTRL `output_enable` 0 (R289), as it keeps TIM_CTRL `gate_enable` (R386); what software wrote acts again once the device is
ACTIVE (log entry 115). -/
def State.viewSys (s : State) (b i : Nat) (w : Nat) : Nat :=
  if b = R.DR_POOL_STATUS.base then s.poolFree
  else if b = R.FL_CTRL.base ∧ s.isStandby then (putBits (BitVec.ofNat 32 w) 31 31 0).toNat
  else if b = R.DR_READY_DEPTH.base then s.readyDepth i
  else if b = R.WM_FEEDER_LOAD.base then s.feederView 0
  else if b = R.WM_FEEDER_SCALE.base then s.feederView 1
  else if b = R.WM_FEEDER_SHED.base then s.feederView 2
  else if b = R.WM_ZONE_STATUS.base then s.zoneView
  else if b = R.WM_STATUS_lead_clamped.base then (putBits (BitVec.ofNat 32 w) 31 31 (b2n s.leadClamped)).toNat
  else if b = R.FUR_NODE_UID_LO.base then s.nodeView 0
  else if b = R.FUR_NODE_UID_HI.base then s.nodeView 1
  else if b = R.FUR_NODE_CAPS.base then s.nodeView 2
  else if b = R.FUR_NODE_TIMING.base then s.nodeView 3
  else if b = R.FUR_NODE_PWM.base then s.nodeView 4
  else if b = R.FUR_NODE_DELAY.base then s.nodeView 5
  else if b = R.FUR_NODE_HOP.base then s.nodeView 6
  else w

/-- Registers of the NET, TIM, BSN and SIP blocks. -/
def State.viewNet (s : State) (b i j : Nat) (w : Nat) : Nat :=
  if b = R.NET_TSQ_ENTRY.base then ((s.mac i).tsq.head?).elim 0 (fun e => tsWord e j)
  else if b = R.TIM_TALLY_ENTRY.base then (s.time.tally.head?).elim 0 (fun e => tallyWord e i)
  else if b = R.TIM_CTRL.base ∧ s.isStandby then (putBits (BitVec.ofNat 32 w) 31 31 0).toNat
  else if b = R.TIM_TALLY_STATUS.base then b2n (s.time.tallyGap ≠ 0) * 2 ^ 31 + s.time.tally.length
  else if b = R.TIM_BASE_STATUS.base ∧ i = 0 ∧ s.time.ptp.st = 3 then w / 2 ^ 24 * 2 ^ 24 + s.holdSeconds s.time.ptp
  else if b = R.TIM_BASE_STATUS.base ∧ i = 2 ∧ s.time.tcode.st = 3 then w / 2 ^ 24 * 2 ^ 24 + s.holdSeconds s.time.tcode
  else if b = R.BSN_BCAST_DATA.base then s.bcastView i
  else if b = R.SIP_STATUS.base then
    if s.within s.tandem.heardAt failTime then w else (putBits (BitVec.ofNat 32 w) 27 27 0).toNat
  else w

/-- Registers of the PM, SLC and SLT blocks. -/
def State.viewCare (s : State) (b i j : Nat) (w : Nat) : Nat :=
  if b = R.PM_TENDER_SEC.base then s.tendSec
  else if b = R.PM_DOMAIN_STATUS.base then s.domains.toNat
  else if b = R.SLC_STATUS.base then (putBits (BitVec.ofNat 32 w) 31 30 s.lifecycle).toNat
  else if b = R.SLC_ROLLBACK.base then s.rollback i
  else if b = R.SLC_IDENTITY.base then if s.lifecycle = lcVoid then 0 else w
  else if b = R.SLT_STATUS.base then w / 2 ^ 11 * 2 ^ 11 + s.siltUsed
  else if b = R.SLT_ENTRY.base then siltWord (s.entry i) j
  else w

/-- The bits of a register that can be read: those of every field that is not WO (R11, R13). -/
def RegRow.readMask (r : RegRow) : Word :=
  r.fields.foldl (fun w f => match f.acc with
    | .wo => w
    | _ => putBits w f.hi f.lo (2 ^ 32 - 1)) 0

/-- What a register shows. -/
def State.shows (s : State) (r : RegRow) (i j : Nat) : Word :=
  let w := (s.rg (r.reg.off i j)).toNat
  let b := r.reg.base
  let v :=
    if b < 0x120000 then s.viewSys b i w
    else if b < 0x160000 then s.viewNet b i j w
    else s.viewCare b i j w
  BitVec.ofNat 32 v &&& r.readMask

/-! ### The block of an offset -/

/-- The domain of a block, by which an offset that its table does not name follows R40. -/
def blockDomain (off : Nat) : Domain :=
  if off < 0x120000 then .sys
  else if off < 0x140000 then .net
  else if off < 0x150000 then .sys
  else if off < 0x160000 then .net
  else if off < 0x170000 then .tend
  else if off < 0x180000 then .sys
  else if off < 0x190000 then .sluice
  else .sys

/-- From here to the end of BAR0 nothing is assigned (R40). -/
def barEnd : Nat := 0x1D0000

/-- Whether an access at an offset meets a domain that is off. -/
def State.offDomain (s : State) (off : Nat) : Bool :=
  if barEnd ≤ off then false
  else
    match findReg (off / 4 * 4) with
    | some (r, _) => !(s.domOn r.dom)
    | none => !(s.domOn (blockDomain off))

/-! ### Latches of pairs (R10, R560) -/

/-- A requester's latch of, or held value for, the _HI register at an offset. -/
def pairKey (req : Requester) (hi : Nat) : Nat := reqNum req * 2 ^ 24 + hi

def State.latch (s : State) (req : Requester) (hi : Nat) : Option Word := mget none0 s.latches (pairKey req hi)

def State.setLatch (s : State) (req : Requester) (hi : Nat) (v : Option Word) : State :=
  { s with latches := mset none0 s.latches (pairKey req hi) v }

def State.hiHeld (s : State) (req : Requester) (hi : Nat) : Option Word := mget none0 s.heldHi (pairKey req hi)

def State.setHiHeld (s : State) (req : Requester) (hi : Nat) (v : Option Word) : State :=
  { s with heldHi := mset none0 s.heldHi (pairKey req hi) v }

/-- What the _HI register of a pair shows now. -/
def State.showsAt (s : State) (off : Nat) : Word :=
  match findReg off with
  | some (r, i, j) => s.shows r i j
  | none => 0

/-! ### One word -/

/-- A read of a register whose domain is on: its value, and the effects of R10, R441, R463 and R499. -/
def State.readReg (s : State) (req : Requester) (r : RegRow) (i j : Nat) : Word × State :=
  let off := r.reg.off i j
  let v := s.shows r i j
  match r.half with
  | .low => (v, s.setLatch req (off + 4) (some (s.showsAt (off + 4))))
  | .high => ((s.latch req off).getD v, s)
  | .single =>
    if off = R.PM_TENDER_SEC.base then (v, s.fset R.PM_TENDER_TICKS_ticks s.tendTick)
    else if off = R.SIP_LEDGER_MAX.base then (v, s.setRg off 0)
    else if off = R.SLC_RANDOM.base then
      let (n, s1) := s.slcRandom
      (BitVec.ofNat 32 n, s1)
    else (v, s)

/-- A read of the aligned word at an offset, with nothing counted: an off domain reads all ones. -/
def State.readWord (s : State) (req : Requester) (off : Nat) : Word × State :=
  if s.offDomain off then (0xFFFFFFFF, s)
  else if barEnd ≤ off then (0, s)
  else
    match findReg off with
    | some (r, i, j) => s.readReg req r i j
    | none => (0, s)

/-- `n` words from an aligned offset, in ascending address. -/
def State.readWords (s : State) (req : Requester) (off : Nat) : Nat → List Byte × State
  | 0 => ([], s)
  | n + 1 =>
    let (v, s1) := s.readWord req off
    let (l, s2) := s1.readWords req (off + 4) n
    (leBytes v.toNat 4 ++ l, s2)

/-! ### A read of any size (R9) -/

/-- A read of `n` bytes: the addressed bytes of every word it touches. One that meets an off domain is counted once. -/
def State.barRead (s : State) (req : Requester) (off n : Nat) : Nat × State :=
  if n = 0 then (0, s)
  else
    let a := off / 4
    let k := (off + n - 1) / 4 + 1 - a
    let bad := (List.range k).any (fun m => s.offDomain (4 * (a + m)))
    let (l, s1) := s.readWords req (4 * a) k
    (leNat ((l.drop (off % 4)).take n), if bad then s1.accessErr false req off else s1)

end Sys2Proof.Machine
end

