-- ==== Sys2Proof/Machine/Bus.lean ====
section
/-! DEFINITION. Writing a register (R9..R13, R40, R42, R557..R560): the access codes, the pairs, and block by block what a write
does beyond them. The commands that name one register write it through here too. -/

namespace Sys2Proof.Machine

open Sys2Proof

/-! ### Access codes (R13) -/

/-- A field takes a write; `locked` closes RWL fields. -/
def FieldRow.take (locked : Bool) (v w : Word) (f : FieldRow) : Word :=
  match f.acc with
  | .rw => putBits w f.hi f.lo (getBits v f.hi f.lo)
  | .rwl => if locked then w else putBits w f.hi f.lo (getBits v f.hi f.lo)
  | .w1c => putBits w f.hi f.lo (getBits w f.hi f.lo &&& (2 ^ 32 - 1 - getBits v f.hi f.lo))
  | .ro => w
  | .wo => w

def RegRow.take (r : RegRow) (locked : Bool) (v w : Word) : Word := r.fields.foldl (fun w f => f.take locked v w) w

/-- Whether every field of a register is RO or reserved. -/
def RegRow.readOnly (r : RegRow) : Bool := r.fields.all (fun f => decide (f.acc = .ro))

def RegRow.lockable (r : RegRow) : Bool := r.fields.any (fun f => decide (f.acc = .rwl))

/-- A write that does nothing beyond its access codes. A write to a register with a locked field is counted. -/
def State.plainWrite (s : State) (r : RegRow) (i j : Nat) (v : Word) : State :=
  let off := r.reg.off i j
  let locked := decide (s.lifecycle ≠ lcFactory)
  let s1 := s.setRg off (r.take locked v (s.rg off))
  if r.lockable && locked then s1.bumpF R.SLC_LOCKED_WRITE_COUNT else s1

/-! ### Resets and power (R455, R547..R549, R556, R565) -/

/-- A write of RST_CTRL: without its key it is discarded and counted. -/
def State.rstCtrlWrite (s : State) (req : Requester) (v : Word) : State :=
  if getBits v 15 0 ≠ 0xA5C3 then s.accessErr true req R.RST_CTRL.off
  else if v.getLsbD 31 then s.askReset false
  else if v.getLsbD 30 then s.askReset true
  else s

/-- Whether RST_DOMAIN may reset a domain now. -/
def State.mayReset (s : State) (d : Domain) : Bool :=
  match d with
  | .coreA => s.inService scCluster 0
  | .coreB => s.inService scCluster 1
  | .latLo => !(s.fbit R.FL_CTRL_output_enable)
  | .latHi => !(s.fbit R.FL_CTRL_output_enable)
  | .host => true
  | _ => false

/-- A write of RST_DOMAIN. -/
def State.rstDomainWrite (s : State) (req : Requester) (v : Word) : State :=
  let l := allDomains.filter (fun d => v.getLsbD (domNum d))
  if l.all (fun d => s.mayReset d) then s.resetDomains l else s.accessErr true req R.RST_DOMAIN.off

/-- A write of PM_REQUEST. -/
def State.pmRequestWrite (s : State) (v : Word) : State :=
  if v.getLsbD 31 then s.pmAbort none else s.pmAsk (getBits v 29 28) none

/-- A write of GLB_IRQ_TEST: the vector goes out as from a source, and nothing else changes. -/
def State.irqTestWrite (s : State) (v : Word) : State := if v.getLsbD 31 then s.sendVector (getBits v 5 0) else s

/-! ### Gauge units (R527, R543) -/

/-- Whether a live table names a unit: a signature rectangle, a legibility group, a raster rectangle. -/
def State.unitNamed (s : State) (g : Nat) : Bool :=
  (List.range 4).any (fun c => (List.range 4).any (fun k => (s.live.sigRect c k).1 && decide ((s.live.sigRect c k).2.1 = g))) ||
    s.live.legGroups.any (fun q => bits (s.live.grpW q 1) 31 31 = 1 && decide (bits (s.live.grpW q 1) 3 0 = g)) ||
    (List.range 2).any (fun r => (List.range 4).any (fun k =>
      (rasRect (s.live.rasWords r) k).1 && decide ((rasRect (s.live.rasWords r) k).2 = g)))

/-- A write of GA_CFG: fields other than `enable` are held while it is 1, and `source` while a table names the unit. -/
def State.gaCfgWrite (s : State) (req : Requester) (g : Nat) (v : Word) : State :=
  let old := s.rg (R.GA_CFG.off g)
  let on := old.getLsbD 31
  let w := putBits (putBits v 28 27 (if getBits v 28 27 = 3 then 0 else getBits v 28 27)) 20 16 (max 7 (getBits v 20 16))
  let src := getBits old 30 29 ≠ getBits v 30 29 && s.unitNamed g
  let held := on && decide (getBits old 30 25 ≠ getBits w 30 25 ∨ getBits old 20 8 ≠ getBits w 20 8)
  let body := if on then old else if src then putBits w 30 29 (getBits old 30 29) else w
  let s1 := s.setRg (R.GA_CFG.off g) (putBits (body &&& 0xFE1FFF00) 31 31 (getBits v 31 31))
  if held || src then s1.accessErr true req (R.GA_CFG.off g) else s1

/-! ### Fields that are stored clamped, and registers that a state holds

A register's write is `none` where its access codes alone decide. -/

/-- A write that is discarded, and counted or not. -/
def State.discard (s : State) (count : Bool) (req : Requester) (off : Nat) : State :=
  if count then s.accessErr true req off else s

/-- HOST and DR. -/
def State.writeHost (s : State) (req : Requester) (b i off : Nat) (v : Word) : Option State :=
  if b = R.HOST_POLL_INTERVAL.base then some (s.fset R.HOST_POLL_INTERVAL_interval_ns (clampN 250 1000000 (getBits v 19 0)))
  else if b = R.HOST_NUDGE.base then some s.nudge
  else if b = R.HOST_RING_CFG.base then some (s.ringCfgWrite req i v)
  else if b = R.HOST_SQ_BASE_LO.base ∨ b = R.HOST_SQ_BASE_HI.base ∨ b = R.HOST_CQ_BASE_LO.base ∨
      b = R.HOST_CQ_BASE_HI.base then
    if s.ringBaseHeld i then some (s.accessErr true req off) else none
  else if b = R.DR_CORE_RUN_A.base then some (s.coreRunWrite 0 v).clusterReports
  else if b = R.DR_CORE_RUN_B.base then some (s.coreRunWrite 1 v).clusterReports
  else none

/-- PF, RL, CMP and CLR. -/
def State.writePix (s : State) (req : Requester) (b i : Nat) (v : Word) : Option State :=
  if b = R.PF_CTRL.base then some (s.pfCtrlWrite req v)
  else if b = R.PF_DELAY_SLEW.base then some (s.delaySlewWrite v)
  else if b = R.PF_FADEQ_BASE.base then some (s.fadeqBaseWrite req v)
  else if b = R.PF_FADEQ_TAIL.base then some (s.fadeqTailWrite i v)
  else if b = R.CMP_CTRL.base then some (s.cmpCtrlWrite req v)
  else if b = R.CMP_FLATTEN_BASE.base then some (s.flattenBaseWrite req v)
  else if b = R.CMP_FLATTEN_SIZE.base then some (s.flattenSizeWrite req v)
  else if b = R.CLR_CTRL.base then some (s.clrCtrlWrite req v)
  else if b = R.CLR_TABLE_BASE.base then some (s.clrBaseWrite req v)
  else none

/-- WM, FUR and RAS. -/
def State.writeOut (s : State) (req : Requester) (b i : Nat) (v : Word) : Option State :=
  if b = R.WM_CTRL.base then some (s.wmCtrlWrite v)
  else if b = R.WM_SUPPLY_TIMING.base then some (s.supplyTimingWrite v)
  else if b = R.WM_PROBE_CFG.base then some (s.probeCfgWrite v)
  else if b = R.WM_PMBUS_CFG.base then some (s.pmbusCfgWrite i v)
  else if b = R.WM_LEG_ACK.base then some (s.legAckWrite v)
  else if b = R.FUR_CTRL.base then some (s.furCtrlWrite v)
  else if b = R.FUR_NODE_BASE.base then some (s.nodeBaseWrite req v)
  else if b = R.RAS_CTRL.base then some (s.rasCtrlWrite v)
  else none

/-- A stream's configuration: held but for `enable` while that is 1. -/
def streamCfg (old v : Word) : Word := if old.getLsbD 31 then putBits old 31 31 (getBits v 31 31) else v

/-- A write of a stream's configuration; one that would change a held field is counted. -/
def State.streamWrite (s : State) (req : Requester) (r : RegRow) (i j : Nat) (v : Word) : State :=
  let old := s.rg (r.reg.off i j)
  let s1 := s.plainWrite r i j (streamCfg old v)
  if s1.rg (r.reg.off i j) = (s.plainWrite r i j v).rg (r.reg.off i j) then s1 else s1.accessErr true req (r.reg.off i j)

/-- NET. -/
def State.writeNet (s : State) (req : Requester) (r : RegRow) (i j : Nat) (v : Word) : Option State :=
  let b := r.reg.base
  if b = R.NET_MAC_CFG.base then some (s.macCfgWrite req i v).macEnds
  else if b = R.NET_WEIR.base then some (s.weirWrite req i v)
  else if b = R.NET_RXQ_CFG.base then some (s.rxqCfgWrite req i j v)
  else if b = R.NET_TSQ_POP.base then some (s.tsqPop i)
  else if b = R.NET_VID_CFG.base then
    let w := if 3 < getBits v 28 26 then putBits v 28 26 0 else v
    some (s.streamWrite req r i j w)
  else if b = R.NET_AUD_CFG.base then some (s.streamWrite req r i j v)
  else none

/-- Whether a gate is armed, and its registers held. -/
def State.gateHeld (s : State) (g : Nat) : Bool := (s.gate g).armed

/-- TIM. -/
def State.writeTim (s : State) (req : Requester) (b i off : Nat) (v : Word) : Option State :=
  if b = R.TIM_CAPTURE.base then some s.capture
  else if b = R.TIM_TALLY_POP.base then some s.tallyPop
  else if b = R.TIM_GATE_CFG.base then
    if v.getLsbD 31 then some (s.gateArm req i v) else some ((s.gateOff i).setRg off v)
  else if R.TIM_GATE_START_SEC_LO.base ≤ b ∧ b ≤ R.TIM_GATE_WIDTH_NS.base then
    if s.gateHeld i then some (s.accessErr true req off) else none
  else none

/-- BSN_OP by its `op`. Of another value the spec gives no effect. -/
def State.bsnOpWrite (s : State) (req : Requester) (v : Word) : State :=
  let op := getBits v 31 28
  if op = 1 then s.opStart req true (fun s => s.rootCommit)
  else if op = 2 then s.opStart req true (fun s => s.rootSnapshot)
  else if op = 3 then s.opStart req false (fun s => s.arrive (s.fget R.BSN_OP_ARG))
  else if op = 4 then s.opStart req true (fun s => s.bcastStart (getBits v 8 0))
  else if op = 5 then s.opStart req true (fun s => s.rootReset)
  else s

/-- BSN and SIP. The bytes of a broadcast are written at the root alone. -/
def State.writeBsn (s : State) (req : Requester) (b off : Nat) (v : Word) : Option State :=
  if b = R.BSN_CTRL.base then some (s.bsnCtrlWrite v)
  else if b = R.BSN_OP.base then some (s.bsnOpWrite req v)
  else if b = R.BSN_BCAST_POP.base then some s.bcastPop
  else if b = R.BSN_BCAST_DATA.base then some (if s.isRoot then s.setRg off v else s.accessErr true req off)
  else if b = R.SIP_CTRL.base then some (s.sipCtrlWrite v)
  else if b = R.SIP_DOCK_SIZE.base then some (s.fset R.SIP_DOCK_SIZE_size_mib (min 2048 (getBits v 11 0)))
  else none

/-- PM. An alarm armed for a time already passed fires at once (R450). -/
def State.writePm (s : State) (req : Requester) (r : RegRow) (i j : Nat) (v : Word) : Option State :=
  let b := r.reg.base
  if b = R.PM_REQUEST.base then some (s.pmRequestWrite v)
  else if b = R.PM_ALARM_TICKS.base then some (s.plainWrite r i j v).tenderAlarm
  else if b = R.PM_BROWNOUT_CFG.base then if getBits v 31 21 ≤ getBits v 20 10 then some (s.accessErr true req (r.reg.off i j)) else none
  else if b = R.PM_HOLDUP_CFG.base then some (s.plainWrite r i j (putBits v 15 8 (max 16 (getBits v 15 8))))
  else none

/-- A threshold of R466 above its fuse value is stored as that. -/
def critCap (v : Word) : Word :=
  let top := regReset R.TH_CRIT_LOW.off
  if sint (getBits top 31 16) 16 < sint (getBits v 31 16) 16 then putBits v 31 16 (getBits top 31 16) else v

/-- TH and CAL. -/
def State.writeTh (s : State) (r : RegRow) (i j : Nat) (v : Word) : Option State :=
  let b := r.reg.base
  if b = R.TH_CTRL.base then some (s.plainWrite r i j (putBits v 30 29 (min 2 (getBits v 30 29))))
  else if b = R.TH_CRIT_LOW.base then some (s.plainWrite r i j (critCap v))
  else if b = R.CAL_CTRL.base then
    some (s.plainWrite r i j (putBits (putBits v 13 8 (max 1 (getBits v 13 8))) 7 0 (max 1 (getBits v 7 0))))
  else if b = R.CAL_PORT_CFG.base then some (s.plainWrite r i j (putBits v 15 8 (clampN 25 200 (getBits v 15 8))))
  else none

/-- SLC and UPD. -/
def State.writeSlc (s : State) (req : Requester) (host : HostView) (r : RegRow) (i j : Nat) (v : Word) : Option State :=
  let b := r.reg.base
  if b = R.SLC_OP.base then some (s.slcOpWrite req host v)
  else if b = R.SLC_SHOW_REGION_BASE.base ∨ b = R.SLC_SHOW_REGION_SIZE.base then
    if s.fbit R.SLC_STATUS_show_key_loaded then some (s.accessErr true req (r.reg.off i j)) else none
  else if b = R.UPD_CTRL.base then
    let s1 := s.plainWrite r i j v
    some (if v.getLsbD 31 then s1.updAbort req else s1)
  else if b = R.UPD_SLOT_BASE.base then if s.fget R.UPD_SLOT_STATUS_state i ≠ 0 then some (s.accessErr true req (r.reg.off i j)) else none
  else none

/-- GA, SLT and RST. -/
def State.writeCare (s : State) (req : Requester) (b i off : Nat) (v : Word) : Option State :=
  if b = R.GA_CFG.base then some (s.gaCfgWrite req i v)
  else if b = R.GA_POLY.base ∨ b = R.GA_INIT.base ∨ b = R.GA_XOROUT.base then
    if s.fbit R.GA_CFG_enable i then some (s.accessErr true req off) else none
  else if b = R.GA_RUN.base then some (s.gaRunWrite req i v)
  else if b = R.GA_DATA.base then some (s.gaDataWrite req i v)
  else if b = R.GA_DATA8.base then some (s.gaData8Write req i v)
  else if b = R.GA_FINISH.base then some (s.gaFinishWrite req i)
  else if b = R.SLT_ACK.base then
    some (if v.getLsbD 31 then s.siltRelease (getBits v 9 0) else s.siltSeen (getBits v 9 0))
  else if b = R.RST_CTRL.base then some (s.rstCtrlWrite req v)
  else if b = R.RST_DOMAIN.base then some (s.rstDomainWrite req v)
  else none

/-- What a write of a register does beyond its access codes, if anything. -/
def State.ownWrite (s : State) (req : Requester) (host : HostView) (r : RegRow) (i j : Nat) (v : Word) : Option State :=
  let b := r.reg.base
  let off := r.reg.off i j
  if b < 0x10000 then if b = R.GLB_IRQ_TEST.base then some (s.irqTestWrite v) else none
  else if b < 0x30000 then s.writeHost req b i off v
  else if b < 0x70000 then s.writePix req b i v
  else if b < 0x120000 then s.writeOut req b i v
  else if b < 0x130000 then s.writeNet req r i j v
  else if b < 0x140000 then s.writeTim req b i off v
  else if b < 0x150000 then s.writeOut req b i v
  else if b < 0x160000 then s.writeBsn req b off v
  else if b < 0x170000 then s.writePm req r i j v
  else if b < 0x180000 then s.writeTh r i j v
  else if b < 0x1A0000 then s.writeSlc req host r i j v
  else s.writeCare req b i off v

/-! ### Pairs (R10) -/

/-- The _HI half of a pair as it is stored: `route` 3 of NET_MATCH is stored as 0 (R354). -/
def hiStored (b : Nat) (v : Word) : Word :=
  if b = R.NET_MATCH_HI.base ∧ getBits v 29 28 = 3 then putBits v 29 28 0 else v

/-- A write of a _HI register is held for its requester. A register that its state holds discards it as it would the pair. -/
def State.hiWrite (s : State) (req : Requester) (host : HostView) (r : RegRow) (i j : Nat) (v : Word) : State :=
  match s.ownWrite req host r i j v with
  | some s1 => s1
  | none => s.setHiHeld req (r.reg.off i j) (some v)

/-- A write of a _LO register: discarded, the held _HI goes with it; else the pair takes effect together. -/
def State.loWrite (s : State) (req : Requester) (host : HostView) (r : RegRow) (i j : Nat) (v : Word) : State :=
  let off := r.reg.off i j
  let held := s.hiHeld req (off + 4)
  let s1 := s.setHiHeld req (off + 4) none
  match s1.ownWrite req host r i j v with
  | some s2 => s2
  | none =>
    let s2 := s1.plainWrite r i j v
    let s3 := match held, findReg (off + 4) with
      | some h, some (rh, ih, jh) => s2.plainWrite rh ih jh (hiStored rh.reg.base h)
      | _, _ => s2
    if off = R.PM_PTP_ALARM_LO.base then s3.ptpAlarm else s3

/-! ### A write -/

/-- A write of a whole register whose domain is on. -/
def State.writeReg (s : State) (req : Requester) (host : HostView) (r : RegRow) (i j : Nat) (v : Word) : State :=
  let off := r.reg.off i j
  if r.readOnly && r.reg.base ≠ R.BSN_BCAST_DATA.base then s.accessErr true req off
  else
    match r.half with
    | .low => s.loWrite req host r i j v
    | .high => s.hiWrite req host r i j v
    | .single => (s.ownWrite req host r i j v).getD (s.plainWrite r i j v)

/-- A discarded write of `n` bytes takes the held _HI of every _LO register that it touches with it. -/
def State.dropHeld (s : State) (req : Requester) (off n : Nat) : State :=
  (List.range ((off + n + 3) / 4 - off / 4)).foldl (fun s k =>
    let word := 4 * (off / 4 + k)
    match findReg word with
    | some (r, _) =>
      match r.half with
      | .low => s.setHiHeld req (word + 4) none
      | _ => s
    | none => s) s

/-- A debug instruction that the level does not allow acts as BYPASS. -/
def State.tapDenied (s : State) : State := (s.bumpF R.SLC_AUTH_FAIL_COUNT).emit (.jtag 0)

/-- A write of `n` bytes at an offset: one of another size or alignment than a word, or to an off domain, is discarded and
counted (R9, R40); one to an unassigned offset is ignored (R11). The TAP writes no SLC register: the write is discarded and
counted as such (R539, R558), and its debug instruction, which no level allows, acts as BYPASS (R500). -/
def State.barWrite (s : State) (req : Requester) (host : HostView) (off n : Nat) (v : Word) : State :=
  if n ≠ 4 ∨ off % 4 ≠ 0 ∨ s.offDomain off then (s.dropHeld req off n).accessErr true req off
  else if req = .tap ∧ 0x180000 ≤ off ∧ off < 0x190000 then ((s.dropHeld req off n).accessErr true req off).tapDenied
  else if barEnd ≤ off then s
  else
    match findReg off with
    | some (r, i, j) => s.writeReg req host r i j v
    | none => s

end Sys2Proof.Machine
end

