-- ==== Sys2Proof/Machine/Access.lean ====
section
/-! DEFINITION. The requesters' ways into set-up space (R451, R500, R558, R566, R567), and the commands that are a write or a read of
a register. -/

namespace Sys2Proof.Machine

open Sys2Proof

/-! ### The management port's subset (R566) -/

def inRow (off : Nat) (f : RF) : Bool := (findReg off).any (fun e => e.1.reg.base = f.base)

/-- The PM block. -/
def inPm (off : Nat) : Bool := decide (0x160000 ≤ off ∧ off < 0x170000) && (findReg off).isSome

/-- Registers that the port may read in SHOW, IDLE and WATCH. -/
def smbReads (off : Nat) : Bool :=
  decide (off ≤ 0x2C) && off % 4 = 0 && (findReg off).isSome || inPm off ||
    decide (0x1C0000 ≤ off ∧ off < 0x1D0000) && (findReg off).isSome ||
    [R.TH_STATUS, R.TH_SENSOR, R.TH_CRIT_COUNT, R.TH_LAST_STOP, R.TH_HOURS_BIN, R.TH_POH_HOURS, R.TH_SHOW_HOURS, R.SLC_STATUS,
      R.SLC_VIOLATION_COUNT, R.SLC_LAST_VIOLATION, R.SLC_MEASURE, R.SLC_IDENTITY, R.UPD_STATUS, R.UPD_BOOT_STATUS,
      R.UPD_REACH_STATUS, R.BSN_STATUS, R.SIP_STATUS, R.SIP_PEER_HEALTH, R.SLT_STATUS, R.SLT_ENTRY].any (fun f => inRow off f)

/-- Registers that it may write there. -/
def smbWrites (off : Nat) : Bool :=
  decide (off = R.GLB_SCRATCH.off) || inPm off || decide (off = R.RST_CTRL.off) || decide (off = R.SLT_ACK.off)

/-- Whether the port reaches an offset: in DORMANT the PM block alone (R451). -/
def State.smbMay (s : State) (write : Bool) (off : Nat) : Bool :=
  if s.pmState = pmDormant then inPm off else if write then smbWrites off else smbReads off

/-! ### The TAP (R500, R504) -/

/-- The TAP is unpowered in DORMANT. -/
def State.tapOn (s : State) : Bool := decide (s.pmState ≠ pmDormant)

/-! ### An access by any requester -/

/-- A write as its requester can make it. A write that the management port may not make is not acknowledged, and counted
where GLB runs. -/
def State.regWrite (s : State) (req : Requester) (host : HostView) (off n : Nat) (v : Word) : State :=
  match req with
  | .smbus => if s.smbMay true off then s.barWrite .smbus host off n v else s.accessErr true .smbus off
  | .tap =>
    if !(s.tapOn) then s
    else if s.debugLevel = 0 then s.tapDenied
    else s.barWrite .tap host off n v
  | .host => s.barWrite .host host off n v
  | .core k => s.barWrite (.core k) host off n v

/-- A read as its requester can make it, with the value it gets. -/
def State.regRead (s : State) (req : Requester) (off n : Nat) : Nat × State :=
  match req with
  | .smbus => if s.smbMay false off then s.barRead .smbus off n else (maxWord, s.accessErr false .smbus off)
  | .tap =>
    if !(s.tapOn) then (0, s)
    else if s.debugLevel = 0 then (0, s.tapDenied)
    else s.barRead .tap off n
  | .host => s.barRead .host off n
  | .core k => s.barRead (.core k) off n

/-- A read whose value goes to its requester. -/
def State.readOut (s : State) (req : Requester) (off n : Nat) : State :=
  let (v, s1) := s.regRead req off n
  s1.emit (.readData (reqNum req) off v)

/-- A 32-bit write of one register. -/
def State.write1 (s : State) (req : Requester) (off : Nat) (v : Word) : State := s.regWrite req {} off 4 v

/-! ### Commands that write a register of their own -/

def execHostNudge (req : Requester) (value : Word) (s : State) : Host.Outcome State Fault Refusal :=
  .next (s.write1 req R.HOST_NUDGE.off value).settle

/-- The write carries `enable` 1. -/
def execRingEnable (req : Requester) (ring : Fin 32) (value : Word) (s : State) : Host.Outcome State Fault Refusal :=
  .next (s.write1 req (R.HOST_RING_CFG.off ring) (putBits value 31 31 1)).settle

/-- The write carries `enable` 0. -/
def execRingDisable (req : Requester) (ring : Fin 32) (value : Word) (s : State) : Host.Outcome State Fault Refusal :=
  .next (s.write1 req (R.HOST_RING_CFG.off ring) (putBits value 31 31 0)).settle

def execDrCoreRunWrite (req : Requester) (clusterB : Bool) (value : Word) (s : State) : Host.Outcome State Fault Refusal :=
  .next (s.write1 req (if clusterB then R.DR_CORE_RUN_B.off else R.DR_CORE_RUN_A.off) value).settle

def execPfFadeqTailWrite (req : Requester) (queue : Fin 64) (value : Word) (s : State) : Host.Outcome State Fault Refusal :=
  .next (s.write1 req (R.PF_FADEQ_TAIL.off queue) value).settle

def execPfCtrlWrite (req : Requester) (value : Word) (s : State) : Host.Outcome State Fault Refusal :=
  .next (s.write1 req R.PF_CTRL.off value).settle

def execCmpCtrlWrite (req : Requester) (value : Word) (s : State) : Host.Outcome State Fault Refusal :=
  .next (s.write1 req R.CMP_CTRL.off value).settle

def execClrCtrlWrite (req : Requester) (value : Word) (s : State) : Host.Outcome State Fault Refusal :=
  .next (s.write1 req R.CLR_CTRL.off value).settle

def execClrTableBaseWrite (req : Requester) (value : Word) (s : State) : Host.Outcome State Fault Refusal :=
  .next (s.write1 req R.CLR_TABLE_BASE.off value).settle

def execWmCtrlWrite (req : Requester) (value : Word) (s : State) : Host.Outcome State Fault Refusal :=
  .next (s.write1 req R.WM_CTRL.off value).settle

def execWmLegAckWrite (req : Requester) (value : Word) (s : State) : Host.Outcome State Fault Refusal :=
  .next (s.write1 req R.WM_LEG_ACK.off value).settle

/-- The write carries `enum_go` 1. -/
def execEnumGo (req : Requester) (value : Word) (s : State) : Host.Outcome State Fault Refusal :=
  .next (s.write1 req R.FUR_CTRL.off (putBits value 31 31 1)).settle

def execNetMacCfgWrite (req : Requester) (mac : Fin 4) (value : Word) (s : State) : Host.Outcome State Fault Refusal :=
  .next (s.write1 req (R.NET_MAC_CFG.off mac) value).settle

def execNetTsqPop (req : Requester) (mac : Fin 4) (value : Word) (s : State) : Host.Outcome State Fault Refusal :=
  .next (s.write1 req (R.NET_TSQ_POP.off mac) value).settle

def execTimCapture (req : Requester) (value : Word) (s : State) : Host.Outcome State Fault Refusal :=
  .next (s.write1 req R.TIM_CAPTURE.off value).settle

def execTimTallyPop (req : Requester) (value : Word) (s : State) : Host.Outcome State Fault Refusal :=
  .next (s.write1 req R.TIM_TALLY_POP.off value).settle

/-- The write carries `arm` 1. -/
def execGateArm (req : Requester) (gate : Fin 8) (value : Word) (s : State) : Host.Outcome State Fault Refusal :=
  .next (s.write1 req (R.TIM_GATE_CFG.off gate) (putBits value 31 31 1)).settle

/-- The write carries `arm` 0. -/
def execGateDisarm (req : Requester) (gate : Fin 8) (value : Word) (s : State) : Host.Outcome State Fault Refusal :=
  .next (s.write1 req (R.TIM_GATE_CFG.off gate) (putBits value 31 31 0)).settle

def execBsnBcastPop (req : Requester) (value : Word) (s : State) : Host.Outcome State Fault Refusal :=
  .next (s.write1 req R.BSN_BCAST_POP.off value).settle

/-- The write carries `abort` 0. -/
def execPmRequest (req : Requester) (value : Word) (s : State) : Host.Outcome State Fault Refusal :=
  .next (s.write1 req R.PM_REQUEST.off (putBits value 31 31 0)).settle

/-- The write carries `abort` 1. -/
def execPmRequestAbort (req : Requester) (value : Word) (s : State) : Host.Outcome State Fault Refusal :=
  .next (s.write1 req R.PM_REQUEST.off (putBits value 31 31 1)).settle

/-- The write carries `abort` 1. -/
def execUpdateAbort (req : Requester) (value : Word) (s : State) : Host.Outcome State Fault Refusal :=
  .next (s.write1 req R.UPD_CTRL.off (putBits value 31 31 1)).settle

def execGaRunWrite (req : Requester) (unit : Fin 16) (value : Word) (s : State) : Host.Outcome State Fault Refusal :=
  .next (s.write1 req (R.GA_RUN.off unit) value).settle

def execGaDataWrite (req : Requester) (unit : Fin 16) (value : Word) (s : State) : Host.Outcome State Fault Refusal :=
  .next (s.write1 req (R.GA_DATA.off unit) value).settle

def execGaData8Write (req : Requester) (unit : Fin 16) (value : Word) (s : State) : Host.Outcome State Fault Refusal :=
  .next (s.write1 req (R.GA_DATA8.off unit) value).settle

def execGaFinishWrite (req : Requester) (unit : Fin 16) (value : Word) (s : State) : Host.Outcome State Fault Refusal :=
  .next (s.write1 req (R.GA_FINISH.off unit) value).settle

def execSltAckSeen (req : Requester) (entry : Fin 1024) (s : State) : Host.Outcome State Fault Refusal :=
  .next (s.write1 req R.SLT_ACK.off (BitVec.ofNat 32 entry)).settle

def execSltAckRelease (req : Requester) (entry : Fin 1024) (s : State) : Host.Outcome State Fault Refusal :=
  .next (s.write1 req R.SLT_ACK.off (BitVec.ofNat 32 (2 ^ 31 + entry))).settle

/-- The write carries `warm` 1. -/
def execWarmReset (req : Requester) (value : Word) (s : State) : Host.Outcome State Fault Refusal :=
  .next (s.write1 req R.RST_CTRL.off (putBits value 31 31 1)).settle

/-- The write carries `basin_local` 1, and `warm` 0. -/
def execBasinLocalReset (req : Requester) (value : Word) (s : State) : Host.Outcome State Fault Refusal :=
  .next (s.write1 req R.RST_CTRL.off (putBits value 31 30 1)).settle

def execRstDomainWrite (req : Requester) (value : Word) (s : State) : Host.Outcome State Fault Refusal :=
  .next (s.write1 req R.RST_DOMAIN.off value).settle

/-- The write carries `go` 1. -/
def execGlbIrqTestWrite (req : Requester) (value : Word) (s : State) : Host.Outcome State Fault Refusal :=
  .next (s.write1 req R.GLB_IRQ_TEST.off (putBits value 31 31 1)).settle

/-! ### The Sluice's operations (R507) -/

/-- A write of SLC_OP with an operation and its argument; `host` is host memory as the operation finds it. -/
def State.slcCommand (s : State) (req : Requester) (host : HostView) (op : Nat) (arg : BitVec 16) : State :=
  (s.regWrite req host R.SLC_OP.off 4 (BitVec.ofNat 32 (op * 2 ^ 24 + arg.toNat))).settle

def execSlcClaim (req : Requester) (host : HostView) (arg : BitVec 16) (s : State) : Host.Outcome State Fault Refusal :=
  .next (s.slcCommand req host 0x01 arg)

def execSlcReturn (req : Requester) (host : HostView) (arg : BitVec 16) (s : State) : Host.Outcome State Fault Refusal :=
  .next (s.slcCommand req host 0x02 arg)

def execSlcVoid (req : Requester) (host : HostView) (arg : BitVec 16) (s : State) : Host.Outcome State Fault Refusal :=
  .next (s.slcCommand req host 0x03 arg)

def execChallenge (req : Requester) (host : HostView) (arg : BitVec 16) (s : State) : Host.Outcome State Fault Refusal :=
  .next (s.slcCommand req host 0x10 arg)

def execDebugOpen (req : Requester) (host : HostView) (arg : BitVec 16) (s : State) : Host.Outcome State Fault Refusal :=
  .next (s.slcCommand req host 0x11 arg)

def execDebugClose (req : Requester) (host : HostView) (arg : BitVec 16) (s : State) : Host.Outcome State Fault Refusal :=
  .next (s.slcCommand req host 0x12 arg)

def execKeyInstall (req : Requester) (host : HostView) (arg : BitVec 16) (s : State) : Host.Outcome State Fault Refusal :=
  .next (s.slcCommand req host 0x20 arg)

def execKeyLoad (req : Requester) (host : HostView) (arg : BitVec 16) (s : State) : Host.Outcome State Fault Refusal :=
  .next (s.slcCommand req host 0x21 arg)

def execKeyErase (req : Requester) (host : HostView) (arg : BitVec 16) (s : State) : Host.Outcome State Fault Refusal :=
  .next (s.slcCommand req host 0x22 arg)

def execEncrypt (req : Requester) (host : HostView) (arg : BitVec 16) (s : State) : Host.Outcome State Fault Refusal :=
  .next (s.slcCommand req host 0x30 arg)

def execDecrypt (req : Requester) (host : HostView) (arg : BitVec 16) (s : State) : Host.Outcome State Fault Refusal :=
  .next (s.slcCommand req host 0x31 arg)

def execAttest (req : Requester) (host : HostView) (arg : BitVec 16) (s : State) : Host.Outcome State Fault Refusal :=
  .next (s.slcCommand req host 0x40 arg)

def execAdvanceRollback (req : Requester) (host : HostView) (arg : BitVec 16) (s : State) : Host.Outcome State Fault Refusal :=
  .next (s.slcCommand req host 0x50 arg)

/-! ### Commands that read a register of their own -/

/-- Whether an access of `n` bytes touches the word at an offset. -/
def touchesWord (off n word : Nat) : Bool := decide (0 < n ∧ off < word + 4 ∧ word < off + n)

/-- A read, of any size and alignment (R9), that touches a register with a read effect of its own. -/
def State.readTouching (s : State) (req : Requester) (word off n : Nat) : State :=
  (if touchesWord off n word then s.readOut req off n else s).settle

def execPmTenderSecRead (req : Requester) (offset : BitVec 24) (bytes : Fin 9) (s : State) : Host.Outcome State Fault Refusal :=
  .next (s.readTouching req R.PM_TENDER_SEC.off offset.toNat bytes)

def execSipLedgerMaxRead (req : Requester) (offset : BitVec 24) (bytes : Fin 9) (s : State) : Host.Outcome State Fault Refusal :=
  .next (s.readTouching req R.SIP_LEDGER_MAX.off offset.toNat bytes)

def execSlcRandomRead (req : Requester) (offset : BitVec 24) (bytes : Fin 9) (s : State) : Host.Outcome State Fault Refusal :=
  .next (s.readTouching req R.SLC_RANDOM.off offset.toNat bytes)

/-! ### Commands that access any register -/

/-- Whether an access touches a register of a half of a pair. -/
def touchesHalf (h : PairHalf) (off n : Nat) : Bool :=
  (List.range ((off + n + 3) / 4 - off / 4)).any (fun k => (findReg (4 * (off / 4 + k))).any (fun e => decide (e.1.half = h)))

/-- A read that touches a _LO register. -/
def execPairLoRead (req : Requester) (offset : BitVec 24) (bytes : Fin 9) (s : State) : Host.Outcome State Fault Refusal :=
  .next (if touchesHalf .low offset.toNat bytes then s.readOut req offset.toNat bytes else s).settle

/-- A write that touches a _HI register. -/
def execPairHiWrite (req : Requester) (offset : BitVec 24) (bytes : Fin 9) (value : Word) (s : State) :
    Host.Outcome State Fault Refusal :=
  .next (if touchesHalf .high offset.toNat bytes then s.regWrite req {} offset.toNat bytes value else s).settle

/-- A write that touches a _LO register. -/
def execPairLoWrite (req : Requester) (offset : BitVec 24) (bytes : Fin 9) (value : Word) (s : State) :
    Host.Outcome State Fault Refusal :=
  .next (if touchesHalf .low offset.toNat bytes then s.regWrite req {} offset.toNat bytes value else s).settle

/-- A write at any offset. -/
def execRegisterWrite (req : Requester) (offset : BitVec 24) (bytes : Fin 9) (value : Word) (s : State) :
    Host.Outcome State Fault Refusal :=
  .next (s.regWrite req {} offset.toNat bytes value).settle

/-! ### SMBus (R451, R567) -/

/-- Whether a transaction's last byte is acknowledged as far as its PEC goes. -/
def State.pecGood (s : State) (pec : Bool) : Bool := !(s.fbit R.PM_SMB_CFG_smb_pec) || pec

/-- Command 0x10: one register is written. `pec` tells whether the transaction carries a correct PEC. -/
def State.smbWrite (s : State) (off : Nat) (v : Word) (pec : Bool) : State :=
  if !(s.pecGood pec) then s.emit (.smbus false [])
  else (s.regWrite .smbus {} off 4 v).emit (.smbus (s.smbMay true off) [])

def execSmbusWriteRegister (offset : BitVec 24) (value : Word) (pec : Bool) (s : State) : Host.Outcome State Fault Refusal :=
  .next (s.smbWrite offset.toNat value pec).settle

/-- Command 0x11: the read address is set. -/
def execSmbusSetReadAddress (offset : BitVec 24) (pec : Bool) (s : State) : Host.Outcome State Fault Refusal :=
  .next (if s.pecGood pec then
      (s.setPower { s.power with smbRead := offset.toNat }).emit (.smbus true [])
    else s.emit (.smbus false [])).settle

/-- Command 0x12: the register at the read address is read. -/
def State.smbRead (s : State) : State :=
  let (v, s1) := s.regRead .smbus s.power.smbRead 4
  s1.emit (.smbus true (leBytes v 4))

def execSmbusReadRegister (s : State) : Host.Outcome State Fault Refusal := .next s.smbRead.settle

end Sys2Proof.Machine
end

