-- ==== Sys2Proof/Machine/CoreMem.lean ====
section
/-! DEFINITION. A cue core's ordinary accesses to its address map (R88, R115..R121): fetches, loads, stores, LR, SC and AMO. The
causes are those of the RISC-V privileged architecture that R86 names. -/

namespace Sys2Proof.Machine

open Sys2Proof

/-! ### The address map (R115) -/

/-- A place of a core's address map, with its offset there. -/
inductive CorePlace where
  | pad (off : Nat)
  | pool (off : Nat)
  | setBits (off : Nat)
  | clearBits (off : Nat)
  | msip (target : Nat)
  | window (off : Nat)
  | setup (off : Nat)
  | reservoir (off : Nat)
  | nowhere
deriving DecidableEq, Repr

def corePlace (a : Nat) : CorePlace :=
  if a < 0x10000 ∨ (0x100000 ≤ a ∧ a < 0x120000) then .pad a
  else if 0x10000000 ≤ a ∧ a < 0x10800000 then .pool (a - 0x10000000)
  else if 0x11000000 ≤ a ∧ a < 0x11800000 then .setBits (a - 0x11000000)
  else if 0x12000000 ≤ a ∧ a < 0x12800000 then .clearBits (a - 0x12000000)
  else if 0x1F000000 ≤ a ∧ a < 0x1F000080 then .msip ((a - 0x1F000000) / 4)
  else if 0x20000000 ≤ a ∧ a < 0x21000000 then .window (a - 0x20000000)
  else if 0x30000000 ≤ a ∧ a < 0x31000000 then .setup (a - 0x30000000)
  else if 0x80000000 ≤ a ∧ a < 0xC0000000 then .reservoir (a - 0x80000000)
  else .nowhere

/-- A byte of a core's private scratchpads in `Mem.pads`. -/
def padKey (core off : Nat) : Nat := core * 2 ^ 21 + off

/-- The Reservoir byte that a core's window shows (R90, R115). -/
def State.windowAddr (s : State) (core off : Nat) : Nat := getBits ((s.core core).csrr csrRwin) 3 0 * 2 ^ 30 + off

/-! ### Causes -/

def causeFetch : Nat := 1
def causeLoadAlign : Nat := 4
def causeLoad : Nat := 5
def causeStoreAlign : Nat := 6
def causeStore : Nat := 7

/-! ### Reading (R120, R121) -/

/-- Bytes of a scratchpad or pool, unless their word is uncorrectable: the error is then reported. `n` bytes of one word. -/
def State.readArray (s : State) (pool : Bool) (key n : Nat) : Option Nat × State :=
  if s.badWord pool key then (none, s.eccReport pool (key / 4 * 4))
  else (some (memNat (if pool then s.mem.pools else s.mem.pads) key n), s)

/-- A load of `n` bytes, naturally aligned: its value, or an access fault. -/
def State.loadAt (s : State) (core a n : Nat) : Option Nat × State :=
  match corePlace a with
  | .pad off => s.readArray false (padKey core off) n
  | .pool off => s.readArray true (poolKey (clusterOf core) off) n
  | .setBits off => s.readArray true (poolKey (clusterOf core) off) n
  | .clearBits off => s.readArray true (poolKey (clusterOf core) off) n
  | .msip t => (some (b2n (s.core (32 * clusterOf core + t)).msip / 256 ^ (a % 4) % 256 ^ n), s)
  | .window _ => (none, s)
  | .setup off =>
    let (v, s1) := s.regRead (.core ⟨core % 64, Nat.mod_lt _ (by decide)⟩) off n
    (some v, s1)
  | .reservoir off => (some (memNat s.mem.reservoir (s.windowAddr core off) n), s)
  | .nowhere => (none, s)

/-! ### Writing -/

/-- A store to the private scratchpads. -/
def State.padStore (s : State) (core off n v : Nat) : State :=
  let k := padKey core off
  ({ s with mem := { s.mem with pads := memPut s.mem.pads k n v } }).freshWord false k n

/-- A store to the cluster's pool. -/
def State.poolStore (s : State) (core off n v : Nat) : State :=
  (s.poolWrite (clusterOf core) off (leBytes v n)).freshWord true (poolKey (clusterOf core) off) n

/-- A store narrower than a word to an `msip` word, of which the spec gives no effect: a free value. -/
def State.msipNarrow (s : State) (core target : Nat) (v : Word) : State :=
  let k := 32 * clusterOf core + target
  (s.setCore k { s.core k with msip := Config.msipOther v (s.core k).msip }).coreInterrupt k

/-- A store of `n` bytes, naturally aligned; `none` for an access fault. -/
def State.storeAt (s : State) (core a n : Nat) (v : Word) : Option State :=
  let w := v.toNat % 256 ^ n
  match corePlace a with
  | .pad off => some (s.padStore core off n w)
  | .pool off => some (s.poolStore core off n w)
  | .setBits off => some (s.aliasStore core off n true v)
  | .clearBits off => some (s.aliasStore core off n false v)
  | .msip t => some (if n = 4 then s.msipStore core t v else s.msipNarrow core t v)
  | .window off =>
    if n = 1 then none
    else
      let s1 := s.windowStore core (off / 2) (lane0 v)
      some (if n = 4 then s1.windowStore core (off / 2 + 1) (lane1 v) else s1)
  | .setup off => some (s.regWrite (.core ⟨core % 64, Nat.mod_lt _ (by decide)⟩) {} off n v)
  | .reservoir off =>
    let r := memPut s.mem.reservoir (s.windowAddr core off) n w
    some { s with mem := { s.mem with reservoir := r } }
  | .nowhere => none

/-! ### Retiring -/

/-- The pc moves past an instruction of two or four bytes. -/
def State.corePast (s : State) (core : Nat) (compressed : Bool) : State :=
  let c := s.core core
  s.setCore core { c.ended with pc := c.pc + (if compressed then 2 else 4) }

def State.setXr (s : State) (core rd : Nat) (v : Word) : State := s.setCore core ((s.core core).setX rd v)

def State.setFr (s : State) (core rd : Nat) (v : Word) : State :=
  s.setCore core { s.core core with f := mset word0 (s.core core).f rd v }

/-- A loaded value in a register. -/
def loadExt (v n : Nat) (signed : Bool) : Word :=
  if signed then BitVec.ofInt 32 (sint v (8 * n)) else BitVec.ofNat 32 v

/-! ### The accesses (R118, R121) -/

/-- A fetch at `a` of the instruction scratchpad, which alone is executable; `k` takes the 16 or 32 bits. A 32-bit instruction's
second half faults at its own address. -/
def State.fetchThen (s : State) (core a : Nat) (k : State → Nat → State) : State :=
  let s0 := s.setCore core { s.core core with pc := BitVec.ofNat 32 a }
  if 0x10000 ≤ a ∨ a % 2 ≠ 0 then s0.coreTrap core causeFetch (BitVec.ofNat 32 a)
  else
    match s0.readArray false (padKey core a) 2 with
    | (none, s1) => s1.coreTrap core causeFetch (BitVec.ofNat 32 a)
    | (some lo, s1) =>
      if lo % 4 ≠ 3 then k s1 lo
      else if 0x10000 ≤ a + 2 then s1.coreTrap core causeFetch (BitVec.ofNat 32 (a + 2))
      else
        match s1.readArray false (padKey core (a + 2)) 2 with
        | (none, s2) => s2.coreTrap core causeFetch (BitVec.ofNat 32 (a + 2))
        | (some hi, s2) => k s2 (hi * 65536 + lo)

/-- A fetch whose bytes go to the core. -/
def State.coreFetch (s : State) (core a : Nat) : State := s.fetchThen core a (fun s w => s.emit (.coreData core w))

/-- A load; `put` writes its value to its register. -/
def State.coreLoad (s : State) (core a n : Nat) (compressed : Bool) (put : State → Nat → State) : State :=
  if a % n ≠ 0 then s.coreTrap core causeLoadAlign (BitVec.ofNat 32 a)
  else
    match s.loadAt core a n with
    | (some v, s1) => (put s1 v).corePast core compressed
    | (none, s1) => s1.coreTrap core causeLoad (BitVec.ofNat 32 a)

/-- A store. -/
def State.coreStore (s : State) (core a n : Nat) (compressed : Bool) (v : Word) : State :=
  if a % n ≠ 0 then s.coreTrap core causeStoreAlign (BitVec.ofNat 32 a)
  else
    match s.storeAt core a n v with
    | some s1 => s1.corePast core compressed
    | none => s.coreTrap core causeStore (BitVec.ofNat 32 a)

/-- LR: a word of the pool is loaded and reserved. -/
def State.coreLr (s : State) (core a rd : Nat) : State :=
  if a % 4 ≠ 0 then s.coreTrap core causeLoadAlign (BitVec.ofNat 32 a)
  else
    match corePlace a with
    | .pool off =>
      match s.readArray true (poolKey (clusterOf core) off) 4 with
      | (some v, s1) =>
        let s2 := s1.setCore core { (s1.core core).setX rd (BitVec.ofNat 32 v) with resv := some off }
        s2.corePast core false
      | (none, s1) => s1.coreTrap core causeLoad (BitVec.ofNat 32 a)
    | _ => s.coreTrap core causeLoad (BitVec.ofNat 32 a)

/-- SC: the store takes place if the reservation stands; `rd` tells, and the reservation ends. -/
def State.coreSc (s : State) (core a rd : Nat) (v : Word) : State :=
  if a % 4 ≠ 0 then s.coreTrap core causeStoreAlign (BitVec.ofNat 32 a)
  else
    match corePlace a with
    | .pool off =>
      let ok := decide ((s.core core).resv = some off)
      let s1 := if ok then s.poolStore core off 4 v.toNat else s
      let s2 := s1.setCore core { (s1.core core).setX rd (if ok then 0 else 1) with resv := none }
      s2.corePast core false
    | _ => s.coreTrap core causeStore (BitVec.ofNat 32 a)

/-- The nine AMOs: swap, add, xor, and, or, min, max, minu, maxu. -/
def amoOp (op : Nat) (old v : Word) : Word :=
  match op with
  | 0 => v
  | 1 => old + v
  | 2 => old ^^^ v
  | 3 => old &&& v
  | 4 => old ||| v
  | 5 => if old.toInt ≤ v.toInt then old else v
  | 6 => if v.toInt ≤ old.toInt then old else v
  | 7 => if old.toNat ≤ v.toNat then old else v
  | _ => if v.toNat ≤ old.toNat then old else v

/-- An AMO: one read-modify-write at the bank; `rd` takes the old word. -/
def State.coreAmo (s : State) (core a op rd : Nat) (v : Word) : State :=
  if a % 4 ≠ 0 then s.coreTrap core causeStoreAlign (BitVec.ofNat 32 a)
  else
    match corePlace a with
    | .pool off =>
      match s.readArray true (poolKey (clusterOf core) off) 4 with
      | (some w, s1) =>
        let old := BitVec.ofNat 32 w
        ((s1.poolStore core off 4 (amoOp op old v).toNat).setXr core rd old).corePast core false
      | (none, s1) => s1.coreTrap core causeStore (BitVec.ofNat 32 a)
    | _ => s.coreTrap core causeStore (BitVec.ofNat 32 a)

end Sys2Proof.Machine
end

