-- ==== Sys2Proof/Machine/Float32.lean ====
section
/-! DEFINITION. Single precision (R88): IEEE 754-2019 binary32 with all five rounding modes and no subnormal flushing. A finite
value is exact, `m * 2 ^ e`, until the one rounding at its end. The canonical NaN, the flags' bits and underflow seen after
rounding are those of the RISC-V F extension that R86 names. -/

namespace Sys2Proof.Machine

/-- A binary32 datum. A zero has `m = 0` and keeps its sign. -/
inductive Fp where
  | nan (quiet : Bool)
  | inf (neg : Bool)
  | num (neg : Bool) (m : Nat) (e : Int)
deriving DecidableEq, Repr

/-- The modes in the order of their codes: to nearest even, toward zero, down, up, to nearest with ties away. -/
inductive Rounding where
  | rne | rtz | rdn | rup | rmm
deriving DecidableEq, Repr

def roundingOf (k : Nat) : Option Rounding :=
  match k with
  | 0 => some .rne
  | 1 => some .rtz
  | 2 => some .rdn
  | 3 => some .rup
  | 4 => some .rmm
  | _ => none

/-! ### Flags and special words -/

def fpInexact : Nat := 1
def fpUnderflow : Nat := 2
def fpOverflow : Nat := 4
def fpDivZero : Nat := 8
def fpInvalid : Nat := 16

def fpCanonical : Nat := 0x7FC00000
def fpInf (neg : Bool) : Nat := b2n neg * 2 ^ 31 + 0x7F800000
def fpZero (neg : Bool) : Nat := b2n neg * 2 ^ 31

def fpOf (w : Word) : Fp :=
  let neg := getBits w 31 31 = 1
  let e := getBits w 30 23
  let m := getBits w 22 0
  if e = 255 then if m = 0 then .inf neg else .nan (decide (2 ^ 22 ≤ m))
  else if e = 0 then .num neg m (-149)
  else .num neg (m + 2 ^ 23) (e - 150)

/-! ### Rounding -/

/-- `m / 2 ^ k` as an integer under a mode. -/
def roundShift (r : Rounding) (neg : Bool) (m k : Nat) : Nat :=
  let q := m / 2 ^ k
  let rest := m % 2 ^ k
  let up := match r with
    | .rne => decide (2 ^ k < 2 * rest) || (decide (2 ^ k = 2 * rest) && decide (q % 2 = 1))
    | .rtz => false
    | .rdn => neg && decide (rest ≠ 0)
    | .rup => !neg && decide (rest ≠ 0)
    | .rmm => decide (rest ≠ 0 ∧ 2 ^ k ≤ 2 * rest)
  q + b2n up

/-- `m * 2 ^ (e - q)` as an integer under a mode, and whether it is exact. -/
def roundTo (r : Rounding) (neg : Bool) (m : Nat) (e q : Int) : Nat × Bool :=
  if q ≤ e then (m * 2 ^ (e - q).toNat, true)
  else (roundShift r neg m (q - e).toNat, decide (m % 2 ^ (q - e).toNat = 0))

/-- What overflow gives: infinity, or the largest finite number where the mode rounds toward zero. -/
def fpTooLarge (r : Rounding) (neg : Bool) : Nat :=
  let finite := match r with
    | .rtz => true
    | .rdn => !neg
    | .rup => neg
    | .rne | .rmm => false
  if finite then b2n neg * 2 ^ 31 + 0x7F7FFFFF else fpInf neg

/-- The datum nearest to an exact value under a mode, with its flags. -/
def fpRound (r : Rounding) (neg : Bool) (m : Nat) (e : Int) : Nat × Nat :=
  if m = 0 then (fpZero neg, 0)
  else
    let top : Int := (Nat.log2 m : Int) + e
    let q := max (top - 23) (-149)
    let (v, exact) := roundTo r neg m e q
    let (v1, q1) := if v = 2 ^ 24 then (2 ^ 23, q + 1) else (v, q)
    let tiny := decide (top < -126) &&
      !(decide (top = -127) && decide ((roundTo r neg m e (-150)).1 = 2 ^ 24))
    if 104 < q1 then (fpTooLarge r neg, fpOverflow + fpInexact)
    else
      let biased := if v1 < 2 ^ 23 then 0 else (q1 + 150).toNat
      (b2n neg * 2 ^ 31 + biased * 2 ^ 23 + v1 % 2 ^ 23,
        if exact then 0 else fpInexact + (if tiny then fpUnderflow else 0))

/-! ### Arithmetic -/

def Fp.isNan : Fp → Bool
  | .nan _ => true
  | _ => false

def Fp.signalling : Fp → Bool
  | .nan q => !q
  | _ => false

def Fp.neg : Fp → Fp
  | .nan q => .nan q
  | .inf n => .inf (!n)
  | .num n m e => .num (!n) m e

/-- A NaN result; a signalling operand is invalid. -/
def fpNan (l : List Fp) : Nat × Nat := (fpCanonical, if l.any Fp.signalling then fpInvalid else 0)

def fpBad : Nat × Nat := (fpCanonical, fpInvalid)

/-- The exact signed integer of a finite value in units of `2 ^ q`, where `q` is not above its exponent. -/
def fpUnits (neg : Bool) (m : Nat) (e q : Int) : Int :=
  (if neg then -1 else 1) * ((m * 2 ^ (e - q).toNat : Nat) : Int)

/-- The sum of two finite values. An exact zero takes the sign of equal zeros, and else that of the mode. -/
def fpSum (r : Rounding) (n1 : Bool) (m1 : Nat) (e1 : Int) (n2 : Bool) (m2 : Nat) (e2 : Int) : Nat × Nat :=
  let q := min e1 e2
  let v := fpUnits n1 m1 e1 q + fpUnits n2 m2 e2 q
  if v = 0 then
    (fpZero (if m1 = 0 ∧ m2 = 0 ∧ n1 = n2 then n1 else decide (r = .rdn)), 0)
  else fpRound r (decide (v < 0)) v.natAbs q

def fpAdd (r : Rounding) (a b : Fp) : Nat × Nat :=
  match a, b with
  | .nan _, _ => fpNan [a, b]
  | _, .nan _ => fpNan [a, b]
  | .inf x, .inf y => if x = y then (fpInf x, 0) else fpBad
  | .inf x, .num _ _ _ => (fpInf x, 0)
  | .num _ _ _, .inf y => (fpInf y, 0)
  | .num n1 m1 e1, .num n2 m2 e2 => fpSum r n1 m1 e1 n2 m2 e2

def fpMul (r : Rounding) (a b : Fp) : Nat × Nat :=
  match a, b with
  | .nan _, _ => fpNan [a, b]
  | _, .nan _ => fpNan [a, b]
  | .inf x, .inf y => (fpInf (x != y), 0)
  | .inf x, .num y m _ => if m = 0 then fpBad else (fpInf (x != y), 0)
  | .num x m _, .inf y => if m = 0 then fpBad else (fpInf (x != y), 0)
  | .num x m1 e1, .num y m2 e2 => fpRound r (x != y) (m1 * m2) (e1 + e2)

def fpDiv (r : Rounding) (a b : Fp) : Nat × Nat :=
  match a, b with
  | .nan _, _ => fpNan [a, b]
  | _, .nan _ => fpNan [a, b]
  | .inf _, .inf _ => fpBad
  | .inf x, .num y _ _ => (fpInf (x != y), 0)
  | .num x _ _, .inf y => (fpZero (x != y), 0)
  | .num x m1 e1, .num y m2 e2 =>
    if m2 = 0 then if m1 = 0 then fpBad else (fpInf (x != y), fpDivZero)
    else
      let n := m1 * 2 ^ 60
      fpRound r (x != y) (2 * (n / m2) + b2n (decide (n % m2 ≠ 0))) (e1 - e2 - 61)

def fpSqrt (r : Rounding) (a : Fp) : Nat × Nat :=
  match a with
  | .nan _ => fpNan [a]
  | .inf neg => if neg then fpBad else (fpInf false, 0)
  | .num neg m e =>
    if m = 0 then (fpZero neg, 0)
    else if neg then fpBad
    else
      let odd := e % 2 = 1
      let n := (if odd then 2 * m else m) * 2 ^ 60
      let e1 := (if odd then e - 1 else e) - 60
      let q := isqrt n
      fpRound r false (2 * q + b2n (decide (q * q ≠ n))) (e1 / 2 - 1)

/-- `a * b + c` with one rounding. An infinity times a zero is invalid whatever `c` is. -/
def fpFma (r : Rounding) (a b c : Fp) : Nat × Nat :=
  match a, b, c with
  | .inf _, .num _ 0 _, _ => fpBad
  | .num _ 0 _, .inf _, _ => fpBad
  | .nan _, _, _ => fpNan [a, b, c]
  | _, .nan _, _ => fpNan [a, b, c]
  | _, _, .nan _ => fpNan [a, b, c]
  | .num x m1 e1, .num y m2 e2, .num z m3 e3 => fpSum r (x != y) (m1 * m2) (e1 + e2) z m3 e3
  | .num _ _ _, .num _ _ _, .inf z => (fpInf z, 0)
  | .inf x, .inf y, c => fpAdd r (.inf (x != y)) c
  | .inf x, .num y _ _, c => fpAdd r (.inf (x != y)) c
  | .num x _ _, .inf y, c => fpAdd r (.inf (x != y)) c

/-! ### Comparison -/

/-- Whether `a < b`, of two that are no NaN. -/
def fpLess (a b : Fp) : Bool :=
  match a, b with
  | .inf x, .inf y => x && !y
  | .inf x, _ => x
  | _, .inf y => !y
  | .num n1 m1 e1, .num n2 m2 e2 =>
    let q := min e1 e2
    decide (fpUnits n1 m1 e1 q < fpUnits n2 m2 e2 q)
  | _, _ => false

/-- feq (quiet), flt and fle (signalling), by the code of funct3: 2, 1, 0. -/
def fpCompare (k : Nat) (a b : Fp) : Nat × Nat :=
  if a.isNan || b.isNan then
    (0, if a.signalling || b.signalling || decide (k ≠ 2) then fpInvalid else 0)
  else
    (b2n (if k = 2 then !(fpLess a b) && !(fpLess b a) else if k = 1 then fpLess a b else !(fpLess b a)), 0)

/-- fmin, or fmax: a NaN gives way to a number, and the negative zero is below the positive one. -/
def fpMinMax (isMax : Bool) (wa wb : Word) : Nat × Nat :=
  let a := fpOf wa
  let b := fpOf wb
  let flag := if a.signalling || b.signalling then fpInvalid else 0
  let below := fpLess a b || (!(fpLess b a) && getBits wa 31 31 = 1)
  (if a.isNan && b.isNan then fpCanonical
   else if a.isNan then wb.toNat
   else if b.isNan then wa.toNat
   else if below != isMax then wa.toNat else wb.toNat, flag)

/-- fclass's ten bits. -/
def fpClass (w : Word) : Nat :=
  match fpOf w with
  | .nan q => if q then 2 ^ 9 else 2 ^ 8
  | .inf neg => if neg then 1 else 2 ^ 7
  | .num neg m _ =>
    if m = 0 then if neg then 2 ^ 3 else 2 ^ 4
    else if m < 2 ^ 23 then if neg then 2 ^ 2 else 2 ^ 5
    else if neg then 2 ^ 1 else 2 ^ 6

/-! ### Conversions -/

/-- An integer's two's complement word, clipped into a signed or unsigned word: invalid if it did not fit. -/
def fpClip (signed : Bool) (v : Int) (flag : Nat) : Nat × Nat :=
  let lo : Int := if signed then -2 ^ 31 else 0
  let hi : Int := if signed then 2 ^ 31 - 1 else 2 ^ 32 - 1
  if v < lo ∨ hi < v then (twos (clampI lo hi v) 32, fpInvalid) else (twos v 32, flag)

/-- fcvt.w.s and fcvt.wu.s. -/
def fpToInt (r : Rounding) (signed : Bool) (a : Fp) : Nat × Nat :=
  match a with
  | .nan _ => fpClip signed (2 ^ 33) 0
  | .inf neg => fpClip signed (if neg then -2 ^ 33 else 2 ^ 33) 0
  | .num neg m e =>
    let (v, exact) := roundTo r neg m e 0
    fpClip signed (if neg then -(v : Int) else v) (if exact then 0 else fpInexact)

/-- fcvt.s.w and fcvt.s.wu. -/
def fpOfInt (r : Rounding) (signed : Bool) (w : Word) : Nat × Nat :=
  let v : Int := if signed then w.toInt else w.toNat
  fpRound r (decide (v < 0)) v.natAbs 0

/-- fsgnj, fsgnjn, fsgnjx, by the code of funct3. -/
def fpSign (k : Nat) (wa wb : Word) : Nat :=
  let sa := getBits wa 31 31
  let sb := getBits wb 31 31
  (if k = 0 then sb else if k = 1 then 1 - sb else (sa + sb) % 2) * 2 ^ 31 + getBits wa 30 0

end Sys2Proof.Machine
end

