-- ==== Sys2Proof/Machine/Rv32.lean ====
section
/-! DEFINITION. The instructions of a cue core (R86): RV32IMAFC with Zicsr and Xhnk. Words are decoded as the RISC-V unprivileged
architecture gives them, which R86 names; a compressed one is decoded as the word it stands for. Xhnk's encodings are those of
R94. -/

namespace Sys2Proof.Machine

/-- A decoded instruction. Registers are numbers; `rm` is the rounding field of a floating instruction. -/
inductive CoreInstr where
  | lui (rd : Nat) (imm : Word)
  | auipc (rd : Nat) (imm : Word)
  | jal (rd : Nat) (off : Word)
  | jalr (rd rs1 : Nat) (off : Word)
  | branch (cond rs1 rs2 : Nat) (off : Word)
  | load (rd rs1 : Nat) (off : Word) (bytes : Nat) (signed : Bool)
  | store (rs2 rs1 : Nat) (off : Word) (bytes : Nat)
  | aluImm (op rd rs1 : Nat) (imm : Word)
  | alu (op rd rs1 rs2 : Nat)
  | mulDiv (op rd rs1 rs2 : Nat)
  | fence
  | ecall
  | ebreak
  | mret
  | wfi
  | csr (op rd : Nat) (fromReg : Bool) (src number : Nat)
  | lr (rd rs1 : Nat)
  | sc (rd rs1 rs2 : Nat)
  | amo (op rd rs1 rs2 : Nat)
  | flw (rd rs1 : Nat) (off : Word)
  | fsw (rs2 rs1 : Nat) (off : Word)
  | fma (negProduct negAddend : Bool) (rd rs1 rs2 rs3 rm : Nat)
  | farith (op rd rs1 rs2 rm : Nat)
  | fsqrt (rd rs1 rm : Nat)
  | fsgnj (op rd rs1 rs2 : Nat)
  | fminmax (isMax : Bool) (rd rs1 rs2 : Nat)
  | fcompare (op rd rs1 rs2 : Nat)
  | fclass (rd rs1 : Nat)
  | fmvToInt (rd rs1 : Nat)
  | fmvToFloat (rd rs1 : Nat)
  | fcvtToInt (signed : Bool) (rd rs1 rm : Nat)
  | fcvtToFloat (signed : Bool) (rd rs1 rm : Nat)
  | hk (op rd rs1 rs2 : Nat)
  | hkNarrow (rd rs1 : Nat)
  | hkWiden (rd rs1 : Nat)
  | hkLerp (rd rs1 rs2 rs3 : Nat)
  | hkMac (rd rs1 rs2 rs3 : Nat)
deriving DecidableEq, Repr

/-! ### Arithmetic of I and M -/

/-- add, sll, slt, sltu, xor, srl, or, and by funct3; 8 is sub and 13 sra, funct3 with bit 30. -/
def aluOp (op : Nat) (a b : Word) : Word :=
  match op with
  | 0 => a + b
  | 1 => a <<< (b.toNat % 32)
  | 2 => BitVec.ofNat 32 (b2n (decide (a.toInt < b.toInt)))
  | 3 => BitVec.ofNat 32 (b2n (decide (a.toNat < b.toNat)))
  | 4 => a ^^^ b
  | 5 => a >>> (b.toNat % 32)
  | 6 => a ||| b
  | 7 => a &&& b
  | 8 => a - b
  | _ => a.sshiftRight (b.toNat % 32)

/-- mul, mulh, mulhsu, mulhu, div, divu, rem, remu. A division by zero gives all ones and the dividend; the one that overflows
gives the dividend and 0. -/
def mulDivOp (op : Nat) (a b : Word) : Word :=
  match op with
  | 0 => a * b
  | 1 => BitVec.ofInt 32 (a.toInt * b.toInt / 2 ^ 32)
  | 2 => BitVec.ofInt 32 (a.toInt * b.toNat / 2 ^ 32)
  | 3 => BitVec.ofNat 32 (a.toNat * b.toNat / 2 ^ 32)
  | 4 => if b = 0 then BitVec.allOnes 32 else BitVec.ofInt 32 (a.toInt.tdiv b.toInt)
  | 5 => if b = 0 then BitVec.allOnes 32 else BitVec.ofNat 32 (a.toNat / b.toNat)
  | 6 => if b = 0 then a else BitVec.ofInt 32 (a.toInt.tmod b.toInt)
  | _ => if b = 0 then a else BitVec.ofNat 32 (a.toNat % b.toNat)

/-- beq, bne, blt, bge, bltu, bgeu by funct3. -/
def branchTaken (cond : Nat) (a b : Word) : Bool :=
  match cond with
  | 0 => decide (a = b)
  | 1 => decide (a ≠ b)
  | 4 => decide (a.toInt < b.toInt)
  | 5 => decide (b.toInt ≤ a.toInt)
  | 6 => decide (a.toNat < b.toNat)
  | _ => decide (b.toNat ≤ a.toNat)

/-! ### Decoding a word -/

def signed32 (v w : Nat) : Word := BitVec.ofInt 32 (sint v w)

def immI (w : Nat) : Word := signed32 (bits w 31 20) 12
def immS (w : Nat) : Word := signed32 (bits w 31 25 * 32 + bits w 11 7) 12
def immB (w : Nat) : Word :=
  signed32 (bits w 31 31 * 4096 + bits w 7 7 * 2048 + bits w 30 25 * 32 + bits w 11 8 * 2) 13
def immU (w : Nat) : Word := BitVec.ofNat 32 (bits w 31 12 * 4096)
def immJ (w : Nat) : Word :=
  signed32 (bits w 31 31 * 1048576 + bits w 19 12 * 4096 + bits w 20 20 * 2048 + bits w 30 21 * 2) 21

/-- Register-register integer instructions: funct7 0, 1 (M) or 0x20. -/
def decodeOp (w rd f3 rs1 rs2 : Nat) : Option CoreInstr :=
  match bits w 31 25 with
  | 0 => some (.alu f3 rd rs1 rs2)
  | 1 => some (.mulDiv f3 rd rs1 rs2)
  | 0x20 => if f3 = 0 ∨ f3 = 5 then some (.alu (f3 + 8) rd rs1 rs2) else none
  | _ => none

/-- Register-immediate ones; a shift's amount is five bits. -/
def decodeOpImm (w rd f3 rs1 : Nat) : Option CoreInstr :=
  if f3 = 1 then if bits w 31 25 = 0 then some (.aluImm 1 rd rs1 (BitVec.ofNat 32 (bits w 24 20))) else none
  else if f3 = 5 then
    match bits w 31 25 with
    | 0 => some (.aluImm 5 rd rs1 (BitVec.ofNat 32 (bits w 24 20)))
    | 0x20 => some (.aluImm 13 rd rs1 (BitVec.ofNat 32 (bits w 24 20)))
    | _ => none
  else some (.aluImm f3 rd rs1 (immI w))

def decodeLoad (w rd f3 rs1 : Nat) : Option CoreInstr :=
  match f3 with
  | 0 => some (.load rd rs1 (immI w) 1 true)
  | 1 => some (.load rd rs1 (immI w) 2 true)
  | 2 => some (.load rd rs1 (immI w) 4 true)
  | 4 => some (.load rd rs1 (immI w) 1 false)
  | 5 => some (.load rd rs1 (immI w) 2 false)
  | _ => none

/-- The A extension: LR and SC, and the AMOs in the order of `amoOp`. -/
def decodeAmo (w rd rs1 rs2 : Nat) : Option CoreInstr :=
  match bits w 31 27 with
  | 0x02 => if rs2 = 0 then some (.lr rd rs1) else none
  | 0x03 => some (.sc rd rs1 rs2)
  | 0x01 => some (.amo 0 rd rs1 rs2)
  | 0x00 => some (.amo 1 rd rs1 rs2)
  | 0x04 => some (.amo 2 rd rs1 rs2)
  | 0x0C => some (.amo 3 rd rs1 rs2)
  | 0x08 => some (.amo 4 rd rs1 rs2)
  | 0x10 => some (.amo 5 rd rs1 rs2)
  | 0x14 => some (.amo 6 rd rs1 rs2)
  | 0x18 => some (.amo 7 rd rs1 rs2)
  | 0x1C => some (.amo 8 rd rs1 rs2)
  | _ => none

/-- The floating instructions of opcode 0x53, by funct7. -/
def decodeFloat (w rd f3 rs1 rs2 : Nat) : Option CoreInstr :=
  match bits w 31 25 with
  | 0x00 => some (.farith 0 rd rs1 rs2 f3)
  | 0x04 => some (.farith 1 rd rs1 rs2 f3)
  | 0x08 => some (.farith 2 rd rs1 rs2 f3)
  | 0x0C => some (.farith 3 rd rs1 rs2 f3)
  | 0x2C => if rs2 = 0 then some (.fsqrt rd rs1 f3) else none
  | 0x10 => if f3 ≤ 2 then some (.fsgnj f3 rd rs1 rs2) else none
  | 0x14 => if f3 ≤ 1 then some (.fminmax (f3 = 1) rd rs1 rs2) else none
  | 0x50 => if f3 ≤ 2 then some (.fcompare f3 rd rs1 rs2) else none
  | 0x60 => if rs2 ≤ 1 then some (.fcvtToInt (rs2 = 0) rd rs1 f3) else none
  | 0x68 => if rs2 ≤ 1 then some (.fcvtToFloat (rs2 = 0) rd rs1 f3) else none
  | 0x70 => if rs2 = 0 ∧ f3 = 0 then some (.fmvToInt rd rs1)
            else if rs2 = 0 ∧ f3 = 1 then some (.fclass rd rs1) else none
  | 0x78 => if rs2 = 0 ∧ f3 = 0 then some (.fmvToFloat rd rs1) else none
  | _ => none

/-- The SYSTEM opcode: the Zicsr instructions, and ECALL, EBREAK, MRET and WFI. -/
def decodeSystem (w rd f3 rs1 : Nat) : Option CoreInstr :=
  if f3 = 0 then
    if w = 0x00000073 then some .ecall
    else if w = 0x00100073 then some .ebreak
    else if w = 0x30200073 then some .mret
    else if w = 0x10500073 then some .wfi
    else none
  else if f3 = 4 then none
  else some (.csr (f3 % 4) rd (decide (f3 < 4)) rs1 (bits w 31 20))

/-- custom-0 (R94, R95). -/
def decodeXhnk (w rd f3 rs1 rs2 : Nat) : Option CoreInstr :=
  match bits w 31 25 with
  | 0 => some (.hk f3 rd rs1 rs2)
  | 1 => if rs2 = 0 ∧ f3 = 0 then some (.hkNarrow rd rs1)
         else if rs2 = 0 ∧ f3 = 1 then some (.hkWiden rd rs1) else none
  | _ => none

/-- custom-1 (R94, R95). -/
def decodeXhnk4 (w rd f3 rs1 rs2 : Nat) : Option CoreInstr :=
  if f3 ≠ 0 then none
  else
    match bits w 26 25 with
    | 0 => some (.hkLerp rd rs1 rs2 (bits w 31 27))
    | 1 => some (.hkMac rd rs1 rs2 (bits w 31 27))
    | _ => none

/-- A 32-bit word; none of an illegal instruction. -/
def decodeRv32 (w : Nat) : Option CoreInstr :=
  let rd := bits w 11 7
  let f3 := bits w 14 12
  let rs1 := bits w 19 15
  let rs2 := bits w 24 20
  let fma (np na : Bool) : Option CoreInstr :=
    if bits w 26 25 = 0 then some (.fma np na rd rs1 rs2 (bits w 31 27) f3) else none
  match bits w 6 0 with
  | 0x37 => some (.lui rd (immU w))
  | 0x17 => some (.auipc rd (immU w))
  | 0x6F => some (.jal rd (immJ w))
  | 0x67 => if f3 = 0 then some (.jalr rd rs1 (immI w)) else none
  | 0x63 => if f3 = 2 ∨ f3 = 3 then none else some (.branch f3 rs1 rs2 (immB w))
  | 0x03 => decodeLoad w rd f3 rs1
  | 0x23 => if f3 ≤ 2 then some (.store rs2 rs1 (immS w) (2 ^ f3)) else none
  | 0x13 => decodeOpImm w rd f3 rs1
  | 0x33 => decodeOp w rd f3 rs1 rs2
  | 0x0F => if f3 = 0 then some .fence else none
  | 0x73 => decodeSystem w rd f3 rs1
  | 0x2F => if f3 = 2 then decodeAmo w rd rs1 rs2 else none
  | 0x07 => if f3 = 2 then some (.flw rd rs1 (immI w)) else none
  | 0x27 => if f3 = 2 then some (.fsw rs2 rs1 (immS w)) else none
  | 0x43 => fma false false
  | 0x47 => fma false true
  | 0x4B => fma true false
  | 0x4F => fma true true
  | 0x53 => decodeFloat w rd f3 rs1 rs2
  | 0x0B => decodeXhnk w rd f3 rs1 rs2
  | 0x2B => decodeXhnk4 w rd f3 rs1 rs2
  | _ => none

/-! ### Compressed instructions -/

/-- Words of the formats that a compressed instruction stands for. -/
def wordI (imm rs1 f3 rd op : Nat) : Nat := imm % 4096 * 2 ^ 20 + rs1 * 2 ^ 15 + f3 * 2 ^ 12 + rd * 128 + op
def wordR (f7 rs2 rs1 f3 rd op : Nat) : Nat := f7 * 2 ^ 25 + rs2 * 2 ^ 20 + rs1 * 2 ^ 15 + f3 * 2 ^ 12 + rd * 128 + op
def wordS (imm rs2 rs1 f3 op : Nat) : Nat :=
  bits imm 11 5 * 2 ^ 25 + rs2 * 2 ^ 20 + rs1 * 2 ^ 15 + f3 * 2 ^ 12 + bits imm 4 0 * 128 + op
def wordB (imm rs2 rs1 f3 : Nat) : Nat :=
  bits imm 12 12 * 2 ^ 31 + bits imm 10 5 * 2 ^ 25 + rs2 * 2 ^ 20 + rs1 * 2 ^ 15 + f3 * 2 ^ 12 + bits imm 4 1 * 256 +
    bits imm 11 11 * 128 + 0x63
def wordJ (imm rd : Nat) : Nat :=
  bits imm 20 20 * 2 ^ 31 + bits imm 10 1 * 2 ^ 21 + bits imm 11 11 * 2 ^ 20 + bits imm 19 12 * 2 ^ 12 + rd * 128 + 0x6F

/-- The six-bit immediate of C, sign-extended to `w` bits. -/
def immC (h w : Nat) : Nat := twos (sint (bits h 12 12 * 32 + bits h 6 2) 6) w

/-- The offset of C.J and C.JAL in 21 bits, and of C.BEQZ and C.BNEZ in 13. -/
def immCJ (h : Nat) : Nat :=
  twos (sint (bits h 12 12 * 2048 + bits h 8 8 * 1024 + bits h 10 9 * 256 + bits h 6 6 * 128 + bits h 7 7 * 64 +
    bits h 2 2 * 32 + bits h 11 11 * 16 + bits h 5 3 * 2) 12) 21
def immCB (h : Nat) : Nat :=
  twos (sint (bits h 12 12 * 256 + bits h 6 5 * 64 + bits h 2 2 * 32 + bits h 11 10 * 8 + bits h 4 3 * 2) 9) 13

/-- Quadrant 0. -/
def expandC0 (h : Nat) : Option Nat :=
  let rd := 8 + bits h 4 2
  let rs1 := 8 + bits h 9 7
  let word := bits h 5 5 * 64 + bits h 12 10 * 8 + bits h 6 6 * 4
  match bits h 15 13 with
  | 0 =>
    let imm := bits h 10 7 * 64 + bits h 12 11 * 16 + bits h 5 5 * 8 + bits h 6 6 * 4
    if imm = 0 then none else some (wordI imm 2 0 rd 0x13)
  | 2 => some (wordI word rs1 2 rd 0x03)
  | 3 => some (wordI word rs1 2 rd 0x07)
  | 6 => some (wordS word rd rs1 2 0x23)
  | 7 => some (wordS word rd rs1 2 0x27)
  | _ => none

/-- The arithmetic of quadrant 1. -/
def expandC1Alu (h : Nat) : Option Nat :=
  let rd := 8 + bits h 9 7
  let rs2 := 8 + bits h 4 2
  match bits h 11 10 with
  | 0 => if bits h 12 12 = 0 then some (wordI (bits h 6 2) rd 5 rd 0x13) else none
  | 1 => if bits h 12 12 = 0 then some (wordI (0x400 + bits h 6 2) rd 5 rd 0x13) else none
  | 2 => some (wordI (immC h 12) rd 7 rd 0x13)
  | _ =>
    if bits h 12 12 = 1 then none
    else
      match bits h 6 5 with
      | 0 => some (wordR 0x20 rs2 rd 0 rd 0x33)
      | 1 => some (wordR 0 rs2 rd 4 rd 0x33)
      | 2 => some (wordR 0 rs2 rd 6 rd 0x33)
      | _ => some (wordR 0 rs2 rd 7 rd 0x33)

/-- Quadrant 1. -/
def expandC1 (h : Nat) : Option Nat :=
  let rd := bits h 11 7
  match bits h 15 13 with
  | 0 => some (wordI (immC h 12) rd 0 rd 0x13)
  | 1 => some (wordJ (immCJ h) 1)
  | 2 => some (wordI (immC h 12) 0 0 rd 0x13)
  | 3 =>
    if bits h 12 12 = 0 ∧ bits h 6 2 = 0 then none
    else if rd = 2 then
      some (wordI (twos (sint (bits h 12 12 * 512 + bits h 4 3 * 128 + bits h 5 5 * 64 + bits h 2 2 * 32 + bits h 6 6 * 16) 10) 12)
        2 0 2 0x13)
    else some (immC h 20 * 4096 + rd * 128 + 0x37)
  | 4 => expandC1Alu h
  | 5 => some (wordJ (immCJ h) 0)
  | 6 => some (wordB (immCB h) 0 (8 + bits h 9 7) 0)
  | _ => some (wordB (immCB h) 0 (8 + bits h 9 7) 1)

/-- Quadrant 2. -/
def expandC2 (h : Nat) : Option Nat :=
  let rd := bits h 11 7
  let rs2 := bits h 6 2
  let load := bits h 3 2 * 64 + bits h 12 12 * 32 + bits h 6 4 * 4
  let store := bits h 8 7 * 64 + bits h 12 9 * 4
  match bits h 15 13 with
  | 0 => if bits h 12 12 = 0 then some (wordI rs2 rd 1 rd 0x13) else none
  | 2 => if rd = 0 then none else some (wordI load 2 2 rd 0x03)
  | 3 => some (wordI load 2 2 rd 0x07)
  | 4 =>
    if bits h 12 12 = 0 then
      if rs2 = 0 then if rd = 0 then none else some (wordI 0 rd 0 0 0x67)
      else some (wordR 0 rs2 0 0 rd 0x33)
    else if rs2 = 0 then if rd = 0 then some 0x00100073 else some (wordI 0 rd 0 1 0x67)
    else some (wordR 0 rs2 rd 0 rd 0x33)
  | 6 => some (wordS store rs2 2 2 0x23)
  | 7 => some (wordS store rs2 2 2 0x27)
  | _ => none

/-- The word that a compressed instruction stands for; none of an illegal one. -/
def expandC (h : Nat) : Option Nat :=
  match h % 4 with
  | 0 => expandC0 h
  | 1 => expandC1 h
  | _ => expandC2 h

/-- What a fetch brings: 16 bits whose low two are not both 1, or 32. -/
def decodeCore (w : Nat) : Option CoreInstr :=
  if w % 4 = 3 then decodeRv32 w else (expandC w).bind decodeRv32

end Sys2Proof.Machine
end

