-- ==== Sys2Proof/Machine/CoreRun.lean ====
section
/-! DEFINITION. What a cue core's instructions do (R86..R95): its CSRs, the integer, floating and Xhnk instructions, and the
accesses by which the outside lets a core fetch and execute. -/

namespace Sys2Proof.Machine

open Sys2Proof

/-! ### CSRs (R87, R90, R91)

The standard machine CSRs, their numbers and their fields that read as constants are those of the RISC-V privileged architecture
that R86 names, in a hart with machine mode only and no timer (log entry 81). -/

/-- The sub-tick of the evaluation period in progress: the 32nd of P since its input cut, where the last lasts until the staging
deadline (R589). DESIGN CHOICE: 0 before the first input cut (log entry 78). -/
def State.subTick (s : State) : Nat :=
  let c := s.time.clock
  if c.period ≤ 0 then 0 else min 31 (32 * (nsSince s c.periodAt * 65536 : Nat) / c.period).toNat

/-- The task dispatched to a core. -/
def State.currentTask (s : State) (core : Nat) : Option (Nat × Task) :=
  match (s.core core).task with
  | none => none
  | some i => (s.task i).map (fun t => (i, t))

/-- `dr.info` (R91). -/
def State.drInfo (s : State) (t : Task) : Nat :=
  t.family * 65536 + t.kind * 2 ^ 14 + (if t.kind = 2 then min 255 t.events else 0) * 64 + b2n (s.frameBound t) * 32 +
    b2n t.late * 16 + b2n t.host.isSome * 8 + t.prio

def csrFcsr : Nat := 3

/-- `mstatus`: MPP reads machine, and SD tells that FS is dirty. -/
def Core.mstatusView (c : Core) : Word :=
  let m := c.csrr csrMstatus &&& 0x00006088 ||| 0x00001800
  if getBits m 14 13 = 3 then m ||| 0x80000000 else m

/-- A CSR that holds what is written to it, within the bits that it has. -/
def Core.putCsr (c : Core) (n : Nat) (v : Word) : Core :=
  if n = 1 then c.setCsr csrFcsr (putBits (c.csrr csrFcsr) 4 0 (getBits v 4 0))
  else if n = 2 then c.setCsr csrFcsr (putBits (c.csrr csrFcsr) 7 5 (getBits v 2 0))
  else if n = csrFcsr then c.setCsr n (v &&& 0xFF)
  else if n = csrMstatus then c.setCsr n (v &&& 0x00006088 ||| 0x00001800)
  else if n = csrMie then c.setCsr n (v &&& 0x00000808)
  else if n = csrMtvec then c.setCsr n (v &&& 0xFFFFFFFD)
  else if n = csrMepc then c.setCsr n (v &&& 0xFFFFFFFE)
  else if n = csrRwin then c.setCsr n (v &&& 0xF)
  else c.setCsr n v

/-- What a core's CSR reads as, without the effects that reading `dr.take`, `dr.poll` and `hk.ls` has. -/
def State.csrView (s : State) (core n : Nat) : Word :=
  let c := s.core core
  let t := s.currentTask core
  if n = 0xF14 then BitVec.ofNat 32 core
  else if n = 1 then BitVec.ofNat 32 (getBits (c.csrr csrFcsr) 4 0)
  else if n = 2 then BitVec.ofNat 32 (getBits (c.csrr csrFcsr) 7 5)
  else if n = csrMstatus then c.mstatusView
  else if n = 0x301 then 0x40801125
  else if n = 0xF11 ∨ n = 0xF12 then 0
  else if n = 0xF13 then 0xB0
  else if n = 0x344 then BitVec.ofNat 32 (b2n c.msip * 8 + b2n c.meip * 2048)
  else if n = 0xFC0 then BitVec.ofNat 32 (t.elim 0 (fun e => taskHandle e.2 e.1))
  else if n = 0xFC1 then BitVec.ofNat 32 (t.elim 0 (fun e => s.drInfo e.2))
  else if n = 0xFC2 then BitVec.ofNat 32 (t.elim 0 (fun e => e.2.frame))
  else if 0xFC4 ≤ n ∧ n ≤ 0xFCD then t.elim 0 (fun e => e.2.args.getD (n - 0xFC4) 0)
  else if n = 0xFD0 then BitVec.ofNat 32 (s.frame % 2 ^ 27 * 32 + s.subTick)
  else if n = 0xFD1 then BitVec.ofNat 32 s.localSec
  else if n = 0xFD2 then c.lns
  else if n = csrRwin then BitVec.ofNat 32 (getBits (c.csrr n) 3 0)
  else c.csrr n

/-- Whether a CSR can be written with no effect but its value: `fcsr` and its parts, the machine trap set-up and handling, the
window, the arguments of the next post. What else there is reads as a constant, or as the machine has it. -/
def csrStores (n : Nat) : Bool :=
  [1, 2, 3, csrMstatus, csrMie, csrMtvec, 0x340, csrMepc, csrMcause, csrMtval, csrRwin].contains n ||
    (decide (csrParg ≤ n) && decide (n ≤ csrParg + 9))

/-- The cycle and instruction counters. Their values the spec leaves open. -/
def csrCounts (n : Nat) : Bool := [0xB00, 0xB02, 0xB80, 0xB82].contains n

/-- Whether a number is a CSR of the core: an access to another raises illegal instruction. The performance counters, their
events, `mcountinhibit` and `mconfigptr` are there and read 0. -/
def csrExists (n : Nat) : Bool :=
  csrStores n || csrCounts n || [0x301, 0x310, 0x320, 0x344].contains n || (decide (0x323 ≤ n) && decide (n ≤ 0x33F)) ||
    (decide (0xB03 ≤ n) && decide (n ≤ 0xB1F)) || (decide (0xB83 ≤ n) && decide (n ≤ 0xB9F)) ||
    (decide (0xF11 ≤ n) && decide (n ≤ 0xF15)) || (decide (0x7C0 ≤ n) && decide (n ≤ 0x7C5)) ||
    (decide (0xFC0 ≤ n) && decide (n ≤ 0xFCD)) || (decide (0xFD0 ≤ n) && decide (n ≤ 0xFD2))

/-- An illegal-instruction exception. What `mtval` then holds the spec leaves open. -/
def State.coreIllegal (s : State) (core w : Nat) : State := s.coreTrap core 2 (Config.illegalTval (BitVec.ofNat 32 w))

/-- A free value in a register: what an access that the spec does not describe reads. -/
def State.freeXr (s : State) (core rd : Nat) : State :=
  let (n, s1) := s.fresh
  s1.coreSet core rd (BitVec.ofNat 32 (Config.pick n))

/-- What a CSR instruction makes of the CSR: csrrw, csrrs, csrrc by funct3's low two bits. -/
def csrNew (op : Nat) (old v : Word) : Word := if op = 1 then v else if op = 2 then old ||| v else old &&& ~~~v

/-- The CSRs with an effect (R90): `dr.take`, `dr.poll` and `hk.ls` when read, `dr.done` when written, which reads 0 (R13, R93), and the
three that a `csrrw` swaps. DESIGN CHOICE: what another access to those three reads is a free value, and it has no effect (log entry 81). -/
def State.csrActs (s : State) (core w op rd n : Nat) (v : Word) (writes : Bool) : State :=
  if n = 0x7C0 then if writes then s.coreIllegal core w else s.drTake core rd
  else if n = 0x7C1 then if writes then s.coreIllegal core w else s.drPoll core rd
  else if n = 0xFD1 then if writes then s.coreIllegal core w else s.hkLs core rd
  else if n = 0x7C2 then
    if writes then
      (s.setCore core ((s.core core).setX rd 0)).drDone core (if op = 3 then 0 else v) |>.clusterReports
    else s.coreSet core rd 0
  else if op ≠ 1 then s.freeXr core rd
  else if n = 0x7C3 then s.drPost core rd v
  else if n = 0x7C4 then s.drCancel core rd v
  else s.drLedger core rd v

/-- Whether the floating-point unit is on: `mstatus.FS` is not 0. -/
def Core.fpOn (c : Core) : Bool := getBits (c.csrr csrMstatus) 14 13 ≠ 0

/-- A Zicsr instruction. A write to one of 0xC00..0xFFF, and an access to one that is none, raise illegal instruction; so do the
floating ones with the unit off. A csrrw to x0 does not read; csrrs and csrrc with no bits do not write. -/
def State.csrDo (s : State) (core w op rd : Nat) (v : Word) (writes : Bool) (n : Nat) : State :=
  let c := s.core core
  if !(csrExists n) || (writes && n / 1024 = 3) || (decide (n ≤ 3) && !(c.fpOn)) then s.coreIllegal core w
  else if (decide (0x7C0 ≤ n) && decide (n ≤ 0x7C5)) || n = 0xFD1 then s.csrActs core w op rd n v writes
  else if csrCounts n then s.freeXr core rd
  else
    let old := s.csrView core n
    let s1 := if writes && csrStores n then s.setCore core (c.putCsr n (csrNew op old v)) else s
    (s1.coreSet core rd old).coreInterrupt core

/-! ### Instructions (R86, R88) -/

/-- The pc goes elsewhere. -/
def State.coreGo (s : State) (core : Nat) (target : Word) : State :=
  s.setCore core { (s.core core).ended with pc := target &&& 0xFFFFFFFE }

/-- The floating state is dirty, with the flags of an operation gathered in `fcsr`. -/
def Core.fpUsed (c : Core) (flags : Nat) : Core :=
  let d := c.setCsr csrMstatus (putBits (c.csrr csrMstatus) 14 13 3)
  d.setCsr csrFcsr (d.csrr csrFcsr ||| BitVec.ofNat 32 (flags % 32))

/-- A floating register. -/
def Core.fr (c : Core) (r : Nat) : Word := mget word0 c.f r

def Core.setF (c : Core) (r : Nat) (v : Word) : Core := { c with f := mset word0 c.f r v }

/-- A floating result, with its flags, in a floating register or an integer one. -/
def State.fpPut (s : State) (core rd : Nat) (toInt : Bool) (v : Nat × Nat) : State :=
  let c := (s.core core).fpUsed v.2
  let w := BitVec.ofNat 32 v.1
  (s.setCore core (if toInt then c.setX rd w else c.setF rd w)).coreStep core

/-- One that rounds: in the mode of its field, or of `fcsr`; a mode that is none raises illegal instruction. -/
def State.fpRounded (s : State) (core w rd rm : Nat) (toInt : Bool) (f : Rounding → Nat × Nat) : State :=
  match roundingOf (if rm = 7 then getBits ((s.core core).csrr csrFcsr) 7 5 else rm) with
  | some r => s.fpPut core rd toInt (f r)
  | none => s.coreIllegal core w

/-- fadd, fsub, fmul, fdiv. -/
def fpArith (op : Nat) (r : Rounding) (a b : Fp) : Nat × Nat :=
  match op with
  | 0 => fpAdd r a b
  | 1 => fpAdd r a b.neg
  | 2 => fpMul r a b
  | _ => fpDiv r a b

/-- A floating instruction, with the unit on. -/
def State.fpDo (s : State) (core w : Nat) (i : CoreInstr) (compressed : Bool) : State :=
  let c := s.core core
  let fp (r : Nat) : Fp := fpOf (c.fr r)
  match i with
  | .flw rd rs1 off =>
    s.coreLoad core (c.xr rs1 + off).toNat 4 compressed (fun s v =>
      s.setCore core (((s.core core).fpUsed 0).setF rd (BitVec.ofNat 32 v)))
  | .fsw rs2 rs1 off => s.coreStore core (c.xr rs1 + off).toNat 4 compressed (c.fr rs2)
  | .fma np na rd rs1 rs2 rs3 rm =>
    s.fpRounded core w rd rm false (fun r =>
      fpFma r (if np then (fp rs1).neg else fp rs1) (fp rs2) (if na then (fp rs3).neg else fp rs3))
  | .farith op rd rs1 rs2 rm => s.fpRounded core w rd rm false (fun r => fpArith op r (fp rs1) (fp rs2))
  | .fsqrt rd rs1 rm => s.fpRounded core w rd rm false (fun r => fpSqrt r (fp rs1))
  | .fsgnj op rd rs1 rs2 => s.fpPut core rd false (fpSign op (c.fr rs1) (c.fr rs2), 0)
  | .fminmax isMax rd rs1 rs2 => s.fpPut core rd false (fpMinMax isMax (c.fr rs1) (c.fr rs2))
  | .fcompare op rd rs1 rs2 => s.fpPut core rd true (fpCompare op (fp rs1) (fp rs2))
  | .fclass rd rs1 => s.fpPut core rd true (fpClass (c.fr rs1), 0)
  | .fmvToInt rd rs1 => s.fpPut core rd true ((c.fr rs1).toNat, 0)
  | .fmvToFloat rd rs1 => s.fpPut core rd false ((c.xr rs1).toNat, 0)
  | .fcvtToInt signed rd rs1 rm => s.fpRounded core w rd rm true (fun r => fpToInt r signed (fp rs1))
  | .fcvtToFloat signed rd rs1 rm => s.fpRounded core w rd rm false (fun r => fpOfInt r signed (c.xr rs1))
  | _ => s.coreIllegal core w

def CoreInstr.floating : CoreInstr → Bool
  | .flw .. | .fsw .. | .fma .. | .farith .. | .fsqrt .. | .fsgnj .. | .fminmax .. | .fcompare .. | .fclass ..
  | .fmvToInt .. | .fmvToFloat .. | .fcvtToInt .. | .fcvtToFloat .. => true
  | _ => false

/-- MRET: interrupts as they were before the trap, and the pc where it was. -/
def State.coreMret (s : State) (core : Nat) : State :=
  let c := s.core core
  let m := c.csrr csrMstatus
  ((s.setCore core (c.setCsr csrMstatus (putBits (putBits m 3 3 (getBits m 7 7)) 7 7 1))).coreGo core
    (c.csrr csrMepc)).coreInterrupt core

/-- An instruction that is no floating one. FENCE and WFI only advance the pc: a core's accesses take effect in order, and a wait
may end at once. -/
def State.intDo (s : State) (core w : Nat) (i : CoreInstr) (compressed : Bool) : State :=
  let c := s.core core
  let next := c.pc + (if compressed then 2 else 4)
  let put (rd : Nat) (v : Word) : State := (s.setXr core rd v).corePast core compressed
  match i with
  | .lui rd imm => put rd imm
  | .auipc rd imm => put rd (c.pc + imm)
  | .jal rd off => (s.setXr core rd next).coreGo core (c.pc + off)
  | .jalr rd rs1 off => (s.setXr core rd next).coreGo core (c.xr rs1 + off)
  | .branch cond rs1 rs2 off =>
    if branchTaken cond (c.xr rs1) (c.xr rs2) then s.coreGo core (c.pc + off) else s.corePast core compressed
  | .load rd rs1 off n signed =>
    s.coreLoad core (c.xr rs1 + off).toNat n compressed (fun s v => s.setXr core rd (loadExt v n signed))
  | .store rs2 rs1 off n => s.coreStore core (c.xr rs1 + off).toNat n compressed (c.xr rs2)
  | .aluImm op rd rs1 imm => put rd (aluOp op (c.xr rs1) imm)
  | .alu op rd rs1 rs2 => put rd (aluOp op (c.xr rs1) (c.xr rs2))
  | .mulDiv op rd rs1 rs2 => put rd (mulDivOp op (c.xr rs1) (c.xr rs2))
  | .fence | .wfi => s.corePast core compressed
  | .ecall => s.coreTrap core 11 0
  | .ebreak => s.coreTrap core 3 (Config.breakTval c.pc)
  | .mret => s.coreMret core
  | .csr op rd fromReg src n =>
    s.csrDo core w op rd (if fromReg then c.xr src else BitVec.ofNat 32 src) (op = 1 || src ≠ 0) n
  | .lr rd rs1 => s.coreLr core (c.xr rs1).toNat rd
  | .sc rd rs1 rs2 => s.coreSc core (c.xr rs1).toNat rd (c.xr rs2)
  | .amo op rd rs1 rs2 => s.coreAmo core (c.xr rs1).toNat op rd (c.xr rs2)
  | .hk op rd rs1 rs2 => s.xhnk2 core rd rs1 rs2 (hkOp op)
  | .hkNarrow rd rs1 => s.xhnk2 core rd rs1 0 (fun a _ => hkNarrow a)
  | .hkWiden rd rs1 => s.xhnk2 core rd rs1 0 (fun a _ => hkWiden a)
  | .hkLerp rd rs1 rs2 rs3 => s.xhnk2 core rd rs1 rs2 (hkLerp (c.xr rs3))
  | .hkMac rd rs1 rs2 rs3 => s.xhnk2 core rd rs1 rs2 (hkMac (c.xr rs3))
  | _ => s.coreIllegal core w

/-- The instruction that a fetch brought. -/
def State.coreDo (s : State) (core w : Nat) : State :=
  match decodeCore w with
  | none => s.coreIllegal core w
  | some i =>
    if !(i.floating) then s.intDo core w i (w % 4 ≠ 3)
    else if (s.core core).fpOn then s.fpDo core w i (w % 4 ≠ 3)
    else s.coreIllegal core w

/-! ### The accesses -/

/-- The wrong bits that a read meets in its word, if it reads a scratchpad or the pool (R120, R121): one is corrected and counted;
two leave the word bad. -/
def State.meetErrors (s : State) (core a errors : Nat) : State :=
  let meet (pool : Bool) (key : Nat) : State :=
    if s.badWord pool key then s
    else if errors = 1 then s.bumpF R.DR_ECC_CORRECTED_COUNT (clusterOf core)
    else if errors = 2 then s.markBad pool (key / 4 * 4)
    else s
  match corePlace a with
  | .pad off => meet false (padKey core off)
  | .pool off | .setBits off | .clearBits off => meet true (poolKey (clusterOf core) off)
  | _ => s

/-- Whether an access reads its word: a stored value needs no read, but for the read-modify-write of an alias window (R118). -/
def accessReads (a : Nat) (access : CoreAccess) : Bool :=
  match access with
  | .store _ _ | .fsw _ | .sc _ _ =>
    match corePlace a with
    | .setBits _ | .clearBits _ => true
    | _ => false
  | _ => true

/-- An access of a core that can execute. `run` is the fetch at the core's pc, and the instruction that it brings; `fetch` alone
brings its bytes. -/
def State.coreAccess (s : State) (core a : Nat) (access : CoreAccess) (compressed : Bool) : State :=
  let c := s.core core
  match access with
  | .fetch => s.coreFetch core a
  | .run => if c.pc.toNat = a then s.fetchThen core a (fun s w => s.coreDo core w) else s
  | .load rd n signed => s.coreLoad core a n compressed (fun s v => s.setXr core rd (loadExt v n signed))
  | .store rs2 n => s.coreStore core a n compressed (c.xr rs2)
  | .lr rd => s.coreLr core a rd
  | .sc rd rs2 => s.coreSc core a rd (c.xr rs2)
  | .amo op rd rs2 => s.coreAmo core a op rd (c.xr rs2)
  | .flw rd => s.coreLoad core a 4 compressed (fun s v => s.setFr core rd (BitVec.ofNat 32 v))
  | .fsw rs2 => s.coreStore core a 4 compressed (mget word0 c.f rs2)

/-- Sizes are 1, 2 and 4 bytes. -/
def accessSized (access : CoreAccess) : Bool :=
  match access with
  | .load _ n _ => n = 1 || n = 2 || n = 4
  | .store _ n => n = 1 || n = 2 || n = 4
  | _ => true

/-- The access meets `errors` wrong bits in the word that it reads. -/
def execCoreMemoryAccess (core : Fin 64) (addr : Word) (access : CoreAccess) (compressed : Bool) (errors : Fin 3) (s : State) :
    Host.Outcome State Fault Refusal :=
  .next (if s.coreReady core && accessSized access then
    ((if accessReads addr.toNat access then s.meetErrors core addr.toNat errors else s).coreAccess core addr.toNat access compressed).settle
    else s)

end Sys2Proof.Machine
end

