-- ==== Sys2Proof/Machine/Jtag.lean ====
section
/-! DEFINITION. The TAP's instructions (R500, R504). -/

namespace Sys2Proof.Machine

open Sys2Proof

/-! ### Core debug -/

/-- A core's register: x0..x31, pc, f0..f31. -/
def Core.debugReg (c : Core) (r : Nat) : Word :=
  if r < 32 then c.xr r else if r = 32 then c.pc else mget word0 c.f (r - 33)

def Core.setDebugReg (c : Core) (r : Nat) (v : Word) : Core :=
  if r < 32 then c.setX r v else if r = 32 then { c with pc := v } else { c with f := mset word0 c.f (r - 33) v }

/-- An instruction of the debug group that reaches into a domain: allowed at OWNER and VENDOR, and in a domain that is on. In
one that is off what is shifted out the spec leaves open. -/
def State.debugWhen (s : State) (on : Bool) (f : State → State) : State :=
  if s.debugLevel = 0 then s.tapDenied
  else if on then f s
  else
    let (n, s1) := s.fresh
    s1.emit (.jtag (Config.pick n % 2 ^ 32))

/-- One that acts in a domain. -/
def State.debugIn (s : State) (d : Domain) (f : State → State) : State := s.debugWhen (s.domOn d) f

/-- A core is halted, let go, or let execute one instruction. -/
def State.setHalt (s : State) (core h : Nat) : State := s.setCore core { s.core core with halt := h }

/-- What a debug instruction reads is shifted out. -/
def State.tapOut (s : State) (v : Word) : State := s.emit (.jtag v.toNat)

/-- Whether a memory answers: the Reservoir not while it is in self-refresh (R18). -/
def State.memOn (s : State) (cistern : Bool) : Bool := if cistern then s.domOn .cistern else s.resAwake

/-- A word of the Reservoir or the Cistern; there is nothing beyond the Cistern's end. -/
def State.tapMem (s : State) (cistern : Bool) (a : Nat) : Word :=
  if cistern then if a + 4 ≤ cisternSize then BitVec.ofNat 32 (memNat s.mem.cistern a 4) else 0
  else BitVec.ofNat 32 (memNat s.mem.reservoir a 4)

def State.tapPut (s : State) (cistern : Bool) (a : Nat) (v : Word) : State :=
  if cistern then
    if a + 4 ≤ cisternSize then
      let m := memPut s.mem.cistern a 4 v.toNat
      { s with mem := { s.mem with cistern := m } }
    else s
  else
    let m := memPut s.mem.reservoir a 4 v.toNat
    { s with mem := { s.mem with reservoir := m } }

/-- A free value is shifted out. -/
def State.tapFree (s : State) : State :=
  let (n, s1) := s.fresh
  s1.emit (.jtag (Config.pick n))

/-- The instructions, while the TAP is powered. DESIGN CHOICE: what a test access at VENDOR shifts out is a free value, and it changes
nothing that the model holds (log entry 30). -/
def State.tapDo (s : State) (op : JtagOp) : State :=
  match op with
  | .bypass => s.emit (.jtag 0)
  | .idcode => s.tapOut Config.idcode
  | .samplePreload => s.tapFree
  | .extest => { s with extest := true }
  | .coreHalt n => s.debugIn (coreDomain n) (fun s => s.setHalt n 1)
  | .coreResume n => s.debugIn (coreDomain n) (fun s => (s.setHalt n 0).coreInterrupt n)
  | .coreStep n => s.debugIn (coreDomain n) (fun s => if (s.core n).halt = 0 then s else s.setHalt n 2)
  | .coreRead n r => s.debugIn (coreDomain n) (fun s => s.tapOut ((s.core n).debugReg r))
  | .coreWrite n r v => s.debugIn (coreDomain n) (fun s => s.setCore n ((s.core n).setDebugReg r v))
  | .csrRead n k => s.debugIn (coreDomain n) (fun s => s.tapOut (s.csrView n k.toNat))
  | .csrWrite n k v => s.debugIn (coreDomain n) (fun s =>
      if csrStores k.toNat then s.setCore n ((s.core n).putCsr k.toNat v) else s)
  | .padRead n a => s.debugIn (coreDomain n) (fun s =>
      s.tapOut (BitVec.ofNat 32 (memNat s.mem.pads (padKey n (a.toNat / 4 * 4)) 4)))
  | .padWrite n a v => s.debugIn (coreDomain n) (fun s => s.padStore n (a.toNat / 4 * 4) 4 v.toNat)
  | .poolRead b a => s.debugIn (clusterDomain (b2n b)) (fun s =>
      s.tapOut (BitVec.ofNat 32 (memNat s.mem.pools (poolKey (b2n b) (a.toNat / 4 * 4)) 4)))
  | .poolWrite b a v => s.debugIn (clusterDomain (b2n b)) (fun s => s.poolStore (32 * b2n b) (a.toNat / 4 * 4) 4 v.toNat)
  | .barRead off =>
    let (v, s1) := s.regRead .tap off.toNat 4
    if s.debugLevel = 0 then s1 else s1.emit (.jtag v)
  | .barWrite off v => s.regWrite .tap {} off.toNat 4 v
  | .memRead c a => s.debugWhen (s.memOn c) (fun s => s.tapOut (s.tapMem c a.toNat))
  | .memWrite c a v => s.debugWhen (s.memOn c) (fun s => s.tapPut c a.toNat v)
  | .testAccess => if s.debugLevel = 2 then s.tapFree else s.tapDenied

/-- A TAP instruction. Any but EXTEST gives the balls back. -/
def execJtagInstruction (op : JtagOp) (s : State) : Host.Outcome State Fault Refusal :=
  .next (if s.tapOn then (({ s with extest := false }).tapDo op).settle else s)

end Sys2Proof.Machine
end

