-- ==== Sys2Proof/Machine/Time.lean ====
section
/-! DEFINITION. The commands of the TIME unit (chapter 12), apart from PTP's messages and the writes of its registers. -/

namespace Sys2Proof.Machine

/-- 0x0B: the four readings of one cycle, 64 bytes (R358). A `length` below them cannot hold the four records, which the
spec does not discuss; it completes with BAD_FIELD. -/
def State.timeQuery (s : State) (host : HostView) (f : Flight) : State :=
  if !(s.domOn .net) then s.finish f stPoweredOff 0
  else if aLength f.words < 64 then s.finish f stBadField 0
  else s.answerA host f s.timeRecords 0

def execTimeQuery (host : HostView) (s : State) : Host.Outcome State Fault Refusal :=
  .next (s.startDesc (isOp 0x0B) formAOk (fun s f => s.timeQuery host f)).settle

/-- A decoded LTC codeword: its label, whether its sync and bit timing are good, where it was decoded, and how many ns ago
its instant was (R365, R366). -/
def execLtcCodeword (hh mm ss ff : Nat) (good audio : Bool) (ago : Nat) (s : State) : Host.Outcome State Fault Refusal :=
  .next (s.ltc hh mm ss ff good audio ago).settle

/-- The base that a command names: 0 PTP, 1 TIMECODE, 2 the frame clock's own under DRAVUD. -/
def followOf (b : Fin 3) : Follow := if b = 0 then .ptp else if b = 1 then .tcode else .drv

/-- The loss time of a base, in 2^-16 ns (R361, R414): for PTP by the announce receipt timeout of the port that follows; where none
does, by the longest of the enabled ports (DESIGN CHOICE, log entry 114). -/
def State.lossTime (s : State) : Follow → Int
  | .ptp =>
    let on := (List.range 4).filter (fun m => s.ptpOn m)
    let n := match on.find? (fun m => (s.pport m).st = 1) with
      | some m => s.announceLoss m
      | none => on.foldl (fun n m => max n (s.announceLoss m)) 0
    3 * (n : Int) * 65536
  | .tcode => 3 * ltcFrame s.ltcRate
  | .drv => 3 * s.period

/-- Whether a base has lost its master: no sample for the loss time. PTP's own master, the grandmaster, is never lost (R363). -/
def State.baseLost (s : State) (w : Follow) : Bool :=
  decide (s.lossTime w ≤ s.time.loc.t - (s.follow w).lastLocal) && !(decide (w = .ptp) && s.grandmaster)

/-- The loss time of a base is reached. Before it nothing happens. -/
def execTimeBaseLoss (base : Fin 3) (s : State) : Host.Outcome State Fault Refusal :=
  .next (if s.baseLost (followOf base) then (s.baseLoss (followOf base)).settle else s.settle)

def execHoldoverLimit (base : Fin 3) (s : State) : Host.Outcome State Fault Refusal :=
  .next (s.holdoverLimit (followOf base)).settle

def execGatePulse (gate : Fin 8) (s : State) : Host.Outcome State Fault Refusal := .next (s.gatePulse gate).settle

end Sys2Proof.Machine
end

