-- ==== Sys2Proof/Machine/Dispatch.lean ====
section
/-! DEFINITION. One arm per command: its meaning, or its refusal by name. -/

namespace Sys2Proof.Machine

open Sys2Proof

def exec (i : Instr) (s : State) : Host.Outcome State Fault Refusal :=
  match i with
  | .inputCut => Sys2Proof.Machine.execInputCut s
  | .cueDeadline => Sys2Proof.Machine.execCueDeadline s
  | .memberPassEnd => Sys2Proof.Machine.execMemberPassEnd s
  | .frameStaged host after => Sys2Proof.Machine.execFrameStaged host after s
  | .flattenRefillDone canvas host after => Sys2Proof.Machine.execFlattenRefillDone canvas host after s
  | .stagingDeadline fetched host after => Sys2Proof.Machine.execStagingDeadline fetched host after s
  | .readoutStart => Sys2Proof.Machine.execReadoutStart s
  | .lineStart port => Sys2Proof.Machine.execLineStart port s
  | .portCommitEvent port => Sys2Proof.Machine.execPortCommitEvent port s
  | .supplyRiseSend => Sys2Proof.Machine.execSupplyRiseSend s
  | .supplyFallSend => Sys2Proof.Machine.execSupplyFallSend s
  | .frameInstant => Sys2Proof.Machine.execFrameInstant s
  | .hostPoll host => Sys2Proof.Machine.execHostPoll host s
  | .hostNudge req value => Sys2Proof.Machine.execHostNudge req value s
  | .nop => Sys2Proof.Machine.execNop s
  | .writeTable host => Sys2Proof.Machine.execWriteTable host s
  | .writeTableStaged id => Sys2Proof.Machine.execWriteTableStaged id s
  | .readTable host => Sys2Proof.Machine.execReadTable host s
  | .transferDone id => Sys2Proof.Machine.execTransferDone id s
  | .commit => Sys2Proof.Machine.execCommit s
  | .layerFrame => Sys2Proof.Machine.execLayerFrame s
  | .setValues => Sys2Proof.Machine.execSetValues s
  | .postTask => Sys2Proof.Machine.execPostTask s
  | .cancelTask => Sys2Proof.Machine.execCancelTask s
  | .rxBuffer host => Sys2Proof.Machine.execRxBuffer host s
  | .txFrame host => Sys2Proof.Machine.execTxFrame host s
  | .rdmRequest host => Sys2Proof.Machine.execRdmRequest host s
  | .timeQuery host => Sys2Proof.Machine.execTimeQuery host s
  | .powerRequest => Sys2Proof.Machine.execPowerRequest s
  | .powerRequestAbort => Sys2Proof.Machine.execPowerRequestAbort s
  | .serviceReachBegin => Sys2Proof.Machine.execServiceReachBegin s
  | .serviceReachEnd => Sys2Proof.Machine.execServiceReachEnd s
  | .updateChunkStore host => Sys2Proof.Machine.execUpdateChunkStore host s
  | .updateChunkVerify host => Sys2Proof.Machine.execUpdateChunkVerify host s
  | .updateChunkInstall host => Sys2Proof.Machine.execUpdateChunkInstall host s
  | .readCounters host => Sys2Proof.Machine.execReadCounters host s
  | .unknownOpcode => Sys2Proof.Machine.execUnknownOpcode s
  | .cqModTimeout ring => Sys2Proof.Machine.execCqModTimeout ring s
  | .eventPost => Sys2Proof.Machine.execEventPost s
  | .ringEnable req ring value => Sys2Proof.Machine.execRingEnable req ring value s
  | .ringDisable req ring value => Sys2Proof.Machine.execRingDisable req ring value s
  | .ringDrained ring => Sys2Proof.Machine.execRingDrained ring s
  | .pcieLinkLoss => Sys2Proof.Machine.execPcieLinkLoss s
  | .functionLevelReset => Sys2Proof.Machine.execFunctionLevelReset s
  | .msixDeliveryResume mask accesses => Sys2Proof.Machine.execMsixDeliveryResume mask accesses s
  | .hkAddsu core rd rs1 rs2 => Sys2Proof.Machine.execHkAddsu core rd rs1 rs2 s
  | .hkSubsu core rd rs1 rs2 => Sys2Proof.Machine.execHkSubsu core rd rs1 rs2 s
  | .hkMulq core rd rs1 rs2 => Sys2Proof.Machine.execHkMulq core rd rs1 rs2 s
  | .hkMaxu core rd rs1 rs2 => Sys2Proof.Machine.execHkMaxu core rd rs1 rs2 s
  | .hkMinu core rd rs1 rs2 => Sys2Proof.Machine.execHkMinu core rd rs1 rs2 s
  | .hkAvgu core rd rs1 rs2 => Sys2Proof.Machine.execHkAvgu core rd rs1 rs2 s
  | .hkScl core rd rs1 rs2 => Sys2Proof.Machine.execHkScl core rd rs1 rs2 s
  | .hkPack core rd rs1 rs2 => Sys2Proof.Machine.execHkPack core rd rs1 rs2 s
  | .hkNar8 core rd rs1 => Sys2Proof.Machine.execHkNar8 core rd rs1 s
  | .hkWid8 core rd rs1 => Sys2Proof.Machine.execHkWid8 core rd rs1 s
  | .hkLerp core rd rs1 rs2 rs3 => Sys2Proof.Machine.execHkLerp core rd rs1 rs2 rs3 s
  | .hkMac core rd rs1 rs2 rs3 => Sys2Proof.Machine.execHkMac core rd rs1 rs2 rs3 s
  | .xhnkIllegalEncoding core word => Sys2Proof.Machine.execXhnkIllegalEncoding core word s
  | .drTake core rd => Sys2Proof.Machine.execDrTake core rd s
  | .drPoll core rd => Sys2Proof.Machine.execDrPoll core rd s
  | .drDone core rs1 => Sys2Proof.Machine.execDrDone core rs1 s
  | .drPost core rd rs1 => Sys2Proof.Machine.execDrPost core rd rs1 s
  | .drCancel core rd rs1 => Sys2Proof.Machine.execDrCancel core rd rs1 s
  | .drLedger core rd rs1 => Sys2Proof.Machine.execDrLedger core rd rs1 s
  | .hkLsRead core rd => Sys2Proof.Machine.execHkLsRead core rd s
  | .msipStore core target rs2 => Sys2Proof.Machine.execMsipStore core target rs2 s
  | .fabricWindowStore core addr wide rs2 => Sys2Proof.Machine.execFabricWindowStore core addr wide rs2 s
  | .bitSetStore core offset bytes rs2 => Sys2Proof.Machine.execBitSetStore core offset bytes rs2 s
  | .bitClearStore core offset bytes rs2 => Sys2Proof.Machine.execBitClearStore core offset bytes rs2 s
  | .dispatch => Sys2Proof.Machine.execDispatch s
  | .drCoreRunWrite req clusterB value => Sys2Proof.Machine.execDrCoreRunWrite req clusterB value s
  | .eccScrub pool addr errors => Sys2Proof.Machine.execEccScrub pool addr errors s
  | .pfFadeqTailWrite req queue value => Sys2Proof.Machine.execPfFadeqTailWrite req queue value s
  | .pfCtrlWrite req value => Sys2Proof.Machine.execPfCtrlWrite req value s
  | .cmpCtrlWrite req value => Sys2Proof.Machine.execCmpCtrlWrite req value s
  | .clrCtrlWrite req value => Sys2Proof.Machine.execClrCtrlWrite req value s
  | .clrTableBaseWrite req value => Sys2Proof.Machine.execClrTableBaseWrite req value s
  | .wmCtrlWrite req value => Sys2Proof.Machine.execWmCtrlWrite req value s
  | .wmLegAckWrite req value => Sys2Proof.Machine.execWmLegAckWrite req value s
  | .pmbusCommandDone bus ack => Sys2Proof.Machine.execPmbusCommandDone bus ack s
  | .flNop port => Sys2Proof.Machine.execFlNop port s
  | .flLi port d imm16 => Sys2Proof.Machine.execFlLi port d imm16 s
  | .flLui port d imm16 => Sys2Proof.Machine.execFlLui port d imm16 s
  | .flAdd port d a b => Sys2Proof.Machine.execFlAdd port d a b s
  | .flSub port d a b => Sys2Proof.Machine.execFlSub port d a b s
  | .flAnd port d a b => Sys2Proof.Machine.execFlAnd port d a b s
  | .flOr port d a b => Sys2Proof.Machine.execFlOr port d a b s
  | .flXor port d a b => Sys2Proof.Machine.execFlXor port d a b s
  | .flShl port d a b => Sys2Proof.Machine.execFlShl port d a b s
  | .flShr port d a b => Sys2Proof.Machine.execFlShr port d a b s
  | .flAddi port d a imm => Sys2Proof.Machine.execFlAddi port d a imm s
  | .flMin port d a b => Sys2Proof.Machine.execFlMin port d a b s
  | .flMax port d a b => Sys2Proof.Machine.execFlMax port d a b s
  | .flMulq port d a b => Sys2Proof.Machine.execFlMulq port d a b s
  | .flTake port d => Sys2Proof.Machine.execFlTake port d s
  | .flPutv port a b => Sys2Proof.Machine.execFlPutv port a b s
  | .flPutb port a b => Sys2Proof.Machine.execFlPutb port a b s
  | .flMove port d a b => Sys2Proof.Machine.execFlMove port d a b s
  | .flEmit port imm => Sys2Proof.Machine.execFlEmit port imm s
  | .flPar port d imm => Sys2Proof.Machine.execFlPar port d imm s
  | .flLdk port d imm => Sys2Proof.Machine.execFlLdk port d imm s
  | .flStk port a imm => Sys2Proof.Machine.execFlStk port a imm s
  | .flJmp port imm => Sys2Proof.Machine.execFlJmp port imm s
  | .flBz port a imm => Sys2Proof.Machine.execFlBz port a imm s
  | .flBnz port a imm => Sys2Proof.Machine.execFlBnz port a imm s
  | .flDjnz port d imm => Sys2Proof.Machine.execFlDjnz port d imm s
  | .flYield port => Sys2Proof.Machine.execFlYield port s
  | .flEnd port => Sys2Proof.Machine.execFlEnd port s
  | .flTrap port imm => Sys2Proof.Machine.execFlTrap port imm s
  | .flUndefinedOp port word => Sys2Proof.Machine.execFlUndefinedOp port word s
  | .flumeFault flume ecc ports => Sys2Proof.Machine.execFlumeFault flume ecc ports s
  | .portRestPoint port => Sys2Proof.Machine.execPortRestPoint port s
  | .rdmTransactionStart port => Sys2Proof.Machine.execRdmTransactionStart port s
  | .rdmResponse port bytes framing => Sys2Proof.Machine.execRdmResponse port bytes framing s
  | .rdmTimeout port => Sys2Proof.Machine.execRdmTimeout port s
  | .firingProbe port configs => Sys2Proof.Machine.execFiringProbe port configs s
  | .turnSet port => Sys2Proof.Machine.execTurnSet port s
  | .furrowPong port r0 => Sys2Proof.Machine.execFurrowPong port r0 s
  | .furrowRecord port bytes crcGood => Sys2Proof.Machine.execFurrowRecord port bytes crcGood s
  | .returnWindowEnd port => Sys2Proof.Machine.execReturnWindowEnd port s
  | .furNodeSilent port node => Sys2Proof.Machine.execFurNodeSilent port node s
  | .enumGo req value => Sys2Proof.Machine.execEnumGo req value s
  | .macFrameReceive mac bytes good => Sys2Proof.Machine.execMacFrameReceive mac bytes good s
  | .rxFrameToHost mac => Sys2Proof.Machine.execRxFrameToHost mac s
  | .pauseRepeat mac => Sys2Proof.Machine.execPauseRepeat mac s
  | .pauseWatchdog mac tx => Sys2Proof.Machine.execPauseWatchdog mac tx s
  | .netMacCfgWrite req mac value => Sys2Proof.Machine.execNetMacCfgWrite req mac value s
  | .netLinkChange mac up => Sys2Proof.Machine.execNetLinkChange mac up s
  | .sacnDataDue mac => Sys2Proof.Machine.execSacnDataDue mac s
  | .syncPacketLaunch mac => Sys2Proof.Machine.execSyncPacketLaunch mac s
  | .sacnDiscovery mac => Sys2Proof.Machine.execSacnDiscovery mac s
  | .sacnDataReceived mac => Sys2Proof.Machine.execSacnDataReceived mac s
  | .sacnSyncReceived mac => Sys2Proof.Machine.execSacnSyncReceived mac s
  | .sacnSyncTimeout entry place => Sys2Proof.Machine.execSacnSyncTimeout entry place s
  | .sacnSourceTimeout entry place => Sys2Proof.Machine.execSacnSourceTimeout entry place s
  | .videoPacketReceived mac => Sys2Proof.Machine.execVideoPacketReceived mac s
  | .audioPacketReceived mac => Sys2Proof.Machine.execAudioPacketReceived mac s
  | .audioStreamDown stream => Sys2Proof.Machine.execAudioStreamDown stream s
  | .txFrameLaunch mac => Sys2Proof.Machine.execTxFrameLaunch mac s
  | .netTsqPop req mac value => Sys2Proof.Machine.execNetTsqPop req mac value s
  | .ptpMessageDue mac kind => Sys2Proof.Machine.execPtpMessageDue mac kind s
  | .ptpMessageReceived mac => Sys2Proof.Machine.execPtpMessageReceived mac s
  | .ltcCodeword hh mm ss ff good audio ago => Sys2Proof.Machine.execLtcCodeword hh mm ss ff good audio ago s
  | .timeBaseLoss base => Sys2Proof.Machine.execTimeBaseLoss base s
  | .holdoverLimit base => Sys2Proof.Machine.execHoldoverLimit base s
  | .timCapture req value => Sys2Proof.Machine.execTimCapture req value s
  | .tallyEdge tally rising ago => Sys2Proof.Machine.execTallyEdge tally rising ago s
  | .timTallyPop req value => Sys2Proof.Machine.execTimTallyPop req value s
  | .gateArm req gate value => Sys2Proof.Machine.execGateArm req gate value s
  | .gateDisarm req gate value => Sys2Proof.Machine.execGateDisarm req gate value s
  | .gatePulse gate => Sys2Proof.Machine.execGatePulse gate s
  | .hpdRise output lanes rate edid => Sys2Proof.Machine.execHpdRise output lanes rate edid s
  | .hpdFall output => Sys2Proof.Machine.execHpdFall output s
  | .irqHpd output => Sys2Proof.Machine.execIrqHpd output s
  | .linkTrainingDone output good => Sys2Proof.Machine.execLinkTrainingDone output good s
  | .rasterFrameLaunch output j => Sys2Proof.Machine.execRasterFrameLaunch output j s
  | .bar2Write offset bytes readBack => Sys2Proof.Machine.execBar2Write offset bytes readBack s
  | .markSend => Sys2Proof.Machine.execMarkSend s
  | .basinMark port bytes => Sys2Proof.Machine.execBasinMark port bytes s
  | .basinEcho port bytes r => Sys2Proof.Machine.execBasinEcho port bytes r s
  | .basinJoin port bytes => Sys2Proof.Machine.execBasinJoin port bytes s
  | .basinAccept port bytes => Sys2Proof.Machine.execBasinAccept port bytes s
  | .basinCommit port bytes => Sys2Proof.Machine.execBasinCommit port bytes s
  | .basinSnapshot port bytes => Sys2Proof.Machine.execBasinSnapshot port bytes s
  | .basinArrive port bytes => Sys2Proof.Machine.execBasinArrive port bytes s
  | .basinRelease port bytes => Sys2Proof.Machine.execBasinRelease port bytes s
  | .basinBcast port bytes => Sys2Proof.Machine.execBasinBcast port bytes s
  | .basinReset port bytes => Sys2Proof.Machine.execBasinReset port bytes s
  | .basinReport port bytes => Sys2Proof.Machine.execBasinReport port bytes s
  | .joinRetry => Sys2Proof.Machine.execJoinRetry s
  | .dravudChildLoss port segment => Sys2Proof.Machine.execDravudChildLoss port segment s
  | .bsnOpCommit req value => Sys2Proof.Machine.execBsnOpCommit req value s
  | .bsnOpSnapshot req value => Sys2Proof.Machine.execBsnOpSnapshot req value s
  | .bsnOpBarrier req value => Sys2Proof.Machine.execBsnOpBarrier req value s
  | .bsnOpBroadcast req value => Sys2Proof.Machine.execBsnOpBroadcast req value s
  | .bsnOpReset req value => Sys2Proof.Machine.execBsnOpReset req value s
  | .bsnBcastPop req value => Sys2Proof.Machine.execBsnBcastPop req value s
  | .tandemJoinTimer => Sys2Proof.Machine.execTandemJoinTimer s
  | .heartbeatSend => Sys2Proof.Machine.execHeartbeatSend s
  | .heartbeatReceived eth auth role frame since ahead => Sys2Proof.Machine.execHeartbeatReceived eth auth role frame since ahead s
  | .failureDeclared => Sys2Proof.Machine.execFailureDeclared s
  | .fenceReceived auth => Sys2Proof.Machine.execFenceReceived auth s
  | .switchover req value => Sys2Proof.Machine.execSwitchover req value s
  | .ledgerRecordReceived auth kind key body => Sys2Proof.Machine.execLedgerRecordReceived auth kind key body s
  | .standbyFrameStart => Sys2Proof.Machine.execStandbyFrameStart s
  | .standbyStagingDeadline => Sys2Proof.Machine.execStandbyStagingDeadline s
  | .resync auth => Sys2Proof.Machine.execResync auth s
  | .siphonLinkUp nonce => Sys2Proof.Machine.execSiphonLinkUp nonce s
  | .siphonLinkDown => Sys2Proof.Machine.execSiphonLinkDown s
  | .healthRecordSend => Sys2Proof.Machine.execHealthRecordSend s
  | .healthRecordReceived auth words => Sys2Proof.Machine.execHealthRecordReceived auth words s
  | .healthRecordTimeout => Sys2Proof.Machine.execHealthRecordTimeout s
  | .standbySelfTest unit good => Sys2Proof.Machine.execStandbySelfTest unit good s
  | .pmRequest req value => Sys2Proof.Machine.execPmRequest req value s
  | .pmRequestAbort req value => Sys2Proof.Machine.execPmRequestAbort req value s
  | .prepareBlockAgree => Sys2Proof.Machine.execPrepareBlockAgree s
  | .prepareBlockRefuse => Sys2Proof.Machine.execPrepareBlockRefuse s
  | .prepareBlockTimeout => Sys2Proof.Machine.execPrepareBlockTimeout s
  | .sleepStateReached => Sys2Proof.Machine.execSleepStateReached s
  | .wakeN => Sys2Proof.Machine.execWakeN s
  | .tenderAlarm => Sys2Proof.Machine.execTenderAlarm s
  | .ptpAlarm => Sys2Proof.Machine.execPtpAlarm s
  | .smbusAddressMatch => Sys2Proof.Machine.execSmbusAddressMatch s
  | .smbusWriteRegister offset value pec => Sys2Proof.Machine.execSmbusWriteRegister offset value pec s
  | .smbusSetReadAddress offset pec => Sys2Proof.Machine.execSmbusSetReadAddress offset pec s
  | .smbusReadRegister => Sys2Proof.Machine.execSmbusReadRegister s
  | .dramTrainingDone good => Sys2Proof.Machine.execDramTrainingDone good s
  | .showReached => Sys2Proof.Machine.execShowReached s
  | .tenderPowerOn pgs => Sys2Proof.Machine.execTenderPowerOn pgs s
  | .pmicPowerGood rail => Sys2Proof.Machine.execPmicPowerGood rail s
  | .powerGoodLate rail => Sys2Proof.Machine.execPowerGoodLate rail s
  | .railRetry => Sys2Proof.Machine.execRailRetry s
  | .pmicPgFall rail => Sys2Proof.Machine.execPmicPgFall rail s
  | .resetN => Sys2Proof.Machine.execResetN s
  | .railRestart => Sys2Proof.Machine.execRailRestart s
  | .ebbEntry => Sys2Proof.Machine.execEbbEntry s
  | .ebbExit => Sys2Proof.Machine.execEbbExit s
  | .brownoutReset => Sys2Proof.Machine.execBrownoutReset s
  | .holdupRetry vhold => Sys2Proof.Machine.execHoldupRetry vhold s
  | .sensorSample temps vhold => Sys2Proof.Machine.execSensorSample temps vhold s
  | .throttleUpdate => Sys2Proof.Machine.execThrottleUpdate s
  | .riseCheck => Sys2Proof.Machine.execRiseCheck s
  | .selfHeatTimeout => Sys2Proof.Machine.execSelfHeatTimeout s
  | .calibrationRun unit g => Sys2Proof.Machine.execCalibrationRun unit g s
  | .calRotate => Sys2Proof.Machine.execCalRotate s
  | .calMiss unit => Sys2Proof.Machine.execCalMiss unit s
  | .tendRcCalibration => Sys2Proof.Machine.execTendRcCalibration s
  | .hourSave => Sys2Proof.Machine.execHourSave s
  | .slcClaim req host arg => Sys2Proof.Machine.execSlcClaim req host arg s
  | .slcReturn req host arg => Sys2Proof.Machine.execSlcReturn req host arg s
  | .slcVoid req host arg => Sys2Proof.Machine.execSlcVoid req host arg s
  | .challenge req host arg => Sys2Proof.Machine.execChallenge req host arg s
  | .challengeExpiry => Sys2Proof.Machine.execChallengeExpiry s
  | .debugOpen req host arg => Sys2Proof.Machine.execDebugOpen req host arg s
  | .debugClose req host arg => Sys2Proof.Machine.execDebugClose req host arg s
  | .keyInstall req host arg => Sys2Proof.Machine.execKeyInstall req host arg s
  | .keyLoad req host arg => Sys2Proof.Machine.execKeyLoad req host arg s
  | .keyErase req host arg => Sys2Proof.Machine.execKeyErase req host arg s
  | .encrypt req host arg => Sys2Proof.Machine.execEncrypt req host arg s
  | .decrypt req host arg => Sys2Proof.Machine.execDecrypt req host arg s
  | .attest req host arg => Sys2Proof.Machine.execAttest req host arg s
  | .advanceRollback req host arg => Sys2Proof.Machine.execAdvanceRollback req host arg s
  | .slcOpComplete => Sys2Proof.Machine.execSlcOpComplete s
  | .sluiceViolation cause => Sys2Proof.Machine.execSluiceViolation cause s
  | .entropyFailure => Sys2Proof.Machine.execEntropyFailure s
  | .entropyRetest good => Sys2Proof.Machine.execEntropyRetest good s
  | .slcRandomRead req offset bytes => Sys2Proof.Machine.execSlcRandomRead req offset bytes s
  | .jtagInstruction op => Sys2Proof.Machine.execJtagInstruction op s
  | .flashSectorDone good => Sys2Proof.Machine.execFlashSectorDone good s
  | .updateAbort req value => Sys2Proof.Machine.execUpdateAbort req value s
  | .reservoirRowRepair addr uncorrectable => Sys2Proof.Machine.execReservoirRowRepair addr uncorrectable s
  | .gaRunWrite req unit value => Sys2Proof.Machine.execGaRunWrite req unit value s
  | .gaDataWrite req unit value => Sys2Proof.Machine.execGaDataWrite req unit value s
  | .gaData8Write req unit value => Sys2Proof.Machine.execGaData8Write req unit value s
  | .gaFinishWrite req unit value => Sys2Proof.Machine.execGaFinishWrite req unit value s
  | .sltAckSeen req entry => Sys2Proof.Machine.execSltAckSeen req entry s
  | .sltAckRelease req entry => Sys2Proof.Machine.execSltAckRelease req entry s
  | .siltEntryQuiet entry => Sys2Proof.Machine.execSiltEntryQuiet entry s
  | .siltWindowEnd entry => Sys2Proof.Machine.execSiltWindowEnd entry s
  | .warmReset req value => Sys2Proof.Machine.execWarmReset req value s
  | .basinLocalReset req value => Sys2Proof.Machine.execBasinLocalReset req value s
  | .rstDomainWrite req value => Sys2Proof.Machine.execRstDomainWrite req value s
  | .glbIrqTestWrite req value => Sys2Proof.Machine.execGlbIrqTestWrite req value s
  | .pairLoRead req offset bytes => Sys2Proof.Machine.execPairLoRead req offset bytes s
  | .pairHiWrite req offset bytes value => Sys2Proof.Machine.execPairHiWrite req offset bytes value s
  | .pairLoWrite req offset bytes value => Sys2Proof.Machine.execPairLoWrite req offset bytes value s
  | .pmTenderSecRead req offset bytes => Sys2Proof.Machine.execPmTenderSecRead req offset bytes s
  | .sipLedgerMaxRead req offset bytes => Sys2Proof.Machine.execSipLedgerMaxRead req offset bytes s
  | .registerWrite req offset bytes value => Sys2Proof.Machine.execRegisterWrite req offset bytes value s
  | .wireFree mac => Sys2Proof.Machine.execWireFree mac s
  | .receivedPauseEnd mac => Sys2Proof.Machine.execReceivedPauseEnd mac s
  | .videoNotReceiving stream => Sys2Proof.Machine.execVideoNotReceiving stream s
  | .heartbeatMiss => Sys2Proof.Machine.execHeartbeatMiss s
  | .siphonLaneChange failed => Sys2Proof.Machine.execSiphonLaneChange failed s
  | .dravudLinkUp port => Sys2Proof.Machine.execDravudLinkUp port s
  | .tallyWake tally => Sys2Proof.Machine.execTallyWake tally s
  | .tend32kRunning => Sys2Proof.Machine.execTend32kRunning s
  | .selfHeatRetry => Sys2Proof.Machine.execSelfHeatRetry s
  | .coreMemoryAccess core addr access compressed errors => Sys2Proof.Machine.execCoreMemoryAccess core addr access compressed errors s
  | .catchupPages auth pages engine => Sys2Proof.Machine.execCatchupPages auth pages engine s
  | .pmicPgAllLow => Sys2Proof.Machine.execPmicPgAllLow s

end Sys2Proof.Machine
end

