-- ==== Sys2Proof/Machine/Step.lean ====
section
/-! DEFINITION. One step of the block: the command at the front of the queue, or, with none waiting, one cycle of the TIME
clock. -/

namespace Sys2Proof.Machine

open Sys2Proof

/-- One step. The command at the front acts on the state with the queue's rest. DESIGN CHOICE: with no command waiting one
TIME clock cycle of 2 ns passes (R20), in which the time bases and Tender time count. -/
def step (s : State) : Host.Outcome State Fault Refusal :=
  match s.pending with
  | [] => .next s.tick
  | c :: rest => exec c { s with pending := rest }

/-- `s` with the command that a word spells put at the front of its queue; `s` itself where the word spells none. -/
def State.withFetchWord (s : State) (nbits w : Nat) : State :=
  match decodeTableWord nbits w with
  | some c => { s with pending := c :: s.pending }
  | none => s

end Sys2Proof.Machine
end

