-- ==== Sys2Proof/WellFormed.lean ====
section
/-! DEFINITION. The well-formed commands: what the types of the operands leave to be checked. A command that fails a check
is none that the outside can give; `exec` does not look at these checks, and the statements that need one name it. -/

namespace Sys2Proof

open Sys2Proof.Machine

/-- A host view is what host memory holds: canonical cells and failing ranges below 2^64 (R39: 64-bit addresses). -/
def HostView.wf (v : HostView) : Bool :=
  Memory.wf v.cells && v.cells.all (fun e => decide (e.1 < 2 ^ 64))
    && v.fails.all (fun e => decide (e.1 + e.2 ≤ 2 ^ 64))

/-- A core's load or store moves 1, 2 or 4 bytes (R86: RV32). -/
def coreWidth (n : Nat) : Bool := decide (n = 1 ∨ n = 2 ∨ n = 4)

def CoreAccess.wf : CoreAccess → Bool
  | .load _ n _ => coreWidth n
  | .store _ n => coreWidth n
  | .fetch | .run | .lr _ | .sc _ _ | .amo _ _ _ | .flw _ | .fsw _ => true

/-- An access of a register brings 1 to 8 bytes (R9 names the sizes that are none of its own). -/
def accessBytes (n : Nat) : Bool := decide (0 < n)

/-- VHOLD lies within 0..1.8 V (R461). -/
def vholdOk (v : BitVec 11) : Bool := decide (v.toNat ≤ 1800)

/-- Sixteen hexadecimal places of a measurement: a sensor each (R465), or a configuration each (R477). -/
def sixteen {α : Type} (l : List α) : Bool := decide (l.length = 16)

/-- The cores' scratchpads (R115) and the clusters' pools (R122) as the model lays them out. -/
def padBytes : Nat := 64 * 2 ^ 21
def poolBytes : Nat := 2 * 2 ^ 23

/-- A page that catching up sends is 64 KiB (R434). -/
def pagesOk (ps : List (BitVec 18 × List Byte)) : Bool := ps.all (fun p => decide (p.2.length ≤ 65536))

/-- The well-formed commands. -/
def Instr.wf : Instr → Bool
  | .hostPoll host | .writeTable host | .readTable host | .rxBuffer host | .txFrame host | .rdmRequest host
  | .timeQuery host | .updateChunkStore host | .updateChunkVerify host | .updateChunkInstall host
  | .readCounters host => host.wf
  | .slcClaim _ host _ | .slcReturn _ host _ | .slcVoid _ host _ | .challenge _ host _ | .debugOpen _ host _
  | .debugClose _ host _ | .keyInstall _ host _ | .keyLoad _ host _ | .keyErase _ host _ | .encrypt _ host _
  | .decrypt _ host _ | .attest _ host _ | .advanceRollback _ host _ => host.wf
  | .frameStaged host after => host.wf && after.wf
  | .stagingDeadline _ host after => host.wf && after.wf
  | .flattenRefillDone _ host after => host.wf && after.wf
  | .bitSetStore _ _ bytes _ => coreWidth bytes
  | .bitClearStore _ _ bytes _ => coreWidth bytes
  | .eccScrub pool addr _ => decide (addr < if pool then poolBytes else padBytes)
  | .hpdRise _ _ _ edid => decide (edid.length ≤ 512)
  | .bar2Write offset bytes _ => decide (offset.toNat + bytes.length ≤ 2 ^ 27)
  | .siphonLinkUp nonce => decide (nonce.length = 48)
  | .healthRecordReceived _ words => sixteen words
  | .holdupRetry vhold => vholdOk vhold
  | .sensorSample temps vhold => sixteen temps && vholdOk vhold
  | .calibrationRun _ g => sixteen g
  | .pairLoRead _ _ bytes => accessBytes bytes
  | .pmTenderSecRead _ _ bytes => accessBytes bytes
  | .sipLedgerMaxRead _ _ bytes => accessBytes bytes
  | .slcRandomRead _ _ bytes => accessBytes bytes
  | .pairHiWrite _ _ bytes _ => accessBytes bytes
  | .pairLoWrite _ _ bytes _ => accessBytes bytes
  | .registerWrite _ _ bytes _ => accessBytes bytes
  | .coreMemoryAccess _ _ access _ _ => access.wf
  | .catchupPages _ pages _ => pagesOk pages
  | .inputCut | .cueDeadline | .memberPassEnd | .readoutStart | .lineStart _ | .portCommitEvent _
  | .supplyRiseSend | .supplyFallSend | .frameInstant | .hostNudge _ _ | .nop | .writeTableStaged _ | .transferDone _
  | .commit | .layerFrame | .setValues | .postTask | .cancelTask | .powerRequest | .powerRequestAbort
  | .serviceReachBegin | .serviceReachEnd | .unknownOpcode | .cqModTimeout _ | .eventPost | .ringEnable _ _ _
  | .ringDisable _ _ _ | .ringDrained _ | .pcieLinkLoss | .functionLevelReset | .msixDeliveryResume _ _
  | .hkAddsu _ _ _ _ | .hkSubsu _ _ _ _ | .hkMulq _ _ _ _ | .hkMaxu _ _ _ _ | .hkMinu _ _ _ _ | .hkAvgu _ _ _ _
  | .hkScl _ _ _ _ | .hkPack _ _ _ _ | .hkNar8 _ _ _ | .hkWid8 _ _ _ | .hkLerp _ _ _ _ _ | .hkMac _ _ _ _ _
  | .xhnkIllegalEncoding _ _ | .drTake _ _ | .drPoll _ _ | .drDone _ _ | .drPost _ _ _ | .drCancel _ _ _
  | .drLedger _ _ _ | .hkLsRead _ _ | .msipStore _ _ _ | .fabricWindowStore _ _ _ _ | .dispatch
  | .drCoreRunWrite _ _ _ | .pfFadeqTailWrite _ _ _ | .pfCtrlWrite _ _ | .cmpCtrlWrite _ _ | .clrCtrlWrite _ _
  | .clrTableBaseWrite _ _ | .wmCtrlWrite _ _ | .wmLegAckWrite _ _ | .pmbusCommandDone _ _ | .flNop _ | .flLi _ _ _
  | .flLui _ _ _ | .flAdd _ _ _ _ | .flSub _ _ _ _ | .flAnd _ _ _ _ | .flOr _ _ _ _ | .flXor _ _ _ _ | .flShl _ _ _ _
  | .flShr _ _ _ _ | .flAddi _ _ _ _ | .flMin _ _ _ _ | .flMax _ _ _ _ | .flMulq _ _ _ _ | .flTake _ _
  | .flPutv _ _ _ | .flPutb _ _ _ | .flMove _ _ _ _ | .flEmit _ _ | .flPar _ _ _ | .flLdk _ _ _ | .flStk _ _ _
  | .flJmp _ _ | .flBz _ _ _ | .flBnz _ _ _ | .flDjnz _ _ _ | .flYield _ | .flEnd _ | .flTrap _ _
  | .flUndefinedOp _ _ | .flumeFault _ _ _ | .portRestPoint _ | .rdmTransactionStart _ | .rdmResponse _ _ _
  | .rdmTimeout _ | .firingProbe _ _ | .turnSet _ | .furrowPong _ _ | .furrowRecord _ _ _ | .returnWindowEnd _
  | .furNodeSilent _ _ | .enumGo _ _ | .macFrameReceive _ _ _ | .rxFrameToHost _ | .pauseRepeat _
  | .pauseWatchdog _ _ | .netMacCfgWrite _ _ _ | .netLinkChange _ _ | .sacnDataDue _ | .syncPacketLaunch _
  | .sacnDiscovery _ | .sacnDataReceived _ | .sacnSyncReceived _ | .sacnSyncTimeout _ _ | .sacnSourceTimeout _ _
  | .videoPacketReceived _ | .audioPacketReceived _ | .audioStreamDown _ | .txFrameLaunch _ | .netTsqPop _ _ _
  | .ptpMessageDue _ _ | .ptpMessageReceived _ | .timeBaseLoss _ | .holdoverLimit _ | .timCapture _ _
  | .tallyEdge _ _ _ | .timTallyPop _ _ | .gateArm _ _ _ | .gateDisarm _ _ _ | .gatePulse _ | .hpdFall _ | .irqHpd _
  | .linkTrainingDone _ _ | .rasterFrameLaunch _ _ | .markSend | .basinMark _ _ | .basinEcho _ _ _ | .basinJoin _ _
  | .basinAccept _ _ | .basinCommit _ _ | .basinSnapshot _ _ | .basinArrive _ _ | .basinRelease _ _ | .basinBcast _ _
  | .basinReset _ _ | .basinReport _ _ | .joinRetry | .dravudChildLoss _ _ | .bsnOpCommit _ _ | .bsnOpSnapshot _ _
  | .bsnOpBarrier _ _ | .bsnOpBroadcast _ _ | .bsnOpReset _ _ | .bsnBcastPop _ _ | .tandemJoinTimer | .heartbeatSend
  | .heartbeatReceived _ _ _ _ _ _ | .failureDeclared | .fenceReceived _ | .switchover _ _
  | .ledgerRecordReceived _ _ _ _ | .standbyFrameStart | .standbyStagingDeadline | .resync _ | .siphonLinkDown
  | .healthRecordSend | .healthRecordTimeout | .standbySelfTest _ _ | .pmRequest _ _ | .pmRequestAbort _ _
  | .prepareBlockAgree | .prepareBlockRefuse | .prepareBlockTimeout | .sleepStateReached | .wakeN | .tenderAlarm
  | .ptpAlarm | .smbusAddressMatch | .smbusWriteRegister _ _ _ | .smbusSetReadAddress _ _ | .smbusReadRegister
  | .dramTrainingDone _ | .showReached | .tenderPowerOn _ | .pmicPowerGood _ | .powerGoodLate _ | .railRetry
  | .pmicPgFall _ | .resetN | .railRestart | .ebbEntry | .ebbExit | .brownoutReset | .throttleUpdate | .riseCheck
  | .selfHeatTimeout | .calRotate | .calMiss _ | .tendRcCalibration | .hourSave | .challengeExpiry | .slcOpComplete
  | .sluiceViolation _ | .entropyFailure | .entropyRetest _ | .jtagInstruction _
  | .flashSectorDone _ | .updateAbort _ _ | .reservoirRowRepair _ _ | .gaRunWrite _ _ _ | .gaDataWrite _ _ _
  | .gaData8Write _ _ _ | .gaFinishWrite _ _ _ | .sltAckSeen _ _ | .sltAckRelease _ _ | .siltEntryQuiet _
  | .siltWindowEnd _ | .warmReset _ _ | .basinLocalReset _ _ | .rstDomainWrite _ _ | .glbIrqTestWrite _ _
  | .wireFree _ | .receivedPauseEnd _ | .videoNotReceiving _
  | .heartbeatMiss | .siphonLaneChange _ | .dravudLinkUp _ | .tallyWake _ | .tend32kRunning | .selfHeatRetry
  | .pmicPgAllLow | .ltcCodeword _ _ _ _ _ _ _ => true

end Sys2Proof
end

