-- ==== Sys2Proof/Safety.lean ====
section
/-! DEFINITION. What holds of a safe run, in the terms the statements use: the canonical forms of the state's maps, and what
no step takes back. -/

namespace Sys2Proof.Machine

/-- The memories are in canonical form. -/
def Mem.wf (m : Mem) : Bool := m.reservoir.wf && m.cistern.wf && m.pads.wf && m.pools.wf

/-- The state's memories and its register file are in canonical form, so that equal contents are equal data. -/
def State.wf (s : State) : Bool := s.mem.wf && mwf regReset s.regs

/-- `g` holds every fuse burned in `f`, and each anti-rollback counter at least as high (R483, R484, R493: a fuse is burned
once and never cleared). -/
structure FusesLe (f g : Fuses) : Prop where
  life : ∀ i, f.life.getLsbD i = true → g.life.getLsbD i = true
  owner : ∀ i, f.ownerHash.getLsbD i = true → g.ownerHash.getLsbD i = true
  roll : ∀ k, mget nat0 f.rollback k ≤ mget nat0 g.rollback k

/-- What every command leaves as it is, or takes nothing back of: the commands that wait, the canonical forms, the fuses, and
what has left the device. -/
structure Keeps (s t : State) : Prop where
  queue : t.pending = s.pending
  wf : s.wf = true → t.wf = true
  fuses : FusesLe s.fuses t.fuses
  out : s.out <:+ t.out

/-! ### Frames -/

/-- `t` is `s` but for core `k`. -/
def OnlyCore (k : Nat) (s t : State) : Prop :=
  t = { s with cores := t.cores } ∧ ∀ j, j ≠ k → t.core j = s.core j

/-- Core `k` has retired a 32-bit instruction that writes integer register `rd`, x0 apart, with the number `v`: nothing but that
register and the pc has changed, and a single step of a debugger is over. -/
def Retired (k rd v : Nat) (s t : State) : Prop :=
  OnlyCore k s t ∧ (rd ≠ 0 → ((t.core k).xr rd).toNat = v) ∧ (t.core k).xr 0 = 0 ∧
    (∀ r, r ≠ rd → (t.core k).xr r = (s.core k).xr r) ∧ (t.core k).pc = (s.core k).pc + 4 ∧
    t.core k = { s.core k with x := (t.core k).x, pc := (t.core k).pc, halt := (t.core k).halt } ∧
    ((s.core k).halt = 0 → (t.core k).halt = 0)

/-- A core's two lanes as one number (chapter 3, Xhnk). -/
def laneWord (l0 l1 : Nat) : Nat := l0 + 65536 * l1

/-- `t` is `s` but for registers of BAR0 among `l`. -/
def OnlyRegs (l : List Nat) (s t : State) : Prop :=
  t = { s with regs := t.regs } ∧ ∀ o, o ∉ l → t.rg o = s.rg o

/-- The answer is a next state of which `P` holds. -/
def Answers (o : Host.Outcome State Fault Refusal) (P : State → Prop) : Prop := ∃ t, o = .next t ∧ P t

/-- No fetched descriptor among `l` is one of those that a target may press back on (R54), unless its hold is counted already. -/
abbrev holdsCounted (l : List Fetched) : Prop := ∀ d ∈ l, d.held = true ∨ dOpcode d.words ∉ [0x06, 0x08, 0x09, 0x0A]

/-- Nothing waits for the end of a command, as between commands: no report for the Silt trap (R536), and no hold of a ring to be
counted (R54). -/
abbrev State.quiet (s : State) : Prop := s.silt.incoming = [] ∧ holdsCounted s.rings.inbox

/-- Counter `o` stands one higher, or at its end (R539). -/
def Counted (o : Nat) (s t : State) : Prop := (t.rg o).toNat = min ((s.rg o).toNat + 1) 0xFFFFFFFF

/-- A counter has at least one count to go before its last value, whose reaching is itself reported (R541). -/
def State.mayCount (s : State) (o : Nat) : Prop := (s.rg o).toNat + 1 < 0xFFFFFFFF

/-- A requester that may write the register at an offset: the host and the cores always; the management port within its subset;
the TAP while it is powered and debug is open, the Sluice's block apart (R500, R566). -/
def State.canWrite (s : State) (req : Requester) (off : Nat) : Prop :=
  match req with
  | .host => True
  | .core _ => True
  | .smbus => s.smbMay true off = true
  | .tap => s.tapOn = true ∧ s.debugLevel ≠ 0 ∧ ¬(0x180000 ≤ off ∧ off < 0x190000)

/-- A 32-bit write of the register at an offset by a requester takes effect: the requester may write it, and the power domain that
it lies in is on (R40). -/
def State.mayWrite (s : State) (req : Requester) (off : Nat) : Prop := s.canWrite req off ∧ s.offDomain off = false

/-- `t` is `s` but for port `p` of the port die. -/
def OnlyPort (p : Nat) (s t : State) : Prop :=
  t = { s with die := { s.die with ports := t.die.ports } } ∧ ∀ q, q ≠ p → t.port q = s.port q

/-- `t` is `s` but for port `p` of the port die and the slices of the flume that serves it, which stand as `v` says. -/
def FlowFrame (p : Nat) (v : Flume) (s t : State) : Prop :=
  t = { s with die := { s.die with ports := t.die.ports, flumes := t.die.flumes } } ∧ (∀ q, q ≠ p → t.port q = s.port q) ∧
    t.flume (s.portFlume p) = v ∧ ∀ f, f ≠ s.portFlume p → t.flume f = s.flume f

/-- Port `p`'s context has executed an instruction: a cycle of its slice has passed, and nothing beside the port has changed. -/
def OnlyFlow (p : Nat) (s t : State) : Prop := FlowFrame p ((s.flume (s.portFlume p)).take (p % 32)) s t

/-- The same of an instruction that ends the slice. -/
def EndsSlice (p : Nat) (s t : State) : Prop := FlowFrame p ((s.flume (s.portFlume p)).take (p % 32)).endSlice s t

/-- Port `p`'s flume context has executed an instruction that computes: register `d`, g0 apart, holds the number `v`, the pc has
moved on, and nothing else has changed. -/
def FlumeSet (p d v : Nat) (s t : State) : Prop :=
  OnlyFlow p s t ∧ (d ≠ 0 → ((t.port p).flow.reg d).toNat = v) ∧ (∀ r, r ≠ d → (t.port p).flow.reg r = (s.port p).flow.reg r) ∧
    (t.port p).flow.pc = ((s.port p).flow.pc + 1) % 16384 ∧
    t.port p = { s.port p with flow := { (s.port p).flow with g := (t.port p).flow.g, pc := (t.port p).flow.pc } }

/-- A Furrow frame of the bytes `b` has left port `p`, coded, behind the fill that keeps the line running (R291..R293); `fill` IDLE
symbols follow it. -/
def SentFrame (p : Nat) (b : List Byte) (fill : Nat) (t : State) : Prop :=
  ∃ k rd w, Emission.symbols p w (codeGroups rd (List.replicate k Symbol.idle ++ furSymbols b fill)).1 ∈ t.out

/-- The turn set with the return window's end `w` has left port `p`, as `SentFrame` says of a frame (R292, R304). -/
def SentTurn (p : Nat) (w : List Byte) (t : State) : Prop :=
  ∃ k rd v, Emission.symbols p v (codeGroups rd (List.replicate k Symbol.idle ++
    .turn :: (w ++ [w.getD 0 0 ^^^ w.getD 1 0 ^^^ w.getD 2 0]).map Symbol.data)).1 ∈ t.out

/-- The bits that a context has written to its outfall, as one number, the first bit most significant. -/
def outfallBits (f : Flow) : Nat := (f.buf.foldl (fun a b => a * 256 + b.toNat) 0) * 2 ^ f.accBits + f.acc

/-- How many bits they are. -/
def outfallLen (f : Flow) : Nat := 8 * f.buf.length + f.accBits

/-- Room for `n` more bits: on a line buffer of 16 KiB, or in the Furrow block in progress. -/
def State.outfallRoom (s : State) (p n : Nat) : Prop :=
  if peLine (s.port p).ent = mFURROW then outfallLen (s.port p).flow + n < 4096 else outfallLen (s.port p).flow + n ≤ 131072

/-! ### Descriptors -/

/-- `d` is the fetched descriptor that starts next, with `rest` behind it: it has opcode `op`, no reserved bit of its common part
is set, and neither the lifecycle nor host-recovery mode refuses it (R52, R486, R522, R591). -/
structure State.NextDesc (s : State) (d : Fetched) (rest : List Fetched) (op : Nat) : Prop where
  next : s.next = some (d, rest)
  opcode : dOpcode d.words = op
  common : commonOk d.words = true
  allowed : s.opDenied op = false

/-- A frame-timed descriptor that meets its frame: ASAP, or with a target whose input cut lies ahead (R55..R57). -/
def State.onTime (s : State) (d : Fetched) : Prop := dAsap d.words = true ∨ s.time.clock.cutFrame + 1 ≤ d.target

/-- The record of a descriptor that has started: `target` is its frame, or 0 where it is not frame-timed. -/
def State.flightOf (s : State) (d : Fetched) (target : Nat) : Flight :=
  { id := s.rings.nextId, ring := d.ring, words := d.words, target := target, busy := d.busy }

/-- The frame at whose input cut a frame-timed descriptor that starts now acts. -/
def State.frameOf (s : State) (d : Fetched) : Nat := if dAsap d.words then s.time.clock.cutFrame + 1 else d.target

/-- `s` with that descriptor out of its queue and in flight. -/
def State.withFlight (s : State) (rest : List Fetched) (f : Flight) : State :=
  { s with rings := { s.rings with inbox := rest, nextId := s.rings.nextId + 1, flight := s.rings.flight ++ [f] } }

/-- An operand of one contiguous piece of memory that can be reached: of the Reservoir, or of the host's with no failing range. -/
def State.operandOk (s : State) (v : HostView) (ws : List Word) : Prop :=
  aScatter ws = false ∧
    if aSpace ws = 1 then s.resOk (aAddr ws) (aLength ws) = true else s.hostReach = true ∧ v.fails = []

/-- The bytes of such an operand. -/
def State.operandAt (s : State) (v : HostView) (ws : List Word) : List Byte :=
  if aSpace ws = 1 then memRead s.mem.reservoir (aAddr ws) (aLength ws) else viewRead v (aAddr ws) (aLength ws)

/-- Bytes written to where such an operand says: into the Reservoir, or out to the host's memory. -/
def State.operandPut (s : State) (ws : List Word) (b : List Byte) : State :=
  if aSpace ws = 1 then { s with mem := { s.mem with reservoir := memWrite s.mem.reservoir (aAddr ws) b } }
  else { s with out := .hostWrite (aAddr ws) b :: s.out }

/-- A ring in host memory whose CQ takes entries: it runs or drains, and the host can be reached. -/
def State.canPost (s : State) (n : Nat) : Prop :=
  s.ringLive n = true ∧ s.ringPlace n = 0 ∧ s.hostReach = true ∧ s.pcie.fails = [] ∧ s.isStandby = false

/-- Ring `n`'s CQ has taken the entry `c`: its 32 bytes, with the phase of the pass and the ring's `sq_head`, have left for the
slot of the CQ's tail, which has moved on (R65, R66). -/
def Posts (n : Nat) (c : Completion) (s t : State) : Prop :=
  Emission.hostWrite (s.cqBase n + 32 * ((s.ring n).cqTail % 2 ^ s.cqLog n))
      (cplBytes c (phaseOf (s.ring n).cqTail (s.cqLog n)) (s.fget R.HOST_RING_STATUS_sq_head n)) ∈ t.out ∧
    (t.ring n).cqTail = ((s.ring n).cqTail + 1) % 2 ^ (s.cqLog n + 1) ∧
    t = { s with rings := t.rings, pcie := t.pcie, out := t.out }

/-- What leaves over the Siphon link for a text, newest first: its transfer units, each sealed under this unit's key with the nonces
that follow those used (R497); nothing without keys, nor with keys that have sealed all they may. -/
def SealedUnits (kind : Nat) (text : List Byte) (s : State) : List Emission :=
  match s.siphonKey with
  | none => []
  | some k =>
    if siphonKeyLife < s.sluice.siphUnits + (siphonPieces text).length then []
    else ((sealUnits k (s.fbit R.SIP_CTRL_unit) s.sluice.siphUnits (siphonPieces text)).map
      (fun u => Emission.siphon kind (u.map (fun b => b.toNat)))).reverse

/-- The completion of a descriptor with words `ws` (R65). -/
def completionOf (ws : List Word) (status result frame : Nat) : Completion :=
  { opcode := dOpcode ws, status := status, tag := dTag ws, cookie := dCookie ws, frame := frame, result := result, irq := dIrq ws }

end Sys2Proof.Machine
end

