-- ==== Sys2Proof/Certificates/Slice0/Obligations.lean ====
section
/-! DEFINITION. The statements for the provers. -/

open Sys2Proof Sys2Proof.Machine

/-! ### Cue cores (chapter 3) -/

/-- Chapter 3, Xhnk: the two-source lane instructions on a core that executes. `a0`, `a1`, `b0`, `b1` are the lanes of rs1 and
rs2, and q(x, y) is (x * y + 32767) / 65535. -/
def Obligations.XhnkLaneResults : Prop :=
  ∀ (core : Fin 64) (rd rs1 rs2 : Fin 32) (s : State), s.coreReady core = true →
    let a0 := ((s.core core).xr rs1).toNat % 65536
    let a1 := ((s.core core).xr rs1).toNat / 65536
    let b0 := ((s.core core).xr rs2).toNat % 65536
    let b1 := ((s.core core).xr rs2).toNat / 65536
    Answers (exec (.hkAddsu core rd rs1 rs2) s) (Retired core rd (laneWord (min (a0 + b0) 65535) (min (a1 + b1) 65535)) s) ∧
    Answers (exec (.hkSubsu core rd rs1 rs2) s) (Retired core rd (laneWord (a0 - b0) (a1 - b1)) s) ∧
    Answers (exec (.hkMulq core rd rs1 rs2) s)
      (Retired core rd (laneWord ((a0 * b0 + 32767) / 65535) ((a1 * b1 + 32767) / 65535)) s) ∧
    Answers (exec (.hkMaxu core rd rs1 rs2) s) (Retired core rd (laneWord (max a0 b0) (max a1 b1)) s) ∧
    Answers (exec (.hkMinu core rd rs1 rs2) s) (Retired core rd (laneWord (min a0 b0) (min a1 b1)) s) ∧
    Answers (exec (.hkAvgu core rd rs1 rs2) s) (Retired core rd (laneWord ((a0 + b0 + 1) / 2) ((a1 + b1 + 1) / 2)) s) ∧
    Answers (exec (.hkScl core rd rs1 rs2) s)
      (Retired core rd (laneWord ((a0 * b0 + 32767) / 65535) ((a1 * b0 + 32767) / 65535)) s) ∧
    Answers (exec (.hkPack core rd rs1 rs2) s) (Retired core rd (laneWord a0 b0) s) ∧
    Answers (exec (.hkNar8 core rd rs1) s) (Retired core rd ((a0 + 128) / 257 + 256 * ((a1 + 128) / 257)) s) ∧
    Answers (exec (.hkWid8 core rd rs1) s) (Retired core rd (laneWord (a0 % 256 * 257) (a0 / 256 * 257)) s)

/-- Chapter 3, Xhnk: the two instructions with a third source, whose lanes are `t0` and `t1`; the difference that `hk.lerp`
scales is signed. -/
def Obligations.XhnkBlendResults : Prop :=
  ∀ (core : Fin 64) (rd rs1 rs2 rs3 : Fin 32) (s : State), s.coreReady core = true →
    let a0 := ((s.core core).xr rs1).toNat % 65536
    let a1 := ((s.core core).xr rs1).toNat / 65536
    let b0 := ((s.core core).xr rs2).toNat % 65536
    let b1 := ((s.core core).xr rs2).toNat / 65536
    let t0 := ((s.core core).xr rs3).toNat % 65536
    let t1 := ((s.core core).xr rs3).toNat / 65536
    let blend (a b t : Nat) : Int := a + ((b : Int) - a).sign * (((((b : Int) - a).natAbs * t + 32767) / 65535 : Nat) : Int)
    (∃ l0 l1 : Nat, (l0 : Int) = blend a0 b0 t0 ∧ (l1 : Int) = blend a1 b1 t1 ∧
      Answers (exec (.hkLerp core rd rs1 rs2 rs3) s) (Retired core rd (laneWord l0 l1) s)) ∧
    Answers (exec (.hkMac core rd rs1 rs2 rs3) s) (Retired core rd
      (laneWord (min (t0 + (a0 * b0 + 32767) / 65535) 65535) (min (t1 + (a1 * b1 + 32767) / 65535) 65535)) s)

/-- Chapter 3, Xhnk: a word under custom-0 or custom-1 that is none of the twelve encodings raises illegal instruction: the core
traps with cause 2 at the instruction's own pc, to the base that `mtvec` holds, with interrupts stacked off; its integer
registers stand. What `mtval` holds the spec leaves open, and the statement leaves it out. -/
def Obligations.XhnkIllegalTraps : Prop :=
  ∀ (core : Fin 64) (w : Word) (s : State), s.coreReady core = true →
    (w.toNat % 128 = 0x0B ∧ ¬(w.toNat / 2 ^ 25 = 0 ∨
        (w.toNat / 2 ^ 25 = 1 ∧ w.toNat / 2 ^ 12 % 8 ≤ 1 ∧ w.toNat / 2 ^ 20 % 32 = 0)) ∨
      w.toNat % 128 = 0x2B ∧ ¬(w.toNat / 2 ^ 12 % 8 = 0 ∧ w.toNat / 2 ^ 25 % 4 ≤ 1)) →
    Answers (exec (.xhnkIllegalEncoding core w) s) (fun t => OnlyCore core s t ∧
      (t.core core).csrr csrMcause = 2 ∧ (t.core core).csrr csrMepc = (s.core core).pc ∧
      ((t.core core).pc).toNat = ((s.core core).csrr csrMtvec).toNat / 4 * 4 ∧
      getBits ((t.core core).csrr csrMstatus) 3 3 = 0 ∧
      getBits ((t.core core).csrr csrMstatus) 7 7 = getBits ((s.core core).csrr csrMstatus) 3 3 ∧
      ∀ r, (t.core core).xr r = (s.core core).xr r)

/-- Chapter 3, CSRs: `dr.take` and `dr.poll` answer the handle of the task that the core holds and dispatch nothing; with none,
`dr.take` stops the core until a dispatch, and `dr.poll` answers 0 where the Ditchrider dispatches nothing; `dr.cancel` of a
handle that names no task answers 0; `hk.ls` answers LOCAL's seconds and latches its nanoseconds for `hk.lns`; with no task
dispatched, a word goes through `dr.ledger` unchanged. -/
def Obligations.DispatchCsrs : Prop :=
  ∀ (core : Fin 64) (rd rs1 : Fin 32) (s : State), s.coreReady core = true →
    (∀ i v, (s.core core).task = some i → s.task i = some v →
      Answers (exec (.drTake core rd) s) (Retired core rd (taskHandle v i % 2 ^ 32) s) ∧
      Answers (exec (.drPoll core rd) s) (Retired core rd (taskHandle v i % 2 ^ 32) s)) ∧
    ((s.core core).task = none →
      ((s.core core).intCause = none → Answers (exec (.drTake core rd) s) (fun t =>
        t = { s with cores := t.cores, ditch := { s.ditch with waiting := s.ditch.waiting ++ [core.val] } } ∧
        (∀ j, j ≠ core.val → t.core j = s.core j) ∧ t.core core = { s.core core with waiting := some rd.val })) ∧
      (s.fget R.DR_CTRL_dispatch_enable = 0 → Answers (exec (.drPoll core rd) s) (Retired core rd 0 s)) ∧
      (s.quiet → Answers (exec (.drLedger core rd rs1) s) (Retired core rd ((s.core core).xr rs1).toNat s))) ∧
    (s.byHandle ((s.core core).xr rs1).toNat = none → Answers (exec (.drCancel core rd rs1) s) (Retired core rd 0 s)) ∧
    Answers (exec (.hkLsRead core rd) s) (fun t => OnlyCore core s t ∧ (t.core core).pc = (s.core core).pc + 4 ∧
      (rd ≠ 0 → ((t.core core).xr rd).toNat = (s.time.loc.t / (1000000000 * 65536) % 2 ^ 32).toNat) ∧
      (t.core core).lns.toNat = (s.time.loc.t % (1000000000 * 65536) / 65536).toNat ∧
      ∀ r, r ≠ rd.val → (t.core core).xr r = (s.core core).xr r)

/-- R99, R101: a `dr.post` of a valid source word for a PERIODIC or an EVENT task, with a descriptor to spare, puts the task into
the free descriptor of lowest index and answers its handle; one of an invalid word answers 0, with reason 2, and is counted.
R107: a `dr.cancel` of a PERIODIC or EVENT task that waits for its release ends it and answers 1. -/
def Obligations.CorePostsAndCancels : Prop :=
  ∀ (core : Fin 64) (rd rs1 : Fin 32) (s : State), s.coreReady core = true → s.quiet →
    let w := (s.core core).xr rs1
    (postWordOk w = true → getBits w 15 14 ≠ 0 → 0 < s.poolFree → s.fget R.DR_POOL_CFG_host_reserve ≤ s.poolFree →
      let i := lowestFree s.ditch.pool 0
      Answers (exec (.drPost core rd rs1) s) (fun t =>
        t = { s with cores := t.cores, ditch := t.ditch } ∧
        (∃ v, t.task i = some v ∧ v.kind = w.toNat / 2 ^ 14 % 4 ∧ v.family = w.toNat / 2 ^ 16 ∧ v.prio = w.toNat % 8 ∧
          v.source = w.toNat / 2 ^ 7 % 128 ∧ v.st = .waiting ∧ v.host = none ∧
          v.args = (List.range 10).map (fun k => (s.core core).csrr (0x7C8 + k)) ∧
          (rd ≠ 0 → ((t.core core).xr rd).toNat = taskHandle v i % 2 ^ 32)) ∧
        (∀ j, j ≠ i → t.task j = s.task j) ∧ (t.core core).pc = (s.core core).pc + 4 ∧
        ∀ j, j ≠ core.val → t.core j = s.core j)) ∧
    (postWordOk w = false → s.mayCount R.DR_POST_REFUSED_COUNT.off →
      Answers (exec (.drPost core rd rs1) s) (fun t =>
        t = { s with cores := t.cores, regs := t.regs } ∧ (t.core core).csrr csrPerr = 2 ∧ (t.core core).pc = (s.core core).pc + 4 ∧
        (rd ≠ 0 → (t.core core).xr rd = 0) ∧ Counted R.DR_POST_REFUSED_COUNT.off s t ∧
        (∀ o, o ≠ R.DR_POST_REFUSED_COUNT.off → t.rg o = s.rg o) ∧ ∀ j, j ≠ core.val → t.core j = s.core j)) ∧
    (∀ i v, s.byHandle w.toNat = some (i, v) → v.kind ≠ 0 → v.st = .waiting →
      Answers (exec (.drCancel core rd rs1) s) (fun t =>
        t = { s with cores := t.cores, ditch := t.ditch } ∧ t.task i = none ∧ (∀ j, j ≠ i → t.task j = s.task j) ∧
        (rd ≠ 0 → (t.core core).xr rd = 1) ∧ (t.core core).pc = (s.core core).pc + 4 ∧
        ∀ j, j ≠ core.val → t.core j = s.core j))

/-- R93: a write of `dr.done` retires the current task. One of kind ONE_SHOT that a core posted leaves the pool, and posts no
completion; with no task dispatched the write is ignored. `draining` is a cluster on its way into service (R112). A task that the
active's ledger has named late retires as well, counted as late (R105). -/
def Obligations.TaskRetires : Prop :=
  ∀ (core : Fin 64) (rs1 : Fin 32) (s : State), s.coreReady core = true → s.quiet → s.ditch.draining = [] →
    (∀ i v, (s.core core).task = some i → s.task i = some v → v.kind = 0 → v.host = none →
      let named := s.shadows && ((s.heard 0x09).flatMap (fun r => r.body)).contains (knownHandle v i)
      (named = false → Answers (exec (.drDone core rs1) s) (fun t =>
        t = { s with cores := t.cores, ditch := t.ditch } ∧ t.task i = none ∧ (∀ j, j ≠ i → t.task j = s.task j) ∧
        (t.core core).task = none ∧ (t.core core).lastFamily = some v.family ∧ (t.core core).pc = (s.core core).pc + 4 ∧
        (∀ r, (t.core core).xr r = (s.core core).xr r) ∧ ∀ j, j ≠ core.val → t.core j = s.core j)) ∧
      (named = true → s.frameBound v = true → v.frame = s.evalFrame → v.late = false → s.mayCount R.DR_CUE_LATE_COUNT.off →
        Answers (exec (.drDone core rs1) s) (fun t => t.task i = none ∧ (t.core core).task = none ∧
          (t.core core).pc = (s.core core).pc + 4 ∧ Counted R.DR_CUE_LATE_COUNT.off s t))) ∧
    ((s.core core).task = none → Answers (exec (.drDone core rs1) s) (fun t => OnlyCore core s t ∧
      (t.core core).pc = (s.core core).pc + 4 ∧ (∀ r, (t.core core).xr r = (s.core core).xr r) ∧ (t.core core).task = none))

/-- R110: the dispatch of a cycle goes to the longest-waiting core of the cluster, which takes the head of the highest list that
is not empty when the affinity window is 0: here cluster A, with cluster B dispatching nothing. The core's register takes
the task's handle and its CSR instruction retires. -/
def Obligations.DispatchGivesHead : Prop :=
  ∀ (core rd i : Nat) (l : List Nat) (v : Task) (s : State), core < 32 → s.dispatchOn = true → s.clusterOut 0 = false →
    s.clusterOut 1 = true → s.ditch.waiting.find? (fun k => clusterOf k == 0) = some core →
    (s.core core).waiting = some rd → s.readyList 0 0 = i :: l → s.task i = some v → bits (s.tword 0x47 0 0) 4 0 = 0 →
    Answers (exec .dispatch s) (fun t =>
      t = { s with cores := t.cores, ditch := t.ditch } ∧ (t.core core).task = some i ∧ (t.core core).waiting = none ∧
      (rd ≠ 0 → ((t.core core).xr rd).toNat = taskHandle v i % 2 ^ 32) ∧ (t.core core).pc = (s.core core).pc + 4 ∧
      t.task i = some { v with st := .dispatched, core := core } ∧ (∀ j, j ≠ i → t.task j = s.task j) ∧
      ¬ core ∈ t.ditch.waiting ∧ ∀ j, j ≠ core → t.core j = s.core j)

/-- R118: an aligned store to an alias window changes the bytes of the pool that it stores to, and those alone: each becomes
(byte OR value) under the bit-set alias and (byte AND NOT value) under the bit-clear one. Reservations of the cluster's cores on
the word end; the pool of the other cluster, every register and every scratchpad stand. R121: a full word is stored with fresh ECC:
no error stands in it. -/
def Obligations.AliasStores : Prop :=
  ∀ (core : Fin 64) (off : BitVec 23) (n : Fin 5) (rs2 : Fin 32) (s : State), s.coreReady core = true →
    n.val = 1 ∨ n.val = 2 ∨ n.val = 4 → off.toNat % n.val = 0 →
    let base := core.val / 32 * 2 ^ 23 + off.toNat
    let v := (leBytes ((s.core core).xr rs2).toNat n)
    ∀ set : Bool, (n.val = 4 → Answers (exec (if set then .bitSetStore core off n rs2 else .bitClearStore core off n rs2) s) (fun t =>
        (t.core core).pc = (s.core core).pc + 4 ∧ base ∉ t.mem.badPools)) ∧
      (s.mem.badPools = [] → Answers (exec (if set then .bitSetStore core off n rs2 else .bitClearStore core off n rs2) s) (fun t =>
      t = { s with cores := t.cores, mem := { s.mem with pools := t.mem.pools } } ∧
      (∀ k (h : k < v.length), memByte t.mem.pools (base + k) =
        if set then memByte s.mem.pools (base + k) ||| v[k] else memByte s.mem.pools (base + k) &&& ~~~v[k]) ∧
      (∀ a, a < base ∨ base + n.val ≤ a → memByte t.mem.pools a = memByte s.mem.pools a) ∧
      (t.core core).pc = (s.core core).pc + 4 ∧ (∀ j, (t.core j).x = (s.core j).x) ∧
      ∀ j, j ≠ core.val → t.core j = { s.core j with resv := (t.core j).resv } ∧
        (j / 32 = core.val / 32 → ∀ q, (t.core j).resv = some q → q / 4 ≠ off.toNat / 4)))

/-- R89: a word store of 1 to the `msip` word of a core of the storing core's cluster raises that core's software interrupt, and
one of 0 clears it. R116: a 16-bit store into the fabric window lands as a contribution of its task's frame, the larger of two
standing (R140); one for another frame than that in evaluation, or of a task that is late (R104), is counted as late and lands
nowhere. -/
def Obligations.CoreStoresToUnits : Prop :=
  ∀ (core : Fin 64) (target rs2 : Fin 32) (addr : BitVec 24) (s : State), s.coreReady core = true →
    let k := core.val / 32 * 32 + target.val
    (∀ b : Bool, (s.core core).xr rs2 = (if b then 1 else 0) → Answers (exec (.msipStore core target rs2) s) (fun t =>
      t = { s with cores := t.cores, ditch := { s.ditch with waiting := t.ditch.waiting } } ∧ (t.core k).msip = b ∧
      (∀ j, j ≠ core.val → j ≠ k → t.core j = s.core j) ∧
      (k ≠ core.val → (t.core core).pc = (s.core core).pc + 4 ∧ ∀ r, (t.core core).xr r = (s.core core).xr r))) ∧
    (addr.toNat % 2 = 0 → s.quiet → ∀ i v, (s.core core).task = some i → s.task i = some v →
      let l := ((s.core core).xr rs2).toNat % 65536
      let slot := addr.toNat / 2
      (v.frame = s.evalFrame → v.late = false → s.mayCount R.PF_CUE_MERGE_COUNT.off →
        Answers (exec (.fabricWindowStore core addr false rs2) s) (fun t =>
        t = { s with cores := t.cores, regs := t.regs, fabric := { s.fabric with snaps := t.fabric.snaps } } ∧
        mget none0 t.fabric.snaps slot = some ((mget none0 s.fabric.snaps slot).elim l (max · l)) ∧
        (∀ q, q ≠ slot → mget none0 t.fabric.snaps q = mget none0 s.fabric.snaps q) ∧
        (∀ o, o ≠ R.PF_CUE_MERGE_COUNT.off → t.rg o = s.rg o) ∧ (t.core core).pc = (s.core core).pc + 4)) ∧
      (v.frame ≠ s.evalFrame ∨ v.late = true → s.mayCount R.DR_LATE_WRITE_COUNT.off →
        Answers (exec (.fabricWindowStore core addr false rs2) s) (fun t =>
        t = { s with cores := t.cores, regs := t.regs } ∧ Counted R.DR_LATE_WRITE_COUNT.off s t ∧
        (∀ o, o ≠ R.DR_LATE_WRITE_COUNT.off → t.rg o = s.rg o) ∧ (t.core core).pc = (s.core core).pc + 4)))

/-- R127: a write of DR_CORE_RUN_A or DR_CORE_RUN_B that lets no core fall back into reset stores its value, and each core whose
bit rises starts with its registers as reset gives them, but for `hk.rwin`, the arguments of its next post and `dr.perr` (CSRs
0x7C6, 0x7C8 to 0x7D1 and 0xFC3, R90) and the bad words it has not been told of (R89); the others stand. R120, R121: what the scrubber finds: a corrected bit
is counted; an uncorrectable word stays marked. -/
def Obligations.CoreRunAndScrub : Prop :=
  ∀ (req : Requester) (b : Bool) (v : Word) (s : State),
    let f := if b then R.DR_CORE_RUN_B else R.DR_CORE_RUN_A
    let base := if b then 32 else 0
    s.canWrite req f.off → s.domOn .sys = true → s.ditch.draining = [] → s.quiet →
    ((∀ n, n < 32 → (s.rg f.off).getLsbD n = true → v.getLsbD n = true) →
      Answers (exec (.drCoreRunWrite req b v) s) (fun t =>
        t = { s with regs := t.regs, cores := t.cores } ∧ t.rg f.off = v ∧ (∀ o, o ≠ f.off → t.rg o = s.rg o) ∧
        ∀ k, t.core k = if base ≤ k ∧ k < base + 32 ∧ (s.rg f.off).getLsbD (k - base) = false ∧ v.getLsbD (k - base) = true
          then { csr := (s.core k).csr.filter (fun e => keptCsr e.1), errs := (s.core k).errs } else s.core k)) ∧
    (∀ addr : Nat, s.domOn .coreA = true → s.domOn .coreB = true →
      (s.mayCount (R.DR_ECC_CORRECTED_COUNT.off (addr / 2 ^ 23 % 2)) → Answers (exec (.eccScrub true addr 1) s) (fun t =>
        t = { s with regs := t.regs } ∧ Counted (R.DR_ECC_CORRECTED_COUNT.off (addr / 2 ^ 23 % 2)) s t ∧
        ∀ o, o ≠ R.DR_ECC_CORRECTED_COUNT.off (addr / 2 ^ 23 % 2) → t.rg o = s.rg o)) ∧
      Answers (exec (.eccScrub true addr 2) s) (fun t => addr / 4 * 4 ∈ t.mem.badPools ∧ t.mem.badPads = s.mem.badPads ∧
        t.mem.pools = s.mem.pools ∧ ∀ k, k / 32 = addr / 2 ^ 23 % 2 → getBits ((s.core k).csrr csrMstatus) 3 3 = 0 →
          (t.core k).meip = true) ∧
      Answers (exec (.eccScrub true addr 0) s) (fun t => t = s))

/-- R115, R118: a core's loads and stores. A word load from its own data scratchpad answers the little-endian word there; a store
of 1, 2 or 4 bytes changes exactly those bytes; LR reserves a word of the pool, and SC stores and answers 0 while the reservation
stands, else answers 1 and stores nothing; an access outside the map traps. R120: a read that meets one wrong bit is corrected and
counted. R86, R94: a core fetches at its pc and executes what stands there, here an ADD and an `hk.addsu`; that the operand `run`
asks for it is the model's choice (log entry 22). -/
def Obligations.CoreMemory : Prop :=
  ∀ (core : Fin 64) (addr : Word) (rd rs2 : Fin 32) (s : State), s.coreReady core = true → s.quiet →
    let a := addr.toNat
    let v := ((s.core core).xr rs2)
    (0x100000 ≤ a → a < 0x120000 → a % 4 = 0 → s.mem.badPads = [] →
      Answers (exec (.coreMemoryAccess core addr (.load rd 4 false) false 0) s)
        (Retired core rd (memNat s.mem.pads (core.val * 2 ^ 21 + a) 4) s) ∧
      (s.mayCount (R.DR_ECC_CORRECTED_COUNT.off (core.val / 32)) →
        Answers (exec (.coreMemoryAccess core addr (.load rd 4 false) false 1) s) (fun t =>
          t = { s with cores := t.cores, regs := t.regs } ∧ Counted (R.DR_ECC_CORRECTED_COUNT.off (core.val / 32)) s t ∧
          (rd ≠ 0 → ((t.core core).xr rd).toNat = memNat s.mem.pads (core.val * 2 ^ 21 + a) 4) ∧
          (t.core core).pc = (s.core core).pc + 4)) ∧
      ∀ n : Fin 5, n.val = 1 ∨ n.val = 2 ∨ n.val = 4 →
        Answers (exec (.coreMemoryAccess core addr (.store rs2 n) false 0) s) (fun t =>
          t = { s with cores := t.cores, mem := { s.mem with pads := t.mem.pads } } ∧
          (∀ k (h : k < (leBytes (v.toNat % 256 ^ n.val) n).length),
            memByte t.mem.pads (core.val * 2 ^ 21 + a + k) = (leBytes (v.toNat % 256 ^ n.val) n)[k]) ∧
          (∀ q, q < core.val * 2 ^ 21 + a ∨ core.val * 2 ^ 21 + a + n.val ≤ q → memByte t.mem.pads q = memByte s.mem.pads q) ∧
          (t.core core).pc = (s.core core).pc + 4 ∧ ∀ r, (t.core core).xr r = (s.core core).xr r)) ∧
    (0x10000000 ≤ a → a < 0x10800000 → a % 4 = 0 → s.mem.badPools = [] →
      Answers (exec (.coreMemoryAccess core addr (.lr rd) false 0) s) (fun t => OnlyCore core s t ∧
        (t.core core).resv = some (a - 0x10000000) ∧
        (rd ≠ 0 → ((t.core core).xr rd).toNat = memNat s.mem.pools (core.val / 32 * 2 ^ 23 + (a - 0x10000000)) 4)) ∧
      Answers (exec (.coreMemoryAccess core addr (.sc rd rs2) false 0) s) (fun t =>
        (t.core core).resv = none ∧ (t.core core).pc = (s.core core).pc + 4 ∧
        ((s.core core).resv = some (a - 0x10000000) → (rd ≠ 0 → (t.core core).xr rd = 0) ∧
          memNat t.mem.pools (core.val / 32 * 2 ^ 23 + (a - 0x10000000)) 4 = v.toNat) ∧
        ((s.core core).resv ≠ some (a - 0x10000000) → (rd ≠ 0 → (t.core core).xr rd = 1) ∧ t.mem = s.mem))) ∧
    (addr = (s.core core).pc → a % 2 = 0 → a + 4 ≤ 0x10000 → s.mem.badPads = [] → ∀ rs1 : Fin 32,
      let x := ((s.core core).xr rs1).toNat
      let w := memNat s.mem.pads (core.val * 2 ^ 21 + a) 4
      (w = 0x33 + 2 ^ 7 * rd.val + 2 ^ 15 * rs1.val + 2 ^ 20 * rs2.val →
        Answers (exec (.coreMemoryAccess core addr .run false 0) s) (Retired core rd ((x + v.toNat) % 2 ^ 32) s)) ∧
      (w = 0x0B + 2 ^ 7 * rd.val + 2 ^ 15 * rs1.val + 2 ^ 20 * rs2.val →
        Answers (exec (.coreMemoryAccess core addr .run false 0) s) (Retired core rd
          (laneWord (min (x % 65536 + v.toNat % 65536) 65535) (min (x / 65536 + v.toNat / 65536) 65535)) s))) ∧
    (0xC0000000 ≤ a → a % 4 = 0 →
      Answers (exec (.coreMemoryAccess core addr (.load rd 4 false) false 0) s) (fun t => OnlyCore core s t ∧
        (t.core core).csrr csrMcause = 5 ∧ (t.core core).csrr csrMepc = (s.core core).pc ∧ (t.core core).csrr csrMtval = addr) ∧
      Answers (exec (.coreMemoryAccess core addr (.store rs2 4) false 0) s) (fun t => OnlyCore core s t ∧
        (t.core core).csrr csrMcause = 7 ∧ (t.core core).csrr csrMepc = (s.core core).pc ∧ (t.core core).csrr csrMtval = addr))

/-! ### Flumes (chapter 9) -/

/-- R277: the instructions that compute on a context's registers, x and y being the values of `a` and `b`. g0 reads as zero and
discards what is written to it. Each executes where the context runs, its flume's slice table holds an entry of its port and the
word at its program counter has the instruction's fields; it takes one cycle of the port's slice, and `yield` ends the slice. That
the order of the commands gives the slices is the model's choice (log entry 96). -/
def Obligations.FlumeComputes : Prop :=
  ∀ (p : Fin 256) (d a b : Fin 16) (i16 : BitVec 16) (imm : BitVec 14) (s : State), s.quiet →
    let f := (s.port p).flow
    let x := (f.reg a).toNat
    let y := (f.reg b).toNat
    let runs (fields : Word → Bool) (c : Instr) (d v : Nat) : Prop := s.flowLive p fields = true → Answers (exec c s) (FlumeSet p d v s)
    runs (isOpWord 0x00) (.flNop p) 0 0 ∧
    (s.flowLive p (isOpWord 0x1C) = true → Answers (exec (.flYield p) s) (fun t => EndsSlice p s t ∧
      t.port p = { s.port p with flow := { f with pc := (f.pc + 1) % 16384 } })) ∧
    runs (isLoad 0x01 d i16.toNat) (.flLi p d i16) d i16.toNat ∧
    runs (isLoad 0x02 d i16.toNat) (.flLui p d i16) d (i16.toNat * 65536 + (f.reg d).toNat % 65536) ∧
    runs (isDAB 0x03 d a b) (.flAdd p d a b) d ((x + y) % 2 ^ 32) ∧
    runs (isDAB 0x04 d a b) (.flSub p d a b) d ((x + 2 ^ 32 - y) % 2 ^ 32) ∧
    runs (isDAB 0x05 d a b) (.flAnd p d a b) d (x &&& y) ∧
    runs (isDAB 0x06 d a b) (.flOr p d a b) d (x ||| y) ∧
    runs (isDAB 0x07 d a b) (.flXor p d a b) d (x ^^^ y) ∧
    runs (isDAB 0x08 d a b) (.flShl p d a b) d (x * 2 ^ (y % 32) % 2 ^ 32) ∧
    runs (isDAB 0x09 d a b) (.flShr p d a b) d (x / 2 ^ (y % 32)) ∧
    runs (isDAI 0x0A d a imm.toNat) (.flAddi p d a imm) d
      ((x + (if imm.toNat < 8192 then imm.toNat else imm.toNat + 2 ^ 32 - 16384)) % 2 ^ 32) ∧
    runs (isDAB 0x0B d a b) (.flMin p d a b) d (min x y) ∧
    runs (isDAB 0x0C d a b) (.flMax p d a b) d (max x y) ∧
    runs (isDAB 0x0D d a b) (.flMulq p d a b) d ((x % 65536 * (y % 65536) + 32767) / 65535) ∧
    runs (isDI 0x16 d imm.toNat) (.flLdk p d imm) d (mget word0 f.keep (imm.toNat % 16)).toNat ∧
    (imm.toNat = 5 → runs (isDI 0x15 d 5) (.flPar p d imm) d p.val) ∧
    (imm.toNat = 6 → runs (isDI 0x15 d 6) (.flPar p d imm) d (s.readFrame % 2 ^ 32)) ∧
    (8 ≤ imm.toNat → imm.toNat ≤ 15 → runs (isDI 0x15 d imm.toNat) (.flPar p d imm) d ((s.port p).ent imm.toNat % 2 ^ 32))

/-- R277: the jumps, to an address in RAM or ROM: taken, the pc is `imm`; not taken, it moves on. `djnz` counts its register down
by 1 first, modulo 2^32, and jumps unless that gives 0. g0 reads as 0, so that `djnz` of it goes on (the model's choice, log
entry 57). -/
def Obligations.FlumeJumps : Prop :=
  ∀ (p : Fin 256) (a : Fin 16) (imm : BitVec 14) (s : State), s.quiet → imm.toNat < 0x3000 →
    let f := (s.port p).flow
    let moved (t : State) (to_ : Nat) : Prop := OnlyFlow p s t ∧ t.port p = { s.port p with flow := { f with pc := to_ } }
    let on := (f.pc + 1) % 16384
    (s.flowLive p (isI 0x18 imm.toNat) = true → Answers (exec (.flJmp p imm) s) (fun t => moved t imm.toNat)) ∧
    (s.flowLive p (isAI 0x19 a imm.toNat) = true →
      Answers (exec (.flBz p a imm) s) (fun t => moved t (if f.reg a = 0 then imm.toNat else on))) ∧
    (s.flowLive p (isAI 0x1A a imm.toNat) = true →
      Answers (exec (.flBnz p a imm) s) (fun t => moved t (if f.reg a = 0 then on else imm.toNat))) ∧
    (s.flowLive p (isDI 0x1B a imm.toNat) = true →
      (a = 0 → Answers (exec (.flDjnz p a imm) s) (fun t => moved t on)) ∧
      (a ≠ 0 → Answers (exec (.flDjnz p a imm) s) (fun t => OnlyFlow p s t ∧
        ((t.port p).flow.reg a).toNat = ((f.reg a).toNat + 2 ^ 32 - 1) % 2 ^ 32 ∧
        (∀ r, r ≠ a.val → (t.port p).flow.reg r = f.reg r) ∧ (t.port p).flow.pc = (if f.reg a = 1 then on else imm.toNat))))

/-- R277: what reaches a context's outfall. `putv` appends the top b[4:0] bits of a[15:0], `putb` the low b[5:0] bits of `a`, most
significant first; `take` answers the next intake value, and 0xFFFF_FFFF when the intake is exhausted; `emit` 0 marks the start of
the launch-timed unit; `stk` writes a keep word; `end` stops the context, its frame complete: an EXPERT port's is what the context has
written, and a Basic port's is its protocol's frame of the intake (R227, R263), launch-timed from its start (log entry 120). -/
def Obligations.FlumeOutfall : Prop :=
  ∀ (p : Fin 256) (d a b : Fin 16) (imm : BitVec 14) (s : State), s.quiet →
    let f := (s.port p).flow
    let x := (f.reg a).toNat
    let y := (f.reg b).toNat
    let put (n v : Nat) (t : State) : Prop := OnlyFlow p s t ∧ outfallLen (t.port p).flow = outfallLen f + n ∧
      outfallBits (t.port p).flow = outfallBits f * 2 ^ n + v ∧ (t.port p).flow.pc = (f.pc + 1) % 16384 ∧
      ∀ r, (t.port p).flow.reg r = f.reg r
    (f.acc < 2 ^ f.accBits → f.accBits < 8 →
      (s.flowLive p (isAB 0x11 a b) = true → 1 ≤ y % 32 → y % 32 ≤ 16 → s.outfallRoom p (y % 32) →
        Answers (exec (.flPutv p a b) s) (put (y % 32) (x % 65536 / 2 ^ (16 - y % 32)))) ∧
      (s.flowLive p (isAB 0x12 a b) = true → 1 ≤ y % 64 → y % 64 ≤ 32 → s.outfallRoom p (y % 64) →
        Answers (exec (.flPutb p a b) s) (put (y % 64) (x % 2 ^ (y % 64))))) ∧
    (s.flowLive p (isD 0x10 d) = true → (f.intake < (s.port p).intakeLen → Answers (exec (.flTake p d) s) (fun t => OnlyFlow p s t ∧
        (t.port p).flow.intake = f.intake + 1 ∧ (t.port p).flow.pc = (f.pc + 1) % 16384 ∧
        (d ≠ 0 → ((t.port p).flow.reg d).toNat = s.intakeAt p f.intake % 2 ^ 32))) ∧
      ((s.port p).intakeLen ≤ f.intake → Answers (exec (.flTake p d) s) (FlumeSet p d 0xFFFFFFFF s))) ∧
    (s.flowLive p (isDAB 0x13 d a b) = true → (s.port p).intakeLen ≤ f.intake → f.moved = 0 →
      Answers (exec (.flMove p d a b) s) (fun t => OnlyFlow p s t ∧ (t.port p).flow.pc = (f.pc + 1) % 16384 ∧
        (d ≠ 0 → (t.port p).flow.reg d = 0) ∧ (t.port p).flow.buf = f.buf)) ∧
    (s.flowLive p (isI 0x14 0) = true → Answers (exec (.flEmit p 0) s) (fun t => OnlyFlow p s t ∧
      (t.port p).flow.mark = some f.buf.length ∧ (t.port p).flow.buf = f.buf ∧ (t.port p).flow.pc = (f.pc + 1) % 16384)) ∧
    (s.flowLive p (isAI 0x17 a imm.toNat) = true → Answers (exec (.flStk p a imm) s) (fun t => OnlyFlow p s t ∧
      mget word0 (t.port p).flow.keep (imm.toNat % 16) = f.reg a ∧
      (∀ k, k ≠ imm.toNat % 16 → mget word0 (t.port p).flow.keep k = mget word0 f.keep k) ∧
      (t.port p).flow.pc = (f.pc + 1) % 16384)) ∧
    (s.flowLive p (isOpWord 0x1D) = true → peLine (s.port p).ent ≠ mFURROW →
      Answers (exec (.flEnd p) s) (fun t => EndsSlice p s t ∧
        (t.port p).flow.running = false ∧ (t.port p).flow.done = true ∧ (t.port p).flow.stuck = 0 ∧
        (peMode (s.port p).ent = mEXPERT → f.accBits = 0 → (t.port p).flow.buf = f.buf) ∧
        (peMode (s.port p).ent ≠ mEXPERT → (t.port p).flow.buf = s.catalogue p ∧ (t.port p).flow.mark = some 0)))

/-- R278: `trap`, an undefined `op`, a reserved `emit` code, a jump outside RAM and ROM and a count out of range fault the port's
frame: its context stops, faulted, and PT_UCODE_FAULT_COUNT counts; every other port, the registers of every other port and all
memory stand. A double-bit error in a flume's program memory faults the ports that read the word. -/
def Obligations.FlumeFaults : Prop :=
  ∀ (p : Fin 256) (a b : Fin 16) (imm : BitVec 14) (w : Word) (s : State),
    let f := (s.port p).flow
    let faults (t : State) : Prop := t.die = { s.die with ports := t.die.ports, flumes := t.die.flumes } ∧
      (∀ q, q ≠ p.val → t.port q = s.port q) ∧
      t.port p = { s.port p with flow := { f with running := false, faulted := true } } ∧
      Counted (R.PT_UCODE_FAULT_COUNT.off p) s t ∧
      (∀ q, q < 256 → q ≠ p.val → t.rg (R.PT_UCODE_FAULT_COUNT.off q) = s.rg (R.PT_UCODE_FAULT_COUNT.off q)) ∧
      t.mem.pads = s.mem.pads ∧ t.mem.pools = s.mem.pools ∧ t.tables = s.tables ∧ t.cores = s.cores
    (s.flowLive p (isI 0x1E imm.toNat) = true → Answers (exec (.flTrap p imm) s) faults) ∧
    (s.flowLive p (isI 0x14 imm.toNat) = true → 2 < imm.toNat → Answers (exec (.flEmit p imm) s) faults) ∧
    (s.flowLive p (isI 0x18 imm.toNat) = true → 0x3000 ≤ imm.toNat → Answers (exec (.flJmp p imm) s) faults) ∧
    (s.flowLive p (isAB 0x11 a b) = true → (f.reg b).toNat % 32 = 0 ∨ 16 < (f.reg b).toNat % 32 →
      Answers (exec (.flPutv p a b) s) faults) ∧
    (s.flowLive p (isAB 0x12 a b) = true → (f.reg b).toNat % 64 = 0 ∨ 32 < (f.reg b).toNat % 64 →
      Answers (exec (.flPutb p a b) s) faults) ∧
    (s.flowLive p (fun v => v == w) = true →
      w.toNat / 2 ^ 26 = 0x0E ∨ w.toNat / 2 ^ 26 = 0x0F ∨ 0x1E < w.toNat / 2 ^ 26 ∨
        ((w.toNat / 2 ^ 26 = 0x01 ∨ w.toNat / 2 ^ 26 = 0x02) ∧ w.toNat / 2 ^ 16 % 64 ≠ 0) →
      Answers (exec (.flUndefinedOp p w) s) faults) ∧
    (s.portFlume p = p.val / 32 → peMode (s.port p).ent ≠ mREST → f.running = true → ∀ (fl : Fin 9) (ports : BitVec 32),
      fl.val = p.val / 32 → ports.getLsbD (p.val % 32) = true → Answers (exec (.flumeFault fl true ports) s) (fun t =>
        (t.port p).flow = { f with running := false, faulted := true } ∧ Counted (R.FL_FAULT_COUNT.off fl) s t))

/-! ### The machine as a whole -/

/-- With a command at the front of the queue a step is that command's meaning on the state with the queue's rest (the block's
form of a step; log entry 1). -/
def Obligations.StepRunsFront : Prop :=
  ∀ (c : Instr) (rest : List Instr) (s : State), s.pending = c :: rest → step s = exec c { s with pending := rest }

/-- The model's choice (log entry 1): with no command waiting a step passes one 2 ns cycle of the TIME clock (R20). Nothing but
the TIME unit and Tender time changes; while PD_NET is off, its four bases stand; until its crystal runs, Tender time stands. -/
def Obligations.IdleStepTicks : Prop :=
  ∀ s : State, s.pending = [] → Answers (step s) (fun t => t = { s with time := t.time } ∧ t.time.cycles = s.time.cycles + 1 ∧
    t.time.clock = s.time.clock ∧ t.time.tally = s.time.tally ∧ t.time.gates = s.time.gates ∧
    (s.domOn .net = false → t.time.ptp = s.time.ptp ∧ t.time.tcode = s.time.tcode ∧ t.time.loc = s.time.loc ∧
      t.time.drv = s.time.drv) ∧
    (s.time.tendRunning = false → t.time.tendTicks = s.time.tendTicks))

/-- Every command answers a next state in every state: the model refuses none and faults on none. -/
def Obligations.EveryCommandAnswers : Prop :=
  ∀ (c : Instr) (s : State), ∃ t, exec c s = .next t

/-- The state after reset (R552, with the domains of SHOW as R550 leaves them): every output is off, no table holds anything (so
the sACN `tx_enable` is 0), the frame clock runs on
LOCAL, every domain is on, memory is clear, nothing waits; memories and register file are in canonical form. -/
def Obligations.ResetState : Prop :=
  let s := State.reset
  s.fget R.FL_CTRL_output_enable = 0 ∧ s.fget R.RAS_CTRL_raster_enable = 0 ∧ s.fget R.TIM_CTRL_gate_enable = 0 ∧
    s.tables = [] ∧ s.time.clock.onBase = 2 ∧ (∀ d, s.domOn d = true) ∧ s.pending = [] ∧
    s.mem.reservoir = [] ∧ s.mem.cistern = [] ∧ s.mem.pads = [] ∧ s.mem.pools = [] ∧ s.wf = true ∧
    ∀ k, s.core k = {}

/-- Every step keeps the canonical form of the memories and of the register file, whatever the state: keys strictly rise, and no
entry equals what an unlisted one reads as. -/
def Obligations.StepKeepsCanonicalForm : Prop :=
  ∀ s t : State, s.wf = true → step s = .next t → t.wf = true

/-- R483, R484, R493: a step clears no fuse and lowers no anti-rollback counter, and the lifecycle goes to no earlier state. A
device whose l2 is burned is VOID after every step. -/
def Obligations.FusesNeverClear : Prop :=
  ∀ s t : State, step s = .next t → FusesLe s.fuses t.fuses ∧
    (lifeBit s.fuses 2 = true → s.lifecycle = 3 ∧ t.lifecycle = 3) ∧
    (s.lifecycle ≤ 2 → s.lifecycle ≤ t.lifecycle)

/-- A step takes the command at the front, adds none, and takes back nothing that has left the device: commands are served first
in, first out. -/
def Obligations.StepTakesOnlyTheFront : Prop :=
  ∀ s t : State, step s = .next t → t.pending = s.pending.tail ∧ s.out <:+ t.out

/-! ### Registers with an effect of their own -/

/-- The controls of the fabric, the compositor, the colour stage and the Watermaster. A fade queue's tail moves unless more than
1,024 entries would stand (then the write is dropped and counted); the enables land while what they need is in place; the colour
tables' base moves while the stage is off, and unloads them; an acknowledgement joins the ledger and waits for the next staging
deadline; `enum_go` starts the enumeration of a Furrow port. -/
def Obligations.FabricControls : Prop :=
  ∀ (req : Requester) (v : Word) (s : State), s.quiet →
    (∀ q : Fin 64, s.mayWrite req (R.PF_FADEQ_TAIL.off q) →
      let span := (v.toNat % 2048 + 2048 - s.fget R.PF_FADEQ_HEAD_head q) % 2048
      (span ≤ 1024 → Answers (exec (.pfFadeqTailWrite req q v) s) (fun t => OnlyRegs [R.PF_FADEQ_TAIL.off q] s t ∧
        t.fget R.PF_FADEQ_TAIL_tail q = v.toNat % 2048)) ∧
      (1024 < span → s.mayCount R.PF_FADEQ_OVERFLOW_COUNT.off → Answers (exec (.pfFadeqTailWrite req q v) s) (fun t =>
        OnlyRegs [R.PF_FADEQ_OVERFLOW_COUNT.off] s t ∧ Counted R.PF_FADEQ_OVERFLOW_COUNT.off s t))) ∧
    (s.mayWrite req R.PF_CTRL.off → v.getLsbD 0 = false ∨ s.fbit R.PF_CTRL_fadeq_enable = true →
      Answers (exec (.pfCtrlWrite req v) s) (fun t => OnlyRegs [R.PF_CTRL.off] s t ∧
        t.fbit R.PF_CTRL_eval_enable = v.getLsbD 31 ∧ t.fbit R.PF_CTRL_fadeq_enable = v.getLsbD 0)) ∧
    (s.mayWrite req R.CMP_CTRL.off → v.getLsbD 31 = false ∨ s.fbit R.CMP_CTRL_compose_enable = true →
      Answers (exec (.cmpCtrlWrite req v) s) (fun t => OnlyRegs [R.CMP_CTRL.off] s t ∧
        t.fbit R.CMP_CTRL_compose_enable = v.getLsbD 31)) ∧
    (s.mayWrite req R.CLR_CTRL.off → v.getLsbD 31 = false ∨ s.fbit R.CLR_CTRL_colour_enable = true →
      Answers (exec (.clrCtrlWrite req v) s) (fun t => OnlyRegs [R.CLR_CTRL.off] s t ∧
        t.fbit R.CLR_CTRL_colour_enable = v.getLsbD 31 ∧ t.fbit R.CLR_CTRL_dither_hold = v.getLsbD 30)) ∧
    (s.mayWrite req R.CLR_TABLE_BASE.off → s.fbit R.CLR_CTRL_colour_enable = false →
      Answers (exec (.clrTableBaseWrite req v) s) (fun t => t = { s with regs := t.regs, tables := t.tables } ∧
        (∀ e, e ∈ t.tables ↔ e ∈ s.tables ∧ e.1 / 65536 ∉ [0x0A, 0x44, 0x45, 0x46]) ∧
        t.fget R.CLR_TABLE_BASE_base_64k = v.toNat % 2 ^ 18 ∧ t.fget R.CLR_STATUS_profiles_loaded = 0 ∧
        (∀ o, o < 0x60000 ∨ 0x70000 ≤ o → t.rg o = s.rg o))) ∧
    (s.mayWrite req R.WM_CTRL.off → v.getLsbD 31 = false ∨ s.fbit R.WM_CTRL_wm_enable = true →
      Answers (exec (.wmCtrlWrite req v) s) (fun t => OnlyRegs [R.WM_CTRL.off] s t ∧
        (t.rg R.WM_CTRL.off).toNat = v.toNat / 2 ^ 29 * 2 ^ 29)) ∧
    (s.mayWrite req R.WM_LEG_ACK.off → Answers (exec (.wmLegAckWrite req v) s) (fun t =>
      t = { s with tandem := t.tandem, water := { s.water with acks := t.water.acks } } ∧
      t.tandem.ledger = s.tandem.ledger ++ [⟨0x0A, v.toNat % 4096, [2]⟩] ∧ v.toNat % 4096 ∈ t.water.acks ∧
      ∀ g, g ≠ v.toNat % 4096 → (g ∈ t.water.acks ↔ g ∈ s.water.acks))) ∧
    (s.mayWrite req R.FUR_CTRL.off → let p := v.toNat % 256
      peLine (s.port p).ent = mFURROW → Answers (exec (.enumGo req v) s) (fun t =>
        t = { s with regs := t.regs, die := { s.die with ports := t.die.ports } } ∧
        t.fget R.FUR_CTRL_enum_port = p ∧ t.fget R.FUR_PORT_STATUS_enum_busy p = 1 ∧
        (∀ o, o ≠ R.FUR_CTRL.off → o ≠ R.FUR_PORT_STATUS.off p → t.rg o = s.rg o) ∧
        t.port p = { s.port p with enumPhase := 1, identFirst := 0, identCount := 0, top := 0, idents := [] } ∧
        ∀ q, q ≠ p → t.port q = s.port q))

/-- The controls of the MACs, of TIME and of the broadcast queue. A MAC's configuration lands; its wire stays idle while nothing
waits to be sent and its queues stay below the high weir; with `rx_pause` 0 it is not paused (R333). A pop removes the oldest entry of its queue. TIM_CAPTURE latches the four time records at one instant: b is 0
PTP, 1 SHOW, 2 TCODE, 3 LOCAL (R358). Arming a gate for a single pulse that lies ahead schedules it; disarming ends its schedule. -/
def Obligations.NetAndTimeControls : Prop :=
  ∀ (req : Requester) (v : Word) (s : State), s.quiet →
    (∀ m : Fin 4, s.mayWrite req (R.NET_MAC_CFG.off m) → s.live_.netEnds = [] → (s.mac m).txq = [] → s.rxCells m ≤ 8192 →
      s.fbit R.NET_MAC_STATUS_wd_tx m = false → s.fbit R.NET_MAC_STATUS_pausing m = false →
      s.occupancy m < s.fget R.NET_WEIR_high_weir m → s.fbit R.NET_MAC_CFG_enable m = false → Answers (exec (.netMacCfgWrite req m v) s) (fun t =>
        OnlyRegs [R.NET_MAC_CFG.off m, R.NET_MAC_STATUS.off m] s t ∧ (t.rg (R.NET_MAC_CFG.off m)).toNat = v.toNat / 2 ^ 31 * 2 ^ 31 +
          v.toNat / 2 ^ 29 % 4 * 2 ^ 29 + v.toNat / 2 ^ 25 % 16 * 2 ^ 25 ∧
        (v.getLsbD 26 = false → t.fget R.NET_MAC_STATUS_paused m = 0) ∧
        (v.getLsbD 26 = true → t.rg (R.NET_MAC_STATUS.off m) = s.rg (R.NET_MAC_STATUS.off m)))) ∧
    (∀ (m : Fin 4) (e : TsEntry) (l : List TsEntry), s.mayWrite req (R.NET_TSQ_POP.off m) → (s.mac m).tsq = e :: l →
      (s.mac m).tsqGap = 0 → l.length < 256 → Answers (exec (.netTsqPop req m v) s) (fun t =>
        t = { s with regs := t.regs, net := { s.net with macs := t.net.macs } } ∧ t.mac m = { s.mac m with tsq := l } ∧
        t.fget R.NET_TSQ_STATUS_entries m = l.length ∧ (∀ k, k ≠ m.val → t.mac k = s.mac k) ∧
        ∀ o, o ≠ R.NET_TSQ_STATUS.off m → t.rg o = s.rg o)) ∧
    (s.mayWrite req R.TIM_CAPTURE.off → Answers (exec (.timCapture req v) s) (fun t => t = { s with regs := t.regs } ∧
      ∀ b : Fin 4, t.fget R.TIM_CAP_NS_ns b = (s.reading b % (1000000000 * 65536) / 65536).toNat ∧
        (t.fget R.TIM_CAP_SEC_LO b : Int) = s.reading b / (1000000000 * 65536) % 2 ^ 32)) ∧
    (∀ (e : TallyEntry) (l : List TallyEntry), s.mayWrite req R.TIM_TALLY_POP.off → s.time.tally = e :: l →
      s.time.tallyGap = 0 → Answers (exec (.timTallyPop req v) s) (fun t =>
        t = { s with time := { s.time with tally := l } })) ∧
    (∀ g : Fin 8, s.mayWrite req (R.TIM_GATE_CFG.off g) →
      let start : Int := sint (s.fget R.TIM_GATE_START_SEC_LO g + 2 ^ 32 * s.fget R.TIM_GATE_START_SEC_HI g) 64 *
        (1000000000 * 65536) + (s.fget R.TIM_GATE_START_NS g : Int) * 65536
      (getBits v 30 29 = 1 → 8 ≤ s.fget R.TIM_GATE_WIDTH_NS g → s.reading (getBits v 28 27) ≤ start →
        Answers (exec (.gateArm req g v) s) (fun t =>
          t = { s with regs := t.regs, time := { s.time with gates := t.time.gates } } ∧
          t.gate g = { armed := true, next := start, frame := (t.gate g).frame, left := 1, endless := false } ∧
          t.fbit R.TIM_GATE_STATUS_armed g = true ∧ t.fget R.TIM_GATE_STATUS_remaining g = 1 ∧
          ∀ h, h ≠ g.val → t.gate h = s.gate h)) ∧
      Answers (exec (.gateDisarm req g v) s) (fun t =>
        t = { s with regs := t.regs, time := { s.time with gates := t.time.gates } } ∧ t.gate g = {} ∧
        t.fbit R.TIM_GATE_STATUS_armed g = false ∧ t.fget R.TIM_GATE_STATUS_remaining g = 0 ∧ t.fbit R.TIM_GATE_CFG_arm g = false ∧
        ∀ h, h ≠ g.val → t.gate h = s.gate h)) ∧
    (s.mayWrite req R.BSN_BCAST_POP.off → s.basin.bcast.length ≤ 16 → Answers (exec (.bsnBcastPop req v) s) (fun t =>
      t = { s with regs := t.regs, basin := { s.basin with bcast := s.basin.bcast.tail } } ∧
      t.fget R.BSN_BCAST_STATUS_entries = s.basin.bcast.tail.length ∧
      ∀ o, o ≠ R.BSN_BCAST_STATUS.off → t.rg o = s.rg o))

/-- R527, R528: the registers of a Gauge unit whose source is software. GA_RUN sets the run and opens it; GA_DATA takes in the
four bytes of its word, the lowest first, and GA_DATA8 one byte, into the open run, or into one begun at `init`; GA_FINISH ends the
run: the result stands in GA_RESULT, the run is closed, `alive` counts. A unit that is disabled, or in WATCH, takes nothing in. R538: an acknowledgement marks an entry of the Silt trap
seen, or frees it, which clears `full`. -/
def Obligations.GaugeAndSiltRegisters : Prop :=
  ∀ (req : Requester) (g : Fin 16) (v : Word) (s : State), s.quiet →
    let w := s.fget R.GA_CFG_width_m1 g + 1
    let p : CrcP := ⟨w, s.fget R.GA_POLY g % 2 ^ w, s.fget R.GA_INIT g % 2 ^ w, s.fget R.GA_XOROUT g % 2 ^ w,
      s.fbit R.GA_CFG_refin g, s.fbit R.GA_CFG_refout g⟩
    let run := if s.fbit R.GA_STATUS_open g then s.fget R.GA_RUN g % 2 ^ w else p.init
    let l := [R.GA_RUN.off g, R.GA_STATUS.off g]
    (s.fget R.GA_CFG_source g = 1 →
      (s.mayWrite req (R.GA_RUN.off g) → Answers (exec (.gaRunWrite req g v) s) (fun t => OnlyRegs l s t ∧
        t.fget R.GA_RUN g = v.toNat % 2 ^ w ∧ t.fbit R.GA_STATUS_open g = true)) ∧
      (s.fbit R.GA_CFG_enable g = false ∨ s.inWatch = true → s.mayWrite req (R.GA_DATA.off g) →
        Answers (exec (.gaDataWrite req g v) s) (fun t => t = s)) ∧
      (s.fbit R.GA_CFG_enable g = true → s.inWatch = false →
        (s.mayWrite req (R.GA_DATA.off g) → Answers (exec (.gaDataWrite req g v) s) (fun t => OnlyRegs l s t ∧
          t.fget R.GA_RUN g = [v.toNat % 256, v.toNat / 256 % 256, v.toNat / 65536 % 256, v.toNat / 16777216].foldl
            (fun r b => crcFeed p r (BitVec.ofNat 8 b)) run % 2 ^ 32 ∧ t.fbit R.GA_STATUS_open g = true)) ∧
        (s.mayWrite req (R.GA_DATA8.off g) → Answers (exec (.gaData8Write req g v) s) (fun t => OnlyRegs l s t ∧
          t.fget R.GA_RUN g = crcFeed p run (BitVec.ofNat 8 (v.toNat % 256)) % 2 ^ 32 ∧
          t.fbit R.GA_STATUS_open g = true)) ∧
        (s.mayWrite req (R.GA_FINISH.off g) → s.fget R.GA_CFG_compare g = 0 →
          Answers (exec (.gaFinishWrite req g v) s) (fun t =>
            t = { s with regs := t.regs, gauges := t.gauges, free := s.free + 1 } ∧
            t.fget R.GA_RESULT g = crcFinish p run % 2 ^ 32 ∧ t.fbit R.GA_STATUS_open g = false ∧
            t.fget R.GA_STATUS_alive g = (s.fget R.GA_STATUS_alive g + 1) % 256 ∧
            (t.gauge g).done = true ∧ (t.gauge g).missed = 0 ∧ ∀ h, h ≠ g.val → t.gauge h = s.gauge h)))) ∧
    (∀ i : Fin 1024, s.mayWrite req R.SLT_ACK.off → (s.entry i).st ≠ 0 →
      Answers (exec (.sltAckSeen req i) s) (fun t => t = { s with silt := t.silt } ∧
        t.entry i = { s.entry i with seen := true } ∧ (∀ k, k ≠ i.val → t.entry k = s.entry k) ∧
        t.silt.incoming = []) ∧
      Answers (exec (.sltAckRelease req i) s) (fun t => t = { s with silt := t.silt, regs := t.regs } ∧
        t.entry i = {} ∧ (∀ k, k ≠ i.val → t.entry k = s.entry k) ∧ t.fbit R.SLT_STATUS_full = false ∧
        ∀ o, o ≠ R.SLT_STATUS.off → t.rg o = s.rg o))

/-- R9, R11, R13, R40: a write by the host at any offset. One of a whole aligned word of a register that its access codes alone
decide stores those fields: GLB_SCRATCH takes all of it. One of another size or alignment, or to a domain that is off, is
discarded and counted, with its place in GLB_ACCESS_ERR_ADDR. One to an offset that no block's table names is ignored. -/
def Obligations.RegisterWrites : Prop :=
  ∀ (v : Word) (s : State), s.quiet →
    (∀ req, s.mayWrite req R.GLB_SCRATCH.off →
      Answers (exec (.registerWrite req (BitVec.ofNat 24 R.GLB_SCRATCH.off) 4 v) s) (fun t =>
        OnlyRegs [R.GLB_SCRATCH.off] s t ∧ t.rg R.GLB_SCRATCH.off = v)) ∧
    (∀ (off : BitVec 24) (n : Fin 9), s.domOn .sys = true → s.mayCount R.GLB_ACCESS_ERR_COUNT.off →
      n ≠ 4 ∨ off.toNat % 4 ≠ 0 ∨ s.offDomain off.toNat = true →
      Answers (exec (.registerWrite .host off n v) s) (fun t => t = { s with regs := t.regs, heldHi := t.heldHi } ∧
        Counted R.GLB_ACCESS_ERR_COUNT.off s t ∧ t.fget R.GLB_ACCESS_ERR_ADDR_offset = off.toNat ∧
        t.fbit R.GLB_ACCESS_ERR_ADDR_write = true ∧ t.fget R.GLB_ACCESS_ERR_ADDR_requester = 64 ∧
        ∀ o, o ≠ R.GLB_ACCESS_ERR_COUNT.off → o ≠ R.GLB_ACCESS_ERR_ADDR.off → t.rg o = s.rg o)) ∧
    (∀ off : BitVec 24, off.toNat % 4 = 0 → s.offDomain off.toNat = false →
      findReg off.toNat = none ∨ 0x1D0000 ≤ off.toNat →
      Answers (exec (.registerWrite .host off 4 v) s) (fun t => t = s))

/-- R10, R560: the halves of a 64-bit pair. A write of the _HI half is held for its requester and changes nothing; a write of the
_LO half lands with the held _HI, both together; a read of the _LO half answers it and latches the _HI half for the requester,
here of the frame number. -/
def Obligations.PairAccesses : Prop :=
  ∀ (req : Requester) (v : Word) (s : State), s.quiet →
    let lo := R.SLC_OP_ADDR_LO.off
    let hi := R.SLC_OP_ADDR_HI.off
    (s.mayWrite req hi → Answers (exec (.pairHiWrite req (BitVec.ofNat 24 hi) 4 v) s) (fun t =>
      t = { s with heldHi := t.heldHi } ∧ t.hiHeld req hi = some v)) ∧
    (∀ h, s.mayWrite req lo → s.hiHeld req hi = some h →
      Answers (exec (.pairLoWrite req (BitVec.ofNat 24 lo) 4 v) s) (fun t =>
        t = { s with regs := t.regs, heldHi := t.heldHi } ∧ t.rg lo = v ∧ t.rg hi = h ∧ t.hiHeld req hi = none ∧
        ∀ o, o ≠ lo → o ≠ hi → t.rg o = s.rg o)) ∧
    (s.domOn .net = true → Answers (exec (.pairLoRead .host (BitVec.ofNat 24 R.GLB_FRAME_NUMBER_LO.off) 4) s) (fun t =>
      t = { s with latches := t.latches, out := t.out } ∧
      t.out = .readData 64 R.GLB_FRAME_NUMBER_LO.off (s.frame % 2 ^ 32) :: s.out ∧
      t.latch .host R.GLB_FRAME_NUMBER_HI.off = some (BitVec.ofNat 32 (s.frame / 2 ^ 32))))

/-- Reads with an effect, by the host: PM_TENDER_SEC answers Tender time's seconds and latches its ticks (R463); a read of any bytes
of SIP_LEDGER_MAX answers them and clears it (R9, R441); SLC_RANDOM answers a number of the DRBG, a free value of the model (log entry 8), and 0 while the DRBG
is not ready (R499). R567: the management port's three commands; one without the PEC that PM_SMB_CFG asks for is not
acknowledged and does nothing. -/
def Obligations.ReadsAndManagementPort : Prop :=
  ∀ s : State, s.quiet →
    (s.domOn .tend = true → Answers (exec (.pmTenderSecRead .host (BitVec.ofNat 24 R.PM_TENDER_SEC.off) 4) s) (fun t => t = { s with regs := t.regs, out := t.out } ∧
      t.out = .readData 64 R.PM_TENDER_SEC.off (s.time.tendTicks / 32768 % 2 ^ 32) :: s.out ∧
      t.fget R.PM_TENDER_TICKS_ticks = s.time.tendTicks % 32768 ∧
      ∀ o, o ≠ R.PM_TENDER_TICKS.off → t.rg o = s.rg o)) ∧
    (s.domOn .net = true → ∀ k n, k + n ≤ 4 → 0 < n →
      Answers (exec (.sipLedgerMaxRead .host (BitVec.ofNat 24 (R.SIP_LEDGER_MAX.off + k)) (Fin.ofNat 9 n)) s) (fun t =>
        t = { s with regs := t.regs, out := t.out } ∧
        t.out = .readData 64 (R.SIP_LEDGER_MAX.off + k) ((s.rg R.SIP_LEDGER_MAX.off).toNat / 256 ^ k % 256 ^ n) :: s.out ∧
        t.rg R.SIP_LEDGER_MAX.off = 0 ∧ ∀ o, o ≠ R.SIP_LEDGER_MAX.off → t.rg o = s.rg o)) ∧
    (s.domOn .sluice = true →
      (s.fbit R.SLC_STATUS_drbg_ready = true → Answers (exec (.slcRandomRead .host (BitVec.ofNat 24 R.SLC_RANDOM.off) 4) s) (fun t =>
        t = { s with free := s.free + 1, out := t.out } ∧
        ∃ n, n < 2 ^ 32 ∧ t.out = .readData 64 R.SLC_RANDOM.off n :: s.out)) ∧
      (s.fbit R.SLC_STATUS_drbg_ready = false → Answers (exec (.slcRandomRead .host (BitVec.ofNat 24 R.SLC_RANDOM.off) 4) s) (fun t =>
        t = { s with out := .readData 64 R.SLC_RANDOM.off 0 :: s.out }))) ∧
    (∀ (off : BitVec 24) (v : Word) (pec : Bool),
      (s.fbit R.PM_SMB_CFG_smb_pec = true ∧ pec = false →
        Answers (exec (.smbusWriteRegister off v pec) s) (fun t => t = { s with out := .smbus false [] :: s.out }) ∧
        Answers (exec (.smbusSetReadAddress off pec) s) (fun t => t = { s with out := .smbus false [] :: s.out })) ∧
      (s.fbit R.PM_SMB_CFG_smb_pec = false ∨ pec = true →
        (s.mayWrite .smbus R.GLB_SCRATCH.off →
          Answers (exec (.smbusWriteRegister (BitVec.ofNat 24 R.GLB_SCRATCH.off) v pec) s) (fun t =>
            t = { s with regs := t.regs, out := .smbus true [] :: s.out } ∧ t.rg R.GLB_SCRATCH.off = v ∧
            ∀ o, o ≠ R.GLB_SCRATCH.off → t.rg o = s.rg o)) ∧
        Answers (exec (.smbusSetReadAddress off pec) s) (fun t =>
          t = { s with power := { s.power with smbRead := off.toNat }, out := .smbus true [] :: s.out }))) ∧
    (s.power.smbRead = R.GLB_SCRATCH.off → s.domOn .sys = true → s.pmState ≠ 3 →
      Answers (exec .smbusReadRegister s) (fun t => ∃ l : List Byte, l.length = 4 ∧
        leNat l = (s.rg R.GLB_SCRATCH.off).toNat ∧ t = { s with out := .smbus true l :: s.out }))

/-! ### Power, rails and resets (chapters 15, 20) -/

/-- R443, R550: the rails rise one at a time, each after the power-good of the one before; with the last the domains come on.
A power-good that is late drops every enable and domain for a retry, and at the third time in a row leaves the device in DORMANT
with `rail_fault` 1; its wakes are armed, and the hours saved, as by every entry into it. A start with a rail present at P waits for all four to fall, counted. Tender time counts from 0 once its
crystal runs (R359). A training that ends well, while a start runs with PD_RES on, leaves the memory trained; one that fails is
tried once more, and no third time (R457; log entry 38). -/
def Obligations.RailSequence : Prop :=
  ∀ s : State, s.quiet →
    let first (pgs : BitVec 4) (t : State) : Prop :=
      t.power = { s.power with
        enables := s.power.enables ||| 1, pgs := pgs, waitRail := false, retry := false, heatRetry := false, heatRead := false,
        startAt := s.now } ∧ t.out = .railEnable 0 true :: s.out
    (s.power.waitRail = true → s.power.pgs = 0 → Answers (exec .railRestart s) (fun t =>
      t = { s with power := t.power, out := t.out } ∧ first s.power.pgs t)) ∧
    (s.power.retry = true → Answers (exec .railRetry s) (fun t =>
      t = { s with power := t.power, out := t.out } ∧ first s.power.pgs t)) ∧
    (s.power.waitRail = true → s.power.pgs ≠ 0 → s.mayCount R.PM_RAIL_FAIL_COUNT.off → Answers (exec .pmicPgAllLow s) (fun t =>
      t = { s with power := t.power, out := t.out, regs := t.regs } ∧ first 0 t ∧ Counted R.PM_RAIL_FAIL_COUNT.off s t ∧
      ∀ o, o ≠ R.PM_RAIL_FAIL_COUNT.off → t.rg o = s.rg o)) ∧
    (∀ i : Fin 4, s.power.enables.getLsbD i = true → s.power.pgs.getLsbD i = false →
      (i.val < 3 → Answers (exec (.pmicPowerGood i) s) (fun t =>
        t = { s with power := t.power, out := t.out } ∧ t.out = .railEnable (i + 1) true :: s.out ∧
        t.power = { s.power with
          pgs := s.power.pgs ||| BitVec.ofNat 4 (2 ^ i.val), enables := s.power.enables ||| BitVec.ofNat 4 (2 ^ (i.val + 1)) })) ∧
      (i.val = 3 → Answers (exec (.pmicPowerGood i) s) (fun t =>
        t = { s with power := t.power, domains := 0xFFF, time := t.time } ∧
        t.power = { s.power with pgs := s.power.pgs ||| 8, lates := 0 })) ∧
      Answers (exec (.powerGoodLate i) s) (fun t => t.domains = s.domains &&& 1 ∧ t.fuses = s.fuses ∧
        (s.power.lates < 2 → t.power = { s.power with enables := 0, pgs := 0, lates := s.power.lates + 1, retry := true }) ∧
        (2 ≤ s.power.lates →
          t.power = { s.power with
            enables := 0, pgs := 0, lates := 0, start := 0, retry := false, wakeArmed := t.power.wakeArmed, stores := t.power.stores } ∧
          t.pmState = 3 ∧ t.fbit R.PM_STATE_rail_fault = true))) ∧
    (s.time.tendRunning = false → Answers (exec .tend32kRunning s) (fun t => t = { s with time := t.time } ∧
      t.time = { s.time with tendRunning := true, tendTicks := 0, tendSub := 0 })) ∧
    (s.power.start = 2 ∨ s.power.start = 3 → s.domOn .res = true → s.power.trained = false → s.power.heatAt = none →
      (s.power.tries < 2 → (s.power.start = 2 → Answers (exec (.dramTrainingDone true) s) (fun t =>
          t = { s with power := { s.power with trained := true } })) ∧
        Answers (exec (.dramTrainingDone false) s) (fun t =>
          t = { s with power := { s.power with tries := s.power.tries + 1 } })) ∧
      (2 ≤ s.power.tries → ∀ good, Answers (exec (.dramTrainingDone good) s) (fun t => t = s)))

/-- R544, R546, R556: a C reset, from RESET_N, from a power-good that falls or from a brown-out, and a P start. Every enable
drops, every domain but PD_TEND goes off, a start waits for the rails, nothing of a transition is left, and RST_CAUSE shows the
source; fuses and Tender time stand, a save of the hours that waits for its hold-up check goes on waiting (R461, R480), and the
lock-out of R501 is over. A P start waits in the same way, with the hour counters as they were saved. -/
def Obligations.ColdResets : Prop :=
  ∀ s : State,
    let cold (last : Nat) (bit : RF) (t : State) : Prop :=
      t.power = { s.power with
        enables := 0, pgs := 0, start := 1, startAt := s.now, waitRail := true, trained := false, tries := 0, retry := false,
        heatRetry := false, heatAt := none, stopAt := none, flight := none, pendFlight := none, heldReset := none, agreed := [],
        stores := s.power.stores.filter (· = 2), sigFails := 0 } ∧
      t.domains = s.domains &&& 1 ∧ t.fuses = s.fuses ∧ t.extest = false ∧ t.time.tendTicks = s.time.tendTicks ∧
      t.fget R.PM_STATE_state = 0 ∧ t.fget R.PM_STATE_phase = 0 ∧ t.fbit R.PM_STATE_pending_valid = false ∧
      t.fget R.RST_CAUSE_last = last ∧ t.fbit bit = true
    Answers (exec .resetN s) (cold 1 R.RST_CAUSE_pin) ∧
    (∀ i : Fin 4, s.power.enables.getLsbD i = true → s.power.pgs.getLsbD i = true →
      Answers (exec (.pmicPgFall i) s) (cold 2 R.RST_CAUSE_rail)) ∧
    (s.fbit R.PM_CTRL_brownout_reset = true → Answers (exec .brownoutReset s) (cold 3 R.RST_CAUSE_brownout)) ∧
    (∀ pgs : BitVec 4, Answers (exec (.tenderPowerOn pgs) s) (fun t =>
      t.power = { enables := 0, pgs := pgs, start := 1, startAt := s.now, waitRail := true, trained := false, heatRead := false } ∧
      t.domains = s.domains &&& 1 ∧ t.fuses = s.fuses ∧ t.hourMs = [] ∧ t.time.tendTicks = 0 ∧ t.time.tendRunning = false))

/-! ### Host rings (chapter 2) -/

/-- R55, R59: descriptors that wait once they have started. SET_VALUES, LAYER_FRAME, COMMIT and SERVICE_REACH wait in flight for
the input cut of their frame; a COMMIT, and the end of a reach, remember the latest staging number. RX_BUFFER waits for its
bytes, a TX_FRAME with a launch time and an RDM_REQUEST for theirs, with the bytes that they brought. A POST_TASK puts its task
into the pool. Behind the descriptor no hold waits to be counted (R54). A second lateral or cluster is told apart as its
descriptor is fetched (R33): here `busy`. -/
def Obligations.DescriptorsWait : Prop :=
  ∀ (d : Fetched) (rest : List Fetched) (host : HostView) (s : State), s.silt.incoming = [] → holdsCounted rest →
    let ws := d.words
    let f := s.flightOf d 0
    let g := s.flightOf d (s.frameOf d)
    let u := s.withFlight rest f
    let w := s.withFlight rest g
    let k := cKind ws
    let i := cIndex ws
    (s.NextDesc d rest 0x05 → formVOk ws = true → s.onTime d → s.domOn .pix = true →
      Answers (exec .setValues s) (fun t => t = w)) ∧
    (s.NextDesc d rest 0x04 → formLOk ws = true → s.onTime d → s.targetStatus scCanvas (lCanvas ws) = none →
      Answers (exec .layerFrame s) (fun t => t = w)) ∧
    (s.NextDesc d rest 0x03 → commitOk ws = true → s.onTime d → s.inService k i = false → s.domOn (scopeDomain k i) = true →
      w.commitRefusal (w.stageInto (w.taken k i w.stageLatest)).live (w.taken k i w.stageLatest) k i = none →
      Answers (exec .commit s) (fun t => t = w.setFlight { g with upTo := s.stageLatest })) ∧
    (s.NextDesc d rest 0x0D → reachOk ws = true → s.onTime d → s.domOn (scopeDomain k i) = true →
      (cArg ws % 2 = 1 → d.busy = false → Answers (exec .serviceReachBegin s) (fun t => t = w)) ∧
      (cArg ws % 2 = 0 → w.endRefusal { g with upTo := w.stageLatest } (w.stageInto (w.taken k i w.stageLatest)).live
          (w.taken k i w.stageLatest) = none →
        Answers (exec .serviceReachEnd s) (fun t => t = w.setFlight { g with upTo := s.stageLatest }))) ∧
    (s.NextDesc d rest 0x06 → formTOk ws = true → tHandle ws = 0 → s.onTime d → Answers (exec .postTask s) (fun t =>
      t = { w with ditch := t.ditch } ∧
      (∃ n, t.task (lowestFree s.ditch.pool 0) = some { gen := n, kind := 0, family := tFamily ws, source := 0, hint := tHint ws, prio := tPrio ws, args := tArgs ws, host := some s.rings.nextId, hostHandle := 2 ^ 31 + d.ring * 2 ^ 16 + dTag ws, frame := s.frameOf d }) ∧
      ∀ j, j ≠ lowestFree s.ditch.pool 0 → t.task j = s.task j)) ∧
    (s.NextDesc d rest 0x08 → formAOk ws = true → aInst ws < 4 → aClass ws = 6 ∨ aClass ws = 7 →
      256 ≤ aLength ws → s.targetStatus scNet (aInst ws) = none → aScatter ws = false →
      Answers (exec (.rxBuffer host) s) (fun t => t = u.setFlight { f with parts := [(aAddr ws, aLength ws)] })) ∧
    (s.NextDesc d rest 0x09 → formAOk ws = true → aInst ws < 4 → aClass ws < 8 → 60 ≤ txBytes ws →
      txBytes ws ≤ 9212 → aWhen ws ≠ 0 → s.targetStatus scNet (aInst ws) = none → s.operandOk host ws →
      Answers (exec (.txFrame host) s) (fun t =>
        t = u.setFlight { f with got := (s.operandAt host ws).take (txBytes ws) })) ∧
    (s.NextDesc d rest 0x0A → formAOk ws = true → aInst ws < 256 → aClass ws ≤ 2 → aOffset ws = 0 → 260 ≤ aLength ws →
      peLine (s.port (aInst ws)).ent = mDMX → peRdm (s.port (aInst ws)).ent = true →
      s.targetStatus scLateral (aInst ws / 32) = none → s.operandOk host ws → let b := s.operandAt host ws
      leNat (b.take 1) = 0xCC → 24 ≤ leNat ((b.drop 2).take 1) → Answers (exec (.rdmRequest host) s) (fun t =>
        t = u.setFlight { f with got := b.take (leNat ((b.drop 2).take 1) + 2), parts := [(aAddr ws, aLength ws)] }))

/-- R60..R62, R373, R540: the transfers of form A whose operand is one piece of memory, of the Reservoir or the host. WRITE_TABLE
takes in its bytes; READ_TABLE, READ_COUNTERS and TIME_QUERY write the live bytes, the counters in their order and the four time
records; UPDATE_CHUNK stores into its slot in the Reservoir, and INSTALL starts the verification of it. Each stays in flight
until its last byte has moved. -/
def Obligations.TransfersMove : Prop :=
  ∀ (d : Fetched) (rest : List Fetched) (host : HostView) (s : State), s.quiet →
    let ws := d.words
    let f := s.flightOf d 0
    let u := s.withFlight rest f
    let b := s.operandAt host ws
    formAOk ws = true → s.operandOk host ws →
    (s.NextDesc d rest 0x01 → s.tableRefusal true ws = none → u.stagedBytes + aLength ws ≤ stagingSize → s.domOn .res = true →
      Answers (exec (.writeTable host) s) (fun t => t = u.setFlight { f with got := b, applied := true })) ∧
    (s.NextDesc d rest 0x02 → s.tableRefusal false ws = none →
      (let k := (s.scopeOf (aClass ws) (aInst ws)).1
       let i := (s.scopeOf (aClass ws) (aInst ws)).2
       s.targetStatus k (if aInst ws = 8 ∧ k = scLateral ∧ s.inService k i = false then 8 else i) = none) →
      Answers (exec (.readTable host) s) (fun t => t =
        (u.operandPut ws (s.liveBytes (aClass ws) (aInst ws) (aOffset ws) (aLength ws))).setFlight
          { f with count := aLength ws, applied := true })) ∧
    (s.NextDesc d rest 0x0F → 4 * s.counterWords.length ≤ aLength ws →
      Answers (exec (.readCounters host) s) (fun t => t =
        (u.operandPut ws (s.counterWords.flatMap (fun w => leBytes w.toNat 4))).setFlight
          { f with count := s.counterWords.length, applied := true })) ∧
    (s.NextDesc d rest 0x0B → 64 ≤ aLength ws → s.domOn .net = true →
      Answers (exec (.timeQuery host) s) (fun t => t =
        (u.operandPut ws s.timeRecords).setFlight { f with count := 0, applied := true })) ∧
    (s.NextDesc d rest 0x0E → s.chunkRefusal ws = none → let k := ucSlot ws
      let stored (t : State) : Prop :=
        t.mem.reservoir = memWrite s.mem.reservoir (s.slotAddr k + aOffset ws) b ∧
        t.rings = (u.setFlight { f with applied := true, count := b.length }).rings ∧
        t.fget R.UPD_SLOT_STATUS_state k = 1 ∧
        t.fget R.UPD_SLOT_STATUS_bytes k = max (s.fget R.UPD_SLOT_STATUS_bytes k) (if b = [] then 0 else aOffset ws + b.length) % 2 ^ 26 ∧
        ∀ o, o ≠ R.UPD_SLOT_STATUS.off k → o ≠ R.UPD_STATUS.off → t.rg o = s.rg o
      (aClass ws = 0 → Answers (exec (.updateChunkStore host) s) stored) ∧
      (aClass ws = 1 → Answers (exec (.updateChunkVerify host) s) stored) ∧
      (aClass ws = 2 → Answers (exec (.updateChunkInstall host) s) (fun t => stored t ∧ t.live_.inst = some s.rings.nextId ∧
        t.fget R.UPD_STATUS_state = updVerifying ∧ t.fget R.UPD_STATUS_slot = k)))

/-- R59, R65, R66, R71, R107: what is completed at once, or by a later event, on a ring in host memory whose CQ takes entries. NOP
completes OK, an opcode that R59 does not list BAD_OPCODE, or SLUICE_DENIED where the lifecycle or recovery denies it (R486, R522). CANCEL_TASK ends a task that waits and completes OK, the task itself
CANCELLED. A WRITE_TABLE completes when its last byte is staged, with its staging number; a transfer when its last byte has
moved. A queued event is posted once a slot is free, with the count of those dropped before it. Moderation's time-out signals
the CQ (R70), where its `count` is not 0 (R82). -/
def Obligations.CompletionsPosted : Prop :=
  ∀ s : State, s.quiet →
    (∀ (d : Fetched) (rest : List Fetched), s.canPost d.ring → let ws := d.words
      let left (t : State) : Prop := t.rings.inbox = rest ∧
        t.rings.flight = s.rings.flight.filter (fun g => g.id ≠ s.rings.nextId)
      (s.NextDesc d rest 0x00 → tailZero ws 4 = true → Answers (exec .nop s) (fun t =>
        Posts d.ring (completionOf ws stOk 0 s.frame) s t ∧ left t)) ∧
      (s.next = some (d, rest) → 0x0F < dOpcode ws → Answers (exec .unknownOpcode s) (fun t =>
        Posts d.ring (completionOf ws (if s.opDenied (dOpcode ws) then stDenied else stBadOpcode) 0 s.frame) s t ∧ left t)) ∧
      (∀ i v g, s.NextDesc d rest 0x07 → formTOk ws = true → s.byHostHandle (tHandle ws) = some (i, v) → v.st = .waiting →
        v.host = some g.id → s.flight g.id = some g → s.canPost g.ring → g.basin = false → g.shadow = false →
        Answers (exec .cancelTask s) (fun t => t = { s with ditch := t.ditch, rings := t.rings, pcie := t.pcie, out := t.out } ∧
          t.task i = none ∧ (∀ j, j ≠ i → t.task j = s.task j) ∧ t.rings.inbox = rest ∧
          t.rings.flight = s.rings.flight.filter (fun x => x.id ≠ g.id && x.id ≠ s.rings.nextId) ∧
          Emission.hostWrite (s.cqBase g.ring + 32 * ((s.ring g.ring).cqTail % 2 ^ s.cqLog g.ring))
            (cplBytes { completionOf g.words stCancelled 0 g.target with late := g.late } (phaseOf (s.ring g.ring).cqTail (s.cqLog g.ring))
              (s.fget R.HOST_RING_STATUS_sq_head g.ring)) ∈ t.out))) ∧
    (∀ (id : Nat) (f : Flight), s.flight id = some f → s.canPost f.ring → f.basin = false → f.shadow = false → f.applied = true →
      (dOpcode f.words = 0x01 → Answers (exec (.writeTableStaged id) s) (fun t =>
        t = { s with rings := t.rings, pcie := t.pcie, out := t.out, tandem := t.tandem } ∧
        Posts f.ring (completionOf f.words stOk (f.got.length + s.rings.stageNext * 2 ^ 32) s.frame)
          { s with tandem := t.tandem } t ∧
        t.rings.staged = s.rings.staged ++ [⟨aClass f.words, aInst f.words, aOffset f.words, f.got, s.rings.stageNext⟩] ∧
        t.rings.stageNext = (s.rings.stageNext + 1) % 2 ^ 32 ∧ t.rings.flight = s.rings.flight.filter (fun g => g.id ≠ f.id))) ∧
      (dOpcode f.words = 0x02 ∨ dOpcode f.words = 0x0B ∨ dOpcode f.words = 0x0F ∨ (dOpcode f.words = 0x0E ∧ aClass f.words = 0) →
        Answers (exec (.transferDone id) s) (fun t => Posts f.ring (completionOf f.words stOk f.count s.frame) s t ∧
          t.rings.flight = s.rings.flight.filter (fun g => g.id ≠ f.id)))) ∧
    (∀ b c : Nat, s.rings.events = [(b, c)] → s.fbit R.HOST_CTRL_event_enable = true → s.eventSlot = true →
      let n := s.fget R.HOST_CTRL_event_ring
      s.canPost n → Answers (exec .eventPost s) (fun t => Posts n { opcode := 0xFF, status := 0, gap := decide (s.rings.eventsDropped ≠ 0), cookie := s.rings.eventsDropped, frame := s.frame, result := b * 2 ^ 48 + c % 2 ^ 48 } s t ∧
        t.rings.events = [] ∧ t.rings.eventsDropped = 0)) ∧
    (∀ n : Fin 32, let us := s.fget R.HOST_CQ_MOD_time_us n
      let v := s.fget R.HOST_RING_CFG_vector n
      us ≠ 0 → s.fget R.HOST_CQ_MOD_count n ≠ 0 → 0 < (s.ring n).unsignalled → us * 1000 ≤ nsSince s (s.ring n).unsignalledSince → s.ringPlace n = 0 →
      s.msixReady = true → s.pcie.msixMasked = false → s.pcie.mask.getLsbD v = false →
      Answers (exec (.cqModTimeout n) s) (fun t => t = { s with rings := t.rings, out := t.out } ∧
        t.ring n = { s.ring n with unsignalled := 0 } ∧ (∀ m, m ≠ n.val → t.ring m = s.ring m) ∧
        t.out = s.msixMsg v :: s.out))

/-- R48..R54, R74, R76: the rings' controls. A nudge counts. A ring that does not run starts at index 0 when it is enabled with
aligned bases, unless `resume` is 1; disabling one that runs and holds no receive buffer drains it, and a drained ring with
nothing reserved is DISABLED. A poll, here with nothing new to fetch, takes in each running ring's doorbells from host memory; a
ring's stop by a full CQ ends as a slot is free (R53). Loss of the link, and a Function Level Reset, halt every live ring in host
memory; the reset is a D reset of PD_HOST, with its configuration space, its sensor and its two calibrated units (R43, R553). -/
def Obligations.RingControls : Prop :=
  ∀ (req : Requester) (v : Word) (s : State), s.quiet →
    (s.mayWrite req R.HOST_NUDGE.off → s.mayCount R.HOST_NUDGE_COUNT.off → Answers (exec (.hostNudge req v) s) (fun t =>
      t = { s with regs := t.regs, rings := { s.rings with nudgePending := true } } ∧ Counted R.HOST_NUDGE_COUNT.off s t ∧
      ∀ o, o ≠ R.HOST_NUDGE_COUNT.off → t.rg o = s.rg o)) ∧
    (∀ n : Fin 32, s.mayWrite req (R.HOST_RING_CFG.off n) →
      let cfg := BitVec.ofNat 32 (v.toNat % 2 ^ 31 / 2 ^ 10 * 2 ^ 10 + 2 ^ 31)
      let u := s.setRg (R.HOST_RING_CFG.off n) cfg
      (s.fbit R.HOST_RING_CFG_enable n = false → s.ringState n ≠ rDraining → u.ringAligned n = true → u.ringPlaced n = true →
        Answers (exec (.ringEnable req n v) s) (fun t => t = { s with regs := t.regs, rings := t.rings } ∧
          t.rg (R.HOST_RING_CFG.off n) = cfg ∧ t.ringState n = rRunning ∧ t.fget R.HOST_RING_STATUS_error n = 0 ∧
          (u.fbit R.HOST_RING_CFG_resume n = false → t.fget R.HOST_RING_STATUS_sq_head n = 0 ∧ t.ring n = {}) ∧
          (u.fbit R.HOST_RING_CFG_resume n = true →
            t.fget R.HOST_RING_STATUS_sq_head n = s.fget R.HOST_RING_STATUS_sq_head n ∧ t.ring n = s.ring n) ∧
          ∀ o, o ≠ R.HOST_RING_CFG.off n → o ≠ R.HOST_RING_STATUS.off n → t.rg o = s.rg o)) ∧
      (s.fbit R.HOST_RING_CFG_enable n = true → s.ringState n = rRunning →
        v.toNat % 2 ^ 31 / 2 ^ 10 = (s.rg (R.HOST_RING_CFG.off n)).toNat % 2 ^ 31 / 2 ^ 10 →
        (∀ f, f ∈ s.rings.flight → f.ring = n.val → dOpcode f.words ≠ 0x08) →
        Answers (exec (.ringDisable req n v) s) (fun t => t = { s with regs := t.regs } ∧
          t.fbit R.HOST_RING_CFG_enable n = false ∧ t.ringState n = rDraining ∧
          ∀ o, o ≠ R.HOST_RING_CFG.off n → o ≠ R.HOST_RING_STATUS.off n → t.rg o = s.rg o))) ∧
    (∀ n : Fin 32, s.ringState n = rDraining → s.reserved n = 0 → Answers (exec (.ringDrained n) s) (fun t =>
      t = { s with regs := t.regs } ∧ t.ringState n = rDisabled ∧
      ∀ o, o ≠ R.HOST_RING_STATUS.off n → t.rg o = s.rg o)) ∧
    (∀ host : HostView, s.engineOn = true → host.fails = [] → s.hostReach = true → s.rings.inbox = [] →
      let base := s.pair R.HOST_DOORBELL_BASE_LO
      let tail (n : Nat) := leNat (viewRead host (base + 4 * n) 4)
      let head (n : Nat) := leNat (viewRead host (base + 128 + 4 * n) 4)
      (∀ n, n < 32 → s.ringLive n = true → s.ringPlace n = 0 ∧ tail n = s.fget R.HOST_RING_STATUS_sq_head n ∧
        tail n < 2 ^ (s.sqLog n + 1) ∧ head n = (s.ring n).cqTail ∧ head n < 2 ^ (s.cqLog n + 1)) →
      Answers (exec (.hostPoll host) s) (fun t =>
        t = { s with pcie := { s.pcie with fails := [] }, rings := t.rings } ∧ t.rings.inbox = [] ∧
        t.rings.flight = s.rings.flight ∧ t.rings.pollStart = s.now ∧ t.rings.nudgePending = false ∧
        ∀ n, n < 32 → t.ring n = if s.ringLive n = true then
          { s.ring n with
            sqTail := tail n, cqHead := head n, stalled := (s.ring n).stalled && decide (2 ^ s.cqLog n ≤ s.reserved n) }
          else { s.ring n with stalled := (s.ring n).stalled && decide (s.cqFree n = 0) })) ∧
    (let halts (t : State) : Prop :=
        (∀ n, n < 32 → (s.ringLive n = true ∧ s.ringPlace n = 0 → t.ringState n = rHalted ∧
            t.fget R.HOST_RING_STATUS_error n = 5 ∧ t.fbit R.HOST_RING_CFG_enable n = false) ∧
          (¬(s.ringLive n = true ∧ s.ringPlace n = 0) → t.rg (R.HOST_RING_STATUS.off n) = s.rg (R.HOST_RING_STATUS.off n) ∧
            t.rg (R.HOST_RING_CFG.off n) = s.rg (R.HOST_RING_CFG.off n))) ∧
        (∀ o, o ≠ R.TH_SENSOR.off 6 → o ≠ R.CAL_STATUS.off → (∀ n, n < 32 → o ≠ R.HOST_RING_CFG.off n ∧ o ≠ R.HOST_RING_STATUS.off n) → t.rg o = s.rg o);
      Answers (exec .pcieLinkLoss s) (fun t => t = { s with regs := t.regs, pcie := { s.pcie with linkUp := false } } ∧ halts t ∧
        t.rg (R.TH_SENSOR.off 6) = s.rg (R.TH_SENSOR.off 6) ∧ t.rg R.CAL_STATUS.off = s.rg R.CAL_STATUS.off) ∧
      Answers (exec .functionLevelReset s) (fun t => halts t ∧ t.rg (R.TH_SENSOR.off 6) = regReset (R.TH_SENSOR.off 6) ∧
        (∀ u, t.calUnit u = if u = 256 ∨ u = 257 then {} else s.calUnit u) ∧
        t.fget R.CAL_STATUS_due = (calUnits.filter (fun u => t.unitDue u)).length ∧
        (∀ e, e ∈ t.thermal.far ↔ e ∈ s.thermal.far ∧ e.1 ≠ 6) ∧
        t = { s with
          regs := t.regs, thermal := { s.thermal with units := t.thermal.units, far := t.thermal.far }
          pcie := { s.pcie with
            msixOn := false, msixMasked := false, mask := 0xFFFFFFFFFFFFFFFF, pending := 0, entries := [], bars := [] } }))

/-- R43, R44, R565: messages. With MSI-X on, the link up and PD_HOST on, a vector that the MSI-X table masks is held pending, and
another sends its message; GLB_IRQ_TEST does so for the vector that it names and changes nothing else, and nothing at all where no
message can be sent. When delivery resumes, behind any accesses of the host's, every source that stands in GLB_IRQ_STATUS sends its
vector; while PD_HOST is off nothing resumes. R3, R551: a configuration read of word 0 answers the Device and the
Vendor ID, and before SHOW is reached Configuration Request Retry Status. R41, R396: a write through BAR2 of any length reaches the
Cistern's bytes below 96 MiB, outside the buffers of the outputs that are enabled, and one that falls inside them is counted; a read
behind it answers the bytes, 0 beyond 96 MiB. While PD_CISTERN is off both are counted and the read answers ones (R40). That word 0
of the configuration space is Device and Vendor ID, and that a masked vector is held pending, is PCIe's (log entry 77). -/
def Obligations.MessagesAndBar2 : Prop :=
  ∀ s : State, s.quiet →
    (∀ req (v : Word), s.mayWrite req R.GLB_IRQ_TEST.off → let k := v.toNat % 64
      let entry (w : Nat) : Nat := (mget word0 s.pcie.entries (4 * k + w)).toNat
      (s.msixReady = true → s.pcie.mask.getLsbD k = false → s.pcie.msixMasked = false →
        exec (.glbIrqTestWrite req v) s = .next { s with out := .msix k (entry 0 + 2 ^ 32 * entry 1) (entry 2) :: s.out }) ∧
      (s.msixReady = true → s.pcie.mask.getLsbD k = true ∨ s.pcie.msixMasked = true →
        exec (.glbIrqTestWrite req v) s = .next { s with pcie := { s.pcie with pending := s.pcie.pending ||| (1 <<< k) } }) ∧
      (s.msixReady = false → exec (.glbIrqTestWrite req v) s = .next s)) ∧
    (∀ (mask : BitVec 64) (l : List PcieAccess),
      (s.domOn .host = true → s.configReady = true → ∃ t, exec (.msixDeliveryResume mask l) s = .next t ∧
        t = { s with pcie := t.pcie, out := t.out } ∧ t.pcie.linkUp = true ∧ t.pcie.msixOn = true ∧ t.pcie.mask = mask ∧
        s.out <:+ t.out ∧ ∀ i, i < 14 → (s.rg R.GLB_IRQ_STATUS_source.off).getLsbD i = true →
          (mask.getLsbD (32 + i) = false → t.pcie.msixMasked = false → t.msixMsg (32 + i) ∈ t.out) ∧
          (mask.getLsbD (32 + i) = true ∨ t.pcie.msixMasked = true → t.pcie.pending.getLsbD (32 + i) = true)) ∧
      (s.domOn .host = true → s.configReady = false → ∃ t, exec (.msixDeliveryResume mask l) s = .next t ∧
        t = { s with pcie := { s.pcie with linkUp := true }, out := t.out } ∧ s.out <:+ t.out) ∧
      (s.domOn .host = false →
        exec (.msixDeliveryResume mask l) s = .next { s with pcie := { s.pcie with linkUp := false } })) ∧
    (∀ mask : BitVec 64, s.domOn .host = true →
      (s.configReady = true → Answers (exec (.msixDeliveryResume mask []) s) (fun t =>
        t.pcie = { s.pcie with linkUp := true, msixOn := true, mask := mask, pending := t.pcie.pending })) ∧
      (s.power.start = 0 ∨ s.power.start = 5 → Answers (exec (.msixDeliveryResume mask [.configRead 0]) s) (fun t =>
        Emission.pcieAnswer (some 0x82561F3C) ∈ t.out)) ∧
      (s.power.start ≠ 0 → s.power.start ≠ 5 → ∀ w, Answers (exec (.msixDeliveryResume mask [.configRead w]) s) (fun t =>
        t = { s with pcie := { s.pcie with linkUp := true }, out := .pcieAnswer none :: s.out }))) ∧
    (∀ (off : BitVec 27) (b : List Byte) (n : Fin 65),
      (s.domOn .cistern = true → s.mayCount R.RAS_BAR2_DROP_COUNT.off → ∃ t, exec (.bar2Write off b n) s = .next t ∧
        let hit := ∃ k, k < b.length ∧ off.toNat + k < cisternSize ∧ s.inBuffer (off.toNat + k) = true
        t = { s with mem := { s.mem with cistern := t.mem.cistern }, regs := t.regs, out := t.out } ∧
        t.out = (if n.val = 0 then s.out else .bar2Data ((List.range n.val).map (fun k =>
          if off.toNat + k < cisternSize then memByte t.mem.cistern (off.toNat + k) else 0)) :: s.out) ∧
        (∀ k (h : k < b.length), off.toNat + k < cisternSize → s.inBuffer (off.toNat + k) = false →
          memByte t.mem.cistern (off.toNat + k) = b[k]) ∧
        (∀ a, a < off.toNat ∨ off.toNat + b.length ≤ a ∨ cisternSize ≤ a ∨ s.inBuffer a = true →
          memByte t.mem.cistern a = memByte s.mem.cistern a) ∧
        (¬ hit → t.regs = s.regs) ∧ (hit → Counted R.RAS_BAR2_DROP_COUNT.off s t) ∧
        ∀ o, o ≠ R.RAS_BAR2_DROP_COUNT.off → t.rg o = s.rg o) ∧
      (s.domOn .cistern = false → s.domOn .sys = true → (s.rg R.GLB_ACCESS_ERR_COUNT.off).toNat + 2 < 0xFFFFFFFF →
        ∃ t, exec (.bar2Write off b n) s = .next t ∧ t = { s with regs := t.regs, out := t.out } ∧
          (t.rg R.GLB_ACCESS_ERR_COUNT.off).toNat =
            (s.rg R.GLB_ACCESS_ERR_COUNT.off).toNat + (if b = [] then 0 else 1) + (if n.val = 0 then 0 else 1) ∧
          t.out = if n.val = 0 then s.out else .bar2Data (List.replicate n.val 0xFF) :: s.out))

/-- R450, R457, R458: the wakes. In WATCH or DORMANT, with no early-brown-out warning and no stop that holds them, a source that was armed
as the state was entered, `wakeArmed` being PM_WAKE_CFG as it stood then, shows its cause and begins the way out: from WATCH every
domain comes on, from DORMANT the first rail rises. The PTP alarm wakes from WATCH alone. A match of
the device's address on the management bus is acknowledged as well. An alarm that is due disarms; awake it shows its cause and
raises the Tender's interrupt. -/
def Obligations.Wakes : Prop :=
  ∀ s : State, s.quiet →
    let woken (bit : RF) (v : Nat) (l : List Emission) (t : State) : Prop :=
      t.fget bit = v ∧ t.fget R.PM_STATE_target = 0 ∧ t.pmState = s.pmState ∧ t.fbit R.PM_STATE_rail_fault = false ∧
      (s.pmState = 2 → t = { s with
        regs := t.regs, time := t.time, out := l ++ s.out, domains := 0xFFF,
        power := { s.power with start := 2, startAt := s.now, trained := false, tries := 0, lates := 0, agreed := [] } }) ∧
      (s.pmState = 3 → t = { s with
        regs := t.regs, out := .railEnable 0 true :: (l ++ s.out),
        power := { s.power with
          start := 4, startAt := s.now, trained := false, tries := 0, lates := 0, agreed := [],
          waitRail := false, retry := false, heatRetry := false, heatRead := false, enables := s.power.enables ||| 1 } });
    let due := s.fget R.PM_ALARM_SEC * 32768 + s.fget R.PM_ALARM_TICKS_ticks ≤ s.time.tendTicks
    let ptpDue := s.domOn .net = true ∧ (s.time.ptp.st = 2 ∨ s.time.ptp.st = 3) ∧
      ((s.fget R.PM_PTP_ALARM_LO + 2 ^ 32 * s.fget R.PM_PTP_ALARM_HI_sec_hi : Nat) : Int) ≤ secOf s.time.ptp.t
    let armed (f : RF) : Prop := getBits s.power.wakeArmed f.hi f.lo = 1
    (2 ≤ s.pmState → s.pmPhase = 0 → s.power.start = 0 → s.ebb = false → s.power.stopHold = false →
      (armed R.PM_WAKE_CFG_wake_n → Answers (exec .wakeN s) (woken R.PM_WAKE_CAUSE_wake_n 1 [])) ∧
      (∀ i : Fin 4, s.power.wakeArmed.getLsbD i = true → Answers (exec (.tallyWake i) s)
        (woken R.PM_WAKE_CAUSE_tally_wake (s.fget R.PM_WAKE_CAUSE_tally_wake ||| 2 ^ i.val) [])) ∧
      (armed R.PM_WAKE_CFG_smbus →
        Answers (exec .smbusAddressMatch s) (woken R.PM_WAKE_CAUSE_smbus 1 [.smbus true []])) ∧
      (s.fbit R.PM_ALARM_TICKS_armed = true → armed R.PM_WAKE_CFG_alarm → due →
        Answers (exec .tenderAlarm s) (fun t => woken R.PM_WAKE_CAUSE_alarm 1 [] t ∧ t.fbit R.PM_ALARM_TICKS_armed = false)) ∧
      (s.pmState = 2 → s.fbit R.PM_PTP_ALARM_HI_armed = true → armed R.PM_WAKE_CFG_ptp_alarm → ptpDue →
        Answers (exec .ptpAlarm s) (fun t => woken R.PM_WAKE_CAUSE_ptp_alarm 1 [] t ∧ t.fbit R.PM_PTP_ALARM_HI_armed = false))) ∧
    (s.asleep = false → s.domOn .sys = true →
      (s.fbit R.PM_ALARM_TICKS_armed = true → due → Answers (exec .tenderAlarm s) (fun t =>
        t.fbit R.PM_WAKE_CAUSE_alarm = true ∧ t.fbit R.PM_ALARM_TICKS_armed = false ∧
        t.fget R.GLB_IRQ_STATUS_source = s.fget R.GLB_IRQ_STATUS_source ||| 4 ∧ t.power = s.power)) ∧
      (s.fbit R.PM_PTP_ALARM_HI_armed = true → ptpDue → Answers (exec .ptpAlarm s) (fun t =>
        t.fbit R.PM_WAKE_CAUSE_ptp_alarm = true ∧ t.fbit R.PM_PTP_ALARM_HI_armed = false ∧
        t.fget R.GLB_IRQ_STATUS_source = s.fget R.GLB_IRQ_STATUS_source ||| 4 ∧ t.power = s.power)))

/-- R452, R454..R456: the sleep handshake. A request for a sleep state in SHOW begins prepare at the first block asked; one during
a transition takes the pending slot. An agreement asks the next block, and the last one begins commit, which switches PD_HOST off
on the way to WATCH or DORMANT. A refusal, a limit that passes and an abort end prepare: the state is kept, and the block, the
target and the kind are logged and counted. During an orderly stop every POWER_REQUEST completes SUPERSEDED (R472). At the end of commit the target is reached, with its domains and rails off. The last
clause is IDLE's exit. Where nothing else is said the request came from PM_REQUEST, so that no descriptor waits for it. -/
def Obligations.SleepHandshake : Prop :=
  ∀ s : State, s.quiet →
    let st := s.pmState
    let goal := s.fget R.PM_STATE_target
    let b := s.fget R.PM_STATE_block
    let begun (goal : Nat) (t : State) : Prop :=
      t.pmPhase = 1 ∧ t.fget R.PM_STATE_target = goal ∧ t.fget R.PM_STATE_block = (if goal = 1 then 2 else 1) ∧
      t.pmState = 0 ∧ ∀ o, o ≠ R.PM_STATE.off → t.rg o = s.rg o;
    let held (goal : Nat) (t : State) : Prop := t.fbit R.PM_STATE_pending_valid = true ∧ t.fget R.PM_STATE_pending = goal ∧
      ∀ o, o ≠ R.PM_STATE.off → t.rg o = s.rg o;
    let kept (block kind : Nat) (t : State) : Prop :=
      t.pmPhase = 0 ∧ t.pmState = st ∧ t.fget R.PM_STATE_target = st ∧ t.fget R.PM_STATE_block = 0 ∧
      t.fbit R.PM_STATE_pending_valid = false ∧ t.power = { s.power with agreed := [], flight := none, pendFlight := none } ∧
      Counted R.PM_ABORT_COUNT.off s t ∧ t.fget R.PM_REFUSE_LOG_0_block = block ∧ t.fget R.PM_REFUSE_LOG_0_target = goal ∧
      t.fget R.PM_REFUSE_LOG_0_kind = kind;
    (∀ req (v : Word), s.mayWrite req R.PM_REQUEST.off → s.power.stopAt = none → let goal := v.toNat / 2 ^ 28 % 4
      (s.pmPhase = 0 → s.power.start = 0 → st = 0 → goal ≠ 0 → Answers (exec (.pmRequest req v) s) (fun t =>
        t = { s with regs := t.regs, power := { s.power with flight := none, agreed := [] } } ∧ begun goal t)) ∧
      (s.pmPhase ≠ 0 ∨ s.power.start ≠ 0 → s.power.pendFlight = none → Answers (exec (.pmRequest req v) s) (fun t =>
        t = { s with regs := t.regs } ∧ held goal t))) ∧
    (∀ d rest, s.NextDesc d rest 0x0C → powerOk d.words = true → s.power.stopAt = none →
      let goal := cArg d.words
      let w := s.withFlight rest (s.flightOf d 0)
      (s.pmPhase = 0 → s.power.start = 0 → st = 0 → goal ≠ 0 → goal ≠ 4 → Answers (exec .powerRequest s) (fun t =>
        t = { w with regs := t.regs, power := { s.power with flight := some s.rings.nextId, agreed := [] } } ∧ begun goal t)) ∧
      (s.pmPhase ≠ 0 ∨ s.power.start ≠ 0 → s.power.pendFlight = none → goal ≠ 4 → Answers (exec .powerRequest s) (fun t =>
        t = { w with regs := t.regs, power := { s.power with pendFlight := some s.rings.nextId } } ∧ held goal t)) ∧
      (s.pmPhase = 1 → goal = 4 → s.power.flight = none → s.power.pendFlight = none → s.mayCount R.PM_ABORT_COUNT.off →
        d.ring < 32 → (∀ f, f ∈ s.rings.flight → f.ring < 32) →
        Answers (exec .powerRequestAbort s) (kept 0 kAborted))) ∧
    (∀ d rest, s.NextDesc d rest 0x0C → powerOk d.words = true → s.power.stopAt ≠ none → s.canPost d.ring →
      s.flight s.rings.nextId = none →
      let superseded (t : State) : Prop := Posts d.ring (completionOf d.words stSuperseded 0 s.frame) s t ∧ t.rings.inbox = rest ∧
        t.rings.flight = s.rings.flight.filter (fun g => g.id ≠ s.rings.nextId)
      (cArg d.words ≠ 4 → Answers (exec .powerRequest s) superseded) ∧
      (cArg d.words = 4 → Answers (exec .powerRequestAbort s) superseded)) ∧
    (s.pmPhase = 1 → s.power.flight = none → s.mayCount R.PM_ABORT_COUNT.off →
      (∀ req v, s.mayWrite req R.PM_REQUEST.off → s.power.stopAt = none → s.power.pendFlight = none →
        Answers (exec (.pmRequestAbort req v) s) (kept 0 kAborted)) ∧
      (s.fbit R.PM_STATE_pending_valid = false → s.power.pendFlight = none →
        Answers (exec .prepareBlockRefuse s) (kept b kRefused) ∧ Answers (exec .prepareBlockTimeout s) (kept b kTimedOut))) ∧
    (s.pmPhase = 1 → s.mayAgree b = true → (b = 7 → s.zonesOpen = []) →
      (∀ n, (prepareList st goal).find? (fun k => decide (b < k)) = some n → Answers (exec .prepareBlockAgree s) (fun t =>
        t = { s with regs := t.regs, water := t.water, net := t.net, power := { s.power with agreed := s.power.agreed ++ [b] } } ∧
        t.pmPhase = 1 ∧ t.fget R.PM_STATE_block = n ∧ ∀ o, o ≠ R.PM_STATE.off → t.rg o = s.rg o)) ∧
      ((prepareList st goal).find? (fun k => decide (b < k)) = none →
        (goal = 1 → Answers (exec .prepareBlockAgree s) (fun t =>
          t = { s with regs := t.regs, power := { s.power with agreed := s.power.agreed ++ [b] } } ∧
          t.pmPhase = 2 ∧ t.fget R.PM_STATE_block = 0 ∧ ∀ o, o ≠ R.PM_STATE.off → t.rg o = s.rg o)) ∧
        (2 ≤ goal → s.power.flight = none → Answers (exec .prepareBlockAgree s) (fun t => t.pmPhase = 2 ∧ t.fget R.PM_STATE_block = 0 ∧
          t.power = { s.power with agreed := s.power.agreed ++ [b] } ∧ t.domains = s.domains &&& 0xBFF)))) ∧
    (s.pmPhase = 2 → s.power.heldReset = none → s.fbit R.PM_STATE_pending_valid = false → s.power.flight = none →
      (∀ i v, s.task i = some v → v.st ≠ .dispatched) → Answers (exec .sleepStateReached s) (fun t =>
        t.pmState = goal ∧ t.pmPhase = 0 ∧ t.power.agreed = [] ∧ t.power.stopAt = none ∧ t.fuses = s.fuses ∧
        (goal = 1 → t.domains = s.domains ∧ t.power.enables = s.power.enables) ∧
        (goal = 2 → t.domains = s.domains &&& 0xE07 ∧ t.power.enables = s.power.enables) ∧
        (goal = 3 → t.domains = s.domains &&& 1 ∧ t.power.enables = 0))) ∧
    (s.power.start = 5 → s.power.heldReset = none → s.fbit R.PM_STATE_pending_valid = false → s.power.flight = none →
      Answers (exec .showReached s) (fun t => t.pmState = 0 ∧ t.pmPhase = 0 ∧ t.fget R.PM_STATE_target = 0 ∧
        t.power = { s.power with start := 0, agreed := [] } ∧ t.domains = s.domains))

/-- R460, R461, R547..R549: the early brown-out warning and the resets that a register asks for. The warning is counted and shown; an
erase of a sector that runs and is no longer covered waits, and so do pages that are being programmed. When it ends, wakes that it held act, with `ebb_held` as their cause. The
hold-up check is made again with the voltage read, and a save of the hours that it covers is stored. In SHOW or IDLE a warm reset
and a basin-local one start at once; without the key, or for a domain that may not be reset now, the write is counted as an
access error. A domain's reset leaves its registers at their reset values. -/
def Obligations.EbbAndResets : Prop :=
  ∀ s : State, s.quiet →
    (s.fbit R.PM_CTRL_ebb_enable = true → s.ebb = false → s.mayCount R.PM_EBB_COUNT.off → Answers (exec .ebbEntry s) (fun t =>
      t.ebb = true ∧ Counted R.PM_EBB_COUNT.off s t ∧
      (s.live_.pages = false →
        (s.live_.running = false ∨ 3 ∈ s.power.stores ∨ s.covered 2 = true → t.live_ = s.live_ ∧ t.power = s.power) ∧
        (s.live_.running = true → 3 ∉ s.power.stores → s.covered 2 = false → t.live_.running = false ∧ 1 ∈ t.power.stores)) ∧
      (s.live_.pages = true → t.live_ = { s.live_ with pages := false } ∧ 3 ∈ t.power.stores))) ∧
    (s.ebb = true → s.power.stores = [] →
      (s.power.wakeWaits = false → Answers (exec .ebbExit s) (fun t => t = { s with regs := t.regs } ∧ t.ebb = false ∧
        ∀ o, o ≠ R.PM_STATE.off → t.rg o = s.rg o)) ∧
      (s.power.wakeWaits = true → s.power.stopHold = false → 2 ≤ s.pmState → s.pmPhase = 0 → s.power.start = 0 →
        Answers (exec .ebbExit s) (fun t => t.ebb = false ∧ t.fbit R.PM_STATE_wake_held = false ∧
          t.fbit R.PM_WAKE_CAUSE_ebb_held = true ∧ t.fget R.PM_STATE_target = 0 ∧ t.power.wakeWaits = false ∧
          (s.pmState = 2 → t.power.start = 2 ∧ t.domains = 0xFFF) ∧
          (s.pmState = 3 → t.power.start = 4 ∧ t.out = .railEnable 0 true :: s.out)))) ∧
    (∀ v : BitVec 11, let u := { s with power := { s.power with vhold := v.toNat } }
      (s.ebb = true ∨ s.power.stores = [] → Answers (exec (.holdupRetry v) s) (fun t => t = u)) ∧
      (s.ebb = false → s.power.stores = [2] → u.covered 2 = true → u.covered 0 = true → Answers (exec (.holdupRetry v) s) (fun t =>
        t.power = { u.power with stores := [] } ∧ t.store = { s.store with hours := s.hourWords, repairs := s.live_.repaired } ∧
        t.fbit R.PM_HOLDUP_STATUS_last_pass = true))) ∧
    (∀ req (v : Word), s.mayWrite req R.RST_CTRL.off →
      (v.toNat % 65536 = 0xA5C3 → s.pmPhase = 0 → s.power.start = 0 → s.pmState < 2 →
        Answers (exec (.warmReset req v) s) (fun t => t.domains = s.domains ∧ t.fuses = s.fuses ∧
          t.fget R.RST_CAUSE_last = 4 ∧ t.fbit R.RST_CAUSE_warm = true ∧ t.time.tendTicks = s.time.tendTicks ∧
          t.power = { s.power with
            start := 3, startAt := s.now, flight := none, pendFlight := none, heldReset := none, agreed := [], trained := false,
            tries := 0, heatAt := none, stopAt := none, heatRetry := false, retry := false, stores := s.power.stores.filter (· = 2) }) ∧
        Answers (exec (.basinLocalReset req v) s) (fun t =>
          t = { s with basin := { s.basin with resetAt := some (s.cutAfter resetLead) } })) ∧
      (v.toNat % 65536 ≠ 0xA5C3 → s.domOn .sys = true → s.mayCount R.GLB_ACCESS_ERR_COUNT.off →
        let refused (t : State) : Prop := t = { s with regs := t.regs } ∧ Counted R.GLB_ACCESS_ERR_COUNT.off s t ∧
          t.fget R.GLB_ACCESS_ERR_ADDR_offset = R.RST_CTRL.off;
        Answers (exec (.warmReset req v) s) refused ∧ Answers (exec (.basinLocalReset req v) s) refused)) ∧
    (∀ req (v : Word) (d : Domain), s.mayWrite req R.RST_DOMAIN.off → v.toNat % 4096 = 2 ^ domNum d →
      (s.mayReset d = true → (∀ i w, s.task i = some w → w.st ≠ .dispatched) → Answers (exec (.rstDomainWrite req v) s) (fun t =>
        t.power = s.power ∧ t.domains = s.domains ∧ t.fuses = s.fuses ∧ t.time.tendTicks = s.time.tendTicks ∧ ∀ o, regDomain o = some d → t.rg o = regReset o)) ∧
      (s.mayReset d = false → s.domOn .sys = true → s.mayCount R.GLB_ACCESS_ERR_COUNT.off →
        Answers (exec (.rstDomainWrite req v) s) (fun t => t = { s with regs := t.regs } ∧
          Counted R.GLB_ACCESS_ERR_COUNT.off s t ∧ t.fget R.GLB_ACCESS_ERR_ADDR_offset = R.RST_DOMAIN.off)))

/-! ### Temperature, calibration and hours (chapter 16) -/

/-- R464, R465, R468, R469, R474: what the sensors' commands do. A sample shows the sixteen readings, with those of unpowered domains
not valid; one that stops a start or a sleep's commit takes sensor 6 with PD_HOST. In SHOW or IDLE, and in a start or an exit, a
throttle update moves the level by one step towards what the hottest sensor asks, and a rise
check notes each sensor whose reading exceeds the one ten checks ago by more than `rise`; with `rise_action` 1 a newly rising one
raises the level by 2. A self-heat that has lasted 600 s drops the rails; its retry raises the first. The stop of R471 is left out
of the hypotheses here by `stopHold`, `stopDark` and `stopAt`. -/
def Obligations.ThermalRules : Prop :=
  ∀ s : State, s.quiet →
    let level (n : Nat) (t : State) : Prop := t.fget R.TH_STATUS_level = n ∧ t = s.fset R.TH_STATUS_level n
    let T (k : Nat) : Int := sint (s.fget R.TH_SENSOR_temp k) 16
    let limit : Int := sint (s.fget R.TH_WARN_THROTTLE_throttle) 16
    let lv := s.fget R.TH_STATUS_level
    let reading (k : Nat) : Option Int := if s.senIn k = true then some (T k) else none
    let rises (k : Nat) : Prop := s.fbit R.TH_SELECT_sel_rise = true ∧ ∃ a b, reading k = some a ∧
      (s.thermal.past.getD 9 []).getD k none = some b ∧ sint (s.fget R.TH_RISE_rise) 16 < a - b
    (∀ (temps : List (BitVec 16)) (v : BitVec 11), s.domOn .sys = true →
      Answers (exec (.sensorSample temps v) s) (fun t => t.fuses = s.fuses ∧ t.power.vhold = v.toNat ∧
        (s.power.stopHold = false → s.stopDark = false → t.domains = s.domains) ∧
        ∀ k, k < 16 → k ≠ 6 ∨ s.stopDark = false → t.fbit R.TH_SENSOR_valid k = s.domOn (sensorDomain k) ∧
          t.fget R.TH_SENSOR_temp k = if s.domOn (sensorDomain k) then (temps.getD k 0).toNat else 0)) ∧
    (∀ k, s.thermalOn = true → s.power.stopAt = none → s.hottest = some k →
      (s.fbit R.TH_SELECT_sel_throttle = true → limit ≤ T k → Answers (exec .throttleUpdate s) (level (min 7 (lv + 1)))) ∧
      (T k < limit - 300 → Answers (exec .throttleUpdate s) (level (lv - 1))) ∧
      (limit - 300 ≤ T k → T k < limit → Answers (exec .throttleUpdate s) (fun t => t = s))) ∧
    (s.thermalOn = true →
      Answers (exec .riseCheck s) (fun t => t.thermal.past = ((List.range 16).map reading :: s.thermal.past).take 10 ∧
        ∀ k, k < 16 → (k ∈ t.thermal.rising ↔ rises k)) ∧
      ∀ k, k < 16 → s.fget R.TH_CTRL_rise_action = 1 → rises k → k ∉ s.thermal.rising →
        (∀ j, j < 16 → j ≠ k → rises j → j ∈ s.thermal.rising) →
        Answers (exec .riseCheck s) (fun t => t.fget R.TH_STATUS_level = min 7 (lv + 2) ∧ Counted R.TH_RISE_COUNT.off s t)) ∧
    (∀ t0, s.power.heatAt = some t0 → 600000000000 ≤ nsSince s t0 → Answers (exec .selfHeatTimeout s) (fun t =>
      t.power = { s.power with enables := 0, pgs := 0, heatAt := none, heatRetry := true } ∧ t.domains = s.domains &&& 1 ∧
      t.fbit R.PM_STATE_rail_fault = true ∧ t.fuses = s.fuses)) ∧
    (s.power.heatRetry = true → Answers (exec .selfHeatRetry s) (fun t =>
      t = { s with out := .railEnable 0 true :: s.out, power := { s.power with
        enables := s.power.enables ||| 1, waitRail := false, retry := false, heatRetry := false, heatRead := false, startAt := s.now } }))

/-- R475..R480: calibration and the saving of the hours. With `cal_enable`, and CAL not having agreed to a sleep, a run of a due port
inside a natural gap (R477) chooses the slices of R476, or marks the port where they conduct less than 0.9 of 1/`ohms`, and keeps its sensor's reading; a run of
a transmitter is counted in its unit, and one of the sensors is counted alone. Every run is counted and dated. Rotation makes the
next unit due; a unit due for 1 s without a gap is counted once as missed. A save of the hours is stored where the hold-up check
covers it, waits where it does not, and is held during an early brown-out warning. -/
def Obligations.CalibrationAndHours : Prop :=
  ∀ s : State, s.quiet →
    let dated (t : State) : Prop := Counted R.CAL_COUNT.off s t ∧ (t.fget R.CAL_LAST_SEC : Int) = secOf s.time.ptp.t % 2 ^ 32 ∧
      t.fget R.CAL_LAST_NS_ns = nsOf s.time.ptp.t
    (s.domOn .sys = true → s.inWatch = false → s.fbit R.CAL_CTRL_cal_enable = true → s.power.agreed.contains 0x0D = false →
      (∀ g, s.mayCount R.CAL_COUNT.off → Answers (exec (.calibrationRun 258 g) s) (fun t => dated t ∧
        OnlyRegs [R.CAL_COUNT.off, R.CAL_LAST_SEC.off, R.CAL_LAST_NS.off] s t)) ∧
      (s.time.tendRunning = true → s.pmState < pmWatch → s.mayCount R.CAL_COUNT.off → Answers (exec .tendRcCalibration s) (fun t =>
        dated t ∧ OnlyRegs [R.CAL_COUNT.off, R.CAL_LAST_SEC.off, R.CAL_LAST_NS.off] s t)) ∧
      (s.time.tendRunning = false ∨ pmWatch ≤ s.pmState → Answers (exec .tendRcCalibration s) (fun t => t = s)) ∧
      (∀ (u : Fin 259) (g : List Nat), u.val < 256 → s.fbit R.CAL_PORT_STATUS_due u = true → s.domOn (unitDomain u) = true →
        s.portGap u = true →
        let ohms := s.fget R.CAL_PORT_CFG_ohms u
        let c := chooseSlices ohms 0 0 (g.take 16)
        Answers (exec (.calibrationRun u g) s) (fun t => dated t ∧
          t.fbit R.CAL_PORT_STATUS_due u = false ∧ t.fbit R.CAL_PORT_STATUS_baseline u = false ∧
          t.fbit R.CAL_PORT_STATUS_slice_fault u = decide (c.2 * ohms * 10 < 9000000) ∧
          t.fget R.CAL_PORT_STATUS_slices u = (if c.2 * ohms * 10 < 9000000 then s.fget R.CAL_PORT_STATUS_slices u else c.1 % 65536) ∧
          (t.calUnit u).ref = some (sint (s.fget R.TH_SENSOR_temp (unitSensor u)) 16) ∧
          ∀ w, w ≠ u.val → t.calUnit w = s.calUnit w)) ∧
      (∀ (u : Fin 259) (g : List Nat), u.val = 256 ∨ u.val = 257 → (s.calUnit u).due = true → s.domOn .host = true →
        Answers (exec (.calibrationRun u g) s) (fun t => dated t ∧ (t.calUnit u).count = (s.calUnit u).count + 1 ∧
          (t.calUnit u).due = false ∧ ∀ w, w ≠ u.val → t.calUnit w = s.calUnit w)) ∧
      (s.fbit R.CAL_CTRL_rotate = true → s.thermal.turn < 258 → Answers (exec .calRotate s) (fun t =>
        t.thermal.turn = (s.thermal.turn + 1) % 258 ∧ (s.domOn (unitDomain s.thermal.turn) = true → t.unitDue s.thermal.turn = true) ∧
        (s.domOn (unitDomain s.thermal.turn) = false → t = { s with thermal := t.thermal })))) ∧
    (∀ u : Fin 258, s.inWatch = false → s.unitDue u = true → (s.calUnit u).missed = false → 1000000000 ≤ nsSince s (s.calUnit u).since →
      Answers (exec (.calMiss u) s) (fun t => (t.calUnit u).missed = true ∧ Counted R.CAL_MISS_COUNT.off s t ∧
        ∀ w, w ≠ u.val → t.calUnit w = s.calUnit w)) ∧
    (s.ebb = false → s.covered 2 = true → s.covered 0 = true → Answers (exec .hourSave s) (fun t =>
      t.store = { s.store with hours := s.hourWords, repairs := s.live_.repaired } ∧ t.fbit R.PM_HOLDUP_STATUS_last_pass = true ∧
      t.power = { s.power with stores := s.power.stores.filter (· ≠ 2) })) ∧
    (s.power.stores.contains 2 = false →
      (s.ebb = true → Answers (exec .hourSave s) (fun t => t.power = { s.power with stores := s.power.stores ++ [2] } ∧
        t.store = s.store ∧ Counted R.PM_STORE_DEFER_COUNT.off s t)) ∧
      (s.ebb = false → s.covered 2 = false ∨ s.covered 0 = false → Answers (exec .hourSave s) (fun t =>
        t.power = { s.power with stores := s.power.stores ++ [2] } ∧ t.store = s.store ∧
        t.fbit R.PM_HOLDUP_STATUS_last_pass = false ∧ Counted R.PM_HOLDUP_FAIL_COUNT.off s t)))

/-! ### The Sluice, live service and the Silt trap (chapters 17 to 19) -/

/-- R483..R486, R501..R508: the Sluice's operations on the lifecycle, its challenge and its debug level. An operation that may run sets
`busy` and holds its result, 0 for OK, until it completes. CLAIM of a device whose owner hash is unburned burns the operand's
48 bytes and OWNED; RETURN with a good signature on the challenge burns RETURNED and erases the show key, and a bad one is
counted; VOID needs none in FACTORY. ADVANCE_ROLLBACK raises its counter. These burns need no warning in force and a store that
the hold-up check covers. A completed operation shows its result and raises vector 35. R499, R506: the DRBG's failure and return, and
the reset that a violation causes. -/
def Obligations.SluiceLifecycle : Prop :=
  ∀ (req : Requester) (host : HostView) (arg : BitVec 16) (s : State), s.quiet →
    let began (op r : Nat) (t : State) : Prop := t.fbit R.SLC_STATUS_busy = true ∧ t.sluice.op = op ∧ t.sluice.result = r
    let erased (t : State) : Prop := t.sluice.showKey = none ∧ t.sluice.siph = none ∧ t.fbit R.SLC_STATUS_show_key_loaded = false
    let refuted (op : Nat) (t : State) : Prop := began op 2 t ∧ t.fuses = s.fuses ∧ t.sluice.showKey = s.sluice.showKey ∧
      t.power.sigFails = s.power.sigFails + 1 ∧ Counted R.SLC_AUTH_FAIL_COUNT.off s t
    let signed (tag : String) (b : List Byte) : Bool :=
      s.ownerKey (b.take 96) && ecdsaGood (b.take 96) ((b.drop 96).take 96) (slcMessage tag s.challengeBytes);
    (s.mayWrite req R.SLC_OP.off → s.fbit R.SLC_STATUS_busy = false → s.lifecycle ≠ 3 →
      (s.ebb = false → s.covered 3 = true →
        (∀ b, s.lifecycle = 0 → s.slcBlock host = some b → s.fuses.ownerHash = 0 →
          Answers (exec (.slcClaim req host arg) s) (fun t => began 0x01 0 t ∧ t.fuses.ownerHash.toNat = leNat (b.take 48) ∧
            t.lifecycle = 1 ∧ t.debugLevel = 0 ∧ t.fuses.rollback = s.fuses.rollback)) ∧
        (∀ b, s.lifecycle = 1 → s.challengeValid = true → s.slcBlock host = some b →
          Answers (exec (.slcReturn req host arg) s) (fun t => t.sluice.challenge = false ∧
            if signed "HNKRETRN" b then
              began 0x02 0 t ∧ erased t ∧ t.lifecycle = 2 ∧ t.debugLevel = 0 ∧
                t.power.sigFails = (if s.power.sigFails < 8 then 0 else s.power.sigFails)
            else refuted 0x02 t)) ∧
        (s.lifecycle = 0 → Answers (exec (.slcVoid req host arg) s) (fun t => began 0x03 0 t ∧ erased t ∧ t.lifecycle = 3 ∧
          t.debugLevel = 0)) ∧
        (s.lifecycle ≤ 1 → s.debugLevel = 0 → let k := arg.toNat / 256 % 4; let v := arg.toNat % 128
          (v ≤ 64 → k ≠ 0 ∨ v ≤ s.power.svn → Answers (exec (.advanceRollback req host arg) s) (fun t => began 0x50 0 t ∧
            t.rollback k = max (s.rollback k) v ∧ (∀ j, j ≠ k → t.rollback j = s.rollback j) ∧
            t.fuses = { s.fuses with rollback := t.fuses.rollback })) ∧
          (64 < v → Answers (exec (.advanceRollback req host arg) s) (fun t => began 0x50 4 t ∧ t.fuses = s.fuses)))) ∧
      (s.power.sigFails < 8 → s.fbit R.SLC_STATUS_drbg_ready = true → Answers (exec (.challenge req host arg) s) (fun t =>
        began 0x10 0 t ∧ t.challengeValid = true ∧ t.sluice.challengeAt = s.now ∧ t.fuses = s.fuses ∧
        ∀ o, o ≠ R.SLC_STATUS.off → (∀ i, i < 12 → o ≠ R.SLC_CHALLENGE.off i) → t.rg o = s.rg o)) ∧
      (8 ≤ s.power.sigFails → Answers (exec (.challenge req host arg) s) (fun t => began 0x10 0x0B t ∧
        t.sluice.challenge = s.sluice.challenge)) ∧
      (arg = 1 → s.lifecycle = 0 → Answers (exec (.debugOpen req host arg) s) (fun t => began 0x11 0 t ∧ t.debugLevel = 1)) ∧
      (arg = 1 → s.lifecycle = 1 → s.outputsOff = false → Answers (exec (.debugOpen req host arg) s) (fun t =>
        began 0x11 6 t ∧ t.debugLevel = s.debugLevel ∧ t.sluice.showKey = s.sluice.showKey)) ∧
      (∀ b, arg = 1 → s.lifecycle = 1 → s.outputsOff = true → s.challengeValid = true → s.slcBlock host = some b →
        s.tandem.link = false → Answers (exec (.debugOpen req host arg) s) (fun t => t.sluice.challenge = false ∧
          if signed "HNKDBGOW" b then
            began 0x11 0 t ∧ erased t ∧ t.debugLevel = 1 ∧
              ∀ r ∈ s.showRegions, ∀ a, r.1 ≤ a → a < r.1 + r.2 → memByte t.mem.reservoir a = 0
          else refuted 0x11 t ∧ t.debugLevel = s.debugLevel)) ∧
      Answers (exec (.debugClose req host arg) s) (fun t => began 0x12 0 t ∧ t.debugLevel = 0 ∧ t.fuses = s.fuses)) ∧
    (s.sluice.challenge = true →
      (60000000000 ≤ nsSince s s.sluice.challengeAt → Answers (exec .challengeExpiry s) (fun t =>
        t = { s with sluice := { s.sluice with challenge := false } })) ∧
      (nsSince s s.sluice.challengeAt < 60000000000 → Answers (exec .challengeExpiry s) (fun t => t = s))) ∧
    (s.fbit R.SLC_STATUS_busy = true → s.sluice.burns = [] → Answers (exec .slcOpComplete s) (fun t =>
      t.fbit R.SLC_STATUS_busy = false ∧ t.fget R.SLC_STATUS_result = s.sluice.result % 256 ∧ t.fuses = s.fuses ∧
      t.sluice = { s.sluice with op := 0, burns := [] } ∧ (s.domOn .sys = true → s.fbit R.HOST_CTRL_event_enable = false →
        t.fget R.GLB_IRQ_STATUS_source = s.fget R.GLB_IRQ_STATUS_source ||| 8))) ∧
    (∀ cause : Fin 3, Answers (exec (.sluiceViolation cause) s) (fun t =>
      t.fget R.SLC_LAST_VIOLATION_cause = cause.val + 1 ∧ Counted R.SLC_VIOLATION_COUNT.off s t ∧ t.fget R.RST_CAUSE_last = 5 ∧
      t.fbit R.RST_CAUSE_sluice = true ∧ t.sluice = {} ∧ t.fuses = s.fuses ∧ t.domains = s.domains &&& 1 ∧
      t.power = { s.power with
        sResets := s.power.sResets + 1, enables := 0, pgs := 0, start := 1, startAt := s.now, waitRail := true, trained := false,
        tries := 0, retry := false, heatRetry := false, heatAt := none, stopAt := none, flight := none, pendFlight := none,
        heldReset := none, agreed := [], stores := s.power.stores.filter (· = 2) })) ∧
    (s.domOn .sluice = true →
      (s.fbit R.SLC_STATUS_drbg_ready = true → Answers (exec .entropyFailure s) (fun t =>
        t.fbit R.SLC_STATUS_drbg_ready = false ∧ t.sluice = s.sluice ∧ t.fuses = s.fuses)) ∧
      (s.fbit R.SLC_STATUS_drbg_ready = false →
        Answers (exec (.entropyRetest true) s) (fun t => t = { s with regs := t.regs } ∧
          t.fbit R.SLC_STATUS_drbg_ready = true ∧ ∀ o, o ≠ R.SLC_STATUS.off → t.rg o = s.rg o) ∧
        Answers (exec (.entropyRetest false) s) (fun t => t = s)))

/-- R488, R490, R494..R497: keys, packages and attestation, with the operand block in the Reservoir, where its operation may read
and write it. KEY_INSTALL wraps the show key into a blob, under a fresh nonce, for a good owner signature, and refuses a bad one;
KEY_LOAD unwraps one, or answers TAG_BAD; KEY_ERASE forgets it. ENCRYPT seals a text into a package at its destination; DECRYPT opens a
package of one chunk there, or answers TAG_BAD and counts. ATTEST answers a signature of the identity key. The fields of the header and
of the message that the spec does not place are the model's free values (log entry 34). -/
def Obligations.SluiceKeys : Prop :=
  ∀ (req : Requester) (host : HostView) (arg : BitVec 16) (b : List Byte) (s : State), s.quiet → s.mayWrite req R.SLC_OP.off →
    s.fbit R.SLC_STATUS_busy = false →
    let began (op r : Nat) (t : State) : Prop := t.fbit R.SLC_STATUS_busy = true ∧ t.sluice.op = op ∧ t.sluice.result = r
    let put (a : Nat) (l : List Byte) (t : State) : Prop := memRead t.mem.reservoir a l.length = l ∧
      ∀ x, x < a ∨ a + l.length ≤ x → memByte t.mem.reservoir x = memByte s.mem.reservoir x
    (s.lifecycle ≠ 3 → Answers (exec (.keyErase req host arg) s) (fun t => began 0x22 0 t ∧ t.sluice.showKey = none ∧
      t.sluice.siph = none ∧ t.fbit R.SLC_STATUS_show_key_loaded = false ∧ t.fuses = s.fuses)) ∧
    (s.lifecycle ≠ 3 → s.slcSpace = 1 → s.slcBlock host = some b →
      (s.fbit R.SLC_STATUS_drbg_ready = true → Answers (exec (.attest req host arg) s) (fun t => began 0x40 0 t ∧
        ∃ k, 1 ≤ k ∧ k < p384N ∧ put (s.slcAddr + 64) (ecdsaSign Config.identityD k (slcMessage "HNKATTST"
          (s.measure ++ [Config.attestByte s.lifecycle s.debugLevel] ++ b.take 48))) t)) ∧
      (s.fbit R.SLC_STATUS_drbg_ready = false → Answers (exec (.attest req host arg) s) (fun t => began 0x40 7 t ∧
        t.mem = s.mem))) ∧
    (s.lifecycle = 1 → s.debugLevel = 0 → s.slcSpace = 1 → s.slcBlock host = some b →
      (let key := (b.drop 32).take 96;
       let good := s.ownerKey key && ecdsaGood key ((b.drop 128).take 96) (slcMessage "HNKSHOWK" (sha384 (b.take 32)));
        s.fbit R.SLC_STATUS_drbg_ready = true → s.mayCount R.SLC_AUTH_FAIL_COUNT.off →
          Answers (exec (.keyInstall req host arg) s) (fun t => t.sluice.showKey = s.sluice.showKey ∧
            if good then began 0x20 0 t ∧ ∃ nonce : List Byte, nonce.length = 12 ∧
              let w := gcmSeal s.wrapKey nonce [] (b.take 32)
              put (s.slcAddr + 256) (nonce ++ w.1 ++ w.2 ++ [0, 0, 0, 0]) t
            else began 0x20 2 t ∧ t.mem = s.mem ∧ Counted R.SLC_AUTH_FAIL_COUNT.off s t ∧
              t.power.sigFails = s.power.sigFails + 1)) ∧
      Answers (exec (.keyLoad req host arg) s) (fun t =>
        match gcmOpen s.wrapKey (b.take 12) [] ((b.drop 12).take 32) ((b.drop 44).take 16) with
        | some k => began 0x21 0 t ∧ t.sluice.showKey = some k ∧ t.fbit R.SLC_STATUS_show_key_loaded = true
        | none => began 0x21 3 t ∧ t.sluice.showKey = s.sluice.showKey) ∧
      (let src := leNat (b.take 8);
       let dst := leNat ((b.drop 8).take 8);
       let id := leNat ((b.drop 20).take 4);
       let ver := leNat ((b.drop 24).take 4);
       let len := leNat ((b.drop 28).take 4);
        ((b.drop 16).headD 0).toNat = 1 → ((b.drop 17).headD 0).toNat = 1 → ∀ k, s.sluice.showKey = some k →
        let key := flashKey k id ver;
        (let hdr := packageHeader id ver len;
         let out := hdr ++ sealChunks key hdr id ver 0 (chunksOf 65536 (cdiv len 65536) (memRead s.mem.reservoir src len));
          s.resOk src len = true → s.resOk dst out.length = true →
          Answers (exec (.encrypt req host arg) s) (fun t => began 0x30 0 t ∧ put dst out t)) ∧
        (0 < len → len ≤ 65536 → inRegions s.showRegions 9 dst len = true → s.resOk src (80 + len) = true →
          let text := gcmOpen key (chunkNonce id ver 0) (memRead s.mem.reservoir src 64) (memRead s.mem.reservoir (src + 64) len)
            (memRead s.mem.reservoir (src + 64 + len) 16)
          s.mayCount R.SLC_DECRYPT_FAIL_COUNT.off → s.resOk dst len = true → Answers (exec (.decrypt req host arg) s) (fun t =>
            match text with
            | some l => began 0x31 0 t ∧ put dst l t
            | none => began 0x31 3 t ∧ t.mem = s.mem ∧ Counted R.SLC_DECRYPT_FAIL_COUNT.off s t)))) ∧
    (s.lifecycle = 1 → s.debugLevel = 0 → s.sluice.showKey = none →
      Answers (exec (.encrypt req host arg) s) (fun t => began 0x30 5 t ∧ t.mem = s.mem) ∧
      Answers (exec (.decrypt req host arg) s) (fun t => began 0x31 5 t ∧ t.mem = s.mem))

/-- R500, R504: the TAP's instructions, while it is powered. BYPASS shifts out 0 and IDCODE the device's code, a free value of the model
(log entry 8); EXTEST takes the balls, and any other instruction gives them back. At OWNER and VENDOR the debug group halts a
core, reads and writes its registers, and reaches BAR0 and the memories; at CLOSED it acts as BYPASS and is counted, and so does a
test access at any level but VENDOR. At VENDOR the spec does not say what test access acts on: the model changes nothing, and shifts
out a free value (log entry 30). -/
def Obligations.TapInstructions : Prop :=
  ∀ s : State, s.quiet →
    let shifted (v : Nat) (t : State) : Prop := t = { s with extest := false, out := .jtag v :: s.out }
    (s.pmState = 3 → ∀ op, Answers (exec (.jtagInstruction op) s) (fun t => t = s)) ∧
    (s.pmState ≠ 3 →
      Answers (exec (.jtagInstruction .bypass) s) (shifted 0) ∧
      Answers (exec (.jtagInstruction .idcode) s) (shifted Config.idcode.toNat) ∧
      Answers (exec (.jtagInstruction .extest) s) (fun t => t = { s with extest := true }) ∧
      (s.debugLevel = 0 → s.mayCount R.SLC_AUTH_FAIL_COUNT.off → ∀ op, op ≠ .bypass → op ≠ .idcode → op ≠ .extest →
        op ≠ .samplePreload →
        Answers (exec (.jtagInstruction op) s) (fun t => t = { s with extest := false, regs := t.regs, out := .jtag 0 :: s.out } ∧
          Counted R.SLC_AUTH_FAIL_COUNT.off s t ∧ ∀ o, o ≠ R.SLC_AUTH_FAIL_COUNT.off → t.rg o = s.rg o)) ∧
      (s.debugLevel ≠ 0 →
        (∀ (n : Fin 64) (r : Fin 32) (v : Word), s.domOn (coreDomain n) = true →
          Answers (exec (.jtagInstruction (.coreHalt n)) s) (fun t => t = { s with extest := false, cores := t.cores } ∧
            t.core n = { s.core n with halt := 1 } ∧ ∀ j, j ≠ n.val → t.core j = s.core j) ∧
          Answers (exec (.jtagInstruction (.coreRead n ⟨r, by omega⟩)) s) (shifted ((s.core n).xr r).toNat) ∧
          Answers (exec (.jtagInstruction (.coreWrite n ⟨r, by omega⟩ v)) s) (fun t =>
            t = { s with extest := false, cores := t.cores } ∧ (r ≠ 0 → (t.core n).xr r = v) ∧
            (∀ k, k ≠ r.val → (t.core n).xr k = (s.core n).xr k) ∧ ∀ j, j ≠ n.val → t.core j = s.core j)) ∧
        (∀ v : Word, s.domOn .sys = true →
          Answers (exec (.jtagInstruction (.barRead (BitVec.ofNat 24 R.GLB_SCRATCH.off))) s) (shifted (s.rg R.GLB_SCRATCH.off).toNat) ∧
          Answers (exec (.jtagInstruction (.barWrite (BitVec.ofNat 24 R.GLB_SCRATCH.off) v)) s) (fun t =>
            t = { s with extest := false, regs := t.regs } ∧ t.rg R.GLB_SCRATCH.off = v ∧
            ∀ o, o ≠ R.GLB_SCRATCH.off → t.rg o = s.rg o)) ∧
        (∀ (a : BitVec 34) (v : Word), s.resAwake = true →
          Answers (exec (.jtagInstruction (.memRead false a)) s) (shifted (memNat s.mem.reservoir a.toNat 4)) ∧
          Answers (exec (.jtagInstruction (.memWrite false a v)) s) (fun t =>
            t = { s with extest := false, mem := { s.mem with reservoir := t.mem.reservoir } } ∧
            memNat t.mem.reservoir a.toNat 4 = v.toNat ∧
            ∀ x, x < a.toNat ∨ a.toNat + 4 ≤ x → memByte t.mem.reservoir x = memByte s.mem.reservoir x))) ∧
      (s.debugLevel = 2 → Answers (exec (.jtagInstruction .testAccess) s) (fun t =>
        t = { s with extest := false, free := s.free + 1, out := t.out } ∧ ∃ n, t.out = .jtag n :: s.out)) ∧
      (s.debugLevel ≠ 2 → s.mayCount R.SLC_AUTH_FAIL_COUNT.off → Answers (exec (.jtagInstruction .testAccess) s) (fun t =>
        t = { s with extest := false, regs := t.regs, out := .jtag 0 :: s.out } ∧ Counted R.SLC_AUTH_FAIL_COUNT.off s t)))

/-- R517..R520, R523, R535..R538: the flash write, an abort, a row repair, and the times of a Silt entry. A sector that reads back as
written holds the image's bytes, then FFH, and is no longer cut; the last one ends the update. One that does not is erased again
once, counted, and the second time fails the update. A sector whose pages do not pass their hold-up check, or meet an early
brown-out warning, is not programmed: they wait (R519, R461). An abort acts while an image is verified, and is an access error during the
handover or the write. A row is remapped while spares are left, and its errors enter the health
record (R439). An entry without a report for 1 s goes quiet; at the end of its
window it reports what came within it, or lets the next report through. -/
def Obligations.ServiceAndSilt : Prop :=
  ∀ s : State, s.quiet → (∀ f, f ∈ s.rings.flight → f.ring < 32) →
    let k := s.live_.sector
    let img := sectorImage s.instImage k
    let ready : Prop := s.live_.pages = true ∨ (3 ∉ s.power.stores ∧ s.ebb = false ∧ s.covered 0 = true)
    (s.updState = 3 → s.live_.running = true → ¬ ready → ∀ good, Answers (exec (.flashSectorDone good) s) (fun t =>
      t.store = s.store ∧ t.live_ = s.live_ ∧ 3 ∈ t.power.stores ∧ t.updState = 3)) ∧
    (s.updState = 3 → s.live_.running = true → ready →
      Answers (exec (.flashSectorDone true) s) (fun t => k ∉ t.store.cut ∧ (∀ j, j ≠ k → (j ∈ t.store.cut ↔ j ∈ s.store.cut)) ∧
        (∀ i, i < 65536 → t.flashByte (65536 * k + i) = img.getD i 0xFF) ∧
        (cdiv s.instImage.length 65536 ≤ k + 1 → t.updState = 0 ∧ t.live_.inst = none ∧ t.live_.running = false)) ∧
      (s.live_.again = false → Answers (exec (.flashSectorDone false) s) (fun t => k ∈ t.store.cut ∧ t.live_.again = true ∧
        t.live_.sector = k ∧ Counted R.UPD_FLASH_RETRY_COUNT.off s t ∧ t.updState = 3 ∧
        (s.ebb = false → t.live_.running = s.covered 2))) ∧
      (s.live_.again = true → Answers (exec (.flashSectorDone false) s) (fun t => k ∈ t.store.cut ∧ t.updState = 4 ∧
        t.live_.inst = none ∧ t.live_.running = false))) ∧
    (∀ req (v : Word), s.mayWrite req R.UPD_CTRL.off →
      (s.updState = 0 ∨ s.updState = 4 → Answers (exec (.updateAbort req v) s) (fun t => t = { s with regs := t.regs } ∧
        t.fbit R.UPD_CTRL_auto_repair = v.getLsbD 30 ∧ ∀ o, o ≠ R.UPD_CTRL.off → t.rg o = s.rg o)) ∧
      (s.updState = 1 → Answers (exec (.updateAbort req v) s) (fun t => t.updState = 0 ∧ t.live_.inst = none ∧
        t.live_.running = false ∧ t.store = s.store)) ∧
      (s.updState = 2 ∨ s.updState = 3 → s.mayCount R.GLB_ACCESS_ERR_COUNT.off → s.domOn .sys = true →
        Answers (exec (.updateAbort req v) s) (fun t => t = { s with regs := t.regs } ∧ t.updState = s.updState ∧
          Counted R.GLB_ACCESS_ERR_COUNT.off s t ∧ t.fget R.GLB_ACCESS_ERR_ADDR_offset = R.UPD_CTRL.off))) ∧
    (∀ (a : BitVec 34) (u : Bool), s.fbit R.UPD_CTRL_auto_repair = true → s.domOn .res = true →
      let q := if Config.stackOne a.toNat then 1 else 0
      (s.fget R.UPD_REPAIR_USED_rows q < 32 → s.mayCount R.UPD_REPAIR_COUNT.off → Answers (exec (.reservoirRowRepair a u) s) (fun t =>
        t = { s with regs := t.regs, live_ := { s.live_ with repaired := s.live_.repaired ++ [a.toNat] }, tandem := { s.tandem with
          resCorrected := s.tandem.resCorrected + (if u then 0 else 16), resUncorrected := s.tandem.resUncorrected + b2n u } } ∧
        Counted R.UPD_REPAIR_COUNT.off s t ∧ t.fget R.UPD_REPAIR_USED_rows q = s.fget R.UPD_REPAIR_USED_rows q + 1)) ∧
      (32 ≤ s.fget R.UPD_REPAIR_USED_rows q → Answers (exec (.reservoirRowRepair a u) s) (fun t =>
        Counted R.UPD_REPAIR_FULL_COUNT.off s t ∧ t.live_ = s.live_))) ∧
    (∀ i : Fin 1024, let e := s.entry i
      (e.st = 1 → 1000000000 ≤ nsSince s e.lastTick → Answers (exec (.siltEntryQuiet i) s) (fun t =>
        t = { s with silt := t.silt } ∧ t.entry i = { e with st := 2 } ∧ ∀ j, j ≠ i.val → t.entry j = s.entry j)) ∧
      (e.window = true → e.pending = false → Answers (exec (.siltWindowEnd i) s) (fun t =>
        t = { s with silt := t.silt } ∧ t.entry i = { e with window := false } ∧ ∀ j, j ≠ i.val → t.entry j = s.entry j)) ∧
      (e.window = true → e.pending = true → s.domOn .sys = true → s.siltQuietClass e.cls = false →
        s.fbit R.HOST_CTRL_event_enable = false → s.ditch.pool = [] → Answers (exec (.siltWindowEnd i) s) (fun t =>
          t.entry i = { e with pending := false } ∧ (∀ j, j ≠ i.val → t.entry j = s.entry j) ∧
          t.fget R.GLB_IRQ_STATUS_source = s.fget R.GLB_IRQ_STATUS_source ||| 1)))

/-! ### The frame, the ports' lines and supply set-points (chapters 2, 8, 9) -/

/-- R22, R31, R368, R588, R590: the events of a frame. The cut of a frame that is evaluated here opens its evaluation: neither its
cue deadline nor its staging has come, the member pass is to run, and φ(F) follows S. The cut of one that is not takes the number,
the next instant of the lattice and S. The cue deadline latches the fade queues' tails; the member pass and staging end once each, with
their times, and a finished flattened copy waits, beside the one in use, for the next cut. A staging deadline ends the evaluation:
a staged frame is the new content, one that is not repeats the last and is counted; while the pixels sleep only the clock moves
on; each way the launch stages are armed with the instant and the trims. At the frame instant the number moves on; with the
outputs powered and nothing due beside it, the repeat flag shows. -/
def Obligations.FrameEvents : Prop :=
  ∀ s : State, s.quiet →
    let c := s.time.clock
    (let n := c.cutFrame + 1;
      s.clockRuns = true → (s.openCut n).evalOn n = true → Answers (exec .inputCut s) (fun t =>
        t.time.clock.cutFrame = n ∧ t.time.clock.evaluating = true ∧ t.time.clock.cueClosed = false ∧ t.time.clock.staged = false ∧
        t.fabric.memberDone = false ∧ t.fabric.cutAt = s.now ∧ t.fabric.phi = phiOf (t.shOf n))) ∧
    (let n := c.cutFrame + 1;
      s.clockRuns = true → (s.openCut n).evalOn n = false → s.isStandby = false → s.basin.resetAt = none → s.basin.snaps = [] →
      s.tword 0x15 0 0 / 2 ^ 27 % 2 = 0 → 2 ≤ n → (c.tf.find? (fun e => e.1 == n - 1)).isSome = true →
      Answers (exec .inputCut s) (fun t => t = { s with time := { s.time with clock := t.time.clock } } ∧ t.time.clock.cutFrame = n ∧
        t.tfOf n = s.latticeFrom (s.tfOf (n - 1) + 1) ∧
        (s.showMode = 0 → t.shOf n = s.shOf (n - 1) + (t.tfOf n - s.tfOf (n - 1))) ∧
        (s.showMode = 2 → t.shOf n = s.shOf (n - 1)))) ∧
    (c.evaluating = true → c.cueClosed = false → s.shadows = false →
      (∀ e ∈ s.ditch.pool, ∀ v, e.2 = some v → s.frameBound v = false) → Answers (exec .cueDeadline s) (fun t =>
        t = { s with time := { s.time with clock := { c with cueClosed := true } }, fabric := { s.fabric with tails := t.fabric.tails } } ∧
        ∀ q, q < 64 → mget nat0 t.fabric.tails q = s.fget R.PF_FADEQ_TAIL_tail q)) ∧
    (c.evaluating = true → s.fabric.memberDone = false →
      let ns := nsSince s s.fabric.cutAt
      let past := decide (20 * 1000000000 * s.live.rateDen < 32 * ns * s.live.rateNum) && s.fbit R.PF_CTRL_eval_enable
      Answers (exec .memberPassEnd s) (fun t => t.fabric.memberDone = true ∧ t.fget R.PF_EVAL_TIME = ns % 2 ^ 32 ∧
        t.fbit R.PF_STATUS_overrun_last = past ∧ (past = true → Counted R.PF_OVERRUN_COUNT.off s t) ∧ t.time = s.time ∧
        t.fabric.image = (if s.fbit R.PF_CTRL_eval_enable then s.live.universeImage (mget nat0 t.fabric.final)
          else s.live.universeImage s.live.idleValue))) ∧
    (c.evaluating = true → s.fabric.memberDone = true → c.staged = false → ∀ host after,
      Answers (exec (.frameStaged host after) s) (fun t => t.time = { s.time with clock := { c with staged := true } } ∧
        t.fget R.CMP_COMPOSE_TIME = nsSince s s.fabric.cutAt % 2 ^ 32)) ∧
    (∀ (k : Fin 4) (n : Nat) (host after : HostView), (s.canvas k).refillFrom = some n → s.composes k = true → s.domOn .pix = true →
      (s.fetchRun host after k).2.2 = false → Answers (exec (.flattenRefillDone k host after) s) (fun t =>
        (t.canvas k).refillFrom = none ∧ (t.canvas k).flatNext = some (otherCopy (s.canvas k).flat) ∧
        t.fget R.CMP_FLATTEN_LAG k = (s.evalFrame + 1 - n) % 2 ^ 32 ∧ t.time = s.time)) ∧
    (let n := c.stageFrame + 1
      let at_ := [(n, s.localAt (s.lockBase c.onBase) (s.tfOf n))]
      let trims (t : State) : Prop :=
        (∀ p, p < 256 → let tp := s.fget R.PT_LAUNCH_TRIM_trim_ns p
          t.fget R.PT_STATUS_trim_eff_ns p = s.live.trimEff (s.port p).ent tp ∧
          t.fbit R.PT_STATUS_trim_clamped p = decide (s.live.trimEff (s.port p).ent tp < tp) ∧
          (t.port p).rise = sint (s.fget R.PT_EDGE_TRIM_rise p) 6 ∧ (t.port p).fall = sint (s.fget R.PT_EDGE_TRIM_fall p) 6) ∧
        (∀ r, r < 2 → (t.ro r).trims.head? =
          some (n, s.fget R.RAS_LAUNCH_TRIM_trim_ns (if rasSplit ((t.ro r).wordsAt n) then 0 else r))) ∧
        ∀ m, m < 4 → (t.mac m).trim = s.fget R.TIM_NET_TRIM_trim_ns m
      s.clockRuns = true → n ≤ c.cutFrame → s.isStandby = false → ∀ fetched host after,
        (s.domOn .pix = false → Answers (exec (.stagingDeadline fetched host after) s) (fun t =>
          t.time.clock = { c with stageFrame := n, armed := at_ } ∧ trims t)) ∧
        (s.domOn .pix = true → s.domOn .sys = true → s.tandem.started = false → s.power.stopAt = none → c.evaluating = true →
          Answers (exec (.stagingDeadline fetched host after) s) (fun t =>
            t.time.clock = { c with stageFrame := n, contentLast := if c.staged then n else c.contentLast, repeatNow := !c.staged,
                                    evaluating := false, staged := false, armed := at_ } ∧
            (c.staged = false → Counted R.GLB_FRAME_REPEAT_COUNT.off s t) ∧ trims t))) ∧
    (s.clockRuns = true → s.frame < c.cutFrame → s.frame + 1 < 2 ^ 64 → s.basin.take = none → c.placing = none →
      (s.domOn .pix = false → Answers (exec .frameInstant s) (fun t => t = { s with regs := t.regs } ∧ t.frame = s.frame + 1)) ∧
      (s.domOn .pix = true → s.domOn .sys = true → (∀ z, (s.zone z).riseCmd = none) → s.fbit R.CMP_CTRL_compose_enable = false →
        s.fbit R.WM_CTRL_legibility_enable = false → s.fbit R.RAS_CTRL_raster_enable = false → s.tandem.switching = false →
        s.power.stopAt = none → Answers (exec .frameInstant s) (fun t => t.frame = s.frame + 1 ∧
          t = { s with regs := t.regs } ∧
          t.fbit R.GLB_FRAME_STATUS_repeat_last = c.repeatNow)))

/-- R264..R266, R270, R276, R279, R283, R287: a port's lines. At the start of read-out the context of every port that runs restarts
at its mode's program; the context of a port that is held, or whose lateral is in service past its frame, stands, and a port at REST or switched off does not change. A pixel line that starts ready goes out whole and holds the port for its duration; one
that is starved, or meets a line still running, is counted. A commit event ends the line; for a DMX line it sends the packet. At
a rest point a port takes its new entry, and one of zeros is none: the port goes to REST; one whose entry a D reset took keeps it until
its table is committed again (R289). A rest point after a sleep's black frame is noted (R452). The balls of a port whose domain is off
are low while VIO33 is present, and else high-impedance (R446). -/
def Obligations.PortLines : Prop :=
  ∀ s : State, s.quiet → (∀ f, f ∈ s.rings.flight → f.ring < 32) →
    let runs (p : Nat) : Prop := peMode (s.port p).ent ≠ mREST ∧ s.flumeRuns p = true
    Answers (exec .readoutStart s) (fun t => s.out <:+ t.out ∧ ∀ p, p < 256 →
      (runs p → s.unserved p = false → (t.port p).flow = {
          keep := (s.port p).flow.keep, running := true
          pc := if peMode (s.port p).ent = mEXPERT then bits ((s.port p).ent 12) 13 0
            else romStart (peMode (s.port p).ent)
          stuck := if (s.port p).flow.running || (s.port p).flow.faulted then (s.port p).flow.stuck + 1 else 0 } ∧
        (t.port p).fired = [] ∧ (t.port p).probed = [] ∧ (t.port p).entry = (s.port p).entry) ∧
      (runs p → s.unserved p = true → (t.port p).flow = (s.port p).flow ∧
        (t.port p).fired = [] ∧ (t.port p).probed = [] ∧ (t.port p).entry = (s.port p).entry) ∧
      (¬ runs p → t.port p = s.port p)) ∧
    ∀ p : Fin 256, let v := s.port p
      let sent (e : Nat) (k : Nat) (b : List Byte) (t : State) : Prop :=
        OnlyPort p { s with regs := t.regs, out := .line p k (v.wire v.flow.mark) b :: s.out } t ∧ t.fbit R.PT_STATUS_starved_last p = false ∧
        t.port p = { v with freeAt := s.now + e, lineOn := true } ∧ ∀ o, o ≠ R.PT_STATUS.off p → t.rg o = s.rg o;
      (s.portDrives p = true → peLine v.ent = mSW ∨ peLine v.ent = mCLOCKED →
        (s.now < v.freeAt → Answers (exec (.lineStart p) s) (fun t => Counted (R.PT_LINE_SKIP_COUNT.off p) s t ∧ t.die = s.die)) ∧
        (v.freeAt ≤ s.now →
          (∀ b, s.lineState p = .ready b →
            Answers (exec (.lineStart p) s) (sent ((peD v.ent + peLow v.ent + 1) / 2) 1 b)) ∧
          (s.lineState p = .starved → Answers (exec (.lineStart p) s) (fun t => Counted (R.PT_STARVED_COUNT.off p) s t ∧
            t.fbit R.PT_STATUS_starved_last p = true ∧ t.die = s.die))) ∧
        (v.lineOn = true → Answers (exec (.portCommitEvent p) s) (fun t =>
          OnlyPort p { s with out := .line p 2 v.wire [] :: s.out } t ∧ t.port p = { v with lineOn := false }))) ∧
      (s.portDrives p = true → peLine v.ent = mDMX → v.rdm = none → v.skip = false → v.freeAt ≤ s.now → ∀ b,
        s.lineState p = .ready b → Answers (exec (.portCommitEvent p) s) (sent ((peD v.ent + 1) / 2) 0 (0 :: b))) ∧
      (v.rdm = none → s.die.svc = none → s.die.stale.contains p.val = true → Answers (exec (.portRestPoint p) s) (fun t =>
        t.port p = v)) ∧
      (v.rdm = none → s.die.svc = none → s.die.stale.contains p.val = false →
        let new := (List.range 16).map (fun w => s.live.portEntry p w)
        let stored := if new.all (fun w => w = 0) then [] else new
        (stored ≠ v.entry → Answers (exec (.portRestPoint p) s) (fun t => (t.port p).entry = stored ∧ (t.port p).flow = {} ∧
          (t.port p).lineOn = false ∧ t.fget R.PT_STATUS_mode p = peMode (s.live.portEntry p) ∧
          (peMode (s.live.portEntry p) = mREST → s.domOn (portDomain p) = true →
            t.portBalls p = (ballOf (peInvert (s.live.portEntry p)), .low)) ∧
          ∀ q, q ≠ p.val → t.port q = s.port q)) ∧
        (stored = v.entry → Answers (exec (.portRestPoint p) s) (fun t =>
          t = { s with die := { s.die with rested := t.die.rested } } ∧
          ∀ q, q ∈ t.die.rested ↔ q ∈ s.die.rested ∨ (q = p.val ∧ s.blackLit = true)))) ∧
      (s.domOn (portDomain p) = false → s.portBalls p = if s.vio33 = true then (.low, .low) else (.highZ, .highZ))

/-- R246..R249: supply set-points. Before the instant of a rise every zone whose rise is due is sent its set-point, on its bus's
queue or in a SUPPLY frame with its zone's next number; after a fall every zone that needs less is, unless the frame was
repeated. A disabled supply sends nothing. An
acknowledged PMBus command leaves its bus and its value stands as the zone's acknowledged one; one that was not is sent once more,
counted, and the second time its zone is marked faulted. A zone that never acknowledged has no value to hold: it takes a free value
of the model (log entry 8). -/
def Obligations.SupplyCommands : Prop :=
  ∀ s : State, s.quiet →
    let sent (z v : Nat) (rising : Bool) (t : State) : Prop := s.drives = true →
      let port := bits (s.live.zoneW z 1) 31 24
      let is_ (c : Supply) : Prop := c.zone = z ∧ c.value = v ∧ c.cmd = (s.zone z).cmds ∧ c.rising = rising
      (2 ≤ s.live.zonePath z → (∃ c ∈ t.water.supply, is_ c ∧ c.seq = ((s.zone z).seq + 1) % 256) ∧
        (s.portDrives port = true → SentFrame port (furFrame 0x05 (if rising then 2 else 0) (bits (s.live.zoneW z 1) 23 14)
          (s.readFrame % 65536) (leBytes v 2 ++ leBytes (((s.zone z).seq + 1) % 256) 1 ++ [0])) 0 t)) ∧
      (s.live.zonePath z ≤ 1 → s.fbit R.WM_PMBUS_CFG_enable (s.live.zonePath z) = true →
        ∃ c ∈ t.bus (s.live.zonePath z), is_ c)
    let due (z : Nat) : Prop := z ∈ s.live.zones ∧ ∃ n, (s.zone z).rise = some n ∧ n ≤ s.frame + 1
    (s.fbit R.WM_CTRL_supply_enable = true → Answers (exec .supplyRiseSend s) (fun t => s.out <:+ t.out ∧ ∀ z,
      (due z → (t.zone z).rise = none ∧ sent z (s.zone z).h true t) ∧ (¬ due z → t.zone z = s.zone z) ∧
      (t.zone z).h = (s.zone z).h ∧ (t.zone z).ack = (s.zone z).ack)) ∧
    (s.fbit R.WM_CTRL_supply_enable = false → Answers (exec .supplyRiseSend s) (fun t => t = s)) ∧
    (s.fbit R.WM_CTRL_supply_enable = true → s.fbit R.GLB_FRAME_STATUS_repeat_last = false →
      Answers (exec .supplyFallSend s) (fun t => s.out <:+ t.out ∧ (∀ z, let m := max (s.zone z).prev (s.zone z).need
        (z ∈ s.live.zones → m < (s.zone z).h → (s.zone z).rise = none → (t.zone z).h = m ∧ sent z m false t) ∧
        (z ∉ s.live.zones ∨ (s.zone z).h ≤ m ∨ (s.zone z).rise ≠ none → t.zone z = s.zone z) ∧
        (t.zone z).rise = (s.zone z).rise ∧ (t.zone z).ack = (s.zone z).ack) ∧
        t.water.minSent = if s.water.minSent = none ∧ s.blackLit = true then some s.now else s.water.minSent)) ∧
    (s.fbit R.GLB_FRAME_STATUS_repeat_last = true → Answers (exec .supplyFallSend s) (fun t => t = s)) ∧
    ∀ (b : Fin 2) (c : Supply) (q : List Supply), s.bus b = c :: q → c.zone < 256 →
      let faulted (t : State) : Prop := t.fget R.WM_ZONE_FAULT (c.zone / 32) / 2 ^ (c.zone % 32) % 2 = 1
      Answers (exec (.pmbusCommandDone b true) s) (fun t => t.bus b = q ∧ (t.zone c.zone).ack = some c.value ∧
        (t.zone c.zone).riseCmd = (s.zone c.zone).riseCmd.filter (fun k => decide (c.cmd < k)) ∧ ¬ faulted t ∧ ∀ z, z ≠ c.zone → (t.zone z).ack = (s.zone z).ack) ∧
      (c.again = false → Answers (exec (.pmbusCommandDone b false) s) (fun t => t.bus b = { c with again := true } :: q ∧
        Counted R.WM_PMBUS_NACK_COUNT.off s t ∧ ∀ z, (t.zone z).ack = (s.zone z).ack)) ∧
      (c.again = true → Answers (exec (.pmbusCommandDone b false) s) (fun t => t.bus b = q ∧ faulted t ∧
        Counted R.WM_PMBUS_NACK_COUNT.off s t ∧ (t.zone c.zone).ack.isSome = true ∧
        (∀ a, (s.zone c.zone).ack = some a → (t.zone c.zone).ack = some a) ∧
        ∀ z, z ≠ c.zone → (t.zone z).ack = (s.zone z).ack))

/-- R252, R267..R269, R303..R315: RDM and the return window of a port. A request that fits before the next break leaves; one of
class 2 completes with its last slot; one that does not fit is deferred, and at its last deferral the port skips a packet. A
response or its absence ends the transaction, with the gap behind it, and completes the request. The firing frame carries the
pulse, behind the CONFIG frames that fit; the turn set opens the window with W; a PONG sets out_0. An IDENT or a TELEMETRY record
with a good CRC fills its node and marks it heard; a bad one is counted. The window's end shows how many nodes were heard and
counts up those that were not, and a node unheard in four is reported, its member pixels FAILED; the port's mapped nodes are counted in
the same way (R250). How the gap behind a transaction is
kept is the model's choice (log entry 98). -/
def Obligations.PortReturns : Prop :=
  ∀ (s : State) (p : Fin 256), s.quiet → let v := s.port p
    let fits (f : Flight) : Prop := ((2 * (v.freeAt - s.now) + rdmAllowance v.ent f.got.length : Nat) : Int) * 65536 ≤ s.toBreak p
    (s.portDrives p = true → peLine v.ent = mDMX → peRdm v.ent = true → v.rdm = none → v.lineOn = true →
      (s.rdmQueue p = [] → Answers (exec (.rdmTransactionStart p) s) (fun t => OnlyPort p s t ∧ t.port p = { v with lineOn := false })) ∧
      (∀ f l, s.rdmQueue p = f :: l →
        (fits f → aClass f.words = 2 → l = [] → s.canPost f.ring → f.basin = false → f.shadow = false →
          Answers (exec (.rdmTransactionStart p) s) (fun t => Emission.line p 4 v.wire f.got ∈ t.out ∧
            Posts f.ring (completionOf f.words stOk 0 s.frame) { s with die := t.die } t ∧
            t.port p = { v with
              lineOn := false, deferred := 0
              freeAt := max v.freeAt s.now + cyclesOf (rdmSlots v.ent f.got.length + rdmGap) } ∧
            ∀ q, q ≠ p.val → t.port q = s.port q)) ∧
        (fits f → aClass f.words ≠ 2 → Answers (exec (.rdmTransactionStart p) s) (fun t => t.out = .line p 4 v.wire f.got :: s.out ∧
          t = { s with die := { s.die with ports := t.die.ports }, rings := t.rings, out := t.out } ∧
          t.port p = { v with lineOn := false, rdm := some f.id, deferred := 0 } ∧ ∀ q, q ≠ p.val → t.port q = s.port q)) ∧
        (¬ fits f → v.deferred + 1 < peRdmDefer v.ent → Answers (exec (.rdmTransactionStart p) s) (fun t => OnlyPort p s t ∧
          t.port p = { v with lineOn := false, deferred := v.deferred + 1 })) ∧
        (¬ fits f → peRdmDefer v.ent ≤ v.deferred + 1 → Answers (exec (.rdmTransactionStart p) s) (fun t =>
          (t.port p).skip = true ∧ (t.port p).deferred = 0 ∧ Counted (R.PT_RDM_SKIP_COUNT.off p) s t)))) ∧
    (∀ id f, v.rdm = some id → s.flight id = some f → s.canPost f.ring → f.basin = false → f.shadow = false → f.applied = true →
      s.rdmQueue p = [] →
      let left (t : State) : Prop := t.port p = { v with rdm := none, freeAt := max v.freeAt (s.now + cyclesOf rdmGap) } ∧ (∀ q, q ≠ p.val → t.port q = s.port q) ∧
        t.rings.flight = s.rings.flight.filter (fun g => g.id ≠ f.id);
      (∀ (b : List Byte) (framing : Bool),
        let nack := aClass f.words = 0 ∧ (b.getD 16 0).toNat = 2
        let bad := aClass f.words = 1 ∧ (framing = true ∨ discGood b = false)
        (∀ a n, aClass f.words ≤ 1 → f.parts = [(a, n)] → aSpace f.words = 1 → b ≠ [] → b.length ≤ n → b.length ≤ aLength f.words →
          s.resOk a b.length = true → Answers (exec (.rdmResponse p b framing) s) (fun t => left t ∧
            Posts f.ring (completionOf f.words (if nack then stRdmNack else stOk) (b.length + if bad then 2 ^ 32 else 0) s.frame)
              { s with die := t.die, mem := t.mem } t ∧ memRead t.mem.reservoir a b.length = b))) ∧
      (s.mayCount (R.PT_RDM_TIMEOUT_COUNT.off p) → Answers (exec (.rdmTimeout p) s) (fun t => left t ∧
        Posts f.ring (completionOf f.words stRdmNone 0 s.frame) { s with die := t.die, regs := t.regs } t ∧
        Counted (R.PT_RDM_TIMEOUT_COUNT.off p) s t ∧ ∀ o, o ≠ R.PT_RDM_TIMEOUT_COUNT.off p → t.rg o = s.rg o))) ∧
    (s.portDrives p = true → peLine v.ent = mFURROW →
      (∀ configs, Answers (exec (.firingProbe p configs) s) (fun t => s.out <:+ t.out ∧
        SentFrame p (furFrame 0x04 1 0x03FF (s.readFrame % 65536) (leBytes (s.fget R.WM_PROBE_CFG_pulse_us) 2)) 0 t ∧
        (t.port p).fired = s.water.probes.filter (fun k => k / 32768 = p.val && (s.live.nodeOfPixel p (k % 32768)).isSome) ∧
        (t.port p).probed = [] ∧ (∀ q, q ≠ p.val → t.port q = s.port q) ∧
        ∀ n ∈ (s.configsDue p).take configs, (t.node p n).configPending = 2 ∧ (t.node p n).configured = false)) ∧
      Answers (exec (.turnSet p) s) (fun t => t.port p = { v with window := true, heard := [], rd := (t.port p).rd } ∧
        OnlyPort p { s with out := t.out, free := t.free } t ∧
        ∃ w : List Byte, w.length = 3 ∧ leNat w = (1000 * (peReturnUs v.ent : Int) - 1000 - 2 * (v.out0 / 16)).toNat % 2 ^ 24 ∧
          SentTurn p w t)) ∧
    (v.window = true →
      (∀ r0 : BitVec 32, Answers (exec (.furrowPong p r0) s) (fun t => OnlyPort p s t ∧
        t.port p = { v with out0 := ((r0.toNat : Int) - 6400 + 16 * sint (s.fget R.PT_PATH_ASYM_asym_ns p) 12) / 2 })) ∧
      (∀ b : List Byte, let n := leNat (b.take 2) % 1024
        let f := v.committed.getD (s.readFrame - 1)
        (leNat (b.take 2) / 4096 % 16 = 1 → Answers (exec (.furrowRecord p b true) s) (fun t => n ∈ (t.port p).heard ∧
          t.node p n = { s.node p n with
            known := true, uid := leNat ((b.drop 2).take 6), model := leNat ((b.drop 8).take 4), channels := leNat ((b.drop 12).take 1) % 128,
            caps := leNat ((b.drop 13).take 1), tMin := leNat ((b.drop 14).take 2), tPwm := leNat ((b.drop 16).take 4),
            fwd := leNat ((b.drop 20).take 2), silent := 0, reported := false } ∧
          t.tandem.ledger = s.tandem.ledger ++ [⟨0x0A, p, 3 :: f :: v.fired.length :: (v.fired ++ b.map BitVec.toNat)⟩] ∧
          t = { s with die := t.die, nodes := t.nodes, mem := t.mem, water := t.water, tandem := t.tandem })) ∧
        (leNat (b.take 2) / 4096 % 16 ≠ 1 → leNat ((b.drop 2).take 1) = 0 → (s.node p n).seen = false →
          (s.node p n).configPending ≠ 2 → Answers (exec (.furrowRecord p b true) s) (fun t => n ∈ (t.port p).heard ∧
            t.node p n = { s.node p n with
              seen := true, crcErrors := leNat ((b.drop 4).take 2), hop := leNat ((b.drop 8).take 2), silent := 0,
              reported := false })) ∧
        (s.mayCount (R.FUR_RET_BAD_COUNT.off p) → Answers (exec (.furrowRecord p b false) s) (fun t =>
          OnlyRegs [R.FUR_RET_BAD_COUNT.off p] s t ∧ Counted (R.FUR_RET_BAD_COUNT.off p) s t))) ∧
      ((s.portNodes p).Nodup → v.enumPhase = 0 → Answers (exec (.returnWindowEnd p) s) (fun t => (t.port p).window = false ∧ (t.port p).fired = [] ∧
        (t.port p).probed = [] ∧ t.fget R.FUR_PORT_STATUS_nodes_heard p = v.heard.length % 2048 ∧
        t.fbit R.FUR_PORT_STATUS_window_short p = s.windowShort p ∧ (∀ q, q ≠ p.val → t.port q = s.port q) ∧
        ∀ n ∈ s.portNodes p, (t.node p n).heard = v.heard.contains n ∧
          (t.node p n).silent = if v.heard.contains n then 0 else (s.node p n).silent + 1)) ∧
      ((s.live.nodesListed p).Nodup → v.enumPhase = 0 → Answers (exec (.returnWindowEnd p) s) (fun t => ∀ n ∈ s.live.nodesListed p,
        mget nat0 t.water.mute (nodeKey p n) = if v.heard.contains n then mget nat0 s.water.mute (nodeKey p n)
          else min (mget nat0 s.water.mute (nodeKey p n) + 1) 4))) ∧
    ∀ n : Fin 1024, 4 ≤ (s.node p n).silent → (s.node p n).reported = false →
      Answers (exec (.furNodeSilent p n) s) (fun t => t.node p n = { s.node p n with reported := true } ∧
        s.tandem.ledger ++ [⟨0x0A, p, [4, n]⟩] <+: t.tandem.ledger ∧
        ∀ i, s.live.nodeOfPixel p i = some n.val → i < 32768 → t.memberFailed (32768 * p.val + i) = true)

/-! ### The Ethernet MACs, sACN and media (chapters 11, 12) -/

/-- R322..R334, R349..R352, R514: the MACs. A frame that a running MAC receives is counted and dropped where it is too long, its FCS
fails, its tag is not the MAC's or no filter test passes; an accepted one joins the queue of its class, or is dropped where it does
not fit. A PAUSE is obeyed until its time ends. A frame of class 6 goes to the free buffer and completes it. Pause is sent at once
on a free wire, and repeated; its watchdogs trip once. A free wire takes what waits; a timed TX_FRAME that is due leaves and
completes. A link change shows, and a link that goes down ends both pauses. -/
def Obligations.NetFrames : Prop :=
  ∀ (m : Fin 4) (s : State), s.quiet → let v := s.mac m
    let counted (o : Nat) (t : State) : Prop := OnlyRegs [o] s t ∧ Counted o s t
    let only (w : NetMac) (t : State) : Prop := t = { s with net := { s.net with macs := t.net.macs } } ∧ t.mac m = w ∧
      ∀ j, j ≠ m.val → t.mac j = s.mac j
    let sends (b : List Byte) (w : NetMac) (t : State) : Prop := t.out = .netFrame m b :: s.out ∧ t.mac m = { w with busy := true };
    (∀ (b : List Byte) (good : Bool), s.macRuns m = true → 60 ≤ b.length → s.fget R.PM_WAKE_ETH_ethertype = 0 →
      (9212 < b.length → s.mayCount (R.NET_RX_OVERSIZE_COUNT.off m) →
        Answers (exec (.macFrameReceive m b good) s) (counted (R.NET_RX_OVERSIZE_COUNT.off m))) ∧
      (b.length ≤ 9212 → s.mayCount (R.NET_RX_FCS_ERR_COUNT.off m) →
        Answers (exec (.macFrameReceive m b false) s) (counted (R.NET_RX_FCS_ERR_COUNT.off m))) ∧
      (b.length ≤ 9212 → beNat ((b.drop 12).take 2) = 0x8808 → beNat ((b.drop 14).take 2) = 1 → beNat ((b.drop 16).take 2) ≠ 0 →
        s.fbit R.NET_MAC_CFG_rx_pause m = true → s.fbit R.NET_MAC_STATUS_wd_rx m = false → s.fbit R.NET_MAC_STATUS_paused m = false →
        Answers (exec (.macFrameReceive m b true) s) (fun t => t = { s with regs := t.regs, net := t.net } ∧
          t.fbit R.NET_MAC_STATUS_paused m = true ∧ t.mac m = { v with lastPause := s.now, pausedSince := s.now })) ∧
      (b.length ≤ 9212 → beNat ((b.drop 12).take 2) ≠ 0x8808 →
        (s.untag m b = none → s.mayCount (R.NET_RX_VLAN_DROP_COUNT.off m) →
          Answers (exec (.macFrameReceive m b true) s) (counted (R.NET_RX_VLAN_DROP_COUNT.off m))) ∧
        (∀ f, s.untag m b = some f →
          (s.rxRoute m f = none → s.mayCount (R.NET_RX_FILTER_DROP_COUNT.off m) →
            Answers (exec (.macFrameReceive m b true) s) (counted (R.NET_RX_FILTER_DROP_COUNT.off m))) ∧
          (∀ q c, s.rxRoute m f = some (q, c) → c < 6 → s.fbit R.NET_MAC_STATUS_wd_tx m = false → s.fbit R.NET_MAC_CFG_tx_pause m = false →
            let cells := (f.length + 79) / 64
            let room := 2 ^ s.rxLog m c - s.rxFill m c
            (cells ≤ room → s.rxLog m c ≤ 12 → s.fget R.NET_RXQ_CFG_thresh m c = 0 →
              Answers (exec (.macFrameReceive m b true) s) (fun t => t = { s with regs := t.regs, net := t.net } ∧
                t.rxq m c = s.rxq m c ++ [{ bytes := f, ptp := s.time.ptp.t, loc := s.time.loc.t, cells := cells }] ∧
                t.fget R.NET_RXQ_STATUS_wr_ptr m c = (s.fget R.NET_RXQ_STATUS_wr_ptr m c + cells) % 2 ^ (s.rxLog m c + 1) ∧
                ∀ d, d ≠ c → t.rxq m d = s.rxq m d)) ∧
            (room < cells → s.fbit R.NET_MAC_STATUS_pausing m = false → s.mayCount (R.NET_RX_DROP_COUNT.off m c) →
              Answers (exec (.macFrameReceive m b true) s) (counted (R.NET_RX_DROP_COUNT.off m c))))))) ∧
    (∀ f g n, s.rxq m 6 = [f] → s.rxq m 7 = [] → f.sent = 0 → f.bufs = [] → 0 < f.bytes.length → s.freeBufs m 6 [] = [g] →
      s.flight g.id = some g → s.canPost g.ring → g.basin = false → g.shadow = false → f.bytes.length ≤ aLength g.words → aSpace g.words = 1 →
      g.parts = [n] → f.bytes.length ≤ n.2 → s.resOk n.1 f.bytes.length = true → s.fbit R.NET_MAC_CFG_tx_pause m = false →
      Answers (exec (.rxFrameToHost m) s) (fun t => t.rxq m 6 = [] ∧ memRead t.mem.reservoir n.1 f.bytes.length = f.bytes ∧
        Posts g.ring (completionOf g.words stOk f.bytes.length s.frame) { s with net := t.net, regs := t.regs, mem := t.mem } t)) ∧
    (s.fbit R.NET_MAC_STATUS_pausing m = true → s.fbit R.NET_MAC_STATUS_wd_tx m = false →
      (s.fbit R.NET_MAC_CFG_tx_pause m = true → s.fget R.NET_WEIR_low_weir m < s.occupancy m → s.macRuns m = true → v.busy = false → v.txq = [] →
        Answers (exec (.pauseRepeat m) s) (fun t => sends (s.pauseFrame m (s.fget R.NET_PAUSE_CFG_quanta m)) v t ∧
          t = { s with net := t.net, out := t.out })) ∧
      (s.fget R.NET_PAUSE_CFG_wd_ms m ≠ 0 → s.fget R.NET_PAUSE_CFG_wd_ms m * 1000000 ≤ nsSince s v.pauseSince →
        Answers (exec (.pauseWatchdog m true) s) (fun t => t.fbit R.NET_MAC_STATUS_wd_tx m = true ∧
          t.fbit R.NET_MAC_STATUS_pausing m = false ∧ Counted (R.NET_PAUSE_WD_COUNT.off m) s t))) ∧
    (s.fget R.NET_PAUSE_CFG_wd_ms m ≠ 0 → s.fbit R.NET_MAC_STATUS_wd_rx m = true →
      s.fget R.NET_PAUSE_CFG_wd_ms m * 1000000 ≤ nsSince s v.lastPause →
      Answers (exec (.pauseWatchdog m false) s) (fun t => OnlyRegs [R.NET_MAC_STATUS.off m] s t ∧ t.fbit R.NET_MAC_STATUS_wd_rx m = false)) ∧
    (v.txq = [] → Answers (exec (.receivedPauseEnd m) s) (fun t => OnlyRegs [R.NET_MAC_STATUS.off m] s t ∧
      t.fbit R.NET_MAC_STATUS_paused m = false)) ∧
    (s.domOn .net = true → s.live_.netEnds = [] → v.txq = [] →
      Answers (exec (.netLinkChange m true) s) (fun t => OnlyRegs [R.NET_MAC_STATUS.off m] s t ∧ t.fbit R.NET_MAC_STATUS_link m = true) ∧
      Answers (exec (.netLinkChange m false) s) (fun t => OnlyRegs [R.NET_MAC_STATUS.off m] s t ∧
        t.fbit R.NET_MAC_STATUS_link m = false ∧ t.fbit R.NET_MAC_STATUS_paused m = false ∧ t.fbit R.NET_MAC_STATUS_pausing m = false)) ∧
    (v.txq = [] → Answers (exec (.wireFree m) s) (only { v with busy := false })) ∧
    (∀ i, v.txq = [i] → i.step = 1 → i.kind = 4 → i.output = false → s.macRuns m = true →
      Answers (exec (.wireFree m) s) (sends i.bytes { v with txq := [] })) ∧
    (∀ f, s.firstTimed m = some f → s.flight f.id = some f → (aWhen f.words : Int) * 65536 ≤ s.time.ptp.t → s.drives = true →
      s.macRuns m = true → v.busy = false → v.txq = [] → s.fbit R.NET_MAC_STATUS_paused m = false → s.canPost f.ring → f.basin = false →
      f.shadow = false → s.mayCount (R.NET_TX_LATE_COUNT.off m) → s.mayCount (R.NET_TSQ_OVERFLOW_COUNT.off m) →
      Answers (exec (.txFrameLaunch m) s) (fun t => Emission.netFrame m f.got ∈ t.out ∧ (t.mac m).busy = true ∧ (t.mac m).txq = [] ∧
        t.rings.flight = s.rings.flight.filter (fun x => x.id ≠ f.id) ∧
        Posts f.ring (completionOf f.words stOk (twos (s.time.ptp.t / 65536) 64) s.frame) { s with net := t.net, regs := t.regs } t))

/-- R337..R344: sACN. A data packet that is due takes its universe's next sequence number and leaves on a wire that is free; so do
the synchronization packet and a page of discovery. A received data packet tracks its source: a new one takes a place, one in
sequence replaces the data or holds it for its synchronization address, one out of sequence is dropped and counted, and a
terminating one frees the place. A synchronization packet applies what was held for it, and so does a hold of 2.5 s; a source
silent for 2.5 s is lost and counted. -/
def Obligations.SacnRules : Prop :=
  ∀ (m : Fin 4) (s : State), s.quiet → let v := s.mac m
    let wire : Prop := s.macRuns m = true ∧ v.busy = false ∧ v.txq = [] ∧ s.fbit R.NET_MAC_STATUS_paused m = false;
    (s.domOn .net = true → s.fbit R.NET_MAC_STATUS_link m = true → s.net.ended = false → ∀ u, (s.live.txOn m)[v.rank]? = some u →
      let w0 := s.live.txWord u 0
      let w1 := s.live.txWord u 1
      Answers (exec (.sacnDataDue m) s) (fun t => (t.mac m).rank = v.rank + 1 ∧ t.txSeq u m = (s.txSeq u m + 1) % 256 ∧
        (s.udpSends m = false → v.txq = [] → t.out = s.out) ∧
        (s.udpSends m = true → wire → Emission.netFrame m (s.udpFrame m (bits (s.live.sacnWord 5) 7 0) (sacnGroup (entryUniverse w0)) 5568
          (s.live.dataPacket w0 w1 (s.txSeq u m) false (memRead s.cmp.sentImage (512 * u) (bits w1 9 0)))) ∈ t.out))) ∧
    (s.live.sacnTx = true → s.live.sacnSync ≠ 0 → (s.live.txOn m).any (fun u => bits (s.live.txWord u 0) 26 26 = 1) = true →
      s.domOn .net = true → s.fbit R.NET_MAC_STATUS_link m = true → s.net.ended = false →
      Answers (exec (.syncPacketLaunch m) s) (fun t => (t.mac m).syncSeq = (v.syncSeq + 1) % 256 ∧ (t.mac m).synced = true ∧
        (s.udpSends m = true → wire → Emission.netFrame m (s.udpFrame m (bits (s.live.sacnWord 5) 7 0) (sacnGroup s.live.sacnSync) 5568
          (s.live.syncPacket v.syncSeq)) ∈ t.out))) ∧
    (s.live.sacnTx = true → s.net.ended = false → bits (s.live.sacnWord 4) 29 29 = 1 → s.udpSends m = true → wire → s.nextDue m = none →
      let us := ascending ((s.live.txOn m).map (fun u => entryUniverse (s.live.txWord u 0)))
      us.length ≤ 512 → Answers (exec (.sacnDiscovery m) s) (fun t => (t.mac m).busy = true ∧
        t.out = .netFrame m (s.udpFrame m (bits (s.live.sacnWord 5) 7 0) (sacnGroup 64214) 5568 (s.live.discoveryPacket 0 0 us)) :: s.out)) ∧
    (∀ f l, s.rxq m 4 = f :: l → s.fbit R.NET_MAC_CFG_tx_pause m = false →
      (∀ d r, syncOf f.bytes = none → dataOf f.bytes = some d → s.wakeOn R.PM_WAKE_CFG_sacn = false → d.code = 0 → d.preview = false →
        (s.live.rxOn m).filter (fun r => entryUniverse (s.live.rxWord r 0) = d.uni) = [r] →
        let taken (k : Nat) (w : SacnSrc) (t : State) : Prop := t.rxq m 4 = l ∧ t.sacnSrc r k = w ∧
          ∀ i j, j < 4 → i ≠ r ∨ j ≠ k → t.sacnSrc i j = s.sacnSrc i j;
        ((∀ k, k < 4 → (s.sacnSrc r k).used = false) → d.last = false → d.sync = 0 →
          Answers (exec (.sacnDataReceived m) s) (taken 0
            { cid := d.cid, prio := d.prio, used := true, seq := d.seq, lastAt := s.now, data := some d.values })) ∧
        (∀ k, (List.range 4).find? (fun k => (s.sacnSrc r k).used && (s.sacnSrc r k).cid = d.cid) = some k →
          let w := s.sacnSrc r k
          let n := (d.seq + 256 - w.seq) % 256
          (1 ≤ n → n < 237 →
            (d.last = true → Answers (exec (.sacnDataReceived m) s) (taken k {})) ∧
            (d.last = false → d.sync = 0 → Answers (exec (.sacnDataReceived m) s) (taken k
              { w with seq := d.seq, lastAt := s.now, prio := d.prio, data := some d.values, heldData := none, heldAddr := 0 })) ∧
            (d.last = false → d.sync ≠ 0 → w.heldData = none → Answers (exec (.sacnDataReceived m) s) (taken k
              { w with seq := d.seq, lastAt := s.now, heldAddr := d.sync, heldData := some (d.prio, d.values), heldAt := s.now }))) ∧
          (n = 0 ∨ 237 ≤ n → Answers (exec (.sacnDataReceived m) s) (fun t => taken k { w with lastAt := s.now } t ∧
            Counted R.NET_SACN_SEQ_DROP_COUNT.off s t)))) ∧
      (∀ a, syncOf f.bytes = some a → a ≠ 0 → (s.net.sources.map Prod.fst).Nodup → Answers (exec (.sacnSyncReceived m) s) (fun t =>
        t.rxq m 4 = l ∧ ∀ r k, k < 4 → let w := s.sacnSrc r k
          (∀ p b, w.used = true → w.heldAddr = a → w.heldData = some (p, b) →
            t.sacnSrc r k = { w with prio := p, data := some b, heldData := none, heldAddr := 0 }) ∧
          (w.heldAddr ≠ a → t.sacnSrc r k = w)))) ∧
    ∀ (r : Fin 4096) (k : Fin 4), let w := s.sacnSrc r k
      (∀ p b, w.heldData = some (p, b) → 2500000000 ≤ nsSince s w.heldAt → Answers (exec (.sacnSyncTimeout r k) s) (fun t =>
        t = { s with regs := t.regs, net := t.net } ∧ t.sacnSrc r k = { w with prio := p, data := some b, heldData := none, heldAddr := 0 })) ∧
      (w.used = true → 2500000000 ≤ nsSince s w.lastAt → Answers (exec (.sacnSourceTimeout r k) s) (fun t =>
        t.sacnSrc r k = {} ∧ Counted R.NET_SACN_SOURCE_LOST_COUNT.off s t ∧
        ∀ i j, j < 4 → i ≠ r.val ∨ j ≠ k.val → t.sacnSrc i j = s.sacnSrc i j))

/-- R346..R348, R354: video and audio streams. A video packet is taken from class 5: its stream receives, missing sequence numbers
are counted, a packet of a field, which the sequence counts too, is discarded and counted, the packet's frame is the one that a
buffer holds, gets a buffer or, where all are pinned, is discarded and counted, its samples land in the buffer, and the marker
completes a frame that came whole. 100 ms of silence end the reception. An audio packet is taken from class 3: its stream is up, a
gap is counted, and the followers of its channels take its samples. 50 ms of silence take the stream down. Where a packet of an
earlier frame goes is the model's choice (log entry 104), and the packets' layouts are log entry 60's. -/
def Obligations.MediaStreams : Prop :=
  ∀ s : State, s.quiet →
    (∀ (m : Fin 4) f l ip port b k, s.rxq m 5 = f :: l → s.fbit R.NET_MAC_CFG_tx_pause m = false →
      udpOf f.bytes = some (ip, port, b) → s.videoOf m ip port = some k →
      let v := s.vid k
      let taken (t : State) : Prop := t.rxq m 5 = l ∧ t.fget R.NET_VID_STATUS_receiving k = 1 ∧ (t.vid k).lastAt = s.now;
      (rtpOf b = none → Answers (exec (.videoPacketReceived m) s) (fun t => taken t ∧ t.vid k = { v with lastAt := s.now } ∧
        t = { s with regs := t.regs, net := t.net, video := t.video })) ∧
      ∀ p hs data, rtpOf b = some p → vidHeads 64 (p.payload.drop 2) = (hs, data) →
        let seq := fNum p.payload 0 2 * 65536 + p.seq
        let media := mediaNear 90000 f.ptp p.stamp
        let next : Prop := v.seq = none ∨ ∃ q, v.seq = some q ∧ q < 2 ^ 32 ∧ seq = (q + 1) % 2 ^ 32;
        (hs.any (fun h => h.2.2.2) = true → Answers (exec (.videoPacketReceived m) s) (fun t => taken t ∧
          (next → t.vid k = { v with lastAt := s.now, seq := some seq }) ∧ Counted (R.NET_VID_DISCARD_COUNT.off k) s t)) ∧
        (hs.any (fun h => h.2.2.2) = false →
          (∀ q, v.seq = some q → let d := (seq + 2 ^ 32 - q) % 2 ^ 32
            1 ≤ d → d < 2 ^ 31 → Answers (exec (.videoPacketReceived m) s) (fun t => taken t ∧ (t.vid k).seq = some seq ∧
              (t.rg (R.NET_VID_LOSS_COUNT.off k)).toNat = min ((s.rg (R.NET_VID_LOSS_COUNT.off k)).toNat + (d - 1)) 0xFFFFFFFF)) ∧
          (next → v.bufOf media = none → v.skip ≠ some media → s.vidTake k = none →
            Answers (exec (.videoPacketReceived m) s) (fun t => taken t ∧ (t.vid k).bufs = v.bufs ∧ (t.vid k).cur = none ∧
              (t.vid k).skip = some media ∧ Counted (R.NET_VID_DISCARD_COUNT.off k) s t)) ∧
          (next → ∀ line x n, hs = [(line, x, n, false)] → line < s.vidH k → 0 < n → 0 < data.length → s.resAwake = true →
            let pair := vidPair (s.fget R.NET_VID_CFG_format k)
            let row := s.vidW k * pair / 16
            let a := line * row + x * pair / 16
            let len := min (min n data.length) (row - x * pair / 16)
            x * pair / 16 < row →
            let written (y : Nat) (e : VidBuf) (t : State) : Prop := taken t ∧ (t.vid k).cur = some y ∧
              t.mem.reservoir = memWrite s.mem.reservoir
                (s.fget R.NET_VID_HIST_BASE_base_64k k * 65536 + y * s.vidBytes k + a) (data.take len) ∧
              (∀ z, z ≠ y → mget vb0 (t.vid k).bufs z = mget vb0 v.bufs z) ∧
              let got := mget vb0 (t.vid k).bufs y
              got.media = media ∧ got.marker = (e.marker || p.marker) ∧
              got.complete = ((e.marker || p.marker) && !e.gap && rangesCover ((a, len) :: e.segs) (s.vidFrameBytes k)) ∧
              t.fget R.NET_VID_STATUS_complete k = ((t.vid k).bufs.filter (fun e => e.2.complete)).length % 256;
            (∀ y, v.bufOf media = some y → (mget vb0 v.bufs y).media = media → (mget vb0 v.bufs y).complete = false →
              Answers (exec (.videoPacketReceived m) s) (written y (mget vb0 v.bufs y))) ∧
            (∀ y, v.bufOf media = none → v.skip ≠ some media → s.vidTake k = some y →
              Answers (exec (.videoPacketReceived m) s) (written y {}))))) ∧
    (∀ k : Fin 4, (100000000 ≤ nsSince s (s.vid k).lastAt → Answers (exec (.videoNotReceiving k) s) (fun t =>
        OnlyRegs [R.NET_VID_STATUS.off k] s t ∧ t.fget R.NET_VID_STATUS_receiving k = 0)) ∧
      (nsSince s (s.vid k).lastAt < 100000000 → Answers (exec (.videoNotReceiving k) s) (fun t => t = s))) ∧
    (∀ (m : Fin 4) f l ip port b a, s.rxq m 3 = f :: l → s.fbit R.NET_MAC_CFG_tx_pause m = false →
      udpOf f.bytes = some (ip, port, b) → s.audioOf m ip port = some a →
      (rtpOf b = none → Answers (exec (.audioPacketReceived m) s) (fun t => t.rxq m 3 = l ∧ t.net.audio = s.net.audio ∧
        t.net.env = s.net.env ∧ t = { s with regs := t.regs, net := t.net })) ∧
      (∀ p, rtpOf b = some p → Answers (exec (.audioPacketReceived m) s) (fun t => t.rxq m 3 = l ∧
        t.aud a = { seq := some p.seq, lastAt := s.now } ∧ t.fget R.NET_AUD_STATUS_down a = 0 ∧
        (let gap := decide (∃ q, (s.aud a).seq = some q ∧ p.seq ≠ (q + 1) % 65536)
         (gap = true → Counted (R.NET_AUD_LOSS_COUNT.off a) s t) ∧
         (gap = false → t.rg (R.NET_AUD_LOSS_COUNT.off a) = s.rg (R.NET_AUD_LOSS_COUNT.off a))) ∧
        ∀ e, e < 64 → let c := s.fget R.NET_ENV_CFG_channel e
          let l24 := s.fbit R.NET_AUD_CFG_l24 a
          let ch := s.fget R.NET_AUD_CFG_channels a
          let media := mediaNear 48000 f.ptp p.stamp
          let mine : Prop := s.fbit R.NET_ENV_CFG_enable e = true ∧ s.fget R.NET_ENV_CFG_stream e = a ∧ c < ch
          let u := (s.env e).take l24 (s.fget R.NET_ENV_CFG_attack_ms e) (s.fget R.NET_ENV_CFG_release_ms e)
            (channelSamples (if l24 then 3 else 2) ch c media p.payload);
          (mine → t.env e = { u with hist := u.hist.filter (fun h => decide (media < h.1 + envKeep)) }) ∧
          (¬mine → t.env e = s.env e)))) ∧
    ∀ a : Fin 8, (50000000 ≤ nsSince s (s.aud a).lastAt → Answers (exec (.audioStreamDown a) s) (fun t =>
        OnlyRegs [R.NET_AUD_STATUS.off a] s t ∧ t.fget R.NET_AUD_STATUS_down a = 1)) ∧
      (nsSince s (s.aud a).lastAt < 50000000 → Answers (exec (.audioStreamDown a) s) (fun t => t = s))

/-- R363, R364, with IEEE 1588's messages (log entries of chapter 12): what a port sends when it falls due, and what it takes of what it
receives. A port in state LEADER sends Announce, Sync, the Follow_Up of the Sync that has left, and the metadata of its set-up; a FOLLOWER
Delay_Req; each takes its sequence number and leaves at once on a free wire. A FOLLOWER keeps a two-step Sync until its Follow_Up,
which is a sample of the PTP base, as a one-step Sync is; a Delay_Resp to its request gives the path; a LEADER answers Delay_Req; an
Announce enters the leaders heard, of which a port keeps five (log entry 61); signaling and management messages are ignored and
counted. The messages' layouts are log entry 60's. -/
def Obligations.PtpMessages : Prop :=
  ∀ (m : Fin 4) (s : State), s.quiet →
    let wire (u : State) : Prop := u.ptpSends m = true ∧ (u.mac m).busy = false ∧ (u.mac m).txq = [] ∧
      u.fbit R.NET_MAC_STATUS_paused m = false ∧ u.nextDue m = none;
    (s.ptpOn m = true → let u := (s.ptpAge m).ptpDecide
      let p := u.pport m
      let head (type flags seq control log : Nat) (body : List Byte) : List Byte :=
        ptpHeader type flags (u.ptpDomain m) 0 (u.portId m) seq control log body
      let sends (k : Fin 5) (event : Bool) (b : List Byte) (q : PtpPort) : Prop :=
        Answers (exec (.ptpMessageDue m k) s) (fun t => t.out = .netFrame m (u.ptpFrame m event b) :: s.out ∧ (t.mac m).busy = true ∧
          t.pport m = q ∧ t = { u with net := t.net, out := t.out })
      let every := bits (u.live.ptpWord m 2) 23 16;
      (wire u →
        (p.st = 2 → u.drives = true →
          sends 0 false (head 0xB 0x0008 p.seqAnnounce 5 (bits (u.live.ptpWord m 2) 31 24) (u.announceBody m))
            { p with seqAnnounce := (p.seqAnnounce + 1) % 65536 } ∧
          sends 1 true (head 0x0 0x0200 p.seqSync 0 every (ptpStamp 0))
            { p with seqSync := (p.seqSync + 1) % 65536, lastSync := some (p.seqSync, s.time.ptp.t) } ∧
          (∀ q t1, p.lastSync = some (q, t1) → sends 2 false (head 0x8 0 q 2 every (ptpStamp t1)) { p with lastSync := none }) ∧
          (bits (u.live.ptpWord m 0) 28 28 = 1 → sends 4 false (head 0xD 0 p.seqAnnounce 4 0x7F u.metadataBody) p)) ∧
        (p.st = 1 → sends 3 true (head 0x1 0 p.seqDelay 1 0x7F (ptpStamp 0))
          { p with seqDelay := (p.seqDelay + 1) % 65536, delayReq := some (p.seqDelay, some s.time.ptp.t) })) ∧
      (p.st = 0 ∨ 3 ≤ p.st ∨ u.ptpSends m = false → ∀ k, Answers (exec (.ptpMessageDue m k) s) (fun t => t = u))) ∧
    ∀ (c : Fin 2) f l b, s.rxq m c = f :: l → (c = 1 → s.rxq m 0 = []) → s.fbit R.NET_MAC_CFG_tx_pause m = false →
      s.ptpOn m = true → s.ptpOf m f.bytes = some b →
      let p := s.pport m
      let type := fNum b 0 1 % 16
      let seq := fNum b 30 2
      let receives (P : State → Prop) : Prop := Answers (exec (.ptpMessageReceived m) s) (fun t => t.rxq m c = l ∧ P t)
      let samples (t1 loc : Int) (t : State) : Prop := (t.pport m).pair = some (t1, s.ptpAt loc + (t.time.ptp.t - s.time.ptp.t)) ∧ (t.pport m).twoStep = none ∧
        t.time.ptp.sampled = true ∧ t.time.ptp.lastLocal = loc ∧
        t.time.ptp.lastMaster = t1 + p.path.getD 0 + sint (s.fget R.TIM_PTP_ASYM_asym_ns m) 16 * 65536 / 2
      let only (q : PtpPort) (t : State) : Prop := t.pport m = q ∧ t = { s with regs := t.regs, net := t.net };
      (p.st = 1 → s.fromParent m b = true →
        (type = 0 → fNum b 6 1 / 2 % 2 = 1 → receives (only { p with twoStep := some (seq, f.loc - ptpCorr b) })) ∧
        (type = 0 → fNum b 6 1 / 2 % 2 = 0 → receives (samples (ptpTime b 34 + ptpCorr b) f.loc)) ∧
        (∀ at_, type = 8 → p.twoStep = some (seq, at_) → receives (samples (ptpTime b 34 + ptpCorr b) at_)) ∧
        (∀ t1 t2 t3, type = 9 → p.delayReq = some (seq, some t3) → p.pair = some (t1, t2) → fNum b 44 10 = s.portId m →
          receives (only { p with delayReq := none, path := some (((t2 - t1) + (ptpTime b 34 - ptpCorr b - t3)) / 2) }))) ∧
      (type = 1 → p.st = 2 → s.drives = true → wire s → receives (fun t => (t.mac m).busy = true ∧ t.out = .netFrame m (s.ptpFrame m false
        (ptpHeader 0x9 0 (s.ptpDomain m) (fNum b 8 8) (s.portId m) seq 3 (bits (s.live.ptpWord m 2) 15 8)
          (ptpStamp f.ptp ++ beBytes (fNum b 20 10) 10))) :: s.out)) ∧
      (type = 0xB →
        let id := fNum b 20 10
        let d := [fNum b 47 1, fNum b 48 1, fNum b 49 1, fNum b 50 2, fNum b 52 1, fNum b 53 8, fNum b 61 2, id, s.portId m]
        let knows (l : List PtpForeign) (t : State) : Prop := (t.pport m).foreign = l ∧ t = { s with regs := t.regs, net := t.net }
        let mine := id / 65536 = s.clockId ∨ 255 ≤ fNum b 61 2
        (mine → receives (only p)) ∧
        (¬ mine → (∀ r ∈ p.foreign, r.id ≠ id) → p.foreign.length < 5 → receives (knows (p.foreign ++ [⟨id, d, s.now, none⟩]))) ∧
        (¬ mine → (∀ r ∈ p.foreign, r.id ≠ id) → 5 ≤ p.foreign.length → receives (only p)) ∧
        (∀ r, ¬ mine → p.foreign.find? (fun r => r.id = id) = some r →
          receives (knows (p.foreign.map (fun x => if x.id = id then ⟨id, d, s.now, some r.last⟩ else x))))) ∧
      (type = 0xC ∨ type = 0xD → receives (fun t => t.pport m = p ∧ Counted R.TIM_PTP_IGNORED_COUNT.off s t))

/-- R360..R362, R365, R366, R376..R381: the bases, LTC, tallies and gates. A base that has had no sample for its loss time goes to HOLDOVER
with its rate kept, or back from ACQUIRING; the holdover limit is told once. A good LTC codeword from LTC_IN (those of an audio channel come
with its samples, log entry 113) is one sample of TIMECODE: the first acquires, a run that
agrees steps the base, in LOCKED it steers the rate, and a run beyond the threshold steps it; a bad one is counted. An accepted tally
edge is stamped, as its base read at that instant, into the queue, or dropped from a full one and counted. A gate's pulse leaves, early by
the board's delay (R382), and spends its schedule; before its instant nothing happens. -/
def Obligations.TimeBases : Prop :=
  ∀ s : State, s.quiet →
    (∀ base : Fin 3, let w := followOf base
      let b := s.follow w;
      (b.st = 2 → s.baseLost w = true → Answers (exec (.timeBaseLoss base) s) (fun t =>
        t.follow w = { b with st := 3, holdSince := s.now, held := 0, limitSent := false, sampled := false, beyond := 0 } ∧
        t.time = (s.setFollow w (t.follow w)).time ∧ (w ≠ .drv → t.fget R.TIM_BASE_STATUS_state (followCode w) = 3 ∧
          t.fget R.TIM_BASE_STATUS_holdover_s (followCode w) = 0))) ∧
      (b.st = 1 → b.prior < 4 → s.baseLost w = true → Answers (exec (.timeBaseLoss base) s) (fun t =>
        t.follow w = { b with st := b.prior, run := 0, sampled := false, holdSince := s.now } ∧
        (w ≠ .drv → t.fget R.TIM_BASE_STATUS_state (followCode w) = b.prior))) ∧
      (b.st = 0 ∨ b.st = 3 ∨ s.baseLost w = false → Answers (exec (.timeBaseLoss base) s) (fun t => t = s)) ∧
      (let m := bits (s.tword 0x15 0 12) 23 0
       (b.st = 3 → m ≠ 0 → b.limitSent = false → m ≤ s.holdSeconds b → Answers (exec (.holdoverLimit base) s) (fun t =>
         t.time = (s.setFollow w { b with limitSent := true }).time)) ∧
       (b.st ≠ 3 ∨ m = 0 ∨ b.limitSent = true ∨ s.holdSeconds b < m → Answers (exec (.holdoverLimit base) s) (fun t => t = s)))) ∧
    (∀ (h mi se fr : Nat) (good audio : Bool) (ago : Nat), let w := s.tword 0x15 0 10
      let on := s.domOn .net && !s.isStandby && bits w 31 31 = 1 && decide (bits w 30 30 = 0) && !audio;
      (on = false → Answers (exec (.ltcCodeword h mi se fr good audio ago) s) (fun t => t = s)) ∧
      (on = true → good = false ∨ ltcValid s.ltcRate h mi se fr = false → s.mayCount R.TIM_LTC_ERR_COUNT.off →
        Answers (exec (.ltcCodeword h mi se fr good audio ago) s) (fun t =>
          OnlyRegs [R.TIM_LTC_ERR_COUNT.off] s t ∧ Counted R.TIM_LTC_ERR_COUNT.off s t)) ∧
      (on = true → good = true → ltcValid s.ltcRate h mi se fr = true →
        let hms := 3600 * h + 60 * mi + se
        let day := if hms = 0 ∧ s.time.ltcHms = some 86399 then s.time.ltcDay + 1 else s.time.ltcDay
        let master := ltcTime s.ltcRate (ltcCount s.ltcRate h mi se fr + day * ltcDayFrames s.ltcRate)
        let b := s.time.tcode
        let back : Int := (ago : Int) * 65536
        let o := b.t - back - master
        let at_ := s.time.loc.t - back
        let near := b.sampled && decide ((master - (b.lastMaster + (at_ - b.lastLocal))).natAbs ≤ 10000 * 65536)
        let need := bits w 20 17
        let b1 := { b with lastLocal := at_, lastMaster := master, sampled := true }
        let takes (q : Base) (P : State → Prop) : Prop := Answers (exec (.ltcCodeword h mi se fr good audio ago) s) (fun t =>
          t.time.tcode = q ∧ t.time.ltcHms = some hms ∧ t.time.ltcDay = day ∧
          t.rg (R.TIM_OFFSET.off 2) = BitVec.ofInt 32 (clampI (-2147483648) 2147483647 (o / 65536)) ∧
          s.tandem.ledger ++ [⟨ltcWaiting, 0, [twos master 64, twos (s.clockNow - back) 96]⟩] <+: t.tandem.ledger ∧ P t)
        let steps := takes { b1 with
          t := b.t - o, acc := 0, st := 2, run := 0, beyond := 0
          jumps := (s.time.loc.t, -o) :: b.jumps.filter (fun j => decide (s.time.loc.t - tallyBack < j.1)) } (Counted R.TIM_STEP_COUNT.off s);
        (b.st = 0 ∨ b.st = 3 → takes { b1 with
            st := 1, prior := b.st, run := 1, beyond := 0, held := if b.st = 3 then b.held + (s.now - b.holdSince) else 0 } (fun t =>
          t.fget R.TIM_BASE_STATUS_state 2 = 1)) ∧
        (b.st = 1 → let n := if near then b.run + 1 else 1
          (n < need → takes { b1 with run := n } (fun _ => True)) ∧ (need ≤ n → steps)) ∧
        (b.st = 2 →
          (s.beyondStep .tcode o = false → 0 < need → let acc := b.acc + o * (at_ - b.lastLocal)
            takes { b1 with acc := acc, beyond := 0, rate := servoRate o acc } (fun t =>
              t.rg (R.TIM_RATE.off 2) = BitVec.ofInt 32 (servoRate o acc))) ∧
          (s.beyondStep .tcode o = true → let n := if near then b.beyond + 1 else 1
            (n < need → takes { b1 with beyond := n } (fun _ => True)) ∧ (need ≤ n → steps))))) ∧
    (∀ (i : Fin 32) (rising : Bool) (ago : Nat),
      let lvl := if rising then s.time.tallyLevel ||| BitVec.ofNat 32 (2 ^ i.val)
        else s.time.tallyLevel &&& ~~~(BitVec.ofNat 32 (2 ^ i.val))
      let base := s.fget R.TIM_TALLY_CFG_base i
      let e : TallyEntry := { rising := rising, tally := i, base := base, frame := s.frameAt ago,
                              t := s.readingAt base (ago + s.fget R.TIM_TALLY_CFG_delay_ns i) };
      (s.edgeAccepted i rising ago = false → Answers (exec (.tallyEdge i rising ago) s) (fun t =>
        t = { s with time := { s.time with tallyLevel := lvl } })) ∧
      (s.edgeAccepted i rising ago = true → s.wakeOn R.PM_WAKE_CFG_tally_watch = false →
        let led := if s.fbit R.TIM_TALLY_CFG_ledger i then s.time.tallyLedger ++ [e] else s.time.tallyLedger
        (s.time.tally.length < 1024 → Answers (exec (.tallyEdge i rising ago) s) (fun t =>
          t.time = { s.time with tallyLevel := lvl, tallyLedger := led, tally := s.time.tally ++ [e] })) ∧
        (1024 ≤ s.time.tally.length → Answers (exec (.tallyEdge i rising ago) s) (fun t =>
          t.time = { s.time with tallyLevel := lvl, tallyLedger := led, tallyGap := s.time.tallyGap + 1 } ∧
          Counted R.TIM_TALLY_DROP_COUNT.off s t)))) ∧
    ∀ g : Fin 8, let x := s.gate g
      let mode := s.fget R.TIM_GATE_CFG_mode g
      let pulse (y : Gate) (P : State → Prop) : Prop := Answers (exec (.gatePulse g) s) (fun t => t.gate g = y ∧
        t.fget R.TIM_GATE_STATUS_late_last g = 0 ∧ (∀ j, j ≠ g.val → t.gate j = s.gate j) ∧ P t ∧
        (s.fbit R.TIM_CTRL_gate_enable = true → s.drives = true →
          Emission.gate g (s.fget R.TIM_GATE_WIDTH_NS g) (!(s.fbit R.TIM_GATE_CFG_low_active g)) ∈ t.out) ∧
        (s.fbit R.TIM_CTRL_gate_enable = false ∨ s.drives = false → s.domOn .sys = false → t.out = s.out))
      let off (t : State) : Prop := t.fbit R.TIM_GATE_STATUS_armed g = false ∧ t.fbit R.TIM_GATE_CFG_arm g = false ∧
        t.fget R.TIM_GATE_STATUS_remaining g = 0;
      let early : Int := (s.fget R.TIM_GATE_CFG_delay_ns g : Int) * 65536
      (x.armed = false ∨ (mode ≠ 3 ∧ s.reading (s.fget R.TIM_GATE_CFG_base g) < x.next - early) ∨
          (mode = 3 ∧ s.gateFrame g x.frame (fun t => decide (t ≤ s.clockNow)) = none) →
        Answers (exec (.gatePulse g) s) (fun t => t = s)) ∧
      (x.armed = true → mode = 3 → ∀ k, s.gateFrame g x.frame (fun t => decide (t ≤ s.clockNow)) = some k →
        pulse { x with frame := k + 1 } (fun _ => True)) ∧
      (x.armed = true → x.next - early ≤ s.reading (s.fget R.TIM_GATE_CFG_base g) → (mode = 1 → pulse {} off) ∧
        (mode = 2 → let per : Int := (s.fget R.TIM_GATE_PERIOD_NS g : Int) * 65536
          (x.endless = false → x.left ≤ 1 → pulse {} off) ∧
          (x.endless = false → 1 < x.left → x.left ≤ 65536 → pulse { x with left := x.left - 1, next := x.next + per } (fun t =>
            t.fget R.TIM_GATE_STATUS_remaining g = x.left - 1)) ∧
          (x.endless = true → pulse { x with left := 0, next := x.next + per } (fun t => t.fget R.TIM_GATE_STATUS_remaining g = 0))))

/-- R388, R391, R392, R395, R398, R405: the DisplayPort heads. HPD's rise and fall show and count; on an enabled output a rise reads the
EDID and starts training with the lanes and rate that the sink and the timing give, and a fall stops the output. A lost link trains
again. Training that ends shows its result. A raster frame is launched once its instant is reached: it sends the newest picture
complete for its frame, with its colorimetry and its columns of the panel, or black in service; with none, a blanked output sends the
idle pattern and counts; frame 0 at a change of timing takes the new one and sends idle, a standby taking it in silence. Asked to agree
to a sleep, an output sends the idle pattern from a raster frame 0 on. -/
def Obligations.RasterHeads : Prop :=
  ∀ (r : Fin 2) (s : State), s.quiet → let v := s.ro r
    let enabled := s.rasEnabled r
    let vector (t : State) : Prop := s.domOn .sys = true → t.fget R.GLB_IRQ_STATUS_source = s.fget R.GLB_IRQ_STATUS_source ||| 2 ^ 10
    let other (t : State) : Prop := ∀ q, q ≠ r.val → t.ro q = s.ro q
    let training (k : Nat × Nat) (t : State) : Prop :=
      let c := dpChoice k (s.live.rasClock (s.live.rasOf r)) (rasDeep (s.live.rasOf r))
      t.fbit R.RAS_OUT_STATUS_trained r = false ∧ t.fget R.RAS_OUT_STATUS_lanes r = c.1 ∧ t.fget R.RAS_OUT_STATUS_rate r = c.2 % 4
    let seen (b : Bool) (t : State) : Prop :=
      t.fbit R.RAS_OUT_STATUS_hpd r = b ∧ Counted (R.RAS_HPD_COUNT.off r) s t ∧ vector t ∧ other t;
    (s.domOn .cistern = false ∨ s.domOn .host = false → (∀ (l : Fin 5) (k : Fin 4) (e : List Byte), Answers (exec (.hpdRise r l k e) s) (fun t => t = s)) ∧
      Answers (exec (.hpdFall r) s) (fun t => t = s)) ∧
    (s.domOn .cistern = true → s.domOn .host = true → s.mayCount (R.RAS_HPD_COUNT.off r) →
      (∀ (l : Fin 5) (k : Fin 4) (e : List Byte), Answers (exec (.hpdRise r l k e) s) (fun t => seen true t ∧
        t.ro r = { v with sink := some (l.val, k.val), training := enabled, failed := false } ∧
        (enabled = true → training (l.val, k.val) t ∧
          ∀ i, i < 128 → (t.rg (R.RAS_EDID.off r i)).toNat = leNat ((e.drop (4 * i)).take 4)))) ∧
      Answers (exec (.hpdFall r) s) (fun t => seen false t ∧ t.fbit R.RAS_OUT_STATUS_trained r = false ∧
        t.ro r = { v with sink := none, training := false, failed := false } ∧ (enabled = true → Emission.raster r 2 ∈ t.out))) ∧
    (∀ k, enabled = true → v.sink = some k → s.mayCount (R.RAS_RETRAIN_COUNT.off r) → Answers (exec (.irqHpd r) s) (fun t =>
      training k t ∧ t.ro r = { v with training := true, failed := false } ∧ other t ∧
      Counted (R.RAS_RETRAIN_COUNT.off r) s t ∧ t = { s with regs := t.regs, ras := t.ras })) ∧
    (enabled = false ∨ v.sink = none → Answers (exec (.irqHpd r) s) (fun t => t = s)) ∧
    (∀ good, (v.training = true → Answers (exec (.linkTrainingDone r good) s) (fun t =>
        t.fbit R.RAS_OUT_STATUS_trained r = good ∧ vector t ∧ other t ∧ t.ro r = { v with training := false, failed := !good })) ∧
      (v.training = false → Answers (exec (.linkTrainingDone r good) s) (fun t => t = s))) ∧
    ∀ j : Fin 4, let launch (P : State → Prop) : Prop := Answers (exec (.rasterFrameLaunch r j) s) P
      let due := if s.rasRuns then s.rasDue r j else none;
      (due = none → launch (fun t => t = s)) ∧
      ∀ n, due = some n →
        let kept : RasOut := if j = 0 then { v with shown := n } else v;
        (∀ c, j = 0 → v.landing n = some c →
          let later := v.changes.filter (fun d => decide (c.frame < d.frame))
          let taken (t : State) : Prop := other t ∧ (t.ro r).scan = c.words ∧ (t.ro r).clock = c.clock ∧ (t.ro r).changes = later ∧
            (t.ro r).shown = n ∧ (t.ro r).pics = v.pics.filter (fun p => (c :: later).any (fun d => rasSame p.words d.words));
          (s.rasDrives = true → launch (fun t => taken t ∧ t.fbit R.RAS_OUT_STATUS_blanking r = rasOn c.words ∧
            Emission.raster r (if rasOn c.words then 0 else 2) ∈ t.out ∧ Counted (R.RAS_BLANK_COUNT.off r) s t)) ∧
          (s.rasDrives = false → launch (fun t => taken t ∧ t = { s with ras := t.ras }))) ∧
        (j ≠ 0 ∨ v.landing n = none →
          let same (t : State) : Prop := other t ∧ t.ro r = kept
          let scans := s.rasDrives && rasOn v.scan && (decide (j = 0) || decide (j.val < rasMult v.scan));
          (scans = false → launch (fun t => same t ∧ t = { s with ras := t.ras })) ∧
          (scans = true → s.quiesced 0x09 = true → j = 0 ∨ v.idle = true → launch (fun t => other t ∧
            t.ro r = { kept with idle := true } ∧ t = { s with ras := t.ras, out := t.out } ∧
            (v.idle = false → t.out = .raster r 0 :: s.out) ∧ (v.idle = true → t.out = s.out))) ∧
          (scans = true → s.quiesced 0x09 = false ∨ (j ≠ 0 ∧ v.idle = false) →
            (∀ p, s.fbit R.RAS_OUT_STATUS_trained r = true → s.rasShown r n = some p →
              let picture := Emission.raster r (if v.mode = 2 then 3 else 1) (bits (rw p.words 0) 24 23)
                (if r = 1 ∧ rasSplit p.words = true then rasHa p.words else 0) (rasHa p.words)
              launch (fun t => picture ∈ t.out ∧ same t ∧ t.fbit R.RAS_OUT_STATUS_blanking r = false ∧
                (j ≠ 0 → t = { s with regs := t.regs, out := picture :: s.out, ras := t.ras }))) ∧
            (s.fbit R.RAS_OUT_STATUS_trained r = false ∨ s.rasShown r n = none →
              (j = 0 → s.fbit R.RAS_OUT_STATUS_blanking r = true → launch (fun t => Emission.raster r 0 ∈ t.out ∧ same t ∧
                Counted (R.RAS_BLANK_COUNT.off r) s t)) ∧
              (j ≠ 0 ∨ s.fbit R.RAS_OUT_STATUS_blanking r = false → launch (fun t => same t ∧ t = { s with ras := t.ras })))))

/-! ### Basins (chapter 14) -/

/-- R408..R416: MARK, ECHO and the tree. A MARK goes down every joined port; one not answered is missed. An ECHO gives its port's
delay. A MARK from the parent is answered, its skew shown, and a frame number that is not this device's is taken at the next
instant and counted. JOIN, a child's own or one that it forwards, is answered by the root within the limits and passed up by others; an
ACCEPT gives the address, with which a device that has arrived at a barrier sends its ARRIVE, or is passed down to the device that
asked. The loss of a child takes its subtree off. A message that does not parse is counted. How a JOIN is counted among the devices known
is the model's choice (log entry 68). -/
def Obligations.BasinMarks : Prop :=
  ∀ s : State, s.quiet →
    let sends (k : Nat) (m : BsnMsg) (t : State) : Prop := Emission.dravud k (m.bytes.map (fun b => b.toNat)) ∈ t.out
    let others (k : Nat) (t : State) : Prop := ∀ j, j ≠ k → t.bport j = s.bport j;
    (let on := s.domOn .net && (s.joined || s.isRoot) && s.drives
     let paired := s.paired && s.role = roleActive && s.siphonOn
     (on = true → Answers (exec .markSend s) (fun t =>
       t = { s with basin := { s.basin with ports := t.basin.ports }, out := t.out, sluice := t.sluice } ∧
       (paired = false → t.sluice = s.sluice) ∧
       (∀ k ∈ s.children, let p := s.bport k
         sends k (s.msgOf 0x01 0 s.nextFrame (leBytes p.d16 4)) t ∧
         t.bport k = { p with marked := true, missed := if p.marked then p.missed + 1 else p.missed }) ∧
       ∀ k, k ∉ s.children → t.bport k = s.bport k)) ∧
     (on = false → paired = false → Answers (exec .markSend s) (fun t => t = s))) ∧
    (∀ (port : Fin 17) (b : List Byte) (x : BitVec 32), s.domOn .net = true →
      (bsnParse b = none → ∀ o ∈ [exec (.basinMark port b) s, exec (.basinEcho port b x) s, exec (.basinJoin port b) s,
          exec (.basinAccept port b) s], Answers o (Counted R.BSN_MSG_ERR_COUNT.off s)) ∧
      ∀ m, bsnParse b = some m →
        (m.type = 2 → port.val < 16 → s.childOn port = true →
          let d := ((x.toNat : Int) - 16000 + 16 * sint (s.fget R.BSN_PORT_ASYM_asym_ns port) 12) / 2
          Answers (exec (.basinEcho port b x) s) (fun t => others port t ∧ t.fget R.BSN_PORT_STATUS_d_ns port = twos (d / 16) 15 ∧
            t.bport port = { s.bport port with d16 := twos d 32, marked := false, missed := 0 } ∧
            t = { s with regs := t.regs, basin := { s.basin with ports := t.basin.ports } })) ∧
        (m.type = 1 → port.val = 16 → s.joined = true → s.isRoot = false →
          let ahead := s.period / 2 - sint (lNum m.payload 0 4) 32 * 4096
          Answers (exec (.basinMark port b) s) (fun t => sends 16 (s.msgOf 0x02 0 m.frame []) t ∧
            t.fget R.BSN_PORT_STATUS_skew_ns 16 = twos (clampI (-16384) 16383 (s.skewOf ahead / 65536)) 15 ∧
            t.basin.skewed = decide (1000 * 65536 < (s.skewOf ahead).natAbs) ∧ (s.lockSource ≠ 3 → t.time = s.time) ∧
            (s.lockSource = 3 → t.time.drv.sampled = true ∧ t.time.drv.lastMaster = s.latticeNear (s.time.drv.t + ahead)) ∧
            let slip := decide (m.frame ≠ s.nextFrame) && decide (s.basin.take ≠ some m.frame)
            (slip = true → t.basin.take = some m.frame ∧ t.basin.takeJoin = s.basin.takeJoin ∧ Counted R.BSN_SLIP_COUNT.off s t) ∧
            (slip = false → t.basin.take = s.basin.take ∧ t.rg R.BSN_SLIP_COUNT.off = s.rg R.BSN_SLIP_COUNT.off))) ∧
        (m.type = 3 → port.val < 16 → s.fget R.BSN_CTRL_down_enable / 2 ^ port.val % 2 = 1 → s.fbit R.BSN_CTRL_basin_enable = true →
          s.drives = true →
          let own := decide (m.origin = 0)
          let n := lNum m.payload 0 2
          let depth := lNum m.payload 2 2
          let address := if own then s.childAddr port else m.origin
          let p := (s.bport port).accept address n (addrDepth address - (addrDepth s.bAddr + 1) + depth)
          let total := s.subtree + p.devices - if s.childOn port then (s.bport port).devices else 0;
          (own = true → 3 ≤ addrDepth s.bAddr → Answers (exec (.basinJoin port b) s) (fun t => t.basin = s.basin ∧
            sends port (s.msgOf 0x04 0 s.frame (leBytes 0 2) true) t)) ∧
          (own = false ∨ addrDepth s.bAddr < 3 → s.basin.joins = [] →
            (s.isRoot = true → own = true ∨ s.childOn port = true → total ≤ 4096 → addrDepth address + depth ≤ 3 →
              Answers (exec (.basinJoin port b) s) (fun t =>
                sends port (s.msgOf 0x04 0 s.frame (leBytes address 2)) t ∧ t.basin.joins = [] ∧ t.childOn port = true ∧ others port t ∧
                t.bport port = if own then { p with marked := false, missed := 0 } else p)) ∧
            (s.isRoot = true → own = true ∨ s.childOn port = true → 4096 < total ∨ 3 < addrDepth address + depth →
              Answers (exec (.basinJoin port b) s) (fun t =>
                sends port (s.msgOf 0x04 0 s.frame (leBytes address 2) true) t ∧ t.basin = s.basin)) ∧
            (s.isRoot = false → s.joined = true → Answers (exec (.basinJoin port b) s) (fun t =>
              t.basin.joins = [{ address := address, devices := n, depth := depth, port := port, own := own, sent := true }] ∧
              sends 16 { s.msgOf 0x03 0 0 (leBytes n 2 ++ leBytes depth 2) with origin := address } t)))) ∧
        (m.type = 4 → port.val = 16 → s.fbit R.BSN_CTRL_basin_enable = true → s.isRoot = false →
          (s.joined = false → m.refused = true → Answers (exec (.basinAccept port b) s) (fun t => t.basin = s.basin ∧
            t.joined = false ∧ Counted R.BSN_JOIN_REFUSED_COUNT.off s t)) ∧
          (s.joined = false → m.refused = false → s.basin.joins = [] → Answers (exec (.basinAccept port b) s) (fun t => t.joined = true ∧
            t.bAddr = lNum m.payload 0 2 ∧ t.fbit R.BSN_PORT_STATUS_child 16 = true ∧
            t.basin = { s.basin with take := some m.frame, takeJoin := true } ∧ t.fget R.BSN_SUBTREE_devices = t.subtree % 8192 ∧
            ∀ id, s.basin.barrier = some id → s.basin.arrived = true → s.children = [] →
              sends 16 (t.msgOf 0x07 id 0 (leBytes 1 2)) t)) ∧
          (∀ j, s.joined = true → s.basin.joins.find? (fun j => j.sent && j.address = lNum m.payload 0 2) = some j → s.drives = true →
            j.port < 16 → Answers (exec (.basinAccept port b) s) (fun t => sends j.port m t ∧
              t.basin.joins = s.basin.joins.filter (fun q => q ≠ j) ∧
              (m.refused = true → t.basin.ports = s.basin.ports) ∧
              (m.refused = false → others j.port t ∧
                let p := (s.bport j.port).accept j.address j.devices (addrDepth j.address - (addrDepth s.bAddr + 1) + j.depth)
                (j.own = true → t.fbit R.BSN_PORT_STATUS_child j.port = true ∧
                  t.bport j.port = { p with marked := false, missed := 0 }) ∧
                (j.own = false → t.bport j.port = p)))))) ∧
    (let asks := s.domOn .net && s.fbit R.BSN_CTRL_basin_enable && !s.isRoot && !s.joined
     let request (t : State) : Prop := t.out = .dravud 16 ((s.msgOf 0x03 0 0 (leBytes s.subtree 2 ++ leBytes s.subDepth 2)).bytes.map
       (fun b => b.toNat)) :: s.out;
     (asks = true → s.fbit R.BSN_PORT_STATUS_link 16 = true → Answers (exec .joinRetry s) (fun t =>
       request t ∧ t = { s with out := t.out })) ∧
     (asks = false ∨ s.fbit R.BSN_PORT_STATUS_link 16 = false → Answers (exec .joinRetry s) (fun t => t = s)) ∧
     ∀ k : Fin 17, s.domOn .net = true → Answers (exec (.dravudLinkUp k) s) (fun t => t = { s with regs := t.regs, out := t.out } ∧
       t.fbit R.BSN_PORT_STATUS_link k = true ∧ (∀ o, o ≠ R.BSN_PORT_STATUS.off k → t.rg o = s.rg o) ∧
       (k.val = 16 → asks = true → request t) ∧ (k.val < 16 ∨ asks = false → t.out = s.out))) ∧
    ∀ (k : Fin 17) (segment : Bool), s.domOn .net = true →
      (segment = true ∨ (k.val < 16 ∧ 4 ≤ (s.bport k).missed) → s.basin.op = 0 → s.basin.barrier = none ∨ s.basin.arrived = false →
        Answers (exec (.dravudChildLoss k segment) s) (fun t => t.fbit R.BSN_PORT_STATUS_child k = false ∧ t.bport k = {} ∧ others k t ∧
          (segment = true → t.fbit R.BSN_PORT_STATUS_link k = false) ∧
          (s.fbit R.BSN_PORT_STATUS_child k = true → Counted R.BSN_LINK_LOSS_COUNT.off s t) ∧
          (k.val = 16 → t.joined = false ∧ t.bAddr = 0) ∧
          (k.val < 16 → t.basin.joins = s.basin.joins.filter (fun j => j.port ≠ k.val) ∧
            t.basin.lost = if s.basin.barrier.isSome then s.basin.lost + (s.bport k).devices else s.basin.lost))) ∧
      (segment = false → k.val = 16 ∨ (s.bport k).missed < 4 → Answers (exec (.dravudChildLoss k segment) s) (fun t => t = s))

/-- R417..R422: the basin's operations. A start is discarded and counted while one is BUSY, refused off the root, and changes nothing
where the written `op` names another. At the root, SNAPSHOT, RESET and COMMIT take the next number and the first frame whose
cut lies far enough ahead, and go down to every child; as received they go on down and act, and results come up in REPORT. Arrivals
at a barrier are summed upward, and the devices below a child that do not arrive with it are lost; the root releases, with the count of
those. A broadcast goes down and joins the queue of 16, or is dropped and counted. -/
def Obligations.BasinOps : Prop :=
  ∀ s : State, s.quiet →
    let sends (k : Nat) (m : BsnMsg) (t : State) : Prop := Emission.dravud k (m.bytes.map (fun b => b.toNat)) ∈ t.out
    let down (m : BsnMsg) (t : State) : Prop := s.drives = true → ∀ k ∈ s.children, sends k m t
    let ended (st n : Nat) (t : State) : Prop := t.opState = st ∧ t.fget R.BSN_OP_STATUS_count = n % 8192;
    (∀ (req : Requester) (v : Word), s.domOn .net = true →
      let op := getBits v 31 28
      let snap := exec (.bsnOpSnapshot req v) s
      let reset := exec (.bsnOpReset req v) s
      let bcast := exec (.bsnOpBroadcast req v) s
      let barrier := exec (.bsnOpBarrier req v) s
      let commit := exec (.bsnOpCommit req v) s
      let starts : List (Nat × Host.Outcome State Fault Refusal) := [(1, commit), (2, snap), (3, barrier), (4, bcast), (5, reset)]
      let id := (s.basin.ops + 1) % 2 ^ 32
      let framed (f : Nat) (t : State) : Prop := (t.rg R.BSN_OP_FRAME_LO.off).toNat = f % 2 ^ 32 ∧
        (t.rg R.BSN_OP_FRAME_HI.off).toNat = f / 2 ^ 32 % 2 ^ 32 ∧ t.basin.ops = id
      let free : Prop := s.opState ≠ opBusy ∧ s.isRoot = true;
      (∀ e ∈ starts, (op ≠ e.1 → Answers e.2 (fun t => t = s)) ∧
        (op = e.1 → s.opState = opBusy → Answers e.2 (fun t => t.basin = s.basin ∧ t.opState = opBusy)) ∧
        (op = e.1 → e.1 ≠ 3 → s.opState ≠ opBusy → s.isRoot = false → Answers e.2 (fun t => t = { s with regs := t.regs } ∧
          t.opState = opRefused))) ∧
      (op = 2 → free → let f := s.cutAfter s.period
        Answers snap (fun t => framed f t ∧ down (s.msgOf 0x06 id f []) t ∧ t.basin.snaps = s.basin.snaps ++ [f] ∧
          (s.children = [] → ended opDone 0 t ∧ t.basin.op = 0) ∧
          (s.children ≠ [] → ended opBusy 0 t ∧ t.basin.op = 2 ∧ t.basin.opId = id ∧ t.basin.own = some 0))) ∧
      (op = 5 → free → let f := s.cutAfter resetLead
        Answers reset (fun t => framed f t ∧ down (s.msgOf 0x0A id f []) t ∧ t.basin.resetAt = some f ∧ ended opDone 0 t)) ∧
      (op = 1 → free → let f := s.cutAfter s.period
        let scope := s.fget R.BSN_OP_ARG
        Answers commit (fun t => framed f t ∧ down (s.msgOf 0x05 id f (leBytes scope 4)) t ∧ t.rings.nextId = s.rings.nextId + 1 ∧
          (s.children = [] → commitOk (basinWords scope f) = false → ended opPartial 1 t) ∧
          (s.children ≠ [] → ended opBusy 0 t ∧ t.basin.op = 1 ∧ t.basin.opId = id ∧ t.basin.own.isSome = true))) ∧
      (op = 4 → free → let n := getBits v 8 0
        (1 ≤ n → n ≤ 256 → Answers bcast (fun t => down (s.msgOf 0x09 0 0 (s.bcastData n)) t ∧ ended opDone 0 t ∧ t.basin = s.basin)) ∧
        (n = 0 ∨ 256 < n → Answers bcast (fun t => t.opState = opRefused ∧ t.basin = s.basin ∧ t.out = s.out))) ∧
      (op = 3 → s.opState ≠ opBusy → let id := s.fget R.BSN_OP_ARG
        (∀ q, s.basin.barrier = some q → q ≠ id → Answers barrier (fun t => t.opState = opIdle ∧ t.basin = s.basin ∧
          Counted R.BSN_MSG_ERR_COUNT.off s t)) ∧
        (s.basin.barrier = none ∨ s.basin.barrier = some id →
          (∀ k ∈ s.children, (s.bport k).arrived = none → Answers barrier (fun t => t.basin.barrier = some id ∧ t.basin.arrived = true ∧
            t.basin.ports = s.basin.ports ∧ ended opBusy 0 t)) ∧
          (s.children = [] → s.isRoot = false → s.joined = true → Answers barrier (fun t => t.basin.barrier = some id ∧
            t.basin.arrived = true ∧ ended opBusy 0 t ∧ sends 16 (s.msgOf 0x07 id 0 (leBytes 1 2)) t)) ∧
          (s.children = [] → s.isRoot = true → s.basin.barrier = none ∨ s.basin.lost = 0 → Answers barrier (fun t =>
            t.basin.barrier = none ∧ t.basin.arrived = false ∧ ended opDone 0 t))))) ∧
    ∀ (port : Fin 17) (b : List Byte), s.domOn .net = true →
      (bsnParse b = none → ∀ o ∈ [exec (.basinCommit port b) s, exec (.basinSnapshot port b) s, exec (.basinArrive port b) s,
          exec (.basinRelease port b) s, exec (.basinBcast port b) s, exec (.basinReset port b) s, exec (.basinReport port b) s],
        Answers o (Counted R.BSN_MSG_ERR_COUNT.off s)) ∧
      ∀ m, bsnParse b = some m →
        (port.val = 16 → s.joined = true → s.isRoot = false →
          let begins (op : Nat) (o : Host.Outcome State Fault Refusal) (P : State → Prop) : Prop := Answers o (fun t => down m t ∧ P t ∧
            (s.children ≠ [] → t.basin.op = op ∧ t.basin.opId = m.id ∧ t.basin.own.isSome = true))
          let reports (n : Nat) (t : State) : Prop := s.children = [] → t.basin.op = 0 ∧ sends 16 (s.msgOf 0x0B m.id 0 (leBytes n 2)) t;
          (m.type = 6 → begins 2 (exec (.basinSnapshot port b) s) (fun t => t.basin.snaps = s.basin.snaps ++ [m.frame] ∧ reports 0 t)) ∧
          (m.type = 5 → begins 1 (exec (.basinCommit port b) s) (fun t => t.rings.nextId = s.rings.nextId + 1 ∧
            (commitOk (basinWords (lNum m.payload 0 4) m.frame) = false → reports 1 t))) ∧
          (m.type = 0x0A → Answers (exec (.basinReset port b) s) (fun t => down m t ∧
            t.basin = { s.basin with resetAt := some m.frame } ∧ t = { s with basin := t.basin, out := t.out }))) ∧
        (m.type = 9 → port.val = 16 →
          (s.basin.bcast.length < 16 → Answers (exec (.basinBcast port b) s) (fun t => down m t ∧
            t.basin = { s.basin with bcast := s.basin.bcast ++ [m.payload] } ∧
            t.fget R.BSN_BCAST_STATUS_entries = s.basin.bcast.length + 1)) ∧
          (16 ≤ s.basin.bcast.length → Answers (exec (.basinBcast port b) s) (fun t => down m t ∧ t.basin = s.basin ∧
            Counted R.BSN_BCAST_DROP_COUNT.off s t))) ∧
        (m.type = 8 → port.val = 16 →
          (s.basin.barrier = some m.id → Answers (exec (.basinRelease port b) s) (fun t => down m t ∧ t.basin.barrier = none ∧
            t.basin.arrived = false ∧ (s.basin.arrived = true → ended opDone 0 t))) ∧
          (s.basin.barrier ≠ some m.id → Answers (exec (.basinRelease port b) s) (fun t => down m t ∧ t = { s with out := t.out }))) ∧
        (m.type = 7 → port.val < 16 → s.childOn port = true →
          (∀ q, s.basin.barrier = some q → q ≠ m.id → Answers (exec (.basinArrive port b) s) (fun t => t.basin = s.basin ∧
            Counted R.BSN_MSG_ERR_COUNT.off s t)) ∧
          (s.basin.barrier = none ∨ s.basin.barrier = some m.id → let n := lNum m.payload 0 2
            let p := s.bport port
            let lost := (if s.basin.barrier = none then 0 else s.basin.lost) + (p.devices - n);
            (s.basin.arrived = false → Answers (exec (.basinArrive port b) s) (fun t => t.basin.barrier = some m.id ∧
              t.bport port = { p.left (s.childAddr port) n with arrived := some n } ∧ t.basin.lost = lost ∧
              ∀ j, j ≠ port.val → t.bport j = s.bport j)) ∧
            (s.basin.arrived = true → s.children = [port.val] →
              (s.isRoot = false → s.joined = true →
                Answers (exec (.basinArrive port b) s) (sends 16 (s.msgOf 0x07 m.id 0 (leBytes (1 + n) 2)))) ∧
              (s.isRoot = true → Answers (exec (.basinArrive port b) s) (fun t => t.basin.barrier = none ∧ t.basin.arrived = false ∧
                ended (if lost = 0 then opDone else opPartial) lost t ∧
                (s.drives = true → sends port (s.msgOf 0x08 m.id 0 (leBytes (1 + n) 2)) t)))))) ∧
        (m.type = 0x0B → port.val < 16 → s.childOn port = true → s.basin.op ≠ 0 → s.basin.opId = m.id → ∀ own, s.basin.own = some own →
          let n := own + lNum m.payload 0 2
          (s.children = [port.val] →
            (s.isRoot = true → Answers (exec (.basinReport port b) s) (fun t => t.basin.op = 0 ∧
              ended (if n = 0 then opDone else opPartial) n t)) ∧
            (s.isRoot = false → Answers (exec (.basinReport port b) s) (fun t => t.basin.op = 0 ∧
              sends 16 (s.msgOf 0x0B m.id 0 (leBytes n 2)) t))) ∧
          (∀ k ∈ s.children, k ≠ port.val → (s.bport k).report = none → Answers (exec (.basinReport port b) s) (fun t =>
            (t.bport port).report = some (lNum m.payload 0 2) ∧ t.basin.op = s.basin.op)))

/-! ### Tandem pairs (chapter 14) -/

/-- R424, R425, R427, R434..R438, R497, R498: roles, heartbeats and the link. A device that has been JOINING for 10 ms takes the role
that what it hears gives. Heartbeats, each with its tag, go out on both paths and TND_ACT toggles, and an ACTIVE device sends the instant
of its next frame; one received is noted, and one that does not authenticate counts and makes a standby NOT_CURRENT. A standby follows
the instants of its active. A miss counts. A declared failure takes over where that is allowed. FENCE and a younger ACTIVE make a STANDBY.
The link comes up with new keys, or renews spent ones, and loses them as it goes down; what leaves over it is sealed; RESYNC asks for, or
begins, the first pass. -/
def Obligations.TandemLink : Prop :=
  ∀ s : State, s.quiet → let q := s.tandem
    let key := s.sluice.showKey.isSome
    let heard := s.within q.heardAt 250000
    let unknown := s.within q.unknownAt 250000
    let hbMac := s.fget R.SIP_CTRL_hb_mac
    let arrives (eth : Bool) : Prop :=
      if eth then s.fbit R.SIP_CTRL_hb_eth_enable = true ∧ s.rxq hbMac 2 ≠ [] else q.link = true
    let took (eth : Bool) (t : State) : Prop := eth = true → t.rxq hbMac 2 = (s.rxq hbMac 2).drop 1
    let standby (t : State) : Prop := t.role = roleStandby ∧ t.fbit R.SIP_STATUS_current = false ∧ t.fget R.SIP_STATUS_cause = 8 ∧
      Counted R.SIP_NOT_CURRENT_COUNT.off s t ∧ t.rings.inbox = [] ∧ t.rings.flight = [] ∧ t.time.clock.evaluating = false ∧
      t.tandem.act = false ∧ (q.act = true → Emission.tndAct false ∈ t.out) ∧ t.tandem.ledger = [] ∧ t.tandem.incoming = [] ∧
      t.tandem.received = [] ∧ t.tandem.silent = false ∧ t.tandem.switching = false ∧ t.tandem.roleAt = s.now ∧
      t.tandem.started = false ∧ t.tandem.startHeld = false ∧ t.tandem.joining = true ∧ t.tandem.activeAt = some s.now ∧
      ∀ m, m < 4 → (t.mac m).txq = (s.mac m).txq.filter (fun i => !i.output)
    let active (t : State) : Prop := t.role = roleActive ∧ t.tandem.activeTime = s.time.ptp.t ∧ t.tandem.silent = false ∧
      t.tandem.roleAt = s.now ∧ t.time.ptp = s.time.ptp
    let unauth (t : State) : Prop := Counted R.SIP_AUTH_FAIL_COUNT.off s t ∧ t.tandem.keyTold = true ∧
      (s.isStandby = true → s.fbit R.SIP_STATUS_current = true → t.fbit R.SIP_STATUS_current = false ∧ t.fget R.SIP_STATUS_cause = 3 ∧
        Counted R.SIP_NOT_CURRENT_COUNT.off s t);
    (let due := s.paired && s.role = roleJoining && decide (10000000 ≤ nsSince s q.roleAt) && key
     (due = true → heard = true → q.peerRole = roleActive ∨ q.peerRole = roleJoining ∧ s.fbit R.SIP_CTRL_unit = true →
       Answers (exec .tandemJoinTimer s) standby) ∧
     (due = true → heard = true → q.peerRole = roleJoining → s.fbit R.SIP_CTRL_unit = false →
       Answers (exec .tandemJoinTimer s) active) ∧
     (due = true → heard = false → unknown = false → s.fbit R.SIP_CTRL_prefer_active = true → Answers (exec .tandemJoinTimer s) active) ∧
     (due = false ∨ heard = false ∧ (unknown = true ∨ s.fbit R.SIP_CTRL_prefer_active = false) →
       Answers (exec .tandemJoinTimer s) (fun t => t = s))) ∧
    (let goes := s.paired && !q.silent
     let toggled := (if s.role = roleActive then [Emission.tndAct (!q.act)] else [])
     let toggles (t : State) : Prop := t.tandem = { q with act := if s.role = roleActive then !q.act else q.act }
     (goes = true → s.sluice.showKey = none → Answers (exec .heartbeatSend s) (fun t => toggles t ∧
       t = { s with out := toggled ++ s.out, tandem := t.tandem })) ∧
     (∀ k, goes = true → s.sluice.showKey = some k →
       let body := pairBody k s.free 0x40 [s.role, s.frame, twos q.activeTime 96]
       let linked := if q.link then SealedUnits 0x40 body s else [];
       (s.fbit R.SIP_CTRL_hb_eth_enable = false → Answers (exec .heartbeatSend s) (fun t => toggles t ∧
         t = { s with out := toggled ++ linked ++ s.out, tandem := t.tandem, free := s.free + 1,
                      sluice := { s.sluice with siphUnits := s.sluice.siphUnits + linked.length } })) ∧
       (s.fbit R.SIP_CTRL_hb_eth_enable = true → s.macRuns hbMac = true → (s.mac hbMac).busy = false → (s.mac hbMac).txq = [] →
         s.fbit R.NET_MAC_STATUS_paused hbMac = false → s.nextDue hbMac = none → Answers (exec .heartbeatSend s) (fun t => toggles t ∧
           .netFrame hbMac (s.ownFrame hbMac Config.heartbeatDest 0x88B5 body) ∈ t.out ∧
           t.out.length = s.out.length + toggled.length + linked.length + 1))) ∧
     (goes = false → Answers (exec .heartbeatSend s) (fun t => t = s))) ∧
    (s.paired = true → s.role = roleActive → s.siphonOn = true → Answers (exec .markSend s) (fun t =>
      SealedUnits 0x42 (Config.siphonText 0x42 [s.nextFrame]) s <+: t.out)) ∧
    (∀ (eth auth : Bool) (role : Fin 4) (frame : BitVec 64) (since : Int) (ahead : Option Int),
      let takes (P : State → Prop) : Prop := Answers (exec (.heartbeatReceived eth auth role frame since ahead) s) P
      let noted (t : State) : Prop := t.tandem.heardAt = some s.now ∧ t.tandem.peerRole = role ∧ t.tandem.peerTime = since ∧
        t.tandem.failed = false ∧ t.fbit R.SIP_STATUS_peer_seen = true ∧
        t.tandem.activeAt = if role = roleActive then some s.now else q.activeAt;
      (¬ arrives eth ∨ s.paired = false → takes (fun t => t = s)) ∧
      (arrives eth → s.paired = true →
        (auth = false ∨ key = false → takes (fun t => unauth t ∧ took eth t ∧ t.tandem.unknownAt = some s.now ∧
          t.tandem.heardAt = q.heardAt)) ∧
        (auth = true → key = true →
          (s.role = roleActive → role = roleActive → q.activeTime < since → eth = false → takes (fun t => noted t ∧ standby t)) ∧
          (s.role = roleActive → role = roleActive → q.activeTime < since → eth = true → takes (fun t => noted t ∧
            t.role = roleStandby ∧ t.fbit R.SIP_STATUS_current = false)) ∧
          (s.role ≠ roleStandby → s.role ≠ roleActive ∨ role.val ≠ roleActive ∨ since ≤ q.activeTime → takes (fun t => noted t ∧
            took eth t ∧ t.role = s.role ∧ (eth = false → t = { s with regs := t.regs, tandem := t.tandem }))) ∧
          (s.role = roleStandby → role.val ≠ roleActive ∨ ahead = none → takes (fun t => noted t ∧ took eth t ∧ t.basin = s.basin ∧
            (eth = false → t.time = s.time))) ∧
          (s.role = roleStandby → role = roleActive → ahead.isSome = true → eth = false → takes (fun t => noted t ∧
            let n := frame.toNat + 1
            let moved := decide (n ≠ t.nextFrame) && decide (s.basin.take ≠ some n)
            t.tandem.joining = false ∧ t.basin.take = (if moved then some n else s.basin.take) ∧
            t.basin.takeJoin = (s.basin.takeJoin || (moved && q.joining)) ∧
            (moved = true → q.joining = false → Counted R.BSN_SLIP_COUNT.off s t) ∧
            (moved = false ∨ q.joining = true → t.rg R.BSN_SLIP_COUNT.off = s.rg R.BSN_SLIP_COUNT.off)))))) ∧
    (let missed := s.paired && q.heardAt.isSome && !(s.within q.heardAt 125000)
     (missed = true → s.mayCount R.SIP_HB_MISS_COUNT.off → Answers (exec .heartbeatMiss s) (fun t =>
       OnlyRegs [R.SIP_HB_MISS_COUNT.off] s t ∧ Counted R.SIP_HB_MISS_COUNT.off s t)) ∧
     (missed = false → Answers (exec .heartbeatMiss s) (fun t => t = s))) ∧
    (let gone := s.paired && s.isStandby && !q.failed && q.activeAt.isSome && !(s.within q.activeAt 250000) && !unknown
     let takes := s.fbit R.SIP_CTRL_auto_takeover && (s.fbit R.SIP_STATUS_current || s.fbit R.SIP_CTRL_takeover_stale)
     (gone = true → takes = true → s.ledgerWhole = true ∨ s.ledgerNext = false → Answers (exec .failureDeclared s) (fun t => active t ∧
       t.fbit R.SIP_STATUS_peer_seen = false ∧ Counted R.SIP_TAKEOVER_COUNT.off s t ∧ t.fbit R.SIP_STATUS_current = false ∧
       t.tandem.started = s.ledgerWhole ∧ t.tandem.startHeld = s.ledgerNext ∧
       t.tandem.incoming = (if s.ledgerNext then q.incoming else []) ∧ t.tandem.catchPhase = 0 ∧
       t.tandem.hush = some t.readFrame)) ∧
     (gone = true → takes = true → s.ledgerWhole = false → s.ledgerNext = true → Answers (exec .failureDeclared s) (fun t =>
       t.role = roleActive ∧ t.tandem.activeTime = s.time.ptp.t ∧ t.tandem.startHeld = false ∧ t.tandem.catchPhase = 0)) ∧
     (gone = true → takes = false → Answers (exec .failureDeclared s) (fun t => t.role = s.role ∧
       t.fbit R.SIP_STATUS_peer_seen = false ∧ t.tandem = { q with failed := true })) ∧
     (gone = false → Answers (exec .failureDeclared s) (fun t => t = s))) ∧
    (∀ auth, (s.paired = false ∨ ¬ arrives (!q.link) → Answers (exec (.fenceReceived auth) s) (fun t => t = s)) ∧
      (s.paired = true → arrives (!q.link) → auth = false ∨ key = false → Answers (exec (.fenceReceived auth) s) unauth) ∧
      (s.paired = true → arrives (!q.link) → auth = true → key = true →
        (s.isStandby = false → Answers (exec (.fenceReceived auth) s) (fun t => t.role = roleStandby ∧
          t.fbit R.SIP_STATUS_current = false ∧ (q.link = true → standby t))) ∧
        (s.isStandby = true → Answers (exec (.fenceReceived auth) s) (fun t => took (!q.link) t ∧ t.tandem = q ∧
          (q.link = true → t = s))))) ∧
    (∀ (req : Requester) (v : Word), s.domOn .net = true →
      (v.getLsbD 23 = false → Answers (exec (.switchover req v) s) (fun t => t = s)) ∧
      (v.getLsbD 23 = true → v.getLsbD 31 = true → s.fbit R.SIP_CTRL_tandem_enable = true → Answers (exec (.switchover req v) s) (fun t =>
        t = { s with regs := t.regs, tandem := { q with switching := q.switching || decide (s.role = roleActive) } } ∧
        t.rg R.SIP_CTRL.off = v &&& 0xFF000000 ∧ ∀ o, o ≠ R.SIP_CTRL.off → t.rg o = s.rg o))) ∧
    (∀ nonce, let own := (s.random 48).1
      (∀ k, s.sluice.showKey = some k → s.paired = true → q.link = false ∨ 2 ^ 32 ≤ s.sluice.siphUnits → s.drbgReady = true →
        Answers (exec (.siphonLinkUp nonce) s) (fun t => t.tandem = { q with link := true, keyTold := false } ∧
          t.sluice = { s.sluice with
            siph := some (if s.fbit R.SIP_CTRL_unit then siphKeys k nonce own else siphKeys k own nonce), siphUnits := 0 } ∧
          t.out = .siphon 0x50 (own.map (fun b => b.toNat)) :: s.out)) ∧
      (key = false ∨ s.paired = false ∨ q.link = true ∧ s.sluice.siphUnits < 2 ^ 32 ∨ s.drbgReady = false →
        Answers (exec (.siphonLinkUp nonce) s) (fun t => t = s))) ∧
    (q.link = true → Answers (exec .siphonLinkDown s) (fun t => t.tandem.link = false ∧ t.tandem.keyTold = false ∧
      t.sluice = { s.sluice with siph := none } ∧
      (s.isStandby = false ∨ s.fbit R.SIP_STATUS_current = false → t.tandem = { q with link := false, keyTold := false }) ∧
      (s.isStandby = true → s.fbit R.SIP_STATUS_current = true → t.fbit R.SIP_STATUS_current = false ∧ t.fget R.SIP_STATUS_cause = 7))) ∧
    (q.link = false → Answers (exec .siphonLinkDown s) (fun t => t = s)) ∧
    (∀ failed, (s.domOn .net = true → Answers (exec (.siphonLaneChange failed) s) (fun t =>
        t = { s with regs := t.regs, tandem := { q with laneErrors := if failed then q.laneErrors + 1 else q.laneErrors } } ∧
        t.fbit R.SIP_STATUS_one_lane = failed ∧ ∀ o, o ≠ R.SIP_STATUS.off → t.rg o = s.rg o)) ∧
      (s.domOn .net = false → Answers (exec (.siphonLaneChange failed) s) (fun t => t = s))) ∧
    ∀ auth, let on := s.paired && q.link
      (on = true → s.isStandby = true → s.fbit R.SIP_STATUS_current = false → Answers (exec (.resync auth) s) (fun t =>
        t = { s with tandem := { q with catchPhase := 0, incoming := [] }, sluice := t.sluice, out := t.out } ∧
        t.out = SealedUnits 0x51 (Config.siphonText 0x51 []) s ++ s.out)) ∧
      (on = true → s.role = roleActive → auth = true → Answers (exec (.resync auth) s) (fun t =>
        t = { s with regs := t.regs, tandem := { q with catchPhase := 1, pages := s.allPages, sentMem := [], takenMem := [], takenState := [] } } ∧
        t.fget R.SIP_CATCHUP_LEFT_pages = s.allPages.length % 2 ^ 18)) ∧
      (on = true → s.role = roleActive → auth = false → Answers (exec (.resync auth) s) unauth) ∧
      (on = false ∨ s.isStandby = true ∧ s.fbit R.SIP_STATUS_current = true → Answers (exec (.resync auth) s) (fun t => t = s))

/-- R428..R434, R439: what a standby does with what its active sends. A ledger record joins the ledger in transfer, CUT beginning one, and the
frame's own where that is being evaluated. A frame whose ledger is not there at its start, or not complete at its deadline, is over
the bound: counted, and NOT_CURRENT. A frame done with ends its evaluation and stages as its active did. Pages and engine state fill a
standby that catches up. Health records go out and are shown; 3 s without one, and failed tests, are told. -/
def Obligations.TandemLedger : Prop :=
  ∀ s : State, s.quiet → let q := s.tandem
    let c := s.time.clock
    let falls (cause : Nat) (t : State) : Prop := s.isStandby = true → s.fbit R.SIP_STATUS_current = true →
      t.fbit R.SIP_STATUS_current = false ∧ t.fget R.SIP_STATUS_cause = cause ∧ Counted R.SIP_NOT_CURRENT_COUNT.off s t
    let unauth (t : State) : Prop := Counted R.SIP_AUTH_FAIL_COUNT.off s t ∧ t.tandem.keyTold = true ∧ falls 3 t
    let hears := s.paired && q.link && s.isStandby;
    (∀ (auth : Bool) (kind : Fin 256) (key : Nat) (body : List Nat),
      (hears = true → auth = true → let r : LedgerRec := ⟨kind, key, body⟩
        let mine := q.reading && decide (kind.val ≠ 1)
        let l := if kind.val = 1 then [r] else q.incoming ++ [r]
        let size := (l.flatMap LedgerRec.bytes).length
        Answers (exec (.ledgerRecordReceived auth kind key body) s) (fun t =>
          t.tandem.incoming = l ∧ t.tandem.reading = mine ∧
          (kind.val = 0x0F → t.fget R.SIP_LEDGER_LAST = size % 2 ^ 32 ∧
            t.fget R.SIP_LEDGER_MAX = max size (s.fget R.SIP_LEDGER_MAX) % 2 ^ 32) ∧
          t.tandem.received = (if mine then q.received ++ [r] else q.received) ∧
          (kind.val ≠ 0x0B ∨ mine = false → t.rings.staged = s.rings.staged) ∧
          (kind.val = 0x0B → mine = true → t.rings.staged = s.rings.staged ++ [⟨key / 65536, key % 65536, body.getD 0 0,
            (body.drop 2).map (fun x => BitVec.ofNat 8 x), body.getD 1 0⟩]))) ∧
      (hears = true → auth = false → Answers (exec (.ledgerRecordReceived auth kind key body) s) (fun t => unauth t ∧
        t.tandem.incoming = q.incoming)) ∧
      (hears = false → Answers (exec (.ledgerRecordReceived auth kind key body) s) (fun t => t = s))) ∧
    (let starts := s.paired && s.isStandby && s.clockRuns && s.domOn .pix && (s.fbit R.SIP_STATUS_current || q.catchPhase = 3)
     let cut := q.incoming.find? (fun r => r.kind = 0x01)
     let tail := q.incoming.any (fun r => decide (0x0B ≤ r.kind))
     (starts = true → q.started = false → cut = none ∨ tail = false → Answers (exec .standbyFrameStart s) (fun t => falls 1 t ∧
       t.tandem.started = false ∧ t.tandem.incoming = q.incoming ∧ Counted R.SIP_OVER_BOUND_COUNT.off s t)) ∧
     (∀ r, starts = true → q.started = false → cut = some r → tail = true → Answers (exec .standbyFrameStart s) (fun t =>
       (t.fbit R.SIP_STATUS_current = s.fbit R.SIP_STATUS_current → t.tandem.started = true ∧ t.tandem.reading = true) ∧
       (cutShift r ≠ 0 ∨ s.basin.shift = 0 → t.tandem.eval = r.key) ∧ t.tandem.incoming = q.incoming)) ∧
     (starts = true → q.started = true → s.stageEarly = false → Answers (exec .standbyFrameStart s) (fun t =>
       t = { s with tandem := { q with startHeld := true } })) ∧
     (∀ r, starts = true → q.started = true → s.stageEarly = true → q.digestHeld = none → cut = some r → tail = true →
       Answers (exec .standbyFrameStart s) (fun t => t.fbit R.SIP_STATUS_current = s.fbit R.SIP_STATUS_current →
         t.tandem.digestHeld.isSome = true ∧ t.tandem.started = true ∧
         (cutShift r ≠ 0 ∨ s.basin.shift = 0 → t.tandem.eval = r.key))) ∧
     (starts = false → Answers (exec .standbyFrameStart s) (fun t => t = s))) ∧
    (let ends := s.clockRuns && s.domOn .pix
     let close := q.received.find? (fun r => r.kind = 0x0F)
     let done (t : State) : Prop := t.time.clock.stageFrame = max c.stageFrame q.eval ∧ t.time.clock.evaluating = false ∧
       t.time.clock.staged = false ∧ t.tandem.started = false ∧ t.tandem.eval = q.eval;
     (ends = true → q.digestHeld = some false → Answers (exec .standbyStagingDeadline s) (fun t => falls 2 t ∧
       t.tandem.digestHeld = none ∧ t.tandem.catchPhase = 0 ∧ Counted R.SIP_DIGEST_MISMATCH_COUNT.off s t)) ∧
     (ends = true → q.digestHeld = some true → Answers (exec .standbyStagingDeadline s) (fun t => t.tandem.digestHeld = none ∧
       t = { s with regs := t.regs, tandem := t.tandem } ∧
       (s.isStandby = true → q.catchPhase = 3 → t.fbit R.SIP_STATUS_current = true ∧ t.fget R.SIP_STATUS_cause = 0 ∧
         t.tandem.catchPhase = 0))) ∧
     (ends = true → q.digestHeld = none → q.started = true → q.startHeld = false → close = none →
       Answers (exec .standbyStagingDeadline s) (fun t => done t ∧ falls 1 t ∧ Counted R.SIP_OVER_BOUND_COUNT.off s t)) ∧
     (∀ r, ends = true → q.digestHeld = none → q.started = true → q.startHeld = false → close = some r →
       Answers (exec .standbyStagingDeadline s) (fun t => done t ∧ t.tandem.digestHeld = none ∧
         let ok := c.staged && r.body.getD 1 0 = 0
         t.time.clock.repeatNow = !ok ∧ t.time.clock.contentLast = if ok then q.eval else c.contentLast)) ∧
     (ends = true → q.digestHeld = none → q.started = true → q.startHeld = true → Answers (exec .standbyStagingDeadline s) (fun t =>
       t.tandem.startHeld = false)) ∧
     (ends = false ∨ q.digestHeld = none ∧ q.started = false → Answers (exec .standbyStagingDeadline s) (fun t => t = s))) ∧
    (∀ (auth : Bool) (pages : List (BitVec 18 × List Byte)) (engine : List EngineRec),
      let fills := hears && !(s.fbit R.SIP_STATUS_current) && s.domOn .res
      (fills = true → auth = true →
        let m := pages.foldl (fun m p => memWrite m (65536 * p.1.toNat) (p.2 ++ List.replicate (65536 - p.2.length) 0)) s.mem.reservoir
        (engine = [] → Answers (exec (.catchupPages auth pages engine) s) (fun t => t = { s with mem := { s.mem with reservoir := m } })) ∧
        (engine ≠ [] → Answers (exec (.catchupPages auth pages engine) s) (fun t =>
          t.tandem = { q with catchPhase := 3, takenState := engine } ∧ t.mem = { s.mem with reservoir := m } ∧
          t.basin = { s.basin with shift := 0 } ∧
          t.rg R.PF_CONTRIB_COUNT.off = BitVec.ofNat 32 t.live.contributors ∧
          ∀ o, o ≠ R.PF_CONTRIB_COUNT.off → (∀ r ∈ engine, o ≠ R.CMP_STATUS_flatten_pending.off r.key) → t.rg o = s.rg o))) ∧
      (fills = true → auth = false → Answers (exec (.catchupPages auth pages engine) s) unauth) ∧
      (fills = false → Answers (exec (.catchupPages auth pages engine) s) (fun t => t = s))) ∧
    (let sends := s.paired && s.siphonOn
     let corrected := s.fget R.DR_ECC_CORRECTED_COUNT 0 + s.fget R.DR_ECC_CORRECTED_COUNT 1
     let uncorrected := s.fget R.DR_ECC_UNCORR_COUNT 0 + s.fget R.DR_ECC_UNCORR_COUNT 1
     let words := [nsSince s q.roleAt / 1000000000 % 2 ^ 32,
       s.role * 2 ^ 29 + s.fget R.SIP_STATUS_current * 2 ^ 28 + s.fget R.SIP_STATUS_cause * 2 ^ 20,
       twos ((s.hottest.map (fun k => s.senTemp k)).getD 0) 32, q.tests, corrected - q.corrected + q.resCorrected,
       uncorrected - q.uncorrected + q.resUncorrected, q.laneErrors] ++ List.replicate 9 0
     let units := SealedUnits 0x52 (Config.siphonText 0x52 words) s
     (sends = true → Answers (exec .healthRecordSend s) (fun t =>
       t = { s with out := units ++ s.out, sluice := { s.sluice with siphUnits := s.sluice.siphUnits + units.length },
                    tandem := { q with tests := 0, laneErrors := 0, resCorrected := 0, resUncorrected := 0, corrected := corrected,
                                       uncorrected := uncorrected } })) ∧
     (sends = false → Answers (exec .healthRecordSend s) (fun t => t = s))) ∧
    (∀ (auth : Bool) (words : List Word), let on := s.paired && q.link
      (on = true → auth = true → Answers (exec (.healthRecordReceived auth words) s) (fun t =>
        t.tandem = { q with healthAt := s.now } ∧ (∀ i, i < 16 → t.rg (R.SIP_PEER_HEALTH.off i) = words.getD i 0) ∧
        (words.getD 3 0 = 0 → words.getD 5 0 = 0 → t = { s with regs := t.regs, tandem := t.tandem }))) ∧
      (on = true → auth = false → Answers (exec (.healthRecordReceived auth words) s) unauth) ∧
      (on = false → Answers (exec (.healthRecordReceived auth words) s) (fun t => t = s))) ∧
    (let due := s.paired && decide (3000000000 ≤ nsSince s q.healthAt)
     (due = true → Answers (exec .healthRecordTimeout s) (fun t => t.tandem = { q with healthAt := s.now })) ∧
     (due = false → Answers (exec .healthRecordTimeout s) (fun t => t = s))) ∧
    ∀ (unit : Fin 5) (good : Bool), let fails := s.paired && s.isStandby && !good
      (fails = true → Answers (exec (.standbySelfTest unit good) s) (fun t =>
        t = { s with tandem := { q with tests := q.tests ||| 2 ^ unit.val } })) ∧
      (fails = false → Answers (exec (.standbySelfTest unit good) s) (fun t => t = s))

/-! ### Rules of arithmetic and of counting -/

/-- R186: an n-bit code expands to 16 bits as the rule's quotient, rounded down; 8-bit codes expand to 257 times the code, which is
what `hk.wid8` does to each byte of its low lane, and 16-bit codes stand for themselves. -/
def Obligations.CodeExpansion : Prop :=
  (∀ n v : Nat, 0 < n → v < 2 ^ n → expand16 n v = (2 * 65535 * v + 2 ^ n - 1) / (2 * (2 ^ n - 1)) ∧
    (n = 8 → expand16 n v = 257 * v) ∧ (n = 16 → expand16 n v = v)) ∧
  ∀ (core : Fin 64) (rd rs1 : Fin 32) (s : State), s.coreReady core = true → let a := ((s.core core).xr rs1).toNat
    Answers (exec (.hkWid8 core rd rs1) s) (Retired core rd (laneWord (expand16 8 (a % 256)) (expand16 8 (a / 256 % 256))) s)

/-- R541: what one more count does to a spillway counter. One short of 0xFFFF_FFFF it reaches that value, and fault class SPILL_SAT
(0x25) goes once to the Silt trap, which is on, with the counter's BAR0 offset as origin; from there it holds. Below, it counts and
sends nothing. -/
def Obligations.SpillCounterSaturates : Prop :=
  ∀ (o : Nat) (s : State), isSpill o = true → s.domOn .sys = true → let t := s.bump o
    ((s.rg o).toNat = 0xFFFFFFFE → t.rg o = 0xFFFFFFFF ∧ t.silt.incoming = s.silt.incoming ++ [⟨0x25, o, 0⟩] ∧ t.bump o = t) ∧
    ((s.rg o).toNat = 0xFFFFFFFF → t = s) ∧
    ((s.rg o).toNat < 0xFFFFFFFE → (t.rg o).toNat = (s.rg o).toNat + 1 ∧ t = { s with regs := t.regs }) ∧
    ∀ p, p ≠ o → t.rg p = s.rg p
end

