-- ==== Sys2Proof/Laws/Maps.lean ====
section
/-! SUPPORT. The laws of the sparse maps and the memories: a read after a write, and the canonical form that every operation
keeps. -/

namespace Sys2Proof.Machine

open Sys2Proof

variable {β : Type}

/-! ### Reading -/

theorem mget_mdel_same (d : Nat → β) (m : List (Nat × β)) (k : Nat) : mget d (mdel k m) k = d k := by
  induction m with
  | nil => rfl
  | cons e t ih =>
    simp only [mdel]
    split
    · exact ih
    · next h => simp [mget, h, ih]

theorem mget_mdel_ne (d : Nat → β) (m : List (Nat × β)) {k j : Nat} (h : j ≠ k) : mget d (mdel k m) j = mget d m j := by
  induction m with
  | nil => rfl
  | cons e t ih =>
    simp only [mdel, mget]
    by_cases hk : e.1 = k
    · have : ¬ e.1 = j := fun hj => h (hj.symm.trans hk)
      simp [hk, ih, Ne.symm h]
    · rw [if_neg hk]
      simp only [mget, ih]

theorem mget_mins_same (d : Nat → β) (m : List (Nat × β)) (k : Nat) (v : β) (h : ∀ e ∈ m, e.1 ≠ k) :
    mget d (mins k v m) k = v := by
  induction m with
  | nil => simp [mins, mget]
  | cons e t ih =>
    simp only [mins]
    split
    · simp [mget]
    · simp only [mget, if_neg (h e List.mem_cons_self)]
      exact ih (fun x hx => h x (List.mem_cons_of_mem _ hx))

theorem mget_mins_ne (d : Nat → β) (m : List (Nat × β)) {k j : Nat} (v : β) (h : j ≠ k) :
    mget d (mins k v m) j = mget d m j := by
  induction m with
  | nil => simp [mins, mget, Ne.symm h]
  | cons e t ih =>
    simp only [mins]
    split
    · simp [mget, Ne.symm h]
    · simp [mget, ih]

theorem mdel_keys (m : List (Nat × β)) (k : Nat) : ∀ e ∈ mdel k m, e.1 ≠ k := by
  induction m with
  | nil => simp [mdel]
  | cons e t ih =>
    simp only [mdel]
    split
    · exact ih
    · next h =>
      intro x hx
      rcases List.mem_cons.1 hx with rfl | hx
      · exact h
      · exact ih x hx

theorem mdel_subset (m : List (Nat × β)) (k : Nat) : ∀ e ∈ mdel k m, e ∈ m := by
  induction m with
  | nil => simp [mdel]
  | cons e t ih =>
    simp only [mdel]
    split
    · exact fun x hx => List.mem_cons_of_mem _ (ih x hx)
    · intro x hx
      rcases List.mem_cons.1 hx with rfl | hx
      · exact List.mem_cons_self
      · exact List.mem_cons_of_mem _ (ih x hx)

/-- A read of the key written gives the value written. -/
@[simp] theorem mget_mset_same [DecidableEq β] (d : Nat → β) (m : List (Nat × β)) (k : Nat) (v : β) :
    mget d (mset d m k v) k = v := by
  unfold mset
  split
  · next h => rw [mget_mdel_same, h]
  · exact mget_mins_same d _ k v (mdel_keys m k)

/-- A write leaves every other key alone. -/
theorem mget_mset_ne [DecidableEq β] (d : Nat → β) (m : List (Nat × β)) {k j : Nat} (v : β) (h : j ≠ k) :
    mget d (mset d m k v) j = mget d m j := by
  unfold mset
  split
  · exact mget_mdel_ne d m h
  · rw [mget_mins_ne d _ v h, mget_mdel_ne d m h]

theorem mget_mset [DecidableEq β] (d : Nat → β) (m : List (Nat × β)) (k j : Nat) (v : β) :
    mget d (mset d m k v) j = if j = k then v else mget d m j := by
  split
  · next h => subst h; exact mget_mset_same d m j v
  · next h => exact mget_mset_ne d m v h

/-! ### The canonical form -/

/-- Keys strictly rising, said as a pairwise order. -/
theorem mrising_iff (m : List (Nat × β)) : mrising m = true ↔ m.Pairwise (fun a b => a.1 < b.1) := by
  induction m with
  | nil => simp [mrising]
  | cons e t ih =>
    cases t with
    | nil => simp [mrising]
    | cons f u =>
      simp only [mrising, Bool.and_eq_true, decide_eq_true_eq, ih, List.pairwise_cons, List.mem_cons]
      constructor
      · rintro ⟨hlt, hf, hu⟩
        refine ⟨?_, hf, hu⟩
        rintro x (rfl | hx)
        · exact hlt
        · exact Nat.lt_trans hlt (hf x hx)
      · rintro ⟨he, hf, hu⟩
        exact ⟨he f (Or.inl rfl), hf, hu⟩

theorem mwf_iff [DecidableEq β] (d : Nat → β) (m : List (Nat × β)) :
    mwf d m = true ↔ m.Pairwise (fun a b => a.1 < b.1) ∧ ∀ e ∈ m, e.2 ≠ d e.1 := by
  simp [mwf, mrising_iff]

theorem mdel_pairwise (m : List (Nat × β)) (k : Nat) (h : m.Pairwise (fun a b => a.1 < b.1)) :
    (mdel k m).Pairwise (fun a b => a.1 < b.1) := by
  induction m with
  | nil => simp [mdel]
  | cons e t ih =>
    have ht := List.pairwise_cons.1 h
    simp only [mdel]
    split
    · exact ih ht.2
    · exact List.pairwise_cons.2 ⟨fun x hx => ht.1 x (mdel_subset t k x hx), ih ht.2⟩

theorem mins_mem (m : List (Nat × β)) (k : Nat) (v : β) : ∀ e ∈ mins k v m, e = (k, v) ∨ e ∈ m := by
  induction m with
  | nil => simp [mins]
  | cons e t ih =>
    simp only [mins]
    split
    · simp
    · intro x hx
      rcases List.mem_cons.1 hx with rfl | hx
      · exact Or.inr List.mem_cons_self
      · exact (ih x hx).imp id (List.mem_cons_of_mem _)

theorem mins_pairwise (m : List (Nat × β)) (k : Nat) (v : β) (hk : ∀ e ∈ m, e.1 ≠ k)
    (h : m.Pairwise (fun a b => a.1 < b.1)) : (mins k v m).Pairwise (fun a b => a.1 < b.1) := by
  induction m with
  | nil => simp [mins]
  | cons e t ih =>
    have ht := List.pairwise_cons.1 h
    have hke := hk e List.mem_cons_self
    simp only [mins]
    split
    · next hlt =>
      refine List.pairwise_cons.2 ⟨?_, h⟩
      intro x hx
      rcases List.mem_cons.1 hx with rfl | hx
      · exact hlt
      · exact Nat.lt_trans hlt (ht.1 x hx)
    · refine List.pairwise_cons.2 ⟨?_, ih (fun x hx => hk x (List.mem_cons_of_mem _ hx)) ht.2⟩
      intro x hx
      rcases mins_mem t k v x hx with rfl | hx
      · change e.1 < k; omega
      · exact ht.1 x hx

/-- A write keeps the canonical form. -/
theorem mwf_mset [DecidableEq β] {d : Nat → β} {m : List (Nat × β)} (k : Nat) (v : β) (h : mwf d m = true) :
    mwf d (mset d m k v) = true := by
  rw [mwf_iff] at h ⊢
  unfold mset
  split
  · exact ⟨mdel_pairwise m k h.1, fun e he => h.2 e (mdel_subset m k e he)⟩
  · next hv =>
    refine ⟨mins_pairwise _ k v (mdel_keys m k) (mdel_pairwise m k h.1), ?_⟩
    intro e he
    rcases mins_mem _ k v e he with rfl | he
    · exact hv
    · exact h.2 e (mdel_subset m k e he)

/-- A part of a canonical map is canonical. -/
theorem mwf_filter [DecidableEq β] {d : Nat → β} {m : List (Nat × β)} (p : Nat × β → Bool) (h : mwf d m = true) :
    mwf d (m.filter p) = true := by
  rw [mwf_iff] at h ⊢
  exact ⟨h.1.filter p, fun e he => h.2 e ((List.mem_filter.1 he).1)⟩

/-! ### Memories -/

@[simp] theorem memByte_memSet_same (m : Memory) (a : Nat) (b : Byte) : memByte (memSet m a b) a = b :=
  mget_mset_same _ _ _ _

theorem memByte_memSet_ne (m : Memory) {a x : Nat} (b : Byte) (h : x ≠ a) : memByte (memSet m a b) x = memByte m x :=
  mget_mset_ne _ _ _ h

theorem memSet_wf {m : Memory} (a : Nat) (b : Byte) (h : m.wf = true) : (memSet m a b).wf = true := mwf_mset a b h

theorem memWrite_wf {m : Memory} (a : Nat) (l : List Byte) (h : m.wf = true) : (memWrite m a l).wf = true := by
  induction l generalizing m a with
  | nil => exact h
  | cons b t ih => exact ih (a + 1) (memSet_wf a b h)

theorem memPut_wf {m : Memory} (a n v : Nat) (h : m.wf = true) : (memPut m a n v).wf = true := memWrite_wf a _ h

/-- A write leaves every byte outside its range alone. -/
theorem memByte_memWrite_out (m : Memory) (a : Nat) (l : List Byte) {x : Nat} (h : x < a ∨ a + l.length ≤ x) :
    memByte (memWrite m a l) x = memByte m x := by
  induction l generalizing m a with
  | nil => rfl
  | cons b t ih =>
    simp only [List.length_cons] at h
    rw [memWrite, ih (memSet m a b) (a + 1) (by omega), memByte_memSet_ne m b (by omega)]

/-- A byte written reads back. -/
theorem memByte_memWrite_in (m : Memory) (a : Nat) (l : List Byte) {i : Nat} (h : i < l.length) :
    memByte (memWrite m a l) (a + i) = l[i] := by
  induction l generalizing m a i with
  | nil => simp at h
  | cons b t ih =>
    cases i with
    | zero => rw [memWrite, memByte_memWrite_out _ _ _ (by omega)]; simp
    | succ j =>
      have hj : j < t.length := by simpa using h
      have := ih (memSet m a b) (a + 1) hj
      rw [memWrite, show a + (j + 1) = a + 1 + j by omega, this]
      simp

end Sys2Proof.Machine
end

