-- ==== Sys2Proof/Laws/State.lean ====
section
/-! SUPPORT. What the named updates of a state leave as it was: one lemma for each update and each field that it does not
write, so that no proof unfolds an update. -/

namespace Sys2Proof.Machine

open Sys2Proof

variable (s : State)

section setRg

variable (a : Nat) (v : Word)

@[simp] theorem State.setRg_latches : (s.setRg a v).latches = s.latches := (rfl)
@[simp] theorem State.setRg_heldHi : (s.setRg a v).heldHi = s.heldHi := (rfl)
@[simp] theorem State.setRg_mem : (s.setRg a v).mem = s.mem := (rfl)
@[simp] theorem State.setRg_pcie : (s.setRg a v).pcie = s.pcie := (rfl)
@[simp] theorem State.setRg_rings : (s.setRg a v).rings = s.rings := (rfl)
@[simp] theorem State.setRg_tables : (s.setRg a v).tables = s.tables := (rfl)
@[simp] theorem State.setRg_cores : (s.setRg a v).cores = s.cores := (rfl)
@[simp] theorem State.setRg_ditch : (s.setRg a v).ditch = s.ditch := (rfl)
@[simp] theorem State.setRg_silt : (s.setRg a v).silt = s.silt := (rfl)
@[simp] theorem State.setRg_gauges : (s.setRg a v).gauges = s.gauges := (rfl)
@[simp] theorem State.setRg_time : (s.setRg a v).time = s.time := (rfl)
@[simp] theorem State.setRg_fuses : (s.setRg a v).fuses = s.fuses := (rfl)
@[simp] theorem State.setRg_nodes : (s.setRg a v).nodes = s.nodes := (rfl)
@[simp] theorem State.setRg_fabric : (s.setRg a v).fabric = s.fabric := (rfl)
@[simp] theorem State.setRg_tandem : (s.setRg a v).tandem = s.tandem := (rfl)
@[simp] theorem State.setRg_cmp : (s.setRg a v).cmp = s.cmp := (rfl)
@[simp] theorem State.setRg_video : (s.setRg a v).video = s.video := (rfl)
@[simp] theorem State.setRg_net : (s.setRg a v).net = s.net := (rfl)
@[simp] theorem State.setRg_water : (s.setRg a v).water = s.water := (rfl)
@[simp] theorem State.setRg_die : (s.setRg a v).die = s.die := (rfl)
@[simp] theorem State.setRg_ras : (s.setRg a v).ras = s.ras := (rfl)
@[simp] theorem State.setRg_basin : (s.setRg a v).basin = s.basin := (rfl)
@[simp] theorem State.setRg_power : (s.setRg a v).power = s.power := (rfl)
@[simp] theorem State.setRg_sluice : (s.setRg a v).sluice = s.sluice := (rfl)
@[simp] theorem State.setRg_live_ : (s.setRg a v).live_ = s.live_ := (rfl)
@[simp] theorem State.setRg_store : (s.setRg a v).store = s.store := (rfl)
@[simp] theorem State.setRg_thermal : (s.setRg a v).thermal = s.thermal := (rfl)
@[simp] theorem State.setRg_hourMs : (s.setRg a v).hourMs = s.hourMs := (rfl)
@[simp] theorem State.setRg_extest : (s.setRg a v).extest = s.extest := (rfl)
@[simp] theorem State.setRg_domains : (s.setRg a v).domains = s.domains := (rfl)
@[simp] theorem State.setRg_free : (s.setRg a v).free = s.free := (rfl)
@[simp] theorem State.setRg_out : (s.setRg a v).out = s.out := (rfl)
@[simp] theorem State.setRg_pending : (s.setRg a v).pending = s.pending := (rfl)

end setRg

section fset

variable (f : RF) (v i j : Nat)

@[simp] theorem State.fset_latches : (s.fset f v i j).latches = s.latches := (rfl)
@[simp] theorem State.fset_heldHi : (s.fset f v i j).heldHi = s.heldHi := (rfl)
@[simp] theorem State.fset_mem : (s.fset f v i j).mem = s.mem := (rfl)
@[simp] theorem State.fset_pcie : (s.fset f v i j).pcie = s.pcie := (rfl)
@[simp] theorem State.fset_rings : (s.fset f v i j).rings = s.rings := (rfl)
@[simp] theorem State.fset_tables : (s.fset f v i j).tables = s.tables := (rfl)
@[simp] theorem State.fset_cores : (s.fset f v i j).cores = s.cores := (rfl)
@[simp] theorem State.fset_ditch : (s.fset f v i j).ditch = s.ditch := (rfl)
@[simp] theorem State.fset_silt : (s.fset f v i j).silt = s.silt := (rfl)
@[simp] theorem State.fset_gauges : (s.fset f v i j).gauges = s.gauges := (rfl)
@[simp] theorem State.fset_time : (s.fset f v i j).time = s.time := (rfl)
@[simp] theorem State.fset_fuses : (s.fset f v i j).fuses = s.fuses := (rfl)
@[simp] theorem State.fset_nodes : (s.fset f v i j).nodes = s.nodes := (rfl)
@[simp] theorem State.fset_fabric : (s.fset f v i j).fabric = s.fabric := (rfl)
@[simp] theorem State.fset_tandem : (s.fset f v i j).tandem = s.tandem := (rfl)
@[simp] theorem State.fset_cmp : (s.fset f v i j).cmp = s.cmp := (rfl)
@[simp] theorem State.fset_video : (s.fset f v i j).video = s.video := (rfl)
@[simp] theorem State.fset_net : (s.fset f v i j).net = s.net := (rfl)
@[simp] theorem State.fset_water : (s.fset f v i j).water = s.water := (rfl)
@[simp] theorem State.fset_die : (s.fset f v i j).die = s.die := (rfl)
@[simp] theorem State.fset_ras : (s.fset f v i j).ras = s.ras := (rfl)
@[simp] theorem State.fset_basin : (s.fset f v i j).basin = s.basin := (rfl)
@[simp] theorem State.fset_power : (s.fset f v i j).power = s.power := (rfl)
@[simp] theorem State.fset_sluice : (s.fset f v i j).sluice = s.sluice := (rfl)
@[simp] theorem State.fset_live_ : (s.fset f v i j).live_ = s.live_ := (rfl)
@[simp] theorem State.fset_store : (s.fset f v i j).store = s.store := (rfl)
@[simp] theorem State.fset_thermal : (s.fset f v i j).thermal = s.thermal := (rfl)
@[simp] theorem State.fset_hourMs : (s.fset f v i j).hourMs = s.hourMs := (rfl)
@[simp] theorem State.fset_extest : (s.fset f v i j).extest = s.extest := (rfl)
@[simp] theorem State.fset_domains : (s.fset f v i j).domains = s.domains := (rfl)
@[simp] theorem State.fset_free : (s.fset f v i j).free = s.free := (rfl)
@[simp] theorem State.fset_out : (s.fset f v i j).out = s.out := (rfl)
@[simp] theorem State.fset_pending : (s.fset f v i j).pending = s.pending := (rfl)

end fset

section emit

variable (e : Emission)

@[simp] theorem State.emit_regs : (s.emit e).regs = s.regs := (rfl)
@[simp] theorem State.emit_latches : (s.emit e).latches = s.latches := (rfl)
@[simp] theorem State.emit_heldHi : (s.emit e).heldHi = s.heldHi := (rfl)
@[simp] theorem State.emit_mem : (s.emit e).mem = s.mem := (rfl)
@[simp] theorem State.emit_pcie : (s.emit e).pcie = s.pcie := (rfl)
@[simp] theorem State.emit_rings : (s.emit e).rings = s.rings := (rfl)
@[simp] theorem State.emit_tables : (s.emit e).tables = s.tables := (rfl)
@[simp] theorem State.emit_cores : (s.emit e).cores = s.cores := (rfl)
@[simp] theorem State.emit_ditch : (s.emit e).ditch = s.ditch := (rfl)
@[simp] theorem State.emit_silt : (s.emit e).silt = s.silt := (rfl)
@[simp] theorem State.emit_gauges : (s.emit e).gauges = s.gauges := (rfl)
@[simp] theorem State.emit_time : (s.emit e).time = s.time := (rfl)
@[simp] theorem State.emit_fuses : (s.emit e).fuses = s.fuses := (rfl)
@[simp] theorem State.emit_nodes : (s.emit e).nodes = s.nodes := (rfl)
@[simp] theorem State.emit_fabric : (s.emit e).fabric = s.fabric := (rfl)
@[simp] theorem State.emit_tandem : (s.emit e).tandem = s.tandem := (rfl)
@[simp] theorem State.emit_cmp : (s.emit e).cmp = s.cmp := (rfl)
@[simp] theorem State.emit_video : (s.emit e).video = s.video := (rfl)
@[simp] theorem State.emit_net : (s.emit e).net = s.net := (rfl)
@[simp] theorem State.emit_water : (s.emit e).water = s.water := (rfl)
@[simp] theorem State.emit_die : (s.emit e).die = s.die := (rfl)
@[simp] theorem State.emit_ras : (s.emit e).ras = s.ras := (rfl)
@[simp] theorem State.emit_basin : (s.emit e).basin = s.basin := (rfl)
@[simp] theorem State.emit_power : (s.emit e).power = s.power := (rfl)
@[simp] theorem State.emit_sluice : (s.emit e).sluice = s.sluice := (rfl)
@[simp] theorem State.emit_live_ : (s.emit e).live_ = s.live_ := (rfl)
@[simp] theorem State.emit_store : (s.emit e).store = s.store := (rfl)
@[simp] theorem State.emit_thermal : (s.emit e).thermal = s.thermal := (rfl)
@[simp] theorem State.emit_hourMs : (s.emit e).hourMs = s.hourMs := (rfl)
@[simp] theorem State.emit_extest : (s.emit e).extest = s.extest := (rfl)
@[simp] theorem State.emit_domains : (s.emit e).domains = s.domains := (rfl)
@[simp] theorem State.emit_free : (s.emit e).free = s.free := (rfl)
@[simp] theorem State.emit_pending : (s.emit e).pending = s.pending := (rfl)

end emit

section setRing

variable (n : Nat) (v : Ring)

@[simp] theorem State.setRing_regs : (s.setRing n v).regs = s.regs := (rfl)
@[simp] theorem State.setRing_latches : (s.setRing n v).latches = s.latches := (rfl)
@[simp] theorem State.setRing_heldHi : (s.setRing n v).heldHi = s.heldHi := (rfl)
@[simp] theorem State.setRing_mem : (s.setRing n v).mem = s.mem := (rfl)
@[simp] theorem State.setRing_pcie : (s.setRing n v).pcie = s.pcie := (rfl)
@[simp] theorem State.setRing_tables : (s.setRing n v).tables = s.tables := (rfl)
@[simp] theorem State.setRing_cores : (s.setRing n v).cores = s.cores := (rfl)
@[simp] theorem State.setRing_ditch : (s.setRing n v).ditch = s.ditch := (rfl)
@[simp] theorem State.setRing_silt : (s.setRing n v).silt = s.silt := (rfl)
@[simp] theorem State.setRing_gauges : (s.setRing n v).gauges = s.gauges := (rfl)
@[simp] theorem State.setRing_time : (s.setRing n v).time = s.time := (rfl)
@[simp] theorem State.setRing_fuses : (s.setRing n v).fuses = s.fuses := (rfl)
@[simp] theorem State.setRing_nodes : (s.setRing n v).nodes = s.nodes := (rfl)
@[simp] theorem State.setRing_fabric : (s.setRing n v).fabric = s.fabric := (rfl)
@[simp] theorem State.setRing_tandem : (s.setRing n v).tandem = s.tandem := (rfl)
@[simp] theorem State.setRing_cmp : (s.setRing n v).cmp = s.cmp := (rfl)
@[simp] theorem State.setRing_video : (s.setRing n v).video = s.video := (rfl)
@[simp] theorem State.setRing_net : (s.setRing n v).net = s.net := (rfl)
@[simp] theorem State.setRing_water : (s.setRing n v).water = s.water := (rfl)
@[simp] theorem State.setRing_die : (s.setRing n v).die = s.die := (rfl)
@[simp] theorem State.setRing_ras : (s.setRing n v).ras = s.ras := (rfl)
@[simp] theorem State.setRing_basin : (s.setRing n v).basin = s.basin := (rfl)
@[simp] theorem State.setRing_power : (s.setRing n v).power = s.power := (rfl)
@[simp] theorem State.setRing_sluice : (s.setRing n v).sluice = s.sluice := (rfl)
@[simp] theorem State.setRing_live_ : (s.setRing n v).live_ = s.live_ := (rfl)
@[simp] theorem State.setRing_store : (s.setRing n v).store = s.store := (rfl)
@[simp] theorem State.setRing_thermal : (s.setRing n v).thermal = s.thermal := (rfl)
@[simp] theorem State.setRing_hourMs : (s.setRing n v).hourMs = s.hourMs := (rfl)
@[simp] theorem State.setRing_extest : (s.setRing n v).extest = s.extest := (rfl)
@[simp] theorem State.setRing_domains : (s.setRing n v).domains = s.domains := (rfl)
@[simp] theorem State.setRing_free : (s.setRing n v).free = s.free := (rfl)
@[simp] theorem State.setRing_out : (s.setRing n v).out = s.out := (rfl)
@[simp] theorem State.setRing_pending : (s.setRing n v).pending = s.pending := (rfl)

end setRing

section setCore

variable (n : Nat) (v : Core)

@[simp] theorem State.setCore_regs : (s.setCore n v).regs = s.regs := (rfl)
@[simp] theorem State.setCore_latches : (s.setCore n v).latches = s.latches := (rfl)
@[simp] theorem State.setCore_heldHi : (s.setCore n v).heldHi = s.heldHi := (rfl)
@[simp] theorem State.setCore_mem : (s.setCore n v).mem = s.mem := (rfl)
@[simp] theorem State.setCore_pcie : (s.setCore n v).pcie = s.pcie := (rfl)
@[simp] theorem State.setCore_rings : (s.setCore n v).rings = s.rings := (rfl)
@[simp] theorem State.setCore_tables : (s.setCore n v).tables = s.tables := (rfl)
@[simp] theorem State.setCore_ditch : (s.setCore n v).ditch = s.ditch := (rfl)
@[simp] theorem State.setCore_silt : (s.setCore n v).silt = s.silt := (rfl)
@[simp] theorem State.setCore_gauges : (s.setCore n v).gauges = s.gauges := (rfl)
@[simp] theorem State.setCore_time : (s.setCore n v).time = s.time := (rfl)
@[simp] theorem State.setCore_fuses : (s.setCore n v).fuses = s.fuses := (rfl)
@[simp] theorem State.setCore_nodes : (s.setCore n v).nodes = s.nodes := (rfl)
@[simp] theorem State.setCore_fabric : (s.setCore n v).fabric = s.fabric := (rfl)
@[simp] theorem State.setCore_tandem : (s.setCore n v).tandem = s.tandem := (rfl)
@[simp] theorem State.setCore_cmp : (s.setCore n v).cmp = s.cmp := (rfl)
@[simp] theorem State.setCore_video : (s.setCore n v).video = s.video := (rfl)
@[simp] theorem State.setCore_net : (s.setCore n v).net = s.net := (rfl)
@[simp] theorem State.setCore_water : (s.setCore n v).water = s.water := (rfl)
@[simp] theorem State.setCore_die : (s.setCore n v).die = s.die := (rfl)
@[simp] theorem State.setCore_ras : (s.setCore n v).ras = s.ras := (rfl)
@[simp] theorem State.setCore_basin : (s.setCore n v).basin = s.basin := (rfl)
@[simp] theorem State.setCore_power : (s.setCore n v).power = s.power := (rfl)
@[simp] theorem State.setCore_sluice : (s.setCore n v).sluice = s.sluice := (rfl)
@[simp] theorem State.setCore_live_ : (s.setCore n v).live_ = s.live_ := (rfl)
@[simp] theorem State.setCore_store : (s.setCore n v).store = s.store := (rfl)
@[simp] theorem State.setCore_thermal : (s.setCore n v).thermal = s.thermal := (rfl)
@[simp] theorem State.setCore_hourMs : (s.setCore n v).hourMs = s.hourMs := (rfl)
@[simp] theorem State.setCore_extest : (s.setCore n v).extest = s.extest := (rfl)
@[simp] theorem State.setCore_domains : (s.setCore n v).domains = s.domains := (rfl)
@[simp] theorem State.setCore_free : (s.setCore n v).free = s.free := (rfl)
@[simp] theorem State.setCore_out : (s.setCore n v).out = s.out := (rfl)
@[simp] theorem State.setCore_pending : (s.setCore n v).pending = s.pending := (rfl)

end setCore

section setXr

variable (n d : Nat) (v : Word)

@[simp] theorem State.setXr_regs : (s.setXr n d v).regs = s.regs := (rfl)
@[simp] theorem State.setXr_latches : (s.setXr n d v).latches = s.latches := (rfl)
@[simp] theorem State.setXr_heldHi : (s.setXr n d v).heldHi = s.heldHi := (rfl)
@[simp] theorem State.setXr_mem : (s.setXr n d v).mem = s.mem := (rfl)
@[simp] theorem State.setXr_pcie : (s.setXr n d v).pcie = s.pcie := (rfl)
@[simp] theorem State.setXr_rings : (s.setXr n d v).rings = s.rings := (rfl)
@[simp] theorem State.setXr_tables : (s.setXr n d v).tables = s.tables := (rfl)
@[simp] theorem State.setXr_ditch : (s.setXr n d v).ditch = s.ditch := (rfl)
@[simp] theorem State.setXr_silt : (s.setXr n d v).silt = s.silt := (rfl)
@[simp] theorem State.setXr_gauges : (s.setXr n d v).gauges = s.gauges := (rfl)
@[simp] theorem State.setXr_time : (s.setXr n d v).time = s.time := (rfl)
@[simp] theorem State.setXr_fuses : (s.setXr n d v).fuses = s.fuses := (rfl)
@[simp] theorem State.setXr_nodes : (s.setXr n d v).nodes = s.nodes := (rfl)
@[simp] theorem State.setXr_fabric : (s.setXr n d v).fabric = s.fabric := (rfl)
@[simp] theorem State.setXr_tandem : (s.setXr n d v).tandem = s.tandem := (rfl)
@[simp] theorem State.setXr_cmp : (s.setXr n d v).cmp = s.cmp := (rfl)
@[simp] theorem State.setXr_video : (s.setXr n d v).video = s.video := (rfl)
@[simp] theorem State.setXr_net : (s.setXr n d v).net = s.net := (rfl)
@[simp] theorem State.setXr_water : (s.setXr n d v).water = s.water := (rfl)
@[simp] theorem State.setXr_die : (s.setXr n d v).die = s.die := (rfl)
@[simp] theorem State.setXr_ras : (s.setXr n d v).ras = s.ras := (rfl)
@[simp] theorem State.setXr_basin : (s.setXr n d v).basin = s.basin := (rfl)
@[simp] theorem State.setXr_power : (s.setXr n d v).power = s.power := (rfl)
@[simp] theorem State.setXr_sluice : (s.setXr n d v).sluice = s.sluice := (rfl)
@[simp] theorem State.setXr_live_ : (s.setXr n d v).live_ = s.live_ := (rfl)
@[simp] theorem State.setXr_store : (s.setXr n d v).store = s.store := (rfl)
@[simp] theorem State.setXr_thermal : (s.setXr n d v).thermal = s.thermal := (rfl)
@[simp] theorem State.setXr_hourMs : (s.setXr n d v).hourMs = s.hourMs := (rfl)
@[simp] theorem State.setXr_extest : (s.setXr n d v).extest = s.extest := (rfl)
@[simp] theorem State.setXr_domains : (s.setXr n d v).domains = s.domains := (rfl)
@[simp] theorem State.setXr_free : (s.setXr n d v).free = s.free := (rfl)
@[simp] theorem State.setXr_out : (s.setXr n d v).out = s.out := (rfl)
@[simp] theorem State.setXr_pending : (s.setXr n d v).pending = s.pending := (rfl)

end setXr

section setTask

variable (n : Nat) (v : Option Task)

@[simp] theorem State.setTask_regs : (s.setTask n v).regs = s.regs := (rfl)
@[simp] theorem State.setTask_latches : (s.setTask n v).latches = s.latches := (rfl)
@[simp] theorem State.setTask_heldHi : (s.setTask n v).heldHi = s.heldHi := (rfl)
@[simp] theorem State.setTask_mem : (s.setTask n v).mem = s.mem := (rfl)
@[simp] theorem State.setTask_pcie : (s.setTask n v).pcie = s.pcie := (rfl)
@[simp] theorem State.setTask_rings : (s.setTask n v).rings = s.rings := (rfl)
@[simp] theorem State.setTask_tables : (s.setTask n v).tables = s.tables := (rfl)
@[simp] theorem State.setTask_cores : (s.setTask n v).cores = s.cores := (rfl)
@[simp] theorem State.setTask_silt : (s.setTask n v).silt = s.silt := (rfl)
@[simp] theorem State.setTask_gauges : (s.setTask n v).gauges = s.gauges := (rfl)
@[simp] theorem State.setTask_time : (s.setTask n v).time = s.time := (rfl)
@[simp] theorem State.setTask_fuses : (s.setTask n v).fuses = s.fuses := (rfl)
@[simp] theorem State.setTask_nodes : (s.setTask n v).nodes = s.nodes := (rfl)
@[simp] theorem State.setTask_fabric : (s.setTask n v).fabric = s.fabric := (rfl)
@[simp] theorem State.setTask_tandem : (s.setTask n v).tandem = s.tandem := (rfl)
@[simp] theorem State.setTask_cmp : (s.setTask n v).cmp = s.cmp := (rfl)
@[simp] theorem State.setTask_video : (s.setTask n v).video = s.video := (rfl)
@[simp] theorem State.setTask_net : (s.setTask n v).net = s.net := (rfl)
@[simp] theorem State.setTask_water : (s.setTask n v).water = s.water := (rfl)
@[simp] theorem State.setTask_die : (s.setTask n v).die = s.die := (rfl)
@[simp] theorem State.setTask_ras : (s.setTask n v).ras = s.ras := (rfl)
@[simp] theorem State.setTask_basin : (s.setTask n v).basin = s.basin := (rfl)
@[simp] theorem State.setTask_power : (s.setTask n v).power = s.power := (rfl)
@[simp] theorem State.setTask_sluice : (s.setTask n v).sluice = s.sluice := (rfl)
@[simp] theorem State.setTask_live_ : (s.setTask n v).live_ = s.live_ := (rfl)
@[simp] theorem State.setTask_store : (s.setTask n v).store = s.store := (rfl)
@[simp] theorem State.setTask_thermal : (s.setTask n v).thermal = s.thermal := (rfl)
@[simp] theorem State.setTask_hourMs : (s.setTask n v).hourMs = s.hourMs := (rfl)
@[simp] theorem State.setTask_extest : (s.setTask n v).extest = s.extest := (rfl)
@[simp] theorem State.setTask_domains : (s.setTask n v).domains = s.domains := (rfl)
@[simp] theorem State.setTask_free : (s.setTask n v).free = s.free := (rfl)
@[simp] theorem State.setTask_out : (s.setTask n v).out = s.out := (rfl)
@[simp] theorem State.setTask_pending : (s.setTask n v).pending = s.pending := (rfl)

end setTask

section setReservoir

variable (v : Memory)

@[simp] theorem State.setReservoir_regs : (s.setReservoir v).regs = s.regs := (rfl)
@[simp] theorem State.setReservoir_latches : (s.setReservoir v).latches = s.latches := (rfl)
@[simp] theorem State.setReservoir_heldHi : (s.setReservoir v).heldHi = s.heldHi := (rfl)
@[simp] theorem State.setReservoir_pcie : (s.setReservoir v).pcie = s.pcie := (rfl)
@[simp] theorem State.setReservoir_rings : (s.setReservoir v).rings = s.rings := (rfl)
@[simp] theorem State.setReservoir_tables : (s.setReservoir v).tables = s.tables := (rfl)
@[simp] theorem State.setReservoir_cores : (s.setReservoir v).cores = s.cores := (rfl)
@[simp] theorem State.setReservoir_ditch : (s.setReservoir v).ditch = s.ditch := (rfl)
@[simp] theorem State.setReservoir_silt : (s.setReservoir v).silt = s.silt := (rfl)
@[simp] theorem State.setReservoir_gauges : (s.setReservoir v).gauges = s.gauges := (rfl)
@[simp] theorem State.setReservoir_time : (s.setReservoir v).time = s.time := (rfl)
@[simp] theorem State.setReservoir_fuses : (s.setReservoir v).fuses = s.fuses := (rfl)
@[simp] theorem State.setReservoir_nodes : (s.setReservoir v).nodes = s.nodes := (rfl)
@[simp] theorem State.setReservoir_fabric : (s.setReservoir v).fabric = s.fabric := (rfl)
@[simp] theorem State.setReservoir_tandem : (s.setReservoir v).tandem = s.tandem := (rfl)
@[simp] theorem State.setReservoir_cmp : (s.setReservoir v).cmp = s.cmp := (rfl)
@[simp] theorem State.setReservoir_video : (s.setReservoir v).video = s.video := (rfl)
@[simp] theorem State.setReservoir_net : (s.setReservoir v).net = s.net := (rfl)
@[simp] theorem State.setReservoir_water : (s.setReservoir v).water = s.water := (rfl)
@[simp] theorem State.setReservoir_die : (s.setReservoir v).die = s.die := (rfl)
@[simp] theorem State.setReservoir_ras : (s.setReservoir v).ras = s.ras := (rfl)
@[simp] theorem State.setReservoir_basin : (s.setReservoir v).basin = s.basin := (rfl)
@[simp] theorem State.setReservoir_power : (s.setReservoir v).power = s.power := (rfl)
@[simp] theorem State.setReservoir_sluice : (s.setReservoir v).sluice = s.sluice := (rfl)
@[simp] theorem State.setReservoir_live_ : (s.setReservoir v).live_ = s.live_ := (rfl)
@[simp] theorem State.setReservoir_store : (s.setReservoir v).store = s.store := (rfl)
@[simp] theorem State.setReservoir_thermal : (s.setReservoir v).thermal = s.thermal := (rfl)
@[simp] theorem State.setReservoir_hourMs : (s.setReservoir v).hourMs = s.hourMs := (rfl)
@[simp] theorem State.setReservoir_extest : (s.setReservoir v).extest = s.extest := (rfl)
@[simp] theorem State.setReservoir_domains : (s.setReservoir v).domains = s.domains := (rfl)
@[simp] theorem State.setReservoir_free : (s.setReservoir v).free = s.free := (rfl)
@[simp] theorem State.setReservoir_out : (s.setReservoir v).out = s.out := (rfl)
@[simp] theorem State.setReservoir_pending : (s.setReservoir v).pending = s.pending := (rfl)

end setReservoir

section resPut

variable (a : Nat) (b : List Byte)

@[simp] theorem State.resPut_regs : (s.resPut a b).regs = s.regs := (rfl)
@[simp] theorem State.resPut_latches : (s.resPut a b).latches = s.latches := (rfl)
@[simp] theorem State.resPut_heldHi : (s.resPut a b).heldHi = s.heldHi := (rfl)
@[simp] theorem State.resPut_pcie : (s.resPut a b).pcie = s.pcie := (rfl)
@[simp] theorem State.resPut_rings : (s.resPut a b).rings = s.rings := (rfl)
@[simp] theorem State.resPut_tables : (s.resPut a b).tables = s.tables := (rfl)
@[simp] theorem State.resPut_cores : (s.resPut a b).cores = s.cores := (rfl)
@[simp] theorem State.resPut_ditch : (s.resPut a b).ditch = s.ditch := (rfl)
@[simp] theorem State.resPut_silt : (s.resPut a b).silt = s.silt := (rfl)
@[simp] theorem State.resPut_gauges : (s.resPut a b).gauges = s.gauges := (rfl)
@[simp] theorem State.resPut_time : (s.resPut a b).time = s.time := (rfl)
@[simp] theorem State.resPut_fuses : (s.resPut a b).fuses = s.fuses := (rfl)
@[simp] theorem State.resPut_nodes : (s.resPut a b).nodes = s.nodes := (rfl)
@[simp] theorem State.resPut_fabric : (s.resPut a b).fabric = s.fabric := (rfl)
@[simp] theorem State.resPut_tandem : (s.resPut a b).tandem = s.tandem := (rfl)
@[simp] theorem State.resPut_cmp : (s.resPut a b).cmp = s.cmp := (rfl)
@[simp] theorem State.resPut_video : (s.resPut a b).video = s.video := (rfl)
@[simp] theorem State.resPut_net : (s.resPut a b).net = s.net := (rfl)
@[simp] theorem State.resPut_water : (s.resPut a b).water = s.water := (rfl)
@[simp] theorem State.resPut_die : (s.resPut a b).die = s.die := (rfl)
@[simp] theorem State.resPut_ras : (s.resPut a b).ras = s.ras := (rfl)
@[simp] theorem State.resPut_basin : (s.resPut a b).basin = s.basin := (rfl)
@[simp] theorem State.resPut_power : (s.resPut a b).power = s.power := (rfl)
@[simp] theorem State.resPut_sluice : (s.resPut a b).sluice = s.sluice := (rfl)
@[simp] theorem State.resPut_live_ : (s.resPut a b).live_ = s.live_ := (rfl)
@[simp] theorem State.resPut_store : (s.resPut a b).store = s.store := (rfl)
@[simp] theorem State.resPut_thermal : (s.resPut a b).thermal = s.thermal := (rfl)
@[simp] theorem State.resPut_hourMs : (s.resPut a b).hourMs = s.hourMs := (rfl)
@[simp] theorem State.resPut_extest : (s.resPut a b).extest = s.extest := (rfl)
@[simp] theorem State.resPut_domains : (s.resPut a b).domains = s.domains := (rfl)
@[simp] theorem State.resPut_free : (s.resPut a b).free = s.free := (rfl)
@[simp] theorem State.resPut_out : (s.resPut a b).out = s.out := (rfl)
@[simp] theorem State.resPut_pending : (s.resPut a b).pending = s.pending := (rfl)

end resPut

section setLatch

variable (q : Requester) (a : Nat) (v : Option Word)

@[simp] theorem State.setLatch_regs : (s.setLatch q a v).regs = s.regs := (rfl)
@[simp] theorem State.setLatch_heldHi : (s.setLatch q a v).heldHi = s.heldHi := (rfl)
@[simp] theorem State.setLatch_mem : (s.setLatch q a v).mem = s.mem := (rfl)
@[simp] theorem State.setLatch_pcie : (s.setLatch q a v).pcie = s.pcie := (rfl)
@[simp] theorem State.setLatch_rings : (s.setLatch q a v).rings = s.rings := (rfl)
@[simp] theorem State.setLatch_tables : (s.setLatch q a v).tables = s.tables := (rfl)
@[simp] theorem State.setLatch_cores : (s.setLatch q a v).cores = s.cores := (rfl)
@[simp] theorem State.setLatch_ditch : (s.setLatch q a v).ditch = s.ditch := (rfl)
@[simp] theorem State.setLatch_silt : (s.setLatch q a v).silt = s.silt := (rfl)
@[simp] theorem State.setLatch_gauges : (s.setLatch q a v).gauges = s.gauges := (rfl)
@[simp] theorem State.setLatch_time : (s.setLatch q a v).time = s.time := (rfl)
@[simp] theorem State.setLatch_fuses : (s.setLatch q a v).fuses = s.fuses := (rfl)
@[simp] theorem State.setLatch_nodes : (s.setLatch q a v).nodes = s.nodes := (rfl)
@[simp] theorem State.setLatch_fabric : (s.setLatch q a v).fabric = s.fabric := (rfl)
@[simp] theorem State.setLatch_tandem : (s.setLatch q a v).tandem = s.tandem := (rfl)
@[simp] theorem State.setLatch_cmp : (s.setLatch q a v).cmp = s.cmp := (rfl)
@[simp] theorem State.setLatch_video : (s.setLatch q a v).video = s.video := (rfl)
@[simp] theorem State.setLatch_net : (s.setLatch q a v).net = s.net := (rfl)
@[simp] theorem State.setLatch_water : (s.setLatch q a v).water = s.water := (rfl)
@[simp] theorem State.setLatch_die : (s.setLatch q a v).die = s.die := (rfl)
@[simp] theorem State.setLatch_ras : (s.setLatch q a v).ras = s.ras := (rfl)
@[simp] theorem State.setLatch_basin : (s.setLatch q a v).basin = s.basin := (rfl)
@[simp] theorem State.setLatch_power : (s.setLatch q a v).power = s.power := (rfl)
@[simp] theorem State.setLatch_sluice : (s.setLatch q a v).sluice = s.sluice := (rfl)
@[simp] theorem State.setLatch_live_ : (s.setLatch q a v).live_ = s.live_ := (rfl)
@[simp] theorem State.setLatch_store : (s.setLatch q a v).store = s.store := (rfl)
@[simp] theorem State.setLatch_thermal : (s.setLatch q a v).thermal = s.thermal := (rfl)
@[simp] theorem State.setLatch_hourMs : (s.setLatch q a v).hourMs = s.hourMs := (rfl)
@[simp] theorem State.setLatch_extest : (s.setLatch q a v).extest = s.extest := (rfl)
@[simp] theorem State.setLatch_domains : (s.setLatch q a v).domains = s.domains := (rfl)
@[simp] theorem State.setLatch_free : (s.setLatch q a v).free = s.free := (rfl)
@[simp] theorem State.setLatch_out : (s.setLatch q a v).out = s.out := (rfl)
@[simp] theorem State.setLatch_pending : (s.setLatch q a v).pending = s.pending := (rfl)

end setLatch

section setHiHeld

variable (q : Requester) (a : Nat) (v : Option Word)

@[simp] theorem State.setHiHeld_regs : (s.setHiHeld q a v).regs = s.regs := (rfl)
@[simp] theorem State.setHiHeld_latches : (s.setHiHeld q a v).latches = s.latches := (rfl)
@[simp] theorem State.setHiHeld_mem : (s.setHiHeld q a v).mem = s.mem := (rfl)
@[simp] theorem State.setHiHeld_pcie : (s.setHiHeld q a v).pcie = s.pcie := (rfl)
@[simp] theorem State.setHiHeld_rings : (s.setHiHeld q a v).rings = s.rings := (rfl)
@[simp] theorem State.setHiHeld_tables : (s.setHiHeld q a v).tables = s.tables := (rfl)
@[simp] theorem State.setHiHeld_cores : (s.setHiHeld q a v).cores = s.cores := (rfl)
@[simp] theorem State.setHiHeld_ditch : (s.setHiHeld q a v).ditch = s.ditch := (rfl)
@[simp] theorem State.setHiHeld_silt : (s.setHiHeld q a v).silt = s.silt := (rfl)
@[simp] theorem State.setHiHeld_gauges : (s.setHiHeld q a v).gauges = s.gauges := (rfl)
@[simp] theorem State.setHiHeld_time : (s.setHiHeld q a v).time = s.time := (rfl)
@[simp] theorem State.setHiHeld_fuses : (s.setHiHeld q a v).fuses = s.fuses := (rfl)
@[simp] theorem State.setHiHeld_nodes : (s.setHiHeld q a v).nodes = s.nodes := (rfl)
@[simp] theorem State.setHiHeld_fabric : (s.setHiHeld q a v).fabric = s.fabric := (rfl)
@[simp] theorem State.setHiHeld_tandem : (s.setHiHeld q a v).tandem = s.tandem := (rfl)
@[simp] theorem State.setHiHeld_cmp : (s.setHiHeld q a v).cmp = s.cmp := (rfl)
@[simp] theorem State.setHiHeld_video : (s.setHiHeld q a v).video = s.video := (rfl)
@[simp] theorem State.setHiHeld_net : (s.setHiHeld q a v).net = s.net := (rfl)
@[simp] theorem State.setHiHeld_water : (s.setHiHeld q a v).water = s.water := (rfl)
@[simp] theorem State.setHiHeld_die : (s.setHiHeld q a v).die = s.die := (rfl)
@[simp] theorem State.setHiHeld_ras : (s.setHiHeld q a v).ras = s.ras := (rfl)
@[simp] theorem State.setHiHeld_basin : (s.setHiHeld q a v).basin = s.basin := (rfl)
@[simp] theorem State.setHiHeld_power : (s.setHiHeld q a v).power = s.power := (rfl)
@[simp] theorem State.setHiHeld_sluice : (s.setHiHeld q a v).sluice = s.sluice := (rfl)
@[simp] theorem State.setHiHeld_live_ : (s.setHiHeld q a v).live_ = s.live_ := (rfl)
@[simp] theorem State.setHiHeld_store : (s.setHiHeld q a v).store = s.store := (rfl)
@[simp] theorem State.setHiHeld_thermal : (s.setHiHeld q a v).thermal = s.thermal := (rfl)
@[simp] theorem State.setHiHeld_hourMs : (s.setHiHeld q a v).hourMs = s.hourMs := (rfl)
@[simp] theorem State.setHiHeld_extest : (s.setHiHeld q a v).extest = s.extest := (rfl)
@[simp] theorem State.setHiHeld_domains : (s.setHiHeld q a v).domains = s.domains := (rfl)
@[simp] theorem State.setHiHeld_free : (s.setHiHeld q a v).free = s.free := (rfl)
@[simp] theorem State.setHiHeld_out : (s.setHiHeld q a v).out = s.out := (rfl)
@[simp] theorem State.setHiHeld_pending : (s.setHiHeld q a v).pending = s.pending := (rfl)

end setHiHeld

section setEntry

variable (n : Nat) (v : Silt)

@[simp] theorem State.setEntry_regs : (s.setEntry n v).regs = s.regs := (rfl)
@[simp] theorem State.setEntry_latches : (s.setEntry n v).latches = s.latches := (rfl)
@[simp] theorem State.setEntry_heldHi : (s.setEntry n v).heldHi = s.heldHi := (rfl)
@[simp] theorem State.setEntry_mem : (s.setEntry n v).mem = s.mem := (rfl)
@[simp] theorem State.setEntry_pcie : (s.setEntry n v).pcie = s.pcie := (rfl)
@[simp] theorem State.setEntry_rings : (s.setEntry n v).rings = s.rings := (rfl)
@[simp] theorem State.setEntry_tables : (s.setEntry n v).tables = s.tables := (rfl)
@[simp] theorem State.setEntry_cores : (s.setEntry n v).cores = s.cores := (rfl)
@[simp] theorem State.setEntry_ditch : (s.setEntry n v).ditch = s.ditch := (rfl)
@[simp] theorem State.setEntry_gauges : (s.setEntry n v).gauges = s.gauges := (rfl)
@[simp] theorem State.setEntry_time : (s.setEntry n v).time = s.time := (rfl)
@[simp] theorem State.setEntry_fuses : (s.setEntry n v).fuses = s.fuses := (rfl)
@[simp] theorem State.setEntry_nodes : (s.setEntry n v).nodes = s.nodes := (rfl)
@[simp] theorem State.setEntry_fabric : (s.setEntry n v).fabric = s.fabric := (rfl)
@[simp] theorem State.setEntry_tandem : (s.setEntry n v).tandem = s.tandem := (rfl)
@[simp] theorem State.setEntry_cmp : (s.setEntry n v).cmp = s.cmp := (rfl)
@[simp] theorem State.setEntry_video : (s.setEntry n v).video = s.video := (rfl)
@[simp] theorem State.setEntry_net : (s.setEntry n v).net = s.net := (rfl)
@[simp] theorem State.setEntry_water : (s.setEntry n v).water = s.water := (rfl)
@[simp] theorem State.setEntry_die : (s.setEntry n v).die = s.die := (rfl)
@[simp] theorem State.setEntry_ras : (s.setEntry n v).ras = s.ras := (rfl)
@[simp] theorem State.setEntry_basin : (s.setEntry n v).basin = s.basin := (rfl)
@[simp] theorem State.setEntry_power : (s.setEntry n v).power = s.power := (rfl)
@[simp] theorem State.setEntry_sluice : (s.setEntry n v).sluice = s.sluice := (rfl)
@[simp] theorem State.setEntry_live_ : (s.setEntry n v).live_ = s.live_ := (rfl)
@[simp] theorem State.setEntry_store : (s.setEntry n v).store = s.store := (rfl)
@[simp] theorem State.setEntry_thermal : (s.setEntry n v).thermal = s.thermal := (rfl)
@[simp] theorem State.setEntry_hourMs : (s.setEntry n v).hourMs = s.hourMs := (rfl)
@[simp] theorem State.setEntry_extest : (s.setEntry n v).extest = s.extest := (rfl)
@[simp] theorem State.setEntry_domains : (s.setEntry n v).domains = s.domains := (rfl)
@[simp] theorem State.setEntry_free : (s.setEntry n v).free = s.free := (rfl)
@[simp] theorem State.setEntry_out : (s.setEntry n v).out = s.out := (rfl)
@[simp] theorem State.setEntry_pending : (s.setEntry n v).pending = s.pending := (rfl)

end setEntry

section setGauge

variable (n : Nat) (v : Gauge)

@[simp] theorem State.setGauge_regs : (s.setGauge n v).regs = s.regs := (rfl)
@[simp] theorem State.setGauge_latches : (s.setGauge n v).latches = s.latches := (rfl)
@[simp] theorem State.setGauge_heldHi : (s.setGauge n v).heldHi = s.heldHi := (rfl)
@[simp] theorem State.setGauge_mem : (s.setGauge n v).mem = s.mem := (rfl)
@[simp] theorem State.setGauge_pcie : (s.setGauge n v).pcie = s.pcie := (rfl)
@[simp] theorem State.setGauge_rings : (s.setGauge n v).rings = s.rings := (rfl)
@[simp] theorem State.setGauge_tables : (s.setGauge n v).tables = s.tables := (rfl)
@[simp] theorem State.setGauge_cores : (s.setGauge n v).cores = s.cores := (rfl)
@[simp] theorem State.setGauge_ditch : (s.setGauge n v).ditch = s.ditch := (rfl)
@[simp] theorem State.setGauge_silt : (s.setGauge n v).silt = s.silt := (rfl)
@[simp] theorem State.setGauge_time : (s.setGauge n v).time = s.time := (rfl)
@[simp] theorem State.setGauge_fuses : (s.setGauge n v).fuses = s.fuses := (rfl)
@[simp] theorem State.setGauge_nodes : (s.setGauge n v).nodes = s.nodes := (rfl)
@[simp] theorem State.setGauge_fabric : (s.setGauge n v).fabric = s.fabric := (rfl)
@[simp] theorem State.setGauge_tandem : (s.setGauge n v).tandem = s.tandem := (rfl)
@[simp] theorem State.setGauge_cmp : (s.setGauge n v).cmp = s.cmp := (rfl)
@[simp] theorem State.setGauge_video : (s.setGauge n v).video = s.video := (rfl)
@[simp] theorem State.setGauge_net : (s.setGauge n v).net = s.net := (rfl)
@[simp] theorem State.setGauge_water : (s.setGauge n v).water = s.water := (rfl)
@[simp] theorem State.setGauge_die : (s.setGauge n v).die = s.die := (rfl)
@[simp] theorem State.setGauge_ras : (s.setGauge n v).ras = s.ras := (rfl)
@[simp] theorem State.setGauge_basin : (s.setGauge n v).basin = s.basin := (rfl)
@[simp] theorem State.setGauge_power : (s.setGauge n v).power = s.power := (rfl)
@[simp] theorem State.setGauge_sluice : (s.setGauge n v).sluice = s.sluice := (rfl)
@[simp] theorem State.setGauge_live_ : (s.setGauge n v).live_ = s.live_ := (rfl)
@[simp] theorem State.setGauge_store : (s.setGauge n v).store = s.store := (rfl)
@[simp] theorem State.setGauge_thermal : (s.setGauge n v).thermal = s.thermal := (rfl)
@[simp] theorem State.setGauge_hourMs : (s.setGauge n v).hourMs = s.hourMs := (rfl)
@[simp] theorem State.setGauge_extest : (s.setGauge n v).extest = s.extest := (rfl)
@[simp] theorem State.setGauge_domains : (s.setGauge n v).domains = s.domains := (rfl)
@[simp] theorem State.setGauge_free : (s.setGauge n v).free = s.free := (rfl)
@[simp] theorem State.setGauge_out : (s.setGauge n v).out = s.out := (rfl)
@[simp] theorem State.setGauge_pending : (s.setGauge n v).pending = s.pending := (rfl)

end setGauge

section setNode

variable (p n : Nat) (v : Node)

@[simp] theorem State.setNode_regs : (s.setNode p n v).regs = s.regs := (rfl)
@[simp] theorem State.setNode_latches : (s.setNode p n v).latches = s.latches := (rfl)
@[simp] theorem State.setNode_heldHi : (s.setNode p n v).heldHi = s.heldHi := (rfl)
@[simp] theorem State.setNode_cistern : (s.setNode p n v).mem.cistern = s.mem.cistern := (rfl)
@[simp] theorem State.setNode_pads : (s.setNode p n v).mem.pads = s.mem.pads := (rfl)
@[simp] theorem State.setNode_pools : (s.setNode p n v).mem.pools = s.mem.pools := (rfl)
@[simp] theorem State.setNode_pcie : (s.setNode p n v).pcie = s.pcie := (rfl)
@[simp] theorem State.setNode_rings : (s.setNode p n v).rings = s.rings := (rfl)
@[simp] theorem State.setNode_tables : (s.setNode p n v).tables = s.tables := (rfl)
@[simp] theorem State.setNode_cores : (s.setNode p n v).cores = s.cores := (rfl)
@[simp] theorem State.setNode_ditch : (s.setNode p n v).ditch = s.ditch := (rfl)
@[simp] theorem State.setNode_silt : (s.setNode p n v).silt = s.silt := (rfl)
@[simp] theorem State.setNode_gauges : (s.setNode p n v).gauges = s.gauges := (rfl)
@[simp] theorem State.setNode_time : (s.setNode p n v).time = s.time := (rfl)
@[simp] theorem State.setNode_fuses : (s.setNode p n v).fuses = s.fuses := (rfl)
@[simp] theorem State.setNode_fabric : (s.setNode p n v).fabric = s.fabric := (rfl)
@[simp] theorem State.setNode_tandem : (s.setNode p n v).tandem = s.tandem := (rfl)
@[simp] theorem State.setNode_cmp : (s.setNode p n v).cmp = s.cmp := (rfl)
@[simp] theorem State.setNode_video : (s.setNode p n v).video = s.video := (rfl)
@[simp] theorem State.setNode_net : (s.setNode p n v).net = s.net := (rfl)
@[simp] theorem State.setNode_water : (s.setNode p n v).water = s.water := (rfl)
@[simp] theorem State.setNode_die : (s.setNode p n v).die = s.die := (rfl)
@[simp] theorem State.setNode_ras : (s.setNode p n v).ras = s.ras := (rfl)
@[simp] theorem State.setNode_basin : (s.setNode p n v).basin = s.basin := (rfl)
@[simp] theorem State.setNode_power : (s.setNode p n v).power = s.power := (rfl)
@[simp] theorem State.setNode_sluice : (s.setNode p n v).sluice = s.sluice := (rfl)
@[simp] theorem State.setNode_live_ : (s.setNode p n v).live_ = s.live_ := (rfl)
@[simp] theorem State.setNode_store : (s.setNode p n v).store = s.store := (rfl)
@[simp] theorem State.setNode_thermal : (s.setNode p n v).thermal = s.thermal := (rfl)
@[simp] theorem State.setNode_hourMs : (s.setNode p n v).hourMs = s.hourMs := (rfl)
@[simp] theorem State.setNode_extest : (s.setNode p n v).extest = s.extest := (rfl)
@[simp] theorem State.setNode_domains : (s.setNode p n v).domains = s.domains := (rfl)
@[simp] theorem State.setNode_free : (s.setNode p n v).free = s.free := (rfl)
@[simp] theorem State.setNode_out : (s.setNode p n v).out = s.out := (rfl)
@[simp] theorem State.setNode_pending : (s.setNode p n v).pending = s.pending := (rfl)

end setNode

section setTable

variable (c n : Nat) (v : Memory)

@[simp] theorem State.setTable_regs : (s.setTable c n v).regs = s.regs := (rfl)
@[simp] theorem State.setTable_latches : (s.setTable c n v).latches = s.latches := (rfl)
@[simp] theorem State.setTable_heldHi : (s.setTable c n v).heldHi = s.heldHi := (rfl)
@[simp] theorem State.setTable_mem : (s.setTable c n v).mem = s.mem := (rfl)
@[simp] theorem State.setTable_pcie : (s.setTable c n v).pcie = s.pcie := (rfl)
@[simp] theorem State.setTable_rings : (s.setTable c n v).rings = s.rings := (rfl)
@[simp] theorem State.setTable_cores : (s.setTable c n v).cores = s.cores := (rfl)
@[simp] theorem State.setTable_ditch : (s.setTable c n v).ditch = s.ditch := (rfl)
@[simp] theorem State.setTable_silt : (s.setTable c n v).silt = s.silt := (rfl)
@[simp] theorem State.setTable_gauges : (s.setTable c n v).gauges = s.gauges := (rfl)
@[simp] theorem State.setTable_time : (s.setTable c n v).time = s.time := (rfl)
@[simp] theorem State.setTable_fuses : (s.setTable c n v).fuses = s.fuses := (rfl)
@[simp] theorem State.setTable_nodes : (s.setTable c n v).nodes = s.nodes := (rfl)
@[simp] theorem State.setTable_fabric : (s.setTable c n v).fabric = s.fabric := (rfl)
@[simp] theorem State.setTable_tandem : (s.setTable c n v).tandem = s.tandem := (rfl)
@[simp] theorem State.setTable_cmp : (s.setTable c n v).cmp = s.cmp := (rfl)
@[simp] theorem State.setTable_video : (s.setTable c n v).video = s.video := (rfl)
@[simp] theorem State.setTable_net : (s.setTable c n v).net = s.net := (rfl)
@[simp] theorem State.setTable_water : (s.setTable c n v).water = s.water := (rfl)
@[simp] theorem State.setTable_die : (s.setTable c n v).die = s.die := (rfl)
@[simp] theorem State.setTable_ras : (s.setTable c n v).ras = s.ras := (rfl)
@[simp] theorem State.setTable_basin : (s.setTable c n v).basin = s.basin := (rfl)
@[simp] theorem State.setTable_power : (s.setTable c n v).power = s.power := (rfl)
@[simp] theorem State.setTable_sluice : (s.setTable c n v).sluice = s.sluice := (rfl)
@[simp] theorem State.setTable_live_ : (s.setTable c n v).live_ = s.live_ := (rfl)
@[simp] theorem State.setTable_store : (s.setTable c n v).store = s.store := (rfl)
@[simp] theorem State.setTable_thermal : (s.setTable c n v).thermal = s.thermal := (rfl)
@[simp] theorem State.setTable_hourMs : (s.setTable c n v).hourMs = s.hourMs := (rfl)
@[simp] theorem State.setTable_extest : (s.setTable c n v).extest = s.extest := (rfl)
@[simp] theorem State.setTable_domains : (s.setTable c n v).domains = s.domains := (rfl)
@[simp] theorem State.setTable_free : (s.setTable c n v).free = s.free := (rfl)
@[simp] theorem State.setTable_out : (s.setTable c n v).out = s.out := (rfl)
@[simp] theorem State.setTable_pending : (s.setTable c n v).pending = s.pending := (rfl)

end setTable

section setClock

variable (v : FrameClock)

@[simp] theorem State.setClock_regs : (s.setClock v).regs = s.regs := (rfl)
@[simp] theorem State.setClock_latches : (s.setClock v).latches = s.latches := (rfl)
@[simp] theorem State.setClock_heldHi : (s.setClock v).heldHi = s.heldHi := (rfl)
@[simp] theorem State.setClock_mem : (s.setClock v).mem = s.mem := (rfl)
@[simp] theorem State.setClock_pcie : (s.setClock v).pcie = s.pcie := (rfl)
@[simp] theorem State.setClock_rings : (s.setClock v).rings = s.rings := (rfl)
@[simp] theorem State.setClock_tables : (s.setClock v).tables = s.tables := (rfl)
@[simp] theorem State.setClock_cores : (s.setClock v).cores = s.cores := (rfl)
@[simp] theorem State.setClock_ditch : (s.setClock v).ditch = s.ditch := (rfl)
@[simp] theorem State.setClock_silt : (s.setClock v).silt = s.silt := (rfl)
@[simp] theorem State.setClock_gauges : (s.setClock v).gauges = s.gauges := (rfl)
@[simp] theorem State.setClock_fuses : (s.setClock v).fuses = s.fuses := (rfl)
@[simp] theorem State.setClock_nodes : (s.setClock v).nodes = s.nodes := (rfl)
@[simp] theorem State.setClock_fabric : (s.setClock v).fabric = s.fabric := (rfl)
@[simp] theorem State.setClock_tandem : (s.setClock v).tandem = s.tandem := (rfl)
@[simp] theorem State.setClock_cmp : (s.setClock v).cmp = s.cmp := (rfl)
@[simp] theorem State.setClock_video : (s.setClock v).video = s.video := (rfl)
@[simp] theorem State.setClock_net : (s.setClock v).net = s.net := (rfl)
@[simp] theorem State.setClock_water : (s.setClock v).water = s.water := (rfl)
@[simp] theorem State.setClock_die : (s.setClock v).die = s.die := (rfl)
@[simp] theorem State.setClock_ras : (s.setClock v).ras = s.ras := (rfl)
@[simp] theorem State.setClock_basin : (s.setClock v).basin = s.basin := (rfl)
@[simp] theorem State.setClock_power : (s.setClock v).power = s.power := (rfl)
@[simp] theorem State.setClock_sluice : (s.setClock v).sluice = s.sluice := (rfl)
@[simp] theorem State.setClock_live_ : (s.setClock v).live_ = s.live_ := (rfl)
@[simp] theorem State.setClock_store : (s.setClock v).store = s.store := (rfl)
@[simp] theorem State.setClock_thermal : (s.setClock v).thermal = s.thermal := (rfl)
@[simp] theorem State.setClock_hourMs : (s.setClock v).hourMs = s.hourMs := (rfl)
@[simp] theorem State.setClock_extest : (s.setClock v).extest = s.extest := (rfl)
@[simp] theorem State.setClock_domains : (s.setClock v).domains = s.domains := (rfl)
@[simp] theorem State.setClock_free : (s.setClock v).free = s.free := (rfl)
@[simp] theorem State.setClock_out : (s.setClock v).out = s.out := (rfl)
@[simp] theorem State.setClock_pending : (s.setClock v).pending = s.pending := (rfl)

end setClock

section setTandem

variable (v : Tandem)

@[simp] theorem State.setTandem_regs : (s.setTandem v).regs = s.regs := (rfl)
@[simp] theorem State.setTandem_latches : (s.setTandem v).latches = s.latches := (rfl)
@[simp] theorem State.setTandem_heldHi : (s.setTandem v).heldHi = s.heldHi := (rfl)
@[simp] theorem State.setTandem_mem : (s.setTandem v).mem = s.mem := (rfl)
@[simp] theorem State.setTandem_pcie : (s.setTandem v).pcie = s.pcie := (rfl)
@[simp] theorem State.setTandem_rings : (s.setTandem v).rings = s.rings := (rfl)
@[simp] theorem State.setTandem_tables : (s.setTandem v).tables = s.tables := (rfl)
@[simp] theorem State.setTandem_cores : (s.setTandem v).cores = s.cores := (rfl)
@[simp] theorem State.setTandem_ditch : (s.setTandem v).ditch = s.ditch := (rfl)
@[simp] theorem State.setTandem_silt : (s.setTandem v).silt = s.silt := (rfl)
@[simp] theorem State.setTandem_gauges : (s.setTandem v).gauges = s.gauges := (rfl)
@[simp] theorem State.setTandem_time : (s.setTandem v).time = s.time := (rfl)
@[simp] theorem State.setTandem_fuses : (s.setTandem v).fuses = s.fuses := (rfl)
@[simp] theorem State.setTandem_nodes : (s.setTandem v).nodes = s.nodes := (rfl)
@[simp] theorem State.setTandem_fabric : (s.setTandem v).fabric = s.fabric := (rfl)
@[simp] theorem State.setTandem_cmp : (s.setTandem v).cmp = s.cmp := (rfl)
@[simp] theorem State.setTandem_video : (s.setTandem v).video = s.video := (rfl)
@[simp] theorem State.setTandem_net : (s.setTandem v).net = s.net := (rfl)
@[simp] theorem State.setTandem_water : (s.setTandem v).water = s.water := (rfl)
@[simp] theorem State.setTandem_die : (s.setTandem v).die = s.die := (rfl)
@[simp] theorem State.setTandem_ras : (s.setTandem v).ras = s.ras := (rfl)
@[simp] theorem State.setTandem_basin : (s.setTandem v).basin = s.basin := (rfl)
@[simp] theorem State.setTandem_power : (s.setTandem v).power = s.power := (rfl)
@[simp] theorem State.setTandem_sluice : (s.setTandem v).sluice = s.sluice := (rfl)
@[simp] theorem State.setTandem_live_ : (s.setTandem v).live_ = s.live_ := (rfl)
@[simp] theorem State.setTandem_store : (s.setTandem v).store = s.store := (rfl)
@[simp] theorem State.setTandem_thermal : (s.setTandem v).thermal = s.thermal := (rfl)
@[simp] theorem State.setTandem_hourMs : (s.setTandem v).hourMs = s.hourMs := (rfl)
@[simp] theorem State.setTandem_extest : (s.setTandem v).extest = s.extest := (rfl)
@[simp] theorem State.setTandem_domains : (s.setTandem v).domains = s.domains := (rfl)
@[simp] theorem State.setTandem_free : (s.setTandem v).free = s.free := (rfl)
@[simp] theorem State.setTandem_out : (s.setTandem v).out = s.out := (rfl)
@[simp] theorem State.setTandem_pending : (s.setTandem v).pending = s.pending := (rfl)

end setTandem

section setCanvas

variable (n : Nat) (v : Canvas)

@[simp] theorem State.setCanvas_regs : (s.setCanvas n v).regs = s.regs := (rfl)
@[simp] theorem State.setCanvas_latches : (s.setCanvas n v).latches = s.latches := (rfl)
@[simp] theorem State.setCanvas_heldHi : (s.setCanvas n v).heldHi = s.heldHi := (rfl)
@[simp] theorem State.setCanvas_mem : (s.setCanvas n v).mem = s.mem := (rfl)
@[simp] theorem State.setCanvas_pcie : (s.setCanvas n v).pcie = s.pcie := (rfl)
@[simp] theorem State.setCanvas_rings : (s.setCanvas n v).rings = s.rings := (rfl)
@[simp] theorem State.setCanvas_tables : (s.setCanvas n v).tables = s.tables := (rfl)
@[simp] theorem State.setCanvas_cores : (s.setCanvas n v).cores = s.cores := (rfl)
@[simp] theorem State.setCanvas_ditch : (s.setCanvas n v).ditch = s.ditch := (rfl)
@[simp] theorem State.setCanvas_silt : (s.setCanvas n v).silt = s.silt := (rfl)
@[simp] theorem State.setCanvas_gauges : (s.setCanvas n v).gauges = s.gauges := (rfl)
@[simp] theorem State.setCanvas_time : (s.setCanvas n v).time = s.time := (rfl)
@[simp] theorem State.setCanvas_fuses : (s.setCanvas n v).fuses = s.fuses := (rfl)
@[simp] theorem State.setCanvas_nodes : (s.setCanvas n v).nodes = s.nodes := (rfl)
@[simp] theorem State.setCanvas_fabric : (s.setCanvas n v).fabric = s.fabric := (rfl)
@[simp] theorem State.setCanvas_tandem : (s.setCanvas n v).tandem = s.tandem := (rfl)
@[simp] theorem State.setCanvas_video : (s.setCanvas n v).video = s.video := (rfl)
@[simp] theorem State.setCanvas_net : (s.setCanvas n v).net = s.net := (rfl)
@[simp] theorem State.setCanvas_water : (s.setCanvas n v).water = s.water := (rfl)
@[simp] theorem State.setCanvas_die : (s.setCanvas n v).die = s.die := (rfl)
@[simp] theorem State.setCanvas_ras : (s.setCanvas n v).ras = s.ras := (rfl)
@[simp] theorem State.setCanvas_basin : (s.setCanvas n v).basin = s.basin := (rfl)
@[simp] theorem State.setCanvas_power : (s.setCanvas n v).power = s.power := (rfl)
@[simp] theorem State.setCanvas_sluice : (s.setCanvas n v).sluice = s.sluice := (rfl)
@[simp] theorem State.setCanvas_live_ : (s.setCanvas n v).live_ = s.live_ := (rfl)
@[simp] theorem State.setCanvas_store : (s.setCanvas n v).store = s.store := (rfl)
@[simp] theorem State.setCanvas_thermal : (s.setCanvas n v).thermal = s.thermal := (rfl)
@[simp] theorem State.setCanvas_hourMs : (s.setCanvas n v).hourMs = s.hourMs := (rfl)
@[simp] theorem State.setCanvas_extest : (s.setCanvas n v).extest = s.extest := (rfl)
@[simp] theorem State.setCanvas_domains : (s.setCanvas n v).domains = s.domains := (rfl)
@[simp] theorem State.setCanvas_free : (s.setCanvas n v).free = s.free := (rfl)
@[simp] theorem State.setCanvas_out : (s.setCanvas n v).out = s.out := (rfl)
@[simp] theorem State.setCanvas_pending : (s.setCanvas n v).pending = s.pending := (rfl)

end setCanvas

section setVid

variable (n : Nat) (v : Video)

@[simp] theorem State.setVid_regs : (s.setVid n v).regs = s.regs := (rfl)
@[simp] theorem State.setVid_latches : (s.setVid n v).latches = s.latches := (rfl)
@[simp] theorem State.setVid_heldHi : (s.setVid n v).heldHi = s.heldHi := (rfl)
@[simp] theorem State.setVid_mem : (s.setVid n v).mem = s.mem := (rfl)
@[simp] theorem State.setVid_pcie : (s.setVid n v).pcie = s.pcie := (rfl)
@[simp] theorem State.setVid_rings : (s.setVid n v).rings = s.rings := (rfl)
@[simp] theorem State.setVid_tables : (s.setVid n v).tables = s.tables := (rfl)
@[simp] theorem State.setVid_cores : (s.setVid n v).cores = s.cores := (rfl)
@[simp] theorem State.setVid_ditch : (s.setVid n v).ditch = s.ditch := (rfl)
@[simp] theorem State.setVid_silt : (s.setVid n v).silt = s.silt := (rfl)
@[simp] theorem State.setVid_gauges : (s.setVid n v).gauges = s.gauges := (rfl)
@[simp] theorem State.setVid_time : (s.setVid n v).time = s.time := (rfl)
@[simp] theorem State.setVid_fuses : (s.setVid n v).fuses = s.fuses := (rfl)
@[simp] theorem State.setVid_nodes : (s.setVid n v).nodes = s.nodes := (rfl)
@[simp] theorem State.setVid_fabric : (s.setVid n v).fabric = s.fabric := (rfl)
@[simp] theorem State.setVid_tandem : (s.setVid n v).tandem = s.tandem := (rfl)
@[simp] theorem State.setVid_cmp : (s.setVid n v).cmp = s.cmp := (rfl)
@[simp] theorem State.setVid_net : (s.setVid n v).net = s.net := (rfl)
@[simp] theorem State.setVid_water : (s.setVid n v).water = s.water := (rfl)
@[simp] theorem State.setVid_die : (s.setVid n v).die = s.die := (rfl)
@[simp] theorem State.setVid_ras : (s.setVid n v).ras = s.ras := (rfl)
@[simp] theorem State.setVid_basin : (s.setVid n v).basin = s.basin := (rfl)
@[simp] theorem State.setVid_power : (s.setVid n v).power = s.power := (rfl)
@[simp] theorem State.setVid_sluice : (s.setVid n v).sluice = s.sluice := (rfl)
@[simp] theorem State.setVid_live_ : (s.setVid n v).live_ = s.live_ := (rfl)
@[simp] theorem State.setVid_store : (s.setVid n v).store = s.store := (rfl)
@[simp] theorem State.setVid_thermal : (s.setVid n v).thermal = s.thermal := (rfl)
@[simp] theorem State.setVid_hourMs : (s.setVid n v).hourMs = s.hourMs := (rfl)
@[simp] theorem State.setVid_extest : (s.setVid n v).extest = s.extest := (rfl)
@[simp] theorem State.setVid_domains : (s.setVid n v).domains = s.domains := (rfl)
@[simp] theorem State.setVid_free : (s.setVid n v).free = s.free := (rfl)
@[simp] theorem State.setVid_out : (s.setVid n v).out = s.out := (rfl)
@[simp] theorem State.setVid_pending : (s.setVid n v).pending = s.pending := (rfl)

end setVid

section setMac

variable (n : Nat) (v : NetMac)

@[simp] theorem State.setMac_regs : (s.setMac n v).regs = s.regs := (rfl)
@[simp] theorem State.setMac_latches : (s.setMac n v).latches = s.latches := (rfl)
@[simp] theorem State.setMac_heldHi : (s.setMac n v).heldHi = s.heldHi := (rfl)
@[simp] theorem State.setMac_mem : (s.setMac n v).mem = s.mem := (rfl)
@[simp] theorem State.setMac_pcie : (s.setMac n v).pcie = s.pcie := (rfl)
@[simp] theorem State.setMac_rings : (s.setMac n v).rings = s.rings := (rfl)
@[simp] theorem State.setMac_tables : (s.setMac n v).tables = s.tables := (rfl)
@[simp] theorem State.setMac_cores : (s.setMac n v).cores = s.cores := (rfl)
@[simp] theorem State.setMac_ditch : (s.setMac n v).ditch = s.ditch := (rfl)
@[simp] theorem State.setMac_silt : (s.setMac n v).silt = s.silt := (rfl)
@[simp] theorem State.setMac_gauges : (s.setMac n v).gauges = s.gauges := (rfl)
@[simp] theorem State.setMac_time : (s.setMac n v).time = s.time := (rfl)
@[simp] theorem State.setMac_fuses : (s.setMac n v).fuses = s.fuses := (rfl)
@[simp] theorem State.setMac_nodes : (s.setMac n v).nodes = s.nodes := (rfl)
@[simp] theorem State.setMac_fabric : (s.setMac n v).fabric = s.fabric := (rfl)
@[simp] theorem State.setMac_tandem : (s.setMac n v).tandem = s.tandem := (rfl)
@[simp] theorem State.setMac_cmp : (s.setMac n v).cmp = s.cmp := (rfl)
@[simp] theorem State.setMac_video : (s.setMac n v).video = s.video := (rfl)
@[simp] theorem State.setMac_water : (s.setMac n v).water = s.water := (rfl)
@[simp] theorem State.setMac_die : (s.setMac n v).die = s.die := (rfl)
@[simp] theorem State.setMac_ras : (s.setMac n v).ras = s.ras := (rfl)
@[simp] theorem State.setMac_basin : (s.setMac n v).basin = s.basin := (rfl)
@[simp] theorem State.setMac_power : (s.setMac n v).power = s.power := (rfl)
@[simp] theorem State.setMac_sluice : (s.setMac n v).sluice = s.sluice := (rfl)
@[simp] theorem State.setMac_live_ : (s.setMac n v).live_ = s.live_ := (rfl)
@[simp] theorem State.setMac_store : (s.setMac n v).store = s.store := (rfl)
@[simp] theorem State.setMac_thermal : (s.setMac n v).thermal = s.thermal := (rfl)
@[simp] theorem State.setMac_hourMs : (s.setMac n v).hourMs = s.hourMs := (rfl)
@[simp] theorem State.setMac_extest : (s.setMac n v).extest = s.extest := (rfl)
@[simp] theorem State.setMac_domains : (s.setMac n v).domains = s.domains := (rfl)
@[simp] theorem State.setMac_free : (s.setMac n v).free = s.free := (rfl)
@[simp] theorem State.setMac_out : (s.setMac n v).out = s.out := (rfl)
@[simp] theorem State.setMac_pending : (s.setMac n v).pending = s.pending := (rfl)

end setMac

section setZone

variable (n : Nat) (v : Zone)

@[simp] theorem State.setZone_regs : (s.setZone n v).regs = s.regs := (rfl)
@[simp] theorem State.setZone_latches : (s.setZone n v).latches = s.latches := (rfl)
@[simp] theorem State.setZone_heldHi : (s.setZone n v).heldHi = s.heldHi := (rfl)
@[simp] theorem State.setZone_mem : (s.setZone n v).mem = s.mem := (rfl)
@[simp] theorem State.setZone_pcie : (s.setZone n v).pcie = s.pcie := (rfl)
@[simp] theorem State.setZone_rings : (s.setZone n v).rings = s.rings := (rfl)
@[simp] theorem State.setZone_tables : (s.setZone n v).tables = s.tables := (rfl)
@[simp] theorem State.setZone_cores : (s.setZone n v).cores = s.cores := (rfl)
@[simp] theorem State.setZone_ditch : (s.setZone n v).ditch = s.ditch := (rfl)
@[simp] theorem State.setZone_silt : (s.setZone n v).silt = s.silt := (rfl)
@[simp] theorem State.setZone_gauges : (s.setZone n v).gauges = s.gauges := (rfl)
@[simp] theorem State.setZone_time : (s.setZone n v).time = s.time := (rfl)
@[simp] theorem State.setZone_fuses : (s.setZone n v).fuses = s.fuses := (rfl)
@[simp] theorem State.setZone_nodes : (s.setZone n v).nodes = s.nodes := (rfl)
@[simp] theorem State.setZone_fabric : (s.setZone n v).fabric = s.fabric := (rfl)
@[simp] theorem State.setZone_tandem : (s.setZone n v).tandem = s.tandem := (rfl)
@[simp] theorem State.setZone_cmp : (s.setZone n v).cmp = s.cmp := (rfl)
@[simp] theorem State.setZone_video : (s.setZone n v).video = s.video := (rfl)
@[simp] theorem State.setZone_net : (s.setZone n v).net = s.net := (rfl)
@[simp] theorem State.setZone_die : (s.setZone n v).die = s.die := (rfl)
@[simp] theorem State.setZone_ras : (s.setZone n v).ras = s.ras := (rfl)
@[simp] theorem State.setZone_basin : (s.setZone n v).basin = s.basin := (rfl)
@[simp] theorem State.setZone_power : (s.setZone n v).power = s.power := (rfl)
@[simp] theorem State.setZone_sluice : (s.setZone n v).sluice = s.sluice := (rfl)
@[simp] theorem State.setZone_live_ : (s.setZone n v).live_ = s.live_ := (rfl)
@[simp] theorem State.setZone_store : (s.setZone n v).store = s.store := (rfl)
@[simp] theorem State.setZone_thermal : (s.setZone n v).thermal = s.thermal := (rfl)
@[simp] theorem State.setZone_hourMs : (s.setZone n v).hourMs = s.hourMs := (rfl)
@[simp] theorem State.setZone_extest : (s.setZone n v).extest = s.extest := (rfl)
@[simp] theorem State.setZone_domains : (s.setZone n v).domains = s.domains := (rfl)
@[simp] theorem State.setZone_free : (s.setZone n v).free = s.free := (rfl)
@[simp] theorem State.setZone_out : (s.setZone n v).out = s.out := (rfl)
@[simp] theorem State.setZone_pending : (s.setZone n v).pending = s.pending := (rfl)

end setZone

section setPort

variable (n : Nat) (v : Port)

@[simp] theorem State.setPort_regs : (s.setPort n v).regs = s.regs := (rfl)
@[simp] theorem State.setPort_latches : (s.setPort n v).latches = s.latches := (rfl)
@[simp] theorem State.setPort_heldHi : (s.setPort n v).heldHi = s.heldHi := (rfl)
@[simp] theorem State.setPort_mem : (s.setPort n v).mem = s.mem := (rfl)
@[simp] theorem State.setPort_pcie : (s.setPort n v).pcie = s.pcie := (rfl)
@[simp] theorem State.setPort_rings : (s.setPort n v).rings = s.rings := (rfl)
@[simp] theorem State.setPort_tables : (s.setPort n v).tables = s.tables := (rfl)
@[simp] theorem State.setPort_cores : (s.setPort n v).cores = s.cores := (rfl)
@[simp] theorem State.setPort_ditch : (s.setPort n v).ditch = s.ditch := (rfl)
@[simp] theorem State.setPort_silt : (s.setPort n v).silt = s.silt := (rfl)
@[simp] theorem State.setPort_gauges : (s.setPort n v).gauges = s.gauges := (rfl)
@[simp] theorem State.setPort_time : (s.setPort n v).time = s.time := (rfl)
@[simp] theorem State.setPort_fuses : (s.setPort n v).fuses = s.fuses := (rfl)
@[simp] theorem State.setPort_nodes : (s.setPort n v).nodes = s.nodes := (rfl)
@[simp] theorem State.setPort_fabric : (s.setPort n v).fabric = s.fabric := (rfl)
@[simp] theorem State.setPort_tandem : (s.setPort n v).tandem = s.tandem := (rfl)
@[simp] theorem State.setPort_cmp : (s.setPort n v).cmp = s.cmp := (rfl)
@[simp] theorem State.setPort_video : (s.setPort n v).video = s.video := (rfl)
@[simp] theorem State.setPort_net : (s.setPort n v).net = s.net := (rfl)
@[simp] theorem State.setPort_water : (s.setPort n v).water = s.water := (rfl)
@[simp] theorem State.setPort_ras : (s.setPort n v).ras = s.ras := (rfl)
@[simp] theorem State.setPort_basin : (s.setPort n v).basin = s.basin := (rfl)
@[simp] theorem State.setPort_power : (s.setPort n v).power = s.power := (rfl)
@[simp] theorem State.setPort_sluice : (s.setPort n v).sluice = s.sluice := (rfl)
@[simp] theorem State.setPort_live_ : (s.setPort n v).live_ = s.live_ := (rfl)
@[simp] theorem State.setPort_store : (s.setPort n v).store = s.store := (rfl)
@[simp] theorem State.setPort_thermal : (s.setPort n v).thermal = s.thermal := (rfl)
@[simp] theorem State.setPort_hourMs : (s.setPort n v).hourMs = s.hourMs := (rfl)
@[simp] theorem State.setPort_extest : (s.setPort n v).extest = s.extest := (rfl)
@[simp] theorem State.setPort_domains : (s.setPort n v).domains = s.domains := (rfl)
@[simp] theorem State.setPort_free : (s.setPort n v).free = s.free := (rfl)
@[simp] theorem State.setPort_out : (s.setPort n v).out = s.out := (rfl)
@[simp] theorem State.setPort_pending : (s.setPort n v).pending = s.pending := (rfl)

end setPort

section setFlow

variable (n : Nat) (v : Flow)

@[simp] theorem State.setFlow_regs : (s.setFlow n v).regs = s.regs := (rfl)
@[simp] theorem State.setFlow_latches : (s.setFlow n v).latches = s.latches := (rfl)
@[simp] theorem State.setFlow_heldHi : (s.setFlow n v).heldHi = s.heldHi := (rfl)
@[simp] theorem State.setFlow_mem : (s.setFlow n v).mem = s.mem := (rfl)
@[simp] theorem State.setFlow_pcie : (s.setFlow n v).pcie = s.pcie := (rfl)
@[simp] theorem State.setFlow_rings : (s.setFlow n v).rings = s.rings := (rfl)
@[simp] theorem State.setFlow_tables : (s.setFlow n v).tables = s.tables := (rfl)
@[simp] theorem State.setFlow_cores : (s.setFlow n v).cores = s.cores := (rfl)
@[simp] theorem State.setFlow_ditch : (s.setFlow n v).ditch = s.ditch := (rfl)
@[simp] theorem State.setFlow_silt : (s.setFlow n v).silt = s.silt := (rfl)
@[simp] theorem State.setFlow_gauges : (s.setFlow n v).gauges = s.gauges := (rfl)
@[simp] theorem State.setFlow_time : (s.setFlow n v).time = s.time := (rfl)
@[simp] theorem State.setFlow_fuses : (s.setFlow n v).fuses = s.fuses := (rfl)
@[simp] theorem State.setFlow_nodes : (s.setFlow n v).nodes = s.nodes := (rfl)
@[simp] theorem State.setFlow_fabric : (s.setFlow n v).fabric = s.fabric := (rfl)
@[simp] theorem State.setFlow_tandem : (s.setFlow n v).tandem = s.tandem := (rfl)
@[simp] theorem State.setFlow_cmp : (s.setFlow n v).cmp = s.cmp := (rfl)
@[simp] theorem State.setFlow_video : (s.setFlow n v).video = s.video := (rfl)
@[simp] theorem State.setFlow_net : (s.setFlow n v).net = s.net := (rfl)
@[simp] theorem State.setFlow_water : (s.setFlow n v).water = s.water := (rfl)
@[simp] theorem State.setFlow_ras : (s.setFlow n v).ras = s.ras := (rfl)
@[simp] theorem State.setFlow_basin : (s.setFlow n v).basin = s.basin := (rfl)
@[simp] theorem State.setFlow_power : (s.setFlow n v).power = s.power := (rfl)
@[simp] theorem State.setFlow_sluice : (s.setFlow n v).sluice = s.sluice := (rfl)
@[simp] theorem State.setFlow_live_ : (s.setFlow n v).live_ = s.live_ := (rfl)
@[simp] theorem State.setFlow_store : (s.setFlow n v).store = s.store := (rfl)
@[simp] theorem State.setFlow_thermal : (s.setFlow n v).thermal = s.thermal := (rfl)
@[simp] theorem State.setFlow_hourMs : (s.setFlow n v).hourMs = s.hourMs := (rfl)
@[simp] theorem State.setFlow_extest : (s.setFlow n v).extest = s.extest := (rfl)
@[simp] theorem State.setFlow_domains : (s.setFlow n v).domains = s.domains := (rfl)
@[simp] theorem State.setFlow_free : (s.setFlow n v).free = s.free := (rfl)
@[simp] theorem State.setFlow_out : (s.setFlow n v).out = s.out := (rfl)
@[simp] theorem State.setFlow_pending : (s.setFlow n v).pending = s.pending := (rfl)

end setFlow

section setRo

variable (n : Nat) (v : RasOut)

@[simp] theorem State.setRo_regs : (s.setRo n v).regs = s.regs := (rfl)
@[simp] theorem State.setRo_latches : (s.setRo n v).latches = s.latches := (rfl)
@[simp] theorem State.setRo_heldHi : (s.setRo n v).heldHi = s.heldHi := (rfl)
@[simp] theorem State.setRo_mem : (s.setRo n v).mem = s.mem := (rfl)
@[simp] theorem State.setRo_pcie : (s.setRo n v).pcie = s.pcie := (rfl)
@[simp] theorem State.setRo_rings : (s.setRo n v).rings = s.rings := (rfl)
@[simp] theorem State.setRo_tables : (s.setRo n v).tables = s.tables := (rfl)
@[simp] theorem State.setRo_cores : (s.setRo n v).cores = s.cores := (rfl)
@[simp] theorem State.setRo_ditch : (s.setRo n v).ditch = s.ditch := (rfl)
@[simp] theorem State.setRo_silt : (s.setRo n v).silt = s.silt := (rfl)
@[simp] theorem State.setRo_gauges : (s.setRo n v).gauges = s.gauges := (rfl)
@[simp] theorem State.setRo_time : (s.setRo n v).time = s.time := (rfl)
@[simp] theorem State.setRo_fuses : (s.setRo n v).fuses = s.fuses := (rfl)
@[simp] theorem State.setRo_nodes : (s.setRo n v).nodes = s.nodes := (rfl)
@[simp] theorem State.setRo_fabric : (s.setRo n v).fabric = s.fabric := (rfl)
@[simp] theorem State.setRo_tandem : (s.setRo n v).tandem = s.tandem := (rfl)
@[simp] theorem State.setRo_cmp : (s.setRo n v).cmp = s.cmp := (rfl)
@[simp] theorem State.setRo_video : (s.setRo n v).video = s.video := (rfl)
@[simp] theorem State.setRo_net : (s.setRo n v).net = s.net := (rfl)
@[simp] theorem State.setRo_water : (s.setRo n v).water = s.water := (rfl)
@[simp] theorem State.setRo_die : (s.setRo n v).die = s.die := (rfl)
@[simp] theorem State.setRo_basin : (s.setRo n v).basin = s.basin := (rfl)
@[simp] theorem State.setRo_power : (s.setRo n v).power = s.power := (rfl)
@[simp] theorem State.setRo_sluice : (s.setRo n v).sluice = s.sluice := (rfl)
@[simp] theorem State.setRo_live_ : (s.setRo n v).live_ = s.live_ := (rfl)
@[simp] theorem State.setRo_store : (s.setRo n v).store = s.store := (rfl)
@[simp] theorem State.setRo_thermal : (s.setRo n v).thermal = s.thermal := (rfl)
@[simp] theorem State.setRo_hourMs : (s.setRo n v).hourMs = s.hourMs := (rfl)
@[simp] theorem State.setRo_extest : (s.setRo n v).extest = s.extest := (rfl)
@[simp] theorem State.setRo_domains : (s.setRo n v).domains = s.domains := (rfl)
@[simp] theorem State.setRo_free : (s.setRo n v).free = s.free := (rfl)
@[simp] theorem State.setRo_out : (s.setRo n v).out = s.out := (rfl)
@[simp] theorem State.setRo_pending : (s.setRo n v).pending = s.pending := (rfl)

end setRo

section setBasin

variable (v : Basin)

@[simp] theorem State.setBasin_regs : (s.setBasin v).regs = s.regs := (rfl)
@[simp] theorem State.setBasin_latches : (s.setBasin v).latches = s.latches := (rfl)
@[simp] theorem State.setBasin_heldHi : (s.setBasin v).heldHi = s.heldHi := (rfl)
@[simp] theorem State.setBasin_mem : (s.setBasin v).mem = s.mem := (rfl)
@[simp] theorem State.setBasin_pcie : (s.setBasin v).pcie = s.pcie := (rfl)
@[simp] theorem State.setBasin_rings : (s.setBasin v).rings = s.rings := (rfl)
@[simp] theorem State.setBasin_tables : (s.setBasin v).tables = s.tables := (rfl)
@[simp] theorem State.setBasin_cores : (s.setBasin v).cores = s.cores := (rfl)
@[simp] theorem State.setBasin_ditch : (s.setBasin v).ditch = s.ditch := (rfl)
@[simp] theorem State.setBasin_silt : (s.setBasin v).silt = s.silt := (rfl)
@[simp] theorem State.setBasin_gauges : (s.setBasin v).gauges = s.gauges := (rfl)
@[simp] theorem State.setBasin_time : (s.setBasin v).time = s.time := (rfl)
@[simp] theorem State.setBasin_fuses : (s.setBasin v).fuses = s.fuses := (rfl)
@[simp] theorem State.setBasin_nodes : (s.setBasin v).nodes = s.nodes := (rfl)
@[simp] theorem State.setBasin_fabric : (s.setBasin v).fabric = s.fabric := (rfl)
@[simp] theorem State.setBasin_tandem : (s.setBasin v).tandem = s.tandem := (rfl)
@[simp] theorem State.setBasin_cmp : (s.setBasin v).cmp = s.cmp := (rfl)
@[simp] theorem State.setBasin_video : (s.setBasin v).video = s.video := (rfl)
@[simp] theorem State.setBasin_net : (s.setBasin v).net = s.net := (rfl)
@[simp] theorem State.setBasin_water : (s.setBasin v).water = s.water := (rfl)
@[simp] theorem State.setBasin_die : (s.setBasin v).die = s.die := (rfl)
@[simp] theorem State.setBasin_ras : (s.setBasin v).ras = s.ras := (rfl)
@[simp] theorem State.setBasin_power : (s.setBasin v).power = s.power := (rfl)
@[simp] theorem State.setBasin_sluice : (s.setBasin v).sluice = s.sluice := (rfl)
@[simp] theorem State.setBasin_live_ : (s.setBasin v).live_ = s.live_ := (rfl)
@[simp] theorem State.setBasin_store : (s.setBasin v).store = s.store := (rfl)
@[simp] theorem State.setBasin_thermal : (s.setBasin v).thermal = s.thermal := (rfl)
@[simp] theorem State.setBasin_hourMs : (s.setBasin v).hourMs = s.hourMs := (rfl)
@[simp] theorem State.setBasin_extest : (s.setBasin v).extest = s.extest := (rfl)
@[simp] theorem State.setBasin_domains : (s.setBasin v).domains = s.domains := (rfl)
@[simp] theorem State.setBasin_free : (s.setBasin v).free = s.free := (rfl)
@[simp] theorem State.setBasin_out : (s.setBasin v).out = s.out := (rfl)
@[simp] theorem State.setBasin_pending : (s.setBasin v).pending = s.pending := (rfl)

end setBasin

section setPower

variable (v : Power)

@[simp] theorem State.setPower_regs : (s.setPower v).regs = s.regs := (rfl)
@[simp] theorem State.setPower_latches : (s.setPower v).latches = s.latches := (rfl)
@[simp] theorem State.setPower_heldHi : (s.setPower v).heldHi = s.heldHi := (rfl)
@[simp] theorem State.setPower_mem : (s.setPower v).mem = s.mem := (rfl)
@[simp] theorem State.setPower_pcie : (s.setPower v).pcie = s.pcie := (rfl)
@[simp] theorem State.setPower_rings : (s.setPower v).rings = s.rings := (rfl)
@[simp] theorem State.setPower_tables : (s.setPower v).tables = s.tables := (rfl)
@[simp] theorem State.setPower_cores : (s.setPower v).cores = s.cores := (rfl)
@[simp] theorem State.setPower_ditch : (s.setPower v).ditch = s.ditch := (rfl)
@[simp] theorem State.setPower_silt : (s.setPower v).silt = s.silt := (rfl)
@[simp] theorem State.setPower_gauges : (s.setPower v).gauges = s.gauges := (rfl)
@[simp] theorem State.setPower_time : (s.setPower v).time = s.time := (rfl)
@[simp] theorem State.setPower_fuses : (s.setPower v).fuses = s.fuses := (rfl)
@[simp] theorem State.setPower_nodes : (s.setPower v).nodes = s.nodes := (rfl)
@[simp] theorem State.setPower_fabric : (s.setPower v).fabric = s.fabric := (rfl)
@[simp] theorem State.setPower_tandem : (s.setPower v).tandem = s.tandem := (rfl)
@[simp] theorem State.setPower_cmp : (s.setPower v).cmp = s.cmp := (rfl)
@[simp] theorem State.setPower_video : (s.setPower v).video = s.video := (rfl)
@[simp] theorem State.setPower_net : (s.setPower v).net = s.net := (rfl)
@[simp] theorem State.setPower_water : (s.setPower v).water = s.water := (rfl)
@[simp] theorem State.setPower_die : (s.setPower v).die = s.die := (rfl)
@[simp] theorem State.setPower_ras : (s.setPower v).ras = s.ras := (rfl)
@[simp] theorem State.setPower_basin : (s.setPower v).basin = s.basin := (rfl)
@[simp] theorem State.setPower_sluice : (s.setPower v).sluice = s.sluice := (rfl)
@[simp] theorem State.setPower_live_ : (s.setPower v).live_ = s.live_ := (rfl)
@[simp] theorem State.setPower_store : (s.setPower v).store = s.store := (rfl)
@[simp] theorem State.setPower_thermal : (s.setPower v).thermal = s.thermal := (rfl)
@[simp] theorem State.setPower_hourMs : (s.setPower v).hourMs = s.hourMs := (rfl)
@[simp] theorem State.setPower_extest : (s.setPower v).extest = s.extest := (rfl)
@[simp] theorem State.setPower_domains : (s.setPower v).domains = s.domains := (rfl)
@[simp] theorem State.setPower_free : (s.setPower v).free = s.free := (rfl)
@[simp] theorem State.setPower_out : (s.setPower v).out = s.out := (rfl)
@[simp] theorem State.setPower_pending : (s.setPower v).pending = s.pending := (rfl)

end setPower

section setSluice

variable (v : Sluice)

@[simp] theorem State.setSluice_regs : (s.setSluice v).regs = s.regs := (rfl)
@[simp] theorem State.setSluice_latches : (s.setSluice v).latches = s.latches := (rfl)
@[simp] theorem State.setSluice_heldHi : (s.setSluice v).heldHi = s.heldHi := (rfl)
@[simp] theorem State.setSluice_mem : (s.setSluice v).mem = s.mem := (rfl)
@[simp] theorem State.setSluice_pcie : (s.setSluice v).pcie = s.pcie := (rfl)
@[simp] theorem State.setSluice_rings : (s.setSluice v).rings = s.rings := (rfl)
@[simp] theorem State.setSluice_tables : (s.setSluice v).tables = s.tables := (rfl)
@[simp] theorem State.setSluice_cores : (s.setSluice v).cores = s.cores := (rfl)
@[simp] theorem State.setSluice_ditch : (s.setSluice v).ditch = s.ditch := (rfl)
@[simp] theorem State.setSluice_silt : (s.setSluice v).silt = s.silt := (rfl)
@[simp] theorem State.setSluice_gauges : (s.setSluice v).gauges = s.gauges := (rfl)
@[simp] theorem State.setSluice_time : (s.setSluice v).time = s.time := (rfl)
@[simp] theorem State.setSluice_fuses : (s.setSluice v).fuses = s.fuses := (rfl)
@[simp] theorem State.setSluice_nodes : (s.setSluice v).nodes = s.nodes := (rfl)
@[simp] theorem State.setSluice_fabric : (s.setSluice v).fabric = s.fabric := (rfl)
@[simp] theorem State.setSluice_tandem : (s.setSluice v).tandem = s.tandem := (rfl)
@[simp] theorem State.setSluice_cmp : (s.setSluice v).cmp = s.cmp := (rfl)
@[simp] theorem State.setSluice_video : (s.setSluice v).video = s.video := (rfl)
@[simp] theorem State.setSluice_net : (s.setSluice v).net = s.net := (rfl)
@[simp] theorem State.setSluice_water : (s.setSluice v).water = s.water := (rfl)
@[simp] theorem State.setSluice_die : (s.setSluice v).die = s.die := (rfl)
@[simp] theorem State.setSluice_ras : (s.setSluice v).ras = s.ras := (rfl)
@[simp] theorem State.setSluice_basin : (s.setSluice v).basin = s.basin := (rfl)
@[simp] theorem State.setSluice_power : (s.setSluice v).power = s.power := (rfl)
@[simp] theorem State.setSluice_live_ : (s.setSluice v).live_ = s.live_ := (rfl)
@[simp] theorem State.setSluice_store : (s.setSluice v).store = s.store := (rfl)
@[simp] theorem State.setSluice_thermal : (s.setSluice v).thermal = s.thermal := (rfl)
@[simp] theorem State.setSluice_hourMs : (s.setSluice v).hourMs = s.hourMs := (rfl)
@[simp] theorem State.setSluice_extest : (s.setSluice v).extest = s.extest := (rfl)
@[simp] theorem State.setSluice_domains : (s.setSluice v).domains = s.domains := (rfl)
@[simp] theorem State.setSluice_free : (s.setSluice v).free = s.free := (rfl)
@[simp] theorem State.setSluice_out : (s.setSluice v).out = s.out := (rfl)
@[simp] theorem State.setSluice_pending : (s.setSluice v).pending = s.pending := (rfl)

end setSluice

section setLive

variable (v : Live)

@[simp] theorem State.setLive_regs : (s.setLive v).regs = s.regs := (rfl)
@[simp] theorem State.setLive_latches : (s.setLive v).latches = s.latches := (rfl)
@[simp] theorem State.setLive_heldHi : (s.setLive v).heldHi = s.heldHi := (rfl)
@[simp] theorem State.setLive_mem : (s.setLive v).mem = s.mem := (rfl)
@[simp] theorem State.setLive_pcie : (s.setLive v).pcie = s.pcie := (rfl)
@[simp] theorem State.setLive_rings : (s.setLive v).rings = s.rings := (rfl)
@[simp] theorem State.setLive_tables : (s.setLive v).tables = s.tables := (rfl)
@[simp] theorem State.setLive_cores : (s.setLive v).cores = s.cores := (rfl)
@[simp] theorem State.setLive_ditch : (s.setLive v).ditch = s.ditch := (rfl)
@[simp] theorem State.setLive_silt : (s.setLive v).silt = s.silt := (rfl)
@[simp] theorem State.setLive_gauges : (s.setLive v).gauges = s.gauges := (rfl)
@[simp] theorem State.setLive_time : (s.setLive v).time = s.time := (rfl)
@[simp] theorem State.setLive_fuses : (s.setLive v).fuses = s.fuses := (rfl)
@[simp] theorem State.setLive_nodes : (s.setLive v).nodes = s.nodes := (rfl)
@[simp] theorem State.setLive_fabric : (s.setLive v).fabric = s.fabric := (rfl)
@[simp] theorem State.setLive_tandem : (s.setLive v).tandem = s.tandem := (rfl)
@[simp] theorem State.setLive_cmp : (s.setLive v).cmp = s.cmp := (rfl)
@[simp] theorem State.setLive_video : (s.setLive v).video = s.video := (rfl)
@[simp] theorem State.setLive_net : (s.setLive v).net = s.net := (rfl)
@[simp] theorem State.setLive_water : (s.setLive v).water = s.water := (rfl)
@[simp] theorem State.setLive_die : (s.setLive v).die = s.die := (rfl)
@[simp] theorem State.setLive_ras : (s.setLive v).ras = s.ras := (rfl)
@[simp] theorem State.setLive_basin : (s.setLive v).basin = s.basin := (rfl)
@[simp] theorem State.setLive_power : (s.setLive v).power = s.power := (rfl)
@[simp] theorem State.setLive_sluice : (s.setLive v).sluice = s.sluice := (rfl)
@[simp] theorem State.setLive_store : (s.setLive v).store = s.store := (rfl)
@[simp] theorem State.setLive_thermal : (s.setLive v).thermal = s.thermal := (rfl)
@[simp] theorem State.setLive_hourMs : (s.setLive v).hourMs = s.hourMs := (rfl)
@[simp] theorem State.setLive_extest : (s.setLive v).extest = s.extest := (rfl)
@[simp] theorem State.setLive_domains : (s.setLive v).domains = s.domains := (rfl)
@[simp] theorem State.setLive_free : (s.setLive v).free = s.free := (rfl)
@[simp] theorem State.setLive_out : (s.setLive v).out = s.out := (rfl)
@[simp] theorem State.setLive_pending : (s.setLive v).pending = s.pending := (rfl)

end setLive

section setThermal

variable (v : Thermal)

@[simp] theorem State.setThermal_regs : (s.setThermal v).regs = s.regs := (rfl)
@[simp] theorem State.setThermal_latches : (s.setThermal v).latches = s.latches := (rfl)
@[simp] theorem State.setThermal_heldHi : (s.setThermal v).heldHi = s.heldHi := (rfl)
@[simp] theorem State.setThermal_mem : (s.setThermal v).mem = s.mem := (rfl)
@[simp] theorem State.setThermal_pcie : (s.setThermal v).pcie = s.pcie := (rfl)
@[simp] theorem State.setThermal_rings : (s.setThermal v).rings = s.rings := (rfl)
@[simp] theorem State.setThermal_tables : (s.setThermal v).tables = s.tables := (rfl)
@[simp] theorem State.setThermal_cores : (s.setThermal v).cores = s.cores := (rfl)
@[simp] theorem State.setThermal_ditch : (s.setThermal v).ditch = s.ditch := (rfl)
@[simp] theorem State.setThermal_silt : (s.setThermal v).silt = s.silt := (rfl)
@[simp] theorem State.setThermal_gauges : (s.setThermal v).gauges = s.gauges := (rfl)
@[simp] theorem State.setThermal_time : (s.setThermal v).time = s.time := (rfl)
@[simp] theorem State.setThermal_fuses : (s.setThermal v).fuses = s.fuses := (rfl)
@[simp] theorem State.setThermal_nodes : (s.setThermal v).nodes = s.nodes := (rfl)
@[simp] theorem State.setThermal_fabric : (s.setThermal v).fabric = s.fabric := (rfl)
@[simp] theorem State.setThermal_tandem : (s.setThermal v).tandem = s.tandem := (rfl)
@[simp] theorem State.setThermal_cmp : (s.setThermal v).cmp = s.cmp := (rfl)
@[simp] theorem State.setThermal_video : (s.setThermal v).video = s.video := (rfl)
@[simp] theorem State.setThermal_net : (s.setThermal v).net = s.net := (rfl)
@[simp] theorem State.setThermal_water : (s.setThermal v).water = s.water := (rfl)
@[simp] theorem State.setThermal_die : (s.setThermal v).die = s.die := (rfl)
@[simp] theorem State.setThermal_ras : (s.setThermal v).ras = s.ras := (rfl)
@[simp] theorem State.setThermal_basin : (s.setThermal v).basin = s.basin := (rfl)
@[simp] theorem State.setThermal_power : (s.setThermal v).power = s.power := (rfl)
@[simp] theorem State.setThermal_sluice : (s.setThermal v).sluice = s.sluice := (rfl)
@[simp] theorem State.setThermal_live_ : (s.setThermal v).live_ = s.live_ := (rfl)
@[simp] theorem State.setThermal_store : (s.setThermal v).store = s.store := (rfl)
@[simp] theorem State.setThermal_hourMs : (s.setThermal v).hourMs = s.hourMs := (rfl)
@[simp] theorem State.setThermal_extest : (s.setThermal v).extest = s.extest := (rfl)
@[simp] theorem State.setThermal_domains : (s.setThermal v).domains = s.domains := (rfl)
@[simp] theorem State.setThermal_free : (s.setThermal v).free = s.free := (rfl)
@[simp] theorem State.setThermal_out : (s.setThermal v).out = s.out := (rfl)
@[simp] theorem State.setThermal_pending : (s.setThermal v).pending = s.pending := (rfl)

end setThermal

section setGate

variable (n : Nat) (v : Gate)

@[simp] theorem State.setGate_regs : (s.setGate n v).regs = s.regs := (rfl)
@[simp] theorem State.setGate_latches : (s.setGate n v).latches = s.latches := (rfl)
@[simp] theorem State.setGate_heldHi : (s.setGate n v).heldHi = s.heldHi := (rfl)
@[simp] theorem State.setGate_mem : (s.setGate n v).mem = s.mem := (rfl)
@[simp] theorem State.setGate_pcie : (s.setGate n v).pcie = s.pcie := (rfl)
@[simp] theorem State.setGate_rings : (s.setGate n v).rings = s.rings := (rfl)
@[simp] theorem State.setGate_tables : (s.setGate n v).tables = s.tables := (rfl)
@[simp] theorem State.setGate_cores : (s.setGate n v).cores = s.cores := (rfl)
@[simp] theorem State.setGate_ditch : (s.setGate n v).ditch = s.ditch := (rfl)
@[simp] theorem State.setGate_silt : (s.setGate n v).silt = s.silt := (rfl)
@[simp] theorem State.setGate_gauges : (s.setGate n v).gauges = s.gauges := (rfl)
@[simp] theorem State.setGate_fuses : (s.setGate n v).fuses = s.fuses := (rfl)
@[simp] theorem State.setGate_nodes : (s.setGate n v).nodes = s.nodes := (rfl)
@[simp] theorem State.setGate_fabric : (s.setGate n v).fabric = s.fabric := (rfl)
@[simp] theorem State.setGate_tandem : (s.setGate n v).tandem = s.tandem := (rfl)
@[simp] theorem State.setGate_cmp : (s.setGate n v).cmp = s.cmp := (rfl)
@[simp] theorem State.setGate_video : (s.setGate n v).video = s.video := (rfl)
@[simp] theorem State.setGate_net : (s.setGate n v).net = s.net := (rfl)
@[simp] theorem State.setGate_water : (s.setGate n v).water = s.water := (rfl)
@[simp] theorem State.setGate_die : (s.setGate n v).die = s.die := (rfl)
@[simp] theorem State.setGate_ras : (s.setGate n v).ras = s.ras := (rfl)
@[simp] theorem State.setGate_basin : (s.setGate n v).basin = s.basin := (rfl)
@[simp] theorem State.setGate_power : (s.setGate n v).power = s.power := (rfl)
@[simp] theorem State.setGate_sluice : (s.setGate n v).sluice = s.sluice := (rfl)
@[simp] theorem State.setGate_live_ : (s.setGate n v).live_ = s.live_ := (rfl)
@[simp] theorem State.setGate_store : (s.setGate n v).store = s.store := (rfl)
@[simp] theorem State.setGate_thermal : (s.setGate n v).thermal = s.thermal := (rfl)
@[simp] theorem State.setGate_hourMs : (s.setGate n v).hourMs = s.hourMs := (rfl)
@[simp] theorem State.setGate_extest : (s.setGate n v).extest = s.extest := (rfl)
@[simp] theorem State.setGate_domains : (s.setGate n v).domains = s.domains := (rfl)
@[simp] theorem State.setGate_free : (s.setGate n v).free = s.free := (rfl)
@[simp] theorem State.setGate_out : (s.setGate n v).out = s.out := (rfl)
@[simp] theorem State.setGate_pending : (s.setGate n v).pending = s.pending := (rfl)

end setGate

section setCalUnit

variable (n : Nat) (v : CalUnit)

@[simp] theorem State.setCalUnit_regs : (s.setCalUnit n v).regs = s.regs := (rfl)
@[simp] theorem State.setCalUnit_latches : (s.setCalUnit n v).latches = s.latches := (rfl)
@[simp] theorem State.setCalUnit_heldHi : (s.setCalUnit n v).heldHi = s.heldHi := (rfl)
@[simp] theorem State.setCalUnit_mem : (s.setCalUnit n v).mem = s.mem := (rfl)
@[simp] theorem State.setCalUnit_pcie : (s.setCalUnit n v).pcie = s.pcie := (rfl)
@[simp] theorem State.setCalUnit_rings : (s.setCalUnit n v).rings = s.rings := (rfl)
@[simp] theorem State.setCalUnit_tables : (s.setCalUnit n v).tables = s.tables := (rfl)
@[simp] theorem State.setCalUnit_cores : (s.setCalUnit n v).cores = s.cores := (rfl)
@[simp] theorem State.setCalUnit_ditch : (s.setCalUnit n v).ditch = s.ditch := (rfl)
@[simp] theorem State.setCalUnit_silt : (s.setCalUnit n v).silt = s.silt := (rfl)
@[simp] theorem State.setCalUnit_gauges : (s.setCalUnit n v).gauges = s.gauges := (rfl)
@[simp] theorem State.setCalUnit_time : (s.setCalUnit n v).time = s.time := (rfl)
@[simp] theorem State.setCalUnit_fuses : (s.setCalUnit n v).fuses = s.fuses := (rfl)
@[simp] theorem State.setCalUnit_nodes : (s.setCalUnit n v).nodes = s.nodes := (rfl)
@[simp] theorem State.setCalUnit_fabric : (s.setCalUnit n v).fabric = s.fabric := (rfl)
@[simp] theorem State.setCalUnit_tandem : (s.setCalUnit n v).tandem = s.tandem := (rfl)
@[simp] theorem State.setCalUnit_cmp : (s.setCalUnit n v).cmp = s.cmp := (rfl)
@[simp] theorem State.setCalUnit_video : (s.setCalUnit n v).video = s.video := (rfl)
@[simp] theorem State.setCalUnit_net : (s.setCalUnit n v).net = s.net := (rfl)
@[simp] theorem State.setCalUnit_water : (s.setCalUnit n v).water = s.water := (rfl)
@[simp] theorem State.setCalUnit_die : (s.setCalUnit n v).die = s.die := (rfl)
@[simp] theorem State.setCalUnit_ras : (s.setCalUnit n v).ras = s.ras := (rfl)
@[simp] theorem State.setCalUnit_basin : (s.setCalUnit n v).basin = s.basin := (rfl)
@[simp] theorem State.setCalUnit_power : (s.setCalUnit n v).power = s.power := (rfl)
@[simp] theorem State.setCalUnit_sluice : (s.setCalUnit n v).sluice = s.sluice := (rfl)
@[simp] theorem State.setCalUnit_live_ : (s.setCalUnit n v).live_ = s.live_ := (rfl)
@[simp] theorem State.setCalUnit_store : (s.setCalUnit n v).store = s.store := (rfl)
@[simp] theorem State.setCalUnit_hourMs : (s.setCalUnit n v).hourMs = s.hourMs := (rfl)
@[simp] theorem State.setCalUnit_extest : (s.setCalUnit n v).extest = s.extest := (rfl)
@[simp] theorem State.setCalUnit_domains : (s.setCalUnit n v).domains = s.domains := (rfl)
@[simp] theorem State.setCalUnit_free : (s.setCalUnit n v).free = s.free := (rfl)
@[simp] theorem State.setCalUnit_out : (s.setCalUnit n v).out = s.out := (rfl)
@[simp] theorem State.setCalUnit_pending : (s.setCalUnit n v).pending = s.pending := (rfl)

end setCalUnit

section setAud

variable (n : Nat) (v : Audio)

@[simp] theorem State.setAud_regs : (s.setAud n v).regs = s.regs := (rfl)
@[simp] theorem State.setAud_latches : (s.setAud n v).latches = s.latches := (rfl)
@[simp] theorem State.setAud_heldHi : (s.setAud n v).heldHi = s.heldHi := (rfl)
@[simp] theorem State.setAud_mem : (s.setAud n v).mem = s.mem := (rfl)
@[simp] theorem State.setAud_pcie : (s.setAud n v).pcie = s.pcie := (rfl)
@[simp] theorem State.setAud_rings : (s.setAud n v).rings = s.rings := (rfl)
@[simp] theorem State.setAud_tables : (s.setAud n v).tables = s.tables := (rfl)
@[simp] theorem State.setAud_cores : (s.setAud n v).cores = s.cores := (rfl)
@[simp] theorem State.setAud_ditch : (s.setAud n v).ditch = s.ditch := (rfl)
@[simp] theorem State.setAud_silt : (s.setAud n v).silt = s.silt := (rfl)
@[simp] theorem State.setAud_gauges : (s.setAud n v).gauges = s.gauges := (rfl)
@[simp] theorem State.setAud_time : (s.setAud n v).time = s.time := (rfl)
@[simp] theorem State.setAud_fuses : (s.setAud n v).fuses = s.fuses := (rfl)
@[simp] theorem State.setAud_nodes : (s.setAud n v).nodes = s.nodes := (rfl)
@[simp] theorem State.setAud_fabric : (s.setAud n v).fabric = s.fabric := (rfl)
@[simp] theorem State.setAud_tandem : (s.setAud n v).tandem = s.tandem := (rfl)
@[simp] theorem State.setAud_cmp : (s.setAud n v).cmp = s.cmp := (rfl)
@[simp] theorem State.setAud_video : (s.setAud n v).video = s.video := (rfl)
@[simp] theorem State.setAud_water : (s.setAud n v).water = s.water := (rfl)
@[simp] theorem State.setAud_die : (s.setAud n v).die = s.die := (rfl)
@[simp] theorem State.setAud_ras : (s.setAud n v).ras = s.ras := (rfl)
@[simp] theorem State.setAud_basin : (s.setAud n v).basin = s.basin := (rfl)
@[simp] theorem State.setAud_power : (s.setAud n v).power = s.power := (rfl)
@[simp] theorem State.setAud_sluice : (s.setAud n v).sluice = s.sluice := (rfl)
@[simp] theorem State.setAud_live_ : (s.setAud n v).live_ = s.live_ := (rfl)
@[simp] theorem State.setAud_store : (s.setAud n v).store = s.store := (rfl)
@[simp] theorem State.setAud_thermal : (s.setAud n v).thermal = s.thermal := (rfl)
@[simp] theorem State.setAud_hourMs : (s.setAud n v).hourMs = s.hourMs := (rfl)
@[simp] theorem State.setAud_extest : (s.setAud n v).extest = s.extest := (rfl)
@[simp] theorem State.setAud_domains : (s.setAud n v).domains = s.domains := (rfl)
@[simp] theorem State.setAud_free : (s.setAud n v).free = s.free := (rfl)
@[simp] theorem State.setAud_out : (s.setAud n v).out = s.out := (rfl)
@[simp] theorem State.setAud_pending : (s.setAud n v).pending = s.pending := (rfl)

end setAud

section setEnv

variable (n : Nat) (v : Env)

@[simp] theorem State.setEnv_regs : (s.setEnv n v).regs = s.regs := (rfl)
@[simp] theorem State.setEnv_latches : (s.setEnv n v).latches = s.latches := (rfl)
@[simp] theorem State.setEnv_heldHi : (s.setEnv n v).heldHi = s.heldHi := (rfl)
@[simp] theorem State.setEnv_mem : (s.setEnv n v).mem = s.mem := (rfl)
@[simp] theorem State.setEnv_pcie : (s.setEnv n v).pcie = s.pcie := (rfl)
@[simp] theorem State.setEnv_rings : (s.setEnv n v).rings = s.rings := (rfl)
@[simp] theorem State.setEnv_tables : (s.setEnv n v).tables = s.tables := (rfl)
@[simp] theorem State.setEnv_cores : (s.setEnv n v).cores = s.cores := (rfl)
@[simp] theorem State.setEnv_ditch : (s.setEnv n v).ditch = s.ditch := (rfl)
@[simp] theorem State.setEnv_silt : (s.setEnv n v).silt = s.silt := (rfl)
@[simp] theorem State.setEnv_gauges : (s.setEnv n v).gauges = s.gauges := (rfl)
@[simp] theorem State.setEnv_time : (s.setEnv n v).time = s.time := (rfl)
@[simp] theorem State.setEnv_fuses : (s.setEnv n v).fuses = s.fuses := (rfl)
@[simp] theorem State.setEnv_nodes : (s.setEnv n v).nodes = s.nodes := (rfl)
@[simp] theorem State.setEnv_fabric : (s.setEnv n v).fabric = s.fabric := (rfl)
@[simp] theorem State.setEnv_tandem : (s.setEnv n v).tandem = s.tandem := (rfl)
@[simp] theorem State.setEnv_cmp : (s.setEnv n v).cmp = s.cmp := (rfl)
@[simp] theorem State.setEnv_video : (s.setEnv n v).video = s.video := (rfl)
@[simp] theorem State.setEnv_water : (s.setEnv n v).water = s.water := (rfl)
@[simp] theorem State.setEnv_die : (s.setEnv n v).die = s.die := (rfl)
@[simp] theorem State.setEnv_ras : (s.setEnv n v).ras = s.ras := (rfl)
@[simp] theorem State.setEnv_basin : (s.setEnv n v).basin = s.basin := (rfl)
@[simp] theorem State.setEnv_power : (s.setEnv n v).power = s.power := (rfl)
@[simp] theorem State.setEnv_sluice : (s.setEnv n v).sluice = s.sluice := (rfl)
@[simp] theorem State.setEnv_live_ : (s.setEnv n v).live_ = s.live_ := (rfl)
@[simp] theorem State.setEnv_store : (s.setEnv n v).store = s.store := (rfl)
@[simp] theorem State.setEnv_thermal : (s.setEnv n v).thermal = s.thermal := (rfl)
@[simp] theorem State.setEnv_hourMs : (s.setEnv n v).hourMs = s.hourMs := (rfl)
@[simp] theorem State.setEnv_extest : (s.setEnv n v).extest = s.extest := (rfl)
@[simp] theorem State.setEnv_domains : (s.setEnv n v).domains = s.domains := (rfl)
@[simp] theorem State.setEnv_free : (s.setEnv n v).free = s.free := (rfl)
@[simp] theorem State.setEnv_out : (s.setEnv n v).out = s.out := (rfl)
@[simp] theorem State.setEnv_pending : (s.setEnv n v).pending = s.pending := (rfl)

end setEnv

section setBport

variable (n : Nat) (v : BasinPort)

@[simp] theorem State.setBport_regs : (s.setBport n v).regs = s.regs := (rfl)
@[simp] theorem State.setBport_latches : (s.setBport n v).latches = s.latches := (rfl)
@[simp] theorem State.setBport_heldHi : (s.setBport n v).heldHi = s.heldHi := (rfl)
@[simp] theorem State.setBport_mem : (s.setBport n v).mem = s.mem := (rfl)
@[simp] theorem State.setBport_pcie : (s.setBport n v).pcie = s.pcie := (rfl)
@[simp] theorem State.setBport_rings : (s.setBport n v).rings = s.rings := (rfl)
@[simp] theorem State.setBport_tables : (s.setBport n v).tables = s.tables := (rfl)
@[simp] theorem State.setBport_cores : (s.setBport n v).cores = s.cores := (rfl)
@[simp] theorem State.setBport_ditch : (s.setBport n v).ditch = s.ditch := (rfl)
@[simp] theorem State.setBport_silt : (s.setBport n v).silt = s.silt := (rfl)
@[simp] theorem State.setBport_gauges : (s.setBport n v).gauges = s.gauges := (rfl)
@[simp] theorem State.setBport_time : (s.setBport n v).time = s.time := (rfl)
@[simp] theorem State.setBport_fuses : (s.setBport n v).fuses = s.fuses := (rfl)
@[simp] theorem State.setBport_nodes : (s.setBport n v).nodes = s.nodes := (rfl)
@[simp] theorem State.setBport_fabric : (s.setBport n v).fabric = s.fabric := (rfl)
@[simp] theorem State.setBport_tandem : (s.setBport n v).tandem = s.tandem := (rfl)
@[simp] theorem State.setBport_cmp : (s.setBport n v).cmp = s.cmp := (rfl)
@[simp] theorem State.setBport_video : (s.setBport n v).video = s.video := (rfl)
@[simp] theorem State.setBport_net : (s.setBport n v).net = s.net := (rfl)
@[simp] theorem State.setBport_water : (s.setBport n v).water = s.water := (rfl)
@[simp] theorem State.setBport_die : (s.setBport n v).die = s.die := (rfl)
@[simp] theorem State.setBport_ras : (s.setBport n v).ras = s.ras := (rfl)
@[simp] theorem State.setBport_power : (s.setBport n v).power = s.power := (rfl)
@[simp] theorem State.setBport_sluice : (s.setBport n v).sluice = s.sluice := (rfl)
@[simp] theorem State.setBport_live_ : (s.setBport n v).live_ = s.live_ := (rfl)
@[simp] theorem State.setBport_store : (s.setBport n v).store = s.store := (rfl)
@[simp] theorem State.setBport_thermal : (s.setBport n v).thermal = s.thermal := (rfl)
@[simp] theorem State.setBport_hourMs : (s.setBport n v).hourMs = s.hourMs := (rfl)
@[simp] theorem State.setBport_extest : (s.setBport n v).extest = s.extest := (rfl)
@[simp] theorem State.setBport_domains : (s.setBport n v).domains = s.domains := (rfl)
@[simp] theorem State.setBport_free : (s.setBport n v).free = s.free := (rfl)
@[simp] theorem State.setBport_out : (s.setBport n v).out = s.out := (rfl)
@[simp] theorem State.setBport_pending : (s.setBport n v).pending = s.pending := (rfl)

end setBport

section setRill

variable (n : Nat) (v : Rill)

@[simp] theorem State.setRill_regs : (s.setRill n v).regs = s.regs := (rfl)
@[simp] theorem State.setRill_latches : (s.setRill n v).latches = s.latches := (rfl)
@[simp] theorem State.setRill_heldHi : (s.setRill n v).heldHi = s.heldHi := (rfl)
@[simp] theorem State.setRill_mem : (s.setRill n v).mem = s.mem := (rfl)
@[simp] theorem State.setRill_pcie : (s.setRill n v).pcie = s.pcie := (rfl)
@[simp] theorem State.setRill_rings : (s.setRill n v).rings = s.rings := (rfl)
@[simp] theorem State.setRill_tables : (s.setRill n v).tables = s.tables := (rfl)
@[simp] theorem State.setRill_cores : (s.setRill n v).cores = s.cores := (rfl)
@[simp] theorem State.setRill_ditch : (s.setRill n v).ditch = s.ditch := (rfl)
@[simp] theorem State.setRill_silt : (s.setRill n v).silt = s.silt := (rfl)
@[simp] theorem State.setRill_gauges : (s.setRill n v).gauges = s.gauges := (rfl)
@[simp] theorem State.setRill_time : (s.setRill n v).time = s.time := (rfl)
@[simp] theorem State.setRill_fuses : (s.setRill n v).fuses = s.fuses := (rfl)
@[simp] theorem State.setRill_nodes : (s.setRill n v).nodes = s.nodes := (rfl)
@[simp] theorem State.setRill_tandem : (s.setRill n v).tandem = s.tandem := (rfl)
@[simp] theorem State.setRill_cmp : (s.setRill n v).cmp = s.cmp := (rfl)
@[simp] theorem State.setRill_video : (s.setRill n v).video = s.video := (rfl)
@[simp] theorem State.setRill_net : (s.setRill n v).net = s.net := (rfl)
@[simp] theorem State.setRill_water : (s.setRill n v).water = s.water := (rfl)
@[simp] theorem State.setRill_die : (s.setRill n v).die = s.die := (rfl)
@[simp] theorem State.setRill_ras : (s.setRill n v).ras = s.ras := (rfl)
@[simp] theorem State.setRill_basin : (s.setRill n v).basin = s.basin := (rfl)
@[simp] theorem State.setRill_power : (s.setRill n v).power = s.power := (rfl)
@[simp] theorem State.setRill_sluice : (s.setRill n v).sluice = s.sluice := (rfl)
@[simp] theorem State.setRill_live_ : (s.setRill n v).live_ = s.live_ := (rfl)
@[simp] theorem State.setRill_store : (s.setRill n v).store = s.store := (rfl)
@[simp] theorem State.setRill_thermal : (s.setRill n v).thermal = s.thermal := (rfl)
@[simp] theorem State.setRill_hourMs : (s.setRill n v).hourMs = s.hourMs := (rfl)
@[simp] theorem State.setRill_extest : (s.setRill n v).extest = s.extest := (rfl)
@[simp] theorem State.setRill_domains : (s.setRill n v).domains = s.domains := (rfl)
@[simp] theorem State.setRill_free : (s.setRill n v).free = s.free := (rfl)
@[simp] theorem State.setRill_out : (s.setRill n v).out = s.out := (rfl)
@[simp] theorem State.setRill_pending : (s.setRill n v).pending = s.pending := (rfl)

end setRill

section setFeeders

variable (v : List (Nat × Feeder))

@[simp] theorem State.setFeeders_regs : (s.setFeeders v).regs = s.regs := (rfl)
@[simp] theorem State.setFeeders_latches : (s.setFeeders v).latches = s.latches := (rfl)
@[simp] theorem State.setFeeders_heldHi : (s.setFeeders v).heldHi = s.heldHi := (rfl)
@[simp] theorem State.setFeeders_mem : (s.setFeeders v).mem = s.mem := (rfl)
@[simp] theorem State.setFeeders_pcie : (s.setFeeders v).pcie = s.pcie := (rfl)
@[simp] theorem State.setFeeders_rings : (s.setFeeders v).rings = s.rings := (rfl)
@[simp] theorem State.setFeeders_tables : (s.setFeeders v).tables = s.tables := (rfl)
@[simp] theorem State.setFeeders_cores : (s.setFeeders v).cores = s.cores := (rfl)
@[simp] theorem State.setFeeders_ditch : (s.setFeeders v).ditch = s.ditch := (rfl)
@[simp] theorem State.setFeeders_silt : (s.setFeeders v).silt = s.silt := (rfl)
@[simp] theorem State.setFeeders_gauges : (s.setFeeders v).gauges = s.gauges := (rfl)
@[simp] theorem State.setFeeders_time : (s.setFeeders v).time = s.time := (rfl)
@[simp] theorem State.setFeeders_fuses : (s.setFeeders v).fuses = s.fuses := (rfl)
@[simp] theorem State.setFeeders_nodes : (s.setFeeders v).nodes = s.nodes := (rfl)
@[simp] theorem State.setFeeders_fabric : (s.setFeeders v).fabric = s.fabric := (rfl)
@[simp] theorem State.setFeeders_tandem : (s.setFeeders v).tandem = s.tandem := (rfl)
@[simp] theorem State.setFeeders_cmp : (s.setFeeders v).cmp = s.cmp := (rfl)
@[simp] theorem State.setFeeders_video : (s.setFeeders v).video = s.video := (rfl)
@[simp] theorem State.setFeeders_net : (s.setFeeders v).net = s.net := (rfl)
@[simp] theorem State.setFeeders_die : (s.setFeeders v).die = s.die := (rfl)
@[simp] theorem State.setFeeders_ras : (s.setFeeders v).ras = s.ras := (rfl)
@[simp] theorem State.setFeeders_basin : (s.setFeeders v).basin = s.basin := (rfl)
@[simp] theorem State.setFeeders_power : (s.setFeeders v).power = s.power := (rfl)
@[simp] theorem State.setFeeders_sluice : (s.setFeeders v).sluice = s.sluice := (rfl)
@[simp] theorem State.setFeeders_live_ : (s.setFeeders v).live_ = s.live_ := (rfl)
@[simp] theorem State.setFeeders_store : (s.setFeeders v).store = s.store := (rfl)
@[simp] theorem State.setFeeders_thermal : (s.setFeeders v).thermal = s.thermal := (rfl)
@[simp] theorem State.setFeeders_hourMs : (s.setFeeders v).hourMs = s.hourMs := (rfl)
@[simp] theorem State.setFeeders_extest : (s.setFeeders v).extest = s.extest := (rfl)
@[simp] theorem State.setFeeders_domains : (s.setFeeders v).domains = s.domains := (rfl)
@[simp] theorem State.setFeeders_free : (s.setFeeders v).free = s.free := (rfl)
@[simp] theorem State.setFeeders_out : (s.setFeeders v).out = s.out := (rfl)
@[simp] theorem State.setFeeders_pending : (s.setFeeders v).pending = s.pending := (rfl)

end setFeeders

section setMember

variable (n : Nat) (v : Member)

@[simp] theorem State.setMember_regs : (s.setMember n v).regs = s.regs := (rfl)
@[simp] theorem State.setMember_latches : (s.setMember n v).latches = s.latches := (rfl)
@[simp] theorem State.setMember_heldHi : (s.setMember n v).heldHi = s.heldHi := (rfl)
@[simp] theorem State.setMember_mem : (s.setMember n v).mem = s.mem := (rfl)
@[simp] theorem State.setMember_pcie : (s.setMember n v).pcie = s.pcie := (rfl)
@[simp] theorem State.setMember_rings : (s.setMember n v).rings = s.rings := (rfl)
@[simp] theorem State.setMember_tables : (s.setMember n v).tables = s.tables := (rfl)
@[simp] theorem State.setMember_cores : (s.setMember n v).cores = s.cores := (rfl)
@[simp] theorem State.setMember_ditch : (s.setMember n v).ditch = s.ditch := (rfl)
@[simp] theorem State.setMember_silt : (s.setMember n v).silt = s.silt := (rfl)
@[simp] theorem State.setMember_gauges : (s.setMember n v).gauges = s.gauges := (rfl)
@[simp] theorem State.setMember_time : (s.setMember n v).time = s.time := (rfl)
@[simp] theorem State.setMember_fuses : (s.setMember n v).fuses = s.fuses := (rfl)
@[simp] theorem State.setMember_nodes : (s.setMember n v).nodes = s.nodes := (rfl)
@[simp] theorem State.setMember_fabric : (s.setMember n v).fabric = s.fabric := (rfl)
@[simp] theorem State.setMember_tandem : (s.setMember n v).tandem = s.tandem := (rfl)
@[simp] theorem State.setMember_cmp : (s.setMember n v).cmp = s.cmp := (rfl)
@[simp] theorem State.setMember_video : (s.setMember n v).video = s.video := (rfl)
@[simp] theorem State.setMember_net : (s.setMember n v).net = s.net := (rfl)
@[simp] theorem State.setMember_die : (s.setMember n v).die = s.die := (rfl)
@[simp] theorem State.setMember_ras : (s.setMember n v).ras = s.ras := (rfl)
@[simp] theorem State.setMember_basin : (s.setMember n v).basin = s.basin := (rfl)
@[simp] theorem State.setMember_power : (s.setMember n v).power = s.power := (rfl)
@[simp] theorem State.setMember_sluice : (s.setMember n v).sluice = s.sluice := (rfl)
@[simp] theorem State.setMember_live_ : (s.setMember n v).live_ = s.live_ := (rfl)
@[simp] theorem State.setMember_store : (s.setMember n v).store = s.store := (rfl)
@[simp] theorem State.setMember_thermal : (s.setMember n v).thermal = s.thermal := (rfl)
@[simp] theorem State.setMember_hourMs : (s.setMember n v).hourMs = s.hourMs := (rfl)
@[simp] theorem State.setMember_extest : (s.setMember n v).extest = s.extest := (rfl)
@[simp] theorem State.setMember_domains : (s.setMember n v).domains = s.domains := (rfl)
@[simp] theorem State.setMember_free : (s.setMember n v).free = s.free := (rfl)
@[simp] theorem State.setMember_out : (s.setMember n v).out = s.out := (rfl)
@[simp] theorem State.setMember_pending : (s.setMember n v).pending = s.pending := (rfl)

end setMember

section setFlume

variable (n : Nat) (v : Flume)

@[simp] theorem State.setFlume_regs : (s.setFlume n v).regs = s.regs := (rfl)
@[simp] theorem State.setFlume_latches : (s.setFlume n v).latches = s.latches := (rfl)
@[simp] theorem State.setFlume_heldHi : (s.setFlume n v).heldHi = s.heldHi := (rfl)
@[simp] theorem State.setFlume_mem : (s.setFlume n v).mem = s.mem := (rfl)
@[simp] theorem State.setFlume_pcie : (s.setFlume n v).pcie = s.pcie := (rfl)
@[simp] theorem State.setFlume_rings : (s.setFlume n v).rings = s.rings := (rfl)
@[simp] theorem State.setFlume_tables : (s.setFlume n v).tables = s.tables := (rfl)
@[simp] theorem State.setFlume_cores : (s.setFlume n v).cores = s.cores := (rfl)
@[simp] theorem State.setFlume_ditch : (s.setFlume n v).ditch = s.ditch := (rfl)
@[simp] theorem State.setFlume_silt : (s.setFlume n v).silt = s.silt := (rfl)
@[simp] theorem State.setFlume_gauges : (s.setFlume n v).gauges = s.gauges := (rfl)
@[simp] theorem State.setFlume_time : (s.setFlume n v).time = s.time := (rfl)
@[simp] theorem State.setFlume_fuses : (s.setFlume n v).fuses = s.fuses := (rfl)
@[simp] theorem State.setFlume_nodes : (s.setFlume n v).nodes = s.nodes := (rfl)
@[simp] theorem State.setFlume_fabric : (s.setFlume n v).fabric = s.fabric := (rfl)
@[simp] theorem State.setFlume_tandem : (s.setFlume n v).tandem = s.tandem := (rfl)
@[simp] theorem State.setFlume_cmp : (s.setFlume n v).cmp = s.cmp := (rfl)
@[simp] theorem State.setFlume_video : (s.setFlume n v).video = s.video := (rfl)
@[simp] theorem State.setFlume_net : (s.setFlume n v).net = s.net := (rfl)
@[simp] theorem State.setFlume_water : (s.setFlume n v).water = s.water := (rfl)
@[simp] theorem State.setFlume_ras : (s.setFlume n v).ras = s.ras := (rfl)
@[simp] theorem State.setFlume_basin : (s.setFlume n v).basin = s.basin := (rfl)
@[simp] theorem State.setFlume_power : (s.setFlume n v).power = s.power := (rfl)
@[simp] theorem State.setFlume_sluice : (s.setFlume n v).sluice = s.sluice := (rfl)
@[simp] theorem State.setFlume_live_ : (s.setFlume n v).live_ = s.live_ := (rfl)
@[simp] theorem State.setFlume_store : (s.setFlume n v).store = s.store := (rfl)
@[simp] theorem State.setFlume_thermal : (s.setFlume n v).thermal = s.thermal := (rfl)
@[simp] theorem State.setFlume_hourMs : (s.setFlume n v).hourMs = s.hourMs := (rfl)
@[simp] theorem State.setFlume_extest : (s.setFlume n v).extest = s.extest := (rfl)
@[simp] theorem State.setFlume_domains : (s.setFlume n v).domains = s.domains := (rfl)
@[simp] theorem State.setFlume_free : (s.setFlume n v).free = s.free := (rfl)
@[simp] theorem State.setFlume_out : (s.setFlume n v).out = s.out := (rfl)
@[simp] theorem State.setFlume_pending : (s.setFlume n v).pending = s.pending := (rfl)

end setFlume

omit s in
/-- Two states whose fields agree are one. -/
theorem State.ext_all {t u : State} (h0 : t.regs = u.regs) (h1 : t.latches = u.latches) (h2 : t.heldHi = u.heldHi) (h3 : t.mem = u.mem) (h4 : t.pcie = u.pcie) (h5 : t.rings = u.rings) (h6 : t.tables = u.tables) (h7 : t.cores = u.cores) (h8 : t.ditch = u.ditch) (h9 : t.silt = u.silt) (h10 : t.gauges = u.gauges) (h11 : t.time = u.time) (h12 : t.fuses = u.fuses) (h13 : t.nodes = u.nodes) (h14 : t.fabric = u.fabric) (h15 : t.tandem = u.tandem) (h16 : t.cmp = u.cmp) (h17 : t.video = u.video) (h18 : t.net = u.net) (h19 : t.water = u.water) (h20 : t.die = u.die) (h21 : t.ras = u.ras) (h22 : t.basin = u.basin) (h23 : t.power = u.power) (h24 : t.sluice = u.sluice) (h25 : t.live_ = u.live_) (h26 : t.store = u.store) (h27 : t.thermal = u.thermal) (h28 : t.hourMs = u.hourMs) (h29 : t.extest = u.extest) (h30 : t.domains = u.domains) (h31 : t.free = u.free) (h32 : t.out = u.out) (h33 : t.pending = u.pending) : t = u := by
  cases t; cases u; simp_all

end Sys2Proof.Machine
end

