-- ==== Sys2Proof/Laws/Registers.lean ====
section
/-! SUPPORT. The laws of the register file: a field read after a write of it, of another field, and of another register. -/

namespace Sys2Proof.Machine

open Sys2Proof

variable (s : State)

@[simp] theorem State.rg_setRg_same (a : Nat) (v : Word) : (s.setRg a v).rg a = v := mget_mset_same _ _ _ _

theorem State.rg_setRg_ne {a b : Nat} (v : Word) (h : b ≠ a) : (s.setRg a v).rg b = s.rg b := mget_mset_ne _ _ _ h

theorem State.rg_setRg (a b : Nat) (v : Word) : (s.setRg a v).rg b = if b = a then v else s.rg b := mget_mset _ _ _ _ _

theorem State.rg_fset_ne {f : RF} {v i j b : Nat} (h : b ≠ f.off i j) : (s.fset f v i j).rg b = s.rg b :=
  s.rg_setRg_ne _ h

/-! ### Bits of a word -/

theorem getBits_lt (w : Word) (hi lo : Nat) : getBits w hi lo < 2 ^ (hi + 1 - lo) := Nat.mod_lt _ (by positivity)

theorem putBits_parts (w m l v : Nat) :
    w - w / l % m * l + v % m * l = w % l + l * (v % m + m * (w / l / m)) := by
  have h1 : w = w % l + l * (w / l) := (Nat.mod_add_div w l).symm
  have h2 : w / l = w / l % m + m * (w / l / m) := (Nat.mod_add_div _ m).symm
  generalize w / l % m = x at *
  generalize w / l / m = y at *
  generalize w % l = z at *
  generalize v % m = q at *
  rw [h2] at h1
  subst h1
  have : z + l * (x + m * y) - x * l = z + l * (m * y) := by
    rw [Nat.mul_add, Nat.mul_comm x l]; omega
  rw [this]; ring

/-- The number that `putBits` makes, below, inside and above its field. -/
theorem putBits_toNat (w : Word) (hi lo v : Nat) (hlo : lo ≤ hi) (hhi : hi < 32) :
    (putBits w hi lo v).toNat =
      w.toNat % 2 ^ lo + 2 ^ lo * (v % 2 ^ (hi + 1 - lo) + 2 ^ (hi + 1 - lo) * (w.toNat / 2 ^ lo / 2 ^ (hi + 1 - lo))) := by
  have hm : 0 < 2 ^ (hi + 1 - lo) := by positivity
  have hl : 0 < 2 ^ lo := by positivity
  unfold putBits
  simp only
  rw [BitVec.toNat_ofNat, putBits_parts _ _ _ _, Nat.mod_eq_of_lt]
  have hw := w.isLt
  obtain ⟨k, hk⟩ : ∃ k, 2 ^ 32 = 2 ^ lo * (2 ^ (hi + 1 - lo) * k) :=
    ⟨2 ^ (31 - hi), by rw [← Nat.pow_add, ← Nat.pow_add]; congr 1; omega⟩
  rw [hk] at hw ⊢
  have h1 : w.toNat / 2 ^ lo / 2 ^ (hi + 1 - lo) < k := by
    rw [Nat.div_div_eq_div_mul]; exact Nat.div_lt_of_lt_mul (by rw [Nat.mul_assoc]; exact hw)
  have h2 : v % 2 ^ (hi + 1 - lo) < 2 ^ (hi + 1 - lo) := Nat.mod_lt _ hm
  have h3 : w.toNat % 2 ^ lo < 2 ^ lo := Nat.mod_lt _ hl
  generalize w.toNat / 2 ^ lo / 2 ^ (hi + 1 - lo) = y at *
  generalize v % 2 ^ (hi + 1 - lo) = q at *
  generalize w.toNat % 2 ^ lo = z at *
  generalize 2 ^ (hi + 1 - lo) = m at *
  generalize 2 ^ lo = l at *
  have h4 : q + m * y + 1 ≤ m * k := by
    calc q + m * y + 1 ≤ m + m * y := by omega
      _ = m * (y + 1) := by ring
      _ ≤ m * k := Nat.mul_le_mul_left _ h1
  calc z + l * (q + m * y) < l + l * (q + m * y) := by omega
    _ = l * (q + m * y + 1) := by ring
    _ ≤ l * (m * k) := Nat.mul_le_mul_left _ h4

/-- A field written reads back, cut to its width. -/
theorem getBits_putBits_same (w : Word) (hi lo v : Nat) (hlo : lo ≤ hi) (hhi : hi < 32) :
    getBits (putBits w hi lo v) hi lo = v % 2 ^ (hi + 1 - lo) := by
  unfold getBits
  rw [putBits_toNat w hi lo v hlo hhi, Nat.add_mul_div_left _ _ (by positivity),
    Nat.div_eq_of_lt (Nat.mod_lt _ (by positivity)), Nat.zero_add, Nat.add_mul_mod_self_left, Nat.mod_mod]

/-- A field above one written is as it was. -/
theorem getBits_putBits_above (w : Word) (hi lo v a b : Nat) (hlo : lo ≤ hi) (hhi : hi < 32) (hb : hi < b) :
    getBits (putBits w hi lo v) a b = getBits w a b := by
  unfold getBits
  congr 1
  have e : 2 ^ b = 2 ^ lo * 2 ^ (hi + 1 - lo) * 2 ^ (b - (hi + 1)) := by
    rw [← Nat.pow_add, ← Nat.pow_add]; congr 1; omega
  rw [putBits_toNat w hi lo v hlo hhi, e, ← Nat.div_div_eq_div_mul, ← Nat.div_div_eq_div_mul,
    Nat.add_mul_div_left _ _ (by positivity), Nat.div_eq_of_lt (Nat.mod_lt w.toNat (by positivity : 0 < 2 ^ lo)), Nat.zero_add,
    Nat.add_mul_div_left _ _ (by positivity), Nat.div_eq_of_lt (Nat.mod_lt v (by positivity : 0 < 2 ^ (hi + 1 - lo))),
    Nat.zero_add, ← Nat.div_div_eq_div_mul, ← Nat.div_div_eq_div_mul]

/-- A field below one written is as it was. -/
theorem getBits_putBits_below (w : Word) (hi lo v a b : Nat) (hlo : lo ≤ hi) (hhi : hi < 32) (hab : b ≤ a) (ha : a < lo) :
    getBits (putBits w hi lo v) a b = getBits w a b := by
  have key : ∀ n : Nat, n % 2 ^ lo / 2 ^ b % 2 ^ (a + 1 - b) = n / 2 ^ b % 2 ^ (a + 1 - b) := by
    intro n
    have e : 2 ^ lo = 2 ^ b * 2 ^ (lo - b) := by rw [← Nat.pow_add]; congr 1; omega
    rw [e, Nat.mod_mul_right_div_self, Nat.mod_mod_of_dvd]
    exact Nat.pow_dvd_pow 2 (by omega)
  unfold getBits
  rw [← key (putBits w hi lo v).toNat, putBits_toNat w hi lo v hlo hhi, Nat.add_mul_mod_self_left, Nat.mod_mod, key]

/-! ### Fields of the register file -/

theorem State.fget_fset_same (f : RF) (v i j : Nat) (h : f.lo ≤ f.hi ∧ f.hi < 32) :
    (s.fset f v i j).fget f i j = v % 2 ^ (f.hi + 1 - f.lo) := by
  unfold State.fget State.fset
  rw [s.rg_setRg_same, getBits_putBits_same _ _ _ _ h.1 h.2]

theorem State.fget_fset_reg (f g : RF) (v i j k l : Nat) (h : g.off k l ≠ f.off i j) :
    (s.fset f v i j).fget g k l = s.fget g k l := by
  unfold State.fget
  rw [s.rg_fset_ne h]

theorem State.fget_fset_field (f g : RF) (v i j k l : Nat) (h : f.lo ≤ f.hi ∧ f.hi < 32)
    (hg : g.lo ≤ g.hi ∧ (f.hi < g.lo ∨ g.hi < f.lo)) : (s.fset f v i j).fget g k l = s.fget g k l := by
  by_cases e : g.off k l = f.off i j
  · unfold State.fget State.fset
    rw [e, s.rg_setRg_same]
    rcases hg with ⟨h1, h2 | h2⟩
    · exact getBits_putBits_above _ _ _ _ _ _ h.1 h.2 h2
    · exact getBits_putBits_below _ _ _ _ _ _ h.1 h.2 h1 h2
  · exact s.fget_fset_reg f g v i j k l e

/-- A field of a register that an update does not write. -/
theorem State.fget_setRg (a : Nat) (w : Word) (g : RF) (k l : Nat) :
    (s.setRg a w).fget g k l = if g.off k l = a then getBits w g.hi g.lo else s.fget g k l := by
  unfold State.fget
  rw [s.rg_setRg]
  split <;> rfl

/-- Fields are read from the register file alone. -/
theorem State.fget_congr {s t : State} (h : t.regs = s.regs) (f : RF) (i j : Nat) : t.fget f i j = s.fget f i j := by
  unfold State.fget State.rg
  rw [h]

theorem State.rg_congr {s t : State} (h : t.regs = s.regs) (a : Nat) : t.rg a = s.rg a := by
  unfold State.rg
  rw [h]

/-- Whether a domain is on is read from `domains` alone. -/
theorem State.domOn_congr {s t : State} (h : t.domains = s.domains) (d : Domain) : t.domOn d = s.domOn d := by
  unfold State.domOn
  rw [h]

end Sys2Proof.Machine
end

