-- ==== Sys2Proof/Laws/Settle.lean ====
section
/-! SUPPORT. What the shared operations that count, report, raise, post and settle can do, said once: `Calm s t` lists what
they leave alone. -/

namespace Sys2Proof.Machine

open Sys2Proof

/-- Offsets outside the blocks GLB, HOST, DR and SLT and the two registers of SIP that show a standby's state, whose registers
settling may write. -/
abbrev calmOff (o : Nat) : Prop := 0x30000 ≤ o ∧ (o < 0x1B0000 ∨ 0x1C0000 ≤ o) ∧ o ≠ 0x158004 ∧ o ≠ 0x158034

/-- The time but for what says how far the frame in evaluation has come, which a standby that is no longer current drops. -/
abbrev Time.calm (t : Time) : Time := { t with clock := { t.clock with evaluating := false, staged := false } }

/-- The tandem state but for the ledger of the frame and for what a standby that is no longer current drops. -/
abbrev Tandem.calm (t : Tandem) : Tandem :=
  { t with ledger := [], started := false, reading := false, startHeld := false, digestHeld := none }

/-- `t` differs from `s` at most in registers of GLB, HOST, DR and SLT and the two of SIP, in the Reservoir, in what left the
device, in the frame ledger, in a standby's schedule, and in the state of MSI-X, of the rings, of the Ditchrider and of the Silt
trap. -/
structure Calm (s t : State) : Prop where
  latches : t.latches = s.latches
  heldHi : t.heldHi = s.heldHi
  tables : t.tables = s.tables
  cores : t.cores = s.cores
  gauges : t.gauges = s.gauges
  time : t.time.calm = s.time.calm
  fuses : t.fuses = s.fuses
  nodes : t.nodes = s.nodes
  fabric : t.fabric = s.fabric
  tandem : t.tandem.calm = s.tandem.calm
  cmp : t.cmp = s.cmp
  video : t.video = s.video
  net : t.net = s.net
  water : t.water = s.water
  die : t.die = s.die
  ras : t.ras = s.ras
  basin : t.basin = s.basin
  power : t.power = s.power
  sluice : t.sluice = s.sluice
  live_ : t.live_ = s.live_
  store : t.store = s.store
  thermal : t.thermal = s.thermal
  hourMs : t.hourMs = s.hourMs
  extest : t.extest = s.extest
  domains : t.domains = s.domains
  pending : t.pending = s.pending
  cistern : t.mem.cistern = s.mem.cistern
  pads : t.mem.pads = s.mem.pads
  pools : t.mem.pools = s.mem.pools
  badPads : t.mem.badPads = s.mem.badPads
  badPools : t.mem.badPools = s.mem.badPools
  regs : ∀ o, calmOff o → t.rg o = s.rg o

variable {s t u : State}

theorem Calm.refl (s : State) : Calm s s := by constructor <;> first | rfl | exact fun _ _ => rfl

theorem Calm.trans (a : Calm s t) (b : Calm t u) : Calm s u :=
  ⟨b.latches.trans a.latches, b.heldHi.trans a.heldHi, b.tables.trans a.tables, b.cores.trans a.cores,
   b.gauges.trans a.gauges, b.time.trans a.time, b.fuses.trans a.fuses, b.nodes.trans a.nodes, b.fabric.trans
   a.fabric, b.tandem.trans a.tandem, b.cmp.trans a.cmp, b.video.trans a.video, b.net.trans a.net, b.water.trans
   a.water, b.die.trans a.die, b.ras.trans a.ras, b.basin.trans a.basin, b.power.trans a.power, b.sluice.trans
   a.sluice, b.live_.trans a.live_, b.store.trans a.store, b.thermal.trans a.thermal, b.hourMs.trans a.hourMs,
   b.extest.trans a.extest, b.domains.trans a.domains, b.pending.trans a.pending, b.cistern.trans a.cistern,
   b.pads.trans a.pads, b.pools.trans a.pools, b.badPads.trans a.badPads, b.badPools.trans a.badPools,    fun o h =>
   (b.regs o h).trans (a.regs o h)⟩

/-- A part of the state that `Calm` does not speak of. -/
theorem Calm.of_parts (h : Calm s t) (hr : u.regs = t.regs) (hm : u.mem = t.mem)
    (e : u = { t with regs := u.regs, mem := u.mem, pcie := u.pcie, rings := u.rings, ditch := u.ditch, silt := u.silt,
                      free := u.free, out := u.out }) : Calm s u := by
  refine h.trans ?_
  constructor <;> first
    | (rw [hm])
    | (exact fun o _ => State.rg_congr hr o)
    | (rw [e])

theorem Calm.set (h : Calm s t) {a : Nat} (v : Word) (ha : ¬calmOff a) : Calm s (t.setRg a v) := by
  refine h.trans ?_
  constructor <;> first
    | rfl
    | exact fun o ho => t.rg_setRg_ne v (fun e => ha (e ▸ ho))

theorem Calm.put (h : Calm s t) {f : RF} {v i j : Nat} (ha : ¬calmOff (f.off i j)) : Calm s (t.fset f v i j) :=
  h.set _ ha

theorem Calm.foldl {α : Type} (l : List α) (f : State → α → State) (h : Calm s t) (hf : ∀ t a, Calm s t → Calm s (f t a)) :
    Calm s (l.foldl f t) := by
  induction l generalizing t with
  | nil => exact h
  | cons a l ih => exact ih (hf t a h)

theorem Calm.ite {c : Prop} [Decidable c] (ht : Calm s t) (hu : Calm s u) : Calm s (if c then t else u) := by
  split <;> assumption

/-! ### Counters and reports -/

theorem Calm.report (h : Calm s t) (c o d : Nat) : Calm s (t.report c o d) := by
  unfold State.report
  exact .ite (h.of_parts rfl rfl rfl) h

theorem Calm.bump (h : Calm s t) {a : Nat} (ha : ¬calmOff a) : Calm s (t.bump a) := by
  unfold State.bump
  exact .ite h (.ite ((h.set _ ha).report _ _ _) (h.set _ ha))

theorem Calm.bumpF (h : Calm s t) {f : RF} {i j : Nat} (ha : ¬calmOff (f.off i j)) : Calm s (t.bumpF f i j) :=
  h.bump ha

theorem Calm.emit (h : Calm s t) (e : Emission) : Calm s (t.emit e) := h.of_parts rfl rfl rfl

theorem Calm.sendVector (h : Calm s t) (v : Nat) : Calm s (t.sendVector v) := by
  unfold State.sendVector
  exact .ite (.ite (h.of_parts rfl rfl rfl) (h.emit _)) h

theorem Calm.raise (h : Calm s t) (v : Nat) : Calm s (t.raise v) := by
  unfold State.raise
  exact .ite ((h.put (by decide)).sendVector _) h

theorem Calm.accessErr (h : Calm s t) (w : Bool) (q : Requester) (o : Nat) : Calm s (t.accessErr w q o) := by
  unfold State.accessErr
  exact .ite ((((h.bumpF (by decide)).put (by decide)).put (by decide)).put (by decide)) h

/-! ### The Ditchrider's lists -/

theorem Calm.setTask (h : Calm s t) (i : Nat) (v : Option Task) : Calm s (t.setTask i v) := h.of_parts rfl rfl rfl

theorem Calm.joinReady (h : Calm s t) (i : Nat) (v : Task) (f e : Nat) : Calm s (t.joinReady i v f e) :=
  (h.setTask i _).of_parts rfl rfl rfl

theorem Calm.ledgerAdd (h : Calm s t) (k a : Nat) (b : List Nat) : Calm s (t.ledgerAdd k a b) := by
  refine h.trans ?_
  constructor <;> first
    | rfl
    | exact fun _ _ => rfl

theorem Calm.stopShadow (h : Calm s t) : Calm s t.stopShadow := by
  refine h.trans ?_
  constructor <;> first
    | rfl
    | exact fun _ _ => rfl

theorem Calm.notCurrent (h : Calm s t) (c : Nat) : Calm s (t.notCurrent c) := by
  unfold State.notCurrent
  exact .ite ((((h.put (by decide)).put (by decide)).bumpF (by decide)).report _ _ _).stopShadow h

theorem Calm.lateRelease (h : Calm s t) (handle : Nat) : Calm s (t.lateRelease handle) := by
  unfold State.lateRelease
  exact .ite (.ite h (h.notCurrent _)) (h.ledgerAdd _ _ _)

theorem Calm.releaseKept (h : Calm s t) (i : Nat) (v : Task) (f e : Nat) : Calm s (t.releaseKept i v f e) := by
  unfold State.releaseKept
  exact .ite (((((h.setTask _ _).bumpF (by decide)).bumpF (by decide)).report _ _ _).lateRelease _) (h.joinReady _ _ _ _)

theorem Calm.fireTask (h : Calm s t) (i : Nat) (v : Task) : Calm s (t.fireTask i v) := by
  unfold State.fireTask
  split
  · exact h.releaseKept _ _ _ _
  · exact (h.setTask _ _).bumpF (by decide)
  · exact .ite (h.setTask _ _) ((h.setTask _ _).bumpF (by decide))

theorem Calm.fireSource (h : Calm s t) (n : Nat) : Calm s (t.fireSource n) := by
  unfold State.fireSource
  refine h.foldl _ _ (fun t a h => ?_)
  split
  · exact .ite (h.fireTask _ _) h
  · exact h

/-! ### Completions and events -/

theorem Calm.setRing (h : Calm s t) (n : Nat) (v : Ring) : Calm s (t.setRing n v) := h.of_parts rfl rfl rfl

theorem Calm.signalCq (h : Calm s t) (n : Nat) : Calm s (t.signalCq n) := by
  unfold State.signalCq
  exact .ite ((h.setRing _ _).fireSource _) ((h.setRing _ _).sendVector _)

theorem Calm.moderate (h : Calm s t) (n : Nat) (irq : Bool) : Calm s (t.moderate n irq) := by
  unfold State.moderate
  exact .ite ((h.setRing _ _).signalCq _) (h.setRing _ _)

theorem Calm.reservoir (h : Calm s t) (m : Memory) : Calm s (t.setReservoir m) := by
  refine h.trans ?_
  constructor <;> first
    | rfl
    | exact fun _ _ => rfl

theorem Calm.dmaWrite (h : Calm s t) {l : List (Nat × Nat)} {p a : Nat} {b : List Byte} (e : t.dmaWrite l p a b = some u) :
    Calm s u := by
  unfold State.dmaWrite at e
  split at e <;> split at e
  · exact Option.some.inj e ▸ h.reservoir _
  · cases e
  · exact Option.some.inj e ▸ h.emit _
  · cases e

/-- The registers of a ring stand in the HOST block. -/
theorem ring_low {n : Nat} (hn : n < 1024) : ¬calmOff (R.HOST_RING_STATUS_state.off n) ∧ ¬calmOff (R.HOST_RING_CFG_enable.off n)
    ∧ ¬calmOff (R.HOST_RING_ERROR_COUNT.off n) := by
  simp only [calmOff, RF.off, R.HOST_RING_STATUS_state, R.HOST_RING_CFG_enable, R.HOST_RING_ERROR_COUNT]
  omega

theorem Calm.ringFault (h : Calm s t) {n : Nat} (hn : n < 1024) (e : Nat) : Calm s (t.ringFault n e) := by
  obtain ⟨a, b, c⟩ := ring_low hn
  have a' : ¬calmOff (R.HOST_RING_STATUS_error.off n) := a
  exact ((((h.put a).put a').put b).bumpF c).raise _

theorem Calm.loseCompletion (h : Calm s t) : Calm s t.loseCompletion := h.bumpF (by decide)

theorem Calm.writeCq (h : Calm s t) {n : Nat} (hn : n < 1024) (c : Completion) : Calm s (t.writeCq n c) := by
  unfold State.writeCq
  simp only
  split
  · next e => exact ((h.dmaWrite e).setRing _ _).moderate _ _
  · exact (Calm.ite (h.ringFault hn _) h).loseCompletion

theorem Calm.postCq (h : Calm s t) {n : Nat} (hn : n < 1024) (c : Completion) : Calm s (t.postCq n c) := by
  unfold State.postCq
  exact .ite (h.writeCq hn _) h.loseCompletion

theorem event_ring_lt (t : State) : t.fget R.HOST_CTRL_event_ring < 1024 :=
  Nat.lt_of_lt_of_le (getBits_lt _ _ _) (by decide)

theorem Calm.rings_ (h : Calm s t) (r : Rings) : Calm s { t with rings := r } := h.of_parts rfl rfl rfl

theorem Calm.postEvent (h : Calm s t) (b c : Nat) : Calm s (t.postEvent b c) := by
  unfold State.postEvent
  exact (h.rings_ _).postCq (event_ring_lt t) _

theorem Calm.event (h : Calm s t) (b c : Nat) : Calm s (t.event b c) := by
  unfold State.event
  exact .ite (.ite (h.postEvent _ _) (.ite (h.rings_ _) ((h.rings_ _).bumpF (by decide)))) h

/-- A completion posted by a ring's command. -/
theorem Calm.finish (h : Calm s t) {f : Flight} (hn : f.ring < 1024) (st r : Nat) (n : Option Nat) (m : Bool) :
    Calm s (t.finish f st r n m) := by
  unfold State.finish
  have hd : Calm s (t.dropFlight f.id) := h.rings_ _
  exact .ite hd (.ite (hd.event _ _) (hd.postCq hn _))

/-! ### The Silt trap -/

theorem Calm.siltRaise (h : Calm s t) (i c : Nat) : Calm s (t.siltRaise i c) := by
  unfold State.siltRaise
  exact .ite h (((h.raise _).event _ _).fireSource _)

theorem Calm.silt_ (h : Calm s t) (v : SiltTrap) (n : Nat) : Calm s { t with silt := v, free := n } := h.of_parts rfl rfl rfl

theorem Calm.siltTake (h : Calm s t) (g : Nat → List Nat) (r : Fltrep) : Calm s (t.siltTake g r) := by
  unfold State.siltTake
  generalize t.locate g r = q
  obtain ⟨c, l⟩ := q
  simp only
  split
  · exact (h.bumpF (by decide)).put (by decide)
  · exact .ite (h.silt_ _ _) ((h.silt_ _ _).siltRaise _ _)

theorem Calm.settleOnce (h : Calm s t) (g : Nat → List Nat) : Calm s (t.settleOnce g) := by
  unfold State.settleOnce
  exact Calm.foldl _ _ (h.of_parts rfl rfl rfl) (fun _ _ h => h.siltTake _ _)

/-- The counter of a ring's holds stands in the HOST block. -/
theorem stall_low {n : Nat} (hn : n < 32) : ¬calmOff (R.HOST_RING_STALL_COUNT.off n) := by
  simp only [calmOff, RF.off, R.HOST_RING_STALL_COUNT]
  omega

theorem Calm.countHold (h : Calm s t) {n : Nat} (hn : n < 32) : Calm s (t.countHold n) := by
  unfold State.countHold
  split
  · exact .ite ((h.rings_ _).bumpF (stall_low hn)) h
  · exact h

theorem Calm.countHolds (h : Calm s t) : Calm s t.countHolds := by
  have key : ∀ l : List Nat, (∀ n ∈ l, n < 32) → ∀ t, Calm s t → Calm s (l.foldl State.countHold t) := by
    intro l
    induction l with
    | nil => exact fun _ t h => h
    | cons n l ih =>
      exact fun hl t h => ih (fun m hm => hl m (List.mem_cons_of_mem _ hm)) _ (h.countHold (hl n List.mem_cons_self))
  exact key _ (fun n hn => List.mem_range.1 hn) _ h

/-- What the end of a command can do. -/
theorem Calm.settle (h : Calm s t) : Calm s t.settle := ((h.settleOnce _).settleOnce _).countHolds

theorem settle_calm (s : State) : Calm s s.settle := (Calm.refl s).settle

/-- With no report waiting, the trap takes in nothing. -/
theorem settleOnce_quiet (h : s.silt.incoming = []) (g : Nat → List Nat) : s.settleOnce g = s := by
  have e : (⟨s.silt.entries, []⟩ : SiltTrap) = s.silt := by rw [← h]
  unfold State.settleOnce
  rw [h]
  simp only [repSort, List.foldl_nil, e]

/-- A target presses back on descriptors of four opcodes alone (R54). -/
theorem pressed_opcode {ws : List Word} (h : s.pressed ws = true) : dOpcode ws ∈ [0x06, 0x08, 0x09, 0x0A] := by
  simp only [State.pressed, Bool.or_eq_true, Bool.and_eq_true, decide_eq_true_eq] at h
  simp only [List.mem_cons, List.not_mem_nil, or_false]
  tauto

/-- With every hold counted there is none to count. -/
theorem countHold_quiet (h : holdsCounted s.rings.inbox) (n : Nat) : s.countHold n = s := by
  unfold State.countHold
  split
  · next d hd =>
    refine if_neg fun c => ?_
    simp only [Bool.and_eq_true, Bool.not_eq_true'] at c
    rcases h d (List.mem_of_find?_eq_some hd) with k | k
    · rw [k] at c; exact absurd c.1.2 (by decide)
    · exact k (pressed_opcode c.1.1)
  · rfl

theorem countHolds_quiet (h : holdsCounted s.rings.inbox) : s.countHolds = s := by
  unfold State.countHolds
  generalize List.range 32 = l
  induction l with
  | nil => rfl
  | cons n l ih => rw [List.foldl_cons, countHold_quiet h, ih]

/-- With nothing waiting for it, the end of a command does nothing. -/
theorem settle_quiet (h : s.quiet) : s.settle = s := by
  unfold State.settle
  simp only [settleOnce_quiet h.1, countHolds_quiet h.2]

end Sys2Proof.Machine
end

