-- ==== Sys2Proof/Laws/Cores.lean ====
section
/-! SUPPORT. The laws of a cue core's registers, of the lanes, of a retired instruction and of a trap. -/

namespace Sys2Proof.Machine

open Sys2Proof

theorem State.core_setCore (s : State) (k j : Nat) (c : Core) : (s.setCore k c).core j = if j = k then c else s.core j :=
  mget_mset _ _ _ _ _

@[simp] theorem State.core_setCore_same (s : State) (k : Nat) (c : Core) : (s.setCore k c).core k = c := mget_mset_same _ _ _ _

theorem State.core_setCore_ne (s : State) {k j : Nat} (c : Core) (h : j ≠ k) : (s.setCore k c).core j = s.core j :=
  mget_mset_ne _ _ _ h

theorem State.core_congr {s t : State} (h : t.cores = s.cores) (k : Nat) : t.core k = s.core k := by
  unfold State.core
  rw [h]

theorem setCore_only (s : State) (k : Nat) (c : Core) : OnlyCore k s (s.setCore k c) :=
  ⟨rfl, fun _ h => s.core_setCore_ne c h⟩

theorem OnlyCore.trans {k : Nat} {s t u : State} (a : OnlyCore k s t) (b : OnlyCore k t u) : OnlyCore k s u :=
  ⟨b.1.trans (by rw [a.1]), fun j h => (b.2 j h).trans (a.2 j h)⟩

/-! ### Tasks -/

theorem State.task_congr {s t : State} (h : t.ditch.pool = s.ditch.pool) (i : Nat) : t.task i = s.task i := by
  unfold State.task
  rw [h]

@[simp] theorem State.task_setTask_same (s : State) (i : Nat) (v : Option Task) : (s.setTask i v).task i = v :=
  mget_mset_same _ _ _ _

theorem State.task_setTask_ne (s : State) {i j : Nat} (v : Option Task) (h : j ≠ i) : (s.setTask i v).task j = s.task j :=
  mget_mset_ne _ _ _ h

@[simp] theorem State.task_setCore (s : State) (k i : Nat) (c : Core) : (s.setCore k c).task i = s.task i := rfl

@[simp] theorem State.task_coreSet (s : State) (k d i : Nat) (v : Word) : (s.coreSet k d v).task i = s.task i := rfl

@[simp] theorem State.task_unlist (s : State) (i j : Nat) : (s.unlist i).task j = s.task j := rfl

theorem State.task_freeTask_same (s : State) (i : Nat) : (s.freeTask i).task i = none := s.unlist i |>.task_setTask_same i none

theorem State.task_freeTask_ne (s : State) {i j : Nat} (h : j ≠ i) : (s.freeTask i).task j = s.task j :=
  (s.unlist i).task_setTask_ne none h

/-- With no cluster on its way into service nothing is reported. -/
theorem clusterReports_none {s : State} (h : s.ditch.draining = []) : s.clusterReports = s := by
  have e : ∀ c, s.clusterReport c = s := by
    intro c
    unfold State.clusterReport
    rw [h]
    rfl
  unfold State.clusterReports
  rw [e, e]

/-! ### Registers -/

@[simp] theorem Core.xr_zero (c : Core) : c.xr 0 = 0 := rfl

theorem Core.setX_xr (c : Core) (rd r : Nat) (v : Word) : (c.setX rd v).xr r = if r = rd ∧ rd ≠ 0 then v else c.xr r := by
  unfold Core.setX Core.xr
  by_cases h : rd = 0
  · simp [h]
  · by_cases hr : r = 0
    · subst hr; simp [h, Ne.symm h]
    · simp [h, hr, mget_mset]

theorem Core.setX_xr_same (c : Core) {rd : Nat} (v : Word) (h : rd ≠ 0) : (c.setX rd v).xr rd = v := by
  simp [Core.setX_xr, h]

theorem Core.setX_xr_ne (c : Core) {rd r : Nat} (v : Word) (h : r ≠ rd) : (c.setX rd v).xr r = c.xr r := by
  simp [Core.setX_xr, h]

theorem Core.setX_eq (c : Core) (rd : Nat) (v : Word) : c.setX rd v = { c with x := (c.setX rd v).x } := by
  unfold Core.setX
  split <;> rfl

theorem Core.setCsr_csrr (c : Core) (n m : Nat) (v : Word) : (c.setCsr n v).csrr m = if m = n then v else c.csrr m :=
  mget_mset _ _ _ _ _

@[simp] theorem Core.setCsr_pc (c : Core) (n : Nat) (v : Word) : (c.setCsr n v).pc = c.pc := rfl
@[simp] theorem Core.setCsr_xr (c : Core) (n r : Nat) (v : Word) : (c.setCsr n v).xr r = c.xr r := rfl

/-! ### Lanes -/

theorem lane0_lt (w : Word) : lane0 w < 65536 := getBits_lt w 15 0

theorem lane1_lt (w : Word) : lane1 w < 65536 := getBits_lt w 31 16

theorem lane0_eq (w : Word) : lane0 w = w.toNat % 65536 := by simp [lane0, getBits]

theorem lane1_eq (w : Word) : lane1 w = w.toNat / 65536 := by
  have := w.isLt
  simp only [lane1, getBits]
  omega

theorem lanes_toNat {a b : Nat} (ha : a < 65536) (hb : b < 65536) : (lanes a b).toNat = laneWord a b := by
  unfold lanes laneWord
  rw [BitVec.toNat_ofNat]
  omega

/-! ### A retired instruction -/

/-- What an instruction that writes a register does. -/
theorem retired_coreSet (s : State) (k rd : Nat) (v : Word) : Retired k rd v.toNat s (s.coreSet k rd v) := by
  have hx : ∀ r, ((s.coreSet k rd v).core k).xr r = ((s.core k).setX rd v).xr r := fun r => by
    unfold State.coreSet
    rw [State.core_setCore_same]
    rfl
  refine ⟨setCore_only _ _ _, fun h => ?_, rfl, fun r h => ?_, ?_, ?_, ?_⟩
  · rw [hx, Core.setX_xr_same _ _ h]
  · rw [hx, Core.setX_xr_ne _ _ h]
  · unfold State.coreSet
    rw [State.core_setCore_same]
  · unfold State.coreSet
    rw [State.core_setCore_same, Core.setX_eq]
    rfl
  · intro h
    unfold State.coreSet
    rw [State.core_setCore_same, Core.setX_eq]
    simp [Core.ended, h]

theorem retired_xhnk2 {s : State} {k rd r1 r2 : Nat} {f : Word → Word → Word} {v : Nat} (h : s.coreReady k = true)
    (hv : (f ((s.core k).xr r1) ((s.core k).xr r2)).toNat = v) : Retired k rd v s (s.xhnk2 k rd r1 r2 f) := by
  unfold State.xhnk2
  rw [if_pos h, ← hv]
  exact retired_coreSet _ _ _ _

/-! ### A trap -/

theorem Core.trapTo_x (c : Core) (a b d e : Word) : (c.trapTo a b d e).x = c.x := rfl

theorem Core.trapTo_pc (c : Core) (a b d e : Word) : (c.trapTo a b d e).pc = e := rfl

theorem Core.trapTo_msip (c : Core) (a b d e : Word) : (c.trapTo a b d e).msip = c.msip := rfl

theorem Core.trapTo_meip (c : Core) (a b d e : Word) : (c.trapTo a b d e).meip = c.meip := rfl

theorem Core.trapTo_csrr (c : Core) (a b d e : Word) (m : Nat) : (c.trapTo a b d e).csrr m =
    if m = csrMstatus then d else if m = csrMtval then b else if m = csrMcause then a else if m = csrMepc then c.pc
    else c.csrr m := by
  rw [← Core.setCsr_csrr, ← Core.setCsr_csrr, ← Core.setCsr_csrr, ← Core.setCsr_csrr]
  rfl

theorem Core.trap_xr (c : Core) (i : Bool) (n : Nat) (v : Word) (r : Nat) : (c.trap i n v).xr r = c.xr r := by
  unfold Core.trap Core.xr
  rw [Core.trapTo_x]

theorem Core.trap_msip (c : Core) (i : Bool) (n : Nat) (v : Word) : (c.trap i n v).msip = c.msip := by
  unfold Core.trap
  rw [Core.trapTo_msip]

theorem Core.trap_csrr (c : Core) (i : Bool) (n : Nat) (v : Word) (m : Nat) : (c.trap i n v).csrr m =
    if m = csrMstatus then
      putBits (putBits (putBits (c.csrr csrMstatus) 7 7 (getBits (c.csrr csrMstatus) 3 3)) 3 3 0) 12 11 3
    else if m = csrMtval then v
    else if m = csrMcause then BitVec.ofNat 32 (b2n i * 2 ^ 31 + n)
    else if m = csrMepc then c.pc
    else c.csrr m := by
  unfold Core.trap
  rw [Core.trapTo_csrr]

/-- An exception goes to the base of `mtvec`. -/
theorem Core.trap_pc (c : Core) (n : Nat) (v : Word) :
    (c.trap false n v).pc = BitVec.ofNat 32 ((c.csrr csrMtvec).toNat / 4 * 4) := by
  unfold Core.trap
  rw [Core.trapTo_pc]
  simp only [Bool.false_and, Bool.false_eq_true, if_false]

end Sys2Proof.Machine
end

