-- ==== Sys2Proof/Laws/Writes.lean ====
section
/-! SUPPORT. A 32-bit write of one register whose domain is on, from its requester to its effect. -/

namespace Sys2Proof.Machine

open Sys2Proof

variable {s : State} {req : Requester} {off : Nat} {r : RegRow} {i j : Nat}

/-- What a requester that may write a register does with it. -/
theorem write1_reg (host : HostView) (v : Word) (hq : s.canWrite req off) (hf : findReg off = some (r, i, j)) (ha : off % 4 = 0)
    (hb : off < barEnd) (hd : s.domOn r.dom = true) : s.regWrite req host off 4 v = s.writeReg req host r i j v := by
  have e : off / 4 * 4 = off := by omega
  have ho : s.offDomain off = false := by
    unfold State.offDomain
    rw [if_neg (by omega), e, hf]
    simp [hd]
  have hw : ∀ q : Requester, (q = .tap → ¬(0x180000 ≤ off ∧ off < 0x190000)) →
      s.barWrite q host off 4 v = s.writeReg q host r i j v := by
    intro q hn
    unfold State.barWrite
    rw [if_neg (by simp [ho, ha]), if_neg (by tauto), if_neg (by omega), hf]
  cases req with
  | host => exact hw _ (fun h => nomatch h)
  | core k => exact hw _ (fun h => nomatch h)
  | smbus =>
    show (if _ then _ else _) = _
    rw [if_pos (show s.smbMay true off = true from hq), hw .smbus (fun h => nomatch h)]
  | tap =>
    obtain ⟨h1, h2, h3⟩ := hq
    show (if _ then _ else if _ then _ else _) = _
    rw [if_neg (by simp [h1]), if_neg h2, hw _ (fun _ => h3)]

/-- A register of its own, with an effect beyond its access codes. -/
theorem writeReg_own {v : Word} {host : HostView} {t : State} (h1 : r.readOnly = false) (h2 : r.half = .single)
    (h3 : s.ownWrite req host r i j v = some t) : s.writeReg req host r i j v = t := by
  unfold State.writeReg
  rw [h1]
  simp only [Bool.false_and, Bool.false_eq_true, if_false, h2, h3, Option.getD_some]

/-- A register that its access codes alone decide. -/
theorem writeReg_plain {v : Word} {host : HostView} (h1 : r.readOnly = false) (h2 : r.half = .single)
    (h3 : s.ownWrite req host r i j v = none) : s.writeReg req host r i j v = s.plainWrite r i j v := by
  unfold State.writeReg
  rw [h1]
  simp only [Bool.false_and, Bool.false_eq_true, if_false, h2, h3, Option.getD_none]

/-- The two together, for the commands that name their register. -/
theorem write1_own {v : Word} {t : State} (hq : s.canWrite req off) (hf : findReg off = some (r, i, j)) (ha : off % 4 = 0)
    (hb : off < barEnd) (hd : s.domOn r.dom = true) (h1 : r.readOnly = false) (h2 : r.half = .single)
    (h3 : s.ownWrite req {} r i j v = some t) : s.write1 req off v = t := by
  unfold State.write1
  rw [write1_reg {} v hq hf ha hb hd, writeReg_own h1 h2 h3]

/-- Where the requester may write the register and its domain is on. -/
theorem write1_reg_on (host : HostView) (v : Word) (hm : s.mayWrite req off) (hf : findReg off = some (r, i, j))
    (ha : off % 4 = 0) (hb : off < barEnd) : s.regWrite req host off 4 v = s.writeReg req host r i j v := by
  refine write1_reg host v hm.1 hf ha hb ?_
  have h := hm.2
  unfold State.offDomain at h
  rw [if_neg (by omega), show off / 4 * 4 = off by omega, hf] at h
  simpa using h

/-- A command that writes its own register, with the effect that the register's block gives. -/
theorem write1_on {v : Word} {t : State} (hm : s.mayWrite req off) (hf : findReg off = some (r, i, j)) (ha : off % 4 = 0)
    (hb : off < barEnd) (h1 : r.readOnly = false) (h2 : r.half = .single)
    (h3 : s.ownWrite req {} r i j v = some t) : s.write1 req off v = t := by
  unfold State.write1
  rw [write1_reg_on {} v hm hf ha hb, writeReg_own h1 h2 h3]

end Sys2Proof.Machine
end

