-- ==== Sys2Proof/Laws/Frames.lean ====
section
/-! SUPPORT. Frames of the shared operations that count and report, and the laws of ports, flume contexts, byte lists and the
cores' pools. -/

namespace Sys2Proof.Machine

open Sys2Proof

/-! ### Counting and reporting -/

/-- `t` is `s` but for registers and the Silt trap. -/
def Counts (s t : State) : Prop := t = { s with regs := t.regs, silt := t.silt }

namespace Counts

variable {s t u : State}

theorem refl (s : State) : Counts s s := rfl

theorem trans (a : Counts s t) (b : Counts t u) : Counts s u := by
  unfold Counts at *
  rw [b, a]

theorem eq (h : Counts s t) : t = { s with regs := t.regs, silt := t.silt } := h

end Counts

theorem State.bump_spec (s : State) (o : Nat) :
    Counted o s (s.bump o) ∧ (∀ q, q ≠ o → (s.bump o).rg q = s.rg q) ∧ Counts s (s.bump o) := by
  have hm : maxWord = 4294967295 := rfl
  have hl := (s.rg o).isLt
  unfold State.bump State.report Counted
  dsimp only
  split
  · exact ⟨by omega, fun _ _ => rfl, rfl⟩
  · split <;> try split
    all_goals
      refine ⟨?_, fun q hq => State.rg_setRg_ne _ _ hq, rfl⟩
      show BitVec.toNat (State.rg (State.setRg _ _ _) _) = _
      rw [State.rg_setRg_same, BitVec.toNat_ofNat]
      omega

theorem State.report_counts (s : State) (a b c : Nat) : Counts s (s.report a b c) := by
  unfold State.report
  split <;> rfl

@[simp] theorem State.regs_report (s : State) (a b c : Nat) : (s.report a b c).regs = s.regs := by
  unfold State.report
  split <;> rfl

@[simp] theorem State.rg_report (s : State) (a b c o : Nat) : (s.report a b c).rg o = s.rg o := State.rg_congr (s.regs_report _ _ _) o

/-- A counter that has counts to go is only set. -/
theorem State.bump_may {s : State} {o : Nat} (h : s.mayCount o) : s.bump o = s.setRg o (BitVec.ofNat 32 ((s.rg o).toNat + 1)) := by
  have hm : maxWord = 4294967295 := rfl
  unfold State.mayCount at h
  unfold State.bump
  simp only
  rw [if_neg (by omega), if_neg (by omega)]

theorem State.bumpF_may {s : State} {f : RF} {i j : Nat} (h : s.mayCount (f.off i j)) :
    s.bumpF f i j = s.setRg (f.off i j) (BitVec.ofNat 32 ((s.rg (f.off i j)).toNat + 1)) := State.bump_may h

theorem counted_set {s t : State} {o : Nat} (h : s.mayCount o) (e : t.rg o = BitVec.ofNat 32 ((s.rg o).toNat + 1)) : Counted o s t := by
  unfold Counted
  unfold State.mayCount at h
  rw [e, BitVec.toNat_ofNat]
  omega

/-! ### Lists of bytes -/

theorem leBytes_length (v n : Nat) : (leBytes v n).length = n := by
  induction n generalizing v with
  | zero => rfl
  | succ n ih => simp [leBytes, ih]

theorem memRead_length (m : Memory) (a n : Nat) : (memRead m a n).length = n := by
  induction n generalizing a with
  | zero => rfl
  | succ n ih => simp [memRead, ih]

theorem memRead_get (m : Memory) (a n k : Nat) (h : k < (memRead m a n).length) : (memRead m a n)[k] = memByte m (a + k) := by
  induction n generalizing a k with
  | zero => simp [memRead] at h
  | succ n ih =>
    cases k with
    | zero => rfl
    | succ k =>
      simp only [memRead, List.getElem_cons_succ]
      rw [ih]
      congr 1
      omega

theorem memNat_lt (m : Memory) (a : Nat) : memNat m a 4 < 2 ^ 32 := by
  have h0 := (memByte m a).isLt
  have h1 := (memByte m (a + 1)).isLt
  have h2 := (memByte m (a + 1 + 1)).isLt
  have h3 := (memByte m (a + 1 + 1 + 1)).isLt
  simp only [memNat, memRead, leNat]
  omega

/-- A word written reads back. -/
theorem memNat_memWrite (m : Memory) (a v : Nat) (hv : v < 2 ^ 32) : memNat (memWrite m a (leBytes v 4)) a 4 = v := by
  have e : memRead (memWrite m a (leBytes v 4)) a 4 = leBytes v 4 := by
    apply List.ext_getElem
    · rw [memRead_length, leBytes_length]
    · intro k h1 h2
      rw [memRead_get, memByte_memWrite_in]
  unfold memNat
  rw [e]
  simp only [leBytes, leNat, BitVec.toNat_ofNat]
  omega

/-! ### Pools and core interrupts -/

theorem mget_map {β : Type} (d : Nat → β) (g : Nat × β → β) (m : List (Nat × β)) (j : Nat) (hd : g (j, d j) = d j) :
    mget d (m.map (fun e => (e.1, g e))) j = g (j, mget d m j) := by
  induction m with
  | nil => simp [mget, hd]
  | cons e t ih =>
    simp only [List.map_cons, mget]
    split
    · next h => subst h; rfl
    · exact ih

/-- A write to a pool ends the reservations of its cluster's cores on the word, and touches no core otherwise. -/
theorem State.core_poolWrite (s : State) (c off : Nat) (b : List Byte) (j : Nat) :
    (s.poolWrite c off b).core j = if clusterOf j = c ∧ ((s.core j).resv.any (fun r => decide (r / 4 = off / 4))) then
      { s.core j with resv := none } else s.core j := by
  have e : (s.cores.map (fun e => if clusterOf e.1 = c ∧ (e.2.resv.any (fun r => decide (r / 4 = off / 4))) then
      (e.1, { e.2 with resv := none }) else e)) = s.cores.map (fun e => (e.1, (fun e : Nat × Core =>
        if clusterOf e.1 = c ∧ (e.2.resv.any (fun r => decide (r / 4 = off / 4))) then { e.2 with resv := none } else e.2) e)) := by
    apply List.map_congr_left
    intro e _
    by_cases hh : clusterOf e.1 = c ∧ Option.any (fun r => decide (r / 4 = off / 4)) e.2.resv = true
    · simp only [if_pos hh]
    · simp only [if_neg hh]
  unfold State.poolWrite State.core
  simp only
  rw [e]
  exact mget_map core0 _ _ _ (by simp [core0])

/-- Taking an interrupt changes its core alone, and the list of cores that wait. -/
theorem State.coreInterrupt_frame (s : State) (k : Nat) :
    s.coreInterrupt k = { s with cores := (s.coreInterrupt k).cores,
                                 ditch := { s.ditch with waiting := (s.coreInterrupt k).ditch.waiting } } ∧
      (∀ j, j ≠ k → (s.coreInterrupt k).core j = s.core j) ∧ ((s.coreInterrupt k).core k).msip = (s.core k).msip := by
  unfold State.coreInterrupt
  dsimp only
  split
  · split
    · exact ⟨rfl, fun _ _ => rfl, rfl⟩
    · split
      · refine ⟨rfl, fun j hj => State.core_setCore_ne _ _ hj, ?_⟩
        rw [State.core_setCore_same, Core.trap_msip]
      · refine ⟨rfl, fun j hj => State.core_setCore_ne _ _ hj, ?_⟩
        rw [State.core_setCore_same, Core.trap_msip]
        show (Core.setX _ _ _).msip = _
        rw [Core.setX_eq]
  · exact ⟨rfl, fun _ _ => rfl, rfl⟩

/-! ### Ports and flume contexts -/

theorem State.port_setPort (s : State) (p q : Nat) (v : Port) : (s.setPort p v).port q = if q = p then v else s.port q :=
  mget_mset _ _ _ _ _

@[simp] theorem State.port_setPort_same (s : State) (p : Nat) (v : Port) : (s.setPort p v).port p = v := mget_mset_same _ _ _ _

theorem State.port_setPort_ne (s : State) {p q : Nat} (v : Port) (h : q ≠ p) : (s.setPort p v).port q = s.port q :=
  mget_mset_ne _ _ _ h

theorem State.port_congr {s t : State} (h : t.die.ports = s.die.ports) (p : Nat) : t.port p = s.port p := by
  unfold State.port
  rw [h]

theorem setPort_only (s : State) (p : Nat) (v : Port) : OnlyPort p s (s.setPort p v) :=
  ⟨rfl, fun _ h => s.port_setPort_ne v h⟩

theorem setFlow_only (s : State) (p : Nat) (f : Flow) : OnlyPort p s (s.setFlow p f) := setPort_only _ _ _

theorem State.port_setFlow_same (s : State) (p : Nat) (f : Flow) : (s.setFlow p f).port p = { s.port p with flow := f } :=
  s.port_setPort_same _ _

theorem Flow.setReg_reg (f : Flow) (d r : Nat) (v : Word) : (f.setReg d v).reg r = if r = d ∧ d ≠ 0 then v else f.reg r := by
  unfold Flow.setReg Flow.reg
  by_cases h : d = 0
  · simp [h]
  · by_cases hr : r = 0
    · subst hr; simp [h, Ne.symm h]
    · simp [h, hr, mget_mset]

theorem Flow.setReg_eq (f : Flow) (d : Nat) (v : Word) : f.setReg d v = { f with g := (f.setReg d v).g } := by
  unfold Flow.setReg
  split <;> rfl

theorem State.flume_setFlume (s : State) (f g : Nat) (v : Flume) : (s.setFlume f v).flume g = if g = f then v else s.flume g :=
  mget_mset _ _ _ _ _

/-- A cycle of a port's slice and a new context change nothing beside them. -/
theorem flowCycle_only (s : State) (p : Nat) (f : Flow) : OnlyFlow p s ((s.flowCycle p).setFlow p f) :=
  ⟨rfl, fun _ h => State.port_setPort_ne (s.flowCycle p) _ h, (s.flume_setFlume _ _ _).trans (if_pos rfl),
    fun _ h => (s.flume_setFlume _ _ _).trans (if_neg h)⟩

/-- What an instruction that computes does to a context. -/
theorem flumeSet_of {s : State} {p d : Nat} (w : Word) :
    FlumeSet p d w.toNat s ((s.flowCycle p).setFlow p ((s.port p).flow.setReg d w).next) := by
  have e : (s.flowCycle p).port p = s.port p := rfl
  refine ⟨flowCycle_only _ _ _, fun h => ?_, fun r hr => ?_, ?_, ?_⟩ <;> rw [State.port_setFlow_same, e]
  · show ((Flow.setReg _ _ _).reg _).toNat = _
    rw [Flow.setReg_reg, if_pos ⟨rfl, h⟩]
  · show (Flow.setReg _ _ _).reg _ = _
    rw [Flow.setReg_reg, if_neg (by tauto)]
  · show ((Flow.setReg _ _ _).pc + 1) % 16384 = _
    rw [Flow.setReg_eq]
  · dsimp only
    rw [Flow.setReg_eq]
    rfl

end Sys2Proof.Machine
end

