-- ==== Sys2Proof/Laws/Parts.lean ====
section
/-! SUPPORT. The records of numbered units: a record after its own update, after that of another, and after a write of a
register. -/

namespace Sys2Proof.Machine

open Sys2Proof

variable (s : State)

section gate

variable (n : Nat) (v : Gate)

@[simp] theorem State.gate_setGate_same : (s.setGate n v).gate n = v := mget_mset_same _ _ _ _
theorem State.gate_setGate_ne {k : Nat} (h : k ≠ n) : (s.setGate n v).gate k = s.gate k := mget_mset_ne _ _ _ h
theorem State.gate_congr {s t : State} (h : t.time.gates = s.time.gates) (n : Nat) : t.gate n = s.gate n := by unfold State.gate; rw [h]
@[simp] theorem State.gate_setRg (o : Nat) (w : Word) : (s.setRg o w).gate n = s.gate n := State.gate_congr (by rw [State.setRg_time]) n
@[simp] theorem State.gate_fset (f : RF) (w i j : Nat) : (s.fset f w i j).gate n = s.gate n := State.gate_congr (by rw [State.fset_time]) n
@[simp] theorem State.rg_setGate (o : Nat) : (s.setGate n v).rg o = s.rg o := State.rg_congr (by rw [State.setGate_regs]) o
@[simp] theorem State.fget_setGate (f : RF) (i j : Nat) : (s.setGate n v).fget f i j = s.fget f i j := State.fget_congr (by rw [State.setGate_regs]) f i j

end gate

section mac

variable (n : Nat) (v : NetMac)

@[simp] theorem State.mac_setMac_same : (s.setMac n v).mac n = v := mget_mset_same _ _ _ _
theorem State.mac_setMac_ne {k : Nat} (h : k ≠ n) : (s.setMac n v).mac k = s.mac k := mget_mset_ne _ _ _ h
theorem State.mac_congr {s t : State} (h : t.net.macs = s.net.macs) (n : Nat) : t.mac n = s.mac n := by unfold State.mac; rw [h]
@[simp] theorem State.mac_setRg (o : Nat) (w : Word) : (s.setRg o w).mac n = s.mac n := State.mac_congr (by rw [State.setRg_net]) n
@[simp] theorem State.mac_fset (f : RF) (w i j : Nat) : (s.fset f w i j).mac n = s.mac n := State.mac_congr (by rw [State.fset_net]) n
@[simp] theorem State.rg_setMac (o : Nat) : (s.setMac n v).rg o = s.rg o := State.rg_congr (by rw [State.setMac_regs]) o
@[simp] theorem State.fget_setMac (f : RF) (i j : Nat) : (s.setMac n v).fget f i j = s.fget f i j := State.fget_congr (by rw [State.setMac_regs]) f i j

end mac

section port

variable (n : Nat) (v : Port)

@[simp] theorem State.port_setRg (o : Nat) (w : Word) : (s.setRg o w).port n = s.port n := State.port_congr (by rw [State.setRg_die]) n
@[simp] theorem State.port_fset (f : RF) (w i j : Nat) : (s.fset f w i j).port n = s.port n := State.port_congr (by rw [State.fset_die]) n
@[simp] theorem State.rg_setPort (o : Nat) : (s.setPort n v).rg o = s.rg o := State.rg_congr (by rw [State.setPort_regs]) o
@[simp] theorem State.fget_setPort (f : RF) (i j : Nat) : (s.setPort n v).fget f i j = s.fget f i j := State.fget_congr (by rw [State.setPort_regs]) f i j

end port

section flume

variable (n : Nat) (v : Flume)

@[simp] theorem State.flume_setFlume_same : (s.setFlume n v).flume n = v := mget_mset_same _ _ _ _
theorem State.flume_setFlume_ne {k : Nat} (h : k ≠ n) : (s.setFlume n v).flume k = s.flume k := mget_mset_ne _ _ _ h
theorem State.flume_congr {s t : State} (h : t.die.flumes = s.die.flumes) (n : Nat) : t.flume n = s.flume n := by unfold State.flume; rw [h]
@[simp] theorem State.flume_setRg (o : Nat) (w : Word) : (s.setRg o w).flume n = s.flume n := State.flume_congr (by rw [State.setRg_die]) n
@[simp] theorem State.flume_fset (f : RF) (w i j : Nat) : (s.fset f w i j).flume n = s.flume n := State.flume_congr (by rw [State.fset_die]) n
@[simp] theorem State.rg_setFlume (o : Nat) : (s.setFlume n v).rg o = s.rg o := State.rg_congr (by rw [State.setFlume_regs]) o
@[simp] theorem State.fget_setFlume (f : RF) (i j : Nat) : (s.setFlume n v).fget f i j = s.fget f i j := State.fget_congr (by rw [State.setFlume_regs]) f i j

end flume

section core

variable (n : Nat) (v : Core)

@[simp] theorem State.core_setRg (o : Nat) (w : Word) : (s.setRg o w).core n = s.core n := State.core_congr (by rw [State.setRg_cores]) n
@[simp] theorem State.core_fset (f : RF) (w i j : Nat) : (s.fset f w i j).core n = s.core n := State.core_congr (by rw [State.fset_cores]) n
@[simp] theorem State.rg_setCore (o : Nat) : (s.setCore n v).rg o = s.rg o := State.rg_congr (by rw [State.setCore_regs]) o
@[simp] theorem State.fget_setCore (f : RF) (i j : Nat) : (s.setCore n v).fget f i j = s.fget f i j := State.fget_congr (by rw [State.setCore_regs]) f i j

end core

section ring

variable (n : Nat) (v : Ring)

@[simp] theorem State.ring_setRing_same : (s.setRing n v).ring n = v := mget_mset_same _ _ _ _
theorem State.ring_setRing_ne {k : Nat} (h : k ≠ n) : (s.setRing n v).ring k = s.ring k := mget_mset_ne _ _ _ h
theorem State.ring_congr {s t : State} (h : t.rings.ring = s.rings.ring) (n : Nat) : t.ring n = s.ring n := by unfold State.ring; rw [h]
@[simp] theorem State.ring_setRg (o : Nat) (w : Word) : (s.setRg o w).ring n = s.ring n := State.ring_congr (by rw [State.setRg_rings]) n
@[simp] theorem State.ring_fset (f : RF) (w i j : Nat) : (s.fset f w i j).ring n = s.ring n := State.ring_congr (by rw [State.fset_rings]) n
@[simp] theorem State.rg_setRing (o : Nat) : (s.setRing n v).rg o = s.rg o := State.rg_congr (by rw [State.setRing_regs]) o
@[simp] theorem State.fget_setRing (f : RF) (i j : Nat) : (s.setRing n v).fget f i j = s.fget f i j := State.fget_congr (by rw [State.setRing_regs]) f i j

end ring

section gauge

variable (n : Nat) (v : Gauge)

@[simp] theorem State.gauge_setGauge_same : (s.setGauge n v).gauge n = v := mget_mset_same _ _ _ _
theorem State.gauge_setGauge_ne {k : Nat} (h : k ≠ n) : (s.setGauge n v).gauge k = s.gauge k := mget_mset_ne _ _ _ h
theorem State.gauge_congr {s t : State} (h : t.gauges = s.gauges) (n : Nat) : t.gauge n = s.gauge n := by unfold State.gauge; rw [h]
@[simp] theorem State.gauge_setRg (o : Nat) (w : Word) : (s.setRg o w).gauge n = s.gauge n := State.gauge_congr (by rw [State.setRg_gauges]) n
@[simp] theorem State.gauge_fset (f : RF) (w i j : Nat) : (s.fset f w i j).gauge n = s.gauge n := State.gauge_congr (by rw [State.fset_gauges]) n
@[simp] theorem State.rg_setGauge (o : Nat) : (s.setGauge n v).rg o = s.rg o := State.rg_congr (by rw [State.setGauge_regs]) o
@[simp] theorem State.fget_setGauge (f : RF) (i j : Nat) : (s.setGauge n v).fget f i j = s.fget f i j := State.fget_congr (by rw [State.setGauge_regs]) f i j

end gauge

section entry

variable (n : Nat) (v : Silt)

@[simp] theorem State.entry_setEntry_same : (s.setEntry n v).entry n = v := mget_mset_same _ _ _ _
theorem State.entry_setEntry_ne {k : Nat} (h : k ≠ n) : (s.setEntry n v).entry k = s.entry k := mget_mset_ne _ _ _ h
theorem State.entry_congr {s t : State} (h : t.silt.entries = s.silt.entries) (n : Nat) : t.entry n = s.entry n := by unfold State.entry; rw [h]
@[simp] theorem State.entry_setRg (o : Nat) (w : Word) : (s.setRg o w).entry n = s.entry n := State.entry_congr (by rw [State.setRg_silt]) n
@[simp] theorem State.entry_fset (f : RF) (w i j : Nat) : (s.fset f w i j).entry n = s.entry n := State.entry_congr (by rw [State.fset_silt]) n
@[simp] theorem State.rg_setEntry (o : Nat) : (s.setEntry n v).rg o = s.rg o := State.rg_congr (by rw [State.setEntry_regs]) o
@[simp] theorem State.fget_setEntry (f : RF) (i j : Nat) : (s.setEntry n v).fget f i j = s.fget f i j := State.fget_congr (by rw [State.setEntry_regs]) f i j

end entry

section zone

variable (n : Nat) (v : Zone)

@[simp] theorem State.zone_setZone_same : (s.setZone n v).zone n = v := mget_mset_same _ _ _ _
theorem State.zone_setZone_ne {k : Nat} (h : k ≠ n) : (s.setZone n v).zone k = s.zone k := mget_mset_ne _ _ _ h
theorem State.zone_congr {s t : State} (h : t.water.zones = s.water.zones) (n : Nat) : t.zone n = s.zone n := by unfold State.zone; rw [h]
@[simp] theorem State.zone_setRg (o : Nat) (w : Word) : (s.setRg o w).zone n = s.zone n := State.zone_congr (by rw [State.setRg_water]) n
@[simp] theorem State.zone_fset (f : RF) (w i j : Nat) : (s.fset f w i j).zone n = s.zone n := State.zone_congr (by rw [State.fset_water]) n
@[simp] theorem State.rg_setZone (o : Nat) : (s.setZone n v).rg o = s.rg o := State.rg_congr (by rw [State.setZone_regs]) o
@[simp] theorem State.fget_setZone (f : RF) (i j : Nat) : (s.setZone n v).fget f i j = s.fget f i j := State.fget_congr (by rw [State.setZone_regs]) f i j

end zone

section member

variable (n : Nat) (v : Member)

@[simp] theorem State.member_setMember_same : (s.setMember n v).member n = v := mget_mset_same _ _ _ _
theorem State.member_setMember_ne {k : Nat} (h : k ≠ n) : (s.setMember n v).member k = s.member k := mget_mset_ne _ _ _ h
theorem State.member_congr {s t : State} (h : t.water.members = s.water.members) (n : Nat) : t.member n = s.member n := by unfold State.member; rw [h]
@[simp] theorem State.member_setRg (o : Nat) (w : Word) : (s.setRg o w).member n = s.member n := State.member_congr (by rw [State.setRg_water]) n
@[simp] theorem State.member_fset (f : RF) (w i j : Nat) : (s.fset f w i j).member n = s.member n := State.member_congr (by rw [State.fset_water]) n
@[simp] theorem State.rg_setMember (o : Nat) : (s.setMember n v).rg o = s.rg o := State.rg_congr (by rw [State.setMember_regs]) o
@[simp] theorem State.fget_setMember (f : RF) (i j : Nat) : (s.setMember n v).fget f i j = s.fget f i j := State.fget_congr (by rw [State.setMember_regs]) f i j

end member

section bport

variable (n : Nat) (v : BasinPort)

@[simp] theorem State.bport_setBport_same : (s.setBport n v).bport n = v := mget_mset_same _ _ _ _
theorem State.bport_setBport_ne {k : Nat} (h : k ≠ n) : (s.setBport n v).bport k = s.bport k := mget_mset_ne _ _ _ h
theorem State.bport_congr {s t : State} (h : t.basin.ports = s.basin.ports) (n : Nat) : t.bport n = s.bport n := by unfold State.bport; rw [h]
@[simp] theorem State.bport_setRg (o : Nat) (w : Word) : (s.setRg o w).bport n = s.bport n := State.bport_congr (by rw [State.setRg_basin]) n
@[simp] theorem State.bport_fset (f : RF) (w i j : Nat) : (s.fset f w i j).bport n = s.bport n := State.bport_congr (by rw [State.fset_basin]) n
@[simp] theorem State.rg_setBport (o : Nat) : (s.setBport n v).rg o = s.rg o := State.rg_congr (by rw [State.setBport_regs]) o
@[simp] theorem State.fget_setBport (f : RF) (i j : Nat) : (s.setBport n v).fget f i j = s.fget f i j := State.fget_congr (by rw [State.setBport_regs]) f i j

end bport

section canvas

variable (n : Nat) (v : Canvas)

@[simp] theorem State.canvas_setCanvas_same : (s.setCanvas n v).canvas n = v := mget_mset_same _ _ _ _
theorem State.canvas_setCanvas_ne {k : Nat} (h : k ≠ n) : (s.setCanvas n v).canvas k = s.canvas k := mget_mset_ne _ _ _ h
theorem State.canvas_congr {s t : State} (h : t.cmp.canvases = s.cmp.canvases) (n : Nat) : t.canvas n = s.canvas n := by unfold State.canvas; rw [h]
@[simp] theorem State.canvas_setRg (o : Nat) (w : Word) : (s.setRg o w).canvas n = s.canvas n := State.canvas_congr (by rw [State.setRg_cmp]) n
@[simp] theorem State.canvas_fset (f : RF) (w i j : Nat) : (s.fset f w i j).canvas n = s.canvas n := State.canvas_congr (by rw [State.fset_cmp]) n
@[simp] theorem State.rg_setCanvas (o : Nat) : (s.setCanvas n v).rg o = s.rg o := State.rg_congr (by rw [State.setCanvas_regs]) o
@[simp] theorem State.fget_setCanvas (f : RF) (i j : Nat) : (s.setCanvas n v).fget f i j = s.fget f i j := State.fget_congr (by rw [State.setCanvas_regs]) f i j

end canvas

section vid

variable (n : Nat) (v : Video)

@[simp] theorem State.vid_setVid_same : (s.setVid n v).vid n = v := mget_mset_same _ _ _ _
theorem State.vid_setVid_ne {k : Nat} (h : k ≠ n) : (s.setVid n v).vid k = s.vid k := mget_mset_ne _ _ _ h
theorem State.vid_congr {s t : State} (h : t.video = s.video) (n : Nat) : t.vid n = s.vid n := by unfold State.vid; rw [h]
@[simp] theorem State.vid_setRg (o : Nat) (w : Word) : (s.setRg o w).vid n = s.vid n := State.vid_congr (by rw [State.setRg_video]) n
@[simp] theorem State.vid_fset (f : RF) (w i j : Nat) : (s.fset f w i j).vid n = s.vid n := State.vid_congr (by rw [State.fset_video]) n
@[simp] theorem State.rg_setVid (o : Nat) : (s.setVid n v).rg o = s.rg o := State.rg_congr (by rw [State.setVid_regs]) o
@[simp] theorem State.fget_setVid (f : RF) (i j : Nat) : (s.setVid n v).fget f i j = s.fget f i j := State.fget_congr (by rw [State.setVid_regs]) f i j

end vid

section aud

variable (n : Nat) (v : Audio)

@[simp] theorem State.aud_setAud_same : (s.setAud n v).aud n = v := mget_mset_same _ _ _ _
theorem State.aud_setAud_ne {k : Nat} (h : k ≠ n) : (s.setAud n v).aud k = s.aud k := mget_mset_ne _ _ _ h
theorem State.aud_congr {s t : State} (h : t.net.audio = s.net.audio) (n : Nat) : t.aud n = s.aud n := by unfold State.aud; rw [h]
@[simp] theorem State.aud_setRg (o : Nat) (w : Word) : (s.setRg o w).aud n = s.aud n := State.aud_congr (by rw [State.setRg_net]) n
@[simp] theorem State.aud_fset (f : RF) (w i j : Nat) : (s.fset f w i j).aud n = s.aud n := State.aud_congr (by rw [State.fset_net]) n
@[simp] theorem State.rg_setAud (o : Nat) : (s.setAud n v).rg o = s.rg o := State.rg_congr (by rw [State.setAud_regs]) o
@[simp] theorem State.fget_setAud (f : RF) (i j : Nat) : (s.setAud n v).fget f i j = s.fget f i j := State.fget_congr (by rw [State.setAud_regs]) f i j

end aud

section env

variable (n : Nat) (v : Env)

@[simp] theorem State.env_setEnv_same : (s.setEnv n v).env n = v := mget_mset_same _ _ _ _
theorem State.env_setEnv_ne {k : Nat} (h : k ≠ n) : (s.setEnv n v).env k = s.env k := mget_mset_ne _ _ _ h
theorem State.env_congr {s t : State} (h : t.net.env = s.net.env) (n : Nat) : t.env n = s.env n := by unfold State.env; rw [h]
@[simp] theorem State.env_setRg (o : Nat) (w : Word) : (s.setRg o w).env n = s.env n := State.env_congr (by rw [State.setRg_net]) n
@[simp] theorem State.env_fset (f : RF) (w i j : Nat) : (s.fset f w i j).env n = s.env n := State.env_congr (by rw [State.fset_net]) n
@[simp] theorem State.rg_setEnv (o : Nat) : (s.setEnv n v).rg o = s.rg o := State.rg_congr (by rw [State.setEnv_regs]) o
@[simp] theorem State.fget_setEnv (f : RF) (i j : Nat) : (s.setEnv n v).fget f i j = s.fget f i j := State.fget_congr (by rw [State.setEnv_regs]) f i j

end env

section ro

variable (n : Nat) (v : RasOut)

@[simp] theorem State.ro_setRo_same : (s.setRo n v).ro n = v := mget_mset_same _ _ _ _
theorem State.ro_setRo_ne {k : Nat} (h : k ≠ n) : (s.setRo n v).ro k = s.ro k := mget_mset_ne _ _ _ h
theorem State.ro_congr {s t : State} (h : t.ras = s.ras) (n : Nat) : t.ro n = s.ro n := by unfold State.ro; rw [h]
@[simp] theorem State.ro_setRg (o : Nat) (w : Word) : (s.setRg o w).ro n = s.ro n := State.ro_congr (by rw [State.setRg_ras]) n
@[simp] theorem State.ro_fset (f : RF) (w i j : Nat) : (s.fset f w i j).ro n = s.ro n := State.ro_congr (by rw [State.fset_ras]) n
@[simp] theorem State.rg_setRo (o : Nat) : (s.setRo n v).rg o = s.rg o := State.rg_congr (by rw [State.setRo_regs]) o
@[simp] theorem State.fget_setRo (f : RF) (i j : Nat) : (s.setRo n v).fget f i j = s.fget f i j := State.fget_congr (by rw [State.setRo_regs]) f i j

end ro

section rill

variable (n : Nat) (v : Rill)

@[simp] theorem State.rill_setRill_same : (s.setRill n v).rill n = v := mget_mset_same _ _ _ _
theorem State.rill_setRill_ne {k : Nat} (h : k ≠ n) : (s.setRill n v).rill k = s.rill k := mget_mset_ne _ _ _ h
theorem State.rill_congr {s t : State} (h : t.fabric.rills = s.fabric.rills) (n : Nat) : t.rill n = s.rill n := by unfold State.rill; rw [h]
@[simp] theorem State.rill_setRg (o : Nat) (w : Word) : (s.setRg o w).rill n = s.rill n := State.rill_congr (by rw [State.setRg_fabric]) n
@[simp] theorem State.rill_fset (f : RF) (w i j : Nat) : (s.fset f w i j).rill n = s.rill n := State.rill_congr (by rw [State.fset_fabric]) n
@[simp] theorem State.rg_setRill (o : Nat) : (s.setRill n v).rg o = s.rg o := State.rg_congr (by rw [State.setRill_regs]) o
@[simp] theorem State.fget_setRill (f : RF) (i j : Nat) : (s.setRill n v).fget f i j = s.fget f i j := State.fget_congr (by rw [State.setRill_regs]) f i j

end rill

section calUnit

variable (n : Nat) (v : CalUnit)

@[simp] theorem State.calUnit_setCalUnit_same : (s.setCalUnit n v).calUnit n = v := mget_mset_same _ _ _ _
theorem State.calUnit_setCalUnit_ne {k : Nat} (h : k ≠ n) : (s.setCalUnit n v).calUnit k = s.calUnit k := mget_mset_ne _ _ _ h
theorem State.calUnit_congr {s t : State} (h : t.thermal.units = s.thermal.units) (n : Nat) : t.calUnit n = s.calUnit n := by unfold State.calUnit; rw [h]
@[simp] theorem State.calUnit_setRg (o : Nat) (w : Word) : (s.setRg o w).calUnit n = s.calUnit n := State.calUnit_congr (by rw [State.setRg_thermal]) n
@[simp] theorem State.calUnit_fset (f : RF) (w i j : Nat) : (s.fset f w i j).calUnit n = s.calUnit n := State.calUnit_congr (by rw [State.fset_thermal]) n
@[simp] theorem State.rg_setCalUnit (o : Nat) : (s.setCalUnit n v).rg o = s.rg o := State.rg_congr (by rw [State.setCalUnit_regs]) o
@[simp] theorem State.fget_setCalUnit (f : RF) (i j : Nat) : (s.setCalUnit n v).fget f i j = s.fget f i j := State.fget_congr (by rw [State.setCalUnit_regs]) f i j

end calUnit

section task

variable (n : Nat) (v : Option Task)

@[simp] theorem State.task_setRg (o : Nat) (w : Word) : (s.setRg o w).task n = s.task n := State.task_congr (by rw [State.setRg_ditch]) n
@[simp] theorem State.task_fset (f : RF) (w i j : Nat) : (s.fset f w i j).task n = s.task n := State.task_congr (by rw [State.fset_ditch]) n
@[simp] theorem State.rg_setTask (o : Nat) : (s.setTask n v).rg o = s.rg o := State.rg_congr (by rw [State.setTask_regs]) o
@[simp] theorem State.fget_setTask (f : RF) (i j : Nat) : (s.setTask n v).fget f i j = s.fget f i j := State.fget_congr (by rw [State.setTask_regs]) f i j

end task

@[simp] theorem State.rg_emit (e : Emission) (o : Nat) : (s.emit e).rg o = s.rg o := State.rg_congr (by rw [State.emit_regs]) o
@[simp] theorem State.rg_setBasin (v : Basin) (o : Nat) : (s.setBasin v).rg o = s.rg o := State.rg_congr (by rw [State.setBasin_regs]) o
@[simp] theorem State.fget_setBasin (v : Basin) (f : RF) (i j : Nat) : (s.setBasin v).fget f i j = s.fget f i j := State.fget_congr (by rw [State.setBasin_regs]) f i j
@[simp] theorem State.rg_setTandem (v : Tandem) (o : Nat) : (s.setTandem v).rg o = s.rg o := State.rg_congr (by rw [State.setTandem_regs]) o
@[simp] theorem State.fget_setTandem (v : Tandem) (f : RF) (i j : Nat) : (s.setTandem v).fget f i j = s.fget f i j := State.fget_congr (by rw [State.setTandem_regs]) f i j
@[simp] theorem State.rg_setPower (v : Power) (o : Nat) : (s.setPower v).rg o = s.rg o := State.rg_congr (by rw [State.setPower_regs]) o
@[simp] theorem State.fget_setPower (v : Power) (f : RF) (i j : Nat) : (s.setPower v).fget f i j = s.fget f i j := State.fget_congr (by rw [State.setPower_regs]) f i j
@[simp] theorem State.rg_setSluice (v : Sluice) (o : Nat) : (s.setSluice v).rg o = s.rg o := State.rg_congr (by rw [State.setSluice_regs]) o
@[simp] theorem State.fget_setSluice (v : Sluice) (f : RF) (i j : Nat) : (s.setSluice v).fget f i j = s.fget f i j := State.fget_congr (by rw [State.setSluice_regs]) f i j
@[simp] theorem State.rg_setLive (v : Live) (o : Nat) : (s.setLive v).rg o = s.rg o := State.rg_congr (by rw [State.setLive_regs]) o
@[simp] theorem State.fget_setLive (v : Live) (f : RF) (i j : Nat) : (s.setLive v).fget f i j = s.fget f i j := State.fget_congr (by rw [State.setLive_regs]) f i j
@[simp] theorem State.rg_setThermal (v : Thermal) (o : Nat) : (s.setThermal v).rg o = s.rg o := State.rg_congr (by rw [State.setThermal_regs]) o
@[simp] theorem State.fget_setThermal (v : Thermal) (f : RF) (i j : Nat) : (s.setThermal v).fget f i j = s.fget f i j := State.fget_congr (by rw [State.setThermal_regs]) f i j
@[simp] theorem State.rg_setClock (v : FrameClock) (o : Nat) : (s.setClock v).rg o = s.rg o := State.rg_congr (by rw [State.setClock_regs]) o
@[simp] theorem State.fget_setClock (v : FrameClock) (f : RF) (i j : Nat) : (s.setClock v).fget f i j = s.fget f i j := State.fget_congr (by rw [State.setClock_regs]) f i j

end Sys2Proof.Machine
end

