-- ==== Sys2Proof/Laws/Answers.lean ====
section
/-! SUPPORT. What a proof of a command's answer needs again and again: that a state stays quiet, which registers an update
touches, and the answer of a register write. An update with a literal offset must be rewritten by these, never unfolded: the
register file's default is a long computation. -/

namespace Sys2Proof.Machine

open Sys2Proof

theorem quiet_of {s t : State} (h : t.silt = s.silt) (hr : t.rings = s.rings) (hq : s.quiet) : t.quiet := by
  unfold State.quiet; rw [h, hr]; exact hq

theorem ans_own {s : State} {req : Requester} {off : Nat} {r : RegRow} {i j : Nat} {v : Word} {t : State} {P : State → Prop}
   (hm : s.mayWrite req off) (hf : findReg off = some (r, i, j)) (ha : off % 4 = 0)
    (hb : off < barEnd) (h1 : r.readOnly = false) (h2 : r.half = .single)
    (h3 : s.ownWrite req {} r i j v = some t) (hq : t.quiet) (hP : P t) : Answers (.next (s.write1 req off v).settle) P := by
  rw [write1_on hm hf ha hb h1 h2 h3, settle_quiet hq]
  exact ⟨t, rfl, hP⟩

theorem ans_own' {s : State} {req : Requester} {off : Nat} {r : RegRow} {i j : Nat} {v : Word} {t : State} {P : State → Prop}
   (hm : s.mayWrite req off) (hf : findReg off = some (r, i, j)) (ha : off % 4 = 0)
    (hb : off < barEnd) (h1 : r.readOnly = false) (h2 : r.half = .single)
    (h3 : s.ownWrite req {} r i j v = some t) (hP : P t.settle) : Answers (.next (s.write1 req off v).settle) P := by
  rw [write1_on hm hf ha hb h1 h2 h3]
  exact ⟨_, rfl, hP⟩

theorem ans_quiet {t : State} {P : State → Prop} (hq : t.quiet) (h : P t) : Answers (.next t.settle) P :=
  ⟨t, congrArg _ (settle_quiet hq), h⟩

theorem ans_settle {s : State} {P : State → Prop} (h : ∀ t, Calm s t → P t) : Answers (.next s.settle) P :=
  ⟨_, rfl, h _ (settle_calm s)⟩

theorem ans_calm {s t : State} {P : State → Prop} (h : ∀ u, Calm s u → P u) (e : t = s.settle) : Answers (.next t) P :=
  ⟨t, rfl, h t (e ▸ settle_calm s)⟩

theorem fbit_fset (s : State) (f : RF) (b : Bool) (i j : Nat) (h : f.lo = f.hi ∧ f.hi < 32) : (s.fset f (b2n b) i j).fbit f i j = b := by
  unfold State.fbit
  rw [s.fget_fset_same _ _ _ _ ⟨h.1.le, h.2⟩, h.1]
  cases b <;> simp [b2n]

theorem fbit_fset_field (s : State) (f g : RF) (v i j k l : Nat) (h : f.lo ≤ f.hi ∧ f.hi < 32)
    (hg : g.lo ≤ g.hi ∧ (f.hi < g.lo ∨ g.hi < f.lo)) : (s.fset f v i j).fbit g k l = s.fbit g k l := by
  unfold State.fbit; rw [s.fget_fset_field _ _ _ _ _ _ _ h hg]

theorem only_fset {s : State} {f : RF} {v i j : Nat} : OnlyRegs [f.off i j] s (s.fset f v i j) :=
  ⟨rfl, fun o ho => s.rg_fset_ne (by simpa using ho)⟩
theorem only_setRg {s : State} {o : Nat} {v : Word} : OnlyRegs [o] s (s.setRg o v) :=
  ⟨rfl, fun p ho => s.rg_setRg_ne _ (by simpa using ho)⟩
theorem only_trans {s t u : State} {l : List Nat} (a : OnlyRegs l s t) (b : OnlyRegs l t u) : OnlyRegs l s u :=
  ⟨by rw [b.1, a.1], fun o h => (b.2 o h).trans (a.2 o h)⟩

def RegsIn (P : Nat → Prop) (s t : State) : Prop := t = { s with regs := t.regs } ∧ ∀ o, ¬P o → t.rg o = s.rg o
theorem RegsIn.refl (P) (s : State) : RegsIn P s s := ⟨rfl, fun _ _ => rfl⟩
theorem RegsIn.trans {P} {s t u : State} (a : RegsIn P s t) (b : RegsIn P t u) : RegsIn P s u :=
  ⟨by rw [b.1, a.1], fun o h => (b.2 o h).trans (a.2 o h)⟩
theorem RegsIn.set {P} {s t : State} (a : RegsIn P s t) (o : Nat) (v : Word) (h : P o) : RegsIn P s (t.setRg o v) :=
  a.trans ⟨rfl, fun p hp => t.rg_setRg_ne _ (fun e => hp (e ▸ h))⟩
theorem RegsIn.put {P} {s t : State} (a : RegsIn P s t) (f : RF) (v i j : Nat) (h : P (f.off i j)) : RegsIn P s (t.fset f v i j) :=
  a.set _ _ h
theorem RegsIn.foldl {P} {α : Type} {s : State} (l : List α) (g : State → α → State) (t : State) (a : RegsIn P s t)
   (hg : ∀ t, RegsIn P s t → ∀ x ∈ l, RegsIn P s (g t x)) : RegsIn P s (l.foldl g t) := by
  induction l generalizing t with
  | nil => exact a
  | cons x l ih => exact ih _ (hg _ a x (by simp)) (fun t ht y hy => hg t ht y (by simp [hy]))
theorem RegsIn.quiet {P} {s t : State} (a : RegsIn P s t) (h : s.quiet) : t.quiet := by rw [a.1]; exact h
theorem lsb_put31 (v : Word) (n : Nat) : (putBits v 31 31 n).getLsbD 31 = decide (n % 2 = 1) := by
  have h := getBits_putBits_same v 31 31 n (by decide) (by decide)
  have : ∀ w : Word, w.getLsbD 31 = decide (getBits w 31 31 = 1) := by
    intro w; simp only [getBits, BitVec.getLsbD, Nat.testBit_eq_decide_div_mod_eq]; simp
  rw [this, h]; simp
theorem lsb_hi (w : Word) (n : Nat) (hn : n < 32) : w.getLsbD n = decide (getBits w n n = 1) := by
  simp only [getBits, BitVec.getLsbD, Nat.testBit_eq_decide_div_mod_eq, show n+1-n = 1 by omega, Nat.pow_one]
theorem ans_ownE {s : State} {req : Requester} {off : Nat} {r : RegRow} {i j : Nat} {v : Word} {t w : State} {P : State → Prop}
   (hm : s.mayWrite req off) (hf : findReg off = some (r, i, j)) (ha : off % 4 = 0)
    (hb : off < barEnd) (h1 : r.readOnly = false) (h2 : r.half = .single)
    (h3 : s.ownWrite req {} r i j v = some w) (e : w = t) (hq : t.quiet) (hP : P t) : Answers (.next (s.write1 req off v).settle) P := by
  subst e; exact ans_own hm hf ha hb h1 h2 h3 hq hP
theorem bkey : ∀ b c : Bool, b = false ∨ c = true → (b && !c) = false := by decide
theorem bkey3 : ∀ b d c : Bool, b = false ∨ c = true → (b && d && !c) = false := by decide
theorem bkey3' : ∀ b c d : Bool, b = false ∨ c = true → (b && !c && d) = false := by decide

end Sys2Proof.Machine
end

