-- ==== Sys2Proof/Laws/Descriptors.lean ====
section
/-! SUPPORT. Descriptors: what their start comes to where nothing refuses them, an operand of one piece, and the entry that a
completion writes. -/

namespace Sys2Proof.Machine

open Sys2Proof

theorem start_plain {s : State} {d rest op} {is good : List Word → Bool} {f : State → Flight → State} (h : s.NextDesc d rest op)
   (h1 : is d.words = true) (h2 : good d.words = true) (h3 : frameTimed op = false) :
    s.startDesc is good f = f (s.withFlight rest (s.flightOf d 0)) (s.flightOf d 0) := by
  unfold State.startDesc
  rw [h.next]
  simp only [h.opcode, h.common, h.allowed, h1, h2, h3, if_true, Bool.false_eq_true, if_false, Bool.not_true, Bool.or_false, Bool.false_and]
  rfl

theorem start_timed {s : State} {d rest op} {is good : List Word → Bool} {f : State → Flight → State} (h : s.NextDesc d rest op)
   (h1 : is d.words = true) (h2 : good d.words = true) (h3 : frameTimed op = true) (h4 : s.onTime d) :
    s.startDesc is good f = f (s.withFlight rest (s.flightOf d (s.frameOf d))) (s.flightOf d (s.frameOf d)) := by
  have e : s.actFrame d = (s.frameOf d, false) := by
    unfold State.actFrame State.frameOf
    rcases h4 with h4 | h4
    · simp [h4]
    · by_cases ha : dAsap d.words = true
      · simp [ha]
      · simp [ha, Nat.not_lt.mpr h4]
  unfold State.startDesc
  rw [h.next]
  simp only [h.opcode, h.common, h.allowed, h1, h2, h3, e, if_true, Bool.false_eq_true, if_false, Bool.not_true, Bool.or_false, Bool.false_and]
  rfl

theorem isOp_of {s : State} {d rest op} (h : s.NextDesc d rest op) : isOp op d.words = true := by
  unfold isOp; simp [h.opcode]

theorem pieces_one (s : State) (v : HostView) (ws : List Word) (h : aScatter ws = false) : s.pieces v ws = .ok [(aAddr ws, aLength ws)] := by
  unfold State.pieces; simp [h]

theorem gather_one {s : State} {v : HostView} {ws : List Word} (h : s.operandOk v ws) :
    s.gather v (aSpace ws) [(aAddr ws, aLength ws)] = some (s.operandAt v ws) := by
  obtain ⟨-, h⟩ := h
  unfold State.gather State.dmaRead State.operandAt
  simp only [State.gather]
  by_cases h1 : aSpace ws = 1
  · simp only [h1, if_true] at h ⊢
    simp [h]
  · simp only [h1, if_false] at h ⊢
    simp [h.1, h.2, rangesHit]

theorem operandBytes_one {s : State} {v : HostView} {ws : List Word} (h : s.operandOk v ws) :
    s.operandBytes v ws = .inl (s.operandAt v ws) := by
  unfold State.operandBytes
  rw [pieces_one _ _ _ h.1]
  simp only [gather_one h]

theorem answerA_one {s : State} {v : HostView} {f : Flight} {b : List Byte} {r : Nat} (h : s.operandOk v f.words)
   (hb : b.length ≤ aLength f.words) : s.answerA v f b r = (s.operandPut f.words b).setFlight { f with count := r, applied := true } := by
  have hok := h
  obtain ⟨h0, h⟩ := h
  have hs : s.spread v.fails (aSpace f.words) [(aAddr f.words, aLength f.words)] b = some (s.operandPut f.words b) := by
    have hl : b.take (aLength f.words) = b := List.take_of_length_le hb
    unfold State.spread State.dmaWrite State.operandPut
    rw [hl]
    by_cases h1 : aSpace f.words = 1
    · simp only [h1, if_true] at h ⊢
      have : s.resOk (aAddr f.words) b.length = true := by
        unfold State.resOk at h ⊢; simp only [Bool.and_eq_true, decide_eq_true_eq] at h ⊢; exact ⟨h.1, by omega⟩
      simp [this, State.spread]; rfl
    · simp only [h1, if_false] at h ⊢
      simp [h.1, h.2, rangesHit, State.spread]; rfl
  unfold State.answerA
  rw [pieces_one _ _ _ h0]
  simp only [hs]


theorem sendVector_spec (s : State) (v : Nat) : s.sendVector v = { s with pcie := { s.pcie with pending := (s.sendVector v).pcie.pending }, out := (s.sendVector v).out } ∧ s.out <:+ (s.sendVector v).out := by
  unfold State.sendVector
  split
  · split
    · exact ⟨rfl, List.suffix_refl _⟩
    · exact ⟨rfl, List.suffix_cons _ _⟩
  · exact ⟨rfl, List.suffix_refl _⟩

theorem ring_setRing_same (s : State) (n : Nat) (v : Ring) : (s.setRing n v).ring n = v := mget_mset_same _ _ _ _
theorem ring_setRing_ne (s : State) (n m : Nat) (v : Ring) (h : m ≠ n) : (s.setRing n v).ring m = s.ring m := mget_mset_ne _ _ _ h

theorem ring_of (t : State) (l) (n) (h : t.rings.ring = l) : t.ring n = mget ring0 l n := by unfold State.ring; rw [h]

theorem ringPlace_setRing (s : State) (n m : Nat) (v : Ring) : (s.setRing n v).ringPlace m = s.ringPlace m := rfl

theorem signal_spec (s : State) (n : Nat) (hp : s.ringPlace n = 0) : ∃ l p o, s.signalCq n = { s with rings := { s.rings with ring := l }, pcie := { s.pcie with pending := p }, out := o } ∧
    s.out <:+ o ∧ mget ring0 l n = { s.ring n with unsignalled := 0 } ∧ ∀ m, m ≠ n → mget ring0 l m = s.ring m := by
  unfold State.signalCq
  dsimp only
  rw [if_neg (by rw [hp]; decide)]
  obtain ⟨e, h⟩ := sendVector_spec (s.setRing n { s.ring n with unsignalled := 0 }) (s.fget R.HOST_RING_CFG_vector n)
  exact ⟨_, _, _, e, h, ring_setRing_same _ _ _, fun m hm => ring_setRing_ne _ _ _ _ hm⟩

theorem moderate_spec (s : State) (n : Nat) (q : Bool) (hp : s.ringPlace n = 0) : ∃ l p o, s.moderate n q = { s with rings := { s.rings with ring := l }, pcie := { s.pcie with pending := p }, out := o } ∧
    s.out <:+ o ∧ (mget ring0 l n).cqTail = (s.ring n).cqTail := by
  unfold State.moderate
  dsimp only
  generalize hr : ({ s.ring n with unsignalled := (s.ring n).unsignalled + 1, unsignalledSince := if (s.ring n).unsignalled = 0 then s.now else (s.ring n).unsignalledSince } : Ring) = r
  have hr' : r.cqTail = (s.ring n).cqTail := by rw [← hr]
  split
  · obtain ⟨l, p, o, e, h1, h2, -⟩ := signal_spec (s.setRing n r) n (by rw [ringPlace_setRing]; exact hp)
    refine ⟨l, p, o, e, h1, ?_⟩
    rw [h2, ring_setRing_same, ← hr']
  · exact ⟨_, s.pcie.pending, s.out, rfl, List.suffix_refl _, (congrArg Ring.cqTail (ring_setRing_same s n r)).trans hr'⟩

theorem writeCq_spec (s : State) (n : Nat) (c : Completion) (h : s.canPost n) : ∃ l p o, s.writeCq n c = { s with rings := { s.rings with ring := l }, pcie := { s.pcie with pending := p }, out := o } ∧
   s.out <:+ o ∧ Emission.hostWrite (s.cqBase n + 32 * ((s.ring n).cqTail % 2 ^ s.cqLog n))
      (cplBytes c (phaseOf (s.ring n).cqTail (s.cqLog n)) (s.fget R.HOST_RING_STATUS_sq_head n)) ∈ o ∧
   (mget ring0 l n).cqTail = ((s.ring n).cqTail + 1) % 2 ^ (s.cqLog n + 1) := by
  obtain ⟨h1, h2, h3, h4, h5⟩ := h
  unfold State.writeCq State.dmaWrite
  dsimp only
  rw [h2, if_neg (by decide), if_pos (by rw [h3, h4]; rfl)]
  dsimp only
  generalize hE : Emission.hostWrite _ _ = E
  obtain ⟨l, p, o, e, k1, k2⟩ := moderate_spec ((s.emit E).setRing n { s.ring n with cqTail := ((s.ring n).cqTail + 1) % 2 ^ (s.cqLog n + 1) }) n c.irq (by rw [ringPlace_setRing]; exact h2)
  refine ⟨l, p, o, e, (List.suffix_cons E s.out).trans k1, k1.subset (List.mem_cons_self ..), ?_⟩
  rw [k2, ring_setRing_same]

theorem postCq_spec (s : State) (n : Nat) (c : Completion) (h : s.canPost n) : s.postCq n c = s.writeCq n c := by
  unfold State.postCq; rw [h.1, Bool.true_or, if_pos rfl]

theorem canPost_drop {s : State} {n : Nat} (h : s.canPost n) (id : Nat) : (s.dropFlight id).canPost n := h

theorem finish_spec (s : State) (f : Flight) (st r : Nat) (fr : Option Nat) (h : s.canPost f.ring) (hb : f.basin = false)
    (hs : f.shadow = false) : ∃ l p o, s.finish f st r fr = { s with rings := { s.rings with ring := l, flight := s.rings.flight.filter (fun g => g.id ≠ f.id) }, pcie := { s.pcie with pending := p }, out := o } ∧
    s.out <:+ o ∧ Emission.hostWrite (s.cqBase f.ring + 32 * ((s.ring f.ring).cqTail % 2 ^ s.cqLog f.ring))
      (cplBytes { completionOf f.words st r (fr.getD s.frame) with late := f.late && fr.isSome } (phaseOf (s.ring f.ring).cqTail (s.cqLog f.ring)) (s.fget R.HOST_RING_STATUS_sq_head f.ring)) ∈ o ∧
    (mget ring0 l f.ring).cqTail = ((s.ring f.ring).cqTail + 1) % 2 ^ (s.cqLog f.ring + 1) := by
  unfold State.finish
  rw [if_neg (by rw [h.2.2.2.2, hs]; decide), if_neg (by rw [hb]; decide), postCq_spec _ _ _ (canPost_drop h _)]
  exact writeCq_spec (s.dropFlight f.id) f.ring _ (canPost_drop h _)

theorem finish_none (s : State) (f : Flight) (st r : Nat) (h : s.canPost f.ring) (hb : f.basin = false)
    (hs : f.shadow = false) : ∃ l p o, s.finish f st r = { s with rings := { s.rings with ring := l, flight := s.rings.flight.filter (fun g => g.id ≠ f.id) }, pcie := { s.pcie with pending := p }, out := o } ∧
    s.out <:+ o ∧ Emission.hostWrite (s.cqBase f.ring + 32 * ((s.ring f.ring).cqTail % 2 ^ s.cqLog f.ring))
      (cplBytes (completionOf f.words st r s.frame) (phaseOf (s.ring f.ring).cqTail (s.cqLog f.ring)) (s.fget R.HOST_RING_STATUS_sq_head f.ring)) ∈ o ∧
    (mget ring0 l f.ring).cqTail = ((s.ring f.ring).cqTail + 1) % 2 ^ (s.cqLog f.ring + 1) := by
  obtain ⟨l, p, o, e, k1, k2, k3⟩ := finish_spec s f st r none h hb hs
  have : (f.late && (none : Option Nat).isSome) = false := by simp
  rw [this] at k2
  exact ⟨l, p, o, e, k1, k2, k3⟩

theorem filter_new (s : State) (d : Fetched) (rest) (n : Nat) : ((s.withFlight rest (s.flightOf d n)).rings.flight.filter (fun g => g.id ≠ (s.flightOf d n).id)) =
    s.rings.flight.filter (fun g => g.id ≠ s.rings.nextId) := by
  show (s.rings.flight ++ [s.flightOf d n]).filter _ = _
  rw [List.filter_append]
  have h : [s.flightOf d n].filter (fun g => decide (g.id ≠ (s.flightOf d n).id)) = [] := by simp
  rw [h, List.append_nil]; rfl

end Sys2Proof.Machine
end

