-- ==== Sys2Proof/Laws/Keep.lean ====
section
/-! SUPPORT. The order `Keeps` on states, and how an update of a field stands in it. -/

namespace Sys2Proof.Machine

open Sys2Proof

theorem FusesLe.refl (f : Fuses) : FusesLe f f := ⟨fun _ h => h, fun _ h => h, fun _ => Nat.le_refl _⟩

theorem FusesLe.trans {f g h : Fuses} (a : FusesLe f g) (b : FusesLe g h) : FusesLe f h :=
  ⟨fun i x => b.life i (a.life i x), fun i x => b.owner i (a.owner i x), fun k => Nat.le_trans (a.roll k) (b.roll k)⟩

theorem Keeps.refl (s : State) : Keeps s s := ⟨rfl, id, FusesLe.refl _, List.suffix_refl _⟩

theorem Keeps.trans {s t u : State} (a : Keeps s t) (b : Keeps t u) : Keeps s u :=
  ⟨b.queue.trans a.queue, fun h => b.wf (a.wf h), a.fuses.trans b.fuses, a.out.trans b.out⟩

variable {s₀ s t : State}

/-- An update of fields that `Keeps` does not speak of. -/
theorem keeps_of_eq (h : Keeps s₀ s) (hq : t.pending = s.pending) (hm : t.mem = s.mem) (hr : t.regs = s.regs)
    (hf : t.fuses = s.fuses) (ho : t.out = s.out) : Keeps s₀ t :=
  ⟨hq.trans h.queue, fun w => by simpa [State.wf, hm, hr] using h.wf w, hf ▸ h.fuses, ho ▸ h.out⟩

/-- The same, in the form that an update has. -/
theorem keeps_mk (h : Keeps s₀ s) (latches' : List (Nat × Option Word)) (heldHi' : List (Nat × Option Word)) (pcie' :
    Pcie) (rings' : Rings) (tables' : List (Nat × Memory)) (cores' : List (Nat × Core)) (ditch' : Ditch) (silt' :
    SiltTrap) (gauges' : List (Nat × Gauge)) (time' : Time) (nodes' : List (Nat × Node)) (fabric' : Fabric) (tandem' :
    Tandem) (cmp' : Cmp) (video' : List (Nat × Video)) (net' : Net) (water' : Water) (die' : PortDie) (ras' : List
    (Nat × RasOut)) (basin' : Basin) (power' : Power) (sluice' : Sluice) (live_' : Live) (store' : Store) (thermal' :
    Thermal) (hourMs' : List (Nat × Nat)) (extest' : Bool) (domains' : BitVec 12) (free' : Nat) :
        Keeps s₀ (State.mk s.regs latches' heldHi' s.mem pcie' rings' tables' cores' ditch' silt' gauges' time'
    s.fuses nodes' fabric' tandem' cmp' video' net' water' die' ras' basin' power' sluice' live_' store' thermal'
    hourMs' extest' domains' free' s.out s.pending) :=
  ⟨h.queue, h.wf, h.fuses, h.out⟩

theorem keeps_regs (h : Keeps s₀ s) (r : List (Nat × Word)) (hr : mwf regReset s.regs = true → mwf regReset r = true) :
    Keeps s₀ { s with regs := r } :=
  ⟨h.queue, fun w => by
    have := h.wf w
    simp only [State.wf, Bool.and_eq_true] at this ⊢
    exact ⟨this.1, hr this.2⟩, h.fuses, h.out⟩

theorem keeps_mem (h : Keeps s₀ s) (m : Mem) (hm : s.mem.wf = true → m.wf = true) : Keeps s₀ { s with mem := m } :=
  ⟨h.queue, fun w => by
    have := h.wf w
    simp only [State.wf, Bool.and_eq_true] at this ⊢
    exact ⟨hm this.1, this.2⟩, h.fuses, h.out⟩

theorem Mem.wf_iff (m : Mem) :
    m.wf = true ↔ m.reservoir.wf = true ∧ m.cistern.wf = true ∧ m.pads.wf = true ∧ m.pools.wf = true := by
  simp [Mem.wf, and_assoc]

section Memories

variable (h : Keeps s₀ s) (m : Memory)
include h

theorem keeps_reservoir (hm : s.mem.reservoir.wf = true → m.wf = true) :
    Keeps s₀ { s with mem := { s.mem with reservoir := m } } :=
  keeps_mem h _ (fun w => by rw [Mem.wf_iff] at w ⊢; exact ⟨hm w.1, w.2⟩)

theorem keeps_cistern (hm : s.mem.cistern.wf = true → m.wf = true) :
    Keeps s₀ { s with mem := { s.mem with cistern := m } } :=
  keeps_mem h _ (fun w => by rw [Mem.wf_iff] at w ⊢; exact ⟨w.1, hm w.2.1, w.2.2⟩)

theorem keeps_pads (hm : s.mem.pads.wf = true → m.wf = true) :
    Keeps s₀ { s with mem := { s.mem with pads := m } } :=
  keeps_mem h _ (fun w => by rw [Mem.wf_iff] at w ⊢; exact ⟨w.1, w.2.1, hm w.2.2.1, w.2.2.2⟩)

theorem keeps_pools (hm : s.mem.pools.wf = true → m.wf = true) :
    Keeps s₀ { s with mem := { s.mem with pools := m } } :=
  keeps_mem h _ (fun w => by rw [Mem.wf_iff] at w ⊢; exact ⟨w.1, w.2.1, w.2.2.1, hm w.2.2.2⟩)

end Memories

theorem keeps_badPads (h : Keeps s₀ s) (l : List Nat) : Keeps s₀ { s with mem := { s.mem with badPads := l } } :=
  keeps_mem h _ id

theorem keeps_badPools (h : Keeps s₀ s) (l : List Nat) : Keeps s₀ { s with mem := { s.mem with badPools := l } } :=
  keeps_mem h _ id

theorem keeps_foldl_fst {α β : Type} (l : List α) (f : State × β → α → State × β) (p : State × β) (h : Keeps s₀ p.1)
    (hf : ∀ q a, Keeps s₀ q.1 → Keeps s₀ (f q a).1) : Keeps s₀ (l.foldl f p).1 := by
  induction l generalizing p with
  | nil => exact h
  | cons a t ih => exact ih (f p a) (hf p a h)

theorem keeps_map {α : Type} {o : Option (α × State)} {a : α} (e : o = some (a, t))
    (h : ∀ b u, o = some (b, u) → Keeps s₀ u) : Keeps s₀ t := h a t e

theorem keeps_fuses (h : Keeps s₀ s) (f : Fuses) (hf : FusesLe s.fuses f) : Keeps s₀ { s with fuses := f } :=
  ⟨h.queue, h.wf, h.fuses.trans hf, h.out⟩

theorem keeps_out (h : Keeps s₀ s) (e : Emission) : Keeps s₀ { s with out := e :: s.out } :=
  ⟨h.queue, h.wf, h.fuses, h.out.trans (List.suffix_cons e s.out)⟩

theorem keeps_foldl {α : Type} (l : List α) (f : State → α → State) (h : Keeps s₀ s)
    (hf : ∀ t a, Keeps s₀ t → Keeps s₀ (f t a)) : Keeps s₀ (l.foldl f s) := by
  induction l generalizing s with
  | nil => exact h
  | cons a t ih => exact ih (hf s a h)

theorem keeps_fst {α : Type} {p : State × α} {a : α} (e : p = (t, a)) (h : Keeps s₀ p.1) : Keeps s₀ t := by
  subst e; exact h

theorem keeps_snd {α : Type} {p : α × State} {a : α} (e : p = (a, t)) (h : Keeps s₀ p.2) : Keeps s₀ t := by
  subst e; exact h

/-- What holds of a state that may be answered. -/
def KeepsO (s₀ : State) (o : Option State) : Prop := ∀ u, o = some u → Keeps s₀ u

theorem keeps_some {o : Option State} (e : o = some t) (h : KeepsO s₀ o) : Keeps s₀ t := h t e

theorem keepsO_some (h : Keeps s₀ t) : KeepsO s₀ (some t) := fun _ e => Option.some.inj e ▸ h

theorem keepsO_none : KeepsO s₀ none := fun _ e => nomatch e

theorem keepsO_getD {o : Option State} (ho : KeepsO s₀ o) (h : Keeps s₀ t) : Keeps s₀ (o.getD t) := by
  cases o with
  | none => exact h
  | some u => exact ho u rfl

/-- What holds of a command's next state. -/
def KeepsR (s : State) (o : Host.Outcome State Fault Refusal) : Prop := ∀ t, o = .next t → Keeps s t

theorem keepsR_next (h : Keeps s t) : KeepsR s (.next t) := fun _ e => Host.Outcome.next.inj e ▸ h

theorem keeps_cut {x : State} {G : Prop} (hx : Keeps s₀ x) (h : Keeps s₀ x → G) : G := h hx

section Choice

variable {α : Type} {c : Prop} [Decidable c]

theorem keeps_ite (hs : Keeps s₀ s) (ht : Keeps s₀ t) : Keeps s₀ (if c then s else t) := by split <;> assumption

theorem keepsO_ite {o p : Option State} (ho : KeepsO s₀ o) (hp : KeepsO s₀ p) : KeepsO s₀ (if c then o else p) := by
  split <;> assumption

theorem keeps_ite_fst {p q : State × α} (hp : Keeps s₀ p.1) (hq : Keeps s₀ q.1) : Keeps s₀ (if c then p else q).1 := by
  split <;> assumption

theorem keeps_ite_snd {p q : α × State} (hp : Keeps s₀ p.2) (hq : Keeps s₀ q.2) : Keeps s₀ (if c then p else q).2 := by
  split <;> assumption

end Choice

theorem mget_roll (f : Fuses) (k v : Nat) (hv : mget nat0 f.rollback k ≤ v) (j : Nat) :
    mget nat0 f.rollback j ≤ mget nat0 (mset nat0 f.rollback k v) j := by
  rw [mget_mset]
  split
  · next e => exact e ▸ hv
  · exact Nat.le_refl _

theorem foldl_wf {α : Type} (l : List α) (f : Memory → α → Memory) (hf : ∀ m a, m.wf = true → (f m a).wf = true)
    (m : Memory) (h : m.wf = true) : (l.foldl f m).wf = true := by
  induction l generalizing m with
  | nil => exact h
  | cons a t ih => exact ih (f m a) (hf m a h)

theorem checkKinds_burnStands (s : State) (l : List Nat) (b : Burn) :
    (s.checkKinds l).1.burnStands b = s.burnStands b := by
  have e : ∀ (u : State) k, (u.showCheck k).burnStands b = u.burnStands b := fun u k => by cases b <;> rfl
  induction l generalizing s with
  | nil => rfl
  | cons k t ih =>
    simp only [State.checkKinds]
    split
    · exact (ih _).trans (e s k)
    · exact e s k

end Sys2Proof.Machine
end

