-- ==== Sys2Proof/Laws/Keep1.lean ====
section
/-! SUPPORT. `Keeps` for the functions of Ops, Spill, Ditch, Operands, RingOps, SiltOps, Tables, Tasks, CueCores, Fabric,
Rills. -/

namespace Sys2Proof.Machine

open Sys2Proof

theorem State.setRg_keeps {s₀ s : State} (h : Keeps s₀ s) (off : Nat) (v : Word) : Keeps s₀ (s.setRg off v) :=
  keeps_regs h _ (mwf_mset _ _)

theorem State.fset_keeps {s₀ s : State} (h : Keeps s₀ s) (f : RF) (v : Nat) (i : Nat) (j : Nat) :
    Keeps s₀ (s.fset f v i j) := by
  unfold State.fset
  with_reducible repeat' first | assumption | apply State.setRg_keeps

theorem State.setPair_keeps {s₀ s : State} (h : Keeps s₀ s) (f : RF) (v : Nat) (i : Nat) :
    Keeps s₀ (s.setPair f v i) := by
  unfold State.setPair
  with_reducible repeat' first | assumption | apply State.setRg_keeps

theorem State.setFrame_keeps {s₀ s : State} (h : Keeps s₀ s) (n : Nat) :
    Keeps s₀ (s.setFrame n) := by
  unfold State.setFrame
  with_reducible repeat' first | assumption | apply State.fset_keeps | apply State.setPair_keeps

theorem State.ledgerAdd_keeps {s₀ s : State} (h : Keeps s₀ s) (kind : Nat) (key : Nat) (body : List Nat) :
    Keeps s₀ (s.ledgerAdd kind key body) := keeps_of_eq h rfl rfl rfl rfl rfl

theorem State.setRing_keeps {s₀ s : State} (h : Keeps s₀ s) (n : Nat) (r : Ring) :
    Keeps s₀ (s.setRing n r) := keeps_of_eq h rfl rfl rfl rfl rfl

theorem State.setCore_keeps {s₀ s : State} (h : Keeps s₀ s) (n : Nat) (c : Core) :
    Keeps s₀ (s.setCore n c) := keeps_of_eq h rfl rfl rfl rfl rfl

theorem State.emit_keeps {s₀ s : State} (h : Keeps s₀ s) (e : Emission) : Keeps s₀ (s.emit e) := keeps_out h e

theorem State.fresh_keeps {s₀ s : State} (h : Keeps s₀ s) :
    Keeps s₀ (s.fresh).2 := by
  unfold State.fresh
  with_reducible repeat' first | assumption | apply keeps_mk

theorem State.sendVector_keeps {s₀ s : State} (h : Keeps s₀ s) (v : Nat) :
    Keeps s₀ (s.sendVector v) := by
  unfold State.sendVector
  with_reducible repeat' first | assumption | apply State.emit_keeps | apply keeps_ite | split | apply keeps_mk

theorem State.raise_keeps {s₀ s : State} (h : Keeps s₀ s) (v : Nat) :
    Keeps s₀ (s.raise v) := by
  unfold State.raise
  with_reducible repeat' first | assumption | apply State.sendVector_keeps | apply State.fset_keeps | apply keeps_ite

theorem State.report_keeps {s₀ s : State} (h : Keeps s₀ s) (cls : Nat) (origin : Nat) (detail : Nat) :
    Keeps s₀ (s.report cls origin detail) := by
  unfold State.report
  with_reducible repeat' first | assumption | apply keeps_ite | apply keeps_mk

theorem State.bump_keeps {s₀ s : State} (h : Keeps s₀ s) (off : Nat) :
    Keeps s₀ (s.bump off) := by
  unfold State.bump
  with_reducible repeat' first | assumption | apply State.setRg_keeps | apply State.report_keeps | apply keeps_ite

theorem State.bumpF_keeps {s₀ s : State} (h : Keeps s₀ s) (f : RF) (i : Nat) (j : Nat) :
    Keeps s₀ (s.bumpF f i j) := by
  unfold State.bumpF
  with_reducible repeat' first | assumption | apply State.bump_keeps

theorem State.bumpN_keeps {s₀ s : State} (h : Keeps s₀ s) (off n : Nat) : Keeps s₀ (s.bumpN off n) := by
  induction n generalizing s with
  | zero => exact h
  | succ n ih => exact ih (State.bump_keeps h off)

theorem State.accessErr_keeps {s₀ s : State} (h : Keeps s₀ s) (write : Bool) (req : Requester) (off : Nat) :
    Keeps s₀ (s.accessErr write req off) := by
  unfold State.accessErr
  with_reducible repeat' first | assumption | apply State.fset_keeps | apply State.bumpF_keeps | apply keeps_ite

theorem State.setTask_keeps {s₀ s : State} (h : Keeps s₀ s) (i : Nat) (t : Option Task) :
    Keeps s₀ (s.setTask i t) := keeps_of_eq h rfl rfl rfl rfl rfl

theorem State.newTask_keeps {s₀ s : State} (h : Keeps s₀ s) (t : Task) :
    Keeps s₀ (s.newTask t).2 := by
  unfold State.newTask
  with_reducible repeat' first | assumption | apply State.setTask_keeps | apply keeps_mk

theorem State.setReadyList_keeps {s₀ s : State} (h : Keeps s₀ s) (c : Nat) (p : Nat) (l : List Nat) :
    Keeps s₀ (s.setReadyList c p l) := keeps_of_eq h rfl rfl rfl rfl rfl

theorem State.unlist_keeps {s₀ s : State} (h : Keeps s₀ s) (i : Nat) :
    Keeps s₀ (s.unlist i) := keeps_of_eq h rfl rfl rfl rfl rfl

theorem State.joinReady_keeps {s₀ s : State} (h : Keeps s₀ s) (i : Nat) (t : Task) (frame : Nat) (events : Nat) :
    Keeps s₀ (s.joinReady i t frame events) := by
  unfold State.joinReady
  with_reducible repeat' first | assumption | apply State.setTask_keeps | apply State.setReadyList_keeps

theorem State.dropRelease_keeps {s₀ s : State} (h : Keeps s₀ s) (i : Nat) (t : Task) :
    Keeps s₀ (s.dropRelease i t) := by
  unfold State.dropRelease
  with_reducible repeat' first
    | assumption | apply State.bumpF_keeps | apply State.setTask_keeps | apply State.unlist_keeps

theorem State.stopShadow_keeps {s₀ s : State} (h : Keeps s₀ s) :
    Keeps s₀ (s.stopShadow) := by
  unfold State.stopShadow
  with_reducible repeat' first | assumption | apply keeps_mk

theorem State.notCurrent_keeps {s₀ s : State} (h : Keeps s₀ s) (cause : Nat) :
    Keeps s₀ (s.notCurrent cause) := by
  unfold State.notCurrent
  with_reducible repeat' first
    | assumption | apply State.fset_keeps | apply State.bumpF_keeps | apply State.report_keeps
    | apply State.stopShadow_keeps | apply keeps_ite | split

theorem State.lateRelease_keeps {s₀ s : State} (h : Keeps s₀ s) (handle : Nat) :
    Keeps s₀ (s.lateRelease handle) := by
  unfold State.lateRelease
  with_reducible repeat' first
    | assumption | (intro) | apply State.notCurrent_keeps | apply State.ledgerAdd_keeps | apply keeps_ite

theorem State.releaseKept_keeps {s₀ s : State} (h : Keeps s₀ s) (i : Nat) (t : Task) (frame events : Nat) :
    Keeps s₀ (s.releaseKept i t frame events) := by
  unfold State.releaseKept
  with_reducible repeat' first
    | assumption | apply State.setTask_keeps | apply State.bumpF_keeps | apply State.report_keeps
    | apply State.lateRelease_keeps | apply State.joinReady_keeps | apply keeps_ite

theorem State.fireTask_keeps {s₀ s : State} (h : Keeps s₀ s) (i : Nat) (t : Task) :
    Keeps s₀ (s.fireTask i t) := by
  unfold State.fireTask
  with_reducible repeat' first
    | assumption | apply State.releaseKept_keeps | apply State.bumpF_keeps | apply State.setTask_keeps
    | apply keeps_ite | split

theorem State.fireSource_keeps {s₀ s : State} (h : Keeps s₀ s) (src : Nat) :
    Keeps s₀ (s.fireSource src) := by
  unfold State.fireSource
  with_reducible repeat' first
    | assumption | (intro) | apply State.fireTask_keeps | apply keeps_ite | apply keeps_foldl | split

theorem State.setReservoir_keeps {s₀ s : State} (h : Keeps s₀ s) (m : Memory)
    (hm : s.mem.reservoir.wf = true → m.wf = true) : Keeps s₀ (s.setReservoir m) := keeps_reservoir h m hm

theorem State.dmaWrite_keeps {s₀ s : State} (h : Keeps s₀ s) (fails : List (Nat × Nat)) (space : Nat) (a : Nat)
    (b : List Byte) :
    KeepsO s₀ (s.dmaWrite fails space a b) := by
  unfold State.dmaWrite
  with_reducible repeat' first
    | assumption | apply State.setReservoir_keeps | apply State.emit_keeps | apply keepsO_ite | exact keepsO_none
    | apply keeps_ite | apply keepsO_some | exact memWrite_wf _ _

theorem State.spread_keeps {s₀ s : State} (h : Keeps s₀ s) (fails : List (Nat × Nat)) (space : Nat)
    (l : List (Nat × Nat)) (b : List Byte) : KeepsO s₀ (s.spread fails space l b) := by
  induction l generalizing s b with
  | nil => exact keepsO_some h
  | cons e t ih =>
    simp only [State.spread]
    split
    · next e => exact ih (keeps_some e (State.dmaWrite_keeps h _ _ _ _)) _
    · exact keepsO_none

theorem State.ringFault_keeps {s₀ s : State} (h : Keeps s₀ s) (n : Nat) (err : Nat) :
    Keeps s₀ (s.ringFault n err) := by
  unfold State.ringFault
  with_reducible repeat' first
    | assumption | apply State.raise_keeps | apply State.bumpF_keeps | apply State.fset_keeps

theorem State.ringHalt_keeps {s₀ s : State} (h : Keeps s₀ s) (n : Nat) :
    Keeps s₀ (s.ringHalt n) := by
  unfold State.ringHalt
  with_reducible repeat' first | assumption | apply State.fset_keeps

theorem State.haltHostRings_keeps {s₀ s : State} (h : Keeps s₀ s) :
    Keeps s₀ (s.haltHostRings) := by
  unfold State.haltHostRings
  with_reducible repeat' first
    | assumption | (intro) | apply State.ringHalt_keeps | apply keeps_ite | apply keeps_foldl

theorem State.signalCq_keeps {s₀ s : State} (h : Keeps s₀ s) (n : Nat) :
    Keeps s₀ (s.signalCq n) := by
  unfold State.signalCq
  with_reducible repeat' first
    | assumption | apply State.setRing_keeps | apply State.fireSource_keeps | apply State.sendVector_keeps
    | apply keeps_ite

theorem State.moderate_keeps {s₀ s : State} (h : Keeps s₀ s) (n : Nat) (irq : Bool) :
    Keeps s₀ (s.moderate n irq) := by
  unfold State.moderate
  with_reducible repeat' first | assumption | apply State.setRing_keeps | apply State.signalCq_keeps | apply keeps_ite

theorem State.loseCompletion_keeps {s₀ s : State} (h : Keeps s₀ s) :
    Keeps s₀ (s.loseCompletion) := by
  unfold State.loseCompletion
  with_reducible repeat' first | assumption | apply State.bumpF_keeps

theorem State.writeCq_keeps {s₀ s : State} (h : Keeps s₀ s) (n : Nat) (c : Completion) :
    Keeps s₀ (s.writeCq n c) := by
  unfold State.writeCq
  with_reducible repeat' first
    | assumption | (intro) | apply State.dmaWrite_keeps | apply State.setRing_keeps | apply State.moderate_keeps
    | apply State.ringFault_keeps | apply State.loseCompletion_keeps | apply keeps_ite
    | (extract_lets +onlyGivenNames x; refine keeps_cut (s₀ := s₀) (x := x) ?_ ?_; rotate_left 1;
        clear_value x; intro; rotate_right 1; dsimp -zeta only [x]; try clear x)
    | (extract_lets +onlyGivenNames x; clear_value x) | refine keeps_some (by assumption) ?_ | split

theorem State.postCq_keeps {s₀ s : State} (h : Keeps s₀ s) (n : Nat) (c : Completion) :
    Keeps s₀ (s.postCq n c) := by
  unfold State.postCq
  with_reducible repeat' first
    | assumption | apply State.writeCq_keeps | apply State.loseCompletion_keeps | apply keeps_ite | split

theorem State.postEvent_keeps {s₀ s : State} (h : Keeps s₀ s) (block : Nat) (code : Nat) :
    Keeps s₀ (s.postEvent block code) := by
  unfold State.postEvent
  with_reducible repeat' first | assumption | apply State.postCq_keeps | apply keeps_mk

theorem State.event_keeps {s₀ s : State} (h : Keeps s₀ s) (block : Nat) (code : Nat) :
    Keeps s₀ (s.event block code) := by
  unfold State.event
  with_reducible repeat' first
    | assumption | apply State.postEvent_keeps | apply State.bumpF_keeps | apply keeps_ite | apply keeps_mk

theorem State.setFlight_keeps {s₀ s : State} (h : Keeps s₀ s) (f : Flight) :
    Keeps s₀ (s.setFlight f) := by
  unfold State.setFlight
  with_reducible repeat' first | assumption | apply keeps_ite | apply keeps_mk

theorem State.dropFlight_keeps {s₀ s : State} (h : Keeps s₀ s) (id : Nat) :
    Keeps s₀ (s.dropFlight id) := keeps_of_eq h rfl rfl rfl rfl rfl

theorem State.finish_keeps {s₀ s : State} (h : Keeps s₀ s) (f : Flight) (status result : Nat) (frame : Option Nat)
    (more : Bool) :
    Keeps s₀ (s.finish f status result frame more) := by
  unfold State.finish
  with_reducible repeat' first
    | assumption | apply State.dropFlight_keeps | apply State.event_keeps | apply State.postCq_keeps | apply keeps_ite
    | split

theorem State.startDesc_keeps {s₀ s : State} (h : Keeps s₀ s) (is good : List Word → Bool) (f : State → Flight → State)
    (hf : ∀ t fl, Keeps s₀ t → Keeps s₀ (f t fl)) : Keeps s₀ (s.startDesc is good f) := by
  unfold State.startDesc
  split
  · exact h
  · refine keeps_ite ?_ h
    have h1 : ∀ r, Keeps s₀ { s with rings := r } := fun r => keeps_of_eq h rfl rfl rfl rfl rfl
    exact keeps_ite (State.finish_keeps (h1 _) _ _ _ _ _) (keeps_ite (State.finish_keeps (h1 _) _ _ _ _ _)
      (keeps_ite (State.finish_keeps (h1 _) _ _ _ _ _) (hf _ _ (keeps_ite (State.bumpF_keeps (h1 _) _ _ _) (h1 _)))))

theorem State.countHold_keeps {s₀ s : State} (h : Keeps s₀ s) (n : Nat) :
    Keeps s₀ (s.countHold n) := by
  unfold State.countHold
  with_reducible repeat' first | assumption | apply State.bumpF_keeps | apply keeps_ite | split | apply keeps_mk

theorem State.countHolds_keeps {s₀ s : State} (h : Keeps s₀ s) : Keeps s₀ s.countHolds :=
  keeps_foldl _ _ h fun _ n ht => State.countHold_keeps ht n

theorem State.setEntry_keeps {s₀ s : State} (h : Keeps s₀ s) (i : Nat) (e : Silt) :
    Keeps s₀ (s.setEntry i e) := keeps_of_eq h rfl rfl rfl rfl rfl

theorem State.siltRaise_keeps {s₀ s : State} (h : Keeps s₀ s) (i : Nat) (cls : Nat) :
    Keeps s₀ (s.siltRaise i cls) := by
  unfold State.siltRaise
  with_reducible repeat' first
    | assumption | apply State.fireSource_keeps | apply State.event_keeps | apply State.raise_keeps | apply keeps_ite

theorem State.siltTake_keeps {s₀ s : State} (h : Keeps s₀ s) (heard : Nat → List Nat) (r : Fltrep) :
    Keeps s₀ (s.siltTake heard r) := by
  unfold State.siltTake
  with_reducible repeat' first
    | assumption | apply State.fset_keeps | apply State.bumpF_keeps | apply State.setEntry_keeps
    | apply State.siltRaise_keeps | apply keeps_ite | split | apply keeps_mk

theorem State.settleOnce_keeps {s₀ s : State} (h : Keeps s₀ s) (heard : Nat → List Nat) :
    Keeps s₀ (s.settleOnce heard) := by
  unfold State.settleOnce
  with_reducible repeat' first
    | assumption | (intro) | apply State.siltTake_keeps | apply keeps_foldl | apply keeps_mk

theorem State.settle_keeps {s₀ s : State} (h : Keeps s₀ s) :
    Keeps s₀ (s.settle) := by
  unfold State.settle
  with_reducible repeat' first
    | assumption | apply State.settleOnce_keeps | apply State.countHolds_keeps
    | (extract_lets +onlyGivenNames x; refine keeps_cut (s₀ := s₀) (x := x) ?_ ?_; rotate_left 1;
        clear_value x; intro; rotate_right 1; dsimp -zeta only [x]; try clear x)
    | (extract_lets +onlyGivenNames x; clear_value x)

theorem State.setTable_keeps {s₀ s : State} (h : Keeps s₀ s) (cls : Nat) (inst : Nat) (m : Memory) :
    Keeps s₀ (s.setTable cls inst m) := keeps_of_eq h rfl rfl rfl rfl rfl

theorem State.freeTask_keeps {s₀ s : State} (h : Keeps s₀ s) (i : Nat) :
    Keeps s₀ (s.freeTask i) := by
  unfold State.freeTask
  with_reducible repeat' first | assumption | apply State.setTask_keeps | apply State.unlist_keeps

theorem State.taskDone_keeps {s₀ s : State} (h : Keeps s₀ s) (t : Task) (status : Nat) (result : Nat) :
    Keeps s₀ (s.taskDone t status result) := by
  unfold State.taskDone
  with_reducible repeat' first | assumption | apply State.finish_keeps | split

theorem State.cancelReady_keeps {s₀ s : State} (h : Keeps s₀ s) (i : Nat) (t : Task) :
    Keeps s₀ (s.cancelReady i t) := by
  unfold State.cancelReady
  with_reducible repeat' first
    | assumption | apply State.dropRelease_keeps | apply State.taskDone_keeps | apply State.freeTask_keeps
    | apply keeps_ite

theorem State.releaseHeld_keeps {s₀ s : State} (h : Keeps s₀ s) (i : Nat) (t : Task) :
    Keeps s₀ (s.releaseHeld i t) := by
  unfold State.releaseHeld
  with_reducible repeat' first
    | assumption | apply State.setTask_keeps | apply State.releaseKept_keeps | apply keeps_ite

theorem State.undispatch_keeps {s₀ s : State} (h : Keeps s₀ s) (i : Nat) (t : Task) :
    Keeps s₀ (s.undispatch i t) := by
  unfold State.undispatch
  with_reducible repeat' first
    | assumption | apply State.bumpF_keeps | apply State.taskDone_keeps | apply State.freeTask_keeps
    | apply State.releaseHeld_keeps | apply keeps_ite

theorem State.endKept_keeps {s₀ s : State} (h : Keeps s₀ s) (i : Nat) (t : Task) :
    Keeps s₀ (s.endKept i t) := by
  unfold State.endKept
  with_reducible repeat' first
    | assumption | apply State.freeTask_keeps | apply State.dropRelease_keeps | apply State.setTask_keeps | split

theorem State.retireNamed_keeps {s₀ s : State} (h : Keeps s₀ s) (i : Nat) (t : Task) :
    Keeps s₀ (s.retireNamed i t) := by
  unfold State.retireNamed
  with_reducible repeat' first
    | assumption | (intro) | apply State.bumpF_keeps | apply State.report_keeps | apply keeps_ite
    | (extract_lets +onlyGivenNames x; refine keeps_cut (s₀ := s₀) (x := x) ?_ ?_; rotate_left 1;
        clear_value x; intro; rotate_right 1; dsimp -zeta only [x]; try clear x)
    | (extract_lets +onlyGivenNames x; clear_value x)

theorem State.retire_keeps {s₀ s : State} (h : Keeps s₀ s) (i : Nat) (t : Task) (value : Nat) :
    Keeps s₀ (s.retire i t value) := by
  unfold State.retire
  with_reducible repeat' first
    | assumption | apply State.taskDone_keeps | apply State.freeTask_keeps | apply State.releaseHeld_keeps
    | apply keeps_ite

theorem State.releaseHost_keeps {s₀ s : State} (h : Keeps s₀ s) (f : Flight) :
    Keeps s₀ (s.releaseHost f) := by
  unfold State.releaseHost
  with_reducible repeat' first | assumption | apply State.joinReady_keeps | apply keeps_ite | split

theorem State.releasePeriodic_keeps {s₀ s : State} (h : Keeps s₀ s) (frame : Nat) :
    Keeps s₀ (s.releasePeriodic frame) := by
  unfold State.releasePeriodic
  with_reducible repeat' first
    | assumption | (intro) | apply State.joinReady_keeps | apply State.bumpF_keeps | apply keeps_ite
    | apply keeps_foldl | split

theorem State.deadlineTask_keeps {s₀ s : State} (h : Keeps s₀ s) (i : Nat) (t : Task) :
    Keeps s₀ (s.deadlineTask i t) := by
  unfold State.deadlineTask
  with_reducible repeat' first
    | assumption | apply State.report_keeps | apply State.bumpF_keeps | apply State.cancelReady_keeps
    | apply State.setTask_keeps | split

theorem State.cueDeadline_keeps {s₀ s : State} (h : Keeps s₀ s) (frame : Nat) :
    Keeps s₀ (s.cueDeadline frame) := by
  unfold State.cueDeadline
  with_reducible repeat' first
    | assumption | (intro) | apply State.deadlineTask_keeps | apply keeps_ite | apply keeps_foldl | split

theorem State.giveTask_keeps {s₀ s : State} (h : Keeps s₀ s) (core : Nat) (rd : Nat) (i : Nat) (stolen : Bool) :
    Keeps s₀ (s.giveTask core rd i stolen) := by
  unfold State.giveTask
  with_reducible repeat' first
    | assumption | apply State.setTask_keeps | apply State.unlist_keeps | apply State.setCore_keeps
    | apply State.bumpF_keeps | apply keeps_ite | split | apply keeps_mk

theorem State.dispatchCluster_keeps {s₀ s : State} (h : Keeps s₀ s) (c : Nat) :
    Keeps s₀ (s.dispatchCluster c) := by
  unfold State.dispatchCluster
  with_reducible repeat' first | assumption | apply State.giveTask_keeps | apply keeps_ite | apply keepsO_getD | split

theorem State.coreTrap_keeps {s₀ s : State} (h : Keeps s₀ s) (core : Nat) (cause : Nat) (tval : Word) :
    Keeps s₀ (s.coreTrap core cause tval) := by
  unfold State.coreTrap
  with_reducible repeat' first | assumption | apply State.setCore_keeps

theorem State.coreInterrupt_keeps {s₀ s : State} (h : Keeps s₀ s) (core : Nat) :
    Keeps s₀ (s.coreInterrupt core) := by
  unfold State.coreInterrupt
  with_reducible repeat' first
    | assumption | (intro) | apply State.setCore_keeps | apply keeps_ite
    | (extract_lets +onlyGivenNames x; refine keeps_cut (s₀ := s₀) (x := x) ?_ ?_; rotate_left 1;
        clear_value x; intro; rotate_right 1; dsimp -zeta only [x]; try clear x)
    | (extract_lets +onlyGivenNames x; clear_value x) | split | apply keeps_mk

theorem State.coreSet_keeps {s₀ s : State} (h : Keeps s₀ s) (core : Nat) (rd : Nat) (v : Word) :
    Keeps s₀ (s.coreSet core rd v) := by
  unfold State.coreSet
  with_reducible repeat' first | assumption | apply State.setCore_keeps

theorem State.coreStep_keeps {s₀ s : State} (h : Keeps s₀ s) (core : Nat) :
    Keeps s₀ (s.coreStep core) := by
  unfold State.coreStep
  with_reducible repeat' first | assumption | apply State.setCore_keeps

theorem State.xhnk2_keeps {s₀ s : State} (h : Keeps s₀ s) (core : Nat) (rd : Nat) (rs1 : Nat) (rs2 : Nat)
    (f : Word → Word → Word) :
    Keeps s₀ (s.xhnk2 core rd rs1 rs2 f) := by
  unfold State.xhnk2
  with_reducible repeat' first | assumption | apply State.coreSet_keeps | apply keeps_ite

theorem State.drTake_keeps {s₀ s : State} (h : Keeps s₀ s) (core : Nat) (rd : Nat) :
    Keeps s₀ (s.drTake core rd) := by
  unfold State.drTake
  with_reducible repeat' first
    | assumption | apply State.coreSet_keeps | apply State.coreInterrupt_keeps | apply State.setCore_keeps
    | apply keeps_ite | split | apply keeps_mk

theorem State.drPoll_keeps {s₀ s : State} (h : Keeps s₀ s) (core : Nat) (rd : Nat) :
    Keeps s₀ (s.drPoll core rd) := by
  unfold State.drPoll
  with_reducible repeat' first
    | assumption | apply State.coreSet_keeps | apply State.giveTask_keeps | apply keeps_ite | split

theorem State.drDone_keeps {s₀ s : State} (h : Keeps s₀ s) (core : Nat) (value : Word) :
    Keeps s₀ (s.drDone core value) := by
  unfold State.drDone
  with_reducible repeat' first
    | assumption | (intro) | apply State.coreStep_keeps | apply State.setCore_keeps | apply State.retireNamed_keeps
    | apply State.retire_keeps | apply keeps_ite
    | (extract_lets +onlyGivenNames x; refine keeps_cut (s₀ := s₀) (x := x) ?_ ?_; rotate_left 1;
        clear_value x; intro; rotate_right 1; dsimp -zeta only [x]; try clear x)
    | (extract_lets +onlyGivenNames x; clear_value x) | split

theorem State.drPost_keeps {s₀ s : State} (h : Keeps s₀ s) (core rd : Nat) (w : Word) :
    Keeps s₀ (s.drPost core rd w) := by
  unfold State.drPost
  with_reducible repeat' first
    | assumption | (intro) | apply State.setCore_keeps | apply State.coreSet_keeps | apply State.bumpF_keeps
    | apply State.newTask_keeps | apply State.joinReady_keeps | apply State.cancelReady_keeps
    | apply State.report_keeps | apply State.lateRelease_keeps | apply keeps_ite
    | (extract_lets +onlyGivenNames x; refine keeps_cut (s₀ := s₀) (x := x) ?_ ?_; rotate_left 1;
        clear_value x; intro; rotate_right 1; dsimp -zeta only [x]; try clear x)
    | (extract_lets +onlyGivenNames x; clear_value x) | refine keeps_fst (by assumption) ?_
    | refine keeps_snd (by assumption) ?_ | split

theorem State.drCancel_keeps {s₀ s : State} (h : Keeps s₀ s) (core rd : Nat) (handle : Word) :
    Keeps s₀ (s.drCancel core rd handle) := by
  unfold State.drCancel
  with_reducible repeat' first
    | assumption | (intro) | apply State.coreSet_keeps | apply State.cancelReady_keeps | apply State.freeTask_keeps
    | apply State.taskDone_keeps | apply State.endKept_keeps | apply keeps_ite | split

theorem State.msipStore_keeps {s₀ s : State} (h : Keeps s₀ s) (core : Nat) (target : Nat) (v : Word) :
    Keeps s₀ (s.msipStore core target v) := by
  unfold State.msipStore
  with_reducible repeat' first | assumption | apply State.coreInterrupt_keeps | apply State.setCore_keeps

theorem State.poolWrite_keeps {s₀ s : State} (h : Keeps s₀ s) (c off : Nat) (b : List Byte) :
    Keeps s₀ (s.poolWrite c off b) :=
  keeps_of_eq (keeps_pools h (memWrite s.mem.pools (poolKey c off) b) (memWrite_wf _ _)) rfl rfl rfl rfl rfl

theorem State.errGone_keeps {s₀ s : State} (h : Keeps s₀ s) (pool : Bool) (key : Nat) :
    Keeps s₀ (s.errGone pool key) := by
  unfold State.errGone
  with_reducible repeat' first | assumption | (intro) | apply State.setCore_keeps | apply keeps_ite | apply keeps_foldl

theorem State.freshWord_keeps {s₀ s : State} (h : Keeps s₀ s) (pool : Bool) (key n : Nat) :
    Keeps s₀ (s.freshWord pool key n) := by
  have h1 := State.errGone_keeps h pool key
  exact keeps_ite (keeps_ite (keeps_badPools h1 _) (keeps_badPads h1 _)) h

theorem State.aliasStore_keeps {s₀ s : State} (h : Keeps s₀ s) (core off n : Nat) (set : Bool) (v : Word) :
    Keeps s₀ (s.aliasStore core off n set v) := by
  unfold State.aliasStore
  with_reducible repeat' first
    | assumption | (intro) | apply State.poolWrite_keeps | apply State.freshWord_keeps | apply keeps_ite
    | (extract_lets +onlyGivenNames x; refine keeps_cut (s₀ := s₀) (x := x) ?_ ?_; rotate_left 1;
        clear_value x; intro; rotate_right 1; dsimp -zeta only [x]; try clear x)
    | (extract_lets +onlyGivenNames x; clear_value x) | split

theorem State.aliasExec_keeps {s₀ s : State} (h : Keeps s₀ s) (core : Nat) (off : Nat) (n : Nat) (set : Bool)
    (rs2 : Nat) :
    Keeps s₀ (s.aliasExec core off n set rs2) := by
  unfold State.aliasExec
  with_reducible repeat' first
    | assumption | apply State.coreTrap_keeps | apply State.coreStep_keeps | apply State.aliasStore_keeps
    | apply keeps_ite

theorem State.eccReport_keeps {s₀ s : State} (h : Keeps s₀ s) (pool : Bool) (addr : Nat) :
    Keeps s₀ (s.eccReport pool addr) := by
  unfold State.eccReport
  with_reducible repeat' first | assumption | apply State.report_keeps | apply State.bumpF_keeps

theorem State.raiseMeip_keeps {s₀ s : State} (h : Keeps s₀ s) (k : Nat) (pool : Bool) (key : Nat) :
    Keeps s₀ (s.raiseMeip k pool key) := by
  unfold State.raiseMeip
  with_reducible repeat' first
    | assumption | apply State.setCore_keeps | apply State.coreInterrupt_keeps
    | (extract_lets +onlyGivenNames x; refine keeps_cut (s₀ := s₀) (x := x) ?_ ?_; rotate_left 1;
        clear_value x; intro; rotate_right 1; dsimp -zeta only [x]; try clear x)
    | (extract_lets +onlyGivenNames x; clear_value x)

theorem State.markBad_keeps {s₀ s : State} (h : Keeps s₀ s) (pool : Bool) (a : Nat) :
    Keeps s₀ (s.markBad pool a) := by
  unfold State.markBad
  exact keeps_ite (keeps_badPools h _) (keeps_badPads h _)

theorem State.scrub_keeps {s₀ s : State} (h : Keeps s₀ s) (pool : Bool) (addr errors : Nat) :
    Keeps s₀ (s.scrub pool addr errors) := by
  have h2 : ∀ a, Keeps s₀ ((s.markBad pool a).eccReport pool a) := fun a =>
    State.eccReport_keeps (State.markBad_keeps h _ _) _ _
  exact keeps_ite h (keeps_ite (State.bumpF_keeps h _ _ _) (keeps_ite
    (keeps_ite (keeps_foldl _ _ (h2 _) fun t k ht => State.raiseMeip_keeps ht _ _ _) (State.raiseMeip_keeps (h2 _) _ _ _)) h))

theorem State.coreStart_keeps {s₀ s : State} (h : Keeps s₀ s) (k : Nat) :
    Keeps s₀ (s.coreStart k) := by
  unfold State.coreStart
  with_reducible repeat' first | assumption | apply State.setCore_keeps

theorem State.coreStop_keeps {s₀ s : State} (h : Keeps s₀ s) (k : Nat) :
    Keeps s₀ (s.coreStop k) := by
  unfold State.coreStop
  with_reducible repeat' first
    | assumption | (intro) | apply State.setCore_keeps | apply State.undispatch_keeps
    | (extract_lets +onlyGivenNames x; refine keeps_cut (s₀ := s₀) (x := x) ?_ ?_; rotate_left 1;
        clear_value x; intro; rotate_right 1; dsimp -zeta only [x]; try clear x)
    | (extract_lets +onlyGivenNames x; clear_value x) | split | apply keeps_mk

theorem State.coreRunWrite_keeps {s₀ s : State} (h : Keeps s₀ s) (c : Nat) (v : Word) :
    Keeps s₀ (s.coreRunWrite c v) := by
  unfold State.coreRunWrite
  with_reducible repeat' first
    | assumption | (intro) | apply State.setRg_keeps | apply State.coreStop_keeps | apply State.coreStart_keeps
    | apply keeps_ite | apply keeps_foldl

theorem State.takeDelays_keeps {s₀ s : State} (h : Keeps s₀ s) (jump : Bool) : Keeps s₀ (s.takeDelays jump) := by
  unfold State.takeDelays
  extract_lets step one
  have h1 : Keeps s₀ (s.zonesInUse.foldl one (s, false)).1 := keeps_foldl_fst _ _ _ h (fun q z hq => by
    refine keeps_of_eq (s := q.1) hq ?_ ?_ ?_ ?_ ?_ <;> rfl)
  clear_value one
  split
  next e =>
    extract_lets slewing
    exact State.fset_keeps (State.fset_keeps (keeps_fst e h1) _ _ _ _) _ _ _ _

theorem State.setPos_keeps {s₀ s : State} (h : Keeps s₀ s) (slot : Nat) (p : Nat) (l : List Rec) :
    Keeps s₀ (s.setPos slot p l) := keeps_of_eq h rfl rfl rfl rfl rfl

theorem State.putRec_keeps {s₀ s : State} (h : Keeps s₀ s) (slot : Nat) (p : Nat) (d : SlotD) (r0 : Rec) :
    Keeps s₀ (s.putRec slot p d r0) := by
  unfold State.putRec
  with_reducible repeat' first
    | assumption | apply State.setPos_keeps | apply State.report_keeps | apply State.bumpF_keeps | apply keeps_ite
    | split

theorem State.releaseHistory_keeps {s₀ s : State} (h : Keeps s₀ s) :
    Keeps s₀ (s.releaseHistory) := keeps_of_eq h rfl rfl rfl rfl rfl

theorem State.writeValue_keeps {s₀ s : State} (h : Keeps s₀ s) (slot p v prio cut : Nat) :
    Keeps s₀ (s.writeValue slot p v prio cut) := by
  unfold State.writeValue
  with_reducible repeat' first
    | assumption | apply State.putRec_keeps | apply State.bumpF_keeps | apply keeps_ite
    | (extract_lets +onlyGivenNames x; refine keeps_cut (s₀ := s₀) (x := x) ?_ ?_; rotate_left 1;
        clear_value x; intro; rotate_right 1; dsimp -zeta only [x]; try clear x)
    | (extract_lets +onlyGivenNames x; clear_value x)

theorem State.releasePos_keeps {s₀ s : State} (h : Keeps s₀ s) (slot : Nat) (p : Nat) (cut : Nat) :
    Keeps s₀ (s.releasePos slot p cut) := by
  unfold State.releasePos
  with_reducible repeat' first | assumption | apply State.putRec_keeps | apply State.bumpF_keeps | apply keeps_ite

theorem State.cueSnap_keeps {s₀ s : State} (h : Keeps s₀ s) (slot : Nat) (v : Nat) :
    Keeps s₀ (s.cueSnap slot v) := by
  unfold State.cueSnap
  with_reducible repeat' first | assumption | apply State.bumpF_keeps | split | apply keeps_mk

theorem State.takeSnaps_keeps {s₀ s : State} (h : Keeps s₀ s) (cut : Nat) :
    Keeps s₀ (s.takeSnaps cut) := by
  unfold State.takeSnaps
  with_reducible repeat' first
    | assumption | (intro) | apply State.putRec_keeps | apply State.bumpF_keeps | apply keeps_ite | apply keeps_foldl
    | split | apply keeps_mk

theorem State.drainFadeq_keeps {s₀ s : State} (h : Keeps s₀ s) (n : Nat) (frame : Nat) :
    Keeps s₀ (s.drainFadeq n frame).1 := by
  unfold State.drainFadeq
  with_reducible repeat' first | assumption | apply State.fset_keeps | apply State.bumpN_keeps

theorem State.applyFade_keeps {s₀ s : State} (h : Keeps s₀ s) (cut : Nat) (e : FadeEntry) :
    Keeps s₀ (s.applyFade cut e) := by
  unfold State.applyFade
  with_reducible repeat' first | assumption | apply State.putRec_keeps | apply State.bumpF_keeps | apply keeps_ite

theorem State.takeFades_keeps {s₀ s : State} (h : Keeps s₀ s) (cut : Nat) : Keeps s₀ (s.takeFades cut) := by
  unfold State.takeFades
  refine keeps_ite ?_ h
  have h1 := keeps_foldl_fst (List.range 64) (fun (a : State × List FadeEntry) n =>
      match a.1.drainFadeq n (cut - 1) with
      | (s2, g) => (s2, a.2 ++ g)) (s, []) h (fun _ n hq => State.drainFadeq_keeps hq n _)
  split
  next e => exact keeps_foldl _ _ (keeps_fst e h1) (fun t a ht => State.applyFade_keeps ht _ _)

theorem State.latchTails_keeps {s₀ s : State} (h : Keeps s₀ s) :
    Keeps s₀ (s.latchTails) := by
  unfold State.latchTails
  with_reducible repeat' first | assumption | (intro) | apply keeps_foldl | apply keeps_mk

theorem State.setValue_keeps {s₀ s : State} (h : Keeps s₀ s) (slot p v prio cut : Nat) :
    Keeps s₀ (s.setValue slot p v prio cut) := by
  unfold State.setValue
  with_reducible repeat' first
    | assumption | apply State.releasePos_keeps | apply State.writeValue_keeps | apply keeps_ite

theorem State.applyValues_keeps {s₀ s : State} (h : Keeps s₀ s) (f : Flight) :
    Keeps s₀ (s.applyValues f) := by
  unfold State.applyValues
  with_reducible repeat' first
    | assumption | (intro) | apply State.setValue_keeps | apply keeps_foldl
    | (extract_lets +onlyGivenNames x; refine keeps_cut (s₀ := s₀) (x := x) ?_ ?_; rotate_left 1;
        clear_value x; intro; rotate_right 1; dsimp -zeta only [x]; try clear x)
    | (extract_lets +onlyGivenNames x; clear_value x)

theorem State.setRill_keeps {s₀ s : State} (h : Keeps s₀ s) (i : Nat) (r : Rill) :
    Keeps s₀ (s.setRill i r) := keeps_of_eq h rfl rfl rfl rfl rfl

theorem State.rillOne_keeps {s₀ s : State} (h : Keeps s₀ s) (i : Nat) :
    Keeps s₀ (s.rillOne i) := by
  unfold State.rillOne
  with_reducible repeat' first | assumption | apply State.setRill_keeps | apply State.bumpF_keeps | apply keeps_ite

theorem State.rillsStop_keeps {s₀ s : State} (h : Keeps s₀ s) :
    Keeps s₀ (s.rillsStop) := keeps_of_eq h rfl rfl rfl rfl rfl

theorem State.rillStatus_keeps {s₀ s : State} (h : Keeps s₀ s) :
    Keeps s₀ (s.rillStatus) := by
  unfold State.rillStatus
  with_reducible repeat' first
    | assumption | (intro) | apply State.fset_keeps | apply State.setRg_keeps | apply keeps_ite | apply keeps_foldl

theorem State.rillPass_keeps {s₀ s : State} (h : Keeps s₀ s) :
    Keeps s₀ (s.rillPass) := by
  unfold State.rillPass
  with_reducible repeat' first
    | assumption | (intro) | apply State.rillsStop_keeps | apply State.rillOne_keeps | apply State.fresh_keeps
    | apply State.rillStatus_keeps | apply State.fset_keeps | apply keeps_ite | refine keeps_snd (by assumption) ?_
    | apply keeps_foldl

theorem State.rillCommitted_keeps {s₀ s : State} (h : Keeps s₀ s) (old t : Tabs) (i : Nat) :
    Keeps s₀ (s.rillCommitted old t i) := by
  unfold State.rillCommitted
  with_reducible repeat' first
    | assumption | apply State.setRill_keeps | apply State.fresh_keeps | apply keeps_ite
    | (extract_lets +onlyGivenNames x; refine keeps_cut (s₀ := s₀) (x := x) ?_ ?_; rotate_left 1;
        clear_value x; intro; rotate_right 1; dsimp -zeta only [x]; try clear x)
    | (extract_lets +onlyGivenNames x; clear_value x)

theorem State.rillsMoved_keeps {s₀ s : State} (h : Keeps s₀ s) (old t : Tabs) :
    Keeps s₀ (s.rillsMoved old t) := by
  unfold State.rillsMoved
  with_reducible repeat' first
    | assumption | (intro) | apply State.rillCommitted_keeps | apply keeps_foldl
    | (extract_lets +onlyGivenNames x; refine keeps_cut (s₀ := s₀) (x := x) ?_ ?_; rotate_left 1;
        clear_value x; intro; rotate_right 1; dsimp -zeta only [x]; try clear x)
    | (extract_lets +onlyGivenNames x; clear_value x)

theorem State.rillsCommitted_keeps {s₀ s : State} (h : Keeps s₀ s) (views : List (Tabs × Tabs)) :
    Keeps s₀ (s.rillsCommitted views) := by
  unfold State.rillsCommitted
  with_reducible repeat' first | assumption | (intro) | apply State.rillsMoved_keeps | apply keeps_foldl

theorem State.evaluate_keeps {s₀ s : State} (h : Keeps s₀ s) :
    Keeps s₀ (s.evaluate) := by
  unfold State.evaluate
  with_reducible repeat' first
    | assumption | (intro) | apply State.fset_keeps | apply keeps_ite | apply keeps_foldl | apply keeps_mk
    | (extract_lets +onlyGivenNames x; refine keeps_cut (s₀ := s₀) (x := x) ?_ ?_; rotate_left 1;
        clear_value x; intro; rotate_right 1; dsimp -zeta only [x]; try clear x)
    | (extract_lets +onlyGivenNames x; clear_value x) | split

theorem State.memberPassEnd_keeps {s₀ s : State} (h : Keeps s₀ s) :
    Keeps s₀ (s.memberPassEnd) := by
  unfold State.memberPassEnd
  with_reducible repeat' first
    | assumption | apply State.fset_keeps | apply State.evaluate_keeps | apply State.bumpF_keeps | apply keeps_ite

theorem State.pfCtrlWrite_keeps {s₀ s : State} (h : Keeps s₀ s) (req : Requester) (v : Word) :
    Keeps s₀ (s.pfCtrlWrite req v) := by
  unfold State.pfCtrlWrite
  with_reducible repeat' first | assumption | apply State.fset_keeps | apply State.accessErr_keeps | apply keeps_ite

theorem State.fadeqTailWrite_keeps {s₀ s : State} (h : Keeps s₀ s) (n : Nat) (v : Word) :
    Keeps s₀ (s.fadeqTailWrite n v) := by
  unfold State.fadeqTailWrite
  with_reducible repeat' first | assumption | apply State.bumpF_keeps | apply State.fset_keeps | apply keeps_ite

theorem State.fadeqBaseWrite_keeps {s₀ s : State} (h : Keeps s₀ s) (req : Requester) (v : Word) :
    Keeps s₀ (s.fadeqBaseWrite req v) := by
  unfold State.fadeqBaseWrite
  with_reducible repeat' first | assumption | apply State.accessErr_keeps | apply State.fset_keeps | apply keeps_ite

theorem State.delaySlewWrite_keeps {s₀ s : State} (h : Keeps s₀ s) (v : Word) :
    Keeps s₀ (s.delaySlewWrite v) := by
  unfold State.delaySlewWrite
  with_reducible repeat' first | assumption | apply State.fset_keeps

theorem State.windowStore_keeps {s₀ s : State} (h : Keeps s₀ s) (core slot v : Nat) :
    Keeps s₀ (s.windowStore core slot v) := by
  unfold State.windowStore
  with_reducible repeat' first
    | assumption | (intro) | apply State.cueSnap_keeps | apply State.bumpF_keeps | apply keeps_ite
    | (extract_lets +onlyGivenNames x; refine keeps_cut (s₀ := s₀) (x := x) ?_ ?_; rotate_left 1;
        clear_value x; intro; rotate_right 1; dsimp -zeta only [x]; try clear x)
    | (extract_lets +onlyGivenNames x; clear_value x) | split

theorem State.windowExec_keeps {s₀ s : State} (h : Keeps s₀ s) (core : Nat) (addr : Nat) (wide : Bool) (rs2 : Nat) :
    Keeps s₀ (s.windowExec core addr wide rs2) := by
  unfold State.windowExec
  with_reducible repeat' first
    | assumption | apply State.coreTrap_keeps | apply State.windowStore_keeps | apply State.coreStep_keeps
    | apply keeps_ite

theorem State.coreInterrupts_keeps {s₀ s : State} (h : Keeps s₀ s) :
    Keeps s₀ (s.coreInterrupts) := by
  unfold State.coreInterrupts
  with_reducible repeat' first | assumption | (intro) | apply State.coreInterrupt_keeps | apply keeps_foldl

theorem State.hkLs_keeps {s₀ s : State} (h : Keeps s₀ s) (core rd : Nat) :
    Keeps s₀ (s.hkLs core rd) := by
  unfold State.hkLs
  with_reducible repeat' first
    | assumption | apply State.coreSet_keeps | apply State.setCore_keeps | apply keeps_ite
    | (extract_lets +onlyGivenNames x; refine keeps_cut (s₀ := s₀) (x := x) ?_ ?_; rotate_left 1;
        clear_value x; intro; rotate_right 1; dsimp -zeta only [x]; try clear x)
    | (extract_lets +onlyGivenNames x; clear_value x)

end Sys2Proof.Machine
end

