-- ==== Sys2Proof/Laws/Keep2.lean ====
section
/-! SUPPORT. `Keeps` for the functions of HostRings, TimeBases, Time, Gauges, Colour, CanvasOps. -/

namespace Sys2Proof.Machine

open Sys2Proof

theorem State.takeDoorbell_keeps {s₀ s : State} (h : Keeps s₀ s) (n : Nat) (page : List Byte) :
    Keeps s₀ (s.takeDoorbell n page).1 := by
  unfold State.takeDoorbell
  with_reducible repeat' first
    | assumption | apply State.setRing_keeps | apply State.ringFault_keeps | apply keeps_ite_fst

theorem State.readPage_keeps {s₀ s : State} (h : Keeps s₀ s) (place : Nat) (page : Option (List Byte)) :
    Keeps s₀ (s.readPage place page) := by
  unfold State.readPage
  with_reducible repeat' first
    | assumption | (intro) | apply State.takeDoorbell_keeps | apply State.ringFault_keeps | apply keeps_ite
    | refine keeps_fst (by assumption) ?_ | apply keeps_foldl | split

theorem State.fetchOne_keeps {s₀ s : State} (h : Keeps s₀ s) (host : HostView) (n : Nat) :
    Keeps s₀ (s.fetchOne host n) := by
  unfold State.fetchOne
  with_reducible repeat' first
    | assumption | (intro) | apply State.ringFault_keeps | apply State.fset_keeps
    | (extract_lets +onlyGivenNames x; refine keeps_cut (s₀ := s₀) (x := x) ?_ ?_; rotate_left 1;
        clear_value x; intro; rotate_right 1; dsimp -zeta only [x]; try clear x)
    | (extract_lets +onlyGivenNames x; clear_value x) | split | apply keeps_mk

theorem State.fetchTurn_keeps {s₀ s : State} (h : Keeps s₀ s) (host : HostView) (n k : Nat) :
    Keeps s₀ (s.fetchTurn host n k) := by
  induction k generalizing s with
  | zero => exact h
  | succ k ih => exact keeps_ite (ih (State.fetchOne_keeps h host n)) h

theorem State.fetchAll_keeps {s₀ s : State} (h : Keeps s₀ s) (host : HostView) (k : Nat) :
    Keeps s₀ (s.fetchAll host k) := by
  induction k generalizing s with
  | zero => exact h
  | succ k ih =>
    simp only [State.fetchAll]
    split
    · exact h
    · refine ih ?_
      with_reducible apply keeps_mk
      exact State.fetchTurn_keeps h host _ _

theorem State.countFull_keeps {s₀ s : State} (h : Keeps s₀ s) :
    Keeps s₀ (s.countFull) := by
  unfold State.countFull
  with_reducible repeat' first
    | assumption | (intro) | apply State.setRing_keeps | apply State.bumpF_keeps | apply keeps_ite | apply keeps_foldl

theorem State.hostPoll_keeps {s₀ s : State} (h : Keeps s₀ s) (host : HostView) :
    Keeps s₀ (s.hostPoll host) := by
  unfold State.hostPoll
  with_reducible repeat' first
    | assumption | apply State.readPage_keeps | apply State.countFull_keeps | apply State.fetchAll_keeps
    | apply keeps_ite
    | (extract_lets +onlyGivenNames x; refine keeps_cut (s₀ := s₀) (x := x) ?_ ?_; rotate_left 1;
        clear_value x; intro; rotate_right 1; dsimp -zeta only [x]; try clear x)
    | (extract_lets +onlyGivenNames x; clear_value x) | apply keeps_mk

theorem State.nudge_keeps {s₀ s : State} (h : Keeps s₀ s) :
    Keeps s₀ (s.nudge) := by
  unfold State.nudge
  with_reducible repeat' first | assumption | apply State.bumpF_keeps | apply keeps_mk

theorem State.writeTable_keeps {s₀ s : State} (h : Keeps s₀ s) (host : HostView) (f : Flight) :
    Keeps s₀ (s.writeTable host f) := by
  unfold State.writeTable
  with_reducible repeat' first
    | assumption | apply State.finish_keeps | apply State.setFlight_keeps | apply keeps_ite | split

theorem State.tableStaged_keeps {s₀ s : State} (h : Keeps s₀ s) (id : Nat) :
    Keeps s₀ (s.tableStaged id) := by
  unfold State.tableStaged
  with_reducible repeat' first
    | assumption | apply State.finish_keeps | apply State.ledgerAdd_keeps | apply keeps_ite | split | apply keeps_mk

theorem State.answerA_keeps {s₀ s : State} (h : Keeps s₀ s) (host : HostView) (f : Flight) (b : List Byte)
    (result : Nat) :
    Keeps s₀ (s.answerA host f b result) := by
  unfold State.answerA
  with_reducible repeat' first
    | assumption | apply State.finish_keeps | apply State.spread_keeps | apply State.setFlight_keeps
    | refine keeps_some (by assumption) ?_ | split

theorem State.readTable_keeps {s₀ s : State} (h : Keeps s₀ s) (host : HostView) (f : Flight) :
    Keeps s₀ (s.readTable host f) := by
  unfold State.readTable
  with_reducible repeat' first
    | assumption | (intro) | apply State.finish_keeps | apply State.answerA_keeps | apply keeps_ite
    | (extract_lets +onlyGivenNames x; refine keeps_cut (s₀ := s₀) (x := x) ?_ ?_; rotate_left 1;
        clear_value x; intro; rotate_right 1; dsimp -zeta only [x]; try clear x)
    | (extract_lets +onlyGivenNames x; clear_value x) | refine keeps_fst (by assumption) ?_
    | refine keeps_snd (by assumption) ?_ | split

theorem State.readCounters_keeps {s₀ s : State} (h : Keeps s₀ s) (host : HostView) (f : Flight) :
    Keeps s₀ (s.readCounters host f) := by
  unfold State.readCounters
  with_reducible repeat' first | assumption | apply State.finish_keeps | apply State.answerA_keeps | apply keeps_ite

theorem State.transferDone_keeps {s₀ s : State} (h : Keeps s₀ s) (id : Nat) :
    Keeps s₀ (s.transferDone id) := by
  unfold State.transferDone
  with_reducible repeat' first | assumption | apply State.finish_keeps | apply keeps_ite | split

theorem State.postTask_keeps {s₀ s : State} (h : Keeps s₀ s) (f : Flight) :
    Keeps s₀ (s.postTask f) := by
  unfold State.postTask
  with_reducible repeat' first | assumption | apply State.newTask_keeps

theorem State.cancelTask_keeps {s₀ s : State} (h : Keeps s₀ s) (f : Flight) :
    Keeps s₀ (s.cancelTask f) := by
  unfold State.cancelTask
  with_reducible repeat' first
    | assumption | apply State.finish_keeps | apply State.cancelReady_keeps | apply State.taskDone_keeps
    | apply State.freeTask_keeps | split

theorem State.drainEvents_keeps {s₀ s : State} (h : Keeps s₀ s) (n : Nat) : Keeps s₀ (s.drainEvents n) := by
  induction n generalizing s with
  | zero => exact h
  | succ n ih =>
    simp only [State.drainEvents]
    split
    · exact h
    · refine keeps_ite (ih (State.postEvent_keeps ?_ _ _)) h
      with_reducible apply keeps_mk
      exact h

theorem State.ringStart_keeps {s₀ s : State} (h : Keeps s₀ s) (n : Nat) :
    Keeps s₀ (s.ringStart n) := by
  unfold State.ringStart
  with_reducible repeat' first
    | assumption | apply State.ringFault_keeps | apply State.fset_keeps | apply State.setRing_keeps | apply keeps_ite
    | (extract_lets +onlyGivenNames x; refine keeps_cut (s₀ := s₀) (x := x) ?_ ?_; rotate_left 1;
        clear_value x; intro; rotate_right 1; dsimp -zeta only [x]; try clear x)
    | (extract_lets +onlyGivenNames x; clear_value x)

theorem State.withdrawBuffers_keeps {s₀ s : State} (h : Keeps s₀ s) (n : Nat) :
    Keeps s₀ (s.withdrawBuffers n) := by
  unfold State.withdrawBuffers
  with_reducible repeat' first | assumption | (intro) | apply State.finish_keeps | apply keeps_foldl

theorem State.ringCfgWrite_keeps {s₀ s : State} (h : Keeps s₀ s) (req : Requester) (n : Nat) (v : Word) :
    Keeps s₀ (s.ringCfgWrite req n v) := by
  unfold State.ringCfgWrite
  with_reducible repeat' first
    | assumption | apply State.accessErr_keeps | apply State.withdrawBuffers_keeps | apply State.fset_keeps
    | apply State.setRg_keeps | apply State.ringStart_keeps | apply keeps_ite

theorem State.ringDrained_keeps {s₀ s : State} (h : Keeps s₀ s) (n : Nat) :
    Keeps s₀ (s.ringDrained n) := by
  unfold State.ringDrained
  with_reducible repeat' first | assumption | apply State.fset_keeps | apply keeps_ite

theorem State.resetFunction_keeps {s₀ s : State} (h : Keeps s₀ s) :
    Keeps s₀ (s.resetFunction) := keeps_of_eq h rfl rfl rfl rfl rfl

theorem State.msixResume_keeps {s₀ s : State} (h : Keeps s₀ s) (mask : BitVec 64) :
    Keeps s₀ (s.msixResume mask) := by
  unfold State.msixResume
  with_reducible repeat' first
    | assumption | (intro) | apply State.sendVector_keeps | apply keeps_ite | apply keeps_foldl
    | (extract_lets +onlyGivenNames x; refine keeps_cut (s₀ := s₀) (x := x) ?_ ?_; rotate_left 1;
        clear_value x; intro; rotate_right 1; dsimp -zeta only [x]; try clear x)
    | (extract_lets +onlyGivenNames x; clear_value x) | apply keeps_mk

theorem State.tick_keeps {s₀ s : State} (h : Keeps s₀ s) :
    Keeps s₀ (s.tick) := by
  unfold State.tick
  with_reducible repeat' first | assumption | apply keeps_ite | apply keeps_mk

theorem State.setClock_keeps {s₀ s : State} (h : Keeps s₀ s) (c : FrameClock) :
    Keeps s₀ (s.setClock c) := keeps_of_eq h rfl rfl rfl rfl rfl

theorem State.setTf_keeps {s₀ s : State} (h : Keeps s₀ s) (n : Nat) (t : Int) :
    Keeps s₀ (s.setTf n t) := by
  unfold State.setTf
  with_reducible repeat' first | assumption | apply State.setClock_keeps

theorem State.setSh_keeps {s₀ s : State} (h : Keeps s₀ s) (n : Nat) (t : Int) :
    Keeps s₀ (s.setSh n t) := by
  unfold State.setSh
  with_reducible repeat' first
    | assumption | (intro) | apply State.setClock_keeps
    | (extract_lets +onlyGivenNames x; refine keeps_cut (s₀ := s₀) (x := x) ?_ ?_; rotate_left 1;
        clear_value x; intro; rotate_right 1; dsimp -zeta only [x]; try clear x)
    | (extract_lets +onlyGivenNames x; clear_value x)

theorem State.capture_keeps {s₀ s : State} (h : Keeps s₀ s) :
    Keeps s₀ (s.capture) := by
  unfold State.capture
  with_reducible repeat' first | assumption | (intro) | apply State.fset_keeps | apply keeps_foldl

theorem State.setFollow_keeps {s₀ s : State} (h : Keeps s₀ s) (w : Follow) (b : Base) :
    Keeps s₀ (s.setFollow w b) := by
  unfold State.setFollow
  with_reducible repeat' first | assumption | split | apply keeps_mk

theorem State.showBase_keeps {s₀ s : State} (h : Keeps s₀ s) (w : Follow) :
    Keeps s₀ (s.showBase w) := by
  unfold State.showBase
  with_reducible repeat' first | assumption | apply State.setRg_keeps | apply State.fset_keeps | split

theorem State.place_keeps {s₀ s : State} (h : Keeps s₀ s) (newBase : Nat) (shift : Int) :
    Keeps s₀ (s.place newBase shift) := by
  unfold State.place
  with_reducible repeat' first
    | assumption | apply State.setClock_keeps | apply State.setTf_keeps | apply State.fset_keeps
    | apply State.bumpF_keeps | apply keeps_ite

theorem State.reclock_keeps {s₀ s : State} (h : Keeps s₀ s) :
    Keeps s₀ (s.reclock) := by
  unfold State.reclock
  with_reducible repeat' first | assumption | apply State.place_keeps | apply keeps_ite

theorem State.setGate_keeps {s₀ s : State} (h : Keeps s₀ s) (g : Nat) (x : Gate) :
    Keeps s₀ (s.setGate g x) := keeps_of_eq h rfl rfl rfl rfl rfl

theorem State.gateOff_keeps {s₀ s : State} (h : Keeps s₀ s) (g : Nat) :
    Keeps s₀ (s.gateOff g) := by
  unfold State.gateOff
  with_reducible repeat' first | assumption | apply State.setGate_keeps | apply State.fset_keeps

theorem State.gateEdge_keeps {s₀ s : State} (h : Keeps s₀ s) (g : Nat) :
    Keeps s₀ (s.gateEdge g) := by
  unfold State.gateEdge
  with_reducible repeat' first | assumption | apply State.fireSource_keeps | apply State.emit_keeps | apply keeps_ite

theorem State.gateSpent_keeps {s₀ s : State} (h : Keeps s₀ s) (g n : Nat) :
    Keeps s₀ (s.gateSpent g n) := by
  unfold State.gateSpent
  with_reducible repeat' first
    | assumption | (intro) | apply State.setGate_keeps | apply State.gateOff_keeps | apply State.fset_keeps
    | apply keeps_ite
    | (extract_lets +onlyGivenNames x; refine keeps_cut (s₀ := s₀) (x := x) ?_ ?_; rotate_left 1;
        clear_value x; intro; rotate_right 1; dsimp -zeta only [x]; try clear x)
    | (extract_lets +onlyGivenNames x; clear_value x) | split

theorem State.gatePulse_keeps {s₀ s : State} (h : Keeps s₀ s) (g : Nat) :
    Keeps s₀ (s.gatePulse g) := by
  unfold State.gatePulse
  with_reducible repeat' first
    | assumption | apply State.gateEdge_keeps | apply State.fset_keeps | apply State.gateSpent_keeps
    | apply State.raise_keeps | apply keeps_ite

theorem State.stepGates_keeps {s₀ s : State} (h : Keeps s₀ s) (b : Nat) (old : Int) (new : Int) :
    Keeps s₀ (s.stepGates b old new) := by
  unfold State.stepGates
  with_reducible repeat' first
    | assumption | (intro) | apply State.fset_keeps | apply State.gateEdge_keeps | apply State.raise_keeps
    | apply State.gateSpent_keeps | apply State.bumpN_keeps | apply keeps_ite | apply keeps_foldl

theorem State.gateArm_keeps {s₀ s : State} (h : Keeps s₀ s) (req : Requester) (g : Nat) (v : Word) :
    Keeps s₀ (s.gateArm req g v) := by
  unfold State.gateArm
  with_reducible repeat' first
    | assumption | (intro) | apply State.gateOff_keeps | apply State.setRg_keeps | apply State.accessErr_keeps
    | apply State.bumpF_keeps | apply State.setGate_keeps | apply State.fset_keeps | apply keeps_ite
    | (extract_lets +onlyGivenNames x; refine keeps_cut (s₀ := s₀) (x := x) ?_ ?_; rotate_left 1;
        clear_value x; intro; rotate_right 1; dsimp -zeta only [x]; try clear x)
    | (extract_lets +onlyGivenNames x; clear_value x) | split

theorem State.stepBase_keeps {s₀ s : State} (h : Keeps s₀ s) (w : Follow) (o : Int) :
    Keeps s₀ (s.stepBase w o) := by
  unfold State.stepBase
  with_reducible repeat' first
    | assumption | (intro) | apply State.setFollow_keeps | apply State.bumpF_keeps | apply State.report_keeps
    | apply State.raise_keeps | apply State.showBase_keeps | apply State.stepGates_keeps | apply State.place_keeps
    | apply State.reclock_keeps | apply keeps_ite
    | (extract_lets +onlyGivenNames x; refine keeps_cut (s₀ := s₀) (x := x) ?_ ?_; rotate_left 1;
        clear_value x; intro; rotate_right 1; dsimp -zeta only [x]; try clear x)
    | (extract_lets +onlyGivenNames x; clear_value x) | split

theorem State.acquireFrom_keeps {s₀ s : State} (h : Keeps s₀ s) (w : Follow) (b : Base) :
    Keeps s₀ (s.acquireFrom w b) := by
  unfold State.acquireFrom
  with_reducible repeat' first
    | assumption | (intro) | apply State.fset_keeps | apply State.setFollow_keeps | apply State.showBase_keeps
    | apply keeps_ite
    | (extract_lets +onlyGivenNames x; refine keeps_cut (s₀ := s₀) (x := x) ?_ ?_; rotate_left 1;
        clear_value x; intro; rotate_right 1; dsimp -zeta only [x]; try clear x)
    | (extract_lets +onlyGivenNames x; clear_value x) | split

theorem State.sample_keeps {s₀ s : State} (h : Keeps s₀ s) (w : Follow) (master : Int) (ago : Int) :
    Keeps s₀ (s.sample w master ago) := by
  unfold State.sample
  with_reducible repeat' first
    | assumption | apply State.setRg_keeps | apply State.bumpN_keeps | apply State.stepBase_keeps
    | apply State.setFollow_keeps | apply State.showBase_keeps | apply State.acquireFrom_keeps | apply keeps_ite
    | (extract_lets +onlyGivenNames x; refine keeps_cut (s₀ := s₀) (x := x) ?_ ?_; rotate_left 1;
        clear_value x; intro; rotate_right 1; dsimp -zeta only [x]; try clear x)
    | (extract_lets +onlyGivenNames x; clear_value x) | split

theorem State.holdoverEntered_keeps {s₀ s : State} (h : Keeps s₀ s) (w : Follow) :
    Keeps s₀ (s.holdoverEntered w) := by
  unfold State.holdoverEntered
  with_reducible repeat' first | assumption | apply State.report_keeps | apply State.raise_keeps

theorem State.baseLoss_keeps {s₀ s : State} (h : Keeps s₀ s) (w : Follow) :
    Keeps s₀ (s.baseLoss w) := by
  unfold State.baseLoss
  with_reducible repeat' first
    | assumption | (intro) | apply State.setFollow_keeps | apply State.showBase_keeps
    | apply State.holdoverEntered_keeps | apply State.reclock_keeps | apply State.fset_keeps | apply State.bumpN_keeps
    | apply keeps_ite
    | (extract_lets +onlyGivenNames x; refine keeps_cut (s₀ := s₀) (x := x) ?_ ?_; rotate_left 1;
        clear_value x; intro; rotate_right 1; dsimp -zeta only [x]; try clear x)
    | (extract_lets +onlyGivenNames x; clear_value x) | split

theorem State.holdoverLimit_keeps {s₀ s : State} (h : Keeps s₀ s) (w : Follow) :
    Keeps s₀ (s.holdoverLimit w) := by
  unfold State.holdoverLimit
  with_reducible repeat' first | assumption | apply State.report_keeps | apply State.setFollow_keeps | apply keeps_ite

theorem State.ltcTake_keeps {s₀ s : State} (h : Keeps s₀ s) (hx m sec f : Nat) (good : Bool) (ago : Int) :
    Keeps s₀ (s.ltcTake hx m sec f good ago) := by
  unfold State.ltcTake
  with_reducible repeat' first
    | assumption | apply State.ledgerAdd_keeps | apply State.sample_keeps | apply State.bumpF_keeps | apply keeps_ite
    | apply keeps_mk
    | (extract_lets +onlyGivenNames x; refine keeps_cut (s₀ := s₀) (x := x) ?_ ?_; rotate_left 1;
        clear_value x; intro; rotate_right 1; dsimp -zeta only [x]; try clear x)
    | (extract_lets +onlyGivenNames x; clear_value x)

theorem State.ltc_keeps {s₀ s : State} (h : Keeps s₀ s) (hx m sec f : Nat) (good audio : Bool) (ago : Nat) :
    Keeps s₀ (s.ltc hx m sec f good audio ago) := by
  unfold State.ltc
  with_reducible repeat' first | assumption | apply State.ltcTake_keeps | apply keeps_ite

theorem State.tallyQueue_keeps {s₀ s : State} (h : Keeps s₀ s) (e : TallyEntry) :
    Keeps s₀ (s.tallyQueue e) := by
  unfold State.tallyQueue
  with_reducible repeat' first
    | assumption | apply State.raise_keeps | apply State.bumpF_keeps | apply keeps_ite | apply keeps_mk

theorem State.tallyEdge_keeps {s₀ s : State} (h : Keeps s₀ s) (i : Nat) (rising : Bool) (ago : Nat) :
    Keeps s₀ (s.tallyEdge i rising ago) := by
  unfold State.tallyEdge
  with_reducible repeat' first
    | assumption | apply State.tallyQueue_keeps | apply State.fireSource_keeps | apply keeps_ite | apply keeps_mk
    | (extract_lets +onlyGivenNames x; refine keeps_cut (s₀ := s₀) (x := x) ?_ ?_; rotate_left 1;
        clear_value x; intro; rotate_right 1; dsimp -zeta only [x]; try clear x)
    | (extract_lets +onlyGivenNames x; clear_value x) | split

theorem State.tallyPop_keeps {s₀ s : State} (h : Keeps s₀ s) :
    Keeps s₀ (s.tallyPop) := by
  unfold State.tallyPop
  with_reducible repeat' first | assumption | apply keeps_ite | split | apply keeps_mk

theorem State.setTimePair_keeps {s₀ s : State} (h : Keeps s₀ s) (w : Nat) (v : Int) :
    Keeps s₀ (s.setTimePair w v) := by
  unfold State.setTimePair
  with_reducible repeat' first | assumption | apply State.setTable_keeps

theorem State.timeQuery_keeps {s₀ s : State} (h : Keeps s₀ s) (host : HostView) (f : Flight) :
    Keeps s₀ (s.timeQuery host f) := by
  unfold State.timeQuery
  with_reducible repeat' first | assumption | apply State.finish_keeps | apply State.answerA_keeps | apply keeps_ite

theorem State.setGauge_keeps {s₀ s : State} (h : Keeps s₀ s) (g : Nat) (v : Gauge) :
    Keeps s₀ (s.setGauge g v) := keeps_of_eq h rfl rfl rfl rfl rfl

theorem State.gaCompared_keeps {s₀ s : State} (h : Keeps s₀ s) (g : Nat) (result : Nat) (expect : Nat) :
    Keeps s₀ (s.gaCompared g result expect) := by
  unfold State.gaCompared
  with_reducible repeat' first
    | assumption | apply State.fset_keeps | apply State.report_keeps | apply State.bumpF_keeps
    | apply State.raise_keeps | apply keeps_ite

theorem State.gaEnd_keeps {s₀ s : State} (h : Keeps s₀ s) (g : Nat) (result : Nat) (f : Nat) :
    Keeps s₀ (s.gaEnd g result f) := by
  unfold State.gaEnd
  with_reducible repeat' first
    | assumption | apply State.fset_keeps | apply State.setGauge_keeps | apply State.gaCompared_keeps
    | apply State.bumpF_keeps | apply keeps_ite
    | (extract_lets +onlyGivenNames x; refine keeps_cut (s₀ := s₀) (x := x) ?_ ?_; rotate_left 1;
        clear_value x; intro; rotate_right 1; dsimp -zeta only [x]; try clear x)
    | (extract_lets +onlyGivenNames x; clear_value x) | split

theorem State.gaCheck_keeps {s₀ s : State} (h : Keeps s₀ s) (g : Nat) (src : Nat) (l : List Byte) (f : Nat) :
    Keeps s₀ (s.gaCheck g src l f) := by
  unfold State.gaCheck
  with_reducible repeat' first | assumption | apply State.gaEnd_keeps | apply keeps_ite

theorem State.gaFeedAll_keeps {s₀ s : State} (h : Keeps s₀ s) (src : Nat) (l : List Byte) (f : Nat) :
    Keeps s₀ (s.gaFeedAll src l f) := by
  unfold State.gaFeedAll
  with_reducible repeat' first | assumption | (intro) | apply State.gaCheck_keeps | apply keeps_foldl

theorem State.gaMissed_keeps {s₀ s : State} (h : Keeps s₀ s) (g : Nat) :
    Keeps s₀ (s.gaMissed g) := by
  unfold State.gaMissed
  with_reducible repeat' first
    | assumption | apply State.setGauge_keeps | apply State.report_keeps | apply State.bumpF_keeps
    | apply State.fset_keeps | apply keeps_ite

theorem State.gaDue_keeps {s₀ s : State} (h : Keeps s₀ s) (g : Nat) :
    Keeps s₀ (s.gaDue g) := by
  unfold State.gaDue
  with_reducible repeat' first
    | assumption | apply State.setGauge_keeps | apply State.gaMissed_keeps | apply keeps_ite

theorem State.gaSoftFeed_keeps {s₀ s : State} (h : Keeps s₀ s) (g : Nat) (l : List Byte) :
    Keeps s₀ (s.gaSoftFeed g l) := by
  unfold State.gaSoftFeed
  with_reducible repeat' first | assumption | (intro) | apply State.fset_keeps

theorem State.gaRunWrite_keeps {s₀ s : State} (h : Keeps s₀ s) (req : Requester) (g : Nat) (v : Word) :
    Keeps s₀ (s.gaRunWrite req g v) := by
  unfold State.gaRunWrite
  with_reducible repeat' first | assumption | apply State.fset_keeps | apply State.accessErr_keeps | apply keeps_ite

theorem State.gaDataWrite_keeps {s₀ s : State} (h : Keeps s₀ s) (req : Requester) (g : Nat) (v : Word) :
    Keeps s₀ (s.gaDataWrite req g v) := by
  unfold State.gaDataWrite
  with_reducible repeat' first
    | assumption | apply State.gaSoftFeed_keeps | apply State.accessErr_keeps | apply keeps_ite

theorem State.gaData8Write_keeps {s₀ s : State} (h : Keeps s₀ s) (req : Requester) (g : Nat) (v : Word) :
    Keeps s₀ (s.gaData8Write req g v) := by
  unfold State.gaData8Write
  with_reducible repeat' first
    | assumption | apply State.gaSoftFeed_keeps | apply State.accessErr_keeps | apply keeps_ite

theorem State.gaFinishWrite_keeps {s₀ s : State} (h : Keeps s₀ s) (req : Requester) (g : Nat) :
    Keeps s₀ (s.gaFinishWrite req g) := by
  unfold State.gaFinishWrite
  with_reducible repeat' first
    | assumption | apply State.fresh_keeps | apply State.fset_keeps | apply State.gaEnd_keeps
    | apply State.accessErr_keeps | apply keeps_ite
    | (extract_lets +onlyGivenNames x; refine keeps_cut (s₀ := s₀) (x := x) ?_ ?_; rotate_left 1;
        clear_value x; intro; rotate_right 1; dsimp -zeta only [x]; try clear x)
    | (extract_lets +onlyGivenNames x; clear_value x) | refine keeps_fst (by assumption) ?_
    | refine keeps_snd (by assumption) ?_ | split

theorem State.siltSeen_keeps {s₀ s : State} (h : Keeps s₀ s) (i : Nat) :
    Keeps s₀ (s.siltSeen i) := by
  unfold State.siltSeen
  with_reducible repeat' first | assumption | apply State.setEntry_keeps | apply keeps_ite

theorem State.siltRelease_keeps {s₀ s : State} (h : Keeps s₀ s) (i : Nat) :
    Keeps s₀ (s.siltRelease i) := by
  unfold State.siltRelease
  with_reducible repeat' first | assumption | apply State.fset_keeps | apply State.setEntry_keeps | apply keeps_ite

theorem State.siltQuiet_keeps {s₀ s : State} (h : Keeps s₀ s) (i : Nat) :
    Keeps s₀ (s.siltQuiet i) := by
  unfold State.siltQuiet
  with_reducible repeat' first | assumption | apply State.setEntry_keeps | apply keeps_ite

theorem State.siltWindow_keeps {s₀ s : State} (h : Keeps s₀ s) (i : Nat) :
    Keeps s₀ (s.siltWindow i) := by
  unfold State.siltWindow
  with_reducible repeat' first
    | assumption | apply State.siltRaise_keeps | apply State.setEntry_keeps | apply keeps_ite

theorem State.takeColour_keeps {s₀ s : State} (h : Keeps s₀ s) (w : Staged) :
    Keeps s₀ (s.takeColour w) := by
  unfold State.takeColour
  with_reducible repeat' first
    | assumption | apply State.setReservoir_keeps | apply State.fset_keeps | apply keeps_ite | exact memWrite_wf _ _

theorem State.unloadColour_keeps {s₀ s : State} (h : Keeps s₀ s) :
    Keeps s₀ (s.unloadColour) := by
  unfold State.unloadColour
  with_reducible repeat' first
    | assumption | (intro) | apply State.fset_keeps | apply keeps_foldl
    | (extract_lets +onlyGivenNames x; refine keeps_cut (s₀ := s₀) (x := x) ?_ ?_; rotate_left 1;
        clear_value x; intro; rotate_right 1; dsimp -zeta only [x]; try clear x)
    | (extract_lets +onlyGivenNames x; clear_value x) | apply keeps_mk

theorem State.reloadColour_keeps {s₀ s : State} (h : Keeps s₀ s) :
    Keeps s₀ (s.reloadColour) := by
  unfold State.reloadColour
  with_reducible repeat' first
    | assumption | (intro) | apply State.setTable_keeps | apply keeps_ite | apply keeps_foldl
    | (extract_lets +onlyGivenNames x; refine keeps_cut (s₀ := s₀) (x := x) ?_ ?_; rotate_left 1;
        clear_value x; intro; rotate_right 1; dsimp -zeta only [x]; try clear x)
    | (extract_lets +onlyGivenNames x; clear_value x) | apply keeps_mk

theorem State.clrCtrlWrite_keeps {s₀ s : State} (h : Keeps s₀ s) (req : Requester) (v : Word) :
    Keeps s₀ (s.clrCtrlWrite req v) := by
  unfold State.clrCtrlWrite
  with_reducible repeat' first | assumption | apply State.fset_keeps | apply State.accessErr_keeps | apply keeps_ite

theorem State.clrBaseWrite_keeps {s₀ s : State} (h : Keeps s₀ s) (req : Requester) (v : Word) :
    Keeps s₀ (s.clrBaseWrite req v) := by
  unfold State.clrBaseWrite
  with_reducible repeat' first
    | assumption | apply State.accessErr_keeps | apply State.unloadColour_keeps | apply State.fset_keeps
    | apply keeps_ite

theorem State.setCanvas_keeps {s₀ s : State} (h : Keeps s₀ s) (c : Nat) (v : Canvas) :
    Keeps s₀ (s.setCanvas c v) := keeps_of_eq h rfl rfl rfl rfl rfl

theorem State.setLayer_keeps {s₀ s : State} (h : Keeps s₀ s) (c : Nat) (l : Nat) (v : LayerSt) :
    Keeps s₀ (s.setLayer c l v) := by
  unfold State.setLayer
  with_reducible repeat' first | assumption | apply State.setCanvas_keeps

theorem State.setVid_keeps {s₀ s : State} (h : Keeps s₀ s) (k : Nat) (v : Video) :
    Keeps s₀ (s.setVid k v) := keeps_of_eq h rfl rfl rfl rfl rfl

theorem State.fsetBit_keeps {s₀ s : State} (h : Keeps s₀ s) (f : RF) (c : Nat) (b : Bool) (i : Nat) :
    Keeps s₀ (s.fsetBit f c b i) := by
  unfold State.fsetBit
  with_reducible repeat' first | assumption | apply State.fset_keeps

theorem State.retireBuffer_keeps {s₀ s : State} (h : Keeps s₀ s) (f : Flight) (status : Nat) :
    Keeps s₀ (s.retireBuffer f status) := by
  unfold State.retireBuffer
  with_reducible repeat' first | assumption | apply State.finish_keeps

theorem State.dropBuffer_keeps {s₀ s : State} (h : Keeps s₀ s) (c l : Nat) (status : Nat) :
    Keeps s₀ (s.dropBuffer c l status) := by
  unfold State.dropBuffer
  with_reducible repeat' first
    | assumption | (intro) | apply State.setLayer_keeps | apply State.retireBuffer_keeps
    | (extract_lets +onlyGivenNames x; refine keeps_cut (s₀ := s₀) (x := x) ?_ ?_; rotate_left 1;
        clear_value x; intro; rotate_right 1; dsimp -zeta only [x]; try clear x)
    | (extract_lets +onlyGivenNames x; clear_value x) | split

theorem State.refillEvent_keeps {s₀ s : State} (h : Keeps s₀ s) (c : Nat) :
    Keeps s₀ (s.refillEvent c) := by
  unfold State.refillEvent
  with_reducible repeat' first
    | assumption | apply State.bumpF_keeps | apply State.fsetBit_keeps | apply State.setCanvas_keeps | apply keeps_ite

theorem State.applyLayerFrame_keeps {s₀ s : State} (h : Keeps s₀ s) (f : Flight) :
    Keeps s₀ (s.applyLayerFrame f) := by
  unfold State.applyLayerFrame
  with_reducible repeat' first
    | assumption | (intro) | apply State.finish_keeps | apply State.bumpF_keeps | apply State.setLayer_keeps
    | apply State.dropBuffer_keeps | apply State.setFlight_keeps | apply State.refillEvent_keeps | apply keeps_ite
    | (extract_lets +onlyGivenNames x; refine keeps_cut (s₀ := s₀) (x := x) ?_ ?_; rotate_left 1;
        clear_value x; intro; rotate_right 1; dsimp -zeta only [x]; try clear x)
    | (extract_lets +onlyGivenNames x; clear_value x) | split

theorem State.dropDraining_keeps {s₀ s : State} (h : Keeps s₀ s) :
    Keeps s₀ (s.dropDraining) := by
  unfold State.dropDraining
  with_reducible repeat' first
    | assumption | (intro) | apply State.dropBuffer_keeps | apply keeps_ite
    | (extract_lets +onlyGivenNames x; clear_value x) | apply keeps_foldl | split

theorem State.layerCommitted_keeps {s₀ s : State} (h : Keeps s₀ s) (old : Tabs) (c l : Nat) :
    Keeps s₀ (s.layerCommitted old c l) := by
  unfold State.layerCommitted
  with_reducible repeat' first
    | assumption | (intro) | apply State.dropBuffer_keeps | apply State.setLayer_keeps | apply keeps_ite
    | (extract_lets +onlyGivenNames x; refine keeps_cut (s₀ := s₀) (x := x) ?_ ?_; rotate_left 1;
        clear_value x; intro; rotate_right 1; dsimp -zeta only [x]; try clear x)
    | (extract_lets +onlyGivenNames x; clear_value x) | split

theorem State.canvasFigures_keeps {s₀ s : State} (h : Keeps s₀ s) :
    Keeps s₀ (s.canvasFigures) := by
  unfold State.canvasFigures
  with_reducible repeat' first | assumption | apply State.fset_keeps

theorem State.canvasCommitted_keeps {s₀ s : State} (h : Keeps s₀ s) (old : Tabs) (c : Nat) :
    Keeps s₀ (s.canvasCommitted old c) := by
  unfold State.canvasCommitted
  with_reducible repeat' first
    | assumption | (intro) | apply State.layerCommitted_keeps | apply State.setCanvas_keeps
    | apply State.fsetBit_keeps | apply State.refillEvent_keeps | apply State.canvasFigures_keeps | apply keeps_ite
    | apply keeps_foldl
    | (extract_lets +onlyGivenNames x; refine keeps_cut (s₀ := s₀) (x := x) ?_ ?_; rotate_left 1;
        clear_value x; intro; rotate_right 1; dsimp -zeta only [x]; try clear x)
    | (extract_lets +onlyGivenNames x; clear_value x)

theorem State.swapFlat_keeps {s₀ s : State} (h : Keeps s₀ s) (c : Nat) :
    Keeps s₀ (s.swapFlat c) := by
  unfold State.swapFlat
  with_reducible repeat' first
    | assumption | (intro) | apply State.setCanvas_keeps
    | (extract_lets +onlyGivenNames x; refine keeps_cut (s₀ := s₀) (x := x) ?_ ?_; rotate_left 1;
        clear_value x; intro; rotate_right 1; dsimp -zeta only [x]; try clear x)
    | (extract_lets +onlyGivenNames x; clear_value x) | split

theorem State.startRefill_keeps {s₀ s : State} (h : Keeps s₀ s) (c : Nat) :
    Keeps s₀ (s.startRefill c) := by
  unfold State.startRefill
  with_reducible repeat' first | assumption | apply State.refillEvent_keeps | apply keeps_ite

theorem State.pickLayer_keeps {s₀ s : State} (h : Keeps s₀ s) (c : Nat) (l : Nat) :
    Keeps s₀ (s.pickLayer c l) := by
  unfold State.pickLayer
  with_reducible repeat' first
    | assumption | (intro) | apply State.ledgerAdd_keeps | apply State.setCanvas_keeps | apply State.bumpF_keeps
    | apply keeps_ite | apply keeps_foldl

theorem State.pickVideos_keeps {s₀ s : State} (h : Keeps s₀ s) :
    Keeps s₀ (s.pickVideos) := by
  unfold State.pickVideos
  with_reducible repeat' first
    | assumption | (intro) | apply State.setCanvas_keeps | apply State.pickLayer_keeps | apply State.setVid_keeps
    | apply keeps_ite | apply keeps_foldl

theorem State.layerRecord_keeps {s₀ s : State} (h : Keeps s₀ s) (host : HostView) (c l : Nat) (f : Flight) (torn :
    Bool) :
    Keeps s₀ (s.layerRecord host c l f torn) := by
  unfold State.layerRecord
  with_reducible repeat' first
    | assumption | (intro) | apply State.ledgerAdd_keeps
    | (extract_lets +onlyGivenNames x; refine keeps_cut (s₀ := s₀) (x := x) ?_ ?_; rotate_left 1;
        clear_value x; intro; rotate_right 1; dsimp -zeta only [x]; try clear x)
    | (extract_lets +onlyGivenNames x; clear_value x)

theorem State.afterFetch_keeps {s₀ s : State} (h : Keeps s₀ s) (host : HostView) (c l : Nat) (f : Flight) (r : Nat) :
    Keeps s₀ (s.afterFetch host c l f r) := by
  unfold State.afterFetch
  with_reducible repeat' first
    | assumption | apply State.dropBuffer_keeps | apply State.layerRecord_keeps | apply State.setFlight_keeps
    | apply State.bumpF_keeps | apply State.fsetBit_keeps | apply keeps_ite
    | (extract_lets +onlyGivenNames x; refine keeps_cut (s₀ := s₀) (x := x) ?_ ?_; rotate_left 1;
        clear_value x; intro; rotate_right 1; dsimp -zeta only [x]; try clear x)
    | (extract_lets +onlyGivenNames x; clear_value x)

theorem State.fetchLayer_keeps {s₀ s : State} (h : Keeps s₀ s) (host after : HostView) (c l : Nat) :
    Keeps s₀ (s.fetchLayer host after c l).1 := by
  unfold State.fetchLayer
  with_reducible repeat' first
    | assumption | (intro) | apply State.afterFetch_keeps | apply keeps_ite_fst
    | (extract_lets +onlyGivenNames x; refine keeps_cut (s₀ := s₀) (x := x) ?_ ?_; rotate_left 1;
        clear_value x; intro; rotate_right 1; dsimp -zeta only [x]; try clear x)
    | (extract_lets +onlyGivenNames x; clear_value x) | split

theorem State.fetchCanvas_keeps {s₀ s : State} (h : Keeps s₀ s) (host after : HostView) (c : Nat) :
    Keeps s₀ (s.fetchCanvas host after c).1 :=
  keeps_foldl_fst _ _ _ h (fun _ l hq => State.fetchLayer_keeps hq host after c l)

theorem State.resPut_keeps {s₀ s : State} (h : Keeps s₀ s) (a : Nat) (b : List Byte) :
    Keeps s₀ (s.resPut a b) := keeps_reservoir h _ fun w => by
    split
    · exact memWrite_wf _ _ w
    · exact w

theorem State.keepHolds_keeps {s₀ s : State} (h : Keeps s₀ s) (host : HostView) (good ls : List Nat) (c : Nat) :
    Keeps s₀ (s.keepHolds host good ls c) := by
  unfold State.keepHolds
  with_reducible repeat' first
    | assumption | (intro) | apply State.resPut_keeps | apply State.setLayer_keeps | apply keeps_ite
    | apply keeps_foldl
    | (extract_lets +onlyGivenNames x; refine keeps_cut (s₀ := s₀) (x := x) ?_ ?_; rotate_left 1;
        clear_value x; intro; rotate_right 1; dsimp -zeta only [x]; try clear x)
    | (extract_lets +onlyGivenNames x; clear_value x) | refine keeps_fst (by assumption) ?_
    | refine keeps_snd (by assumption) ?_ | split

theorem State.stagePixels_keeps {s₀ s : State} (h : Keeps s₀ s) (host : HostView) (good : List Nat) (c : Nat) :
    Keeps s₀ (s.stagePixels host good c) := by
  unfold State.stagePixels
  with_reducible repeat' first
    | assumption | (intro) | apply State.fset_keeps | apply keeps_ite | apply keeps_foldl | apply keeps_mk

theorem State.feedSigs_keeps {s₀ s : State} (h : Keeps s₀ s) (host : HostView) (good : List Nat) (c : Nat) :
    Keeps s₀ (s.feedSigs host good c) := by
  unfold State.feedSigs
  with_reducible repeat' first
    | assumption | (intro) | apply State.gaCheck_keeps | apply keeps_ite | apply keeps_foldl

theorem State.fetchRun_keeps {s₀ s : State} (h : Keeps s₀ s) (host after : HostView) (c : Nat) :
    Keeps s₀ (s.fetchRun host after c).1 :=
  keeps_foldl_fst _ _ _ h (fun _ l hq => State.fetchLayer_keeps hq host after c l)

theorem State.refillDone_keeps {s₀ s : State} (h : Keeps s₀ s) (c : Nat) (host after : HostView) :
    Keeps s₀ (s.refillDone c host after) := by
  unfold State.refillDone
  with_reducible repeat' first
    | assumption | (intro) | apply State.fetchRun_keeps | apply State.resPut_keeps | apply State.keepHolds_keeps
    | apply State.setCanvas_keeps | apply State.fset_keeps | apply State.fsetBit_keeps | apply keeps_ite
    | (extract_lets +onlyGivenNames x; refine keeps_cut (s₀ := s₀) (x := x) ?_ ?_; rotate_left 1;
        clear_value x; intro; rotate_right 1; dsimp -zeta only [x]; try clear x)
    | (extract_lets +onlyGivenNames x; clear_value x) | refine keeps_fst (by assumption) ?_
    | refine keeps_snd (by assumption) ?_ | split

theorem State.cmpCtrlWrite_keeps {s₀ s : State} (h : Keeps s₀ s) (req : Requester) (v : Word) :
    Keeps s₀ (s.cmpCtrlWrite req v) := by
  unfold State.cmpCtrlWrite
  with_reducible repeat' first | assumption | apply State.fset_keeps | apply State.accessErr_keeps | apply keeps_ite

theorem State.flattenBaseWrite_keeps {s₀ s : State} (h : Keeps s₀ s) (req : Requester) (v : Word) :
    Keeps s₀ (s.flattenBaseWrite req v) := by
  unfold State.flattenBaseWrite
  with_reducible repeat' first | assumption | apply State.accessErr_keeps | apply State.fset_keeps | apply keeps_ite

theorem State.flattenSizeWrite_keeps {s₀ s : State} (h : Keeps s₀ s) (req : Requester) (v : Word) :
    Keeps s₀ (s.flattenSizeWrite req v) := by
  unfold State.flattenSizeWrite
  with_reducible repeat' first | assumption | apply State.accessErr_keeps | apply State.fset_keeps | apply keeps_ite

theorem State.sendUnmasked_keeps {s₀ s : State} (h : Keeps s₀ s) :
    Keeps s₀ (s.sendUnmasked) := by
  unfold State.sendUnmasked
  with_reducible repeat' first
    | assumption | (intro) | apply State.emit_keeps | apply keeps_ite | apply keeps_foldl | apply keeps_mk

theorem State.bar4Write_keeps {s₀ s : State} (h : Keeps s₀ s) (word : Nat) (v : Word) :
    Keeps s₀ (s.bar4Write word v) := by
  unfold State.bar4Write
  with_reducible repeat' first
    | assumption | apply State.sendUnmasked_keeps | apply keeps_ite
    | (extract_lets +onlyGivenNames x; refine keeps_cut (s₀ := s₀) (x := x) ?_ ?_; rotate_left 1;
        clear_value x; intro; rotate_right 1; dsimp -zeta only [x]; try clear x)
    | (extract_lets +onlyGivenNames x; clear_value x) | split | apply keeps_mk

theorem State.pcieAccess_keeps {s₀ s : State} (h : Keeps s₀ s) (a : PcieAccess) :
    Keeps s₀ (s.pcieAccess a) := by
  unfold State.pcieAccess
  with_reducible repeat' first
    | assumption | (intro) | apply State.emit_keeps | apply State.sendUnmasked_keeps | apply State.bar4Write_keeps
    | apply keeps_ite | split | apply keeps_mk

theorem State.openPeriod_keeps {s₀ s : State} (h : Keeps s₀ s) :
    Keeps s₀ (s.openPeriod) := by
  unfold State.openPeriod
  with_reducible repeat' first | assumption | apply State.setClock_keeps

theorem State.moveCopies_keeps {s₀ s : State} (h : Keeps s₀ s) (old : Tabs) :
    Keeps s₀ (s.moveCopies old) := by
  unfold State.moveCopies
  with_reducible repeat' first
    | assumption | (intro) | apply State.resPut_keeps | apply keeps_ite | apply keeps_foldl | split

end Sys2Proof.Machine
end

