-- ==== Sys2Proof/Laws/Keep3.lean ====
section
/-! SUPPORT. `Keeps` for the functions of Net, PortEntry, Watermaster, Ports, Lines. -/

namespace Sys2Proof.Machine

open Sys2Proof

theorem State.setMac_keeps {s₀ s : State} (h : Keeps s₀ s) (m : Nat) (v : NetMac) :
    Keeps s₀ (s.setMac m v) := keeps_of_eq h rfl rfl rfl rfl rfl

theorem State.setRxq_keeps {s₀ s : State} (h : Keeps s₀ s) (m : Nat) (c : Nat) (l : List RxFrame) :
    Keeps s₀ (s.setRxq m c l) := by
  unfold State.setRxq
  with_reducible repeat' first | assumption | apply State.setMac_keeps

theorem State.rxPush_keeps {s₀ s : State} (h : Keeps s₀ s) (m : Nat) (c : Nat) (n : Nat) :
    Keeps s₀ (s.rxPush m c n) := by
  unfold State.rxPush
  with_reducible repeat' first | assumption | apply State.fset_keeps | apply State.raise_keeps | apply keeps_ite

theorem State.rxFree_keeps {s₀ s : State} (h : Keeps s₀ s) (m : Nat) (c : Nat) (n : Nat) :
    Keeps s₀ (s.rxFree m c n) := by
  unfold State.rxFree
  with_reducible repeat' first | assumption | apply State.fset_keeps

theorem State.rxPop_keeps {s₀ s : State} (h : Keeps s₀ s) (m c : Nat) : ∀ a u, s.rxPop m c = some (a, u) → Keeps s₀ u := by
  intro a u e
  unfold State.rxPop at e
  split at e
  · nomatch e
  · injection e with e
    injection e with _ e
    exact e ▸ State.rxFree_keeps (State.setRxq_keeps h _ _ _) _ _ _

theorem State.showTsq_keeps {s₀ s : State} (h : Keeps s₀ s) (m : Nat) :
    Keeps s₀ (s.showTsq m) := by
  unfold State.showTsq
  with_reducible repeat' first | assumption | apply State.fset_keeps

theorem State.stamp_keeps {s₀ s : State} (h : Keeps s₀ s) (m : Nat) (e : TsEntry) :
    Keeps s₀ (s.stamp m e) := by
  unfold State.stamp
  with_reducible repeat' first
    | assumption | apply State.showTsq_keeps | apply State.setMac_keeps | apply State.bumpF_keeps | apply keeps_ite

theorem State.tsqPop_keeps {s₀ s : State} (h : Keeps s₀ s) (m : Nat) :
    Keeps s₀ (s.tsqPop m) := by
  unfold State.tsqPop
  with_reducible repeat' first
    | assumption | apply State.showTsq_keeps | apply State.setMac_keeps | apply keeps_ite
    | (extract_lets +onlyGivenNames x; clear_value x) | split

theorem State.launch_keeps {s₀ s : State} (h : Keeps s₀ s) (m : Nat) (i : TxItem) :
    Keeps s₀ (s.launch m i) := by
  unfold State.launch
  with_reducible repeat' first
    | assumption | apply State.emit_keeps | apply State.setMac_keeps | apply State.bumpF_keeps
    | apply State.stamp_keeps | apply State.finish_keeps | apply keeps_ite | split

theorem State.tryLaunch_keeps {s₀ s : State} (h : Keeps s₀ s) (m : Nat) :
    Keeps s₀ (s.tryLaunch m) := by
  unfold State.tryLaunch
  with_reducible repeat' first | assumption | apply State.launch_keeps | apply keeps_ite | split

theorem State.sendItem_keeps {s₀ s : State} (h : Keeps s₀ s) (m : Nat) (i : TxItem) :
    Keeps s₀ (s.sendItem m i) := by
  unfold State.sendItem
  with_reducible repeat' first | assumption | apply State.tryLaunch_keeps | apply State.setMac_keeps

theorem State.wireFree_keeps {s₀ s : State} (h : Keeps s₀ s) (m : Nat) :
    Keeps s₀ (s.wireFree m) := by
  unfold State.wireFree
  with_reducible repeat' first | assumption | apply State.tryLaunch_keeps | apply State.setMac_keeps

theorem State.sendPause_keeps {s₀ s : State} (h : Keeps s₀ s) (m : Nat) (quanta : Nat) :
    Keeps s₀ (s.sendPause m quanta) := by
  unfold State.sendPause
  with_reducible repeat' first | assumption | apply State.sendItem_keeps

theorem State.weirs_keeps {s₀ s : State} (h : Keeps s₀ s) (m : Nat) :
    Keeps s₀ (s.weirs m) := by
  unfold State.weirs
  with_reducible repeat' first
    | assumption | apply State.fset_keeps | apply State.sendPause_keeps | apply State.setMac_keeps | apply keeps_ite
    | (extract_lets +onlyGivenNames x; refine keeps_cut (s₀ := s₀) (x := x) ?_ ?_; rotate_left 1;
        clear_value x; intro; rotate_right 1; dsimp -zeta only [x]; try clear x)
    | (extract_lets +onlyGivenNames x; clear_value x)

theorem State.pauseRepeat_keeps {s₀ s : State} (h : Keeps s₀ s) (m : Nat) :
    Keeps s₀ (s.pauseRepeat m) := by
  unfold State.pauseRepeat
  with_reducible repeat' first | assumption | apply State.sendPause_keeps | apply keeps_ite

theorem State.pauseWatchdog_keeps {s₀ s : State} (h : Keeps s₀ s) (m : Nat) (tx : Bool) :
    Keeps s₀ (s.pauseWatchdog m tx) := by
  unfold State.pauseWatchdog
  with_reducible repeat' first
    | assumption | apply State.sendPause_keeps | apply State.report_keeps | apply State.bumpF_keeps
    | apply State.fset_keeps | apply State.tryLaunch_keeps | apply keeps_ite

theorem State.takePause_keeps {s₀ s : State} (h : Keeps s₀ s) (m : Nat) (quanta : Nat) :
    Keeps s₀ (s.takePause m quanta) := by
  unfold State.takePause
  with_reducible repeat' first
    | assumption | apply State.setMac_keeps | apply State.tryLaunch_keeps | apply State.fset_keeps | apply keeps_ite

theorem State.pauseEnd_keeps {s₀ s : State} (h : Keeps s₀ s) (m : Nat) :
    Keeps s₀ (s.pauseEnd m) := by
  unfold State.pauseEnd
  with_reducible repeat' first | assumption | apply State.tryLaunch_keeps | apply State.fset_keeps

theorem State.fillBufs_keeps {s₀ s : State} (h : Keeps s₀ s) (m c k : Nat) (f : RxFrame) :
    Keeps s₀ (s.fillBufs m c k f).1 := by
  induction k generalizing s f with
  | zero => exact h
  | succ k ih =>
    simp only [State.fillBufs]
    refine keeps_ite_fst h ?_
    split
    · exact h
    · split
      · exact ih (State.finish_keeps h _ _ _ _ _) _
      · next e => exact ih (keeps_some e (State.spread_keeps h _ _ _ _)) _

theorem State.finishBufs_keeps {s₀ s : State} (h : Keeps s₀ s) (status : Nat) (l : List (Nat × Nat)) :
    Keeps s₀ (s.finishBufs status l) := by
  induction l generalizing s with
  | nil => exact h
  | cons e t ih =>
    cases t with
    | nil =>
      simp only [State.finishBufs]
      split
      · exact State.finish_keeps h _ _ _ _ _
      · exact h
    | cons b u =>
      simp only [State.finishBufs]
      split
      · exact ih (State.finish_keeps h _ _ _ _ _)
      · exact ih h

theorem State.drainOne_keeps {s₀ s : State} (h : Keeps s₀ s) (m c : Nat) :
    Keeps s₀ (s.drainOne m c).1 := by
  unfold State.drainOne
  with_reducible repeat' first
    | assumption | (intro) | apply State.fillBufs_keeps | apply State.setRxq_keeps | apply State.rxFree_keeps
    | apply State.finishBufs_keeps | apply keeps_ite | apply keeps_ite_fst
    | (extract_lets +onlyGivenNames x; refine keeps_cut (s₀ := s₀) (x := x) ?_ ?_; rotate_left 1;
        clear_value x; intro; rotate_right 1; dsimp -zeta only [x]; try clear x)
    | (extract_lets +onlyGivenNames x; clear_value x) | refine keeps_fst (by assumption) ?_
    | refine keeps_snd (by assumption) ?_ | split

theorem State.drainHost_keeps {s₀ s : State} (h : Keeps s₀ s) (m k : Nat) : Keeps s₀ (s.drainHost m k) := by
  induction k generalizing s with
  | zero => exact h
  | succ k ih =>
    simp only [State.drainHost]
    have h1 := State.drainOne_keeps h m 6
    have h2 := State.drainOne_keeps h1 m 7
    exact keeps_ite (ih h1) (keeps_ite (ih h2) h2)

theorem State.rxToHost_keeps {s₀ s : State} (h : Keeps s₀ s) (m : Nat) :
    Keeps s₀ (s.rxToHost m) := by
  unfold State.rxToHost
  with_reducible repeat' first | assumption | apply State.weirs_keeps | apply State.drainHost_keeps

theorem State.rxBuffer_keeps {s₀ s : State} (h : Keeps s₀ s) (host : HostView) (f : Flight) :
    Keeps s₀ (s.rxBuffer host f) := by
  unfold State.rxBuffer
  with_reducible repeat' first
    | assumption | apply State.finish_keeps | apply State.setFlight_keeps | apply keeps_ite | split

theorem State.rxPass_keeps {s₀ s : State} (h : Keeps s₀ s) (m c n : Nat) :
    Keeps s₀ (s.rxPass m c n) := by
  unfold State.rxPass
  with_reducible repeat' first | assumption | apply State.fset_keeps | apply State.rxFree_keeps

theorem State.rxHold_keeps {s₀ s : State} (h : Keeps s₀ s) (m c n : Nat) (f : RxFrame) :
    Keeps s₀ (s.rxHold m c n f) := by
  unfold State.rxHold
  with_reducible repeat' first | assumption | apply State.setRxq_keeps | apply State.rxPush_keeps

theorem State.streamFrame_keeps {s₀ s : State} (h : Keeps s₀ s) (m c : Nat) (f : RxFrame) :
    Keeps s₀ (s.streamFrame m c f) := by
  unfold State.streamFrame
  with_reducible repeat' first
    | assumption | apply State.fillBufs_keeps | apply State.rxPass_keeps | apply State.finishBufs_keeps
    | apply State.rxHold_keeps | apply State.bumpF_keeps | apply keeps_ite
    | (extract_lets +onlyGivenNames x; refine keeps_cut (s₀ := s₀) (x := x) ?_ ?_; rotate_left 1;
        clear_value x; intro; rotate_right 1; dsimp -zeta only [x]; try clear x)
    | (extract_lets +onlyGivenNames x; clear_value x) | refine keeps_fst (by assumption) ?_
    | refine keeps_snd (by assumption) ?_ | split

theorem State.rxEnter_keeps {s₀ s : State} (h : Keeps s₀ s) (m c : Nat) (f : RxFrame) :
    Keeps s₀ (s.rxEnter m c f) := by
  unfold State.rxEnter
  with_reducible repeat' first
    | assumption | apply State.bumpF_keeps | apply State.streamFrame_keeps | apply State.rxHold_keeps
    | apply keeps_ite
    | (extract_lets +onlyGivenNames x; refine keeps_cut (s₀ := s₀) (x := x) ?_ ?_; rotate_left 1;
        clear_value x; intro; rotate_right 1; dsimp -zeta only [x]; try clear x)
    | (extract_lets +onlyGivenNames x; clear_value x)

theorem State.macReceive_keeps {s₀ s : State} (h : Keeps s₀ s) (m : Nat) (bytes : List Byte) (good : Bool) :
    Keeps s₀ (s.macReceive m bytes good) := by
  unfold State.macReceive
  with_reducible repeat' first
    | assumption | apply State.bumpF_keeps | apply State.takePause_keeps | apply State.weirs_keeps
    | apply State.rxEnter_keeps | apply keeps_ite | split

theorem State.txFrame_keeps {s₀ s : State} (h : Keeps s₀ s) (host : HostView) (f : Flight) :
    Keeps s₀ (s.txFrame host f) := by
  unfold State.txFrame
  with_reducible repeat' first
    | assumption | (intro) | apply State.finish_keeps | apply State.setFlight_keeps | apply State.sendItem_keeps
    | apply State.stamp_keeps | apply keeps_ite
    | (extract_lets +onlyGivenNames x; refine keeps_cut (s₀ := s₀) (x := x) ?_ ?_; rotate_left 1;
        clear_value x; intro; rotate_right 1; dsimp -zeta only [x]; try clear x)
    | (extract_lets +onlyGivenNames x; clear_value x) | split

theorem State.txLaunch_keeps {s₀ s : State} (h : Keeps s₀ s) (m : Nat) :
    Keeps s₀ (s.txLaunch m) := by
  unfold State.txLaunch
  with_reducible repeat' first
    | assumption | (intro) | apply State.setFlight_keeps | apply State.sendItem_keeps | apply State.stamp_keeps
    | apply keeps_ite | split

theorem State.macCfgWrite_keeps {s₀ s : State} (h : Keeps s₀ s) (req : Requester) (m : Nat) (v : Word) :
    Keeps s₀ (s.macCfgWrite req m v) := by
  unfold State.macCfgWrite
  with_reducible repeat' first
    | assumption | apply State.setRg_keeps | apply State.accessErr_keeps | apply State.fset_keeps
    | apply State.tryLaunch_keeps | apply State.weirs_keeps | apply keeps_ite
    | (extract_lets +onlyGivenNames x; refine keeps_cut (s₀ := s₀) (x := x) ?_ ?_; rotate_left 1;
        clear_value x; intro; rotate_right 1; dsimp -zeta only [x]; try clear x)
    | (extract_lets +onlyGivenNames x; clear_value x) | split

theorem State.weirWrite_keeps {s₀ s : State} (h : Keeps s₀ s) (req : Requester) (m : Nat) (v : Word) :
    Keeps s₀ (s.weirWrite req m v) := by
  unfold State.weirWrite
  with_reducible repeat' first
    | assumption | apply State.accessErr_keeps | apply State.weirs_keeps | apply State.setRg_keeps | apply keeps_ite

theorem State.rxqResize_keeps {s₀ s : State} (h : Keeps s₀ s) (m c k : Nat) :
    Keeps s₀ (s.rxqResize m c k) := by
  unfold State.rxqResize
  with_reducible repeat' first
    | assumption | (intro) | apply State.fset_keeps | apply State.bumpF_keeps | apply State.setRxq_keeps
    | apply keeps_ite | apply keeps_foldl
    | (extract_lets +onlyGivenNames x; refine keeps_cut (s₀ := s₀) (x := x) ?_ ?_; rotate_left 1;
        clear_value x; intro; rotate_right 1; dsimp -zeta only [x]; try clear x)
    | (extract_lets +onlyGivenNames x; clear_value x)

theorem State.rxqCfgWrite_keeps {s₀ s : State} (h : Keeps s₀ s) (req : Requester) (m c : Nat) (v : Word) :
    Keeps s₀ (s.rxqCfgWrite req m c v) := by
  unfold State.rxqCfgWrite
  with_reducible repeat' first
    | assumption | apply State.fset_keeps | apply State.accessErr_keeps | apply State.rxqResize_keeps
    | apply State.weirs_keeps | apply keeps_ite
    | (extract_lets +onlyGivenNames x; refine keeps_cut (s₀ := s₀) (x := x) ?_ ?_; rotate_left 1;
        clear_value x; intro; rotate_right 1; dsimp -zeta only [x]; try clear x)
    | (extract_lets +onlyGivenNames x; clear_value x)

theorem State.linkChange_keeps {s₀ s : State} (h : Keeps s₀ s) (m : Nat) (up : Bool) :
    Keeps s₀ (s.linkChange m up) := by
  unfold State.linkChange
  with_reducible repeat' first | assumption | apply State.tryLaunch_keeps | apply State.fset_keeps | apply keeps_ite

theorem State.setFeeders_keeps {s₀ s : State} (h : Keeps s₀ s) (l : List (Nat × Feeder)) :
    Keeps s₀ (s.setFeeders l) := keeps_of_eq h rfl rfl rfl rfl rfl

theorem State.wmTree_keeps {s₀ s : State} (h : Keeps s₀ s) :
    Keeps s₀ (s.wmTree) := by
  unfold State.wmTree
  with_reducible repeat' first
    | assumption | (intro) | apply State.setFeeders_keeps | apply State.bumpF_keeps | apply State.report_keeps
    | apply State.fset_keeps | apply State.fresh_keeps | apply keeps_ite | apply keeps_foldl
    | (extract_lets +onlyGivenNames x; refine keeps_cut (s₀ := s₀) (x := x) ?_ ?_; rotate_left 1;
        clear_value x; intro; rotate_right 1; dsimp -zeta only [x]; try clear x)
    | (extract_lets +onlyGivenNames x; clear_value x)

theorem State.setZone_keeps {s₀ s : State} (h : Keeps s₀ s) (z : Nat) (v : Zone) :
    Keeps s₀ (s.setZone z v) := keeps_of_eq h rfl rfl rfl rfl rfl

theorem State.zoneStage_keeps {s₀ s : State} (h : Keeps s₀ s) (frame z : Nat) :
    Keeps s₀ (s.zoneStage frame z) := by
  unfold State.zoneStage
  with_reducible repeat' first
    | assumption | apply State.setZone_keeps | apply keeps_ite
    | (extract_lets +onlyGivenNames x; refine keeps_cut (s₀ := s₀) (x := x) ?_ ?_; rotate_left 1;
        clear_value x; intro; rotate_right 1; dsimp -zeta only [x]; try clear x)
    | (extract_lets +onlyGivenNames x; clear_value x)

theorem State.setBus_keeps {s₀ s : State} (h : Keeps s₀ s) (b : Nat) (l : List Supply) :
    Keeps s₀ (s.setBus b l) := by
  unfold State.setBus
  with_reducible repeat' first | assumption | apply keeps_ite | apply keeps_mk

theorem State.pmWrite_keeps {s₀ s : State} (h : Keeps s₀ s) (b : Nat) (pec : Bool) (addr code : Nat) (data : List
    Byte) :
    Keeps s₀ (s.pmWrite b pec addr code data) := by
  unfold State.pmWrite
  with_reducible repeat' first | assumption | apply State.emit_keeps | apply keeps_ite

theorem State.pmSend_keeps {s₀ s : State} (h : Keeps s₀ s) (b : Nat) (c : Supply) :
    Keeps s₀ (s.pmSend b c) := by
  unfold State.pmSend
  with_reducible repeat' first
    | assumption | apply State.pmWrite_keeps | apply keeps_ite
    | (extract_lets +onlyGivenNames x; refine keeps_cut (s₀ := s₀) (x := x) ?_ ?_; rotate_left 1;
        clear_value x; intro; rotate_right 1; dsimp -zeta only [x]; try clear x)
    | (extract_lets +onlyGivenNames x; clear_value x)

theorem State.busStart_keeps {s₀ s : State} (h : Keeps s₀ s) (b : Nat) :
    Keeps s₀ (s.busStart b) := by
  unfold State.busStart
  with_reducible repeat' first
    | assumption | (intro) | apply State.pmSend_keeps | apply State.setZone_keeps | apply keeps_ite | split

theorem State.setPort_keeps {s₀ s : State} (h : Keeps s₀ s) (p : Nat) (v : Port) :
    Keeps s₀ (s.setPort p v) := keeps_of_eq h rfl rfl rfl rfl rfl

theorem State.sendSymbols_keeps {s₀ s : State} (h : Keeps s₀ s) (p : Nat) (l : List Symbol) :
    Keeps s₀ (s.sendSymbols p l) := by
  unfold State.sendSymbols
  with_reducible repeat' first
    | assumption | apply State.fresh_keeps | apply State.setPort_keeps | apply State.emit_keeps
    | (extract_lets +onlyGivenNames x; refine keeps_cut (s₀ := s₀) (x := x) ?_ ?_; rotate_left 1;
        clear_value x; intro; rotate_right 1; dsimp -zeta only [x]; try clear x)
    | (extract_lets +onlyGivenNames x; clear_value x) | refine keeps_fst (by assumption) ?_
    | refine keeps_snd (by assumption) ?_ | split

theorem State.furSend_keeps {s₀ s : State} (h : Keeps s₀ s) (p type flags addr : Nat) (payload : List Byte) (fill :
    Nat) :
    Keeps s₀ (s.furSend p type flags addr payload fill) := by
  unfold State.furSend
  with_reducible repeat' first | assumption | apply State.sendSymbols_keeps | apply keeps_ite

theorem State.furSupply_keeps {s₀ s : State} (h : Keeps s₀ s) (c : Supply) :
    Keeps s₀ (s.furSupply c) := by
  unfold State.furSupply
  with_reducible repeat' first | assumption | apply State.furSend_keeps | apply keeps_ite

theorem State.zoneSend_keeps {s₀ s : State} (h : Keeps s₀ s) (z : Nat) (rising : Bool) :
    Keeps s₀ (s.zoneSend z rising) := by
  unfold State.zoneSend
  with_reducible repeat' first
    | assumption | apply State.setZone_keeps | apply State.setBus_keeps | apply State.busStart_keeps
    | apply State.furSupply_keeps | apply keeps_ite
    | (extract_lets +onlyGivenNames x; refine keeps_cut (s₀ := s₀) (x := x) ?_ ?_; rotate_left 1;
        clear_value x; intro; rotate_right 1; dsimp -zeta only [x]; try clear x)
    | (extract_lets +onlyGivenNames x; clear_value x) | apply keeps_mk

theorem State.sendRise_keeps {s₀ s : State} (h : Keeps s₀ s) (z : Nat) :
    Keeps s₀ (s.sendRise z) := by
  unfold State.sendRise
  with_reducible repeat' first | assumption | apply State.setZone_keeps | apply State.zoneSend_keeps

theorem State.supplyRise_keeps {s₀ s : State} (h : Keeps s₀ s) :
    Keeps s₀ (s.supplyRise) := by
  unfold State.supplyRise
  with_reducible repeat' first | assumption | (intro) | apply State.sendRise_keeps | apply keeps_ite | apply keeps_foldl

theorem State.sendFall_keeps {s₀ s : State} (h : Keeps s₀ s) (z : Nat) :
    Keeps s₀ (s.sendFall z) := by
  unfold State.sendFall
  with_reducible repeat' first
    | assumption | apply State.setZone_keeps | apply State.zoneSend_keeps | apply keeps_ite
    | (extract_lets +onlyGivenNames x; refine keeps_cut (s₀ := s₀) (x := x) ?_ ?_; rotate_left 1;
        clear_value x; intro; rotate_right 1; dsimp -zeta only [x]; try clear x)
    | (extract_lets +onlyGivenNames x; clear_value x)

theorem State.noteMin_keeps {s₀ s : State} (h : Keeps s₀ s) :
    Keeps s₀ (s.noteMin) := by
  unfold State.noteMin
  with_reducible repeat' first | assumption | apply keeps_ite | apply keeps_mk

theorem State.supplyFall_keeps {s₀ s : State} (h : Keeps s₀ s) :
    Keeps s₀ (s.supplyFall) := by
  unfold State.supplyFall
  with_reducible repeat' first
    | assumption | (intro) | apply State.sendFall_keeps | apply State.noteMin_keeps | apply keeps_ite
    | apply keeps_foldl

theorem State.clearZoneFault_keeps {s₀ s : State} (h : Keeps s₀ s) (z : Nat) :
    Keeps s₀ (s.clearZoneFault z) := by
  unfold State.clearZoneFault
  with_reducible repeat' first | assumption | apply State.fset_keeps

theorem State.zoneAck_keeps {s₀ s : State} (h : Keeps s₀ s) (z cmd value : Nat) :
    Keeps s₀ (s.zoneAck z cmd value) := by
  unfold State.zoneAck
  with_reducible repeat' first
    | assumption | (intro) | apply State.setZone_keeps | apply State.clearZoneFault_keeps
    | apply State.ledgerAdd_keeps
    | (extract_lets +onlyGivenNames x; refine keeps_cut (s₀ := s₀) (x := x) ?_ ?_; rotate_left 1;
        clear_value x; intro; rotate_right 1; dsimp -zeta only [x]; try clear x)
    | (extract_lets +onlyGivenNames x; clear_value x)

theorem State.zoneFail_keeps {s₀ s : State} (h : Keeps s₀ s) (z : Nat) :
    Keeps s₀ (s.zoneFail z) := by
  unfold State.zoneFail
  with_reducible repeat' first
    | assumption | apply State.fresh_keeps | apply State.setZone_keeps | apply State.ledgerAdd_keeps
    | apply State.report_keeps | apply State.fset_keeps | apply keeps_ite

theorem State.pmDone_keeps {s₀ s : State} (h : Keeps s₀ s) (b : Nat) (ack : Bool) :
    Keeps s₀ (s.pmDone b ack) := by
  unfold State.pmDone
  with_reducible repeat' first
    | assumption | apply State.busStart_keeps | apply State.zoneAck_keeps | apply State.setBus_keeps
    | apply State.bumpF_keeps | apply State.zoneFail_keeps | apply keeps_ite | split

theorem State.supplyLate_keeps {s₀ s : State} (h : Keeps s₀ s) :
    Keeps s₀ (s.supplyLate) := by
  unfold State.supplyLate
  with_reducible repeat' first
    | assumption | (intro) | apply State.setZone_keeps | apply State.bumpF_keeps | apply State.report_keeps
    | apply keeps_ite | apply keeps_foldl

theorem State.setMember_keeps {s₀ s : State} (h : Keeps s₀ s) (key : Nat) (v : Member) :
    Keeps s₀ (s.setMember key v) := keeps_of_eq h rfl rfl rfl rfl rfl

theorem State.setGrpFailed_keeps {s₀ s : State} (h : Keeps s₀ s) (g : Nat) (b : Bool) :
    Keeps s₀ (s.setGrpFailed g b) := by
  unfold State.setGrpFailed
  with_reducible repeat' first | assumption | apply State.fset_keeps

theorem State.grpStage_keeps {s₀ s : State} (h : Keeps s₀ s) (frame : Nat) (g : Nat) :
    Keeps s₀ (s.grpStage frame g) := by
  unfold State.grpStage
  with_reducible repeat' first
    | assumption | apply State.setGrpFailed_keeps | apply State.report_keeps | apply State.bumpF_keeps
    | apply keeps_ite

theorem State.legStage_keeps {s₀ s : State} (h : Keeps s₀ s) (frame : Nat) :
    Keeps s₀ (s.legStage frame) := by
  unfold State.legStage
  with_reducible repeat' first
    | assumption | (intro) | apply State.grpStage_keeps | apply keeps_ite | apply keeps_foldl | apply keeps_mk

theorem State.fixSent_keeps {s₀ s : State} (h : Keeps s₀ s) :
    Keeps s₀ (s.fixSent) := by
  unfold State.fixSent
  with_reducible repeat' first
    | assumption | (intro) | apply keeps_ite | apply keeps_mk
    | (extract_lets +onlyGivenNames x; refine keeps_cut (s₀ := s₀) (x := x) ?_ ?_; rotate_left 1;
        clear_value x; intro; rotate_right 1; dsimp -zeta only [x]; try clear x)
    | (extract_lets +onlyGivenNames x; clear_value x)

theorem State.feedGroups_keeps {s₀ s : State} (h : Keeps s₀ s) (frame : Nat) :
    Keeps s₀ (s.feedGroups frame) := by
  unfold State.feedGroups
  with_reducible repeat' first | assumption | (intro) | apply State.gaCheck_keeps | apply keeps_foldl

theorem State.stageWater_keeps {s₀ s : State} (h : Keeps s₀ s) (frame : Nat) :
    Keeps s₀ (s.stageWater frame) := by
  unfold State.stageWater
  with_reducible repeat' first
    | assumption | (intro) | apply State.wmTree_keeps | apply State.zoneStage_keeps | apply keeps_foldl
   
    | (extract_lets +onlyGivenNames x; refine keeps_cut (s₀ := s₀) (x := x) ?_ ?_; rotate_left 1;
        clear_value x; intro; rotate_right 1; dsimp -zeta only [x]; try clear x)
    | (extract_lets +onlyGivenNames x; clear_value x) | apply keeps_mk

theorem State.keepPast_keeps {s₀ s : State} (h : Keeps s₀ s) (frame : Nat) :
    Keeps s₀ (s.keepPast frame) := by
  unfold State.keepPast
  with_reducible repeat' first | assumption | apply keeps_mk

theorem State.markBlack_keeps {s₀ s : State} (h : Keeps s₀ s) (frame : Nat) :
    Keeps s₀ (s.markBlack frame) := by
  unfold State.markBlack
  with_reducible repeat' first | assumption | apply keeps_ite | apply keeps_mk

theorem State.wmStage_keeps {s₀ s : State} (h : Keeps s₀ s) (frame : Nat) (staged : Bool) :
    Keeps s₀ (s.wmStage frame staged) := by
  unfold State.wmStage
  with_reducible repeat' first
    | assumption | (intro) | apply State.markBlack_keeps | apply State.stageWater_keeps | apply State.setZone_keeps
    | apply State.legStage_keeps | apply State.fixSent_keeps | apply State.keepPast_keeps
    | apply State.feedGroups_keeps | apply keeps_ite | apply keeps_foldl | apply keeps_mk
    | (extract_lets +onlyGivenNames x; refine keeps_cut (s₀ := s₀) (x := x) ?_ ?_; rotate_left 1;
        clear_value x; intro; rotate_right 1; dsimp -zeta only [x]; try clear x)
    | (extract_lets +onlyGivenNames x; clear_value x)

theorem State.waterCommitted_keeps {s₀ s : State} (h : Keeps s₀ s) (old : Tabs) (frame : Nat) :
    Keeps s₀ (s.waterCommitted old frame) := by
  unfold State.waterCommitted
  with_reducible repeat' first
    | assumption | (intro) | apply State.fresh_keeps | apply State.setFeeders_keeps | apply State.setZone_keeps
    | apply State.clearZoneFault_keeps | apply State.fset_keeps | apply keeps_ite | apply keeps_foldl | apply keeps_mk
    | (extract_lets +onlyGivenNames x; refine keeps_cut (s₀ := s₀) (x := x) ?_ ?_; rotate_left 1;
        clear_value x; intro; rotate_right 1; dsimp -zeta only [x]; try clear x)
    | (extract_lets +onlyGivenNames x; clear_value x)

theorem State.wmCtrlWrite_keeps {s₀ s : State} (h : Keeps s₀ s) (v : Word) :
    Keeps s₀ (s.wmCtrlWrite v) := by
  unfold State.wmCtrlWrite
  with_reducible repeat' first | assumption | apply State.setFeeders_keeps | apply State.setRg_keeps | apply keeps_ite

theorem State.legAckWrite_keeps {s₀ s : State} (h : Keeps s₀ s) (v : Word) :
    Keeps s₀ (s.legAckWrite v) := by
  unfold State.legAckWrite
  with_reducible repeat' first | assumption | apply State.ledgerAdd_keeps | apply keeps_mk

theorem State.supplyTimingWrite_keeps {s₀ s : State} (h : Keeps s₀ s) (v : Word) :
    Keeps s₀ (s.supplyTimingWrite v) := by
  unfold State.supplyTimingWrite
  with_reducible repeat' first | assumption | apply State.fset_keeps

theorem State.probeCfgWrite_keeps {s₀ s : State} (h : Keeps s₀ s) (v : Word) :
    Keeps s₀ (s.probeCfgWrite v) := by
  unfold State.probeCfgWrite
  with_reducible repeat' first | assumption | apply State.fset_keeps

theorem State.pmbusCfgWrite_keeps {s₀ s : State} (h : Keeps s₀ s) (b : Nat) (v : Word) :
    Keeps s₀ (s.pmbusCfgWrite b v) := by
  unfold State.pmbusCfgWrite
  with_reducible repeat' first
    | assumption | apply State.setBus_keeps | apply State.fset_keeps | apply keeps_ite
    | (extract_lets +onlyGivenNames x; refine keeps_cut (s₀ := s₀) (x := x) ?_ ?_; rotate_left 1;
        clear_value x; intro; rotate_right 1; dsimp -zeta only [x]; try clear x)
    | (extract_lets +onlyGivenNames x; clear_value x)

theorem State.setFlume_keeps {s₀ s : State} (h : Keeps s₀ s) (f : Nat) (v : Flume) :
    Keeps s₀ (s.setFlume f v) := keeps_of_eq h rfl rfl rfl rfl rfl

theorem State.flumeStatus_keeps {s₀ s : State} (h : Keeps s₀ s) (f : Nat) :
    Keeps s₀ (s.flumeStatus f) := by
  unfold State.flumeStatus
  with_reducible repeat' first | assumption | apply State.fset_keeps

theorem State.lateralCommitted_keeps {s₀ s : State} (h : Keeps s₀ s) (ws : List Staged) (l : Nat) :
    Keeps s₀ (s.lateralCommitted ws l) := by
  unfold State.lateralCommitted
  with_reducible repeat' first
    | assumption | (intro) | apply State.setFlume_keeps | apply State.flumeStatus_keeps | apply keeps_ite
    | apply keeps_foldl
    | (extract_lets +onlyGivenNames x; refine keeps_cut (s₀ := s₀) (x := x) ?_ ?_; rotate_left 1;
        clear_value x; intro; rotate_right 1; dsimp -zeta only [x]; try clear x)
    | (extract_lets +onlyGivenNames x; clear_value x)

theorem State.setFlow_keeps {s₀ s : State} (h : Keeps s₀ s) (p : Nat) (f : Flow) :
    Keeps s₀ (s.setFlow p f) := by
  unfold State.setFlow
  with_reducible repeat' first | assumption | apply State.setPort_keeps

theorem State.pixelBlock_keeps {s₀ s : State} (h : Keeps s₀ s) (p : Nat) (f : Flow) (b : List Byte) :
    Keeps s₀ (s.pixelBlock p f b).1 := keeps_ite h (State.furSend_keeps h _ _ _ _ _ _)

theorem State.handBlocks_keeps {s₀ s : State} (h : Keeps s₀ s) (p : Nat) (all : Bool) (k : Nat) (f : Flow) :
    Keeps s₀ (s.handBlocks p all k f).1 := by
  induction k generalizing s f with
  | zero => exact h
  | succ k ih =>
    simp only [State.handBlocks]
    exact keeps_ite_fst (ih (State.pixelBlock_keeps h p f _) _) (keeps_ite_fst (State.pixelBlock_keeps h p f _) h)

theorem State.keepFlow_keeps {s₀ s : State} (h : Keeps s₀ s) (p : Nat) (f : Flow) (all : Bool) :
    Keeps s₀ (s.keepFlow p f all) := by
  unfold State.keepFlow
  with_reducible repeat' first
    | assumption | apply State.handBlocks_keeps | apply State.setFlow_keeps | apply keeps_ite

theorem State.flowYield_keeps {s₀ s : State} (h : Keeps s₀ s) (p : Nat) :
    Keeps s₀ (s.flowYield p) := by
  unfold State.flowYield
  with_reducible repeat' first | assumption | apply State.setFlume_keeps

theorem State.flowFault_keeps {s₀ s : State} (h : Keeps s₀ s) (p code : Nat) :
    Keeps s₀ (s.flowFault p code) := by
  unfold State.flowFault
  with_reducible repeat' first
    | assumption | apply State.setFlow_keeps | apply State.flowYield_keeps | apply State.bumpF_keeps
    | apply State.report_keeps
    | (extract_lets +onlyGivenNames x; refine keeps_cut (s₀ := s₀) (x := x) ?_ ?_; rotate_left 1;
        clear_value x; intro; rotate_right 1; dsimp -zeta only [x]; try clear x)
    | (extract_lets +onlyGivenNames x; clear_value x)

theorem State.flowCycle_keeps {s₀ s : State} (h : Keeps s₀ s) (p : Nat) :
    Keeps s₀ (s.flowCycle p) := by
  unfold State.flowCycle
  with_reducible repeat' first | assumption | apply State.setFlume_keeps

theorem State.flowStep_keeps {s₀ s : State} (h : Keeps s₀ s) (p : Nat) (is_ : Word → Bool) (run : State → Flow → State)
    (hr : ∀ t f, Keeps s₀ t → Keeps s₀ (run t f)) : Keeps s₀ (s.flowStep p is_ run) :=
  keeps_ite (hr _ _ (State.flowCycle_keeps h p)) h

theorem State.flowSet_keeps {s₀ s : State} (h : Keeps s₀ s) (p : Nat) (is_ : Word → Bool) (d : Nat) (v : Flow → Word)
    :
    Keeps s₀ (s.flowSet p is_ d v) := by
  unfold State.flowSet
  with_reducible repeat' first | assumption | (intro) | apply State.flowStep_keeps | apply State.setFlow_keeps

theorem State.flow2_keeps {s₀ s : State} (h : Keeps s₀ s) (p code d a b : Nat) (op : Word → Word → Word) :
    Keeps s₀ (s.flow2 p code d a b op) := by
  unfold State.flow2
  with_reducible repeat' first | assumption | (intro) | apply State.flowSet_keeps

theorem State.flowJump_keeps {s₀ s : State} (h : Keeps s₀ s) (p : Nat) (imm : Nat) (f : Flow) :
    Keeps s₀ (s.flowJump p imm f) := by
  unfold State.flowJump
  with_reducible repeat' first
    | assumption | apply State.setFlow_keeps | apply State.flowFault_keeps | apply keeps_ite

theorem State.flTake_keeps {s₀ s : State} (h : Keeps s₀ s) (p d : Nat) :
    Keeps s₀ (s.flTake p d) := by
  unfold State.flTake
  with_reducible repeat' first
    | assumption | (intro) | apply State.flowStep_keeps | apply State.setFlow_keeps | apply keeps_ite

theorem State.flPut_keeps {s₀ s : State} (h : Keeps s₀ s) (p v n : Nat) :
    Keeps s₀ (s.flPut p v n) := by
  unfold State.flPut
  with_reducible repeat' first
    | assumption | apply State.keepFlow_keeps | apply State.flowYield_keeps | apply keeps_ite
    | (extract_lets +onlyGivenNames x; refine keeps_cut (s₀ := s₀) (x := x) ?_ ?_; rotate_left 1;
        clear_value x; intro; rotate_right 1; dsimp -zeta only [x]; try clear x)
    | (extract_lets +onlyGivenNames x; clear_value x) | split

theorem State.flPutv_keeps {s₀ s : State} (h : Keeps s₀ s) (p a b : Nat) :
    Keeps s₀ (s.flPutv p a b) := by
  unfold State.flPutv
  with_reducible repeat' first
    | assumption | (intro) | apply State.flowStep_keeps | apply State.flowFault_keeps | apply State.flPut_keeps
    | apply keeps_ite
    | (extract_lets +onlyGivenNames x; refine keeps_cut (s₀ := s₀) (x := x) ?_ ?_; rotate_left 1;
        clear_value x; intro; rotate_right 1; dsimp -zeta only [x]; try clear x)
    | (extract_lets +onlyGivenNames x; clear_value x)

theorem State.flPutb_keeps {s₀ s : State} (h : Keeps s₀ s) (p a b : Nat) :
    Keeps s₀ (s.flPutb p a b) := by
  unfold State.flPutb
  with_reducible repeat' first
    | assumption | (intro) | apply State.flowStep_keeps | apply State.flowFault_keeps | apply State.flPut_keeps
    | apply keeps_ite
    | (extract_lets +onlyGivenNames x; refine keeps_cut (s₀ := s₀) (x := x) ?_ ?_; rotate_left 1;
        clear_value x; intro; rotate_right 1; dsimp -zeta only [x]; try clear x)
    | (extract_lets +onlyGivenNames x; clear_value x)

theorem State.moveLoop_keeps {s₀ s : State} (h : Keeps s₀ s) (p n k : Nat) (f : Flow) :
    Keeps s₀ (s.moveLoop p n k f).1 := by
  induction k generalizing s f with
  | zero => exact h
  | succ k ih =>
    simp only [State.moveLoop]
    exact keeps_ite_fst h (keeps_ite_fst (keeps_ite_fst (ih (State.handBlocks_keeps h p false 2 _) _) (ih h _)) h)

theorem State.flowCycles_keeps {s₀ s : State} (h : Keeps s₀ s) (p n : Nat) :
    Keeps s₀ (s.flowCycles p n) := by
  unfold State.flowCycles
  with_reducible repeat' first | assumption | (intro) | apply State.setFlume_keeps

theorem State.flMove_keeps {s₀ s : State} (h : Keeps s₀ s) (p d a b : Nat) :
    Keeps s₀ (s.flMove p d a b) := by
  unfold State.flMove
  with_reducible repeat' first
    | assumption | (intro) | apply State.flowStep_keeps | apply State.moveLoop_keeps | apply State.flowCycles_keeps
    | apply State.setFlow_keeps | apply State.flowYield_keeps | apply keeps_ite
    | (extract_lets +onlyGivenNames x; refine keeps_cut (s₀ := s₀) (x := x) ?_ ?_; rotate_left 1;
        clear_value x; intro; rotate_right 1; dsimp -zeta only [x]; try clear x)
    | (extract_lets +onlyGivenNames x; clear_value x) | refine keeps_fst (by assumption) ?_
    | refine keeps_snd (by assumption) ?_ | split

theorem State.flEmit_keeps {s₀ s : State} (h : Keeps s₀ s) (p imm : Nat) :
    Keeps s₀ (s.flEmit p imm) := by
  unfold State.flEmit
  with_reducible repeat' first
    | assumption | (intro) | apply State.flowStep_keeps | apply State.setFlow_keeps | apply State.keepFlow_keeps
    | apply State.flowFault_keeps | split

theorem State.flStk_keeps {s₀ s : State} (h : Keeps s₀ s) (p a imm : Nat) :
    Keeps s₀ (s.flStk p a imm) := by
  unfold State.flStk
  with_reducible repeat' first | assumption | (intro) | apply State.flowStep_keeps | apply State.setFlow_keeps

theorem State.flBranch_keeps {s₀ s : State} (h : Keeps s₀ s) (p : Nat) (is_ : Word → Bool) (imm : Nat) (c : Flow →
    Bool) :
    Keeps s₀ (s.flBranch p is_ imm c) := by
  unfold State.flBranch
  with_reducible repeat' first
    | assumption | (intro) | apply State.flowStep_keeps | apply State.flowJump_keeps | apply State.setFlow_keeps
    | apply keeps_ite

theorem State.flDjnz_keeps {s₀ s : State} (h : Keeps s₀ s) (p d imm : Nat) :
    Keeps s₀ (s.flDjnz p d imm) := by
  unfold State.flDjnz
  with_reducible repeat' first
    | assumption | (intro) | apply State.flowStep_keeps | apply State.flowJump_keeps | apply State.setFlow_keeps
    | apply keeps_ite
    | (extract_lets +onlyGivenNames x; refine keeps_cut (s₀ := s₀) (x := x) ?_ ?_; rotate_left 1;
        clear_value x; intro; rotate_right 1; dsimp -zeta only [x]; try clear x)
    | (extract_lets +onlyGivenNames x; clear_value x)

theorem State.restBlocks_keeps {s₀ s : State} (h : Keeps s₀ s) (p : Nat) (a0 : Nat) (a1 : Flow) :
    Keeps s₀ (s.restBlocks p a0 a1).1 := by
  induction a0 generalizing s a1 with
  | zero => exact h
  | succ n ih => exact keeps_ite_fst (ih (State.pixelBlock_keeps h _ _ _) _) h

theorem State.endFrame_keeps {s₀ s : State} (h : Keeps s₀ s) (p : Nat) (f : Flow) :
    Keeps s₀ (s.endFrame p f) := by
  unfold State.endFrame
  with_reducible repeat' first
    | assumption | apply State.keepFlow_keeps | apply State.restBlocks_keeps | apply State.setFlow_keeps
    | apply keeps_ite
    | (extract_lets +onlyGivenNames x; refine keeps_cut (s₀ := s₀) (x := x) ?_ ?_; rotate_left 1;
        clear_value x; intro; rotate_right 1; dsimp -zeta only [x]; try clear x)
    | (extract_lets +onlyGivenNames x; clear_value x) | refine keeps_fst (by assumption) ?_
    | refine keeps_snd (by assumption) ?_ | split

theorem State.flEnd_keeps {s₀ s : State} (h : Keeps s₀ s) (p : Nat) :
    Keeps s₀ (s.flEnd p) := by
  unfold State.flEnd
  with_reducible repeat' first
    | assumption | (intro) | apply State.flowStep_keeps | apply State.endFrame_keeps | apply State.flowYield_keeps

theorem State.flUndefined_keeps {s₀ s : State} (h : Keeps s₀ s) (p : Nat) (w : Word) :
    Keeps s₀ (s.flUndefined p w) := by
  unfold State.flUndefined
  with_reducible repeat' first | assumption | (intro) | apply State.flowStep_keeps | apply State.flowFault_keeps

theorem State.eventOf_keeps {s₀ s : State} (h : Keeps s₀ s) (blk : Nat) (k : Nat) :
    Keeps s₀ (s.eventOf blk k) := by
  unfold State.eventOf
  with_reducible repeat' first | assumption | apply State.event_keeps

theorem State.spanShort_keeps {s₀ s : State} (h : Keeps s₀ s) (p : Nat) :
    Keeps s₀ (s.spanShort p) := by
  unfold State.spanShort
  with_reducible repeat' first
    | assumption | apply State.fset_keeps | apply State.report_keeps | apply keeps_ite
    | (extract_lets +onlyGivenNames x; refine keeps_cut (s₀ := s₀) (x := x) ?_ ?_; rotate_left 1;
        clear_value x; intro; rotate_right 1; dsimp -zeta only [x]; try clear x)
    | (extract_lets +onlyGivenNames x; clear_value x)

theorem State.armPort_keeps {s₀ s : State} (h : Keeps s₀ s) (p : Nat) :
    Keeps s₀ (s.armPort p) := by
  unfold State.armPort
  with_reducible repeat' first
    | assumption | apply State.fset_keeps | apply State.report_keeps | apply State.setPort_keeps
    | apply State.spanShort_keeps | apply keeps_ite
    | (extract_lets +onlyGivenNames x; refine keeps_cut (s₀ := s₀) (x := x) ?_ ?_; rotate_left 1;
        clear_value x; intro; rotate_right 1; dsimp -zeta only [x]; try clear x)
    | (extract_lets +onlyGivenNames x; clear_value x)

theorem State.armPorts_keeps {s₀ s : State} (h : Keeps s₀ s) :
    Keeps s₀ (s.armPorts) := by
  unfold State.armPorts
  with_reducible repeat' first | assumption | (intro) | apply State.armPort_keeps | apply keeps_foldl

theorem State.starve_keeps {s₀ s : State} (h : Keeps s₀ s) (p : Nat) :
    Keeps s₀ (s.starve p) := by
  unfold State.starve
  with_reducible repeat' first
    | assumption | apply State.report_keeps | apply State.fset_keeps | apply State.bumpF_keeps

theorem State.lineStart_keeps {s₀ s : State} (h : Keeps s₀ s) (p : Nat) :
    Keeps s₀ (s.lineStart p) := by
  unfold State.lineStart
  with_reducible repeat' first
    | assumption | (intro) | apply State.bumpF_keeps | apply State.fset_keeps | apply State.starve_keeps
    | apply State.setPort_keeps | apply State.emit_keeps | apply keeps_ite
    | (extract_lets +onlyGivenNames x; refine keeps_cut (s₀ := s₀) (x := x) ?_ ?_; rotate_left 1;
        clear_value x; intro; rotate_right 1; dsimp -zeta only [x]; try clear x)
    | (extract_lets +onlyGivenNames x; clear_value x) | split

theorem State.dmxBreak_keeps {s₀ s : State} (h : Keeps s₀ s) (p : Nat) :
    Keeps s₀ (s.dmxBreak p) := by
  unfold State.dmxBreak
  with_reducible repeat' first
    | assumption | (intro) | apply State.setPort_keeps | apply State.bumpF_keeps | apply State.fset_keeps
    | apply State.starve_keeps | apply State.emit_keeps | apply keeps_ite
    | (extract_lets +onlyGivenNames x; refine keeps_cut (s₀ := s₀) (x := x) ?_ ?_; rotate_left 1;
        clear_value x; intro; rotate_right 1; dsimp -zeta only [x]; try clear x)
    | (extract_lets +onlyGivenNames x; clear_value x) | split

theorem State.furCommit_keeps {s₀ s : State} (h : Keeps s₀ s) (p : Nat) :
    Keeps s₀ (s.furCommit p) := by
  unfold State.furCommit
  with_reducible repeat' first
    | assumption | (intro) | apply State.fset_keeps | apply State.setFlow_keeps | apply State.starve_keeps
    | apply State.setPort_keeps | apply State.furSend_keeps | apply keeps_ite
    | (extract_lets +onlyGivenNames x; refine keeps_cut (s₀ := s₀) (x := x) ?_ ?_; rotate_left 1;
        clear_value x; intro; rotate_right 1; dsimp -zeta only [x]; try clear x)
    | (extract_lets +onlyGivenNames x; clear_value x) | split

theorem State.commitEvent_keeps {s₀ s : State} (h : Keeps s₀ s) (p : Nat) :
    Keeps s₀ (s.commitEvent p) := by
  unfold State.commitEvent
  with_reducible repeat' first
    | assumption | apply State.dmxBreak_keeps | apply State.furCommit_keeps | apply State.setPort_keeps
    | apply State.emit_keeps | apply keeps_ite
    | (extract_lets +onlyGivenNames x; refine keeps_cut (s₀ := s₀) (x := x) ?_ ?_; rotate_left 1;
        clear_value x; intro; rotate_right 1; dsimp -zeta only [x]; try clear x)
    | (extract_lets +onlyGivenNames x; clear_value x)

theorem State.rdmRequest_keeps {s₀ s : State} (h : Keeps s₀ s) (host : HostView) (f : Flight) :
    Keeps s₀ (s.rdmRequest host f) := by
  unfold State.rdmRequest
  with_reducible repeat' first
    | assumption | apply State.finish_keeps | apply State.setFlight_keeps | apply keeps_ite | split

theorem State.rdmSend_keeps {s₀ s : State} (h : Keeps s₀ s) (p : Nat) (f : Flight) :
    Keeps s₀ (s.rdmSend p f) := by
  unfold State.rdmSend
  with_reducible repeat' first
    | assumption | apply State.emit_keeps | apply State.finish_keeps | apply State.setPort_keeps
    | apply State.setFlight_keeps | apply keeps_ite
    | (extract_lets +onlyGivenNames x; refine keeps_cut (s₀ := s₀) (x := x) ?_ ?_; rotate_left 1;
        clear_value x; intro; rotate_right 1; dsimp -zeta only [x]; try clear x)
    | (extract_lets +onlyGivenNames x; clear_value x)

theorem State.rdmTry_keeps {s₀ s : State} (h : Keeps s₀ s) (p k : Nat) : Keeps s₀ (s.rdmTry p k) := by
  induction k generalizing s with
  | zero => exact h
  | succ k ih =>
    simp only [State.rdmTry]
    split
    · exact h
    · exact keeps_ite (ih (State.rdmSend_keeps h _ _)) h

theorem State.rdmStart_keeps {s₀ s : State} (h : Keeps s₀ s) (p : Nat) :
    Keeps s₀ (s.rdmStart p) := by
  unfold State.rdmStart
  with_reducible repeat' first
    | assumption | apply State.setPort_keeps | apply State.rdmTry_keeps | apply State.bumpF_keeps | apply keeps_ite
    | (extract_lets +onlyGivenNames x; refine keeps_cut (s₀ := s₀) (x := x) ?_ ?_; rotate_left 1;
        clear_value x; intro; rotate_right 1; dsimp -zeta only [x]; try clear x)
    | (extract_lets +onlyGivenNames x; clear_value x)

theorem State.rdmEnd_keeps {s₀ s : State} (h : Keeps s₀ s) (p : Nat) :
    Keeps s₀ (s.rdmEnd p) := by
  unfold State.rdmEnd
  with_reducible repeat' first | assumption | apply State.setPort_keeps

theorem State.rdmResponse_keeps {s₀ s : State} (h : Keeps s₀ s) (p : Nat) (b : List Byte) (framing : Bool) :
    Keeps s₀ (s.rdmResponse p b framing) := by
  unfold State.rdmResponse
  with_reducible repeat' first
    | assumption | (intro) | apply State.rdmEnd_keeps | apply State.spread_keeps | apply State.finish_keeps
    | apply State.rdmTry_keeps | apply keeps_ite
    | (extract_lets +onlyGivenNames x; refine keeps_cut (s₀ := s₀) (x := x) ?_ ?_; rotate_left 1;
        clear_value x; intro; rotate_right 1; dsimp -zeta only [x]; try clear x)
    | (extract_lets +onlyGivenNames x; clear_value x) | refine keeps_some (by assumption) ?_ | split

theorem State.rdmTimeout_keeps {s₀ s : State} (h : Keeps s₀ s) (p : Nat) :
    Keeps s₀ (s.rdmTimeout p) := by
  unfold State.rdmTimeout
  with_reducible repeat' first
    | assumption | (intro) | apply State.rdmEnd_keeps | apply State.finish_keeps | apply State.bumpF_keeps
    | apply State.rdmTry_keeps
    | (extract_lets +onlyGivenNames x; refine keeps_cut (s₀ := s₀) (x := x) ?_ ?_; rotate_left 1;
        clear_value x; intro; rotate_right 1; dsimp -zeta only [x]; try clear x)
    | (extract_lets +onlyGivenNames x; clear_value x) | split

theorem State.dropRdm_keeps {s₀ s : State} (h : Keeps s₀ s) (p : Nat) (status : Nat) :
    Keeps s₀ (s.dropRdm p status) := by
  unfold State.dropRdm
  with_reducible repeat' first | assumption | (intro) | apply State.finish_keeps | apply keeps_foldl

theorem State.setSvc_keeps {s₀ s : State} (h : Keeps s₀ s) (v : Option LatSvc) :
    Keeps s₀ (s.setSvc v) := keeps_of_eq h rfl rfl rfl rfl rfl

theorem State.showTakeover_keeps {s₀ s : State} (h : Keeps s₀ s) (active : Bool) (l : Nat) (moved : Nat) :
    Keeps s₀ (s.showTakeover active l moved) := by
  unfold State.showTakeover
  with_reducible repeat' first | assumption | apply State.fset_keeps

theorem State.latBegin_keeps {s₀ s : State} (h : Keeps s₀ s) (l : Nat) (mode : Nat) (frame : Nat)
    (flight : Option Nat) :
    Keeps s₀ (s.latBegin l mode frame flight) := by
  unfold State.latBegin
  with_reducible repeat' first
    | assumption | (intro) | apply State.setSvc_keeps | apply State.fset_keeps | apply State.dropRdm_keeps
    | apply State.showTakeover_keeps | apply State.setTable_keeps | apply State.setFlume_keeps
    | apply State.eventOf_keeps | apply State.flumeStatus_keeps | apply keeps_ite | apply keeps_foldl

theorem State.latEnd_keeps {s₀ s : State} (h : Keeps s₀ s) (frame : Nat) (flight : Option Nat) :
    Keeps s₀ (s.latEnd frame flight) := by
  unfold State.latEnd
  with_reducible repeat' first
    | assumption | (intro) | apply State.finish_keeps | apply State.fset_keeps | apply State.eventOf_keeps
    | apply State.setFlume_keeps | apply State.setSvc_keeps | apply State.showTakeover_keeps | apply keeps_ite
    | (extract_lets +onlyGivenNames x; refine keeps_cut (s₀ := s₀) (x := x) ?_ ?_; rotate_left 1;
        clear_value x; intro; rotate_right 1; dsimp -zeta only [x]; try clear x)
    | (extract_lets +onlyGivenNames x; clear_value x) | split

theorem State.svcRest_keeps {s₀ s : State} (h : Keeps s₀ s) (p : Nat) :
    Keeps s₀ (s.svcRest p) := by
  unfold State.svcRest
  with_reducible repeat' first
    | assumption | (intro) | apply State.setSvc_keeps | apply State.fset_keeps | apply State.showTakeover_keeps
    | apply State.flumeStatus_keeps | apply State.bumpF_keeps | apply State.finish_keeps | apply State.setFlume_keeps
    | apply keeps_ite
    | (extract_lets +onlyGivenNames x; refine keeps_cut (s₀ := s₀) (x := x) ?_ ?_; rotate_left 1;
        clear_value x; intro; rotate_right 1; dsimp -zeta only [x]; try clear x)
    | (extract_lets +onlyGivenNames x; clear_value x) | split

theorem State.takeAsk_keeps {s₀ s : State} (h : Keeps s₀ s) (frame : Nat) :
    Keeps s₀ (s.takeAsk frame) := by
  unfold State.takeAsk
  with_reducible repeat' first | assumption | apply State.latBegin_keeps | apply keeps_ite | split | apply keeps_mk

theorem State.enumStart_keeps {s₀ s : State} (h : Keeps s₀ s) (p : Nat) :
    Keeps s₀ (s.enumStart p) := by
  unfold State.enumStart
  with_reducible repeat' first | assumption | apply State.fset_keeps | apply State.setPort_keeps

theorem State.takeEntry_keeps {s₀ s : State} (h : Keeps s₀ s) (p : Nat) :
    Keeps s₀ (s.takeEntry p) := by
  unfold State.takeEntry
  with_reducible repeat' first
    | assumption | (intro) | apply State.setPort_keeps | apply State.fset_keeps | apply State.dropRdm_keeps
    | apply State.enumStart_keeps | apply State.flumeStatus_keeps | apply keeps_ite
    | (extract_lets +onlyGivenNames x; refine keeps_cut (s₀ := s₀) (x := x) ?_ ?_; rotate_left 1;
        clear_value x; intro; rotate_right 1; dsimp -zeta only [x]; try clear x)
    | (extract_lets +onlyGivenNames x; clear_value x) | apply keeps_mk

theorem State.noteRest_keeps {s₀ s : State} (h : Keeps s₀ s) (p : Nat) :
    Keeps s₀ (s.noteRest p) := by
  unfold State.noteRest
  with_reducible repeat' first | assumption | apply keeps_ite | apply keeps_mk

theorem State.restPoint_keeps {s₀ s : State} (h : Keeps s₀ s) (p : Nat) :
    Keeps s₀ (s.restPoint p) := by
  unfold State.restPoint
  with_reducible repeat' first
    | assumption | apply State.noteRest_keeps | apply State.takeEntry_keeps | apply State.svcRest_keeps
    | apply keeps_ite
    | (extract_lets +onlyGivenNames x; refine keeps_cut (s₀ := s₀) (x := x) ?_ ?_; rotate_left 1;
        clear_value x; intro; rotate_right 1; dsimp -zeta only [x]; try clear x)
    | (extract_lets +onlyGivenNames x; clear_value x)

theorem State.flumeFault_keeps {s₀ s : State} (h : Keeps s₀ s) (f : Nat) (ecc : Bool) (ports : BitVec 32) :
    Keeps s₀ (s.flumeFault f ecc ports) := by
  unfold State.flumeFault
  with_reducible repeat' first
    | assumption | (intro) | apply State.flowFault_keeps | apply State.bumpF_keeps | apply State.report_keeps
    | apply keeps_ite | apply keeps_foldl | apply keeps_mk
    | (extract_lets +onlyGivenNames x; refine keeps_cut (s₀ := s₀) (x := x) ?_ ?_; rotate_left 1;
        clear_value x; intro; rotate_right 1; dsimp -zeta only [x]; try clear x)
    | (extract_lets +onlyGivenNames x; clear_value x) | split

theorem State.dropSupplies_keeps {s₀ s : State} (h : Keeps s₀ s) :
    Keeps s₀ (s.dropSupplies) := by
  unfold State.dropSupplies
  with_reducible repeat' first | assumption | (intro) | apply keeps_mk

theorem State.flYield_keeps {s₀ s : State} (h : Keeps s₀ s) (p : Nat) :
    Keeps s₀ (s.flYield p) := by
  unfold State.flYield
  with_reducible repeat' first
    | assumption | (intro) | apply State.flowStep_keeps | apply State.setFlow_keeps | apply State.flowYield_keeps

end Sys2Proof.Machine
end

