-- ==== Sys2Proof/Laws/Keep4.lean ====
section
/-! SUPPORT. `Keeps` for the functions of Furrow, Sacn, Media, Ptp, Raster. -/

namespace Sys2Proof.Machine

open Sys2Proof

theorem State.setNode_keeps {s₀ s : State} (h : Keeps s₀ s) (p n : Nat) (v : Node) :
    Keeps s₀ (s.setNode p n v) := by
  unfold State.setNode
  apply State.resPut_keeps
  exact keeps_of_eq h rfl rfl rfl rfl rfl

theorem State.supplyAgain_keeps {s₀ s : State} (h : Keeps s₀ s) (p : Nat) :
    Keeps s₀ (s.supplyAgain p) := by
  unfold State.supplyAgain
  with_reducible repeat' first
    | assumption | (intro) | apply State.furSupply_keeps | apply keeps_ite | apply keeps_foldl | apply keeps_mk

theorem State.furOpen_keeps {s₀ s : State} (h : Keeps s₀ s) (p : Nat) :
    Keeps s₀ (s.furOpen p) := by
  unfold State.furOpen
  with_reducible repeat' first
    | assumption | apply State.supplyAgain_keeps | apply State.furSend_keeps
    | (extract_lets +onlyGivenNames x; refine keeps_cut (s₀ := s₀) (x := x) ?_ ?_; rotate_left 1;
        clear_value x; intro; rotate_right 1; dsimp -zeta only [x]; try clear x)
    | (extract_lets +onlyGivenNames x; clear_value x)

theorem State.readoutPort_keeps {s₀ s : State} (h : Keeps s₀ s) (p : Nat) :
    Keeps s₀ (s.readoutPort p) := by
  unfold State.readoutPort
  with_reducible repeat' first
    | assumption | (intro) | apply State.setPort_keeps | apply State.furOpen_keeps | apply keeps_ite
    | (extract_lets +onlyGivenNames x; refine keeps_cut (s₀ := s₀) (x := x) ?_ ?_; rotate_left 1;
        clear_value x; intro; rotate_right 1; dsimp -zeta only [x]; try clear x)
    | (extract_lets +onlyGivenNames x; clear_value x) | split

theorem State.countUnsent_keeps {s₀ s : State} (h : Keeps s₀ s) :
    Keeps s₀ (s.countUnsent) := by
  unfold State.countUnsent
  with_reducible repeat' first
    | assumption | (intro) | apply State.fset_keeps | apply State.bumpF_keeps | apply keeps_foldl

theorem State.readoutStart_keeps {s₀ s : State} (h : Keeps s₀ s) :
    Keeps s₀ (s.readoutStart) := by
  unfold State.readoutStart
  with_reducible repeat' first
    | assumption | (intro) | apply State.readoutPort_keeps | apply State.countUnsent_keeps | apply State.setSvc_keeps
    | apply keeps_foldl
    | (extract_lets +onlyGivenNames x; refine keeps_cut (s₀ := s₀) (x := x) ?_ ?_; rotate_left 1;
        clear_value x; intro; rotate_right 1; dsimp -zeta only [x]; try clear x)
    | (extract_lets +onlyGivenNames x; clear_value x) | split

theorem State.sendConfig_keeps {s₀ s : State} (h : Keeps s₀ s) (p n : Nat) :
    Keeps s₀ (s.sendConfig p n) := by
  unfold State.sendConfig
  with_reducible repeat' first
    | assumption | apply State.setPort_keeps | apply State.setNode_keeps | apply State.furSend_keeps
    | (extract_lets +onlyGivenNames x; refine keeps_cut (s₀ := s₀) (x := x) ?_ ?_; rotate_left 1;
        clear_value x; intro; rotate_right 1; dsimp -zeta only [x]; try clear x)
    | (extract_lets +onlyGivenNames x; clear_value x)

theorem State.sendConfigs_keeps {s₀ s : State} (h : Keeps s₀ s) (p fit : Nat) :
    Keeps s₀ (s.sendConfigs p fit) := by
  unfold State.sendConfigs
  with_reducible repeat' first | assumption | (intro) | apply State.sendConfig_keeps | apply keeps_foldl

theorem State.supplyEarly_keeps {s₀ s : State} (h : Keeps s₀ s) (p : Nat) :
    Keeps s₀ (s.supplyEarly p) := by
  unfold State.supplyEarly
  with_reducible repeat' first
    | assumption | (intro) | apply State.sendFall_keeps | apply State.sendRise_keeps | apply keeps_ite
    | apply keeps_foldl
    | (extract_lets +onlyGivenNames x; refine keeps_cut (s₀ := s₀) (x := x) ?_ ?_; rotate_left 1;
        clear_value x; intro; rotate_right 1; dsimp -zeta only [x]; try clear x)
    | (extract_lets +onlyGivenNames x; clear_value x)

theorem State.firingProbe_keeps {s₀ s : State} (h : Keeps s₀ s) (p configs : Nat) :
    Keeps s₀ (s.firingProbe p configs) := by
  unfold State.firingProbe
  with_reducible repeat' first
    | assumption | (intro) | apply State.furSend_keeps | apply State.sendConfigs_keeps | apply State.supplyEarly_keeps
    | apply State.setPort_keeps | apply keeps_ite | apply keeps_foldl
    | (extract_lets +onlyGivenNames x; refine keeps_cut (s₀ := s₀) (x := x) ?_ ?_; rotate_left 1;
        clear_value x; intro; rotate_right 1; dsimp -zeta only [x]; try clear x)
    | (extract_lets +onlyGivenNames x; clear_value x)

theorem State.turnSet_keeps {s₀ s : State} (h : Keeps s₀ s) (p : Nat) :
    Keeps s₀ (s.turnSet p) := by
  unfold State.turnSet
  with_reducible repeat' first
    | assumption | apply State.setPort_keeps | apply State.sendSymbols_keeps | apply keeps_ite
    | (extract_lets +onlyGivenNames x; refine keeps_cut (s₀ := s₀) (x := x) ?_ ?_; rotate_left 1;
        clear_value x; intro; rotate_right 1; dsimp -zeta only [x]; try clear x)
    | (extract_lets +onlyGivenNames x; clear_value x)

theorem State.furPong_keeps {s₀ s : State} (h : Keeps s₀ s) (p : Nat) (r0 : Nat) :
    Keeps s₀ (s.furPong p r0) := by
  unfold State.furPong
  with_reducible repeat' first | assumption | apply State.setPort_keeps | apply keeps_ite

theorem State.recordMembers_keeps {s₀ s : State} (h : Keeps s₀ s) (p n f : Nat) (probed : List Nat) (b : List Byte) :
    Keeps s₀ (s.recordMembers p n f probed b) := by
  unfold State.recordMembers
  with_reducible repeat' first
    | assumption | (intro) | apply State.setMember_keeps | apply keeps_ite | apply keeps_foldl
    | (extract_lets +onlyGivenNames x; refine keeps_cut (s₀ := s₀) (x := x) ?_ ?_; rotate_left 1;
        clear_value x; intro; rotate_right 1; dsimp -zeta only [x]; try clear x)
    | (extract_lets +onlyGivenNames x; clear_value x) | split

theorem State.supplyAcked_keeps {s₀ s : State} (h : Keeps s₀ s) (p : Nat) (n : Nat) (seq : Nat) :
    Keeps s₀ (s.supplyAcked p n seq) := by
  unfold State.supplyAcked
  with_reducible repeat' first | assumption | apply State.zoneAck_keeps | split | apply keeps_mk

theorem State.takeTelemetry_keeps {s₀ s : State} (h : Keeps s₀ s) (p n : Nat) (b : List Byte) :
    Keeps s₀ (s.takeTelemetry p n b) := by
  unfold State.takeTelemetry
  with_reducible repeat' first
    | assumption | apply State.bumpN_keeps | apply State.bumpF_keeps | apply State.setNode_keeps
    | apply State.setPort_keeps | apply State.supplyAcked_keeps | apply keeps_ite
    | (extract_lets +onlyGivenNames x; refine keeps_cut (s₀ := s₀) (x := x) ?_ ?_; rotate_left 1;
        clear_value x; intro; rotate_right 1; dsimp -zeta only [x]; try clear x)
    | (extract_lets +onlyGivenNames x; clear_value x)

theorem State.takeIdent_keeps {s₀ s : State} (h : Keeps s₀ s) (p n : Nat) (b : List Byte) :
    Keeps s₀ (s.takeIdent p n b) := by
  unfold State.takeIdent
  with_reducible repeat' first
    | assumption | apply State.setNode_keeps | apply State.setPort_keeps | apply keeps_ite
    | (extract_lets +onlyGivenNames x; refine keeps_cut (s₀ := s₀) (x := x) ?_ ?_; rotate_left 1;
        clear_value x; intro; rotate_right 1; dsimp -zeta only [x]; try clear x)
    | (extract_lets +onlyGivenNames x; clear_value x)

theorem State.nodeApplies_keeps {s₀ s : State} (h : Keeps s₀ s) (p n f : Nat) (b : List Byte) :
    Keeps s₀ (s.nodeApplies p n f b) := by
  unfold State.nodeApplies
  with_reducible repeat' first
    | assumption | (intro) | apply State.setNode_keeps | apply keeps_ite
    | (extract_lets +onlyGivenNames x; refine keeps_cut (s₀ := s₀) (x := x) ?_ ?_; rotate_left 1;
        clear_value x; intro; rotate_right 1; dsimp -zeta only [x]; try clear x)
    | (extract_lets +onlyGivenNames x; clear_value x) | split

theorem State.setMute_keeps {s₀ s : State} (h : Keeps s₀ s) (p n k : Nat) :
    Keeps s₀ (s.setMute p n k) := by
  unfold State.setMute
  with_reducible repeat' first | assumption | apply keeps_mk

theorem State.takeRecord_keeps {s₀ s : State} (h : Keeps s₀ s) (p f : Nat) (probed : List Nat) (b : List Byte) :
    Keeps s₀ (s.takeRecord p f probed b) := by
  unfold State.takeRecord
  with_reducible repeat' first
    | assumption | apply State.takeIdent_keeps | apply State.takeTelemetry_keeps | apply State.setNode_keeps
    | apply State.setMute_keeps | apply State.setPort_keeps | apply State.nodeApplies_keeps
    | apply State.recordMembers_keeps | apply keeps_ite
    | (extract_lets +onlyGivenNames x; refine keeps_cut (s₀ := s₀) (x := x) ?_ ?_; rotate_left 1;
        clear_value x; intro; rotate_right 1; dsimp -zeta only [x]; try clear x)
    | (extract_lets +onlyGivenNames x; clear_value x)

theorem State.furRecord_keeps {s₀ s : State} (h : Keeps s₀ s) (p : Nat) (b : List Byte) (crcGood : Bool) :
    Keeps s₀ (s.furRecord p b crcGood) := by
  unfold State.furRecord
  with_reducible repeat' first
    | assumption | apply State.takeRecord_keeps | apply State.ledgerAdd_keeps | apply State.bumpF_keeps
    | apply keeps_ite
    | (extract_lets +onlyGivenNames x; refine keeps_cut (s₀ := s₀) (x := x) ?_ ?_; rotate_left 1;
        clear_value x; intro; rotate_right 1; dsimp -zeta only [x]; try clear x)
    | (extract_lets +onlyGivenNames x; clear_value x)

theorem State.chainDelays_keeps {s₀ s : State} (h : Keeps s₀ s) (p n k : Nat) (d : Int) :
    Keeps s₀ (s.chainDelays p n k d) := by
  induction n generalizing s k d with
  | zero => exact h
  | succ n ih =>
    simp only [State.chainDelays]
    exact keeps_ite (ih (keeps_ite h (State.setNode_keeps h _ _ _)) _ _) h

theorem State.furSpan_keeps {s₀ s : State} (h : Keeps s₀ s) (p : Nat) :
    Keeps s₀ (s.furSpan p) := by
  unfold State.furSpan
  with_reducible repeat' first
    | assumption | (intro) | apply State.chainDelays_keeps | apply State.fset_keeps | apply State.setPort_keeps
    | apply State.spanShort_keeps
    | (extract_lets +onlyGivenNames x; refine keeps_cut (s₀ := s₀) (x := x) ?_ ?_; rotate_left 1;
        clear_value x; intro; rotate_right 1; dsimp -zeta only [x]; try clear x)
    | (extract_lets +onlyGivenNames x; clear_value x)

theorem State.enumDone_keeps {s₀ s : State} (h : Keeps s₀ s) (p : Nat) :
    Keeps s₀ (s.enumDone p) := by
  unfold State.enumDone
  with_reducible repeat' first
    | assumption | (intro) | apply State.setNode_keeps | apply State.setPort_keeps | apply State.fset_keeps
    | apply keeps_ite | apply keeps_foldl
    | (extract_lets +onlyGivenNames x; refine keeps_cut (s₀ := s₀) (x := x) ?_ ?_; rotate_left 1;
        clear_value x; intro; rotate_right 1; dsimp -zeta only [x]; try clear x)
    | (extract_lets +onlyGivenNames x; clear_value x)

theorem State.enumStep_keeps {s₀ s : State} (h : Keeps s₀ s) (p : Nat) :
    Keeps s₀ (s.enumStep p) := by
  unfold State.enumStep
  with_reducible repeat' first
    | assumption | (intro) | apply State.enumDone_keeps | apply State.setPort_keeps | apply keeps_ite
    | apply keeps_foldl | split

theorem State.supplyWindow_keeps {s₀ s : State} (h : Keeps s₀ s) (p : Nat) :
    Keeps s₀ (s.supplyWindow p) := by
  unfold State.supplyWindow
  with_reducible repeat' first
    | assumption | (intro) | apply State.zoneFail_keeps | apply keeps_ite | apply keeps_foldl | apply keeps_mk

theorem State.windowNodes_keeps {s₀ s : State} (h : Keeps s₀ s) (p : Nat) :
    Keeps s₀ (s.windowNodes p) := by
  unfold State.windowNodes
  with_reducible repeat' first
    | assumption | (intro) | apply State.setNode_keeps | apply State.bumpF_keeps | apply keeps_ite | apply keeps_foldl

theorem State.windowMute_keeps {s₀ s : State} (h : Keeps s₀ s) (p : Nat) :
    Keeps s₀ (s.windowMute p) := by
  unfold State.windowMute
  with_reducible repeat' first
    | assumption | (intro) | apply State.setMute_keeps | apply State.ledgerAdd_keeps | apply keeps_ite
    | apply keeps_foldl
    | (extract_lets +onlyGivenNames x; refine keeps_cut (s₀ := s₀) (x := x) ?_ ?_; rotate_left 1;
        clear_value x; intro; rotate_right 1; dsimp -zeta only [x]; try clear x)
    | (extract_lets +onlyGivenNames x; clear_value x)

theorem State.windowEnd_keeps {s₀ s : State} (h : Keeps s₀ s) (p : Nat) :
    Keeps s₀ (s.windowEnd p) := by
  unfold State.windowEnd
  with_reducible repeat' first
    | assumption | apply State.fset_keeps | apply State.bumpN_keeps | apply State.windowNodes_keeps
    | apply State.windowMute_keeps | apply State.furSpan_keeps | apply State.supplyWindow_keeps
    | apply State.enumStep_keeps | apply State.setPort_keeps | apply keeps_ite
    | (extract_lets +onlyGivenNames x; refine keeps_cut (s₀ := s₀) (x := x) ?_ ?_; rotate_left 1;
        clear_value x; intro; rotate_right 1; dsimp -zeta only [x]; try clear x)
    | (extract_lets +onlyGivenNames x; clear_value x)

theorem State.nodeLost_keeps {s₀ s : State} (h : Keeps s₀ s) (p n : Nat) :
    Keeps s₀ (s.nodeLost p n) := by
  unfold State.nodeLost
  with_reducible repeat' first | assumption | apply State.setNode_keeps

theorem State.nodeSilent_keeps {s₀ s : State} (h : Keeps s₀ s) (p n : Nat) :
    Keeps s₀ (s.nodeSilent p n) := by
  unfold State.nodeSilent
  with_reducible repeat' first
    | assumption | apply State.nodeLost_keeps | apply State.report_keeps | apply State.ledgerAdd_keeps
    | apply keeps_ite

theorem State.nodesCommitted_keeps {s₀ s : State} (h : Keeps s₀ s) (old : Tabs) (l : Nat) :
    Keeps s₀ (s.nodesCommitted old l) := by
  unfold State.nodesCommitted
  with_reducible repeat' first
    | assumption | (intro) | apply State.setNode_keeps | apply keeps_ite | apply keeps_foldl

theorem State.furCtrlWrite_keeps {s₀ s : State} (h : Keeps s₀ s) (v : Word) :
    Keeps s₀ (s.furCtrlWrite v) := by
  unfold State.furCtrlWrite
  with_reducible repeat' first | assumption | apply State.fset_keeps | apply State.enumStart_keeps | apply keeps_ite

theorem State.nodeBaseWrite_keeps {s₀ s : State} (h : Keeps s₀ s) (req : Requester) (v : Word) :
    Keeps s₀ (s.nodeBaseWrite req v) := by
  unfold State.nodeBaseWrite
  with_reducible repeat' first
    | assumption | (intro) | apply State.accessErr_keeps | apply State.fset_keeps | apply keeps_ite

theorem State.bumpSeq_keeps {s₀ s : State} (h : Keeps s₀ s) (u : Nat) (m : Nat) :
    Keeps s₀ (s.bumpSeq u m) := keeps_of_eq h rfl rfl rfl rfl rfl

theorem State.sacnSend_keeps {s₀ s : State} (h : Keeps s₀ s) (m u w0 w1 : Nat) (last : Bool) (due : Int) :
    Keeps s₀ (s.sacnSend m u w0 w1 last due) := by
  unfold State.sacnSend
  with_reducible repeat' first
    | assumption | apply State.bumpSeq_keeps | apply State.sendItem_keeps | apply State.tryLaunch_keeps
    | apply keeps_ite
    | (extract_lets +onlyGivenNames x; refine keeps_cut (s₀ := s₀) (x := x) ?_ ?_; rotate_left 1;
        clear_value x; intro; rotate_right 1; dsimp -zeta only [x]; try clear x)
    | (extract_lets +onlyGivenNames x; clear_value x)

theorem State.sacnData_keeps {s₀ s : State} (h : Keeps s₀ s) (m : Nat) :
    Keeps s₀ (s.sacnData m) := by
  unfold State.sacnData
  with_reducible repeat' first
    | assumption | (intro) | apply State.setMac_keeps | apply State.sacnSend_keeps | apply keeps_ite
    | (extract_lets +onlyGivenNames x; refine keeps_cut (s₀ := s₀) (x := x) ?_ ?_; rotate_left 1;
        clear_value x; intro; rotate_right 1; dsimp -zeta only [x]; try clear x)
    | (extract_lets +onlyGivenNames x; clear_value x) | split

theorem State.sacnFrame_keeps {s₀ s : State} (h : Keeps s₀ s) :
    Keeps s₀ (s.sacnFrame) := by
  unfold State.sacnFrame
  with_reducible repeat' first
    | assumption | (intro) | apply State.setMac_keeps | apply keeps_foldl
    | (extract_lets +onlyGivenNames x; refine keeps_cut (s₀ := s₀) (x := x) ?_ ?_; rotate_left 1;
        clear_value x; intro; rotate_right 1; dsimp -zeta only [x]; try clear x)
    | (extract_lets +onlyGivenNames x; clear_value x) | apply keeps_mk

theorem State.sacnSync_keeps {s₀ s : State} (h : Keeps s₀ s) (m : Nat) :
    Keeps s₀ (s.sacnSync m) := by
  unfold State.sacnSync
  with_reducible repeat' first
    | assumption | apply State.setMac_keeps | apply State.sendItem_keeps | apply State.stamp_keeps
    | apply State.tryLaunch_keeps | apply keeps_ite
    | (extract_lets +onlyGivenNames x; refine keeps_cut (s₀ := s₀) (x := x) ?_ ?_; rotate_left 1;
        clear_value x; intro; rotate_right 1; dsimp -zeta only [x]; try clear x)
    | (extract_lets +onlyGivenNames x; clear_value x)

theorem State.sacnDiscover_keeps {s₀ s : State} (h : Keeps s₀ s) (m : Nat) :
    Keeps s₀ (s.sacnDiscover m) := by
  unfold State.sacnDiscover
  with_reducible repeat' first
    | assumption | (intro) | apply State.sendItem_keeps | apply keeps_ite | apply keeps_foldl
    | (extract_lets +onlyGivenNames x; refine keeps_cut (s₀ := s₀) (x := x) ?_ ?_; rotate_left 1;
        clear_value x; intro; rotate_right 1; dsimp -zeta only [x]; try clear x)
    | (extract_lets +onlyGivenNames x; clear_value x)

theorem State.setSrc_keeps {s₀ s : State} (h : Keeps s₀ s) (r : Nat) (k : Nat) (v : SacnSrc) :
    Keeps s₀ (s.setSrc r k v) := by
  unfold State.setSrc
  with_reducible repeat' first | assumption | apply State.fset_keeps | apply keeps_mk

theorem State.dropSrc_keeps {s₀ s : State} (h : Keeps s₀ s) (r : Nat) (k : Nat) :
    Keeps s₀ (s.dropSrc r k) := by
  unfold State.dropSrc
  with_reducible repeat' first | assumption | apply State.setSrc_keeps

theorem State.entryTakes_keeps {s₀ s : State} (h : Keeps s₀ s) (r : Nat) (d : SacnData) : Keeps s₀ (s.entryTakes r d) := by
  have hs : ∀ k a b, Keeps s₀ (if d.last then s.dropSrc r k else if d.sync = 0 then s.setSrc r k a else s.setSrc r k b) :=
    fun k _ _ => keeps_ite (State.dropSrc_keeps h _ _) (keeps_ite (State.setSrc_keeps h _ _ _) (State.setSrc_keeps h _ _ _))
  unfold State.entryTakes
  dsimp only
  split
  · exact keeps_ite (State.bumpF_keeps (State.setSrc_keeps h _ _ _) _ _ _) (hs _ _ _)
  · refine keeps_ite h ?_
    split
    · exact State.bumpF_keeps h _ _ _
    · exact keeps_of_eq (hs _ _ _) rfl rfl rfl rfl rfl

theorem State.sacnPacket_keeps {s₀ s : State} (h : Keeps s₀ s) (m : Nat) (d : SacnData) :
    Keeps s₀ (s.sacnPacket m d) := by
  unfold State.sacnPacket
  with_reducible repeat' first
    | assumption | (intro) | apply State.bumpF_keeps | apply State.entryTakes_keeps | apply keeps_ite
    | apply keeps_foldl

theorem State.sacnReceive_keeps {s₀ s : State} (h : Keeps s₀ s) (m : Nat) : Keeps s₀ (s.sacnReceive m) := by
  unfold State.sacnReceive
  split
  · exact h
  · next e =>
    have h1 := State.weirs_keeps (keeps_map e (State.rxPop_keeps h m 4)) m
    split
    · exact h
    · split
      · exact State.sacnPacket_keeps h1 _ _
      · exact h1

theorem State.applyHeld_keeps {s₀ s : State} (h : Keeps s₀ s) (addr : Nat) :
    Keeps s₀ (s.applyHeld addr) := by
  unfold State.applyHeld
  with_reducible repeat' first | assumption | (intro) | apply State.setSrc_keeps | apply keeps_ite | apply keeps_foldl

theorem State.sacnSyncReceive_keeps {s₀ s : State} (h : Keeps s₀ s) (m : Nat) : Keeps s₀ (s.sacnSyncReceive m) := by
  unfold State.sacnSyncReceive
  split
  · exact h
  · next e =>
    have h1 := State.weirs_keeps (keeps_map e (State.rxPop_keeps h m 4)) m
    split
    · exact keeps_ite h1 (State.applyHeld_keeps h1 _)
    · exact h

theorem State.sacnSyncTimeout_keeps {s₀ s : State} (h : Keeps s₀ s) (r : Nat) (k : Nat) :
    Keeps s₀ (s.sacnSyncTimeout r k) := by
  unfold State.sacnSyncTimeout
  with_reducible repeat' first | assumption | apply State.setSrc_keeps | apply keeps_ite

theorem State.sacnSourceTimeout_keeps {s₀ s : State} (h : Keeps s₀ s) (r : Nat) (k : Nat) :
    Keeps s₀ (s.sacnSourceTimeout r k) := by
  unfold State.sacnSourceTimeout
  with_reducible repeat' first | assumption | apply State.bumpF_keeps | apply State.dropSrc_keeps | apply keeps_ite

theorem State.inputRelease_keeps {s₀ s : State} (h : Keeps s₀ s) (slot : Nat) (p : Nat) (cut : Nat) :
    Keeps s₀ (s.inputRelease slot p cut) := by
  unfold State.inputRelease
  with_reducible repeat' first | assumption | apply State.releasePos_keeps | apply keeps_ite

theorem State.applyYield_keeps {s₀ s : State} (h : Keeps s₀ s) (target : Nat) (p : Nat) (cut : Nat) (y : Yield) :
    Keeps s₀ (s.applyYield target p cut y) := by
  unfold State.applyYield
  with_reducible repeat' first
    | assumption | (intro) | apply State.inputRelease_keeps | apply State.writeValue_keeps | apply keeps_ite
    | apply keeps_foldl | split

theorem State.sacnEntryCut_keeps {s₀ s : State} (h : Keeps s₀ s) (cut : Nat) (r : Nat) (y : Yield) :
    Keeps s₀ (s.sacnEntryCut cut r y) := by
  unfold State.sacnEntryCut
  with_reducible repeat' first | assumption | apply State.ledgerAdd_keeps | apply State.applyYield_keeps

theorem State.sacnCut_keeps {s₀ s : State} (h : Keeps s₀ s) (cut : Nat) :
    Keeps s₀ (s.sacnCut cut) := by
  unfold State.sacnCut
  with_reducible repeat' first | assumption | (intro) | apply State.sacnEntryCut_keeps | apply keeps_foldl

theorem State.netCommitted_keeps {s₀ s : State} (h : Keeps s₀ s) (old : Tabs) :
    Keeps s₀ (s.netCommitted old) := by
  unfold State.netCommitted
  with_reducible repeat' first
    | assumption | (intro) | apply State.dropSrc_keeps | apply State.fset_keeps | apply keeps_foldl | apply keeps_mk

theorem State.showVid_keeps {s₀ s : State} (h : Keeps s₀ s) (k : Nat) :
    Keeps s₀ (s.showVid k) := by
  unfold State.showVid
  with_reducible repeat' first | assumption | apply State.fset_keeps

theorem State.vidFrame_keeps {s₀ s : State} (h : Keeps s₀ s) (k media : Nat) :
    Keeps s₀ (s.vidFrame k media) := by
  unfold State.vidFrame
  with_reducible repeat' first
    | assumption | (intro) | apply State.setVid_keeps | apply State.bumpF_keeps | apply State.showVid_keeps
    | apply keeps_ite
    | (extract_lets +onlyGivenNames x; refine keeps_cut (s₀ := s₀) (x := x) ?_ ?_; rotate_left 1;
        clear_value x; intro; rotate_right 1; dsimp -zeta only [x]; try clear x)
    | (extract_lets +onlyGivenNames x; clear_value x) | split

theorem State.vidSegment_keeps {s₀ s : State} (h : Keeps s₀ s) (k b : Nat) (hx : Nat × Nat × Nat × Bool) (data : List
    Byte) :
    Keeps s₀ (s.vidSegment k b hx data) := by
  unfold State.vidSegment
  with_reducible repeat' first
    | assumption | apply State.setReservoir_keeps | apply State.setVid_keeps | apply keeps_ite | exact memWrite_wf _ _
    | (extract_lets +onlyGivenNames x; refine keeps_cut (s₀ := s₀) (x := x) ?_ ?_; rotate_left 1;
        clear_value x; intro; rotate_right 1; dsimp -zeta only [x]; try clear x)
    | (extract_lets +onlyGivenNames x; clear_value x)

theorem State.vidSegments_keeps {s₀ s : State} (h : Keeps s₀ s) (k b : Nat) (l : List (Nat × Nat × Nat × Bool))
    (d : List Byte) : Keeps s₀ (s.vidSegments k b l d) := by
  induction l generalizing s d with
  | nil => exact h
  | cons e t ih => exact ih (State.vidSegment_keeps h _ _ _ _) _

theorem State.vidEnd_keeps {s₀ s : State} (h : Keeps s₀ s) (k : Nat) (b : Nat) (marker : Bool) :
    Keeps s₀ (s.vidEnd k b marker) := by
  unfold State.vidEnd
  with_reducible repeat' first | assumption | apply State.showVid_keeps | apply State.setVid_keeps

theorem State.addCount_keeps {s₀ s : State} (h : Keeps s₀ s) (off : Nat) (n : Nat) :
    Keeps s₀ (s.addCount off n) := by
  unfold State.addCount
  with_reducible repeat' first | assumption | apply State.setRg_keeps | apply State.report_keeps | apply keeps_ite

theorem State.vidSeq_keeps {s₀ s : State} (h : Keeps s₀ s) (k seq media : Nat) :
    Keeps s₀ (s.vidSeq k seq media) := by
  unfold State.vidSeq
  with_reducible repeat' first
    | assumption | (intro) | apply State.setVid_keeps | apply State.addCount_keeps | apply keeps_ite
    | (extract_lets +onlyGivenNames x; refine keeps_cut (s₀ := s₀) (x := x) ?_ ?_; rotate_left 1;
        clear_value x; intro; rotate_right 1; dsimp -zeta only [x]; try clear x)
    | (extract_lets +onlyGivenNames x; clear_value x) | split

theorem State.vidPacket_keeps {s₀ s : State} (h : Keeps s₀ s) (k : Nat) (ptp : Int) (b : List Byte) :
    Keeps s₀ (s.vidPacket k ptp b) := by
  unfold State.vidPacket
  with_reducible repeat' first
    | assumption | (intro) | apply State.setVid_keeps | apply State.fset_keeps | apply State.stamp_keeps
    | apply State.vidSeq_keeps | apply State.bumpF_keeps | apply State.vidFrame_keeps | apply State.vidSegments_keeps
    | apply State.vidEnd_keeps | apply keeps_ite
    | (extract_lets +onlyGivenNames x; refine keeps_cut (s₀ := s₀) (x := x) ?_ ?_; rotate_left 1;
        clear_value x; intro; rotate_right 1; dsimp -zeta only [x]; try clear x)
    | (extract_lets +onlyGivenNames x; clear_value x) | refine keeps_fst (by assumption) ?_
    | refine keeps_snd (by assumption) ?_ | split

theorem State.videoReceive_keeps {s₀ s : State} (h : Keeps s₀ s) (m : Nat) : Keeps s₀ (s.videoReceive m) := by
  unfold State.videoReceive
  split
  · exact h
  · next e =>
    have h1 := State.weirs_keeps (keeps_map e (State.rxPop_keeps h m 5)) m
    split
    · split
      · exact State.vidPacket_keeps h1 _ _ _
      · exact h1
    · exact h1

theorem State.vidSilent_keeps {s₀ s : State} (h : Keeps s₀ s) (k : Nat) :
    Keeps s₀ (s.vidSilent k) := by
  unfold State.vidSilent
  with_reducible repeat' first | assumption | apply State.fset_keeps | apply keeps_ite

theorem State.setAud_keeps {s₀ s : State} (h : Keeps s₀ s) (a : Nat) (v : Audio) :
    Keeps s₀ (s.setAud a v) := keeps_of_eq h rfl rfl rfl rfl rfl

theorem State.setEnv_keeps {s₀ s : State} (h : Keeps s₀ s) (e : Nat) (v : Env) :
    Keeps s₀ (s.setEnv e v) := keeps_of_eq h rfl rfl rfl rfl rfl

theorem State.ltcSamples_keeps {s₀ s : State} (h : Keeps s₀ s) (l : List (Nat × Int)) :
    Keeps s₀ (s.ltcSamples l) := by
  unfold State.ltcSamples
  with_reducible repeat' first
    | assumption | (intro) | apply State.sample_keeps | apply State.ltcTake_keeps | apply keeps_foldl | apply keeps_mk
    | (extract_lets +onlyGivenNames x; refine keeps_cut (s₀ := s₀) (x := x) ?_ ?_; rotate_left 1;
        clear_value x; intro; rotate_right 1; dsimp -zeta only [x]; try clear x)
    | (extract_lets +onlyGivenNames x; clear_value x)

theorem State.ltcPacket_keeps {s₀ s : State} (h : Keeps s₀ s) (a ch media : Nat) (l24 : Bool) (b : List Byte) :
    Keeps s₀ (s.ltcPacket a ch media l24 b) := by
  unfold State.ltcPacket
  with_reducible repeat' first
    | assumption | (intro) | apply State.ltcSamples_keeps | apply keeps_ite
    | (extract_lets +onlyGivenNames x; refine keeps_cut (s₀ := s₀) (x := x) ?_ ?_; rotate_left 1;
        clear_value x; intro; rotate_right 1; dsimp -zeta only [x]; try clear x)
    | (extract_lets +onlyGivenNames x; clear_value x)

theorem State.audPacket_keeps {s₀ s : State} (h : Keeps s₀ s) (a : Nat) (ptp : Int) (b : List Byte) :
    Keeps s₀ (s.audPacket a ptp b) := by
  unfold State.audPacket
  with_reducible repeat' first
    | assumption | (intro) | apply State.setAud_keeps | apply State.fset_keeps | apply State.bumpF_keeps
    | apply State.stamp_keeps | apply State.setEnv_keeps | apply State.ltcPacket_keeps | apply keeps_ite
    | apply keeps_foldl
    | (extract_lets +onlyGivenNames x; refine keeps_cut (s₀ := s₀) (x := x) ?_ ?_; rotate_left 1;
        clear_value x; intro; rotate_right 1; dsimp -zeta only [x]; try clear x)
    | (extract_lets +onlyGivenNames x; clear_value x) | split

theorem State.audioReceive_keeps {s₀ s : State} (h : Keeps s₀ s) (m : Nat) : Keeps s₀ (s.audioReceive m) := by
  unfold State.audioReceive
  split
  · exact h
  · next e =>
    have h1 := State.weirs_keeps (keeps_map e (State.rxPop_keeps h m 3)) m
    split
    · split
      · exact State.audPacket_keeps h1 _ _ _
      · exact h1
    · exact h1

theorem State.audSilent_keeps {s₀ s : State} (h : Keeps s₀ s) (a : Nat) :
    Keeps s₀ (s.audSilent a) := by
  unfold State.audSilent
  with_reducible repeat' first | assumption | apply State.fset_keeps | apply keeps_ite

theorem State.envCutOne_keeps {s₀ s : State} (h : Keeps s₀ s) (cut : Nat) (e : Nat) (v : Option Nat) :
    Keeps s₀ (s.envCutOne cut e v) := by
  unfold State.envCutOne
  with_reducible repeat' first
    | assumption | apply State.ledgerAdd_keeps | apply State.inputRelease_keeps | apply State.fset_keeps
    | apply State.writeValue_keeps | split

theorem State.envCut_keeps {s₀ s : State} (h : Keeps s₀ s) (cut : Nat) :
    Keeps s₀ (s.envCut cut) := by
  unfold State.envCut
  with_reducible repeat' first
    | assumption | (intro) | apply State.envCutOne_keeps | apply keeps_ite | apply keeps_foldl

theorem State.setPport_keeps {s₀ s : State} (h : Keeps s₀ s) (m : Nat) (p : PtpPort) :
    Keeps s₀ (s.setPport m p) := by
  unfold State.setPport
  with_reducible repeat' first | assumption | apply State.setMac_keeps

theorem State.takeState_keeps {s₀ s : State} (h : Keeps s₀ s) (m v : Nat) :
    Keeps s₀ (s.takeState m v) := by
  unfold State.takeState
  with_reducible repeat' first
    | assumption | (intro) | apply State.setPport_keeps | apply keeps_ite
    | (extract_lets +onlyGivenNames x; refine keeps_cut (s₀ := s₀) (x := x) ?_ ?_; rotate_left 1;
        clear_value x; intro; rotate_right 1; dsimp -zeta only [x]; try clear x)
    | (extract_lets +onlyGivenNames x; clear_value x) | split

theorem State.chooseParent_keeps {s₀ s : State} (h : Keeps s₀ s) (m : Nat) :
    Keeps s₀ (s.chooseParent m) := by
  unfold State.chooseParent
  with_reducible repeat' first
    | assumption | (intro) | apply State.setPport_keeps | apply keeps_ite
    | (extract_lets +onlyGivenNames x; refine keeps_cut (s₀ := s₀) (x := x) ?_ ?_; rotate_left 1;
        clear_value x; intro; rotate_right 1; dsimp -zeta only [x]; try clear x)
    | (extract_lets +onlyGivenNames x; clear_value x) | split

theorem State.ptpDecide_keeps {s₀ s : State} (h : Keeps s₀ s) :
    Keeps s₀ (s.ptpDecide) := by
  unfold State.ptpDecide
  with_reducible repeat' first
    | assumption | (intro) | apply State.takeState_keeps | apply State.chooseParent_keeps | apply keeps_ite
    | apply keeps_foldl

theorem State.ptpAge_keeps {s₀ s : State} (h : Keeps s₀ s) (m : Nat) :
    Keeps s₀ (s.ptpAge m) := by
  unfold State.ptpAge
  with_reducible repeat' first
    | assumption | (intro) | apply State.setPport_keeps
    | (extract_lets +onlyGivenNames x; refine keeps_cut (s₀ := s₀) (x := x) ?_ ?_; rotate_left 1;
        clear_value x; intro; rotate_right 1; dsimp -zeta only [x]; try clear x)
    | (extract_lets +onlyGivenNames x; clear_value x)

theorem State.ptpGeneral_keeps {s₀ s : State} (h : Keeps s₀ s) (m : Nat) (b : List Byte) :
    Keeps s₀ (s.ptpGeneral m b) := by
  unfold State.ptpGeneral
  with_reducible repeat' first | assumption | apply State.sendItem_keeps

theorem State.ptpDue_keeps {s₀ s : State} (h : Keeps s₀ s) (m kind : Nat) :
    Keeps s₀ (s.ptpDue m kind) := by
  unfold State.ptpDue
  with_reducible repeat' first
    | assumption | (intro) | apply State.ptpAge_keeps | apply State.ptpDecide_keeps | apply State.setPport_keeps
    | apply State.ptpGeneral_keeps | apply State.sendItem_keeps | apply State.stamp_keeps | apply keeps_ite
    | (extract_lets +onlyGivenNames x; refine keeps_cut (s₀ := s₀) (x := x) ?_ ?_; rotate_left 1;
        clear_value x; intro; rotate_right 1; dsimp -zeta only [x]; try clear x)
    | (extract_lets +onlyGivenNames x; clear_value x) | split

theorem State.ptpSync_keeps {s₀ s : State} (h : Keeps s₀ s) (m : Nat) (t1 : Int) (loc : Int) :
    Keeps s₀ (s.ptpSync m t1 loc) := by
  unfold State.ptpSync
  with_reducible repeat' first
    | assumption | (intro) | apply State.sample_keeps | apply State.setPport_keeps
    | (extract_lets +onlyGivenNames x; refine keeps_cut (s₀ := s₀) (x := x) ?_ ?_; rotate_left 1;
        clear_value x; intro; rotate_right 1; dsimp -zeta only [x]; try clear x)
    | (extract_lets +onlyGivenNames x; clear_value x)

theorem State.ptpAnnounce_keeps {s₀ s : State} (h : Keeps s₀ s) (m : Nat) (b : List Byte) :
    Keeps s₀ (s.ptpAnnounce m b) := by
  unfold State.ptpAnnounce
  with_reducible repeat' first
    | assumption | (intro) | apply State.setPport_keeps | apply State.ptpDecide_keeps | apply keeps_ite
    | (extract_lets +onlyGivenNames x; refine keeps_cut (s₀ := s₀) (x := x) ?_ ?_; rotate_left 1;
        clear_value x; intro; rotate_right 1; dsimp -zeta only [x]; try clear x)
    | (extract_lets +onlyGivenNames x; clear_value x) | split

theorem State.ptpMessage_keeps {s₀ s : State} (h : Keeps s₀ s) (m : Nat) (t : Int) (loc : Int) (b : List Byte) :
    Keeps s₀ (s.ptpMessage m t loc b) := by
  unfold State.ptpMessage
  with_reducible repeat' first
    | assumption | apply State.ptpDecide_keeps | apply State.setPport_keeps | apply State.ptpSync_keeps
    | apply State.ptpGeneral_keeps | apply State.ptpAnnounce_keeps | apply State.bumpF_keeps | apply keeps_ite
    | (extract_lets +onlyGivenNames x; refine keeps_cut (s₀ := s₀) (x := x) ?_ ?_; rotate_left 1;
        clear_value x; intro; rotate_right 1; dsimp -zeta only [x]; try clear x)
    | (extract_lets +onlyGivenNames x; clear_value x) | split

theorem State.ptpReceive_keeps {s₀ s : State} (h : Keeps s₀ s) (m : Nat) : Keeps s₀ (s.ptpReceive m) := by
  unfold State.ptpReceive
  extract_lets c
  split
  · exact h
  · next e =>
    extract_lets s2
    have h2 : Keeps s₀ s2 := State.weirs_keeps (keeps_map e (State.rxPop_keeps h m c)) m
    clear_value s2
    refine keeps_ite ?_ h2
    split
    · exact State.ptpMessage_keeps h2 _ _ _ _
    · exact h2

theorem State.ptpCommitted_keeps {s₀ s : State} (h : Keeps s₀ s) (old : Tabs) :
    Keeps s₀ (s.ptpCommitted old) := by
  unfold State.ptpCommitted
  with_reducible repeat' first
    | assumption | (intro) | apply State.setPport_keeps | apply State.ptpDecide_keeps | apply keeps_ite
    | apply keeps_foldl
    | (extract_lets +onlyGivenNames x; refine keeps_cut (s₀ := s₀) (x := x) ?_ ?_; rotate_left 1;
        clear_value x; intro; rotate_right 1; dsimp -zeta only [x]; try clear x)
    | (extract_lets +onlyGivenNames x; clear_value x)

theorem State.setRo_keeps {s₀ s : State} (h : Keeps s₀ s) (r : Nat) (v : RasOut) :
    Keeps s₀ (s.setRo r v) := keeps_of_eq h rfl rfl rfl rfl rfl

theorem State.rasFill_keeps {s₀ s : State} (h : Keeps s₀ s) (r : Nat) (ready : Bool) (get : Nat → Nat → Px) :
    Keeps s₀ (s.rasFill r ready get) :=
  keeps_ite (State.setRo_keeps (keeps_cistern h _ (memWrite_wf _ _)) _ _) h

theorem State.rasFillCanvas_keeps {s₀ s : State} (h : Keeps s₀ s) (host : HostView) (good : List Nat) (c : Nat) :
    Keeps s₀ (s.rasFillCanvas host good c) := by
  unfold State.rasFillCanvas
  with_reducible repeat' first
    | assumption | (intro) | apply State.rasFill_keeps | apply keeps_ite | apply keeps_foldl

theorem State.composeFrame_keeps {s₀ s : State} (h : Keeps s₀ s) (host after : HostView) :
    Keeps s₀ (s.composeFrame host after) := by
  unfold State.composeFrame
  with_reducible repeat' first
    | assumption | (intro) | apply State.fset_keeps | apply State.fetchCanvas_keeps | apply State.stagePixels_keeps
    | apply State.rasFillCanvas_keeps | apply State.feedSigs_keeps | apply State.keepHolds_keeps
    | apply State.bumpF_keeps | apply keeps_ite | apply keeps_foldl
    | (extract_lets +onlyGivenNames x; refine keeps_cut (s₀ := s₀) (x := x) ?_ ?_; rotate_left 1;
        clear_value x; intro; rotate_right 1; dsimp -zeta only [x]; try clear x)
    | (extract_lets +onlyGivenNames x; clear_value x) | refine keeps_fst (by assumption) ?_
    | refine keeps_snd (by assumption) ?_ | split | apply keeps_mk

theorem State.rasFillLate_keeps {s₀ s : State} (h : Keeps s₀ s) :
    Keeps s₀ (s.rasFillLate) := by
  unfold State.rasFillLate
  with_reducible repeat' first | assumption | (intro) | apply State.bumpF_keeps | apply keeps_ite | apply keeps_foldl

theorem State.rasTrain_keeps {s₀ s : State} (h : Keeps s₀ s) (r : Nat) (again : Bool) :
    Keeps s₀ (s.rasTrain r again) := by
  unfold State.rasTrain
  with_reducible repeat' first
    | assumption | apply State.fset_keeps | apply State.setRo_keeps | apply State.bumpF_keeps | apply keeps_ite
    | (extract_lets +onlyGivenNames x; clear_value x) | split

theorem State.hpdRise_keeps {s₀ s : State} (h : Keeps s₀ s) (r lanes rate : Nat) (edid : List Byte) :
    Keeps s₀ (s.hpdRise r lanes rate edid) := by
  unfold State.hpdRise
  with_reducible repeat' first
    | assumption | (intro) | apply State.fset_keeps | apply State.bumpF_keeps | apply State.raise_keeps
    | apply State.setRo_keeps | apply State.setRg_keeps | apply State.rasTrain_keeps | apply keeps_ite
    | apply keeps_foldl
    | (extract_lets +onlyGivenNames x; refine keeps_cut (s₀ := s₀) (x := x) ?_ ?_; rotate_left 1;
        clear_value x; intro; rotate_right 1; dsimp -zeta only [x]; try clear x)
    | (extract_lets +onlyGivenNames x; clear_value x)

theorem State.hpdFall_keeps {s₀ s : State} (h : Keeps s₀ s) (r : Nat) :
    Keeps s₀ (s.hpdFall r) := by
  unfold State.hpdFall
  with_reducible repeat' first
    | assumption | apply State.fset_keeps | apply State.bumpF_keeps | apply State.raise_keeps
    | apply State.setRo_keeps | apply State.emit_keeps | apply keeps_ite
    | (extract_lets +onlyGivenNames x; refine keeps_cut (s₀ := s₀) (x := x) ?_ ?_; rotate_left 1;
        clear_value x; intro; rotate_right 1; dsimp -zeta only [x]; try clear x)
    | (extract_lets +onlyGivenNames x; clear_value x)

theorem State.linkLost_keeps {s₀ s : State} (h : Keeps s₀ s) (r : Nat) :
    Keeps s₀ (s.linkLost r) := by
  unfold State.linkLost
  with_reducible repeat' first | assumption | apply State.rasTrain_keeps | apply keeps_ite

theorem State.trained_keeps {s₀ s : State} (h : Keeps s₀ s) (r : Nat) (good : Bool) :
    Keeps s₀ (s.trained r good) := by
  unfold State.trained
  with_reducible repeat' first
    | assumption | apply State.raise_keeps | apply State.fset_keeps | apply State.setRo_keeps | apply keeps_ite

theorem State.rasRetry_keeps {s₀ s : State} (h : Keeps s₀ s) :
    Keeps s₀ (s.rasRetry) := by
  unfold State.rasRetry
  with_reducible repeat' first
    | assumption | (intro) | apply State.rasTrain_keeps | apply keeps_ite | apply keeps_foldl

theorem State.armRasters_keeps {s₀ s : State} (h : Keeps s₀ s) (n : Nat) :
    Keeps s₀ (s.armRasters n) := by
  unfold State.armRasters
  with_reducible repeat' first
    | assumption | (intro) | apply State.setRo_keeps | apply keeps_ite | apply keeps_foldl
    | (extract_lets +onlyGivenNames x; refine keeps_cut (s₀ := s₀) (x := x) ?_ ?_; rotate_left 1;
        clear_value x; intro; rotate_right 1; dsimp -zeta only [x]; try clear x)
    | (extract_lets +onlyGivenNames x; clear_value x)

theorem State.showVidLock_keeps {s₀ s : State} (h : Keeps s₀ s) :
    Keeps s₀ (s.showVidLock) := by
  unfold State.showVidLock
  with_reducible repeat' first | assumption | apply State.fset_keeps

theorem State.rasTake_keeps {s₀ s : State} (h : Keeps s₀ s) (r : Nat) (c : RasChange) :
    Keeps s₀ (s.rasTake r c) := by
  unfold State.rasTake
  with_reducible repeat' first
    | assumption | (intro) | apply State.setRo_keeps
    | (extract_lets +onlyGivenNames x; refine keeps_cut (s₀ := s₀) (x := x) ?_ ?_; rotate_left 1;
        clear_value x; intro; rotate_right 1; dsimp -zeta only [x]; try clear x)
    | (extract_lets +onlyGivenNames x; clear_value x)

theorem State.rasLeave_keeps {s₀ s : State} (h : Keeps s₀ s) (r : Nat) (c : RasChange) :
    Keeps s₀ (s.rasLeave r c) := by
  unfold State.rasLeave
  with_reducible repeat' first
    | assumption | (intro) | apply State.rasTake_keeps | apply State.bumpF_keeps | apply State.emit_keeps
    | apply State.fset_keeps | apply State.rasTrain_keeps | apply keeps_ite
    | (extract_lets +onlyGivenNames x; refine keeps_cut (s₀ := s₀) (x := x) ?_ ?_; rotate_left 1;
        clear_value x; intro; rotate_right 1; dsimp -zeta only [x]; try clear x)
    | (extract_lets +onlyGivenNames x; clear_value x) | split

theorem State.rasFeed_keeps {s₀ s : State} (h : Keeps s₀ s) (p : Pict) :
    Keeps s₀ (s.rasFeed p) := by
  unfold State.rasFeed
  with_reducible repeat' first
    | assumption | (intro) | apply State.gaCheck_keeps | apply keeps_ite | apply keeps_foldl

theorem State.rasShow_keeps {s₀ s : State} (h : Keeps s₀ s) (r j : Nat) (p : Pict) :
    Keeps s₀ (s.rasShow r j p) := by
  unfold State.rasShow
  with_reducible repeat' first
    | assumption | apply State.fset_keeps | apply State.emit_keeps | apply State.rasFeed_keeps | apply keeps_ite
    | (extract_lets +onlyGivenNames x; refine keeps_cut (s₀ := s₀) (x := x) ?_ ?_; rotate_left 1;
        clear_value x; intro; rotate_right 1; dsimp -zeta only [x]; try clear x)
    | (extract_lets +onlyGivenNames x; clear_value x) | split

theorem State.rasScan_keeps {s₀ s : State} (h : Keeps s₀ s) (r j n : Nat) :
    Keeps s₀ (s.rasScan r j n) := by
  unfold State.rasScan
  with_reducible repeat' first
    | assumption | (intro) | apply State.setRo_keeps | apply State.emit_keeps | apply State.rasShow_keeps
    | apply State.bumpF_keeps | apply keeps_ite
    | (extract_lets +onlyGivenNames x; refine keeps_cut (s₀ := s₀) (x := x) ?_ ?_; rotate_left 1;
        clear_value x; intro; rotate_right 1; dsimp -zeta only [x]; try clear x)
    | (extract_lets +onlyGivenNames x; clear_value x) | split

theorem State.rasLaunch_keeps {s₀ s : State} (h : Keeps s₀ s) (r j : Nat) :
    Keeps s₀ (s.rasLaunch r j) := by
  unfold State.rasLaunch
  with_reducible repeat' first
    | assumption | (intro) | apply State.setRo_keeps | apply State.rasLeave_keeps | apply State.showVidLock_keeps
    | apply State.rasTake_keeps | apply State.rasScan_keeps | apply keeps_ite
    | (extract_lets +onlyGivenNames x; refine keeps_cut (s₀ := s₀) (x := x) ?_ ?_; rotate_left 1;
        clear_value x; intro; rotate_right 1; dsimp -zeta only [x]; try clear x)
    | (extract_lets +onlyGivenNames x; clear_value x) | split

theorem State.bar2Bytes_keeps {s₀ s : State} (h : Keeps s₀ s) (a : Nat) (l : List Byte) :
    Keeps s₀ (s.bar2Bytes a l).1 := by
  induction l generalizing s a with
  | nil => exact h
  | cons b t ih =>
    simp only [State.bar2Bytes]
    exact keeps_ite_fst (ih h _) (ih (keeps_cistern h _ (memSet_wf _ _)) _)

theorem State.bar2Write_keeps {s₀ s : State} (h : Keeps s₀ s) (a : Nat) (b : List Byte) :
    Keeps s₀ (s.bar2Write a b) := by
  unfold State.bar2Write
  with_reducible repeat' first
    | assumption | apply State.accessErr_keeps | apply State.bar2Bytes_keeps | apply State.bumpF_keeps
    | apply keeps_ite

theorem State.rasterCommitted_keeps {s₀ s : State} (h : Keeps s₀ s) (old : Tabs) (frame : Nat) :
    Keeps s₀ (s.rasterCommitted old frame) := by
  unfold State.rasterCommitted
  with_reducible repeat' first
    | assumption | (intro) | apply State.setRo_keeps | apply State.rasTake_keeps | apply keeps_ite | apply keeps_foldl
    | (extract_lets +onlyGivenNames x; refine keeps_cut (s₀ := s₀) (x := x) ?_ ?_; rotate_left 1;
        clear_value x; intro; rotate_right 1; dsimp -zeta only [x]; try clear x)
    | (extract_lets +onlyGivenNames x; clear_value x) | split

theorem State.rasStart_keeps {s₀ s : State} (h : Keeps s₀ s) :
    Keeps s₀ (s.rasStart) := by
  unfold State.rasStart
  with_reducible repeat' first
    | assumption | (intro) | apply State.setRo_keeps | apply State.rasTake_keeps | apply State.rasTrain_keeps
    | apply State.showVidLock_keeps | apply keeps_ite | apply keeps_foldl
    | (extract_lets +onlyGivenNames x; refine keeps_cut (s₀ := s₀) (x := x) ?_ ?_; rotate_left 1;
        clear_value x; intro; rotate_right 1; dsimp -zeta only [x]; try clear x)
    | (extract_lets +onlyGivenNames x; clear_value x)

theorem State.rasCtrlWrite_keeps {s₀ s : State} (h : Keeps s₀ s) (v : Word) :
    Keeps s₀ (s.rasCtrlWrite v) := by
  unfold State.rasCtrlWrite
  with_reducible repeat' first
    | assumption | (intro) | apply State.fset_keeps | apply State.rasStart_keeps | apply State.setRo_keeps
    | apply State.emit_keeps | apply State.showVidLock_keeps | apply keeps_ite | apply keeps_foldl
    | (extract_lets +onlyGivenNames x; refine keeps_cut (s₀ := s₀) (x := x) ?_ ?_; rotate_left 1;
        clear_value x; intro; rotate_right 1; dsimp -zeta only [x]; try clear x)
    | (extract_lets +onlyGivenNames x; clear_value x)

theorem State.rasService_keeps {s₀ s : State} (h : Keeps s₀ s) (both : Bool) (r mode : Nat) :
    Keeps s₀ (s.rasService both r mode) := by
  unfold State.rasService
  with_reducible repeat' first
    | assumption | (intro) | apply State.setRo_keeps | apply State.fset_keeps | apply keeps_ite | apply keeps_foldl
    | (extract_lets +onlyGivenNames x; refine keeps_cut (s₀ := s₀) (x := x) ?_ ?_; rotate_left 1;
        clear_value x; intro; rotate_right 1; dsimp -zeta only [x]; try clear x)
    | (extract_lets +onlyGivenNames x; clear_value x)

theorem State.bar2Read_keeps {s₀ s : State} (h : Keeps s₀ s) (a n : Nat) :
    Keeps s₀ (s.bar2Read a n) := by
  unfold State.bar2Read
  with_reducible repeat' first
    | assumption | (intro) | apply State.accessErr_keeps | apply State.emit_keeps | apply keeps_ite

end Sys2Proof.Machine
end

