-- ==== Sys2Proof/Laws/Keep5.lean ====
section
/-! SUPPORT. `Keeps` for the functions of Basin, Reset, Tender, Pair. -/

namespace Sys2Proof.Machine

open Sys2Proof

theorem State.setBasin_keeps {s₀ s : State} (h : Keeps s₀ s) (b : Basin) :
    Keeps s₀ (s.setBasin b) := keeps_of_eq h rfl rfl rfl rfl rfl

theorem State.setBport_keeps {s₀ s : State} (h : Keeps s₀ s) (k : Nat) (v : BasinPort) :
    Keeps s₀ (s.setBport k v) := by
  unfold State.setBport
  with_reducible repeat' first | assumption | apply State.setBasin_keeps

theorem State.bsnSend_keeps {s₀ s : State} (h : Keeps s₀ s) (port : Nat) (m : BsnMsg) :
    Keeps s₀ (s.bsnSend port m) := by
  unfold State.bsnSend
  with_reducible repeat' first | assumption | apply State.emit_keeps | apply keeps_ite

theorem State.bsnDown_keeps {s₀ s : State} (h : Keeps s₀ s) (m : BsnMsg) :
    Keeps s₀ (s.bsnDown m) := by
  unfold State.bsnDown
  with_reducible repeat' first | assumption | (intro) | apply State.bsnSend_keeps | apply keeps_foldl

theorem State.bsnTake_keeps {s₀ s : State} (h : Keeps s₀ s) (bytes : List Byte) (type : Nat)
    (f : State → BsnMsg → State) (hf : ∀ m, Keeps s₀ (f s m)) : Keeps s₀ (s.bsnTake bytes type f) := by
  unfold State.bsnTake
  refine keeps_ite h ?_
  split
  · exact State.bumpF_keeps h _ _ _
  · exact keeps_ite (hf _) h

theorem State.showSubtree_keeps {s₀ s : State} (h : Keeps s₀ s) :
    Keeps s₀ (s.showSubtree) := by
  unfold State.showSubtree
  with_reducible repeat' first | assumption | apply State.fset_keeps

theorem State.sendJoin_keeps {s₀ s : State} (h : Keeps s₀ s) :
    Keeps s₀ (s.sendJoin) := by
  unfold State.sendJoin
  with_reducible repeat' first | assumption | apply State.bsnSend_keeps | apply keeps_ite

theorem State.accepted_keeps {s₀ s : State} (h : Keeps s₀ s) (j : JoinReq) :
    Keeps s₀ (s.accepted j) := by
  unfold State.accepted
  with_reducible repeat' first
    | assumption | apply State.setBport_keeps | apply State.fset_keeps | apply State.showSubtree_keeps
    | apply keeps_ite
    | (extract_lets +onlyGivenNames x; refine keeps_cut (s₀ := s₀) (x := x) ?_ ?_; rotate_left 1;
        clear_value x; intro; rotate_right 1; dsimp -zeta only [x]; try clear x)
    | (extract_lets +onlyGivenNames x; clear_value x)

theorem State.rootAnswer_keeps {s₀ s : State} (h : Keeps s₀ s) (j : JoinReq) :
    Keeps s₀ (s.rootAnswer j) := by
  unfold State.rootAnswer
  with_reducible repeat' first
    | assumption | apply State.accepted_keeps | apply State.bsnSend_keeps | apply keeps_ite
    | (extract_lets +onlyGivenNames x; refine keeps_cut (s₀ := s₀) (x := x) ?_ ?_; rotate_left 1;
        clear_value x; intro; rotate_right 1; dsimp -zeta only [x]; try clear x)
    | (extract_lets +onlyGivenNames x; clear_value x)

theorem State.forwardJoins_keeps {s₀ s : State} (h : Keeps s₀ s) :
    Keeps s₀ (s.forwardJoins) := by
  unfold State.forwardJoins
  with_reducible repeat' first
    | assumption | (intro) | apply State.rootAnswer_keeps | apply State.setBasin_keeps | apply State.bsnSend_keeps
    | apply keeps_ite | apply keeps_foldl

theorem State.takeJoin_keeps {s₀ s : State} (h : Keeps s₀ s) (k : Nat) (m : BsnMsg) :
    Keeps s₀ (s.takeJoin k m) := by
  unfold State.takeJoin
  with_reducible repeat' first
    | assumption | (intro) | apply State.bsnSend_keeps | apply State.setBasin_keeps | apply State.forwardJoins_keeps
    | apply keeps_ite
    | (extract_lets +onlyGivenNames x; refine keeps_cut (s₀ := s₀) (x := x) ?_ ?_; rotate_left 1;
        clear_value x; intro; rotate_right 1; dsimp -zeta only [x]; try clear x)
    | (extract_lets +onlyGivenNames x; clear_value x) | split

theorem State.opEnd_keeps {s₀ s : State} (h : Keeps s₀ s) (st : Nat) (count : Nat) :
    Keeps s₀ (s.opEnd st count) := by
  unfold State.opEnd
  with_reducible repeat' first
    | assumption | apply State.event_keeps | apply State.raise_keeps | apply State.fset_keeps

theorem State.barrierTry_keeps {s₀ s : State} (h : Keeps s₀ s) :
    Keeps s₀ (s.barrierTry) := by
  unfold State.barrierTry
  with_reducible repeat' first
    | assumption | (intro) | apply State.bsnDown_keeps | apply State.setBasin_keeps | apply State.opEnd_keeps
    | apply State.bsnSend_keeps | apply keeps_ite | apply keeps_foldl | apply keepsO_getD | split

theorem State.ownAccept_keeps {s₀ s : State} (h : Keeps s₀ s) (m : BsnMsg) :
    Keeps s₀ (s.ownAccept m) := by
  unfold State.ownAccept
  with_reducible repeat' first
    | assumption | (intro) | apply State.bumpF_keeps | apply State.fset_keeps | apply State.setBasin_keeps
    | apply State.takeJoin_keeps | apply State.showSubtree_keeps | apply State.forwardJoins_keeps
    | apply State.barrierTry_keeps | apply keeps_ite
    | (extract_lets +onlyGivenNames x; refine keeps_cut (s₀ := s₀) (x := x) ?_ ?_; rotate_left 1;
        clear_value x; intro; rotate_right 1; dsimp -zeta only [x]; try clear x)
    | (extract_lets +onlyGivenNames x; clear_value x)

theorem State.takeAccept_keeps {s₀ s : State} (h : Keeps s₀ s) (m : BsnMsg) :
    Keeps s₀ (s.takeAccept m) := by
  unfold State.takeAccept
  with_reducible repeat' first
    | assumption | apply State.ownAccept_keeps | apply State.setBasin_keeps | apply State.bsnSend_keeps
    | apply State.accepted_keeps | apply keeps_ite | split

theorem State.dravudUp_keeps {s₀ s : State} (h : Keeps s₀ s) (k : Nat) :
    Keeps s₀ (s.dravudUp k) := by
  unfold State.dravudUp
  with_reducible repeat' first | assumption | apply State.fset_keeps | apply State.sendJoin_keeps | apply keeps_ite

theorem State.bsnCtrlWrite_keeps {s₀ s : State} (h : Keeps s₀ s) (v : Word) :
    Keeps s₀ (s.bsnCtrlWrite v) := by
  unfold State.bsnCtrlWrite
  with_reducible repeat' first
    | assumption | apply State.fset_keeps | apply State.forwardJoins_keeps | apply State.showSubtree_keeps
    | apply State.sendJoin_keeps | apply keeps_ite

theorem State.opStart_keeps {s₀ s : State} (h : Keeps s₀ s) (req : Requester) (rootOnly : Bool) (f : State → State)
    (hf : ∀ t, Keeps s₀ t → Keeps s₀ (f t)) : Keeps s₀ (s.opStart req rootOnly f) := by
  unfold State.opStart
  exact keeps_ite (State.accessErr_keeps h _ _ _) (keeps_ite (State.accessErr_keeps h _ _ _)
    (keeps_ite (State.fset_keeps h _ _ _ _) (hf _ (State.fset_keeps (State.fset_keeps h _ _ _ _) _ _ _ _))))

theorem State.arrive_keeps {s₀ s : State} (h : Keeps s₀ s) (id : Nat) :
    Keeps s₀ (s.arrive id) := by
  unfold State.arrive
  with_reducible repeat' first
    | assumption | apply State.barrierTry_keeps | apply State.setBasin_keeps | apply State.bumpF_keeps
    | apply State.fset_keeps | apply keeps_ite | split

theorem State.takeArrive_keeps {s₀ s : State} (h : Keeps s₀ s) (k : Nat) (m : BsnMsg) :
    Keeps s₀ (s.takeArrive k m) := by
  unfold State.takeArrive
  with_reducible repeat' first
    | assumption | (intro) | apply State.setBport_keeps | apply State.setBasin_keeps | apply State.showSubtree_keeps
    | apply State.barrierTry_keeps | apply State.bumpF_keeps | apply keeps_ite
    | (extract_lets +onlyGivenNames x; refine keeps_cut (s₀ := s₀) (x := x) ?_ ?_; rotate_left 1;
        clear_value x; intro; rotate_right 1; dsimp -zeta only [x]; try clear x)
    | (extract_lets +onlyGivenNames x; clear_value x) | split

theorem State.takeRelease_keeps {s₀ s : State} (h : Keeps s₀ s) (m : BsnMsg) :
    Keeps s₀ (s.takeRelease m) := by
  unfold State.takeRelease
  with_reducible repeat' first
    | assumption | apply State.bsnDown_keeps | apply State.setBasin_keeps | apply State.opEnd_keeps | apply keeps_ite

theorem State.reportTry_keeps {s₀ s : State} (h : Keeps s₀ s) :
    Keeps s₀ (s.reportTry) := by
  unfold State.reportTry
  with_reducible repeat' first
    | assumption | (intro) | apply State.setBasin_keeps | apply State.opEnd_keeps | apply State.bsnSend_keeps
    | apply keeps_ite | apply keeps_foldl | apply keepsO_getD | split

theorem State.takeReport_keeps {s₀ s : State} (h : Keeps s₀ s) (k : Nat) (m : BsnMsg) :
    Keeps s₀ (s.takeReport k m) := by
  unfold State.takeReport
  with_reducible repeat' first
    | assumption | apply State.reportTry_keeps | apply State.setBport_keeps | apply keeps_ite

theorem State.childLoss_keeps {s₀ s : State} (h : Keeps s₀ s) (k : Nat) :
    Keeps s₀ (s.childLoss k) := by
  unfold State.childLoss
  with_reducible repeat' first
    | assumption | apply State.setBport_keeps | apply State.fset_keeps | apply State.report_keeps
    | apply State.bumpF_keeps | apply State.showSubtree_keeps | apply State.setBasin_keeps
    | apply State.reportTry_keeps | apply State.barrierTry_keeps | apply keeps_ite

theorem State.dravudLoss_keeps {s₀ s : State} (h : Keeps s₀ s) (k : Nat) (segment : Bool) :
    Keeps s₀ (s.dravudLoss k segment) := by
  unfold State.dravudLoss
  with_reducible repeat' first | assumption | apply State.childLoss_keeps | apply State.fset_keeps | apply keeps_ite

theorem State.markSend_keeps {s₀ s : State} (h : Keeps s₀ s) :
    Keeps s₀ (s.markSend) := by
  unfold State.markSend
  with_reducible repeat' first
    | assumption | (intro) | apply State.bsnSend_keeps | apply State.setBport_keeps | apply keeps_ite
    | apply keeps_foldl

theorem State.takeEcho_keeps {s₀ s : State} (h : Keeps s₀ s) (k : Nat) (r : Nat) :
    Keeps s₀ (s.takeEcho k r) := by
  unfold State.takeEcho
  with_reducible repeat' first | assumption | apply State.fset_keeps | apply State.setBport_keeps | apply keeps_ite

theorem State.parentInstant_keeps {s₀ s : State} (h : Keeps s₀ s) (ahead : Int) :
    Keeps s₀ (s.parentInstant ahead) := by
  unfold State.parentInstant
  with_reducible repeat' first | assumption | apply State.sample_keeps

theorem State.takeSkew_keeps {s₀ s : State} (h : Keeps s₀ s) (ahead : Int) :
    Keeps s₀ (s.takeSkew ahead) := by
  unfold State.takeSkew
  with_reducible repeat' first
    | assumption | apply State.fset_keeps | apply State.setBasin_keeps | apply State.report_keeps | apply keeps_ite

theorem State.takeMark_keeps {s₀ s : State} (h : Keeps s₀ s) (m : BsnMsg) :
    Keeps s₀ (s.takeMark m) := by
  unfold State.takeMark
  with_reducible repeat' first
    | assumption | apply State.bsnSend_keeps | apply State.takeSkew_keeps | apply State.parentInstant_keeps
    | apply State.setBasin_keeps | apply State.bumpF_keeps | apply keeps_ite
    | (extract_lets +onlyGivenNames x; refine keeps_cut (s₀ := s₀) (x := x) ?_ ?_; rotate_left 1;
        clear_value x; intro; rotate_right 1; dsimp -zeta only [x]; try clear x)
    | (extract_lets +onlyGivenNames x; clear_value x)

theorem State.renumberTasks_keeps {s₀ s : State} (h : Keeps s₀ s) (by_ : Int) :
    Keeps s₀ (s.renumberTasks by_) := by
  unfold State.renumberTasks
  with_reducible repeat' first | assumption | apply keeps_ite | apply keeps_mk

theorem State.renumberOutputs_keeps {s₀ s : State} (h : Keeps s₀ s) (by_ : Int) :
    Keeps s₀ (s.renumberOutputs by_) := keeps_of_eq h rfl rfl rfl rfl rfl

theorem State.renumber_keeps {s₀ s : State} (h : Keeps s₀ s) (by_ : Int) :
    Keeps s₀ (s.renumber by_) := by
  unfold State.renumber
  with_reducible repeat' first
    | assumption | (intro) | apply State.setClock_keeps | apply State.renumberTasks_keeps
    | apply State.renumberOutputs_keeps | apply keeps_mk
    | (extract_lets +onlyGivenNames x; refine keeps_cut (s₀ := s₀) (x := x) ?_ ?_; rotate_left 1;
        clear_value x; intro; rotate_right 1; dsimp -zeta only [x]; try clear x)
    | (extract_lets +onlyGivenNames x; clear_value x)

theorem State.markPlacing_keeps {s₀ s : State} (h : Keeps s₀ s) :
    Keeps s₀ (s.markPlacing) := by
  unfold State.markPlacing
  with_reducible repeat' first
    | assumption | apply State.setClock_keeps | apply State.bumpF_keeps | apply State.fset_keeps
    | (extract_lets +onlyGivenNames x; refine keeps_cut (s₀ := s₀) (x := x) ?_ ?_; rotate_left 1;
        clear_value x; intro; rotate_right 1; dsimp -zeta only [x]; try clear x)
    | (extract_lets +onlyGivenNames x; clear_value x)

theorem State.takeNumber_keeps {s₀ s : State} (h : Keeps s₀ s) :
    Keeps s₀ (s.takeNumber) := by
  unfold State.takeNumber
  with_reducible repeat' first
    | assumption | (intro) | apply State.setBasin_keeps | apply State.takeJoin_keeps | apply State.renumber_keeps
    | apply State.setFrame_keeps | apply State.markPlacing_keeps | apply keeps_ite
    | (extract_lets +onlyGivenNames x; refine keeps_cut (s₀ := s₀) (x := x) ?_ ?_; rotate_left 1;
        clear_value x; intro; rotate_right 1; dsimp -zeta only [x]; try clear x)
    | (extract_lets +onlyGivenNames x; clear_value x) | split

theorem State.showBcast_keeps {s₀ s : State} (h : Keeps s₀ s) :
    Keeps s₀ (s.showBcast) := by
  unfold State.showBcast
  with_reducible repeat' first | assumption | apply State.fset_keeps

theorem State.takeBcast_keeps {s₀ s : State} (h : Keeps s₀ s) (m : BsnMsg) :
    Keeps s₀ (s.takeBcast m) := by
  unfold State.takeBcast
  with_reducible repeat' first
    | assumption | apply State.bsnDown_keeps | apply State.showBcast_keeps | apply State.setBasin_keeps
    | apply State.bumpF_keeps | apply keeps_ite

theorem State.bcastPop_keeps {s₀ s : State} (h : Keeps s₀ s) :
    Keeps s₀ (s.bcastPop) := by
  unfold State.bcastPop
  with_reducible repeat' first | assumption | apply State.showBcast_keeps | apply State.setBasin_keeps

theorem State.bcastStart_keeps {s₀ s : State} (h : Keeps s₀ s) (n : Nat) :
    Keeps s₀ (s.bcastStart n) := by
  unfold State.bcastStart
  with_reducible repeat' first
    | assumption | apply State.opEnd_keeps | apply State.bsnDown_keeps | apply State.fset_keeps | apply keeps_ite

theorem State.dropRegs_keeps {s₀ s : State} (h : Keeps s₀ s) (d : Domain) : Keeps s₀ (s.dropRegs d) :=
  keeps_regs h _ (mwf_filter _)

theorem State.tenderRegs_keeps {s₀ s : State} (h : Keeps s₀ s) : Keeps s₀ s.tenderRegs := keeps_regs h _ (mwf_filter _)

theorem State.transitionClear_keeps {s₀ s : State} (h : Keeps s₀ s) :
    Keeps s₀ (s.transitionClear) := by
  unfold State.transitionClear
  with_reducible repeat' first | assumption | apply State.fset_keeps

theorem State.undispatchCluster_keeps {s₀ s : State} (h : Keeps s₀ s) (c : Nat) :
    Keeps s₀ (s.undispatchCluster c) := by
  unfold State.undispatchCluster
  with_reducible repeat' first
    | assumption | (intro) | apply State.undispatch_keeps | apply keeps_ite | apply keeps_foldl | split

theorem State.clearCluster_keeps {s₀ s : State} (h : Keeps s₀ s) (c : Nat) : Keeps s₀ (s.clearCluster c) := by
  have h1 := keeps_mem h { s.mem with
      pads := dropKeys (32 * c * 2 ^ 21) (32 * 2 ^ 21) s.mem.pads
      pools := dropKeys (c * 2 ^ 23) (2 ^ 23) s.mem.pools
      badPads := dropNums (32 * c * 2 ^ 21) (32 * 2 ^ 21) s.mem.badPads
      badPools := dropNums (c * 2 ^ 23) (2 ^ 23) s.mem.badPools } (fun w => by
    rw [Mem.wf_iff] at w ⊢
    exact ⟨w.1, w.2.1, mwf_filter _ w.2.2.1, mwf_filter _ w.2.2.2⟩)
  exact keeps_of_eq h1 rfl rfl rfl rfl rfl

theorem State.emptyRam_keeps {s₀ s : State} (h : Keeps s₀ s) (f : Nat) :
    Keeps s₀ (s.emptyRam f) := by
  unfold State.emptyRam
  with_reducible repeat' first
    | assumption | apply State.setFlume_keeps | apply State.setTable_keeps | apply State.flumeStatus_keeps

theorem State.clearLaterals_keeps {s₀ s : State} (h : Keeps s₀ s) (half : Nat) : Keeps s₀ (s.clearLaterals half) := by
  unfold State.clearLaterals
  extract_lets s1 rest d s2
  have h1 : Keeps s₀ s1 := keeps_foldl _ _ h fun t e ht =>
    State.fset_keeps (State.fset_keeps (State.setPort_keeps ht _ _) _ _ _ _) _ _ _ _
  have h2 : Keeps s₀ s2 := keeps_of_eq h1 rfl rfl rfl rfl rfl
  exact keeps_foldl _ _ h2 fun t k ht => State.emptyRam_keeps ht _

theorem State.clearNet_keeps {s₀ s : State} (h : Keeps s₀ s) :
    Keeps s₀ (s.clearNet) := by
  unfold State.clearNet
  with_reducible repeat' first | assumption | apply keeps_ite | apply keeps_mk

theorem State.clearSys_keeps {s₀ s : State} (h : Keeps s₀ s) :
    Keeps s₀ (s.clearSys) := by
  unfold State.clearSys
  with_reducible repeat' first | assumption | apply keeps_ite | apply keeps_mk

theorem State.clearCistern_keeps {s₀ s : State} (h : Keeps s₀ s) :
    Keeps s₀ (s.clearCistern) := by
  unfold State.clearCistern
  extract_lets m s1 s2
  have h1 : Keeps s₀ s1 := keeps_of_eq (keeps_cistern h [] (fun _ => rfl)) rfl rfl rfl rfl rfl
  have h2 : Keeps s₀ s2 := keeps_foldl _ _ h1 fun t r ht =>
    State.fset_keeps (State.fset_keeps (State.fset_keeps (State.fset_keeps ht _ _ _ _) _ _ _ _) _ _ _ _) _ _ _ _
  exact State.fset_keeps (State.fset_keeps h2 _ _ _ _) _ _ _ _

theorem State.clearPix_keeps {s₀ s : State} (h : Keeps s₀ s) :
    Keeps s₀ (s.clearPix) := by
  unfold State.clearPix
  with_reducible repeat' first | assumption | apply State.fset_keeps | apply keeps_mk

theorem State.clearDomain_keeps {s₀ s : State} (h : Keeps s₀ s) (d : Domain) : Keeps s₀ (s.clearDomain d) := by
  cases d with
  | tend => exact h
  | sluice => exact keeps_of_eq h rfl rfl rfl rfl rfl
  | sys => exact State.clearSys_keeps h
  | coreA => exact State.clearCluster_keeps (State.undispatchCluster_keeps h 0) 0
  | coreB => exact State.clearCluster_keeps (State.undispatchCluster_keeps h 1) 1
  | pix => exact State.clearPix_keeps h
  | cistern => exact State.clearCistern_keeps h
  | latLo => exact State.clearLaterals_keeps h 0
  | latHi => exact State.clearLaterals_keeps h 1
  | net => exact State.clearNet_keeps h
  | host => exact State.haltHostRings_keeps (State.resetFunction_keeps h)
  | res => exact keeps_of_eq (keeps_reservoir h [] (fun _ => rfl)) rfl rfl rfl rfl rfl

theorem State.calBase_keeps {s₀ s : State} (h : Keeps s₀ s) (u : Nat) :
    Keeps s₀ (s.calBase u) := by
  unfold State.calBase
  with_reducible repeat' first | assumption | apply State.setRg_keeps | apply keeps_ite | apply keeps_mk

theorem State.showDue_keeps {s₀ s : State} (h : Keeps s₀ s) :
    Keeps s₀ (s.showDue) := by
  unfold State.showDue
  with_reducible repeat' first | assumption | apply State.fset_keeps

theorem State.clearSensors_keeps {s₀ s : State} (h : Keeps s₀ s) (d : Domain) :
    Keeps s₀ (s.clearSensors d) := by
  unfold State.clearSensors
  with_reducible repeat' first
    | assumption | (intro) | apply State.setRg_keeps | apply State.calBase_keeps | apply State.showDue_keeps
    | apply keeps_ite | apply keeps_foldl | apply keeps_mk
    | (extract_lets +onlyGivenNames x; refine keeps_cut (s₀ := s₀) (x := x) ?_ ?_; rotate_left 1;
        clear_value x; intro; rotate_right 1; dsimp -zeta only [x]; try clear x)
    | (extract_lets +onlyGivenNames x; clear_value x)

theorem State.resetDomain_keeps {s₀ s : State} (h : Keeps s₀ s) (d : Domain) :
    Keeps s₀ (s.resetDomain d) := by
  unfold State.resetDomain
  with_reducible repeat' first
    | assumption | apply State.clearSensors_keeps | apply State.dropRegs_keeps | apply State.clearDomain_keeps

theorem State.resetDomains_keeps {s₀ s : State} (h : Keeps s₀ s) (l : List Domain) :
    Keeps s₀ (s.resetDomains l) := by
  unfold State.resetDomains
  with_reducible repeat' first | assumption | (intro) | apply State.resetDomain_keeps | apply keeps_foldl

theorem State.powerOff_keeps {s₀ s : State} (h : Keeps s₀ s) (d : Domain) :
    Keeps s₀ (s.powerOff d) := by
  unfold State.powerOff
  with_reducible repeat' first | assumption | apply State.resetDomain_keeps | apply keeps_mk

theorem State.powerOffs_keeps {s₀ s : State} (h : Keeps s₀ s) (l : List Domain) :
    Keeps s₀ (s.powerOffs l) := by
  unfold State.powerOffs
  with_reducible repeat' first | assumption | (intro) | apply State.powerOff_keeps | apply keeps_foldl

theorem State.loadLocal_keeps {s₀ s : State} (h : Keeps s₀ s) :
    Keeps s₀ (s.loadLocal) := by
  unfold State.loadLocal
  with_reducible repeat' first | assumption | split | apply keeps_mk

theorem State.powerOn_keeps {s₀ s : State} (h : Keeps s₀ s) (l : List Domain) :
    Keeps s₀ (s.powerOn l) := by
  unfold State.powerOn
  with_reducible repeat' first
    | assumption | (intro) | apply State.loadLocal_keeps | apply keeps_ite | apply keeps_foldl | apply keeps_mk

theorem State.renewNet_keeps {s₀ s : State} (h : Keeps s₀ s) :
    Keeps s₀ (s.renewNet) := by
  unfold State.renewNet
  with_reducible repeat' first | assumption | apply State.loadLocal_keeps | apply keeps_ite

theorem State.startClock_keeps {s₀ s : State} (h : Keeps s₀ s) :
    Keeps s₀ (s.startClock) := by
  unfold State.startClock
  with_reducible repeat' first
    | assumption | apply State.setClock_keeps | apply State.setTf_keeps | apply State.setFrame_keeps
    | apply State.fset_keeps

theorem State.recordReset_keeps {s₀ s : State} (h : Keeps s₀ s) (bit : RF) (last : Nat) (count : Option Nat) :
    Keeps s₀ (s.recordReset bit last count) := by
  unfold State.recordReset
  with_reducible repeat' first | assumption | apply State.fset_keeps | apply State.bumpF_keeps | split

theorem State.startFrom_keeps {s₀ s : State} (h : Keeps s₀ s) (start : Nat) :
    Keeps s₀ (s.startFrom start) := keeps_of_eq h rfl rfl rfl rfl rfl

theorem State.dropRails_keeps {s₀ s : State} (h : Keeps s₀ s) :
    Keeps s₀ (s.dropRails) := by
  unfold State.dropRails
  with_reducible repeat' first
    | assumption | (intro) | apply State.powerOffs_keeps | apply State.emit_keeps | apply keeps_foldl | apply keeps_mk

theorem State.coldReset_keeps {s₀ s : State} (h : Keeps s₀ s) (bit : RF) (last count : Nat) :
    Keeps s₀ (s.coldReset bit last count) := by
  unfold State.coldReset
  with_reducible repeat' first
    | assumption | apply State.dropRails_keeps | apply State.startFrom_keeps | apply State.transitionClear_keeps
    | apply State.recordReset_keeps | apply keeps_mk
    | (extract_lets +onlyGivenNames x; refine keeps_cut (s₀ := s₀) (x := x) ?_ ?_; rotate_left 1;
        clear_value x; intro; rotate_right 1; dsimp -zeta only [x]; try clear x)
    | (extract_lets +onlyGivenNames x; clear_value x)

theorem State.sluiceReset_keeps {s₀ s : State} (h : Keeps s₀ s) :
    Keeps s₀ (s.sluiceReset) := by
  unfold State.sluiceReset
  with_reducible repeat' first
    | assumption | apply State.dropRails_keeps | apply State.startFrom_keeps | apply State.recordReset_keeps
    | apply keeps_mk
    | (extract_lets +onlyGivenNames x; refine keeps_cut (s₀ := s₀) (x := x) ?_ ?_; rotate_left 1;
        clear_value x; intro; rotate_right 1; dsimp -zeta only [x]; try clear x)
    | (extract_lets +onlyGivenNames x; clear_value x)

theorem State.warmReset_keeps {s₀ s : State} (h : Keeps s₀ s) :
    Keeps s₀ (s.warmReset) := by
  unfold State.warmReset
  with_reducible repeat' first
    | assumption | apply State.renewNet_keeps | apply State.resetDomains_keeps | apply State.recordReset_keeps
    | apply State.startFrom_keeps | apply keeps_mk

theorem State.endTasks_keeps {s₀ s : State} (h : Keeps s₀ s) :
    Keeps s₀ (s.endTasks) := by
  unfold State.endTasks
  with_reducible repeat' first
    | assumption | (intro) | apply State.cancelReady_keeps | apply State.undispatch_keeps | apply State.taskDone_keeps
    | apply State.freeTask_keeps | apply State.bumpF_keeps | apply State.endKept_keeps | apply keeps_ite
    | apply keeps_foldl | split

theorem State.setPower_keeps {s₀ s : State} (h : Keeps s₀ s) (p : Power) :
    Keeps s₀ (s.setPower p) := keeps_of_eq h rfl rfl rfl rfl rfl

theorem State.pmFinish_keeps {s₀ s : State} (h : Keeps s₀ s) (f : Option Nat) (status : Nat) (result : Nat) :
    Keeps s₀ (s.pmFinish f status result) := by
  unfold State.pmFinish
  with_reducible repeat' first | assumption | apply State.finish_keeps | split

theorem State.pmEvent_keeps {s₀ s : State} (h : Keeps s₀ s) (code : Nat) :
    Keeps s₀ (s.pmEvent code) := by
  unfold State.pmEvent
  with_reducible repeat' first | assumption | apply State.raise_keeps | apply State.event_keeps

theorem State.raiseEnable_keeps {s₀ s : State} (h : Keeps s₀ s) (i : Nat) :
    Keeps s₀ (s.raiseEnable i) := by
  unfold State.raiseEnable
  with_reducible repeat' first | assumption | apply State.emit_keeps | apply State.setPower_keeps

theorem State.raiseFirst_keeps {s₀ s : State} (h : Keeps s₀ s) :
    Keeps s₀ (s.raiseFirst) := by
  unfold State.raiseFirst
  with_reducible repeat' first | assumption | apply State.raiseEnable_keeps | apply State.setPower_keeps

theorem State.beginExit_keeps {s₀ s : State} (h : Keeps s₀ s) :
    Keeps s₀ (s.beginExit) := by
  unfold State.beginExit
  with_reducible repeat' first
    | assumption | apply State.fset_keeps | apply State.trained_keeps | apply State.setPower_keeps
    | apply State.powerOn_keeps | apply State.raiseFirst_keeps | apply keeps_ite
    | (extract_lets +onlyGivenNames x; refine keeps_cut (s₀ := s₀) (x := x) ?_ ?_; rotate_left 1;
        clear_value x; intro; rotate_right 1; dsimp -zeta only [x]; try clear x)
    | (extract_lets +onlyGivenNames x; clear_value x)

theorem State.clearPending_keeps {s₀ s : State} (h : Keeps s₀ s) :
    Keeps s₀ (s.clearPending) := by
  unfold State.clearPending
  with_reducible repeat' first | assumption | apply State.fset_keeps | apply State.setPower_keeps

theorem State.setPending_keeps {s₀ s : State} (h : Keeps s₀ s) (target : Nat) (f : Option Nat) :
    Keeps s₀ (s.setPending target f) := by
  unfold State.setPending
  with_reducible repeat' first
    | assumption | apply State.pmFinish_keeps | apply State.fset_keeps | apply State.setPower_keeps

theorem State.sacnEnd_keeps {s₀ s : State} (h : Keeps s₀ s) :
    Keeps s₀ (s.sacnEnd) := keeps_of_eq h rfl rfl rfl rfl rfl

theorem State.askBlock_keeps {s₀ s : State} (h : Keeps s₀ s) (b : Nat) :
    Keeps s₀ (s.askBlock b) := by
  unfold State.askBlock
  with_reducible repeat' first
    | assumption | apply State.fset_keeps | apply State.sacnEnd_keeps | apply keeps_ite | apply keeps_mk

theorem State.zonesSilent_keeps {s₀ s : State} (h : Keeps s₀ s) :
    Keeps s₀ (s.zonesSilent) := by
  unfold State.zonesSilent
  with_reducible repeat' first | assumption | (intro) | apply State.zoneFail_keeps | apply keeps_foldl

theorem State.beginCommit_keeps {s₀ s : State} (h : Keeps s₀ s) :
    Keeps s₀ (s.beginCommit) := by
  unfold State.beginCommit
  with_reducible repeat' first
    | assumption | apply State.fset_keeps | apply State.pmFinish_keeps | apply State.powerOff_keeps
    | apply State.setPower_keeps | apply keeps_ite

theorem State.askNext_keeps {s₀ s : State} (h : Keeps s₀ s) (after : Nat) :
    Keeps s₀ (s.askNext after) := by
  unfold State.askNext
  with_reducible repeat' first | assumption | apply State.askBlock_keeps | apply State.beginCommit_keeps | split

theorem State.blockAgrees_keeps {s₀ s : State} (h : Keeps s₀ s) :
    Keeps s₀ (s.blockAgrees) := by
  unfold State.blockAgrees
  with_reducible repeat' first
    | assumption | apply State.zonesSilent_keeps | apply State.askNext_keeps | apply State.setPower_keeps
    | apply keeps_ite

theorem State.pmStart_keeps {s₀ s : State} (h : Keeps s₀ s) (target : Nat) (f : Option Nat) :
    Keeps s₀ (s.pmStart target f) := by
  unfold State.pmStart
  with_reducible repeat' first
    | assumption | apply State.pmFinish_keeps | apply State.fset_keeps | apply State.setPower_keeps
    | apply State.beginExit_keeps | apply State.setPending_keeps | apply State.askNext_keeps | apply keeps_ite

theorem State.pmAsk_keeps {s₀ s : State} (h : Keeps s₀ s) (target : Nat) (f : Option Nat) :
    Keeps s₀ (s.pmAsk target f) := by
  unfold State.pmAsk
  with_reducible repeat' first
    | assumption | apply State.pmFinish_keeps | apply State.setPower_keeps | apply State.setPending_keeps
    | apply State.pmStart_keeps | apply keeps_ite

theorem State.takePending_keeps {s₀ s : State} (h : Keeps s₀ s) :
    Keeps s₀ (s.takePending) := by
  unfold State.takePending
  with_reducible repeat' first
    | assumption | apply State.pmStart_keeps | apply State.clearPending_keeps | apply keeps_ite

theorem State.logRefusal_keeps {s₀ s : State} (h : Keeps s₀ s) (block : Nat) (target : Nat) (kind : Nat) :
    Keeps s₀ (s.logRefusal block target kind) := by
  unfold State.logRefusal
  with_reducible repeat' first
    | assumption | (intro) | apply State.setRg_keeps | apply State.fset_keeps | apply keeps_foldl

theorem State.restart_keeps {s₀ s : State} (h : Keeps s₀ s) :
    Keeps s₀ (s.restart) := by
  unfold State.restart
  with_reducible repeat' first | assumption | apply keeps_ite | apply keeps_mk | split

theorem State.rasResume_keeps {s₀ s : State} (h : Keeps s₀ s) :
    Keeps s₀ (s.rasResume) := by
  unfold State.rasResume
  with_reducible repeat' first | assumption | (intro) | apply State.setRo_keeps | apply keeps_foldl

theorem State.endPrepare_keeps {s₀ s : State} (h : Keeps s₀ s) (block kind status : Nat) :
    Keeps s₀ (s.endPrepare block kind status) := by
  unfold State.endPrepare
  with_reducible repeat' first
    | assumption | apply State.logRefusal_keeps | apply State.bumpF_keeps | apply State.pmFinish_keeps
    | apply State.fset_keeps | apply State.restart_keeps | apply State.rasResume_keeps | apply State.pmEvent_keeps
    | apply keeps_ite
    | (extract_lets +onlyGivenNames x; refine keeps_cut (s₀ := s₀) (x := x) ?_ ?_; rotate_left 1;
        clear_value x; intro; rotate_right 1; dsimp -zeta only [x]; try clear x)
    | (extract_lets +onlyGivenNames x; clear_value x)

theorem State.blockRefuses_keeps {s₀ s : State} (h : Keeps s₀ s) (kind : Nat) :
    Keeps s₀ (s.blockRefuses kind) := by
  unfold State.blockRefuses
  with_reducible repeat' first
    | assumption | apply State.takePending_keeps | apply State.endPrepare_keeps | apply keeps_ite

theorem State.dropPending_keeps {s₀ s : State} (h : Keeps s₀ s) :
    Keeps s₀ (s.dropPending) := by
  unfold State.dropPending
  with_reducible repeat' first | assumption | apply State.clearPending_keeps | apply State.pmFinish_keeps

theorem State.abortPrepare_keeps {s₀ s : State} (h : Keeps s₀ s) (block : Nat) :
    Keeps s₀ (s.abortPrepare block) := by
  unfold State.abortPrepare
  with_reducible repeat' first
    | assumption | apply State.dropPending_keeps | apply State.endPrepare_keeps | apply keeps_ite

theorem State.pmAbort_keeps {s₀ s : State} (h : Keeps s₀ s) (f : Option Nat) :
    Keeps s₀ (s.pmAbort f) := by
  unfold State.pmAbort
  with_reducible repeat' first
    | assumption | apply State.pmFinish_keeps | apply State.abortPrepare_keeps | apply keeps_ite
    | (extract_lets +onlyGivenNames x; refine keeps_cut (s₀ := s₀) (x := x) ?_ ?_; rotate_left 1;
        clear_value x; intro; rotate_right 1; dsimp -zeta only [x]; try clear x)
    | (extract_lets +onlyGivenNames x; clear_value x)

theorem State.showCheck_keeps {s₀ s : State} (h : Keeps s₀ s) (kind : Nat) :
    Keeps s₀ (s.showCheck kind) := by
  unfold State.showCheck
  with_reducible repeat' first | assumption | apply State.fset_keeps

theorem State.queueStore_keeps {s₀ s : State} (h : Keeps s₀ s) (k : Nat) :
    Keeps s₀ (s.queueStore k) := by
  unfold State.queueStore
  with_reducible repeat' first | assumption | apply State.setPower_keeps | apply keeps_ite

theorem State.checkKinds_keeps {s₀ s : State} (h : Keeps s₀ s) (l : List Nat) : Keeps s₀ (s.checkKinds l).1 := by
  induction l generalizing s with
  | nil => exact h
  | cons k t ih => exact keeps_ite_fst (ih (State.showCheck_keeps h k)) (State.showCheck_keeps h k)

theorem State.askStore_keeps {s₀ s : State} (h : Keeps s₀ s) (k : Nat) (run : State → State)
    (hr : ∀ t, Keeps s₀ t → Keeps s₀ (run t)) : Keeps s₀ (s.askStore k run) := by
  have h1 := State.checkKinds_keeps h (storeKinds k)
  exact keeps_ite (keeps_ite h (State.bumpF_keeps (State.queueStore_keeps h k) _ _ _))
    (keeps_ite (hr _ (State.setPower_keeps h1 _)) (State.bumpF_keeps (State.queueStore_keeps h1 k) _ _ _))

theorem State.saveNow_keeps {s₀ s : State} (h : Keeps s₀ s) :
    Keeps s₀ (s.saveNow) := keeps_of_eq h rfl rfl rfl rfl rfl

theorem State.saveHours_keeps {s₀ s : State} (h : Keeps s₀ s) :
    Keeps s₀ (s.saveHours) := by
  unfold State.saveHours
  with_reducible repeat' first | assumption | (intro) | apply State.askStore_keeps | apply State.saveNow_keeps

theorem State.loadHours_keeps {s₀ s : State} (h : Keeps s₀ s) :
    Keeps s₀ (s.loadHours) := by
  unfold State.loadHours
  with_reducible repeat' first | assumption | (intro) | apply State.setRg_keeps | apply keeps_foldl

theorem State.thermalRests_keeps {s₀ s : State} (h : Keeps s₀ s) :
    Keeps s₀ (s.thermalRests) := by
  unfold State.thermalRests
  with_reducible repeat' first
    | assumption | apply keeps_mk
    | (extract_lets +onlyGivenNames x; refine keeps_cut (s₀ := s₀) (x := x) ?_ ?_; rotate_left 1;
        clear_value x; intro; rotate_right 1; dsimp -zeta only [x]; try clear x)
    | (extract_lets +onlyGivenNames x; clear_value x)

theorem State.armWakes_keeps {s₀ s : State} (h : Keeps s₀ s) :
    Keeps s₀ (s.armWakes) := by
  unfold State.armWakes
  with_reducible repeat' first | assumption | apply State.setPower_keeps

theorem State.holdWakes_keeps {s₀ s : State} (h : Keeps s₀ s) :
    Keeps s₀ (s.holdWakes) := by
  unfold State.holdWakes
  with_reducible repeat' first | assumption | apply State.fset_keeps | apply keeps_ite

theorem State.sleepCore_keeps {s₀ s : State} (h : Keeps s₀ s) :
    Keeps s₀ (s.sleepCore) := by
  unfold State.sleepCore
  with_reducible repeat' first
    | assumption | apply State.fset_keeps | apply State.pmFinish_keeps | apply State.powerOffs_keeps
    | apply State.thermalRests_keeps | apply State.armWakes_keeps | apply State.dropRails_keeps
    | apply State.saveHours_keeps | apply State.holdWakes_keeps | apply State.setPower_keeps | apply keeps_ite
    | (extract_lets +onlyGivenNames x; refine keeps_cut (s₀ := s₀) (x := x) ?_ ?_; rotate_left 1;
        clear_value x; intro; rotate_right 1; dsimp -zeta only [x]; try clear x)
    | (extract_lets +onlyGivenNames x; clear_value x)

theorem State.wakeActs_keeps {s₀ s : State} (h : Keeps s₀ s) :
    Keeps s₀ (s.wakeActs) := by
  unfold State.wakeActs
  with_reducible repeat' first
    | assumption | apply State.setPending_keeps | apply State.beginExit_keeps | apply keeps_ite | split

theorem State.wake_keeps {s₀ s : State} (h : Keeps s₀ s) (bit : State → State) (hb : Keeps s₀ (bit s)) :
    Keeps s₀ (s.wake bit) :=
  keeps_ite (keeps_ite (State.setPower_keeps (State.fset_keeps hb _ _ _ _) _) (State.wakeActs_keeps hb)) h

theorem State.releaseWakes_keeps {s₀ s : State} (h : Keeps s₀ s) (byEbb : Bool) :
    Keeps s₀ (s.releaseWakes byEbb) := by
  unfold State.releaseWakes
  with_reducible repeat' first
    | assumption | apply State.fset_keeps | apply State.setPower_keeps | apply State.wakeActs_keeps | apply keeps_ite
    | (extract_lets +onlyGivenNames x; refine keeps_cut (s₀ := s₀) (x := x) ?_ ?_; rotate_left 1;
        clear_value x; intro; rotate_right 1; dsimp -zeta only [x]; try clear x)
    | (extract_lets +onlyGivenNames x; clear_value x)

theorem State.alarmFires_keeps {s₀ s : State} (h : Keeps s₀ s) (armed enable bit : RF) (acts : Bool) :
    Keeps s₀ (s.alarmFires armed enable bit acts) := by
  unfold State.alarmFires
  with_reducible repeat' first
    | assumption | (intro) | apply State.fset_keeps | apply State.raise_keeps | apply State.wake_keeps
    | apply keeps_ite
    | (extract_lets +onlyGivenNames x; refine keeps_cut (s₀ := s₀) (x := x) ?_ ?_; rotate_left 1;
        clear_value x; intro; rotate_right 1; dsimp -zeta only [x]; try clear x)
    | (extract_lets +onlyGivenNames x; clear_value x)

theorem State.tenderAlarm_keeps {s₀ s : State} (h : Keeps s₀ s) :
    Keeps s₀ (s.tenderAlarm) := by
  unfold State.tenderAlarm
  with_reducible repeat' first | assumption | apply State.alarmFires_keeps | apply keeps_ite

theorem State.ptpAlarm_keeps {s₀ s : State} (h : Keeps s₀ s) :
    Keeps s₀ (s.ptpAlarm) := by
  unfold State.ptpAlarm
  with_reducible repeat' first
    | assumption | apply State.alarmFires_keeps | apply keeps_ite
    | (extract_lets +onlyGivenNames x; refine keeps_cut (s₀ := s₀) (x := x) ?_ ?_; rotate_left 1;
        clear_value x; intro; rotate_right 1; dsimp -zeta only [x]; try clear x)
    | (extract_lets +onlyGivenNames x; clear_value x) | split

theorem State.watchWake_keeps {s₀ s : State} (h : Keeps s₀ s) (enable bit : RF) :
    Keeps s₀ (s.watchWake enable bit) := by
  unfold State.watchWake
  with_reducible repeat' first
    | assumption | (intro) | apply State.wake_keeps | apply State.fset_keeps | apply keeps_ite

theorem State.tenderPowerOn_keeps {s₀ s : State} (h : Keeps s₀ s) (pgs : BitVec 4) :
    Keeps s₀ (s.tenderPowerOn pgs) := by
  unfold State.tenderPowerOn
  with_reducible repeat' first
    | assumption | apply State.loadHours_keeps | apply State.tenderRegs_keeps | apply State.powerOffs_keeps
    | apply keeps_mk

theorem State.powerGood_keeps {s₀ s : State} (h : Keeps s₀ s) (i : Nat) :
    Keeps s₀ (s.powerGood i) := by
  unfold State.powerGood
  with_reducible repeat' first
    | assumption | apply State.setPower_keeps | apply State.raiseEnable_keeps | apply State.powerOn_keeps
    | apply keeps_ite

theorem State.powerLate_keeps {s₀ s : State} (h : Keeps s₀ s) (i : Nat) :
    Keeps s₀ (s.powerLate i) := by
  unfold State.powerLate
  with_reducible repeat' first
    | assumption | apply State.dropRails_keeps | apply State.bumpF_keeps | apply State.setPower_keeps
    | apply State.fset_keeps | apply State.saveHours_keeps | apply State.armWakes_keeps | apply keeps_ite
    | (extract_lets +onlyGivenNames x; refine keeps_cut (s₀ := s₀) (x := x) ?_ ?_; rotate_left 1;
        clear_value x; intro; rotate_right 1; dsimp -zeta only [x]; try clear x)
    | (extract_lets +onlyGivenNames x; clear_value x)

theorem State.trainingDone_keeps {s₀ s : State} (h : Keeps s₀ s) (good : Bool) :
    Keeps s₀ (s.trainingDone good) := by
  unfold State.trainingDone
  with_reducible repeat' first
    | assumption | apply State.trained_keeps | apply State.setPower_keeps | apply keeps_ite | split

theorem State.setRole_keeps {s₀ s : State} (h : Keeps s₀ s) (r : Nat) :
    Keeps s₀ (s.setRole r) := by
  unfold State.setRole
  with_reducible repeat' first | assumption | apply State.raise_keeps | apply State.fset_keeps

theorem State.siphonDown_keeps {s₀ s : State} (h : Keeps s₀ s) :
    Keeps s₀ (s.siphonDown) := by
  unfold State.siphonDown
  with_reducible repeat' first
    | assumption | apply State.notCurrent_keeps | apply State.report_keeps | apply keeps_ite | apply keeps_mk

end Sys2Proof.Machine
end

