-- ==== Sys2Proof/Laws/Keep6.lean ====
section
/-! SUPPORT. `Keeps` for the functions of Sluice, Live, Thermal, Startup. -/

namespace Sys2Proof.Machine

open Sys2Proof

theorem State.setSluice_keeps {s₀ s : State} (h : Keeps s₀ s) (c : Sluice) :
    Keeps s₀ (s.setSluice c) := keeps_of_eq h rfl rfl rfl rfl rfl

theorem State.random_keeps {s₀ s : State} (h : Keeps s₀ s) (n : Nat) :
    Keeps s₀ (s.random n).2 := by
  unfold State.random
  with_reducible repeat' first | assumption | apply State.fresh_keeps

theorem State.eraseKey_keeps {s₀ s : State} (h : Keeps s₀ s) :
    Keeps s₀ (s.eraseKey) := by
  unfold State.eraseKey
  with_reducible repeat' first
    | assumption | apply State.siphonDown_keeps | apply State.fset_keeps | apply State.setSluice_keeps

theorem State.closeDebug_keeps {s₀ s : State} (h : Keeps s₀ s) :
    Keeps s₀ (s.closeDebug) := by
  unfold State.closeDebug
  with_reducible repeat' first | assumption | apply State.fset_keeps

theorem State.flashWrite_keeps {s₀ s : State} (h : Keeps s₀ s) (a : Nat) (l : List Byte) :
    Keeps s₀ (s.flashWrite a l) := by
  unfold State.flashWrite
  with_reducible repeat' first | assumption | apply State.emit_keeps | apply keeps_mk

theorem State.holdSalt_keeps {s₀ s : State} (h : Keeps s₀ s) :
    Keeps s₀ (s.holdSalt) := by
  unfold State.holdSalt
  with_reducible repeat' first | assumption | apply State.setSluice_keeps

theorem State.burn_keeps {s₀ s : State} (h : Keeps s₀ s) (b : Burn) (hb : s.burnStands b = false) :
    Keeps s₀ (s.burn b) := by
  cases b with
  | owner i v =>
    exact keeps_fuses (State.holdSalt_keeps h) _ ⟨fun _ e => e, fun j e => by rw [BitVec.getLsbD_or]; exact Bool.or_eq_true_iff.2 (.inl e), fun _ => Nat.le_refl _⟩
  | life i r =>
    exact keeps_fuses (State.holdSalt_keeps h) _ ⟨fun j e => by rw [BitVec.getLsbD_or]; exact Bool.or_eq_true_iff.2 (.inl e), fun _ e => e, fun _ => Nat.le_refl _⟩
  | roll k w v =>
    refine keeps_fuses h _ ⟨fun _ e => e, fun _ e => e, mget_roll _ _ _ ?_⟩
    have : ¬ rollStep w v ≤ s.rollback k := by simpa [State.burnStands] using hb
    exact Nat.le_of_lt (Nat.lt_of_not_le this)
  | flash a l => exact State.flashWrite_keeps h a l

theorem State.runBurns_keeps {s₀ s : State} (h : Keeps s₀ s) (l : List Burn) : Keeps s₀ (s.runBurns l) := by
  induction l generalizing s with
  | nil => exact State.setSluice_keeps (State.setPower_keeps h _) _
  | cons b t ih =>
    simp only [State.runBurns]
    have h1 := State.checkKinds_keeps h (burnKinds b)
    have h2 := State.setSluice_keeps h { s.sluice with burns := b :: t }
    by_cases hb : s.burnStands b = true
    · rw [if_pos hb]; exact ih h
    rw [if_neg hb]
    have hb1 : (s.checkKinds (burnKinds b)).1.burnStands b = false := by
      rw [checkKinds_burnStands]; simpa using hb
    exact keeps_ite (State.setSluice_keeps h _) (keeps_ite
      (keeps_ite h2 (State.bumpF_keeps (State.queueStore_keeps h2 _) _ _ _))
      (keeps_ite (ih (State.burn_keeps h1 b hb1))
        (State.bumpF_keeps (State.queueStore_keeps (State.setSluice_keeps h1 _) _) _ _ _)))

theorem State.finishLife_keeps {s₀ s : State} (h : Keeps s₀ s) :
    Keeps s₀ (s.finishLife) := by
  unfold State.finishLife
  with_reducible repeat' first
    | assumption | (intro) | apply State.runBurns_keeps | apply State.setSluice_keeps | apply keeps_ite
    | (extract_lets +onlyGivenNames x; refine keeps_cut (s₀ := s₀) (x := x) ?_ ?_; rotate_left 1;
        clear_value x; intro; rotate_right 1; dsimp -zeta only [x]; try clear x)
    | (extract_lets +onlyGivenNames x; clear_value x)

theorem State.sigChecked_keeps {s₀ s : State} (h : Keeps s₀ s) (ok : Bool) :
    Keeps s₀ (s.sigChecked ok) := by
  unfold State.sigChecked
  with_reducible repeat' first | assumption | apply State.setPower_keeps | apply State.bumpF_keeps | apply keeps_ite

theorem State.withSig_keeps {s₀ s : State} (h : Keeps s₀ s) (block : Option (List Byte)) (tag : String)
    (auth : List Byte → Bool) (f : State → State × Nat) (hf : ∀ t, Keeps s₀ t → Keeps s₀ (f t).1) :
    Keeps s₀ (s.withSig block tag auth f).1 := by
  unfold State.withSig
  refine keeps_ite_fst h ?_
  split
  · exact h
  · have h1 := fun ok => State.sigChecked_keeps (State.setSluice_keeps h { s.sluice with challenge := false }) ok
    exact keeps_ite_fst (hf _ (h1 _)) (h1 _)

theorem State.opClaim_keeps {s₀ s : State} (h : Keeps s₀ s) (block : Option (List Byte)) :
    Keeps s₀ (s.opClaim block).1 := by
  unfold State.opClaim
  with_reducible repeat' first
    | assumption | apply State.closeDebug_keeps | apply State.setSluice_keeps | apply keeps_ite_fst | apply keeps_ite
    | split

theorem State.opReturn_keeps {s₀ s : State} (h : Keeps s₀ s) (block : Option (List Byte)) :
    Keeps s₀ (s.opReturn block).1 := by
  unfold State.opReturn
  with_reducible repeat' first
    | assumption | (intro) | apply State.withSig_keeps | apply State.eraseKey_keeps | apply State.closeDebug_keeps
    | apply State.setSluice_keeps | apply keeps_ite_fst

theorem State.toVoid_keeps {s₀ s : State} (h : Keeps s₀ s) :
    Keeps s₀ (s.toVoid).1 := by
  unfold State.toVoid
  with_reducible repeat' first
    | assumption | apply State.eraseKey_keeps | apply State.closeDebug_keeps | apply State.setSluice_keeps

theorem State.opVoid_keeps {s₀ s : State} (h : Keeps s₀ s) (block : Option (List Byte)) :
    Keeps s₀ (s.opVoid block).1 := by
  unfold State.opVoid
  with_reducible repeat' first
    | assumption | (intro) | apply State.toVoid_keeps | apply State.withSig_keeps | apply keeps_ite_fst

theorem State.setChallenge_keeps {s₀ s : State} (h : Keeps s₀ s) (b : List Byte) :
    Keeps s₀ (s.setChallenge b) := by
  unfold State.setChallenge
  with_reducible repeat' first | assumption | (intro) | apply State.setRg_keeps | apply keeps_foldl

theorem State.opChallenge_keeps {s₀ s : State} (h : Keeps s₀ s) :
    Keeps s₀ (s.opChallenge).1 := by
  unfold State.opChallenge
  with_reducible repeat' first
    | assumption | apply State.random_keeps | apply State.setChallenge_keeps | apply State.setSluice_keeps
    | apply keeps_ite | apply keeps_ite_fst
    | (extract_lets +onlyGivenNames x; refine keeps_cut (s₀ := s₀) (x := x) ?_ ?_; rotate_left 1;
        clear_value x; intro; rotate_right 1; dsimp -zeta only [x]; try clear x)
    | (extract_lets +onlyGivenNames x; clear_value x) | refine keeps_fst (by assumption) ?_
    | refine keeps_snd (by assumption) ?_ | split

theorem State.clearRegions_keeps {s₀ s : State} (h : Keeps s₀ s) : Keeps s₀ s.clearRegions :=
  keeps_of_eq (State.setReservoir_keeps h _ (mwf_filter _)) rfl rfl rfl rfl rfl

theorem State.opDebugOpen_keeps {s₀ s : State} (h : Keeps s₀ s) (arg : Nat) (block : Option (List Byte)) :
    Keeps s₀ (s.opDebugOpen arg block).1 := by
  unfold State.opDebugOpen
  with_reducible repeat' first
    | assumption | (intro) | apply State.fset_keeps | apply State.withSig_keeps | apply State.clearRegions_keeps
    | apply State.eraseKey_keeps | apply keeps_ite_fst

theorem State.opKeyInstall_keeps {s₀ s : State} (h : Keeps s₀ s) (fails : List (Nat × Nat)) (space : Nat)
    (addr : Nat) (block : Option (List Byte)) :
    Keeps s₀ (s.opKeyInstall fails space addr block).1 := by
  unfold State.opKeyInstall
  with_reducible repeat' first
    | assumption | apply State.sigChecked_keeps | apply State.random_keeps | apply State.dmaWrite_keeps
    | apply keeps_ite_fst | apply keeps_ite | refine keeps_snd (by assumption) ?_
    | refine keeps_some (by assumption) ?_ | split

theorem State.loadBlob_keeps {s₀ s : State} (h : Keeps s₀ s) (b : List Byte) :
    Keeps s₀ (s.loadBlob b).1 := by
  unfold State.loadBlob
  with_reducible repeat' first | assumption | apply State.fset_keeps | apply State.setSluice_keeps | split

theorem State.opKeyLoad_keeps {s₀ s : State} (h : Keeps s₀ s) (block : Option (List Byte)) :
    Keeps s₀ (s.opKeyLoad block).1 := by
  unfold State.opKeyLoad
  with_reducible repeat' first
    | assumption | apply State.loadBlob_keeps | apply keeps_ite_fst | refine keeps_fst (by assumption) ?_ | split

theorem State.openChunks_keeps {s₀ s : State} (h : Keeps s₀ s) (host : HostView) (key hdr : List Byte)
    (space src dst id ver len n j : Nat) : Keeps s₀ (s.openChunks host key hdr space src dst id ver len n j).1 := by
  induction n generalizing s j with
  | zero => exact h
  | succ n ih =>
    simp only [State.openChunks]
    split
    · exact h
    · split
      · exact State.bumpF_keeps h _ _ _
      · split
        · exact h
        · next e => exact ih (keeps_some e (State.dmaWrite_keeps h _ _ _ _)) _

theorem State.opPackage_keeps {s₀ s : State} (h : Keeps s₀ s) (sealing : Bool) (host : HostView) (block : Option
    (List Byte)) :
    Keeps s₀ (s.opPackage sealing host block).1 := by
  unfold State.opPackage
  with_reducible repeat' first
    | assumption | apply State.setSluice_keeps | apply State.dmaWrite_keeps | apply State.openChunks_keeps
    | apply keeps_ite_fst | apply keeps_ite | refine keeps_fst (by assumption) ?_
    | refine keeps_some (by assumption) ?_ | split

theorem State.opAttest_keeps {s₀ s : State} (h : Keeps s₀ s) (fails : List (Nat × Nat)) (space : Nat) (addr : Nat)
    (block : Option (List Byte)) :
    Keeps s₀ (s.opAttest fails space addr block).1 := by
  unfold State.opAttest
  with_reducible repeat' first
    | assumption | apply State.random_keeps | apply State.dmaWrite_keeps | apply keeps_ite_fst | apply keeps_ite
    | (extract_lets +onlyGivenNames x; clear_value x) | refine keeps_snd (by assumption) ?_
    | refine keeps_some (by assumption) ?_ | split

theorem State.opAdvance_keeps {s₀ s : State} (h : Keeps s₀ s) (arg : Nat) :
    Keeps s₀ (s.opAdvance arg).1 := by
  unfold State.opAdvance
  with_reducible repeat' first | assumption | apply State.setSluice_keeps | apply keeps_ite_fst

theorem State.slcRun_keeps {s₀ s : State} (h : Keeps s₀ s) (host : HostView) (op : Nat) (arg : Nat) :
    Keeps s₀ (s.slcRun host op arg).1 := by
  unfold State.slcRun
  with_reducible repeat' first
    | assumption | apply State.opClaim_keeps | apply State.opReturn_keeps | apply State.opVoid_keeps
    | apply State.opChallenge_keeps | apply State.opDebugOpen_keeps | apply State.closeDebug_keeps
    | apply State.opKeyInstall_keeps | apply State.opKeyLoad_keeps | apply State.eraseKey_keeps
    | apply State.opPackage_keeps | apply State.opAttest_keeps | apply State.opAdvance_keeps | apply keeps_ite_fst

theorem State.slcOpWrite_keeps {s₀ s : State} (h : Keeps s₀ s) (req : Requester) (host : HostView) (v : Word) :
    Keeps s₀ (s.slcOpWrite req host v) := by
  unfold State.slcOpWrite
  with_reducible repeat' first
    | assumption | apply State.accessErr_keeps | apply State.setSluice_keeps | apply State.fset_keeps
    | apply State.slcRun_keeps | apply State.runBurns_keeps | apply keeps_ite

theorem State.slcEnd_keeps {s₀ s : State} (h : Keeps s₀ s) (r : Nat) :
    Keeps s₀ (s.slcEnd r) := by
  unfold State.slcEnd
  with_reducible repeat' first
    | assumption | apply State.event_keeps | apply State.raise_keeps | apply State.setSluice_keeps
    | apply State.fset_keeps

theorem State.slcComplete_keeps {s₀ s : State} (h : Keeps s₀ s) :
    Keeps s₀ (s.slcComplete) := by
  unfold State.slcComplete
  with_reducible repeat' first | assumption | apply State.slcEnd_keeps | apply keeps_ite

theorem State.slcAbort_keeps {s₀ s : State} (h : Keeps s₀ s) :
    Keeps s₀ (s.slcAbort) := by
  unfold State.slcAbort
  with_reducible repeat' first | assumption | apply State.slcEnd_keeps | apply keeps_ite

theorem State.slcRandom_keeps {s₀ s : State} (h : Keeps s₀ s) :
    Keeps s₀ (s.slcRandom).2 := by
  unfold State.slcRandom
  with_reducible repeat' first | assumption | apply State.random_keeps | apply keeps_ite_snd

theorem State.violation_keeps {s₀ s : State} (h : Keeps s₀ s) (cause : Nat) :
    Keeps s₀ (s.violation cause) := by
  unfold State.violation
  with_reducible repeat' first
    | assumption | apply State.fset_keeps | apply State.bumpF_keeps | apply State.setPower_keeps
    | apply State.sluiceReset_keeps

theorem State.setLive_keeps {s₀ s : State} (h : Keeps s₀ s) (v : Live) :
    Keeps s₀ (s.setLive v) := keeps_of_eq h rfl rfl rfl rfl rfl

theorem State.reachMark_keeps {s₀ s : State} (h : Keeps s₀ s) (f : RF) (i : Nat) (on : Bool) (code : Nat) :
    Keeps s₀ (s.reachMark f i on code) := by
  unfold State.reachMark
  with_reducible repeat' first | assumption | apply State.eventOf_keeps | apply State.fset_keeps

theorem State.clusterEnter_keeps {s₀ s : State} (h : Keeps s₀ s) (c : Nat) :
    Keeps s₀ (s.clusterEnter c) := by
  unfold State.clusterEnter
  with_reducible repeat' first
    | assumption | (intro) | apply State.setReadyList_keeps | apply keeps_foldl | apply keeps_mk

theorem State.clusterLeave_keeps {s₀ s : State} (h : Keeps s₀ s) (c : Nat) :
    Keeps s₀ (s.clusterLeave c) := by
  unfold State.clusterLeave
  with_reducible repeat' first
    | assumption | (intro) | apply State.setCore_keeps | apply State.reachMark_keeps | apply keeps_foldl
    | apply keeps_mk

theorem State.loadCode_keeps {s₀ s : State} (h : Keeps s₀ s) (c : Nat) (img : List Byte) :
    Keeps s₀ (s.loadCode c img) :=
  keeps_pads h _ (foldl_wf _ _ (fun _ _ => memWrite_wf _ _) _)

theorem State.switchCluster_keeps {s₀ s : State} (h : Keeps s₀ s) (c : Nat) (img : List Byte) :
    Keeps s₀ (s.switchCluster c img) := by
  unfold State.switchCluster
  with_reducible repeat' first
    | assumption | apply State.loadCode_keeps | apply State.powerOn_keeps | apply State.powerOff_keeps
    | apply State.coreRunWrite_keeps

theorem State.reachDone_keeps {s₀ s : State} (h : Keeps s₀ s) :
    Keeps s₀ (s.reachDone) := by
  unfold State.reachDone
  with_reducible repeat' first | assumption | apply State.finish_keeps | apply State.setLive_keeps | split

theorem State.handSwitch_keeps {s₀ s : State} (h : Keeps s₀ s) (c : Nat) :
    Keeps s₀ (s.handSwitch c) := by
  unfold State.handSwitch
  with_reducible repeat' first
    | assumption | apply State.switchCluster_keeps | apply State.setLive_keeps | apply keeps_ite

theorem State.clusterReport_keeps {s₀ s : State} (h : Keeps s₀ s) (c : Nat) :
    Keeps s₀ (s.clusterReport c) := by
  unfold State.clusterReport
  with_reducible repeat' first
    | assumption | apply State.handSwitch_keeps | apply State.reachDone_keeps | apply State.reachMark_keeps
    | apply keeps_ite

theorem State.clusterReports_keeps {s₀ s : State} (h : Keeps s₀ s) :
    Keeps s₀ (s.clusterReports) := by
  unfold State.clusterReports
  with_reducible repeat' first | assumption | apply State.clusterReport_keeps

theorem State.macEnter_keeps {s₀ s : State} (h : Keeps s₀ s) (m : Nat) :
    Keeps s₀ (s.macEnter m) := by
  unfold State.macEnter
  with_reducible repeat' first
    | assumption | (intro) | apply State.reachMark_keeps | apply State.fset_keeps | apply State.finish_keeps
    | apply State.rxFree_keeps | apply State.setMac_keeps | apply State.weirs_keeps | apply keeps_foldl
    | (extract_lets +onlyGivenNames x; refine keeps_cut (s₀ := s₀) (x := x) ?_ ?_; rotate_left 1;
        clear_value x; intro; rotate_right 1; dsimp -zeta only [x]; try clear x)
    | (extract_lets +onlyGivenNames x; clear_value x)

theorem State.macLeave_keeps {s₀ s : State} (h : Keeps s₀ s) (m : Nat) :
    Keeps s₀ (s.macLeave m) := by
  unfold State.macLeave
  with_reducible repeat' first | assumption | apply State.fset_keeps | apply State.reachMark_keeps

theorem State.macEnds_keeps {s₀ s : State} (h : Keeps s₀ s) :
    Keeps s₀ (s.macEnds) := by
  unfold State.macEnds
  with_reducible repeat' first
    | assumption | (intro) | apply State.setLive_keeps | apply State.finish_keeps | apply keeps_ite
    | (extract_lets +onlyGivenNames x; refine keeps_cut (s₀ := s₀) (x := x) ?_ ?_; rotate_left 1;
        clear_value x; intro; rotate_right 1; dsimp -zeta only [x]; try clear x)
    | (extract_lets +onlyGivenNames x; clear_value x) | apply keeps_foldl | split

theorem State.updEnd_keeps {s₀ s : State} (h : Keeps s₀ s) (st status result : Nat) :
    Keeps s₀ (s.updEnd st status result) := by
  unfold State.updEnd
  with_reducible repeat' first
    | assumption | (intro) | apply State.fset_keeps | apply State.setLive_keeps | apply State.finish_keeps
    | (extract_lets +onlyGivenNames x; refine keeps_cut (s₀ := s₀) (x := x) ?_ ?_; rotate_left 1;
        clear_value x; intro; rotate_right 1; dsimp -zeta only [x]; try clear x)
    | (extract_lets +onlyGivenNames x; clear_value x) | split

theorem State.eraseSector_keeps {s₀ s : State} (h : Keeps s₀ s) :
    Keeps s₀ (s.eraseSector) := by
  unfold State.eraseSector
  with_reducible repeat' first | assumption | (intro) | apply State.askStore_keeps | apply State.setLive_keeps

theorem State.writeFrom_keeps {s₀ s : State} (h : Keeps s₀ s) (k : Nat) :
    Keeps s₀ (s.writeFrom k) := by
  unfold State.writeFrom
  with_reducible repeat' first
    | assumption | (intro) | apply State.setLive_keeps | apply State.fset_keeps | apply State.eraseSector_keeps
    | apply State.updEnd_keeps | apply State.raise_keeps
    | (extract_lets +onlyGivenNames x; refine keeps_cut (s₀ := s₀) (x := x) ?_ ?_; rotate_left 1;
        clear_value x; intro; rotate_right 1; dsimp -zeta only [x]; try clear x)
    | (extract_lets +onlyGivenNames x; clear_value x) | split

theorem State.writeStart_keeps {s₀ s : State} (h : Keeps s₀ s) :
    Keeps s₀ (s.writeStart) := by
  unfold State.writeStart
  with_reducible repeat' first
    | assumption | apply State.fset_keeps | apply State.writeFrom_keeps | apply State.setLive_keeps
    | apply State.updEnd_keeps | apply keeps_ite

theorem State.askPages_keeps {s₀ s : State} (h : Keeps s₀ s) :
    Keeps s₀ (s.askPages) := by
  unfold State.askPages
  with_reducible repeat' first | assumption | (intro) | apply State.askStore_keeps | apply State.setLive_keeps

theorem State.sectorWritten_keeps {s₀ s : State} (h : Keeps s₀ s) (good : Bool) :
    Keeps s₀ (s.sectorWritten good) := by
  unfold State.sectorWritten
  with_reducible repeat' first
    | assumption | apply State.flashWrite_keeps | apply State.writeFrom_keeps | apply State.updEnd_keeps
    | apply State.report_keeps | apply State.setLive_keeps | apply State.bumpF_keeps | apply State.eraseSector_keeps
    | apply keeps_ite | apply keeps_mk
    | (extract_lets +onlyGivenNames x; refine keeps_cut (s₀ := s₀) (x := x) ?_ ?_; rotate_left 1;
        clear_value x; intro; rotate_right 1; dsimp -zeta only [x]; try clear x)
    | (extract_lets +onlyGivenNames x; clear_value x)

theorem State.sectorDone_keeps {s₀ s : State} (h : Keeps s₀ s) (good : Bool) :
    Keeps s₀ (s.sectorDone good) := by
  unfold State.sectorDone
  with_reducible repeat' first
    | assumption | apply State.askPages_keeps | apply State.sectorWritten_keeps | apply keeps_ite
    | (extract_lets +onlyGivenNames x; refine keeps_cut (s₀ := s₀) (x := x) ?_ ?_; rotate_left 1;
        clear_value x; intro; rotate_right 1; dsimp -zeta only [x]; try clear x)
    | (extract_lets +onlyGivenNames x; clear_value x) | split

theorem State.cutErase_keeps {s₀ s : State} (h : Keeps s₀ s) :
    Keeps s₀ (s.cutErase) := by
  unfold State.cutErase
  with_reducible repeat' first
    | assumption | apply keeps_ite | apply keeps_mk
    | (extract_lets +onlyGivenNames x; refine keeps_cut (s₀ := s₀) (x := x) ?_ ?_; rotate_left 1;
        clear_value x; intro; rotate_right 1; dsimp -zeta only [x]; try clear x)
    | (extract_lets +onlyGivenNames x; clear_value x)

theorem State.chunkStore_keeps {s₀ s : State} (h : Keeps s₀ s) (host : HostView) (f : Flight) :
    Keeps s₀ (s.chunkStore host f) := by
  unfold State.chunkStore
  with_reducible repeat' first
    | assumption | apply State.finish_keeps | apply State.setReservoir_keeps | apply State.fset_keeps
    | apply State.setFlight_keeps | apply State.setLive_keeps | apply keeps_ite | exact memWrite_wf _ _ | split

theorem State.verifySlot_keeps {s₀ s : State} (h : Keeps s₀ s) (k : Nat) :
    Keeps s₀ (s.verifySlot k).1 := by
  unfold State.verifySlot
  with_reducible repeat' first
    | assumption | apply State.fset_keeps | apply State.bumpF_keeps | apply keeps_ite_fst | apply keeps_ite

theorem State.install_keeps {s₀ s : State} (h : Keeps s₀ s) (k : Nat) :
    Keeps s₀ (s.install k) := by
  unfold State.install
  with_reducible repeat' first
    | assumption | apply State.setLive_keeps | apply State.writeStart_keeps | apply State.updEnd_keeps
    | apply State.fset_keeps | apply keeps_ite

theorem State.chunkDone_keeps {s₀ s : State} (h : Keeps s₀ s) (f : Flight) :
    Keeps s₀ (s.chunkDone f) := by
  unfold State.chunkDone
  with_reducible repeat' first
    | assumption | apply State.finish_keeps | apply State.verifySlot_keeps | apply State.install_keeps
    | apply State.updEnd_keeps | apply keeps_ite

theorem State.transferEnds_keeps {s₀ s : State} (h : Keeps s₀ s) (id : Nat) :
    Keeps s₀ (s.transferEnds id) := by
  unfold State.transferEnds
  with_reducible repeat' first
    | assumption | apply State.chunkDone_keeps | apply State.transferDone_keeps | apply keeps_ite | split

theorem State.updAbort_keeps {s₀ s : State} (h : Keeps s₀ s) (req : Requester) :
    Keeps s₀ (s.updAbort req) := by
  unfold State.updAbort
  with_reducible repeat' first | assumption | apply State.updEnd_keeps | apply State.accessErr_keeps | apply keeps_ite

theorem State.handover_keeps {s₀ s : State} (h : Keeps s₀ s) :
    Keeps s₀ (s.handover) := by
  unfold State.handover
  with_reducible repeat' first
    | assumption | apply State.clusterEnter_keeps | apply State.setLive_keeps | apply State.clusterLeave_keeps
    | apply State.fset_keeps | apply State.writeStart_keeps | apply State.setPower_keeps | apply keeps_ite

theorem State.rowRepair_keeps {s₀ s : State} (h : Keeps s₀ s) (addr : Nat) :
    Keeps s₀ (s.rowRepair addr) := by
  unfold State.rowRepair
  with_reducible repeat' first
    | assumption | apply State.fset_keeps | apply State.bumpF_keeps | apply State.setLive_keeps
    | apply State.report_keeps | apply keeps_ite

theorem State.reapplyRepairs_keeps {s₀ s : State} (h : Keeps s₀ s) :
    Keeps s₀ (s.reapplyRepairs) := by
  unfold State.reapplyRepairs
  with_reducible repeat' first
    | assumption | (intro) | apply State.fset_keeps | apply State.setLive_keeps | apply keeps_foldl

theorem State.setThermal_keeps {s₀ s : State} (h : Keeps s₀ s) (t : Thermal) :
    Keeps s₀ (s.setThermal t) := keeps_of_eq h rfl rfl rfl rfl rfl

theorem State.showSample_keeps {s₀ s : State} (h : Keeps s₀ s) (temps : List (BitVec 16)) :
    Keeps s₀ (s.showSample temps) := by
  unfold State.showSample
  with_reducible repeat' first
    | assumption | (intro) | apply State.fset_keeps | apply State.setRg_keeps | apply keeps_ite | apply keeps_foldl

theorem State.farOne_keeps {s₀ s : State} (h : Keeps s₀ s) (k : Nat) :
    Keeps s₀ (s.farOne k) := by
  unfold State.farOne
  with_reducible repeat' first
    | assumption | (intro) | apply State.setThermal_keeps | apply State.fset_keeps | apply State.bumpF_keeps
    | apply State.report_keeps | apply keeps_ite
    | (extract_lets +onlyGivenNames x; refine keeps_cut (s₀ := s₀) (x := x) ?_ ?_; rotate_left 1;
        clear_value x; intro; rotate_right 1; dsimp -zeta only [x]; try clear x)
    | (extract_lets +onlyGivenNames x; clear_value x)

theorem State.thEvent_keeps {s₀ s : State} (h : Keeps s₀ s) (cls : Nat) (k : Nat) (code : Nat) :
    Keeps s₀ (s.thEvent cls k code) := by
  unfold State.thEvent
  with_reducible repeat' first
    | assumption | apply State.eventOf_keeps | apply State.raise_keeps | apply State.report_keeps

theorem State.warnStep_keeps {s₀ s : State} (h : Keeps s₀ s) :
    Keeps s₀ (s.warnStep) := by
  unfold State.warnStep
  with_reducible repeat' first
    | assumption | (intro) | apply State.setThermal_keeps | apply State.fset_keeps | apply State.bumpF_keeps
    | apply State.thEvent_keeps | apply keeps_ite
    | (extract_lets +onlyGivenNames x; refine keeps_cut (s₀ := s₀) (x := x) ?_ ?_; rotate_left 1;
        clear_value x; intro; rotate_right 1; dsimp -zeta only [x]; try clear x)
    | (extract_lets +onlyGivenNames x; clear_value x) | split

theorem State.lowStep_keeps {s₀ s : State} (h : Keeps s₀ s) :
    Keeps s₀ (s.lowStep) := by
  unfold State.lowStep
  with_reducible repeat' first
    | assumption | (intro) | apply State.setThermal_keeps | apply State.fset_keeps | apply State.thEvent_keeps
    | apply keeps_ite
    | (extract_lets +onlyGivenNames x; refine keeps_cut (s₀ := s₀) (x := x) ?_ ?_; rotate_left 1;
        clear_value x; intro; rotate_right 1; dsimp -zeta only [x]; try clear x)
    | (extract_lets +onlyGivenNames x; clear_value x) | split

theorem State.dropRequests_keeps {s₀ s : State} (h : Keeps s₀ s) :
    Keeps s₀ (s.dropRequests) := by
  unfold State.dropRequests
  with_reducible repeat' first
    | assumption | apply State.dropPending_keeps | apply State.abortPrepare_keeps | apply State.pmFinish_keeps
    | apply State.setPower_keeps

theorem State.stopBegin_keeps {s₀ s : State} (h : Keeps s₀ s) (k : Nat) :
    Keeps s₀ (s.stopBegin k) := by
  unfold State.stopBegin
  with_reducible repeat' first
    | assumption | apply State.fset_keeps | apply State.report_keeps | apply State.raise_keeps
    | apply State.bumpF_keeps | apply State.setRg_keeps | apply State.dropRequests_keeps | apply State.cutErase_keeps
    | apply State.setClock_keeps | apply State.setPower_keeps | apply keeps_mk
    | (extract_lets +onlyGivenNames x; refine keeps_cut (s₀ := s₀) (x := x) ?_ ?_; rotate_left 1;
        clear_value x; intro; rotate_right 1; dsimp -zeta only [x]; try clear x)
    | (extract_lets +onlyGivenNames x; clear_value x)

theorem State.stopCommit_keeps {s₀ s : State} (h : Keeps s₀ s) :
    Keeps s₀ (s.stopCommit) := by
  unfold State.stopCommit
  with_reducible repeat' first
    | assumption | apply State.fset_keeps | apply State.slcAbort_keeps | apply State.powerOff_keeps | apply keeps_ite
    | apply keeps_mk
    | (extract_lets +onlyGivenNames x; refine keeps_cut (s₀ := s₀) (x := x) ?_ ?_; rotate_left 1;
        clear_value x; intro; rotate_right 1; dsimp -zeta only [x]; try clear x)
    | (extract_lets +onlyGivenNames x; clear_value x)

theorem State.fallSilent_keeps {s₀ s : State} (h : Keeps s₀ s) :
    Keeps s₀ (s.fallSilent) := by
  unfold State.fallSilent
  with_reducible repeat' first
    | assumption | apply State.emit_keeps | apply keeps_ite | apply keeps_mk
    | (extract_lets +onlyGivenNames x; refine keeps_cut (s₀ := s₀) (x := x) ?_ ?_; rotate_left 1;
        clear_value x; intro; rotate_right 1; dsimp -zeta only [x]; try clear x)
    | (extract_lets +onlyGivenNames x; clear_value x)

theorem State.orderlyStop_keeps {s₀ s : State} (h : Keeps s₀ s) (k : Nat) :
    Keeps s₀ (s.orderlyStop k) := by
  unfold State.orderlyStop
  with_reducible repeat' first
    | assumption | apply State.stopBegin_keeps | apply State.setPower_keeps | apply State.stopCommit_keeps
    | apply State.fset_keeps | apply State.fallSilent_keeps | apply keeps_ite | apply keeps_mk
    | (extract_lets +onlyGivenNames x; refine keeps_cut (s₀ := s₀) (x := x) ?_ ?_; rotate_left 1;
        clear_value x; intro; rotate_right 1; dsimp -zeta only [x]; try clear x)
    | (extract_lets +onlyGivenNames x; clear_value x)

theorem State.critStep_keeps {s₀ s : State} (h : Keeps s₀ s) :
    Keeps s₀ (s.critStep) := by
  unfold State.critStep
  with_reducible repeat' first
    | assumption | (intro) | apply State.setThermal_keeps | apply State.fset_keeps | apply State.orderlyStop_keeps
    | apply keeps_ite
    | (extract_lets +onlyGivenNames x; refine keeps_cut (s₀ := s₀) (x := x) ?_ ?_; rotate_left 1;
        clear_value x; intro; rotate_right 1; dsimp -zeta only [x]; try clear x)
    | (extract_lets +onlyGivenNames x; clear_value x) | split

theorem State.hourTick_keeps {s₀ s : State} (h : Keeps s₀ s) (key : Nat) (off : Nat) :
    Keeps s₀ (s.hourTick key off) := by
  unfold State.hourTick
  with_reducible repeat' first | assumption | apply State.setRg_keeps | apply keeps_ite | apply keeps_mk

theorem State.hourStep_keeps {s₀ s : State} (h : Keeps s₀ s) :
    Keeps s₀ (s.hourStep) := by
  unfold State.hourStep
  with_reducible repeat' first | assumption | apply State.hourTick_keeps | apply keeps_ite | split

theorem State.heatStep_keeps {s₀ s : State} (h : Keeps s₀ s) :
    Keeps s₀ (s.heatStep) := by
  unfold State.heatStep
  with_reducible repeat' first
    | assumption | apply State.setRg_keeps | apply State.fset_keeps | apply State.setPower_keeps | apply keeps_ite
    | split

theorem State.heatTimeout_keeps {s₀ s : State} (h : Keeps s₀ s) :
    Keeps s₀ (s.heatTimeout) := by
  unfold State.heatTimeout
  with_reducible repeat' first
    | assumption | apply State.fset_keeps | apply State.dropRails_keeps | apply State.setPower_keeps | apply keeps_ite
    | split

theorem State.setCalUnit_keeps {s₀ s : State} (h : Keeps s₀ s) (u : Nat) (v : CalUnit) :
    Keeps s₀ (s.setCalUnit u v) := by
  unfold State.setCalUnit
  with_reducible repeat' first | assumption | apply State.setThermal_keeps

theorem State.makeDue_keeps {s₀ s : State} (h : Keeps s₀ s) (u : Nat) :
    Keeps s₀ (s.makeDue u) := by
  unfold State.makeDue
  with_reducible repeat' first | assumption | apply State.setCalUnit_keeps | apply State.fset_keeps | apply keeps_ite

theorem State.dueStep_keeps {s₀ s : State} (h : Keeps s₀ s) :
    Keeps s₀ (s.dueStep) := by
  unfold State.dueStep
  with_reducible repeat' first
    | assumption | (intro) | apply State.showDue_keeps | apply State.makeDue_keeps | apply keeps_ite
    | apply keeps_foldl

theorem State.calCount_keeps {s₀ s : State} (h : Keeps s₀ s) :
    Keeps s₀ (s.calCount) := by
  unfold State.calCount
  with_reducible repeat' first
    | assumption | apply State.fset_keeps | apply State.setRg_keeps | apply State.bumpF_keeps

theorem State.calPort_keeps {s₀ s : State} (h : Keeps s₀ s) (p : Nat) (g : List Nat) :
    Keeps s₀ (s.calPort p g) := by
  unfold State.calPort
  with_reducible repeat' first
    | assumption | apply State.report_keeps | apply State.fset_keeps | apply State.setRg_keeps
    | apply State.bumpF_keeps | apply keeps_ite

theorem State.calRun_keeps {s₀ s : State} (h : Keeps s₀ s) (u : Nat) (g : List Nat) :
    Keeps s₀ (s.calRun u g) := by
  unfold State.calRun
  with_reducible repeat' first
    | assumption | apply State.calCount_keeps | apply State.fresh_keeps | apply State.setCalUnit_keeps
    | apply State.calPort_keeps | apply State.showDue_keeps | apply keeps_ite
    | (extract_lets +onlyGivenNames x; refine keeps_cut (s₀ := s₀) (x := x) ?_ ?_; rotate_left 1;
        clear_value x; intro; rotate_right 1; dsimp -zeta only [x]; try clear x)
    | (extract_lets +onlyGivenNames x; clear_value x) | refine keeps_fst (by assumption) ?_
    | refine keeps_snd (by assumption) ?_ | split

theorem State.calRotate_keeps {s₀ s : State} (h : Keeps s₀ s) :
    Keeps s₀ (s.calRotate) := by
  unfold State.calRotate
  with_reducible repeat' first
    | assumption | apply State.setThermal_keeps | apply State.makeDue_keeps | apply State.showDue_keeps
    | apply keeps_ite
    | (extract_lets +onlyGivenNames x; refine keeps_cut (s₀ := s₀) (x := x) ?_ ?_; rotate_left 1;
        clear_value x; intro; rotate_right 1; dsimp -zeta only [x]; try clear x)
    | (extract_lets +onlyGivenNames x; clear_value x)

theorem State.calMiss_keeps {s₀ s : State} (h : Keeps s₀ s) (u : Nat) :
    Keeps s₀ (s.calMiss u) := by
  unfold State.calMiss
  with_reducible repeat' first
    | assumption | apply State.setCalUnit_keeps | apply State.bumpF_keeps | apply State.report_keeps | apply keeps_ite
    | (extract_lets +onlyGivenNames x; refine keeps_cut (s₀ := s₀) (x := x) ?_ ?_; rotate_left 1;
        clear_value x; intro; rotate_right 1; dsimp -zeta only [x]; try clear x)
    | (extract_lets +onlyGivenNames x; clear_value x)

theorem State.coolStep_keeps {s₀ s : State} (h : Keeps s₀ s) (temps : List (BitVec 16)) :
    Keeps s₀ (s.coolStep temps) := by
  unfold State.coolStep
  with_reducible repeat' first
    | assumption | apply State.releaseWakes_keeps | apply State.setPower_keeps | apply keeps_ite

theorem State.hotStep_keeps {s₀ s : State} (h : Keeps s₀ s) :
    Keeps s₀ (s.hotStep) := by
  unfold State.hotStep
  with_reducible repeat' first | assumption | apply State.fset_keeps | split

theorem State.judgeStep_keeps {s₀ s : State} (h : Keeps s₀ s) :
    Keeps s₀ (s.judgeStep) := by
  unfold State.judgeStep
  with_reducible repeat' first
    | assumption | (intro) | apply State.farOne_keeps | apply State.hotStep_keeps | apply State.warnStep_keeps
    | apply State.lowStep_keeps | apply State.critStep_keeps | apply State.orderlyStop_keeps
    | apply State.dueStep_keeps | apply keeps_ite | apply keeps_foldl | apply keeps_mk
    | (extract_lets +onlyGivenNames x; refine keeps_cut (s₀ := s₀) (x := x) ?_ ?_; rotate_left 1;
        clear_value x; intro; rotate_right 1; dsimp -zeta only [x]; try clear x)
    | (extract_lets +onlyGivenNames x; clear_value x)

theorem State.sensorSample_keeps {s₀ s : State} (h : Keeps s₀ s) (temps : List (BitVec 16)) (vhold : BitVec 11) :
    Keeps s₀ (s.sensorSample temps vhold) := by
  unfold State.sensorSample
  with_reducible repeat' first
    | assumption | apply State.setPower_keeps | apply State.showSample_keeps | apply State.heatStep_keeps
    | apply State.hourStep_keeps | apply State.judgeStep_keeps | apply State.coolStep_keeps | apply keeps_ite

theorem State.throttleUpdate_keeps {s₀ s : State} (h : Keeps s₀ s) :
    Keeps s₀ (s.throttleUpdate) := by
  unfold State.throttleUpdate
  with_reducible repeat' first | assumption | apply State.fset_keeps | apply keeps_ite | split

theorem State.riseAct_keeps {s₀ s : State} (h : Keeps s₀ s) (k : Nat) :
    Keeps s₀ (s.riseAct k) := by
  unfold State.riseAct
  with_reducible repeat' first | assumption | apply State.fset_keeps | apply State.orderlyStop_keeps | apply keeps_ite

theorem State.riseCheck_keeps {s₀ s : State} (h : Keeps s₀ s) :
    Keeps s₀ (s.riseCheck) := by
  unfold State.riseCheck
  with_reducible repeat' first
    | assumption | (intro) | apply State.setThermal_keeps | apply State.bumpF_keeps | apply State.report_keeps
    | apply State.eventOf_keeps | apply State.riseAct_keeps | apply keeps_ite | apply keeps_foldl
    | (extract_lets +onlyGivenNames x; refine keeps_cut (s₀ := s₀) (x := x) ?_ ?_; rotate_left 1;
        clear_value x; intro; rotate_right 1; dsimp -zeta only [x]; try clear x)
    | (extract_lets +onlyGivenNames x; clear_value x) | split

theorem State.takeSubsystem_keeps {s₀ s : State} (h : Keeps s₀ s) (img : List Byte) :
    Keeps s₀ (s.takeSubsystem img) := by
  unfold State.takeSubsystem
  with_reducible repeat' first | assumption | apply keeps_mk

theorem State.loadBoot_keeps {s₀ s : State} (h : Keeps s₀ s) :
    Keeps s₀ (s.loadBoot) := by
  unfold State.loadBoot
  with_reducible repeat' first
    | assumption | apply State.loadCode_keeps | apply State.takeSubsystem_keeps
    | (extract_lets +onlyGivenNames x; refine keeps_cut (s₀ := s₀) (x := x) ?_ ?_; rotate_left 1;
        clear_value x; intro; rotate_right 1; dsimp -zeta only [x]; try clear x)
    | (extract_lets +onlyGivenNames x; clear_value x)

theorem State.releaseCores_keeps {s₀ s : State} (h : Keeps s₀ s) :
    Keeps s₀ (s.releaseCores) := by
  unfold State.releaseCores
  with_reducible repeat' first | assumption | apply State.coreRunWrite_keeps

theorem State.recover_keeps {s₀ s : State} (h : Keeps s₀ s) (cause : Nat) :
    Keeps s₀ (s.recover cause) := by
  unfold State.recover
  with_reducible repeat' first | assumption | apply State.fset_keeps | apply State.powerOffs_keeps

theorem State.loadShowKey_keeps {s₀ s : State} (h : Keeps s₀ s) (img : List Byte) :
    Keeps s₀ (s.loadShowKey img) := by
  unfold State.loadShowKey
  with_reducible repeat' first
    | assumption | apply State.loadBlob_keeps | apply keeps_ite | refine keeps_fst (by assumption) ?_ | split

theorem State.bootWith_keeps {s₀ s : State} (h : Keeps s₀ s) (img : List Byte) :
    Keeps s₀ (s.bootWith img) := by
  unfold State.bootWith
  with_reducible repeat' first
    | assumption | (intro) | apply State.setRg_keeps | apply State.fset_keeps | apply State.setPower_keeps
    | apply State.loadCode_keeps | apply State.takeSubsystem_keeps | apply State.releaseCores_keeps
    | apply State.loadShowKey_keeps | apply keeps_foldl
    | (extract_lets +onlyGivenNames x; refine keeps_cut (s₀ := s₀) (x := x) ?_ ?_; rotate_left 1;
        clear_value x; intro; rotate_right 1; dsimp -zeta only [x]; try clear x)
    | (extract_lets +onlyGivenNames x; clear_value x)

theorem State.loader_keeps {s₀ s : State} (h : Keeps s₀ s) :
    Keeps s₀ (s.loader) := by
  unfold State.loader
  with_reducible repeat' first
    | assumption | apply State.setRg_keeps | apply State.fset_keeps | apply State.finishLife_keeps
    | apply State.recover_keeps | apply State.startClock_keeps | apply State.bootWith_keeps | apply keeps_ite

theorem State.recordStart_keeps {s₀ s : State} (h : Keeps s₀ s) (k : Nat) :
    Keeps s₀ (s.recordStart k) := by
  unfold State.recordStart
  with_reducible repeat' first | assumption | apply State.recordReset_keeps | apply State.fset_keeps | apply keeps_ite

theorem State.enterShow_keeps {s₀ s : State} (h : Keeps s₀ s) :
    Keeps s₀ (s.enterShow) := by
  unfold State.enterShow
  with_reducible repeat' first
    | assumption | apply State.fset_keeps | apply State.pmFinish_keeps | apply State.pmEvent_keeps | apply keeps_mk

theorem State.resetAtCut_keeps {s₀ s : State} (h : Keeps s₀ s) (n : Nat) :
    Keeps s₀ (s.resetAtCut n) := keeps_of_eq h rfl rfl rfl rfl rfl

theorem State.actReset_keeps {s₀ s : State} (h : Keeps s₀ s) (basinLocal : Bool) :
    Keeps s₀ (s.actReset basinLocal) := by
  unfold State.actReset
  with_reducible repeat' first
    | assumption | apply State.resetAtCut_keeps | apply State.warmReset_keeps | apply keeps_ite

theorem State.askReset_keeps {s₀ s : State} (h : Keeps s₀ s) (basinLocal : Bool) :
    Keeps s₀ (s.askReset basinLocal) := by
  unfold State.askReset
  with_reducible repeat' first
    | assumption | (intro) | apply State.actReset_keeps | apply State.abortPrepare_keeps | apply State.setPower_keeps
    | apply State.wake_keeps | apply keeps_ite

theorem State.afterState_keeps {s₀ s : State} (h : Keeps s₀ s) :
    Keeps s₀ (s.afterState) := by
  unfold State.afterState
  with_reducible repeat' first
    | assumption | (intro) | apply State.wake_keeps | apply State.actReset_keeps | apply State.setPower_keeps
    | apply State.takePending_keeps | apply keeps_ite | split

theorem State.reenumerate_keeps {s₀ s : State} (h : Keeps s₀ s) (start : Nat) :
    Keeps s₀ (s.reenumerate start) := by
  unfold State.reenumerate
  with_reducible repeat' first | assumption | apply keeps_ite | apply keeps_mk

theorem State.showReached_keeps {s₀ s : State} (h : Keeps s₀ s) :
    Keeps s₀ (s.showReached) := by
  unfold State.showReached
  with_reducible repeat' first
    | assumption | apply State.loader_keeps | apply State.powerOffs_keeps | apply State.loadBoot_keeps
    | apply State.rasStart_keeps | apply State.reenumerate_keeps | apply State.recordStart_keeps
    | apply State.enterShow_keeps | apply State.setPower_keeps | apply State.coreInterrupts_keeps
    | apply State.afterState_keeps | apply keeps_ite | apply keeps_mk
    | (extract_lets +onlyGivenNames x; refine keeps_cut (s₀ := s₀) (x := x) ?_ ?_; rotate_left 1;
        clear_value x; intro; rotate_right 1; dsimp -zeta only [x]; try clear x)
    | (extract_lets +onlyGivenNames x; clear_value x)

theorem State.agreeStep_keeps {s₀ s : State} (h : Keeps s₀ s) :
    Keeps s₀ (s.agreeStep) := by
  unfold State.agreeStep
  with_reducible repeat' first
    | assumption | apply State.blockAgrees_keeps | apply State.slcAbort_keeps | apply keeps_ite

theorem State.tryStore_keeps {s₀ s : State} (h : Keeps s₀ s) (k : Nat) :
    Keeps s₀ (s.tryStore k) := by
  unfold State.tryStore
  with_reducible repeat' first
    | assumption | apply State.runBurns_keeps | apply State.eraseSector_keeps | apply State.askPages_keeps
    | apply State.saveHours_keeps | apply keeps_ite

theorem State.rerunStores_keeps {s₀ s : State} (h : Keeps s₀ s) :
    Keeps s₀ (s.rerunStores) := by
  unfold State.rerunStores
  with_reducible repeat' first | assumption | (intro) | apply State.tryStore_keeps | apply keeps_foldl

theorem State.ebbEntry_keeps {s₀ s : State} (h : Keeps s₀ s) :
    Keeps s₀ (s.ebbEntry) := by
  unfold State.ebbEntry
  with_reducible repeat' first
    | assumption | apply State.fset_keeps | apply State.bumpF_keeps | apply State.pmEvent_keeps
    | apply State.showCheck_keeps | apply State.setLive_keeps | apply State.askPages_keeps
    | apply State.queueStore_keeps | apply keeps_ite
    | (extract_lets +onlyGivenNames x; refine keeps_cut (s₀ := s₀) (x := x) ?_ ?_; rotate_left 1;
        clear_value x; intro; rotate_right 1; dsimp -zeta only [x]; try clear x)
    | (extract_lets +onlyGivenNames x; clear_value x)

theorem State.ebbExit_keeps {s₀ s : State} (h : Keeps s₀ s) :
    Keeps s₀ (s.ebbExit) := by
  unfold State.ebbExit
  with_reducible repeat' first
    | assumption | apply State.releaseWakes_keeps | apply State.rerunStores_keeps | apply State.fset_keeps
    | apply keeps_ite

end Sys2Proof.Machine
end

