-- ==== Sys2Proof/Laws/Keep7.lean ====
section
/-! SUPPORT. `Keeps` for the functions of Commit, Catchup, Frame, BasinOps. -/

namespace Sys2Proof.Machine

open Sys2Proof

theorem State.stageInto_keeps {s₀ s : State} (h : Keeps s₀ s) (ws : List Staged) :
    Keeps s₀ (s.stageInto ws) := by
  unfold State.stageInto
  with_reducible repeat' first | assumption | (intro) | apply State.setTable_keeps | apply keeps_foldl

theorem State.dropStaged_keeps {s₀ s : State} (h : Keeps s₀ s) (ws : List Staged) :
    Keeps s₀ (s.dropStaged ws) := keeps_of_eq h rfl rfl rfl rfl rfl

theorem State.lateralsTaken_keeps {s₀ s : State} (h : Keeps s₀ s) (old : Tabs) (ws : List Staged) (kind idx : Nat) :
    Keeps s₀ (s.lateralsTaken old ws kind idx) := by
  unfold State.lateralsTaken
  with_reducible repeat' first
    | assumption | (intro) | apply State.lateralCommitted_keeps | apply State.nodesCommitted_keeps | apply keeps_foldl
    | split

theorem State.serviceTake_keeps {s₀ s : State} (h : Keeps s₀ s) (f : Flight) :
    Keeps s₀ (s.serviceTake f) := by
  unfold State.serviceTake
  with_reducible repeat' first
    | assumption | apply State.lateralsTaken_keeps | apply State.dropStaged_keeps | apply State.stageInto_keeps
    | apply keeps_ite

theorem State.commitStart_keeps {s₀ s : State} (h : Keeps s₀ s) (f : Flight) :
    Keeps s₀ (s.commitStart f) := by
  unfold State.commitStart
  with_reducible repeat' first
    | assumption | apply State.finish_keeps | apply State.stageInto_keeps | apply State.serviceTake_keeps
    | apply State.setFlight_keeps | apply keeps_ite | (extract_lets +onlyGivenNames x; clear_value x) | split

theorem State.timeTaken_keeps {s₀ s : State} (h : Keeps s₀ s) (old : Tabs) (frame : Nat) :
    Keeps s₀ (s.timeTaken old frame) := by
  unfold State.timeTaken
  with_reducible repeat' first
    | assumption | apply State.ptpCommitted_keeps | apply State.rasterCommitted_keeps | apply keeps_ite

theorem State.commitEffects_keeps {s₀ s : State} (h : Keeps s₀ s) (old : Tabs) (ws : List Staged) (kind idx frame :
    Nat) :
    Keeps s₀ (s.commitEffects old ws kind idx frame) := by
  unfold State.commitEffects
  with_reducible repeat' first
    | assumption | (intro) | apply State.setRg_keeps | apply State.canvasCommitted_keeps
    | apply State.moveCopies_keeps | apply State.takeColour_keeps | apply State.waterCommitted_keeps
    | apply State.lateralsTaken_keeps | apply State.netCommitted_keeps | apply State.rasterCommitted_keeps
    | apply State.timeTaken_keeps | apply keeps_ite | apply keeps_foldl
    | (extract_lets +onlyGivenNames x; refine keeps_cut (s₀ := s₀) (x := x) ?_ ?_; rotate_left 1;
        clear_value x; intro; rotate_right 1; dsimp -zeta only [x]; try clear x)
    | (extract_lets +onlyGivenNames x; clear_value x) | split

theorem State.commitCut_keeps {s₀ s : State} (h : Keeps s₀ s) (f : Flight) (n : Nat) :
    Keeps s₀ (s.commitCut f n) := by
  unfold State.commitCut
  with_reducible repeat' first
    | assumption | (intro) | apply State.stageInto_keeps | apply State.dropStaged_keeps
    | apply State.commitEffects_keeps | apply State.finish_keeps | apply keeps_mk
    | (extract_lets +onlyGivenNames x; refine keeps_cut (s₀ := s₀) (x := x) ?_ ?_; rotate_left 1;
        clear_value x; intro; rotate_right 1; dsimp -zeta only [x]; try clear x)
    | (extract_lets +onlyGivenNames x; clear_value x)

theorem State.reachBegin_keeps {s₀ s : State} (h : Keeps s₀ s) (f : Flight) :
    Keeps s₀ (s.reachBegin f) := by
  unfold State.reachBegin
  with_reducible repeat' first | assumption | apply State.finish_keeps | apply keeps_ite

theorem State.reachEnd_keeps {s₀ s : State} (h : Keeps s₀ s) (f : Flight) :
    Keeps s₀ (s.reachEnd f) := by
  unfold State.reachEnd
  with_reducible repeat' first
    | assumption | apply State.finish_keeps | apply State.stageInto_keeps | apply State.setFlight_keeps
    | apply keeps_ite | (extract_lets +onlyGivenNames x; clear_value x) | split

theorem State.canvasEnter_keeps {s₀ s : State} (h : Keeps s₀ s) (c : Nat) (black : Bool) :
    Keeps s₀ (s.canvasEnter c black) := by
  unfold State.canvasEnter
  with_reducible repeat' first
    | assumption | (intro) | apply State.dropBuffer_keeps | apply State.reachMark_keeps | apply keeps_ite
    | apply keeps_foldl | apply keeps_mk

theorem State.canvasLeave_keeps {s₀ s : State} (h : Keeps s₀ s) (c : Nat) :
    Keeps s₀ (s.canvasLeave c) := by
  unfold State.canvasLeave
  with_reducible repeat' first | assumption | apply State.reachMark_keeps | apply keeps_mk

theorem State.lateralBegin_keeps {s₀ s : State} (h : Keeps s₀ s) (f : Flight) (l n : Nat) :
    Keeps s₀ (s.lateralBegin f l n) := by
  unfold State.lateralBegin
  with_reducible repeat' first
    | assumption | (intro) | apply State.latBegin_keeps | apply State.finish_keeps | apply keeps_ite
    | (extract_lets +onlyGivenNames x; refine keeps_cut (s₀ := s₀) (x := x) ?_ ?_; rotate_left 1;
        clear_value x; intro; rotate_right 1; dsimp -zeta only [x]; try clear x)
    | (extract_lets +onlyGivenNames x; clear_value x) | split

theorem State.clusterBegin_keeps {s₀ s : State} (h : Keeps s₀ s) (f : Flight) (c n : Nat) :
    Keeps s₀ (s.clusterBegin f c n) := by
  unfold State.clusterBegin
  with_reducible repeat' first
    | assumption | apply State.finish_keeps | apply State.setLive_keeps | apply State.clusterEnter_keeps
    | apply State.clusterReports_keeps | apply keeps_ite | split

theorem State.reachBeginCut_keeps {s₀ s : State} (h : Keeps s₀ s) (f : Flight) (n : Nat) :
    Keeps s₀ (s.reachBeginCut f n) := by
  unfold State.reachBeginCut
  with_reducible repeat' first
    | assumption | apply State.lateralBegin_keeps | apply State.clusterBegin_keeps | apply State.finish_keeps
    | apply State.macEnter_keeps | apply State.rasService_keeps | apply State.eventOf_keeps
    | apply State.canvasEnter_keeps | apply keeps_ite
    | (extract_lets +onlyGivenNames x; refine keeps_cut (s₀ := s₀) (x := x) ?_ ?_; rotate_left 1;
        clear_value x; intro; rotate_right 1; dsimp -zeta only [x]; try clear x)
    | (extract_lets +onlyGivenNames x; clear_value x)

theorem State.endTake_keeps {s₀ s : State} (h : Keeps s₀ s) (f : Flight) (n : Nat) :
    Keeps s₀ (s.endTake f n) := by
  unfold State.endTake
  with_reducible repeat' first
    | assumption | apply State.commitEffects_keeps | apply State.dropStaged_keeps | apply State.stageInto_keeps

theorem State.clusterEnd_keeps {s₀ s : State} (h : Keeps s₀ s) (f : Flight) (c : Nat) (n : Nat) :
    Keeps s₀ (s.clusterEnd f c n) := by
  unfold State.clusterEnd
  with_reducible repeat' first
    | assumption | apply State.endTake_keeps | apply State.clusterLeave_keeps | apply State.reachDone_keeps
    | apply State.finish_keeps | apply keeps_ite

theorem State.reachEndCut_keeps {s₀ s : State} (h : Keeps s₀ s) (f : Flight) (n : Nat) :
    Keeps s₀ (s.reachEndCut f n) := by
  unfold State.reachEndCut
  with_reducible repeat' first
    | assumption | apply State.clusterEnd_keeps | apply State.endTake_keeps | apply State.rasService_keeps
    | apply State.eventOf_keeps | apply State.finish_keeps | apply State.latEnd_keeps | apply State.macLeave_keeps
    | apply State.setLive_keeps | apply State.macEnds_keeps | apply State.canvasLeave_keeps | apply keeps_ite
    | (extract_lets +onlyGivenNames x; refine keeps_cut (s₀ := s₀) (x := x) ?_ ?_; rotate_left 1;
        clear_value x; intro; rotate_right 1; dsimp -zeta only [x]; try clear x)
    | (extract_lets +onlyGivenNames x; clear_value x)

theorem State.clearLedger_keeps {s₀ s : State} (h : Keeps s₀ s) :
    Keeps s₀ (s.clearLedger) := keeps_of_eq h rfl rfl rfl rfl rfl

theorem State.clearEngine_keeps {s₀ s : State} (h : Keeps s₀ s) :
    Keeps s₀ (s.clearEngine) := keeps_of_eq h rfl rfl rfl rfl rfl

theorem State.loadFabric_keeps {s₀ s : State} (h : Keeps s₀ s) (r : EngineRec) :
    Keeps s₀ (s.loadFabric r) := by
  unfold State.loadFabric
  with_reducible repeat' first
    | assumption | apply State.setRill_keeps | apply State.setFeeders_keeps | apply State.setZone_keeps
    | apply State.setMember_keeps | split | apply keeps_mk

theorem State.loadRest_keeps {s₀ s : State} (h : Keeps s₀ s) (r : EngineRec) :
    Keeps s₀ (s.loadRest r) := by
  unfold State.loadRest
  with_reducible repeat' first
    | assumption | (intro) | apply State.setTask_keeps | apply State.setPort_keeps | apply State.setSh_keeps
    | apply State.setCanvas_keeps | apply State.fsetBit_keeps | apply State.setLayer_keeps
    | (extract_lets +onlyGivenNames x; refine keeps_cut (s₀ := s₀) (x := x) ?_ ?_; rotate_left 1;
        clear_value x; intro; rotate_right 1; dsimp -zeta only [x]; try clear x)
    | (extract_lets +onlyGivenNames x; clear_value x) | split | apply keeps_mk

theorem State.loadEngine_keeps {s₀ s : State} (h : Keeps s₀ s) (r : EngineRec) :
    Keeps s₀ (s.loadEngine r) := by
  unfold State.loadEngine
  with_reducible repeat' first
    | assumption | apply State.loadFabric_keeps | apply State.loadRest_keeps | apply keeps_ite

theorem State.showLeft_keeps {s₀ s : State} (h : Keeps s₀ s) :
    Keeps s₀ (s.showLeft) := by
  unfold State.showLeft
  with_reducible repeat' first | assumption | apply State.fset_keeps

theorem State.setTandem_keeps {s₀ s : State} (h : Keeps s₀ s) (t : Tandem) :
    Keeps s₀ (s.setTandem t) := keeps_of_eq h rfl rfl rfl rfl rfl

theorem State.siphonSend_keeps {s₀ s : State} (h : Keeps s₀ s) (kind : Nat) (text : List Byte) :
    Keeps s₀ (s.siphonSend kind text) := by
  unfold State.siphonSend
  with_reducible repeat' first
    | assumption | (intro) | apply State.emit_keeps | apply State.setSluice_keeps | apply keeps_ite
    | apply keeps_foldl
    | (extract_lets +onlyGivenNames x; refine keeps_cut (s₀ := s₀) (x := x) ?_ ?_; rotate_left 1;
        clear_value x; intro; rotate_right 1; dsimp -zeta only [x]; try clear x)
    | (extract_lets +onlyGivenNames x; clear_value x) | split

theorem State.siphonSay_keeps {s₀ s : State} (h : Keeps s₀ s) (kind : Nat) (words : List Nat) :
    Keeps s₀ (s.siphonSay kind words) := by
  unfold State.siphonSay
  with_reducible repeat' first | assumption | apply State.siphonSend_keeps

theorem State.sendPages_keeps {s₀ s : State} (h : Keeps s₀ s) (m : Memory) (l : List Nat) :
    Keeps s₀ (s.sendPages m l) := by
  unfold State.sendPages
  with_reducible repeat' first
    | assumption | (intro) | apply State.siphonSay_keeps | apply State.setTandem_keeps | apply keeps_foldl
    | (extract_lets +onlyGivenNames x; refine keeps_cut (s₀ := s₀) (x := x) ?_ ?_; rotate_left 1;
        clear_value x; intro; rotate_right 1; dsimp -zeta only [x]; try clear x)
    | (extract_lets +onlyGivenNames x; clear_value x)

theorem State.tryCatch_keeps {s₀ s : State} (h : Keeps s₀ s) (n : Nat) :
    Keeps s₀ (s.tryCatch n) := by
  unfold State.tryCatch
  with_reducible repeat' first
    | assumption | apply State.setTandem_keeps | apply keeps_ite
    | (extract_lets +onlyGivenNames x; refine keeps_cut (s₀ := s₀) (x := x) ?_ ?_; rotate_left 1;
        clear_value x; intro; rotate_right 1; dsimp -zeta only [x]; try clear x)
    | (extract_lets +onlyGivenNames x; clear_value x)

theorem State.abandonCatch_keeps {s₀ s : State} (h : Keeps s₀ s) :
    Keeps s₀ (s.abandonCatch) := by
  unfold State.abandonCatch
  with_reducible repeat' first | assumption | apply State.showLeft_keeps | apply State.setTandem_keeps

theorem State.fillDock_keeps {s₀ s : State} (h : Keeps s₀ s) (l : List Nat) : Keeps s₀ (s.fillDock l) :=
  keeps_foldl _ _ h (fun _ _ ht => keeps_reservoir ht _ (memWrite_wf _ _))

theorem State.catchStep_keeps {s₀ s : State} (h : Keeps s₀ s) (n used : Nat) :
    Keeps s₀ (s.catchStep n used) := by
  unfold State.catchStep
  with_reducible repeat' first
    | assumption | (intro) | apply State.abandonCatch_keeps | apply State.fillDock_keeps | apply State.sendPages_keeps
    | apply State.siphonSay_keeps | apply State.setTandem_keeps | apply State.showLeft_keeps | apply keeps_ite
    | apply keeps_foldl
    | (extract_lets +onlyGivenNames x; refine keeps_cut (s₀ := s₀) (x := x) ?_ ?_; rotate_left 1;
        clear_value x; intro; rotate_right 1; dsimp -zeta only [x]; try clear x)
    | (extract_lets +onlyGivenNames x; clear_value x)

theorem State.lateAt_keeps {s₀ s : State} (h : Keeps s₀ s) (n : Nat) (f : Flight) :
    Keeps s₀ (s.lateAt n f) := by
  unfold State.lateAt
  with_reducible repeat' first
    | assumption | apply State.finish_keeps | apply State.setFlight_keeps | apply State.bumpF_keeps | apply keeps_ite

theorem State.hostRecord_keeps {s₀ s : State} (h : Keeps s₀ s) (f : Flight) :
    Keeps s₀ (s.hostRecord f) := by
  unfold State.hostRecord
  with_reducible repeat' first | assumption | apply State.ledgerAdd_keeps

theorem State.reachCut_keeps {s₀ s : State} (h : Keeps s₀ s) (f : Flight) (n : Nat) :
    Keeps s₀ (s.reachCut f n) := by
  unfold State.reachCut
  with_reducible repeat' first
    | assumption | apply State.setFlight_keeps | apply State.hostRecord_keeps | apply State.reachBeginCut_keeps
    | apply State.reachEndCut_keeps | apply keeps_ite

theorem State.cutCommits_keeps {s₀ s : State} (h : Keeps s₀ s) (n : Nat) (l : List Flight) :
    Keeps s₀ (s.cutCommits n l) := by
  unfold State.cutCommits
  with_reducible repeat' first
    | assumption | (intro) | apply State.commitCut_keeps | apply State.hostRecord_keeps | apply State.reachCut_keeps
    | apply keeps_ite | apply keeps_foldl | split

theorem State.cutValues_keeps {s₀ s : State} (h : Keeps s₀ s) (n : Nat) (l : List Flight) :
    Keeps s₀ (s.cutValues n l) := by
  unfold State.cutValues
  with_reducible repeat' first
    | assumption | (intro) | apply State.finish_keeps | apply State.applyValues_keeps | apply State.hostRecord_keeps
    | apply keeps_ite | apply keeps_foldl | split

theorem State.cutLayers_keeps {s₀ s : State} (h : Keeps s₀ s) (l : List Flight) :
    Keeps s₀ (s.cutLayers l) := by
  unfold State.cutLayers
  with_reducible repeat' first
    | assumption | (intro) | apply State.applyLayerFrame_keeps | apply State.hostRecord_keeps | apply keeps_ite
    | apply keeps_foldl | split

theorem State.cutTasks_keeps {s₀ s : State} (h : Keeps s₀ s) (n : Nat) (l : List Flight) :
    Keeps s₀ (s.cutTasks n l) := by
  unfold State.cutTasks
  with_reducible repeat' first
    | assumption | (intro) | apply State.hostRecord_keeps | apply State.setFlight_keeps
    | apply State.releaseHost_keeps | apply State.releasePeriodic_keeps | apply keeps_ite | apply keeps_foldl
   
    | (extract_lets +onlyGivenNames x; refine keeps_cut (s₀ := s₀) (x := x) ?_ ?_; rotate_left 1;
        clear_value x; intro; rotate_right 1; dsimp -zeta only [x]; try clear x)
    | (extract_lets +onlyGivenNames x; clear_value x) | split | apply keeps_mk

theorem State.cutLattice_keeps {s₀ s : State} (h : Keeps s₀ s) (n : Nat) (moved : Bool) :
    Keeps s₀ (s.cutLattice n moved) := by
  unfold State.cutLattice
  with_reducible repeat' first | assumption | apply State.place_keeps | apply State.setTf_keeps | apply keeps_ite

theorem State.trimClock_keeps {s₀ s : State} (h : Keeps s₀ s) (n : Nat) :
    Keeps s₀ (s.trimClock n) := by
  unfold State.trimClock
  with_reducible repeat' first
    | assumption | (intro) | apply State.setClock_keeps
    | (extract_lets +onlyGivenNames x; refine keeps_cut (s₀ := s₀) (x := x) ?_ ?_; rotate_left 1;
        clear_value x; intro; rotate_right 1; dsimp -zeta only [x]; try clear x)
    | (extract_lets +onlyGivenNames x; clear_value x)

theorem State.showTaken_keeps {s₀ s : State} (h : Keeps s₀ s) (n : Nat) :
    Keeps s₀ (s.showTaken n) := by
  unfold State.showTaken
  with_reducible repeat' first
    | assumption | apply State.setTable_keeps | apply State.setTimePair_keeps | apply keeps_ite
    | (extract_lets +onlyGivenNames x; refine keeps_cut (s₀ := s₀) (x := x) ?_ ?_; rotate_left 1;
        clear_value x; intro; rotate_right 1; dsimp -zeta only [x]; try clear x)
    | (extract_lets +onlyGivenNames x; clear_value x)

theorem State.takeShow_keeps {s₀ s : State} (h : Keeps s₀ s) (n : Nat) :
    Keeps s₀ (s.takeShow n) := by
  unfold State.takeShow
  with_reducible repeat' first | assumption | apply State.showTaken_keeps | apply State.setSh_keeps | apply keeps_ite

theorem State.takePhi_keeps {s₀ s : State} (h : Keeps s₀ s) (n : Nat) :
    Keeps s₀ (s.takePhi n) := keeps_of_eq h rfl rfl rfl rfl rfl

theorem State.sampleAir_keeps {s₀ s : State} (h : Keeps s₀ s) :
    Keeps s₀ (s.sampleAir) := by
  unfold State.sampleAir
  with_reducible repeat' first | assumption | (intro) | apply keeps_foldl | apply keeps_mk

theorem State.cutRecord_keeps {s₀ s : State} (h : Keeps s₀ s) (n : Nat) (br : Bool) :
    Keeps s₀ (s.cutRecord n br) := by
  unfold State.cutRecord
  with_reducible repeat' first
    | assumption | (intro) | apply State.ledgerAdd_keeps | apply State.setBasin_keeps
    | (extract_lets +onlyGivenNames x; refine keeps_cut (s₀ := s₀) (x := x) ?_ ?_; rotate_left 1;
        clear_value x; intro; rotate_right 1; dsimp -zeta only [x]; try clear x)
    | (extract_lets +onlyGivenNames x; clear_value x)

theorem State.tallyRecords_keeps {s₀ s : State} (h : Keeps s₀ s) :
    Keeps s₀ (s.tallyRecords) := by
  unfold State.tallyRecords
  with_reducible repeat' first
    | assumption | (intro) | apply State.ledgerAdd_keeps | apply keeps_foldl | apply keeps_mk

theorem State.basinReset_keeps {s₀ s : State} (h : Keeps s₀ s) :
    Keeps s₀ (s.basinReset) := by
  unfold State.basinReset
  with_reducible repeat' first
    | assumption | apply State.coreRunWrite_keeps | apply State.endTasks_keeps | apply State.loadBoot_keeps
    | apply State.resetDomain_keeps | apply State.recordReset_keeps | apply State.releaseCores_keeps

theorem State.snapshot_keeps {s₀ s : State} (h : Keeps s₀ s) : Keeps s₀ s.snapshot :=
  State.eventOf_keeps (State.resPut_keeps h _ _) _ _

theorem State.cutSnapshots_keeps {s₀ s : State} (h : Keeps s₀ s) (n : Nat) :
    Keeps s₀ (s.cutSnapshots n) := by
  unfold State.cutSnapshots
  with_reducible repeat' first
    | assumption | (intro) | apply State.snapshot_keeps | apply State.setBasin_keeps | apply keeps_foldl

theorem State.openCut_keeps {s₀ s : State} (h : Keeps s₀ s) (n : Nat) :
    Keeps s₀ (s.openCut n) := by
  unfold State.openCut
  with_reducible repeat' first | assumption | apply State.setClock_keeps

theorem State.beginFrame_keeps {s₀ s : State} (h : Keeps s₀ s) :
    Keeps s₀ (s.beginFrame) := by
  unfold State.beginFrame
  with_reducible repeat' first
    | assumption | (intro) | apply State.setClock_keeps | apply State.swapFlat_keeps | apply State.dropDraining_keeps
    | apply State.fset_keeps | apply State.reloadColour_keeps | apply State.handover_keeps | apply keeps_foldl
    | apply keeps_mk
    | (extract_lets +onlyGivenNames x; refine keeps_cut (s₀ := s₀) (x := x) ?_ ?_; rotate_left 1;
        clear_value x; intro; rotate_right 1; dsimp -zeta only [x]; try clear x)
    | (extract_lets +onlyGivenNames x; clear_value x)

theorem State.openLedger_keeps {s₀ s : State} (h : Keeps s₀ s) :
    Keeps s₀ (s.openLedger) := by
  unfold State.openLedger
  with_reducible repeat' first | assumption | apply keeps_ite | apply keeps_mk

theorem State.cutFabric_keeps {s₀ s : State} (h : Keeps s₀ s) (views : List (Tabs × Tabs)) (n : Nat) (jump : Bool) :
    Keeps s₀ (s.cutFabric views n jump) := by
  unfold State.cutFabric
  with_reducible repeat' first
    | assumption | apply State.takeDelays_keeps | apply State.rillsCommitted_keeps | apply State.releaseHistory_keeps
    | apply State.takeSnaps_keeps | apply State.takeFades_keeps

theorem State.cutEnd_keeps {s₀ s : State} (h : Keeps s₀ s) (n : Nat) :
    Keeps s₀ (s.cutEnd n) := by
  unfold State.cutEnd
  with_reducible repeat' first
    | assumption | (intro) | apply State.rillPass_keeps | apply State.takeAsk_keeps | apply State.startRefill_keeps
    | apply State.fset_keeps | apply keeps_foldl

theorem State.keepCatch_keeps {s₀ s : State} (h : Keeps s₀ s) (n : Nat) :
    Keeps s₀ (s.keepCatch n) := by
  unfold State.keepCatch
  with_reducible repeat' first | assumption | apply State.setTandem_keeps | apply State.showLeft_keeps | apply keeps_ite

theorem State.cutInputs_keeps {s₀ s : State} (h : Keeps s₀ s) (n : Nat) (br : Bool) :
    Keeps s₀ (s.cutInputs n br) := by
  unfold State.cutInputs
  with_reducible repeat' first
    | assumption | (intro) | apply State.lateAt_keeps | apply State.tryCatch_keeps | apply State.beginFrame_keeps
    | apply State.openLedger_keeps | apply State.cutCommits_keeps | apply State.cutLattice_keeps
    | apply State.takeShow_keeps | apply State.takePhi_keeps | apply State.sampleAir_keeps
    | apply State.cutRecord_keeps | apply State.tallyRecords_keeps | apply State.cutFabric_keeps
    | apply State.sacnCut_keeps | apply State.envCut_keeps | apply State.cutValues_keeps | apply State.cutLayers_keeps
    | apply State.cutTasks_keeps | apply State.pickVideos_keeps | apply State.keepCatch_keeps
    | apply State.cutEnd_keeps | apply keeps_foldl
    | (extract_lets +onlyGivenNames x; refine keeps_cut (s₀ := s₀) (x := x) ?_ ?_; rotate_left 1;
        clear_value x; intro; rotate_right 1; dsimp -zeta only [x]; try clear x)
    | (extract_lets +onlyGivenNames x; clear_value x)

theorem State.cutReset_keeps {s₀ s : State} (h : Keeps s₀ s) (n : Nat) :
    Keeps s₀ (s.cutReset n).1 := by
  unfold State.cutReset
  with_reducible repeat' first
    | assumption | apply State.basinReset_keeps | apply State.setBasin_keeps | apply keeps_ite_fst

theorem State.digestsAgree_keeps {s₀ s : State} (h : Keeps s₀ s) :
    Keeps s₀ (s.digestsAgree) := by
  unfold State.digestsAgree
  with_reducible repeat' first | assumption | apply State.setTandem_keeps | apply State.fset_keeps | apply keeps_ite

theorem State.digestDiffers_keeps {s₀ s : State} (h : Keeps s₀ s) :
    Keeps s₀ (s.digestDiffers) := by
  unfold State.digestDiffers
  with_reducible repeat' first
    | assumption | apply State.notCurrent_keeps | apply State.bumpF_keeps | apply State.setTandem_keeps

theorem State.tellDigest_keeps {s₀ s : State} (h : Keeps s₀ s) :
    Keeps s₀ (s.tellDigest) := by
  unfold State.tellDigest
  with_reducible repeat' first
    | assumption | (intro) | apply State.setTandem_keeps | apply State.digestsAgree_keeps
    | apply State.digestDiffers_keeps | apply keeps_ite
    | (extract_lets +onlyGivenNames x; refine keeps_cut (s₀ := s₀) (x := x) ?_ ?_; rotate_left 1;
        clear_value x; intro; rotate_right 1; dsimp -zeta only [x]; try clear x)
    | (extract_lets +onlyGivenNames x; clear_value x) | split

theorem State.countThrottled_keeps {s₀ s : State} (h : Keeps s₀ s) (repeated : Bool) :
    Keeps s₀ (s.countThrottled repeated) := by
  unfold State.countThrottled
  with_reducible repeat' first | assumption | apply State.bumpF_keeps | apply keeps_ite

theorem State.repeatFrame_keeps {s₀ s : State} (h : Keeps s₀ s) (n : Nat) (passed : Bool) :
    Keeps s₀ (s.repeatFrame n passed) := by
  unfold State.repeatFrame
  with_reducible repeat' first
    | assumption | (intro) | apply State.bumpF_keeps | apply State.report_keeps | apply State.rasFillLate_keeps
    | apply State.fset_keeps | apply State.wmStage_keeps | apply keeps_ite
    | (extract_lets +onlyGivenNames x; refine keeps_cut (s₀ := s₀) (x := x) ?_ ?_; rotate_left 1;
        clear_value x; intro; rotate_right 1; dsimp -zeta only [x]; try clear x)
    | (extract_lets +onlyGivenNames x; clear_value x)

theorem State.shadowStage_keeps {s₀ s : State} (h : Keeps s₀ s) (n : Nat) (close : List Nat) :
    Keeps s₀ (s.shadowStage n close) := by
  unfold State.shadowStage
  with_reducible repeat' first
    | assumption | apply State.wmStage_keeps | apply State.countThrottled_keeps | apply State.setClock_keeps
    | apply State.repeatFrame_keeps | apply State.setTandem_keeps | apply keeps_ite
    | (extract_lets +onlyGivenNames x; refine keeps_cut (s₀ := s₀) (x := x) ?_ ?_; rotate_left 1;
        clear_value x; intro; rotate_right 1; dsimp -zeta only [x]; try clear x)
    | (extract_lets +onlyGivenNames x; clear_value x)

theorem State.unpin_keeps {s₀ s : State} (h : Keeps s₀ s) :
    Keeps s₀ (s.unpin) := by
  unfold State.unpin
  with_reducible repeat' first | assumption | (intro) | apply State.setVid_keeps | apply keeps_foldl

theorem State.endShadow_keeps {s₀ s : State} (h : Keeps s₀ s) (n : Nat) :
    Keeps s₀ (s.endShadow n) := by
  unfold State.endShadow
  with_reducible repeat' first
    | assumption | (intro) | apply State.setClock_keeps | apply State.setTandem_keeps | apply State.unpin_keeps
    | apply State.sacnFrame_keeps
    | (extract_lets +onlyGivenNames x; refine keeps_cut (s₀ := s₀) (x := x) ?_ ?_; rotate_left 1;
        clear_value x; intro; rotate_right 1; dsimp -zeta only [x]; try clear x)
    | (extract_lets +onlyGivenNames x; clear_value x)

theorem State.stageShadow_keeps {s₀ s : State} (h : Keeps s₀ s) :
    Keeps s₀ (s.stageShadow) := by
  unfold State.stageShadow
  with_reducible repeat' first
    | assumption | (intro) | apply State.tellDigest_keeps | apply State.shadowStage_keeps
    | apply State.endShadow_keeps
    | (extract_lets +onlyGivenNames x; refine keeps_cut (s₀ := s₀) (x := x) ?_ ?_; rotate_left 1;
        clear_value x; intro; rotate_right 1; dsimp -zeta only [x]; try clear x)
    | (extract_lets +onlyGivenNames x; clear_value x) | split

theorem State.closeShadow_keeps {s₀ s : State} (h : Keeps s₀ s) :
    Keeps s₀ (s.closeShadow) := by
  unfold State.closeShadow
  with_reducible repeat' first
    | assumption | apply State.stageShadow_keeps | apply State.endShadow_keeps | apply State.setTandem_keeps
    | apply keeps_ite
    | (extract_lets +onlyGivenNames x; refine keeps_cut (s₀ := s₀) (x := x) ?_ ?_; rotate_left 1;
        clear_value x; intro; rotate_right 1; dsimp -zeta only [x]; try clear x)
    | (extract_lets +onlyGivenNames x; clear_value x)

theorem State.inputCut_keeps {s₀ s : State} (h : Keeps s₀ s) :
    Keeps s₀ (s.inputCut) := by
  unfold State.inputCut
  with_reducible repeat' first
    | assumption | apply State.openCut_keeps | apply State.closeShadow_keeps | apply State.cutReset_keeps
    | apply State.cutInputs_keeps | apply State.clusterReports_keeps | apply State.macEnds_keeps
    | apply State.cutLattice_keeps | apply State.takeShow_keeps | apply State.openPeriod_keeps
    | apply State.trimClock_keeps | apply State.cutSnapshots_keeps | apply keeps_ite
    | (extract_lets +onlyGivenNames x; refine keeps_cut (s₀ := s₀) (x := x) ?_ ?_; rotate_left 1;
        clear_value x; intro; rotate_right 1; dsimp -zeta only [x]; try clear x)
    | (extract_lets +onlyGivenNames x; clear_value x) | refine keeps_fst (by assumption) ?_
    | refine keeps_snd (by assumption) ?_ | split

theorem State.forceLate_keeps {s₀ s : State} (h : Keeps s₀ s) (hs : List Nat) (n : Nat) :
    Keeps s₀ (s.forceLate hs n) := by
  unfold State.forceLate
  with_reducible repeat' first
    | assumption | (intro) | apply State.deadlineTask_keeps | apply keeps_ite | apply keeps_foldl | split

theorem State.cueClose_keeps {s₀ s : State} (h : Keeps s₀ s) :
    Keeps s₀ (s.cueClose) := by
  unfold State.cueClose
  with_reducible repeat' first
    | assumption | (intro) | apply State.forceLate_keeps | apply State.cueDeadline_keeps
    | apply State.notCurrent_keeps | apply State.ledgerAdd_keeps | apply State.latchTails_keeps
    | apply State.setClock_keeps | apply keeps_ite
    | (extract_lets +onlyGivenNames x; refine keeps_cut (s₀ := s₀) (x := x) ?_ ?_; rotate_left 1;
        clear_value x; intro; rotate_right 1; dsimp -zeta only [x]; try clear x)
    | (extract_lets +onlyGivenNames x; clear_value x)

theorem State.frameStaged_keeps {s₀ s : State} (h : Keeps s₀ s) (host : HostView) (after : HostView) :
    Keeps s₀ (s.frameStaged host after) := by
  unfold State.frameStaged
  with_reducible repeat' first
    | assumption | apply State.fset_keeps | apply State.composeFrame_keeps | apply State.setClock_keeps
    | apply keeps_ite

theorem State.sendLedger_keeps {s₀ s : State} (h : Keeps s₀ s) (n : Nat) (l : List LedgerRec) :
    Keeps s₀ (s.sendLedger n l) := by
  unfold State.sendLedger
  with_reducible repeat' first
    | assumption | (intro) | apply State.fset_keeps | apply State.catchStep_keeps | apply State.siphonSend_keeps
    | apply State.gaFeedAll_keeps | apply keeps_ite | apply keeps_foldl
    | (extract_lets +onlyGivenNames x; refine keeps_cut (s₀ := s₀) (x := x) ?_ ?_; rotate_left 1;
        clear_value x; intro; rotate_right 1; dsimp -zeta only [x]; try clear x)
    | (extract_lets +onlyGivenNames x; clear_value x)

theorem State.closeLedger_keeps {s₀ s : State} (h : Keeps s₀ s) (n : Nat) :
    Keeps s₀ (s.closeLedger n) := by
  unfold State.closeLedger
  with_reducible repeat' first
    | assumption | apply State.sendLedger_keeps | apply State.clearLedger_keeps | apply keeps_ite

theorem State.fetchAbandoned_keeps {s₀ s : State} (h : Keeps s₀ s) (fetched : List (Fin 4 × Fin 8)) (host after :
    HostView) :
    Keeps s₀ (s.fetchAbandoned fetched host after) := by
  unfold State.fetchAbandoned
  with_reducible repeat' first | assumption | (intro) | apply State.fetchLayer_keeps | apply keeps_foldl

theorem State.stageOutputs_keeps {s₀ s : State} (h : Keeps s₀ s) (n : Nat) (staged passed : Bool) :
    Keeps s₀ (s.stageOutputs n staged passed) := by
  unfold State.stageOutputs
  with_reducible repeat' first
    | assumption | apply State.setClock_keeps | apply State.wmStage_keeps | apply State.countThrottled_keeps
    | apply State.repeatFrame_keeps | apply keeps_ite | apply keeps_mk
    | (extract_lets +onlyGivenNames x; refine keeps_cut (s₀ := s₀) (x := x) ?_ ?_; rotate_left 1;
        clear_value x; intro; rotate_right 1; dsimp -zeta only [x]; try clear x)
    | (extract_lets +onlyGivenNames x; clear_value x)

theorem State.armHeadgate_keeps {s₀ s : State} (h : Keeps s₀ s) (n : Nat) :
    Keeps s₀ (s.armHeadgate n) := by
  unfold State.armHeadgate
  with_reducible repeat' first
    | assumption | apply State.armPorts_keeps | apply State.armRasters_keeps | apply State.setClock_keeps
    | (extract_lets +onlyGivenNames x; refine keeps_cut (s₀ := s₀) (x := x) ?_ ?_; rotate_left 1;
        clear_value x; intro; rotate_right 1; dsimp -zeta only [x]; try clear x)
    | (extract_lets +onlyGivenNames x; clear_value x)

theorem State.stagingDeadline_keeps {s₀ s : State} (h : Keeps s₀ s) (fetched : List (Fin 4 × Fin 8)) (host after :
    HostView) :
    Keeps s₀ (s.stagingDeadline fetched host after) := by
  unfold State.stagingDeadline
  with_reducible repeat' first
    | assumption | apply State.setClock_keeps | apply State.fetchAbandoned_keeps | apply State.fset_keeps
    | apply State.stageOutputs_keeps | apply State.unpin_keeps | apply State.closeLedger_keeps
    | apply State.armHeadgate_keeps | apply State.sacnFrame_keeps | apply keeps_ite
    | (extract_lets +onlyGivenNames x; refine keeps_cut (s₀ := s₀) (x := x) ?_ ?_; rotate_left 1;
        clear_value x; intro; rotate_right 1; dsimp -zeta only [x]; try clear x)
    | (extract_lets +onlyGivenNames x; clear_value x) | split

theorem State.endPlacing_keeps {s₀ s : State} (h : Keeps s₀ s) (n : Nat) :
    Keeps s₀ (s.endPlacing n) := by
  unfold State.endPlacing
  with_reducible repeat' first
    | assumption | apply State.setClock_keeps | apply State.fset_keeps | apply keeps_ite | split

theorem State.gaugesDue_keeps {s₀ s : State} (h : Keeps s₀ s) :
    Keeps s₀ (s.gaugesDue) := by
  unfold State.gaugesDue
  with_reducible repeat' first | assumption | (intro) | apply State.gaDue_keeps | apply keeps_foldl

theorem State.switchNow_keeps {s₀ s : State} (h : Keeps s₀ s) :
    Keeps s₀ (s.switchNow) := by
  unfold State.switchNow
  with_reducible repeat' first | assumption | apply State.emit_keeps | apply keeps_ite | apply keeps_mk

theorem State.lightChanges_keeps {s₀ s : State} (h : Keeps s₀ s) (n : Nat) :
    Keeps s₀ (s.lightChanges n) := by
  unfold State.lightChanges
  with_reducible repeat' first
    | assumption | (intro) | apply State.fset_keeps | apply State.supplyLate_keeps | apply State.gaugesDue_keeps
    | apply State.rasRetry_keeps | apply State.switchNow_keeps | apply State.stopCommit_keeps | apply keeps_ite
    | (extract_lets +onlyGivenNames x; refine keeps_cut (s₀ := s₀) (x := x) ?_ ?_; rotate_left 1;
        clear_value x; intro; rotate_right 1; dsimp -zeta only [x]; try clear x)
    | (extract_lets +onlyGivenNames x; clear_value x)

theorem State.frameInstant_keeps {s₀ s : State} (h : Keeps s₀ s) :
    Keeps s₀ (s.frameInstant) := by
  unfold State.frameInstant
  with_reducible repeat' first
    | assumption | apply State.takeNumber_keeps | apply State.endPlacing_keeps | apply State.setFrame_keeps
    | apply State.lightChanges_keeps | apply keeps_ite

theorem State.showOpFrame_keeps {s₀ s : State} (h : Keeps s₀ s) (f : Nat) :
    Keeps s₀ (s.showOpFrame f) := by
  unfold State.showOpFrame
  with_reducible repeat' first | assumption | apply State.setPair_keeps

theorem State.basinCommitStart_keeps {s₀ s : State} (h : Keeps s₀ s) (scope f : Nat) :
    Keeps s₀ (s.basinCommitStart scope f) := by
  unfold State.basinCommitStart
  with_reducible repeat' first
    | assumption | apply State.finish_keeps | apply State.bumpF_keeps | apply State.commitStart_keeps
    | apply State.setBasin_keeps | apply keeps_ite | apply keeps_mk
    | (extract_lets +onlyGivenNames x; refine keeps_cut (s₀ := s₀) (x := x) ?_ ?_; rotate_left 1;
        clear_value x; intro; rotate_right 1; dsimp -zeta only [x]; try clear x)
    | (extract_lets +onlyGivenNames x; clear_value x)

theorem State.beginOp_keeps {s₀ s : State} (h : Keeps s₀ s) (op : Nat) (id : Nat) :
    Keeps s₀ (s.beginOp op id) := by
  unfold State.beginOp
  with_reducible repeat' first | assumption | apply State.setBasin_keeps

theorem State.nextOp_keeps {s₀ s : State} (h : Keeps s₀ s) :
    Keeps s₀ (s.nextOp).2 := by
  unfold State.nextOp
  with_reducible repeat' first | assumption | apply State.setBasin_keeps

theorem State.rootCommit_keeps {s₀ s : State} (h : Keeps s₀ s) :
    Keeps s₀ (s.rootCommit) := by
  unfold State.rootCommit
  with_reducible repeat' first
    | assumption | apply State.nextOp_keeps | apply State.bsnDown_keeps | apply State.showOpFrame_keeps
    | apply State.reportTry_keeps | apply State.basinCommitStart_keeps | apply State.beginOp_keeps

theorem State.rootSnapshot_keeps {s₀ s : State} (h : Keeps s₀ s) :
    Keeps s₀ (s.rootSnapshot) := by
  unfold State.rootSnapshot
  with_reducible repeat' first
    | assumption | apply State.nextOp_keeps | apply State.beginOp_keeps | apply State.bsnDown_keeps
    | apply State.showOpFrame_keeps | apply State.reportTry_keeps | apply State.setBasin_keeps

theorem State.rootReset_keeps {s₀ s : State} (h : Keeps s₀ s) :
    Keeps s₀ (s.rootReset) := by
  unfold State.rootReset
  with_reducible repeat' first
    | assumption | apply State.nextOp_keeps | apply State.opEnd_keeps | apply State.resetAtCut_keeps
    | apply State.bsnDown_keeps | apply State.showOpFrame_keeps

theorem State.opWrite_keeps {s₀ s : State} (h : Keeps s₀ s) (req : Requester) (op : Nat) (v : Word) (f : State → State)
    (hf : ∀ t, Keeps s₀ t → Keeps s₀ (f t)) : Keeps s₀ (s.opWrite req op v f) :=
  keeps_ite (State.opStart_keeps h req true f hf) h

theorem State.takeCommit_keeps {s₀ s : State} (h : Keeps s₀ s) (m : BsnMsg) :
    Keeps s₀ (s.takeCommit m) := by
  unfold State.takeCommit
  with_reducible repeat' first
    | assumption | apply State.reportTry_keeps | apply State.basinCommitStart_keeps | apply State.beginOp_keeps
    | apply State.bsnDown_keeps

theorem State.takeSnapshot_keeps {s₀ s : State} (h : Keeps s₀ s) (m : BsnMsg) :
    Keeps s₀ (s.takeSnapshot m) := by
  unfold State.takeSnapshot
  with_reducible repeat' first
    | assumption | apply State.beginOp_keeps | apply State.bsnDown_keeps | apply State.reportTry_keeps
    | apply State.setBasin_keeps

theorem State.takeReset_keeps {s₀ s : State} (h : Keeps s₀ s) (m : BsnMsg) :
    Keeps s₀ (s.takeReset m) := by
  unfold State.takeReset
  with_reducible repeat' first | assumption | apply State.resetAtCut_keeps | apply State.bsnDown_keeps

theorem State.parentSays_keeps {s₀ s : State} (h : Keeps s₀ s) (port : Nat) (bytes : List Byte) (type : Nat)
    (f : State → BsnMsg → State) (hf : ∀ m, Keeps s₀ (f s m)) : Keeps s₀ (s.parentSays port bytes type f) :=
  State.bsnTake_keeps h bytes type _ (fun m => keeps_ite (hf m) h)

end Sys2Proof.Machine
end

