-- ==== Sys2Proof/Laws/Keep8.lean ====
section
/-! SUPPORT. `Keeps` for the functions of TandemOps, NetWake, Views, Bus, Access. -/

namespace Sys2Proof.Machine

open Sys2Proof

theorem State.takeRole_keeps {s₀ s : State} (h : Keeps s₀ s) (r : Nat) :
    Keeps s₀ (s.takeRole r) := by
  unfold State.takeRole
  with_reducible repeat' first
    | assumption | apply State.setRole_keeps | apply State.reclock_keeps | apply State.setTandem_keeps

theorem State.actLow_keeps {s₀ s : State} (h : Keeps s₀ s) :
    Keeps s₀ (s.actLow) := by
  unfold State.actLow
  with_reducible repeat' first | assumption | apply State.emit_keeps | apply State.setTandem_keeps | apply keeps_ite

theorem State.dropOutputs_keeps {s₀ s : State} (h : Keeps s₀ s) (m : Nat) :
    Keeps s₀ (s.dropOutputs m) := by
  unfold State.dropOutputs
  with_reducible repeat' first | assumption | (intro) | apply State.setMac_keeps

theorem State.becomeStandby_keeps {s₀ s : State} (h : Keeps s₀ s) :
    Keeps s₀ (s.becomeStandby) := by
  unfold State.becomeStandby
  with_reducible repeat' first
    | assumption | (intro) | apply State.dropOutputs_keeps | apply State.actLow_keeps | apply State.dropSupplies_keeps
    | apply State.takeRole_keeps | apply State.setTandem_keeps | apply State.setBasin_keeps
    | apply State.notCurrent_keeps | apply keeps_foldl | apply keeps_mk
    | (extract_lets +onlyGivenNames x; refine keeps_cut (s₀ := s₀) (x := x) ?_ ?_; rotate_left 1;
        clear_value x; intro; rotate_right 1; dsimp -zeta only [x]; try clear x)
    | (extract_lets +onlyGivenNames x; clear_value x)

theorem State.becomeActive_keeps {s₀ s : State} (h : Keeps s₀ s) :
    Keeps s₀ (s.becomeActive) := by
  unfold State.becomeActive
  with_reducible repeat' first
    | assumption | (intro) | apply State.takeRole_keeps | apply State.setTandem_keeps | apply State.setBasin_keeps
    | apply State.tryLaunch_keeps | apply State.reclock_keeps | apply keeps_foldl
    | (extract_lets +onlyGivenNames x; refine keeps_cut (s₀ := s₀) (x := x) ?_ ?_; rotate_left 1;
        clear_value x; intro; rotate_right 1; dsimp -zeta only [x]; try clear x)
    | (extract_lets +onlyGivenNames x; clear_value x)

theorem State.sipCtrlWrite_keeps {s₀ s : State} (h : Keeps s₀ s) (v : Word) :
    Keeps s₀ (s.sipCtrlWrite v) := by
  unfold State.sipCtrlWrite
  with_reducible repeat' first
    | assumption | apply State.setRg_keeps | apply State.setTandem_keeps | apply State.takeRole_keeps
    | apply State.actLow_keeps | apply State.fset_keeps | apply keeps_ite

theorem State.joinTimer_keeps {s₀ s : State} (h : Keeps s₀ s) :
    Keeps s₀ (s.joinTimer) := by
  unfold State.joinTimer
  with_reducible repeat' first
    | assumption | apply State.becomeStandby_keeps | apply State.becomeActive_keeps | apply keeps_ite

theorem State.pairSend_keeps {s₀ s : State} (h : Keeps s₀ s) (kind : Nat) (words : List Nat) :
    Keeps s₀ (s.pairSend kind words) := by
  unfold State.pairSend
  with_reducible repeat' first
    | assumption | (intro) | apply State.fresh_keeps | apply State.siphonSend_keeps | apply State.sendItem_keeps
    | apply keeps_ite
    | (extract_lets +onlyGivenNames x; refine keeps_cut (s₀ := s₀) (x := x) ?_ ?_; rotate_left 1;
        clear_value x; intro; rotate_right 1; dsimp -zeta only [x]; try clear x)
    | (extract_lets +onlyGivenNames x; clear_value x) | refine keeps_fst (by assumption) ?_
    | refine keeps_snd (by assumption) ?_ | split

theorem State.heartbeatSend_keeps {s₀ s : State} (h : Keeps s₀ s) :
    Keeps s₀ (s.heartbeatSend) := by
  unfold State.heartbeatSend
  with_reducible repeat' first
    | assumption | apply State.pairSend_keeps | apply State.setTandem_keeps | apply State.emit_keeps | apply keeps_ite
    | (extract_lets +onlyGivenNames x; refine keeps_cut (s₀ := s₀) (x := x) ?_ ?_; rotate_left 1;
        clear_value x; intro; rotate_right 1; dsimp -zeta only [x]; try clear x)
    | (extract_lets +onlyGivenNames x; clear_value x)

theorem State.authFail_keeps {s₀ s : State} (h : Keeps s₀ s) :
    Keeps s₀ (s.authFail) := by
  unfold State.authFail
  with_reducible repeat' first
    | assumption | apply State.bumpF_keeps | apply State.report_keeps | apply State.setTandem_keeps
    | apply State.notCurrent_keeps | apply keeps_ite

theorem State.followActive_keeps {s₀ s : State} (h : Keeps s₀ s) (frame : Nat) (ahead : Option Int) :
    Keeps s₀ (s.followActive frame ahead) := by
  unfold State.followActive
  with_reducible repeat' first
    | assumption | (intro) | apply State.parentInstant_keeps | apply State.setTandem_keeps
    | apply State.setBasin_keeps | apply State.takeJoin_keeps | apply State.bumpF_keeps | apply keeps_ite
    | (extract_lets +onlyGivenNames x; refine keeps_cut (s₀ := s₀) (x := x) ?_ ?_; rotate_left 1;
        clear_value x; intro; rotate_right 1; dsimp -zeta only [x]; try clear x)
    | (extract_lets +onlyGivenNames x; clear_value x) | split

theorem State.heartbeatTaken_keeps {s₀ s : State} (h : Keeps s₀ s) (role frame : Nat) (since : Int) (ahead : Option
    Int) :
    Keeps s₀ (s.heartbeatTaken role frame since ahead) := by
  unfold State.heartbeatTaken
  with_reducible repeat' first
    | assumption | apply State.setTandem_keeps | apply State.fset_keeps | apply State.becomeStandby_keeps
    | apply State.followActive_keeps | apply keeps_ite
    | (extract_lets +onlyGivenNames x; refine keeps_cut (s₀ := s₀) (x := x) ?_ ?_; rotate_left 1;
        clear_value x; intro; rotate_right 1; dsimp -zeta only [x]; try clear x)
    | (extract_lets +onlyGivenNames x; clear_value x)

theorem State.heartbeatReceived_keeps {s₀ s : State} (h : Keeps s₀ s) (auth : Bool) (role : Nat) (frame : Nat)
    (since : Int) (ahead : Option Int) :
    Keeps s₀ (s.heartbeatReceived auth role frame since ahead) := by
  unfold State.heartbeatReceived
  with_reducible repeat' first
    | assumption | apply State.heartbeatTaken_keeps | apply State.authFail_keeps | apply State.setTandem_keeps
    | apply keeps_ite

theorem State.ledgerFrame_keeps {s₀ s : State} (h : Keeps s₀ s) (r : LedgerRec) :
    Keeps s₀ (s.ledgerFrame r).2 := by
  unfold State.ledgerFrame
  with_reducible repeat' first
    | assumption | apply State.setBasin_keeps | apply State.renumber_keeps | apply State.setFrame_keeps
    | apply keeps_ite | apply keeps_ite_snd
    | (extract_lets +onlyGivenNames x; refine keeps_cut (s₀ := s₀) (x := x) ?_ ?_; rotate_left 1;
        clear_value x; intro; rotate_right 1; dsimp -zeta only [x]; try clear x)
    | (extract_lets +onlyGivenNames x; clear_value x)

theorem State.takeCut_keeps {s₀ s : State} (h : Keeps s₀ s) (n : Nat) (b : List Nat) :
    Keeps s₀ (s.takeCut n b) := by
  unfold State.takeCut
  with_reducible repeat' first
    | assumption | (intro) | apply State.markPlacing_keeps | apply State.basinReset_keeps | apply State.setSh_keeps
    | apply keeps_ite | apply keeps_foldl | apply keeps_mk
    | (extract_lets +onlyGivenNames x; refine keeps_cut (s₀ := s₀) (x := x) ?_ ?_; rotate_left 1;
        clear_value x; intro; rotate_right 1; dsimp -zeta only [x]; try clear x)
    | (extract_lets +onlyGivenNames x; clear_value x)

theorem State.takeAck_keeps {s₀ s : State} (h : Keeps s₀ s) (r : LedgerRec) :
    Keeps s₀ (s.takeAck r) := by
  unfold State.takeAck
  with_reducible repeat' first
    | assumption | (intro) | apply State.zoneAck_keeps | apply State.zoneFail_keeps | apply State.legAckWrite_keeps
    | apply State.nodeLost_keeps | apply State.setMute_keeps | apply State.takeRecord_keeps | split

theorem State.takeHosts_keeps {s₀ s : State} (h : Keeps s₀ s) (n : Nat) : Keeps s₀ (s.takeHosts n).1 := by
  refine keeps_foldl_fst _ _ _ h (fun q r hq => ?_)
  dsimp only
  have h1 := keeps_ite (c := q.1.isStandby = true) (State.fset_keeps hq R.HOST_RING_STATUS_sq_head (r.body.getD 0 0) r.key 0) hq
  generalize (if q.1.isStandby = true then _ else q.1) = t at h1 ⊢
  have h2 : ∀ g, Keeps s₀ { t with rings := g } := fun _ => keeps_of_eq h1 rfl rfl rfl rfl rfl
  exact keeps_ite_fst h1 (keeps_ite (State.postTask_keeps (h2 _) _) (h2 _))

theorem State.showCommitted_keeps {s₀ s : State} (h : Keeps s₀ s) (n : Nat) :
    Keeps s₀ (s.showCommitted n) := by
  unfold State.showCommitted
  with_reducible repeat' first | assumption | apply State.showTaken_keeps | apply State.setSh_keeps

theorem State.takeTally_keeps {s₀ s : State} (h : Keeps s₀ s) (r : LedgerRec) :
    Keeps s₀ (s.takeTally r) := by
  unfold State.takeTally
  with_reducible repeat' first | assumption | apply State.fireSource_keeps | apply State.tallyQueue_keeps

theorem State.mirrorFrame_keeps {s₀ s : State} (h : Keeps s₀ s) (ws : List Word) :
    Keeps s₀ (s.mirrorFrame ws) := by
  unfold State.mirrorFrame
  with_reducible repeat' first
    | assumption | apply State.bumpF_keeps | apply State.setLayer_keeps | apply State.refillEvent_keeps
    | apply keeps_ite
    | (extract_lets +onlyGivenNames x; refine keeps_cut (s₀ := s₀) (x := x) ?_ ?_; rotate_left 1;
        clear_value x; intro; rotate_right 1; dsimp -zeta only [x]; try clear x)
    | (extract_lets +onlyGivenNames x; clear_value x)

theorem State.mirrorFrames_keeps {s₀ s : State} (h : Keeps s₀ s) (n : Nat) :
    Keeps s₀ (s.mirrorFrames n) := by
  unfold State.mirrorFrames
  with_reducible repeat' first
    | assumption | (intro) | apply State.mirrorFrame_keeps | apply keeps_ite | apply keeps_foldl
    | (extract_lets +onlyGivenNames x; refine keeps_cut (s₀ := s₀) (x := x) ?_ ?_; rotate_left 1;
        clear_value x; intro; rotate_right 1; dsimp -zeta only [x]; try clear x)
    | (extract_lets +onlyGivenNames x; clear_value x)

theorem State.takeVideo_keeps {s₀ s : State} (h : Keeps s₀ s) (r : LedgerRec) :
    Keeps s₀ (s.takeVideo r) := by
  unfold State.takeVideo
  with_reducible repeat' first
    | assumption | apply State.setCanvas_keeps | apply State.setVid_keeps | apply State.notCurrent_keeps
    | apply keeps_ite | (extract_lets +onlyGivenNames x; clear_value x) | split

theorem State.takeVideos_keeps {s₀ s : State} (h : Keeps s₀ s) :
    Keeps s₀ (s.takeVideos) := by
  unfold State.takeVideos
  with_reducible repeat' first
    | assumption | (intro) | apply State.takeVideo_keeps | apply State.setCanvas_keeps | apply keeps_foldl

theorem State.loadState_keeps {s₀ s : State} (h : Keeps s₀ s) (engine : List EngineRec) :
    Keeps s₀ (s.loadState engine) := by
  unfold State.loadState
  with_reducible repeat' first
    | assumption | (intro) | apply State.loadEngine_keeps | apply State.clearEngine_keeps | apply State.setRg_keeps
    | apply keeps_foldl
    | (extract_lets +onlyGivenNames x; refine keeps_cut (s₀ := s₀) (x := x) ?_ ?_; rotate_left 1;
        clear_value x; intro; rotate_right 1; dsimp -zeta only [x]; try clear x)
    | (extract_lets +onlyGivenNames x; clear_value x)

theorem State.caughtUp_keeps {s₀ s : State} (h : Keeps s₀ s) :
    Keeps s₀ (s.caughtUp) := by
  unfold State.caughtUp
  with_reducible repeat' first
    | assumption | apply State.loadState_keeps | apply State.setTandem_keeps | apply keeps_ite

theorem State.applyLedger_keeps {s₀ s : State} (h : Keeps s₀ s) (n : Nat) (cut : List Nat) :
    Keeps s₀ (s.applyLedger n cut) := by
  unfold State.applyLedger
  with_reducible repeat' first
    | assumption | (intro) | apply State.sample_keeps | apply State.beginFrame_keeps | apply State.takeCut_keeps
    | apply State.takeAck_keeps | apply State.takeHosts_keeps | apply State.cutCommits_keeps
    | apply State.cutLattice_keeps | apply State.showCommitted_keeps | apply State.cutFabric_keeps
    | apply State.sacnEntryCut_keeps | apply State.envCutOne_keeps | apply State.takeTally_keeps
    | apply State.cutValues_keeps | apply State.mirrorFrames_keeps | apply State.cutTasks_keeps
    | apply State.takeVideos_keeps | apply State.caughtUp_keeps | apply State.cutEnd_keeps | apply keeps_ite
    | apply keeps_foldl
    | (extract_lets +onlyGivenNames x; refine keeps_cut (s₀ := s₀) (x := x) ?_ ?_; rotate_left 1;
        clear_value x; intro; rotate_right 1; dsimp -zeta only [x]; try clear x)
    | (extract_lets +onlyGivenNames x; clear_value x) | refine keeps_fst (by assumption) ?_
    | refine keeps_snd (by assumption) ?_ | split

theorem State.takeStage_keeps {s₀ s : State} (h : Keeps s₀ s) (r : LedgerRec) :
    Keeps s₀ (s.takeStage r) := keeps_of_eq h rfl rfl rfl rfl rfl

theorem State.takeLayer_keeps {s₀ s : State} (h : Keeps s₀ s) (r : LedgerRec) :
    Keeps s₀ (s.takeLayer r) := by
  unfold State.takeLayer
  with_reducible repeat' first
    | assumption | (intro) | apply State.setLayer_keeps | apply State.refillEvent_keeps | apply keeps_ite
    | (extract_lets +onlyGivenNames x; refine keeps_cut (s₀ := s₀) (x := x) ?_ ?_; rotate_left 1;
        clear_value x; intro; rotate_right 1; dsimp -zeta only [x]; try clear x)
    | (extract_lets +onlyGivenNames x; clear_value x) | split

theorem State.takeTail_keeps {s₀ s : State} (h : Keeps s₀ s) (r : LedgerRec) :
    Keeps s₀ (s.takeTail r) := by
  unfold State.takeTail
  with_reducible repeat' first
    | assumption | apply State.takeStage_keeps | apply State.takeLayer_keeps | apply keeps_ite

theorem State.shadowStart_keeps {s₀ s : State} (h : Keeps s₀ s) :
    Keeps s₀ (s.shadowStart) := by
  unfold State.shadowStart
  with_reducible repeat' first
    | assumption | (intro) | apply State.ledgerFrame_keeps | apply State.setTandem_keeps
    | apply State.applyLedger_keeps | apply State.takeTail_keeps | apply State.openPeriod_keeps
    | apply State.clusterReports_keeps | apply State.macEnds_keeps | apply State.bumpF_keeps
    | apply State.notCurrent_keeps | apply keeps_ite | apply keeps_foldl
    | (extract_lets +onlyGivenNames x; refine keeps_cut (s₀ := s₀) (x := x) ?_ ?_; rotate_left 1;
        clear_value x; intro; rotate_right 1; dsimp -zeta only [x]; try clear x)
    | (extract_lets +onlyGivenNames x; clear_value x) | refine keeps_fst (by assumption) ?_
    | refine keeps_snd (by assumption) ?_ | split

theorem State.takeover_keeps {s₀ s : State} (h : Keeps s₀ s) :
    Keeps s₀ (s.takeover) := by
  unfold State.takeover
  with_reducible repeat' first
    | assumption | apply State.becomeActive_keeps | apply State.pairSend_keeps | apply State.bumpF_keeps
    | apply State.report_keeps | apply State.fset_keeps | apply State.setClock_keeps | apply State.setTandem_keeps
    | apply State.shadowStart_keeps | apply keeps_ite
    | (extract_lets +onlyGivenNames x; refine keeps_cut (s₀ := s₀) (x := x) ?_ ?_; rotate_left 1;
        clear_value x; intro; rotate_right 1; dsimp -zeta only [x]; try clear x)
    | (extract_lets +onlyGivenNames x; clear_value x)

theorem State.failureDeclared_keeps {s₀ s : State} (h : Keeps s₀ s) :
    Keeps s₀ (s.failureDeclared) := by
  unfold State.failureDeclared
  with_reducible repeat' first
    | assumption | apply State.fset_keeps | apply State.takeover_keeps | apply State.setTandem_keeps
    | apply State.eventOf_keeps | apply keeps_ite
    | (extract_lets +onlyGivenNames x; refine keeps_cut (s₀ := s₀) (x := x) ?_ ?_; rotate_left 1;
        clear_value x; intro; rotate_right 1; dsimp -zeta only [x]; try clear x)
    | (extract_lets +onlyGivenNames x; clear_value x) | split

theorem State.siphonUp_keeps {s₀ s : State} (h : Keeps s₀ s) (nonce : List Byte) :
    Keeps s₀ (s.siphonUp nonce) := by
  unfold State.siphonUp
  split
  · exact keeps_ite (keeps_of_eq (State.emit_keeps (State.random_keeps h 48) _) rfl rfl rfl rfl rfl) h
  · exact h

theorem State.resync_keeps {s₀ s : State} (h : Keeps s₀ s) (auth : Bool) :
    Keeps s₀ (s.resync auth) := by
  unfold State.resync
  with_reducible repeat' first
    | assumption | apply State.setTandem_keeps | apply State.siphonSay_keeps | apply State.showLeft_keeps
    | apply State.authFail_keeps | apply keeps_ite | split

theorem State.catchupPages_keeps {s₀ s : State} (h : Keeps s₀ s) (pages : List (BitVec 18 × List Byte))
    (engine : List EngineRec) : Keeps s₀ (s.catchupPages pages engine) := by
  have h1 := keeps_foldl pages (fun (t : State) p => { t with mem := { t.mem with reservoir :=
      (memWrite t.mem.reservoir (pageSize * p.1.toNat) (p.2 ++ List.replicate (pageSize - p.2.length) 0)) } }) h
    (fun _ _ ht => keeps_reservoir ht _ (memWrite_wf _ _))
  exact keeps_ite h1 (State.setTandem_keeps (State.setBasin_keeps (State.loadState_keeps h1 _) _) _)

theorem State.showLedger_keeps {s₀ s : State} (h : Keeps s₀ s) (l : List LedgerRec) :
    Keeps s₀ (s.showLedger l) := by
  unfold State.showLedger
  with_reducible repeat' first
    | assumption | apply State.fset_keeps
    | (extract_lets +onlyGivenNames x; refine keeps_cut (s₀ := s₀) (x := x) ?_ ?_; rotate_left 1;
        clear_value x; intro; rotate_right 1; dsimp -zeta only [x]; try clear x)
    | (extract_lets +onlyGivenNames x; clear_value x)

theorem State.recordTaken_keeps {s₀ s : State} (h : Keeps s₀ s) (r : LedgerRec) :
    Keeps s₀ (s.recordTaken r) := by
  unfold State.recordTaken
  with_reducible repeat' first
    | assumption | apply State.setTandem_keeps | apply State.gaFeedAll_keeps | apply State.showLedger_keeps
    | apply State.takeTail_keeps | apply keeps_ite
    | (extract_lets +onlyGivenNames x; refine keeps_cut (s₀ := s₀) (x := x) ?_ ?_; rotate_left 1;
        clear_value x; intro; rotate_right 1; dsimp -zeta only [x]; try clear x)
    | (extract_lets +onlyGivenNames x; clear_value x)

theorem State.shadowNext_keeps {s₀ s : State} (h : Keeps s₀ s) : Keeps s₀ s.shadowNext :=
  keeps_ite (State.shadowStart_keeps h) h

theorem State.standbyStart_keeps {s₀ s : State} (h : Keeps s₀ s) :
    Keeps s₀ (s.standbyStart) := by
  unfold State.standbyStart
  with_reducible repeat' first
    | assumption | apply State.shadowStart_keeps | apply State.stageShadow_keeps | apply State.shadowNext_keeps
    | apply State.setTandem_keeps | apply keeps_ite | split

theorem State.heldStart_keeps {s₀ s : State} (h : Keeps s₀ s) :
    Keeps s₀ (s.heldStart) := by
  unfold State.heldStart
  with_reducible repeat' first
    | assumption | apply State.setTandem_keeps | apply State.shadowNext_keeps | apply keeps_ite

theorem State.standbyDeadline_keeps {s₀ s : State} (h : Keeps s₀ s) :
    Keeps s₀ (s.standbyDeadline) := by
  unfold State.standbyDeadline
  with_reducible repeat' first
    | assumption | (intro) | apply State.tellDigest_keeps | apply State.shadowStage_keeps
    | apply State.endShadow_keeps | apply State.heldStart_keeps | apply State.bumpF_keeps
    | apply State.notCurrent_keeps | apply keeps_ite
    | (extract_lets +onlyGivenNames x; refine keeps_cut (s₀ := s₀) (x := x) ?_ ?_; rotate_left 1;
        clear_value x; intro; rotate_right 1; dsimp -zeta only [x]; try clear x)
    | (extract_lets +onlyGivenNames x; clear_value x) | split

theorem State.ledgerWord_keeps {s₀ s : State} (h : Keeps s₀ s) (i : Nat) (t : Task) (v : Word) :
    Keeps s₀ (s.ledgerWord i t v).1 := by
  unfold State.ledgerWord
  with_reducible repeat' first
    | assumption | (intro) | apply State.setTask_keeps | apply State.setTandem_keeps | apply State.notCurrent_keeps
    | apply State.ledgerAdd_keeps | apply keeps_ite | apply keeps_ite_fst
    | (extract_lets +onlyGivenNames x; refine keeps_cut (s₀ := s₀) (x := x) ?_ ?_; rotate_left 1;
        clear_value x; intro; rotate_right 1; dsimp -zeta only [x]; try clear x)
    | (extract_lets +onlyGivenNames x; clear_value x) | split

theorem State.drLedger_keeps {s₀ s : State} (h : Keeps s₀ s) (core rd : Nat) (v : Word) :
    Keeps s₀ (s.drLedger core rd v) := by
  unfold State.drLedger
  with_reducible repeat' first
    | assumption | (intro) | apply State.coreSet_keeps | apply State.ledgerWord_keeps | apply keeps_ite
    | (extract_lets +onlyGivenNames x; refine keeps_cut (s₀ := s₀) (x := x) ?_ ?_; rotate_left 1;
        clear_value x; intro; rotate_right 1; dsimp -zeta only [x]; try clear x)
    | (extract_lets +onlyGivenNames x; clear_value x) | refine keeps_fst (by assumption) ?_
    | refine keeps_snd (by assumption) ?_ | split

theorem State.healthSend_keeps {s₀ s : State} (h : Keeps s₀ s) :
    Keeps s₀ (s.healthSend) := by
  unfold State.healthSend
  with_reducible repeat' first
    | assumption | apply State.siphonSay_keeps | apply State.setTandem_keeps | apply keeps_ite

theorem State.healthTaken_keeps {s₀ s : State} (h : Keeps s₀ s) (w : List Word) :
    Keeps s₀ (s.healthTaken w) := by
  unfold State.healthTaken
  with_reducible repeat' first
    | assumption | (intro) | apply State.setRg_keeps | apply State.setTandem_keeps | apply State.report_keeps
    | apply keeps_ite | apply keeps_foldl

theorem State.frameArrives_keeps {s₀ s : State} (h : Keeps s₀ s) (m : Nat) (bytes : List Byte) (good : Bool) :
    Keeps s₀ (s.frameArrives m bytes good) := by
  unfold State.frameArrives
  with_reducible repeat' first
    | assumption | apply State.macReceive_keeps | apply State.watchWake_keeps | apply keeps_ite

theorem State.sacnArrives_keeps {s₀ s : State} (h : Keeps s₀ s) (m : Nat) :
    Keeps s₀ (s.sacnArrives m) := by
  unfold State.sacnArrives
  with_reducible repeat' first
    | assumption | apply State.sacnReceive_keeps | apply State.watchWake_keeps | apply keeps_ite | split

theorem State.edgeArrives_keeps {s₀ s : State} (h : Keeps s₀ s) (i : Nat) (rising : Bool) (ago : Nat) :
    Keeps s₀ (s.edgeArrives i rising ago) := by
  unfold State.edgeArrives
  with_reducible repeat' first
    | assumption | apply State.tallyEdge_keeps | apply State.watchWake_keeps | apply keeps_ite

theorem State.setLatch_keeps {s₀ s : State} (h : Keeps s₀ s) (req : Requester) (hi : Nat) (v : Option Word) :
    Keeps s₀ (s.setLatch req hi v) := keeps_of_eq h rfl rfl rfl rfl rfl

theorem State.setHiHeld_keeps {s₀ s : State} (h : Keeps s₀ s) (req : Requester) (hi : Nat) (v : Option Word) :
    Keeps s₀ (s.setHiHeld req hi v) := keeps_of_eq h rfl rfl rfl rfl rfl

theorem State.readReg_keeps {s₀ s : State} (h : Keeps s₀ s) (req : Requester) (r : RegRow) (i : Nat) (j : Nat) :
    Keeps s₀ (s.readReg req r i j).2 := by
  unfold State.readReg
  with_reducible repeat' first
    | assumption | apply State.setLatch_keeps | apply State.fset_keeps | apply State.setRg_keeps
    | apply State.slcRandom_keeps | apply keeps_ite_snd | apply keeps_ite | refine keeps_snd (by assumption) ?_
    | apply keepsO_getD | split

theorem State.readWord_keeps {s₀ s : State} (h : Keeps s₀ s) (req : Requester) (off : Nat) :
    Keeps s₀ (s.readWord req off).2 := by
  unfold State.readWord
  with_reducible repeat' first
    | assumption | apply State.readReg_keeps | apply keeps_ite_snd | refine keeps_snd (by assumption) ?_ | split

theorem State.readWords_keeps {s₀ s : State} (h : Keeps s₀ s) (req : Requester) (off n : Nat) :
    Keeps s₀ (s.readWords req off n).2 := by
  induction n generalizing s off with
  | zero => exact h
  | succ n ih => exact ih (State.readWord_keeps h req off) _

theorem State.barRead_keeps {s₀ s : State} (h : Keeps s₀ s) (req : Requester) (off : Nat) (n : Nat) :
    Keeps s₀ (s.barRead req off n).2 := by
  unfold State.barRead
  with_reducible repeat' first
    | assumption | apply State.readWords_keeps | apply State.accessErr_keeps | apply keeps_ite_snd | apply keeps_ite

theorem State.plainWrite_keeps {s₀ s : State} (h : Keeps s₀ s) (r : RegRow) (i : Nat) (j : Nat) (v : Word) :
    Keeps s₀ (s.plainWrite r i j v) := by
  unfold State.plainWrite
  with_reducible repeat' first | assumption | apply State.setRg_keeps | apply State.bumpF_keeps | apply keeps_ite

theorem State.rstCtrlWrite_keeps {s₀ s : State} (h : Keeps s₀ s) (req : Requester) (v : Word) :
    Keeps s₀ (s.rstCtrlWrite req v) := by
  unfold State.rstCtrlWrite
  with_reducible repeat' first
    | assumption | apply State.accessErr_keeps | apply State.askReset_keeps | apply keeps_ite

theorem State.rstDomainWrite_keeps {s₀ s : State} (h : Keeps s₀ s) (req : Requester) (v : Word) :
    Keeps s₀ (s.rstDomainWrite req v) := by
  unfold State.rstDomainWrite
  with_reducible repeat' first
    | assumption | apply State.resetDomains_keeps | apply State.accessErr_keeps | apply keeps_ite

theorem State.pmRequestWrite_keeps {s₀ s : State} (h : Keeps s₀ s) (v : Word) :
    Keeps s₀ (s.pmRequestWrite v) := by
  unfold State.pmRequestWrite
  with_reducible repeat' first | assumption | apply State.pmAbort_keeps | apply State.pmAsk_keeps | apply keeps_ite

theorem State.irqTestWrite_keeps {s₀ s : State} (h : Keeps s₀ s) (v : Word) :
    Keeps s₀ (s.irqTestWrite v) := by
  unfold State.irqTestWrite
  with_reducible repeat' first | assumption | apply State.sendVector_keeps | apply keeps_ite

theorem State.gaCfgWrite_keeps {s₀ s : State} (h : Keeps s₀ s) (req : Requester) (g : Nat) (v : Word) :
    Keeps s₀ (s.gaCfgWrite req g v) := by
  unfold State.gaCfgWrite
  with_reducible repeat' first | assumption | apply State.setRg_keeps | apply State.accessErr_keeps | apply keeps_ite

theorem State.discard_keeps {s₀ s : State} (h : Keeps s₀ s) (count : Bool) (req : Requester) (off : Nat) :
    Keeps s₀ (s.discard count req off) := by
  unfold State.discard
  with_reducible repeat' first | assumption | apply State.accessErr_keeps | apply keeps_ite

theorem State.writeHost_keeps {s₀ s : State} (h : Keeps s₀ s) (req : Requester) (b : Nat) (i : Nat) (off : Nat)
    (v : Word) :
    KeepsO s₀ (s.writeHost req b i off v) := by
  unfold State.writeHost
  with_reducible repeat' first
    | assumption | apply State.fset_keeps | apply State.nudge_keeps | apply State.ringCfgWrite_keeps
    | apply State.accessErr_keeps | apply State.clusterReports_keeps | apply State.coreRunWrite_keeps
    | apply keepsO_ite | exact keepsO_none | apply keeps_ite | apply keepsO_some

theorem State.writePix_keeps {s₀ s : State} (h : Keeps s₀ s) (req : Requester) (b i : Nat) (v : Word) :
    KeepsO s₀ (s.writePix req b i v) := by
  unfold State.writePix
  with_reducible repeat' first
    | assumption | apply State.pfCtrlWrite_keeps | apply State.delaySlewWrite_keeps | apply State.fadeqBaseWrite_keeps
    | apply State.fadeqTailWrite_keeps | apply State.cmpCtrlWrite_keeps | apply State.flattenBaseWrite_keeps
    | apply State.flattenSizeWrite_keeps | apply State.clrCtrlWrite_keeps | apply State.clrBaseWrite_keeps
    | apply keeps_ite | apply keepsO_ite | exact keepsO_none | apply keepsO_some

theorem State.writeOut_keeps {s₀ s : State} (h : Keeps s₀ s) (req : Requester) (b i : Nat) (v : Word) :
    KeepsO s₀ (s.writeOut req b i v) := by
  unfold State.writeOut
  with_reducible repeat' first
    | assumption | apply State.wmCtrlWrite_keeps | apply State.supplyTimingWrite_keeps
    | apply State.probeCfgWrite_keeps | apply State.pmbusCfgWrite_keeps | apply State.legAckWrite_keeps
    | apply State.furCtrlWrite_keeps | apply State.nodeBaseWrite_keeps | apply State.rasCtrlWrite_keeps
    | apply keeps_ite | apply keepsO_ite | exact keepsO_none | apply keepsO_some

theorem State.streamWrite_keeps {s₀ s : State} (h : Keeps s₀ s) (req : Requester) (r : RegRow) (i j : Nat) (v : Word)
    :
    Keeps s₀ (s.streamWrite req r i j v) := by
  unfold State.streamWrite
  with_reducible repeat' first
    | assumption | apply State.plainWrite_keeps | apply State.accessErr_keeps | apply keeps_ite
    | (extract_lets +onlyGivenNames x; refine keeps_cut (s₀ := s₀) (x := x) ?_ ?_; rotate_left 1;
        clear_value x; intro; rotate_right 1; dsimp -zeta only [x]; try clear x)
    | (extract_lets +onlyGivenNames x; clear_value x)

theorem State.writeNet_keeps {s₀ s : State} (h : Keeps s₀ s) (req : Requester) (r : RegRow) (i j : Nat) (v : Word) :
    KeepsO s₀ (s.writeNet req r i j v) := by
  unfold State.writeNet
  with_reducible repeat' first
    | assumption | apply State.macCfgWrite_keeps | apply State.macEnds_keeps | apply State.weirWrite_keeps
    | apply State.rxqCfgWrite_keeps | apply State.tsqPop_keeps | apply State.streamWrite_keeps | apply keeps_ite
    | apply keepsO_ite | exact keepsO_none | apply keepsO_some
    | (extract_lets +onlyGivenNames x; refine keeps_cut (s₀ := s₀) (x := x) ?_ ?_; rotate_left 1;
        clear_value x; intro; rotate_right 1; dsimp -zeta only [x]; try clear x)
    | (extract_lets +onlyGivenNames x; clear_value x)

theorem State.writeTim_keeps {s₀ s : State} (h : Keeps s₀ s) (req : Requester) (b : Nat) (i : Nat) (off : Nat)
    (v : Word) :
    KeepsO s₀ (s.writeTim req b i off v) := by
  unfold State.writeTim
  with_reducible repeat' first
    | assumption | apply State.capture_keeps | apply State.tallyPop_keeps | apply State.gateArm_keeps
    | apply State.setRg_keeps | apply State.gateOff_keeps | apply State.accessErr_keeps | apply keepsO_ite
    | exact keepsO_none | apply keeps_ite | apply keepsO_some

theorem State.bsnOpWrite_keeps {s₀ s : State} (h : Keeps s₀ s) (req : Requester) (v : Word) :
    Keeps s₀ (s.bsnOpWrite req v) := by
  unfold State.bsnOpWrite
  with_reducible repeat' first
    | assumption | (intro) | apply State.opStart_keeps | apply State.rootCommit_keeps | apply State.rootSnapshot_keeps
    | apply State.arrive_keeps | apply State.bcastStart_keeps | apply State.rootReset_keeps | apply keeps_ite

theorem State.writeBsn_keeps {s₀ s : State} (h : Keeps s₀ s) (req : Requester) (b : Nat) (off : Nat) (v : Word) :
    KeepsO s₀ (s.writeBsn req b off v) := by
  unfold State.writeBsn
  with_reducible repeat' first
    | assumption | apply State.bsnCtrlWrite_keeps | apply State.bsnOpWrite_keeps | apply State.bcastPop_keeps
    | apply State.setRg_keeps | apply State.accessErr_keeps | apply State.sipCtrlWrite_keeps | apply State.fset_keeps
    | apply keepsO_ite | exact keepsO_none | apply keeps_ite | apply keepsO_some

theorem State.writePm_keeps {s₀ s : State} (h : Keeps s₀ s) (req : Requester) (r : RegRow) (i j : Nat) (v : Word) :
    KeepsO s₀ (s.writePm req r i j v) := by
  unfold State.writePm
  with_reducible repeat' first
    | assumption | apply State.pmRequestWrite_keeps | apply State.plainWrite_keeps | apply State.tenderAlarm_keeps
    | apply State.accessErr_keeps | apply keeps_ite | apply keepsO_ite | exact keepsO_none | apply keepsO_some
    | (extract_lets +onlyGivenNames x; refine keeps_cut (s₀ := s₀) (x := x) ?_ ?_; rotate_left 1;
        clear_value x; intro; rotate_right 1; dsimp -zeta only [x]; try clear x)
    | (extract_lets +onlyGivenNames x; clear_value x)

theorem State.writeTh_keeps {s₀ s : State} (h : Keeps s₀ s) (r : RegRow) (i : Nat) (j : Nat) (v : Word) :
    KeepsO s₀ (s.writeTh r i j v) := by
  unfold State.writeTh
  with_reducible repeat' first
    | assumption | apply State.plainWrite_keeps | apply keepsO_ite | apply keeps_ite | exact keepsO_none
    | apply keeps_ite | apply keepsO_some

theorem State.writeSlc_keeps {s₀ s : State} (h : Keeps s₀ s) (req : Requester) (host : HostView) (r : RegRow) (i j :
    Nat) (v : Word) :
    KeepsO s₀ (s.writeSlc req host r i j v) := by
  unfold State.writeSlc
  with_reducible repeat' first
    | assumption | apply State.slcOpWrite_keeps | apply State.accessErr_keeps | apply State.plainWrite_keeps
    | apply State.updAbort_keeps | apply keeps_ite | apply keepsO_ite | exact keepsO_none | apply keepsO_some
    | (extract_lets +onlyGivenNames x; refine keeps_cut (s₀ := s₀) (x := x) ?_ ?_; rotate_left 1;
        clear_value x; intro; rotate_right 1; dsimp -zeta only [x]; try clear x)
    | (extract_lets +onlyGivenNames x; clear_value x)

theorem State.writeCare_keeps {s₀ s : State} (h : Keeps s₀ s) (req : Requester) (b : Nat) (i : Nat) (off : Nat)
    (v : Word) :
    KeepsO s₀ (s.writeCare req b i off v) := by
  unfold State.writeCare
  with_reducible repeat' first
    | assumption | apply State.gaCfgWrite_keeps | apply State.accessErr_keeps | apply State.gaRunWrite_keeps
    | apply State.gaDataWrite_keeps | apply State.gaData8Write_keeps | apply State.gaFinishWrite_keeps
    | apply State.siltRelease_keeps | apply State.siltSeen_keeps | apply State.rstCtrlWrite_keeps
    | apply State.rstDomainWrite_keeps | apply keepsO_ite | exact keepsO_none | apply keeps_ite | apply keepsO_some

theorem State.ownWrite_keeps {s₀ s : State} (h : Keeps s₀ s) (req : Requester) (host : HostView) (r : RegRow) (i j :
    Nat) (v : Word) :
    KeepsO s₀ (s.ownWrite req host r i j v) := by
  unfold State.ownWrite
  with_reducible repeat' first
    | assumption | apply State.irqTestWrite_keeps | apply State.writeHost_keeps | apply State.writePix_keeps
    | apply State.writeOut_keeps | apply State.writeNet_keeps | apply State.writeTim_keeps
    | apply State.writeBsn_keeps | apply State.writePm_keeps | apply State.writeTh_keeps | apply State.writeSlc_keeps
    | apply State.writeCare_keeps | apply keeps_ite | apply keepsO_ite | exact keepsO_none | apply keepsO_some
    | (extract_lets +onlyGivenNames x; refine keeps_cut (s₀ := s₀) (x := x) ?_ ?_; rotate_left 1;
        clear_value x; intro; rotate_right 1; dsimp -zeta only [x]; try clear x)
    | (extract_lets +onlyGivenNames x; clear_value x) | refine keeps_some (by assumption) ?_

theorem State.hiWrite_keeps {s₀ s : State} (h : Keeps s₀ s) (req : Requester) (host : HostView) (r : RegRow)
    (i : Nat) (j : Nat) (v : Word) :
    Keeps s₀ (s.hiWrite req host r i j v) := by
  unfold State.hiWrite
  with_reducible repeat' first
    | assumption | apply State.ownWrite_keeps | apply State.setHiHeld_keeps | refine keeps_some (by assumption) ?_
    | split

theorem State.loWrite_keeps {s₀ s : State} (h : Keeps s₀ s) (req : Requester) (host : HostView) (r : RegRow)
    (i : Nat) (j : Nat) (v : Word) :
    Keeps s₀ (s.loWrite req host r i j v) := by
  unfold State.loWrite
  with_reducible repeat' first
    | assumption | apply State.setHiHeld_keeps | apply State.ownWrite_keeps | apply State.plainWrite_keeps
    | apply State.ptpAlarm_keeps | apply keeps_ite
    | (extract_lets +onlyGivenNames x; refine keeps_cut (s₀ := s₀) (x := x) ?_ ?_; rotate_left 1;
        clear_value x; intro; rotate_right 1; dsimp -zeta only [x]; try clear x)
    | (extract_lets +onlyGivenNames x; clear_value x) | refine keeps_some (by assumption) ?_ | split

theorem State.writeReg_keeps {s₀ s : State} (h : Keeps s₀ s) (req : Requester) (host : HostView) (r : RegRow)
    (i : Nat) (j : Nat) (v : Word) :
    Keeps s₀ (s.writeReg req host r i j v) := by
  unfold State.writeReg
  with_reducible repeat' first
    | assumption | apply State.accessErr_keeps | apply State.loWrite_keeps | apply State.hiWrite_keeps
    | apply State.ownWrite_keeps | apply State.plainWrite_keeps | apply keeps_ite
    | refine keeps_some (by assumption) ?_ | apply keepsO_getD | split

theorem State.dropHeld_keeps {s₀ s : State} (h : Keeps s₀ s) (req : Requester) (off n : Nat) :
    Keeps s₀ (s.dropHeld req off n) := by
  unfold State.dropHeld
  with_reducible repeat' first
    | assumption | (intro) | apply State.setHiHeld_keeps | apply keeps_foldl
    | (extract_lets +onlyGivenNames x; refine keeps_cut (s₀ := s₀) (x := x) ?_ ?_; rotate_left 1;
        clear_value x; intro; rotate_right 1; dsimp -zeta only [x]; try clear x)
    | (extract_lets +onlyGivenNames x; clear_value x) | split

theorem State.tapDenied_keeps {s₀ s : State} (h : Keeps s₀ s) :
    Keeps s₀ (s.tapDenied) := by
  unfold State.tapDenied
  with_reducible repeat' first | assumption | apply State.emit_keeps | apply State.bumpF_keeps

theorem State.barWrite_keeps {s₀ s : State} (h : Keeps s₀ s) (req : Requester) (host : HostView) (off n : Nat) (v :
    Word) :
    Keeps s₀ (s.barWrite req host off n v) := by
  unfold State.barWrite
  with_reducible repeat' first
    | assumption | (intro) | apply State.dropHeld_keeps | apply State.accessErr_keeps | apply State.tapDenied_keeps
    | apply State.writeReg_keeps | apply keeps_ite | split

theorem State.regWrite_keeps {s₀ s : State} (h : Keeps s₀ s) (req : Requester) (host : HostView) (off : Nat)
    (n : Nat) (v : Word) :
    Keeps s₀ (s.regWrite req host off n v) := by
  unfold State.regWrite
  with_reducible repeat' first
    | assumption | apply State.barWrite_keeps | apply State.accessErr_keeps | apply State.tapDenied_keeps
    | apply keeps_ite | split

theorem State.regRead_keeps {s₀ s : State} (h : Keeps s₀ s) (req : Requester) (off : Nat) (n : Nat) :
    Keeps s₀ (s.regRead req off n).2 := by
  unfold State.regRead
  with_reducible repeat' first
    | assumption | apply State.barRead_keeps | apply State.accessErr_keeps | apply State.tapDenied_keeps
    | apply keeps_ite_snd | refine keeps_snd (by assumption) ?_ | split

theorem State.readOut_keeps {s₀ s : State} (h : Keeps s₀ s) (req : Requester) (off : Nat) (n : Nat) :
    Keeps s₀ (s.readOut req off n) := by
  unfold State.readOut
  with_reducible repeat' first | assumption | apply State.regRead_keeps | apply State.emit_keeps

theorem State.write1_keeps {s₀ s : State} (h : Keeps s₀ s) (req : Requester) (off : Nat) (v : Word) :
    Keeps s₀ (s.write1 req off v) := by
  unfold State.write1
  with_reducible repeat' first | assumption | apply State.regWrite_keeps

theorem State.slcCommand_keeps {s₀ s : State} (h : Keeps s₀ s) (req : Requester) (host : HostView) (op : Nat)
    (arg : BitVec 16) :
    Keeps s₀ (s.slcCommand req host op arg) := by
  unfold State.slcCommand
  with_reducible repeat' first | assumption | apply State.settle_keeps | apply State.regWrite_keeps

theorem State.readTouching_keeps {s₀ s : State} (h : Keeps s₀ s) (req : Requester) (word off n : Nat) :
    Keeps s₀ (s.readTouching req word off n) := by
  unfold State.readTouching
  with_reducible repeat' first | assumption | apply State.readOut_keeps | apply State.settle_keeps | apply keeps_ite

theorem State.smbWrite_keeps {s₀ s : State} (h : Keeps s₀ s) (off : Nat) (v : Word) (pec : Bool) :
    Keeps s₀ (s.smbWrite off v pec) := by
  unfold State.smbWrite
  with_reducible repeat' first | assumption | apply State.emit_keeps | apply State.regWrite_keeps | apply keeps_ite

theorem State.smbRead_keeps {s₀ s : State} (h : Keeps s₀ s) :
    Keeps s₀ (s.smbRead) := by
  unfold State.smbRead
  with_reducible repeat' first | assumption | apply State.regRead_keeps | apply State.emit_keeps

end Sys2Proof.Machine
end

