-- ==== Sys2Proof/Laws/Keep9.lean ====
section
/-! SUPPORT. `Keeps` for the functions of CoreMem, CoreRun, Jtag. -/

namespace Sys2Proof.Machine

open Sys2Proof

theorem State.readArray_keeps {s₀ s : State} (h : Keeps s₀ s) (pool : Bool) (key : Nat) (n : Nat) :
    Keeps s₀ (s.readArray pool key n).2 := by
  unfold State.readArray
  with_reducible repeat' first | assumption | apply State.eccReport_keeps | apply keeps_ite_snd

theorem State.loadAt_keeps {s₀ s : State} (h : Keeps s₀ s) (core : Nat) (a : Nat) (n : Nat) :
    Keeps s₀ (s.loadAt core a n).2 := by
  unfold State.loadAt
  with_reducible repeat' first
    | assumption | apply State.readArray_keeps | apply State.regRead_keeps | refine keeps_snd (by assumption) ?_
    | split

theorem State.rowTold_keeps {s₀ s : State} (h : Keeps s₀ s) (uncorrectable : Bool) :
    Keeps s₀ (s.rowTold uncorrectable) := by
  unfold State.rowTold
  with_reducible repeat' first
    | assumption | apply keeps_ite | apply keeps_mk
    | (extract_lets +onlyGivenNames x; refine keeps_cut (s₀ := s₀) (x := x) ?_ ?_; rotate_left 1;
        clear_value x; intro; rotate_right 1; dsimp -zeta only [x]; try clear x)
    | (extract_lets +onlyGivenNames x; clear_value x)

theorem State.instantSend_keeps {s₀ s : State} (h : Keeps s₀ s) :
    Keeps s₀ (s.instantSend) := by
  unfold State.instantSend
  with_reducible repeat' first | assumption | apply State.siphonSay_keeps | apply keeps_ite

theorem State.pairHears_keeps {s₀ s : State} (h : Keeps s₀ s) (eth : Bool) (f : State → State)
    (hf : ∀ t, Keeps s₀ t → Keeps s₀ (f t)) : Keeps s₀ (s.pairHears eth f) := by
  unfold State.pairHears
  refine keeps_ite (keeps_ite ?_ h) (keeps_ite (hf _ h) h)
  split
  · next e => exact hf _ (State.weirs_keeps (keeps_map e (State.rxPop_keeps h _ 2)) _)
  · exact h

theorem State.fenced_keeps {s₀ s : State} (h : Keeps s₀ s) (auth : Bool) :
    Keeps s₀ (s.fenced auth) := by
  unfold State.fenced
  with_reducible repeat' first
    | assumption | apply State.authFail_keeps | apply State.becomeStandby_keeps | apply keeps_ite | split

theorem State.padStore_keeps {s₀ s : State} (h : Keeps s₀ s) (core off n v : Nat) :
    Keeps s₀ (s.padStore core off n v) :=
  State.freshWord_keeps (keeps_pads h _ (memPut_wf _ _ _)) _ _ _

theorem State.poolStore_keeps {s₀ s : State} (h : Keeps s₀ s) (core : Nat) (off : Nat) (n : Nat) (v : Nat) :
    Keeps s₀ (s.poolStore core off n v) := by
  unfold State.poolStore
  with_reducible repeat' first | assumption | apply State.freshWord_keeps | apply State.poolWrite_keeps

theorem State.msipNarrow_keeps {s₀ s : State} (h : Keeps s₀ s) (core : Nat) (target : Nat) (v : Word) :
    Keeps s₀ (s.msipNarrow core target v) := by
  unfold State.msipNarrow
  with_reducible repeat' first | assumption | apply State.coreInterrupt_keeps | apply State.setCore_keeps

theorem State.storeAt_keeps {s₀ s : State} (h : Keeps s₀ s) (core a n : Nat) (v : Word) :
    KeepsO s₀ (s.storeAt core a n v) := by
  unfold State.storeAt
  extract_lets w
  split
  · exact keepsO_some (State.padStore_keeps h _ _ _ _)
  · exact keepsO_some (State.poolStore_keeps h _ _ _ _)
  · exact keepsO_some (State.aliasStore_keeps h _ _ _ _ _)
  · exact keepsO_some (State.aliasStore_keeps h _ _ _ _ _)
  · exact keepsO_some (keeps_ite (State.msipStore_keeps h _ _ _) (State.msipNarrow_keeps h _ _ _))
  · have h1 := State.windowStore_keeps h core
    exact keepsO_ite keepsO_none (keepsO_some (keeps_ite (State.windowStore_keeps (h1 _ _) _ _ _) (h1 _ _)))
  · exact keepsO_some (State.regWrite_keeps h _ _ _ _ _)
  · exact keepsO_some (keeps_reservoir h _ (memPut_wf _ _ _))
  · exact keepsO_none

theorem State.corePast_keeps {s₀ s : State} (h : Keeps s₀ s) (core : Nat) (compressed : Bool) :
    Keeps s₀ (s.corePast core compressed) := by
  unfold State.corePast
  with_reducible repeat' first | assumption | apply State.setCore_keeps

theorem State.setXr_keeps {s₀ s : State} (h : Keeps s₀ s) (core : Nat) (rd : Nat) (v : Word) :
    Keeps s₀ (s.setXr core rd v) := by
  unfold State.setXr
  with_reducible repeat' first | assumption | apply State.setCore_keeps

theorem State.setFr_keeps {s₀ s : State} (h : Keeps s₀ s) (core : Nat) (rd : Nat) (v : Word) :
    Keeps s₀ (s.setFr core rd v) := by
  unfold State.setFr
  with_reducible repeat' first | assumption | apply State.setCore_keeps

theorem State.fetchThen_keeps {s₀ s : State} (h : Keeps s₀ s) (core a : Nat) (k : State → Nat → State)
    (hk : ∀ t w, Keeps s₀ t → Keeps s₀ (k t w)) : Keeps s₀ (s.fetchThen core a k) := by
  unfold State.fetchThen
  with_reducible repeat' first
    | assumption | apply hk | apply State.setCore_keeps | apply State.coreTrap_keeps | apply State.readArray_keeps
    | apply keeps_ite
    | (extract_lets +onlyGivenNames x; refine keeps_cut (s₀ := s₀) (x := x) ?_ ?_; rotate_left 1;
        clear_value x; intro; rotate_right 1; dsimp -zeta only [x]; try clear x)
    | (extract_lets +onlyGivenNames x; clear_value x) | refine keeps_snd (by assumption) ?_ | split

theorem State.coreFetch_keeps {s₀ s : State} (h : Keeps s₀ s) (core a : Nat) :
    Keeps s₀ (s.coreFetch core a) := by
  unfold State.coreFetch
  with_reducible repeat' first | assumption | (intro) | apply State.fetchThen_keeps | apply State.emit_keeps

theorem State.coreLoad_keeps {s₀ s : State} (h : Keeps s₀ s) (core a n : Nat) (compressed : Bool) (put : State → Nat → State)
    (hp : ∀ t v, Keeps s₀ t → Keeps s₀ (put t v)) : Keeps s₀ (s.coreLoad core a n compressed put) := by
  unfold State.coreLoad
  refine keeps_ite (State.coreTrap_keeps h _ _ _) ?_
  have h1 := State.loadAt_keeps h core a n
  split
  · next e => exact State.corePast_keeps (hp _ _ (keeps_snd e h1)) _ _
  · next e => exact State.coreTrap_keeps (keeps_snd e h1) _ _ _

theorem State.coreStore_keeps {s₀ s : State} (h : Keeps s₀ s) (core : Nat) (a : Nat) (n : Nat) (compressed : Bool)
    (v : Word) :
    Keeps s₀ (s.coreStore core a n compressed v) := by
  unfold State.coreStore
  with_reducible repeat' first
    | assumption | apply State.coreTrap_keeps | apply State.storeAt_keeps | apply State.corePast_keeps
    | apply keeps_ite | refine keeps_some (by assumption) ?_ | split

theorem State.coreLr_keeps {s₀ s : State} (h : Keeps s₀ s) (core : Nat) (a : Nat) (rd : Nat) :
    Keeps s₀ (s.coreLr core a rd) := by
  unfold State.coreLr
  with_reducible repeat' first
    | assumption | apply State.coreTrap_keeps | apply State.readArray_keeps | apply State.setCore_keeps
    | apply State.corePast_keeps | apply keeps_ite | refine keeps_snd (by assumption) ?_ | split

theorem State.coreSc_keeps {s₀ s : State} (h : Keeps s₀ s) (core : Nat) (a : Nat) (rd : Nat) (v : Word) :
    Keeps s₀ (s.coreSc core a rd v) := by
  unfold State.coreSc
  with_reducible repeat' first
    | assumption | apply State.coreTrap_keeps | apply State.poolStore_keeps | apply State.setCore_keeps
    | apply State.corePast_keeps | apply keeps_ite | split

theorem State.coreAmo_keeps {s₀ s : State} (h : Keeps s₀ s) (core : Nat) (a : Nat) (op : Nat) (rd : Nat) (v : Word) :
    Keeps s₀ (s.coreAmo core a op rd v) := by
  unfold State.coreAmo
  with_reducible repeat' first
    | assumption | apply State.coreTrap_keeps | apply State.readArray_keeps | apply State.corePast_keeps
    | apply State.setXr_keeps | apply State.poolStore_keeps | apply keeps_ite | refine keeps_snd (by assumption) ?_
    | split

theorem State.coreIllegal_keeps {s₀ s : State} (h : Keeps s₀ s) (core w : Nat) :
    Keeps s₀ (s.coreIllegal core w) := by
  unfold State.coreIllegal
  with_reducible repeat' first | assumption | apply State.coreTrap_keeps

theorem State.freeXr_keeps {s₀ s : State} (h : Keeps s₀ s) (core rd : Nat) :
    Keeps s₀ (s.freeXr core rd) := by
  unfold State.freeXr
  with_reducible repeat' first
    | assumption | apply State.fresh_keeps | apply State.coreSet_keeps
    | (extract_lets +onlyGivenNames x; refine keeps_cut (s₀ := s₀) (x := x) ?_ ?_; rotate_left 1;
        clear_value x; intro; rotate_right 1; dsimp -zeta only [x]; try clear x)
    | (extract_lets +onlyGivenNames x; clear_value x) | refine keeps_fst (by assumption) ?_
    | refine keeps_snd (by assumption) ?_ | split

theorem State.csrActs_keeps {s₀ s : State} (h : Keeps s₀ s) (core w op rd n : Nat) (v : Word) (writes : Bool) :
    Keeps s₀ (s.csrActs core w op rd n v writes) := by
  unfold State.csrActs
  with_reducible repeat' first
    | assumption | apply State.coreIllegal_keeps | apply State.drTake_keeps | apply State.drPoll_keeps
    | apply State.hkLs_keeps | apply State.setCore_keeps | apply State.drDone_keeps | apply State.clusterReports_keeps
    | apply State.coreSet_keeps | apply State.freeXr_keeps | apply State.drPost_keeps | apply State.drCancel_keeps
    | apply State.drLedger_keeps | apply keeps_ite

theorem State.csrDo_keeps {s₀ s : State} (h : Keeps s₀ s) (core w op rd : Nat) (v : Word) (writes : Bool) (n : Nat) :
    Keeps s₀ (s.csrDo core w op rd v writes n) := by
  unfold State.csrDo
  with_reducible repeat' first
    | assumption | apply State.coreIllegal_keeps | apply State.csrActs_keeps | apply State.freeXr_keeps
    | apply State.setCore_keeps | apply State.coreSet_keeps | apply State.coreInterrupt_keeps | apply keeps_ite
    | (extract_lets +onlyGivenNames x; refine keeps_cut (s₀ := s₀) (x := x) ?_ ?_; rotate_left 1;
        clear_value x; intro; rotate_right 1; dsimp -zeta only [x]; try clear x)
    | (extract_lets +onlyGivenNames x; clear_value x) | split

theorem State.coreGo_keeps {s₀ s : State} (h : Keeps s₀ s) (core : Nat) (target : Word) :
    Keeps s₀ (s.coreGo core target) := by
  unfold State.coreGo
  with_reducible repeat' first | assumption | apply State.setCore_keeps

theorem State.fpPut_keeps {s₀ s : State} (h : Keeps s₀ s) (core rd : Nat) (toInt : Bool) (v : Nat × Nat) :
    Keeps s₀ (s.fpPut core rd toInt v) := by
  unfold State.fpPut
  with_reducible repeat' first
    | assumption | apply State.setCore_keeps | apply State.coreStep_keeps | apply keeps_ite
    | (extract_lets +onlyGivenNames x; refine keeps_cut (s₀ := s₀) (x := x) ?_ ?_; rotate_left 1;
        clear_value x; intro; rotate_right 1; dsimp -zeta only [x]; try clear x)
    | (extract_lets +onlyGivenNames x; clear_value x)

theorem State.fpRounded_keeps {s₀ s : State} (h : Keeps s₀ s) (core w rd rm : Nat) (toInt : Bool) (f : Rounding → Nat
    × Nat) :
    Keeps s₀ (s.fpRounded core w rd rm toInt f) := by
  unfold State.fpRounded
  with_reducible repeat' first
    | assumption | (intro) | apply State.fpPut_keeps | apply State.coreIllegal_keeps | apply keeps_ite | split

theorem State.fpDo_keeps {s₀ s : State} (h : Keeps s₀ s) (core w : Nat) (i : CoreInstr) (compressed : Bool) :
    Keeps s₀ (s.fpDo core w i compressed) := by
  unfold State.fpDo
  with_reducible repeat' first
    | assumption | (intro) | apply State.coreLoad_keeps | apply State.setCore_keeps | apply State.coreStore_keeps
    | apply State.fpRounded_keeps | apply State.fpPut_keeps | apply State.coreIllegal_keeps | apply keeps_ite
    | (extract_lets +onlyGivenNames x; refine keeps_cut (s₀ := s₀) (x := x) ?_ ?_; rotate_left 1;
        clear_value x; intro; rotate_right 1; dsimp -zeta only [x]; try clear x)
    | (extract_lets +onlyGivenNames x; clear_value x) | split

theorem State.coreMret_keeps {s₀ s : State} (h : Keeps s₀ s) (core : Nat) :
    Keeps s₀ (s.coreMret core) := by
  unfold State.coreMret
  with_reducible repeat' first
    | assumption | apply State.setCore_keeps | apply State.coreGo_keeps | apply State.coreInterrupt_keeps
    | (extract_lets +onlyGivenNames x; refine keeps_cut (s₀ := s₀) (x := x) ?_ ?_; rotate_left 1;
        clear_value x; intro; rotate_right 1; dsimp -zeta only [x]; try clear x)
    | (extract_lets +onlyGivenNames x; clear_value x)

theorem State.intDo_keeps {s₀ s : State} (h : Keeps s₀ s) (core w : Nat) (i : CoreInstr) (compressed : Bool) :
    Keeps s₀ (s.intDo core w i compressed) := by
  unfold State.intDo
  extract_lets c next put
  have hput : ∀ rd v, Keeps s₀ (put rd v) := fun rd v => State.corePast_keeps (State.setXr_keeps h core rd v) core compressed
  clear_value put
  with_reducible repeat' first
    | assumption | (intro) | apply State.setXr_keeps | apply State.corePast_keeps | apply State.coreGo_keeps
    | apply State.coreLoad_keeps | apply State.coreStore_keeps | apply State.coreTrap_keeps
    | apply State.coreMret_keeps | apply State.csrDo_keeps | apply State.coreLr_keeps | apply State.coreSc_keeps
    | apply State.coreAmo_keeps | apply State.xhnk2_keeps | apply State.coreIllegal_keeps | apply keeps_ite
    | apply hput | split

theorem State.coreDo_keeps {s₀ s : State} (h : Keeps s₀ s) (core w : Nat) :
    Keeps s₀ (s.coreDo core w) := by
  unfold State.coreDo
  with_reducible repeat' first
    | assumption | (intro) | apply State.coreIllegal_keeps | apply State.intDo_keeps | apply State.fpDo_keeps
    | apply keeps_ite | split

theorem State.meetErrors_keeps {s₀ s : State} (h : Keeps s₀ s) (core a errors : Nat) :
    Keeps s₀ (s.meetErrors core a errors) := by
  unfold State.meetErrors
  extract_lets meet
  have hm : ∀ pool key, Keeps s₀ (meet pool key) := fun pool key =>
    keeps_ite h (keeps_ite (State.bumpF_keeps h _ _ _) (keeps_ite (State.markBad_keeps h _ _) h))
  clear_value meet
  with_reducible repeat' first | assumption | apply hm | split

theorem State.coreAccess_keeps {s₀ s : State} (h : Keeps s₀ s) (core a : Nat) (access : CoreAccess) (compressed :
    Bool) :
    Keeps s₀ (s.coreAccess core a access compressed) := by
  unfold State.coreAccess
  with_reducible repeat' first
    | assumption | (intro) | apply State.coreFetch_keeps | apply State.fetchThen_keeps | apply State.coreDo_keeps
    | apply State.coreLoad_keeps | apply State.setXr_keeps | apply State.coreStore_keeps | apply State.coreLr_keeps
    | apply State.coreSc_keeps | apply State.coreAmo_keeps | apply State.setFr_keeps | apply keeps_ite
    | (extract_lets +onlyGivenNames x; refine keeps_cut (s₀ := s₀) (x := x) ?_ ?_; rotate_left 1;
        clear_value x; intro; rotate_right 1; dsimp -zeta only [x]; try clear x)
    | (extract_lets +onlyGivenNames x; clear_value x) | split

theorem State.debugWhen_keeps {s₀ s : State} (h : Keeps s₀ s) (on : Bool) (f : State → State) (hf : Keeps s₀ (f s)) :
    Keeps s₀ (s.debugWhen on f) :=
  keeps_ite (State.tapDenied_keeps h) (keeps_ite hf (State.emit_keeps (State.fresh_keeps h) _))

theorem State.debugIn_keeps {s₀ s : State} (h : Keeps s₀ s) (d : Domain) (f : State → State) (hf : Keeps s₀ (f s)) :
    Keeps s₀ (s.debugIn d f) := State.debugWhen_keeps h _ f hf

theorem State.setHalt_keeps {s₀ s : State} (h : Keeps s₀ s) (core : Nat) (h' : Nat) :
    Keeps s₀ (s.setHalt core h') := by
  unfold State.setHalt
  with_reducible repeat' first | assumption | apply State.setCore_keeps

theorem State.tapOut_keeps {s₀ s : State} (h : Keeps s₀ s) (v : Word) :
    Keeps s₀ (s.tapOut v) := by
  unfold State.tapOut
  with_reducible repeat' first | assumption | apply State.emit_keeps

theorem State.tapPut_keeps {s₀ s : State} (h : Keeps s₀ s) (cistern : Bool) (a : Nat) (v : Word) :
    Keeps s₀ (s.tapPut cistern a v) :=
  keeps_ite (keeps_ite (keeps_cistern h _ (memPut_wf _ _ _)) h) (keeps_reservoir h _ (memPut_wf _ _ _))

theorem State.tapFree_keeps {s₀ s : State} (h : Keeps s₀ s) :
    Keeps s₀ (s.tapFree) := by
  unfold State.tapFree
  with_reducible repeat' first
    | assumption | apply State.fresh_keeps | apply State.emit_keeps
    | (extract_lets +onlyGivenNames x; refine keeps_cut (s₀ := s₀) (x := x) ?_ ?_; rotate_left 1;
        clear_value x; intro; rotate_right 1; dsimp -zeta only [x]; try clear x)
    | (extract_lets +onlyGivenNames x; clear_value x) | refine keeps_fst (by assumption) ?_
    | refine keeps_snd (by assumption) ?_ | split

theorem State.tapDo_keeps {s₀ s : State} (h : Keeps s₀ s) (op : JtagOp) :
    Keeps s₀ (s.tapDo op) := by
  unfold State.tapDo
  with_reducible repeat' first
    | assumption | (intro) | apply State.emit_keeps | apply State.tapOut_keeps | apply State.tapFree_keeps
    | apply State.debugIn_keeps | apply State.setHalt_keeps | apply State.coreInterrupt_keeps
    | apply State.coreStep_keeps | apply State.setCore_keeps | apply State.padStore_keeps
    | apply State.poolWrite_keeps | apply State.poolStore_keeps | apply State.barRead_keeps
    | apply State.regRead_keeps | apply State.barWrite_keeps | apply State.regWrite_keeps
    | apply State.debugWhen_keeps | apply State.tapPut_keeps | apply State.tapDenied_keeps | apply keeps_ite
    | exact memWrite_wf _ _
    | (extract_lets +onlyGivenNames x; refine keeps_cut (s₀ := s₀) (x := x) ?_ ?_; rotate_left 1;
        clear_value x; intro; rotate_right 1; dsimp -zeta only [x]; try clear x)
    | (extract_lets +onlyGivenNames x; clear_value x) | refine keeps_fst (by assumption) ?_
    | refine keeps_snd (by assumption) ?_ | split | apply keeps_mk

end Sys2Proof.Machine
end

