-- ==== Sys2Proof/Laws/KeepExec.lean ====
section
/-! SUPPORT. `Keeps` for every command. -/

namespace Sys2Proof.Machine

open Sys2Proof

theorem execHkAddsu_keeps (core : Fin 64) (rd rs1 rs2 : Fin 32) (s : State) :
    KeepsR s (execHkAddsu core rd rs1 rs2 s) := by
  unfold execHkAddsu
  with_reducible repeat' first | exact Keeps.refl s | apply keepsR_next | apply State.xhnk2_keeps

theorem execHkSubsu_keeps (core : Fin 64) (rd rs1 rs2 : Fin 32) (s : State) :
    KeepsR s (execHkSubsu core rd rs1 rs2 s) := by
  unfold execHkSubsu
  with_reducible repeat' first | exact Keeps.refl s | apply keepsR_next | apply State.xhnk2_keeps

theorem execHkMulq_keeps (core : Fin 64) (rd rs1 rs2 : Fin 32) (s : State) :
    KeepsR s (execHkMulq core rd rs1 rs2 s) := by
  unfold execHkMulq
  with_reducible repeat' first | exact Keeps.refl s | apply keepsR_next | apply State.xhnk2_keeps

theorem execHkMaxu_keeps (core : Fin 64) (rd rs1 rs2 : Fin 32) (s : State) :
    KeepsR s (execHkMaxu core rd rs1 rs2 s) := by
  unfold execHkMaxu
  with_reducible repeat' first | exact Keeps.refl s | apply keepsR_next | apply State.xhnk2_keeps

theorem execHkMinu_keeps (core : Fin 64) (rd rs1 rs2 : Fin 32) (s : State) :
    KeepsR s (execHkMinu core rd rs1 rs2 s) := by
  unfold execHkMinu
  with_reducible repeat' first | exact Keeps.refl s | apply keepsR_next | apply State.xhnk2_keeps

theorem execHkAvgu_keeps (core : Fin 64) (rd rs1 rs2 : Fin 32) (s : State) :
    KeepsR s (execHkAvgu core rd rs1 rs2 s) := by
  unfold execHkAvgu
  with_reducible repeat' first | exact Keeps.refl s | apply keepsR_next | apply State.xhnk2_keeps

theorem execHkScl_keeps (core : Fin 64) (rd rs1 rs2 : Fin 32) (s : State) :
    KeepsR s (execHkScl core rd rs1 rs2 s) := by
  unfold execHkScl
  with_reducible repeat' first | exact Keeps.refl s | apply keepsR_next | apply State.xhnk2_keeps

theorem execHkPack_keeps (core : Fin 64) (rd rs1 rs2 : Fin 32) (s : State) :
    KeepsR s (execHkPack core rd rs1 rs2 s) := by
  unfold execHkPack
  with_reducible repeat' first | exact Keeps.refl s | apply keepsR_next | apply State.xhnk2_keeps

theorem execHkNar8_keeps (core : Fin 64) (rd rs1 : Fin 32) (s : State) :
    KeepsR s (execHkNar8 core rd rs1 s) := by
  unfold execHkNar8
  with_reducible repeat' first | exact Keeps.refl s | apply keepsR_next | (intro) | apply State.xhnk2_keeps

theorem execHkWid8_keeps (core : Fin 64) (rd rs1 : Fin 32) (s : State) :
    KeepsR s (execHkWid8 core rd rs1 s) := by
  unfold execHkWid8
  with_reducible repeat' first | exact Keeps.refl s | apply keepsR_next | (intro) | apply State.xhnk2_keeps

theorem execHkLerp_keeps (core : Fin 64) (rd rs1 rs2 rs3 : Fin 32) (s : State) :
    KeepsR s (execHkLerp core rd rs1 rs2 rs3 s) := by
  unfold execHkLerp
  with_reducible repeat' first | exact Keeps.refl s | apply keepsR_next | apply State.xhnk2_keeps

theorem execHkMac_keeps (core : Fin 64) (rd rs1 rs2 rs3 : Fin 32) (s : State) :
    KeepsR s (execHkMac core rd rs1 rs2 rs3 s) := by
  unfold execHkMac
  with_reducible repeat' first | exact Keeps.refl s | apply keepsR_next | apply State.xhnk2_keeps

theorem execXhnkIllegalEncoding_keeps (core : Fin 64) (word : Word) (s : State) :
    KeepsR s (execXhnkIllegalEncoding core word s) := by
  unfold execXhnkIllegalEncoding
  with_reducible repeat' first | exact Keeps.refl s | apply keepsR_next | apply State.coreTrap_keeps | apply keeps_ite

theorem execDrTake_keeps (core : Fin 64) (rd : Fin 32) (s : State) :
    KeepsR s (execDrTake core rd s) := by
  unfold execDrTake
  with_reducible repeat' first | exact Keeps.refl s | apply keepsR_next | apply State.drTake_keeps

theorem execDrPoll_keeps (core : Fin 64) (rd : Fin 32) (s : State) :
    KeepsR s (execDrPoll core rd s) := by
  unfold execDrPoll
  with_reducible repeat' first | exact Keeps.refl s | apply keepsR_next | apply State.drPoll_keeps

theorem execDrPost_keeps (core : Fin 64) (rd rs1 : Fin 32) (s : State) :
    KeepsR s (execDrPost core rd rs1 s) := by
  unfold execDrPost
  with_reducible repeat' first
    | exact Keeps.refl s | apply keepsR_next | apply State.drPost_keeps | apply State.settle_keeps

theorem execDrCancel_keeps (core : Fin 64) (rd rs1 : Fin 32) (s : State) :
    KeepsR s (execDrCancel core rd rs1 s) := by
  unfold execDrCancel
  with_reducible repeat' first | exact Keeps.refl s | apply keepsR_next | apply State.drCancel_keeps

theorem execHkLsRead_keeps (core : Fin 64) (rd : Fin 32) (s : State) :
    KeepsR s (execHkLsRead core rd s) := by
  unfold execHkLsRead
  with_reducible repeat' first | exact Keeps.refl s | apply keepsR_next | apply State.hkLs_keeps

theorem execMsipStore_keeps (core : Fin 64) (target : Fin 32) (rs2 : Fin 32) (s : State) :
    KeepsR s (execMsipStore core target rs2 s) := by
  unfold execMsipStore
  with_reducible repeat' first
    | exact Keeps.refl s | apply keepsR_next | apply State.msipStore_keeps | apply State.coreStep_keeps
    | apply keeps_ite

theorem execBitSetStore_keeps (core : Fin 64) (offset : BitVec 23) (bytes : Fin 5) (rs2 : Fin 32) (s : State) :
    KeepsR s (execBitSetStore core offset bytes rs2 s) := by
  unfold execBitSetStore
  with_reducible repeat' first | exact Keeps.refl s | apply keepsR_next | apply State.aliasExec_keeps

theorem execBitClearStore_keeps (core : Fin 64) (offset : BitVec 23) (bytes : Fin 5) (rs2 : Fin 32) (s : State) :
    KeepsR s (execBitClearStore core offset bytes rs2 s) := by
  unfold execBitClearStore
  with_reducible repeat' first | exact Keeps.refl s | apply keepsR_next | apply State.aliasExec_keeps

theorem execEccScrub_keeps (pool : Bool) (addr : Nat) (errors : Fin 3) (s : State) :
    KeepsR s (execEccScrub pool addr errors s) := by
  unfold execEccScrub
  with_reducible repeat' first
    | exact Keeps.refl s | apply keepsR_next | apply State.settle_keeps | apply State.scrub_keeps

theorem execDispatch_keeps (s : State) :
    KeepsR s (execDispatch s) := by
  unfold execDispatch
  with_reducible repeat' first | exact Keeps.refl s | apply keepsR_next | apply State.dispatchCluster_keeps

theorem execFabricWindowStore_keeps (core : Fin 64) (addr : BitVec 24) (wide : Bool) (rs2 : Fin 32) (s : State) :
    KeepsR s (execFabricWindowStore core addr wide rs2 s) := by
  unfold execFabricWindowStore
  with_reducible repeat' first
    | exact Keeps.refl s | apply keepsR_next | apply State.settle_keeps | apply State.windowExec_keeps

theorem execHostPoll_keeps (host : HostView) (s : State) :
    KeepsR s (execHostPoll host s) := by
  unfold execHostPoll
  with_reducible repeat' first
    | exact Keeps.refl s | apply keepsR_next | apply State.settle_keeps | apply State.hostPoll_keeps

theorem execNop_keeps (s : State) :
    KeepsR s (execNop s) := by
  unfold execNop
  with_reducible repeat' first
    | assumption | exact Keeps.refl s | apply keepsR_next | (intro) | apply State.settle_keeps
    | apply State.startDesc_keeps | apply State.finish_keeps

theorem execUnknownOpcode_keeps (s : State) :
    KeepsR s (execUnknownOpcode s) := by
  unfold execUnknownOpcode
  refine keepsR_next (State.settle_keeps ?_)
  split
  · refine keeps_ite ?_ (Keeps.refl s)
    extract_lets fl g s1
    have h1 : Keeps s s1 := keeps_of_eq (Keeps.refl s) rfl rfl rfl rfl rfl
    exact State.finish_keeps h1 _ _ _ _ _
  · exact Keeps.refl s

theorem execWriteTable_keeps (host : HostView) (s : State) :
    KeepsR s (execWriteTable host s) := by
  unfold execWriteTable
  with_reducible repeat' first
    | assumption | exact Keeps.refl s | apply keepsR_next | (intro) | apply State.settle_keeps
    | apply State.startDesc_keeps | apply State.writeTable_keeps

theorem execWriteTableStaged_keeps (id : Nat) (s : State) :
    KeepsR s (execWriteTableStaged id s) := by
  unfold execWriteTableStaged
  with_reducible repeat' first
    | exact Keeps.refl s | apply keepsR_next | apply State.settle_keeps | apply State.tableStaged_keeps

theorem execReadTable_keeps (host : HostView) (s : State) :
    KeepsR s (execReadTable host s) := by
  unfold execReadTable
  with_reducible repeat' first
    | assumption | exact Keeps.refl s | apply keepsR_next | (intro) | apply State.settle_keeps
    | apply State.startDesc_keeps | apply State.readTable_keeps

theorem execReadCounters_keeps (host : HostView) (s : State) :
    KeepsR s (execReadCounters host s) := by
  unfold execReadCounters
  with_reducible repeat' first
    | assumption | exact Keeps.refl s | apply keepsR_next | (intro) | apply State.startDesc_keeps | apply State.readCounters_keeps
    | apply State.settle_keeps

theorem execSetValues_keeps (s : State) :
    KeepsR s (execSetValues s) := by
  unfold execSetValues
  with_reducible repeat' first
    | assumption | exact Keeps.refl s | apply keepsR_next | (intro) | apply State.settle_keeps
    | apply State.startDesc_keeps | apply State.finish_keeps | apply keeps_ite

theorem execPostTask_keeps (s : State) :
    KeepsR s (execPostTask s) := by
  unfold execPostTask
  with_reducible repeat' first
    | assumption | exact Keeps.refl s | apply keepsR_next | (intro) | apply State.settle_keeps
    | apply State.startDesc_keeps | apply State.postTask_keeps

theorem execCancelTask_keeps (s : State) :
    KeepsR s (execCancelTask s) := by
  unfold execCancelTask
  with_reducible repeat' first
    | assumption | exact Keeps.refl s | apply keepsR_next | (intro) | apply State.settle_keeps
    | apply State.startDesc_keeps | apply State.cancelTask_keeps

theorem execCqModTimeout_keeps (ring : Fin 32) (s : State) :
    KeepsR s (execCqModTimeout ring s) := by
  unfold execCqModTimeout
  with_reducible repeat' first
    | exact Keeps.refl s | apply keepsR_next | apply State.signalCq_keeps | apply State.settle_keeps | apply keeps_ite
    | (extract_lets +onlyGivenNames x; refine keeps_cut (s₀ := s₀) (x := x) ?_ ?_; rotate_left 1;
        clear_value x; intro; rotate_right 1; dsimp -zeta only [x]; try clear x)
    | (extract_lets +onlyGivenNames x; clear_value x)

theorem execEventPost_keeps (s : State) :
    KeepsR s (execEventPost s) := by
  unfold execEventPost
  with_reducible repeat' first
    | exact Keeps.refl s | apply keepsR_next | apply State.settle_keeps | apply State.drainEvents_keeps

theorem execRingDrained_keeps (ring : Fin 32) (s : State) :
    KeepsR s (execRingDrained ring s) := by
  unfold execRingDrained
  with_reducible repeat' first
    | exact Keeps.refl s | apply keepsR_next | apply State.settle_keeps | apply State.ringDrained_keeps

theorem execPcieLinkLoss_keeps (s : State) :
    KeepsR s (execPcieLinkLoss s) := by
  unfold execPcieLinkLoss
  with_reducible repeat' first
    | assumption | exact Keeps.refl s | apply keepsR_next | apply State.settle_keeps | apply State.haltHostRings_keeps
    | apply keeps_mk

theorem execFunctionLevelReset_keeps  (s : State) :
    KeepsR s (execFunctionLevelReset s) := by
  unfold execFunctionLevelReset
  with_reducible repeat' first
    | exact Keeps.refl s | apply keepsR_next | apply State.resetDomain_keeps | apply State.settle_keeps

theorem execMsixDeliveryResume_keeps (mask : BitVec 64) (accesses : List PcieAccess) (s : State) :
    KeepsR s (execMsixDeliveryResume mask accesses s) := by
  have h1 : Keeps s (accesses.foldl (fun s a => s.pcieAccess a) { s with pcie := { s.pcie with linkUp := s.domOn .host } }) :=
    keeps_foldl _ _ (keeps_of_eq (Keeps.refl s) rfl rfl rfl rfl rfl) fun t a ht => State.pcieAccess_keeps ht a
  exact keepsR_next (State.settle_keeps (keeps_ite (State.msixResume_keeps h1 mask) h1))

theorem execTimeQuery_keeps (host : HostView) (s : State) :
    KeepsR s (execTimeQuery host s) := by
  unfold execTimeQuery
  with_reducible repeat' first
    | assumption | exact Keeps.refl s | apply keepsR_next | (intro) | apply State.startDesc_keeps | apply State.timeQuery_keeps
    | apply State.settle_keeps

theorem execLtcCodeword_keeps (hh : Nat) (mm : Nat) (ss : Nat) (ff : Nat) (good : Bool) (audio : Bool) (ago : Nat)
    (s : State) :
    KeepsR s (execLtcCodeword hh mm ss ff good audio ago s) := by
  unfold execLtcCodeword
  with_reducible repeat' first
    | exact Keeps.refl s | apply keepsR_next | apply State.settle_keeps | apply State.ltc_keeps

theorem execTimeBaseLoss_keeps (base : Fin 3) (s : State) :
    KeepsR s (execTimeBaseLoss base s) := by
  unfold execTimeBaseLoss
  with_reducible repeat' first
    | exact Keeps.refl s | apply keepsR_next | apply State.baseLoss_keeps | apply State.settle_keeps | apply keeps_ite

theorem execHoldoverLimit_keeps (base : Fin 3) (s : State) :
    KeepsR s (execHoldoverLimit base s) := by
  unfold execHoldoverLimit
  with_reducible repeat' first
    | exact Keeps.refl s | apply keepsR_next | apply State.settle_keeps | apply State.holdoverLimit_keeps

theorem execGatePulse_keeps (gate : Fin 8) (s : State) :
    KeepsR s (execGatePulse gate s) := by
  unfold execGatePulse
  with_reducible repeat' first
    | exact Keeps.refl s | apply keepsR_next | apply State.settle_keeps | apply State.gatePulse_keeps

theorem execSiltEntryQuiet_keeps (entry : Fin 1024) (s : State) :
    KeepsR s (execSiltEntryQuiet entry s) := by
  unfold execSiltEntryQuiet
  with_reducible repeat' first
    | exact Keeps.refl s | apply keepsR_next | apply State.settle_keeps | apply State.siltQuiet_keeps

theorem execSiltWindowEnd_keeps (entry : Fin 1024) (s : State) :
    KeepsR s (execSiltWindowEnd entry s) := by
  unfold execSiltWindowEnd
  with_reducible repeat' first
    | exact Keeps.refl s | apply keepsR_next | apply State.settle_keeps | apply State.siltWindow_keeps

theorem execFlattenRefillDone_keeps (canvas : Fin 4) (host : HostView) (after : HostView) (s : State) :
    KeepsR s (execFlattenRefillDone canvas host after s) := by
  unfold execFlattenRefillDone
  with_reducible repeat' first
    | exact Keeps.refl s | apply keepsR_next | apply State.settle_keeps | apply State.refillDone_keeps

theorem execLayerFrame_keeps (s : State) :
    KeepsR s (execLayerFrame s) := by
  unfold execLayerFrame
  with_reducible repeat' first
    | assumption | exact Keeps.refl s | apply keepsR_next | (intro) | apply State.settle_keeps
    | apply State.startDesc_keeps | apply State.finish_keeps | split

theorem execWireFree_keeps (mac : Fin 4) (s : State) :
    KeepsR s (execWireFree mac s) := by
  unfold execWireFree
  with_reducible repeat' first
    | exact Keeps.refl s | apply keepsR_next | apply State.settle_keeps | apply State.wireFree_keeps

theorem execPauseRepeat_keeps (mac : Fin 4) (s : State) :
    KeepsR s (execPauseRepeat mac s) := by
  unfold execPauseRepeat
  with_reducible repeat' first
    | exact Keeps.refl s | apply keepsR_next | apply State.settle_keeps | apply State.pauseRepeat_keeps

theorem execPauseWatchdog_keeps (mac : Fin 4) (tx : Bool) (s : State) :
    KeepsR s (execPauseWatchdog mac tx s) := by
  unfold execPauseWatchdog
  with_reducible repeat' first
    | exact Keeps.refl s | apply keepsR_next | apply State.settle_keeps | apply State.pauseWatchdog_keeps

theorem execReceivedPauseEnd_keeps (mac : Fin 4) (s : State) :
    KeepsR s (execReceivedPauseEnd mac s) := by
  unfold execReceivedPauseEnd
  with_reducible repeat' first
    | exact Keeps.refl s | apply keepsR_next | apply State.settle_keeps | apply State.pauseEnd_keeps

theorem execRxFrameToHost_keeps (mac : Fin 4) (s : State) :
    KeepsR s (execRxFrameToHost mac s) := by
  unfold execRxFrameToHost
  with_reducible repeat' first
    | exact Keeps.refl s | apply keepsR_next | apply State.settle_keeps | apply State.rxToHost_keeps

theorem execRxBuffer_keeps (host : HostView) (s : State) :
    KeepsR s (execRxBuffer host s) := by
  unfold execRxBuffer
  with_reducible repeat' first
    | assumption | exact Keeps.refl s | apply keepsR_next | (intro) | apply State.startDesc_keeps | apply State.rxBuffer_keeps
    | apply State.settle_keeps

theorem execTxFrame_keeps (host : HostView) (s : State) :
    KeepsR s (execTxFrame host s) := by
  unfold execTxFrame
  with_reducible repeat' first
    | assumption | exact Keeps.refl s | apply keepsR_next | (intro) | apply State.startDesc_keeps | apply State.txFrame_keeps
    | apply State.settle_keeps

theorem execTxFrameLaunch_keeps (mac : Fin 4) (s : State) :
    KeepsR s (execTxFrameLaunch mac s) := by
  unfold execTxFrameLaunch
  with_reducible repeat' first
    | exact Keeps.refl s | apply keepsR_next | apply State.settle_keeps | apply State.txLaunch_keeps

theorem execSupplyRiseSend_keeps (s : State) :
    KeepsR s (execSupplyRiseSend s) := by
  unfold execSupplyRiseSend
  with_reducible repeat' first
    | exact Keeps.refl s | apply keepsR_next | apply State.settle_keeps | apply State.supplyRise_keeps

theorem execSupplyFallSend_keeps (s : State) :
    KeepsR s (execSupplyFallSend s) := by
  unfold execSupplyFallSend
  with_reducible repeat' first
    | exact Keeps.refl s | apply keepsR_next | apply State.settle_keeps | apply State.supplyFall_keeps

theorem execPmbusCommandDone_keeps (bus : Fin 2) (ack : Bool) (s : State) :
    KeepsR s (execPmbusCommandDone bus ack s) := by
  unfold execPmbusCommandDone
  with_reducible repeat' first
    | exact Keeps.refl s | apply keepsR_next | apply State.settle_keeps | apply State.pmDone_keeps

theorem execFlNop_keeps (port : Fin 256) (s : State) :
    KeepsR s (execFlNop port s) := by
  unfold execFlNop
  with_reducible repeat' first
    | exact Keeps.refl s | apply keepsR_next | (intro) | apply State.flowSet_keeps | apply State.settle_keeps

theorem execFlLi_keeps (port : Fin 256) (d : Fin 16) (imm16 : BitVec 16) (s : State) :
    KeepsR s (execFlLi port d imm16 s) := by
  unfold execFlLi
  with_reducible repeat' first
    | exact Keeps.refl s | apply keepsR_next | (intro) | apply State.flowSet_keeps | apply State.settle_keeps

theorem execFlLui_keeps (port : Fin 256) (d : Fin 16) (imm16 : BitVec 16) (s : State) :
    KeepsR s (execFlLui port d imm16 s) := by
  unfold execFlLui
  with_reducible repeat' first
    | exact Keeps.refl s | apply keepsR_next | (intro) | apply State.flowSet_keeps | apply State.settle_keeps

theorem execFlAdd_keeps (port : Fin 256) (d a b : Fin 16) (s : State) :
    KeepsR s (execFlAdd port d a b s) := by
  unfold execFlAdd
  with_reducible repeat' first
    | exact Keeps.refl s | apply keepsR_next | (intro) | apply State.flow2_keeps | apply State.settle_keeps

theorem execFlSub_keeps (port : Fin 256) (d a b : Fin 16) (s : State) :
    KeepsR s (execFlSub port d a b s) := by
  unfold execFlSub
  with_reducible repeat' first
    | exact Keeps.refl s | apply keepsR_next | (intro) | apply State.flow2_keeps | apply State.settle_keeps

theorem execFlAnd_keeps (port : Fin 256) (d a b : Fin 16) (s : State) :
    KeepsR s (execFlAnd port d a b s) := by
  unfold execFlAnd
  with_reducible repeat' first
    | exact Keeps.refl s | apply keepsR_next | (intro) | apply State.flow2_keeps | apply State.settle_keeps

theorem execFlOr_keeps (port : Fin 256) (d a b : Fin 16) (s : State) :
    KeepsR s (execFlOr port d a b s) := by
  unfold execFlOr
  with_reducible repeat' first
    | exact Keeps.refl s | apply keepsR_next | (intro) | apply State.flow2_keeps | apply State.settle_keeps | split

theorem execFlXor_keeps (port : Fin 256) (d a b : Fin 16) (s : State) :
    KeepsR s (execFlXor port d a b s) := by
  unfold execFlXor
  with_reducible repeat' first
    | exact Keeps.refl s | apply keepsR_next | (intro) | apply State.flow2_keeps | apply State.settle_keeps

theorem execFlShl_keeps (port : Fin 256) (d a b : Fin 16) (s : State) :
    KeepsR s (execFlShl port d a b s) := by
  unfold execFlShl
  with_reducible repeat' first
    | exact Keeps.refl s | apply keepsR_next | (intro) | apply State.flow2_keeps | apply State.settle_keeps

theorem execFlShr_keeps (port : Fin 256) (d a b : Fin 16) (s : State) :
    KeepsR s (execFlShr port d a b s) := by
  unfold execFlShr
  with_reducible repeat' first
    | exact Keeps.refl s | apply keepsR_next | (intro) | apply State.flow2_keeps | apply State.settle_keeps

theorem execFlAddi_keeps (port : Fin 256) (d a : Fin 16) (imm : BitVec 14) (s : State) :
    KeepsR s (execFlAddi port d a imm s) := by
  unfold execFlAddi
  with_reducible repeat' first
    | exact Keeps.refl s | apply keepsR_next | (intro) | apply State.flowSet_keeps | apply State.settle_keeps

theorem execFlMin_keeps (port : Fin 256) (d a b : Fin 16) (s : State) :
    KeepsR s (execFlMin port d a b s) := by
  unfold execFlMin
  with_reducible repeat' first
    | exact Keeps.refl s | apply keepsR_next | (intro) | apply State.flow2_keeps | apply State.settle_keeps
    | apply keeps_ite

theorem execFlMax_keeps (port : Fin 256) (d a b : Fin 16) (s : State) :
    KeepsR s (execFlMax port d a b s) := by
  unfold execFlMax
  with_reducible repeat' first
    | exact Keeps.refl s | apply keepsR_next | (intro) | apply State.flow2_keeps | apply State.settle_keeps
    | apply keeps_ite

theorem execFlMulq_keeps (port : Fin 256) (d a b : Fin 16) (s : State) :
    KeepsR s (execFlMulq port d a b s) := by
  unfold execFlMulq
  with_reducible repeat' first
    | exact Keeps.refl s | apply keepsR_next | (intro) | apply State.flow2_keeps | apply State.settle_keeps

theorem execFlTake_keeps (port : Fin 256) (d : Fin 16) (s : State) :
    KeepsR s (execFlTake port d s) := by
  unfold execFlTake
  with_reducible repeat' first
    | exact Keeps.refl s | apply keepsR_next | apply State.settle_keeps | apply State.flTake_keeps

theorem execFlPutv_keeps (port : Fin 256) (a : Fin 16) (b : Fin 16) (s : State) :
    KeepsR s (execFlPutv port a b s) := by
  unfold execFlPutv
  with_reducible repeat' first
    | exact Keeps.refl s | apply keepsR_next | apply State.settle_keeps | apply State.flPutv_keeps

theorem execFlPutb_keeps (port : Fin 256) (a : Fin 16) (b : Fin 16) (s : State) :
    KeepsR s (execFlPutb port a b s) := by
  unfold execFlPutb
  with_reducible repeat' first
    | exact Keeps.refl s | apply keepsR_next | apply State.settle_keeps | apply State.flPutb_keeps

theorem execFlMove_keeps (port : Fin 256) (d : Fin 16) (a : Fin 16) (b : Fin 16) (s : State) :
    KeepsR s (execFlMove port d a b s) := by
  unfold execFlMove
  with_reducible repeat' first
    | exact Keeps.refl s | apply keepsR_next | apply State.settle_keeps | apply State.flMove_keeps

theorem execFlEmit_keeps (port : Fin 256) (imm : BitVec 14) (s : State) :
    KeepsR s (execFlEmit port imm s) := by
  unfold execFlEmit
  with_reducible repeat' first
    | exact Keeps.refl s | apply keepsR_next | apply State.settle_keeps | apply State.flEmit_keeps

theorem execFlPar_keeps (port : Fin 256) (d : Fin 16) (imm : BitVec 14) (s : State) :
    KeepsR s (execFlPar port d imm s) := by
  unfold execFlPar
  with_reducible repeat' first
    | exact Keeps.refl s | apply keepsR_next | (intro) | apply State.flowSet_keeps | apply State.settle_keeps

theorem execFlLdk_keeps (port : Fin 256) (d : Fin 16) (imm : BitVec 14) (s : State) :
    KeepsR s (execFlLdk port d imm s) := by
  unfold execFlLdk
  with_reducible repeat' first
    | exact Keeps.refl s | apply keepsR_next | (intro) | apply State.flowSet_keeps | apply State.settle_keeps

theorem execFlStk_keeps (port : Fin 256) (a : Fin 16) (imm : BitVec 14) (s : State) :
    KeepsR s (execFlStk port a imm s) := by
  unfold execFlStk
  with_reducible repeat' first
    | exact Keeps.refl s | apply keepsR_next | apply State.settle_keeps | apply State.flStk_keeps

theorem execFlJmp_keeps (port : Fin 256) (imm : BitVec 14) (s : State) :
    KeepsR s (execFlJmp port imm s) := by
  unfold execFlJmp
  with_reducible repeat' first
    | exact Keeps.refl s | apply keepsR_next | (intro) | apply State.flBranch_keeps | apply State.settle_keeps

theorem execFlBz_keeps (port : Fin 256) (a : Fin 16) (imm : BitVec 14) (s : State) :
    KeepsR s (execFlBz port a imm s) := by
  unfold execFlBz
  with_reducible repeat' first
    | exact Keeps.refl s | apply keepsR_next | (intro) | apply State.flBranch_keeps | apply State.settle_keeps

theorem execFlBnz_keeps (port : Fin 256) (a : Fin 16) (imm : BitVec 14) (s : State) :
    KeepsR s (execFlBnz port a imm s) := by
  unfold execFlBnz
  with_reducible repeat' first
    | exact Keeps.refl s | apply keepsR_next | (intro) | apply State.flBranch_keeps | apply State.settle_keeps

theorem execFlDjnz_keeps (port : Fin 256) (d : Fin 16) (imm : BitVec 14) (s : State) :
    KeepsR s (execFlDjnz port d imm s) := by
  unfold execFlDjnz
  with_reducible repeat' first
    | exact Keeps.refl s | apply keepsR_next | apply State.settle_keeps | apply State.flDjnz_keeps

theorem execFlYield_keeps (port : Fin 256) (s : State) :
    KeepsR s (execFlYield port s) := by
  unfold execFlYield
  with_reducible repeat' first
    | exact Keeps.refl s | apply keepsR_next | apply State.flYield_keeps | apply State.settle_keeps

theorem execFlEnd_keeps (port : Fin 256) (s : State) :
    KeepsR s (execFlEnd port s) := by
  unfold execFlEnd
  with_reducible repeat' first
    | exact Keeps.refl s | apply keepsR_next | apply State.settle_keeps | apply State.flEnd_keeps

theorem execFlTrap_keeps (port : Fin 256) (imm : BitVec 14) (s : State) :
    KeepsR s (execFlTrap port imm s) := by
  unfold execFlTrap
  with_reducible repeat' first
    | assumption | exact Keeps.refl s | apply keepsR_next | (intro) | apply State.flowStep_keeps | apply State.flowFault_keeps
    | apply State.settle_keeps

theorem execFlUndefinedOp_keeps (port : Fin 256) (word : Word) (s : State) :
    KeepsR s (execFlUndefinedOp port word s) := by
  unfold execFlUndefinedOp
  with_reducible repeat' first
    | exact Keeps.refl s | apply keepsR_next | apply State.settle_keeps | apply State.flUndefined_keeps

theorem execLineStart_keeps (port : Fin 256) (s : State) :
    KeepsR s (execLineStart port s) := by
  unfold execLineStart
  with_reducible repeat' first
    | exact Keeps.refl s | apply keepsR_next | apply State.settle_keeps | apply State.lineStart_keeps

theorem execPortCommitEvent_keeps (port : Fin 256) (s : State) :
    KeepsR s (execPortCommitEvent port s) := by
  unfold execPortCommitEvent
  with_reducible repeat' first
    | exact Keeps.refl s | apply keepsR_next | apply State.settle_keeps | apply State.commitEvent_keeps

theorem execRdmRequest_keeps (host : HostView) (s : State) :
    KeepsR s (execRdmRequest host s) := by
  unfold execRdmRequest
  with_reducible repeat' first
    | assumption | exact Keeps.refl s | apply keepsR_next | (intro) | apply State.settle_keeps
    | apply State.startDesc_keeps | apply State.rdmRequest_keeps

theorem execRdmTransactionStart_keeps (port : Fin 256) (s : State) :
    KeepsR s (execRdmTransactionStart port s) := by
  unfold execRdmTransactionStart
  with_reducible repeat' first
    | exact Keeps.refl s | apply keepsR_next | apply State.settle_keeps | apply State.rdmStart_keeps

theorem execRdmResponse_keeps (port : Fin 256) (bytes : List Byte) (framing : Bool) (s : State) :
    KeepsR s (execRdmResponse port bytes framing s) := by
  unfold execRdmResponse
  with_reducible repeat' first
    | exact Keeps.refl s | apply keepsR_next | apply State.settle_keeps | apply State.rdmResponse_keeps

theorem execRdmTimeout_keeps (port : Fin 256) (s : State) :
    KeepsR s (execRdmTimeout port s) := by
  unfold execRdmTimeout
  with_reducible repeat' first
    | exact Keeps.refl s | apply keepsR_next | apply State.settle_keeps | apply State.rdmTimeout_keeps

theorem execPortRestPoint_keeps (port : Fin 256) (s : State) :
    KeepsR s (execPortRestPoint port s) := by
  unfold execPortRestPoint
  with_reducible repeat' first
    | exact Keeps.refl s | apply keepsR_next | apply State.settle_keeps | apply State.restPoint_keeps

theorem execFlumeFault_keeps (flume : Fin 9) (ecc : Bool) (ports : BitVec 32) (s : State) :
    KeepsR s (execFlumeFault flume ecc ports s) := by
  unfold execFlumeFault
  with_reducible repeat' first
    | exact Keeps.refl s | apply keepsR_next | apply State.settle_keeps | apply State.flumeFault_keeps

theorem execReadoutStart_keeps (s : State) :
    KeepsR s (execReadoutStart s) := by
  unfold execReadoutStart
  with_reducible repeat' first
    | exact Keeps.refl s | apply keepsR_next | apply State.settle_keeps | apply State.readoutStart_keeps

theorem execFiringProbe_keeps (port : Fin 256) (configs : Fin 1025) (s : State) :
    KeepsR s (execFiringProbe port configs s) := by
  unfold execFiringProbe
  with_reducible repeat' first
    | exact Keeps.refl s | apply keepsR_next | apply State.firingProbe_keeps | apply State.settle_keeps

theorem execTurnSet_keeps (port : Fin 256) (s : State) :
    KeepsR s (execTurnSet port s) := by
  unfold execTurnSet
  with_reducible repeat' first
    | exact Keeps.refl s | apply keepsR_next | apply State.settle_keeps | apply State.turnSet_keeps

theorem execFurrowPong_keeps (port : Fin 256) (r0 : BitVec 32) (s : State) :
    KeepsR s (execFurrowPong port r0 s) := by
  unfold execFurrowPong
  with_reducible repeat' first
    | exact Keeps.refl s | apply keepsR_next | apply State.settle_keeps | apply State.furPong_keeps

theorem execFurrowRecord_keeps (port : Fin 256) (bytes : List Byte) (crcGood : Bool) (s : State) :
    KeepsR s (execFurrowRecord port bytes crcGood s) := by
  unfold execFurrowRecord
  with_reducible repeat' first
    | exact Keeps.refl s | apply keepsR_next | apply State.settle_keeps | apply State.furRecord_keeps

theorem execReturnWindowEnd_keeps (port : Fin 256) (s : State) :
    KeepsR s (execReturnWindowEnd port s) := by
  unfold execReturnWindowEnd
  with_reducible repeat' first
    | exact Keeps.refl s | apply keepsR_next | apply State.settle_keeps | apply State.windowEnd_keeps

theorem execFurNodeSilent_keeps (port : Fin 256) (node : Fin 1024) (s : State) :
    KeepsR s (execFurNodeSilent port node s) := by
  unfold execFurNodeSilent
  with_reducible repeat' first
    | exact Keeps.refl s | apply keepsR_next | apply State.settle_keeps | apply State.nodeSilent_keeps

theorem execSacnDataDue_keeps (mac : Fin 4) (s : State) :
    KeepsR s (execSacnDataDue mac s) := by
  unfold execSacnDataDue
  with_reducible repeat' first
    | exact Keeps.refl s | apply keepsR_next | apply State.settle_keeps | apply State.sacnData_keeps

theorem execSyncPacketLaunch_keeps (mac : Fin 4) (s : State) :
    KeepsR s (execSyncPacketLaunch mac s) := by
  unfold execSyncPacketLaunch
  with_reducible repeat' first
    | exact Keeps.refl s | apply keepsR_next | apply State.settle_keeps | apply State.sacnSync_keeps

theorem execSacnDiscovery_keeps (mac : Fin 4) (s : State) :
    KeepsR s (execSacnDiscovery mac s) := by
  unfold execSacnDiscovery
  with_reducible repeat' first
    | exact Keeps.refl s | apply keepsR_next | apply State.settle_keeps | apply State.sacnDiscover_keeps

theorem execSacnSyncReceived_keeps (mac : Fin 4) (s : State) :
    KeepsR s (execSacnSyncReceived mac s) := by
  unfold execSacnSyncReceived
  with_reducible repeat' first
    | exact Keeps.refl s | apply keepsR_next | apply State.settle_keeps | apply State.sacnSyncReceive_keeps

theorem execSacnSyncTimeout_keeps (entry : Fin 4096) (place : Fin 4) (s : State) :
    KeepsR s (execSacnSyncTimeout entry place s) := by
  unfold execSacnSyncTimeout
  with_reducible repeat' first
    | exact Keeps.refl s | apply keepsR_next | apply State.settle_keeps | apply State.sacnSyncTimeout_keeps

theorem execSacnSourceTimeout_keeps (entry : Fin 4096) (place : Fin 4) (s : State) :
    KeepsR s (execSacnSourceTimeout entry place s) := by
  unfold execSacnSourceTimeout
  with_reducible repeat' first
    | exact Keeps.refl s | apply keepsR_next | apply State.settle_keeps | apply State.sacnSourceTimeout_keeps

theorem execVideoPacketReceived_keeps (mac : Fin 4) (s : State) :
    KeepsR s (execVideoPacketReceived mac s) := by
  unfold execVideoPacketReceived
  with_reducible repeat' first
    | exact Keeps.refl s | apply keepsR_next | apply State.settle_keeps | apply State.videoReceive_keeps

theorem execVideoNotReceiving_keeps (stream : Fin 4) (s : State) :
    KeepsR s (execVideoNotReceiving stream s) := by
  unfold execVideoNotReceiving
  with_reducible repeat' first
    | exact Keeps.refl s | apply keepsR_next | apply State.settle_keeps | apply State.vidSilent_keeps

theorem execAudioPacketReceived_keeps (mac : Fin 4) (s : State) :
    KeepsR s (execAudioPacketReceived mac s) := by
  unfold execAudioPacketReceived
  with_reducible repeat' first
    | exact Keeps.refl s | apply keepsR_next | apply State.settle_keeps | apply State.audioReceive_keeps

theorem execAudioStreamDown_keeps (stream : Fin 8) (s : State) :
    KeepsR s (execAudioStreamDown stream s) := by
  unfold execAudioStreamDown
  with_reducible repeat' first
    | exact Keeps.refl s | apply keepsR_next | apply State.settle_keeps | apply State.audSilent_keeps

theorem execPtpMessageDue_keeps (mac : Fin 4) (kind : Fin 5) (s : State) :
    KeepsR s (execPtpMessageDue mac kind s) := by
  unfold execPtpMessageDue
  with_reducible repeat' first
    | exact Keeps.refl s | apply keepsR_next | apply State.settle_keeps | apply State.ptpDue_keeps

theorem execPtpMessageReceived_keeps (mac : Fin 4) (s : State) :
    KeepsR s (execPtpMessageReceived mac s) := by
  unfold execPtpMessageReceived
  with_reducible repeat' first
    | exact Keeps.refl s | apply keepsR_next | apply State.settle_keeps | apply State.ptpReceive_keeps

theorem execHpdRise_keeps (output : Fin 2) (lanes : Fin 5) (rate : Fin 4) (edid : List Byte) (s : State) :
    KeepsR s (execHpdRise output lanes rate edid s) := by
  unfold execHpdRise
  with_reducible repeat' first
    | exact Keeps.refl s | apply keepsR_next | apply State.settle_keeps | apply State.hpdRise_keeps

theorem execHpdFall_keeps (output : Fin 2) (s : State) :
    KeepsR s (execHpdFall output s) := by
  unfold execHpdFall
  with_reducible repeat' first
    | exact Keeps.refl s | apply keepsR_next | apply State.settle_keeps | apply State.hpdFall_keeps

theorem execIrqHpd_keeps (output : Fin 2) (s : State) :
    KeepsR s (execIrqHpd output s) := by
  unfold execIrqHpd
  with_reducible repeat' first
    | exact Keeps.refl s | apply keepsR_next | apply State.settle_keeps | apply State.linkLost_keeps

theorem execLinkTrainingDone_keeps (output : Fin 2) (good : Bool) (s : State) :
    KeepsR s (execLinkTrainingDone output good s) := by
  unfold execLinkTrainingDone
  with_reducible repeat' first
    | exact Keeps.refl s | apply keepsR_next | apply State.settle_keeps | apply State.trained_keeps

theorem execRasterFrameLaunch_keeps (output : Fin 2) (j : Fin 4) (s : State) :
    KeepsR s (execRasterFrameLaunch output j s) := by
  unfold execRasterFrameLaunch
  with_reducible repeat' first
    | exact Keeps.refl s | apply keepsR_next | apply State.settle_keeps | apply State.rasLaunch_keeps

theorem execBar2Write_keeps (offset : BitVec 27) (bytes : List Byte) (readBack : Fin 65) (s : State) :
    KeepsR s (execBar2Write offset bytes readBack s) := by
  unfold execBar2Write
  with_reducible repeat' first
    | exact Keeps.refl s | apply keepsR_next | apply State.bar2Write_keeps | apply State.bar2Read_keeps
    | apply State.settle_keeps | apply keeps_ite

theorem execBasinJoin_keeps (port : Fin 17) (bytes : List Byte) (s : State) :
    KeepsR s (execBasinJoin port bytes s) := by
  unfold execBasinJoin
  with_reducible repeat' first
    | assumption | exact Keeps.refl s | apply keepsR_next | (intro) | apply State.settle_keeps
    | apply State.bsnTake_keeps | apply State.takeJoin_keeps

theorem execBasinAccept_keeps (port : Fin 17) (bytes : List Byte) (s : State) :
    KeepsR s (execBasinAccept port bytes s) := by
  unfold execBasinAccept
  with_reducible repeat' first
    | assumption | exact Keeps.refl s | apply keepsR_next | (intro) | apply State.settle_keeps
    | apply State.bsnTake_keeps | apply State.takeAccept_keeps | apply keeps_ite

theorem execJoinRetry_keeps (s : State) :
    KeepsR s (execJoinRetry s) := by
  unfold execJoinRetry
  with_reducible repeat' first
    | exact Keeps.refl s | apply keepsR_next | apply State.settle_keeps | apply State.sendJoin_keeps

theorem execDravudLinkUp_keeps (port : Fin 17) (s : State) :
    KeepsR s (execDravudLinkUp port s) := by
  unfold execDravudLinkUp
  with_reducible repeat' first
    | exact Keeps.refl s | apply keepsR_next | apply State.settle_keeps | apply State.dravudUp_keeps

theorem execBsnOpBarrier_keeps (req : Requester) (value : Word) (s : State) :
    KeepsR s (execBsnOpBarrier req value s) := by
  unfold execBsnOpBarrier
  with_reducible repeat' first
    | assumption | exact Keeps.refl s | apply keepsR_next | (intro) | apply State.settle_keeps
    | apply State.opStart_keeps | apply State.arrive_keeps | apply keeps_ite

theorem execBasinArrive_keeps (port : Fin 17) (bytes : List Byte) (s : State) :
    KeepsR s (execBasinArrive port bytes s) := by
  unfold execBasinArrive
  with_reducible repeat' first
    | assumption | exact Keeps.refl s | apply keepsR_next | (intro) | apply State.settle_keeps
    | apply State.bsnTake_keeps | apply State.takeArrive_keeps

theorem execBasinRelease_keeps (port : Fin 17) (bytes : List Byte) (s : State) :
    KeepsR s (execBasinRelease port bytes s) := by
  unfold execBasinRelease
  with_reducible repeat' first
    | assumption | exact Keeps.refl s | apply keepsR_next | (intro) | apply State.settle_keeps
    | apply State.bsnTake_keeps | apply State.takeRelease_keeps | apply keeps_ite

theorem execBasinReport_keeps (port : Fin 17) (bytes : List Byte) (s : State) :
    KeepsR s (execBasinReport port bytes s) := by
  unfold execBasinReport
  with_reducible repeat' first
    | assumption | exact Keeps.refl s | apply keepsR_next | (intro) | apply State.settle_keeps
    | apply State.bsnTake_keeps | apply State.takeReport_keeps

theorem execDravudChildLoss_keeps (port : Fin 17) (segment : Bool) (s : State) :
    KeepsR s (execDravudChildLoss port segment s) := by
  unfold execDravudChildLoss
  with_reducible repeat' first
    | exact Keeps.refl s | apply keepsR_next | apply State.settle_keeps | apply State.dravudLoss_keeps

theorem execMarkSend_keeps  (s : State) :
    KeepsR s (execMarkSend s) := by
  unfold execMarkSend
  with_reducible repeat' first
    | exact Keeps.refl s | apply keepsR_next | apply State.markSend_keeps | apply State.instantSend_keeps
    | apply State.settle_keeps

theorem execBasinEcho_keeps (port : Fin 17) (bytes : List Byte) (r : BitVec 32) (s : State) :
    KeepsR s (execBasinEcho port bytes r s) := by
  unfold execBasinEcho
  with_reducible repeat' first
    | assumption | exact Keeps.refl s | apply keepsR_next | (intro) | apply State.settle_keeps
    | apply State.bsnTake_keeps | apply State.takeEcho_keeps

theorem execBasinMark_keeps (port : Fin 17) (bytes : List Byte) (s : State) :
    KeepsR s (execBasinMark port bytes s) := by
  unfold execBasinMark
  with_reducible repeat' first
    | assumption | exact Keeps.refl s | apply keepsR_next | (intro) | apply State.settle_keeps
    | apply State.bsnTake_keeps | apply State.takeMark_keeps | apply keeps_ite

theorem execBasinBcast_keeps (port : Fin 17) (bytes : List Byte) (s : State) :
    KeepsR s (execBasinBcast port bytes s) := by
  unfold execBasinBcast
  with_reducible repeat' first
    | assumption | exact Keeps.refl s | apply keepsR_next | (intro) | apply State.settle_keeps
    | apply State.bsnTake_keeps | apply State.takeBcast_keeps | apply keeps_ite

theorem execBsnOpBroadcast_keeps (req : Requester) (value : Word) (s : State) :
    KeepsR s (execBsnOpBroadcast req value s) := by
  unfold execBsnOpBroadcast
  with_reducible repeat' first
    | assumption | exact Keeps.refl s | apply keepsR_next | (intro) | apply State.settle_keeps
    | apply State.opStart_keeps | apply State.bcastStart_keeps | apply keeps_ite

theorem execPowerRequest_keeps (s : State) :
    KeepsR s (execPowerRequest s) := by
  unfold execPowerRequest
  with_reducible repeat' first
    | assumption | exact Keeps.refl s | apply keepsR_next | (intro) | apply State.settle_keeps
    | apply State.startDesc_keeps | apply State.pmAsk_keeps

theorem execPowerRequestAbort_keeps (s : State) :
    KeepsR s (execPowerRequestAbort s) := by
  unfold execPowerRequestAbort
  with_reducible repeat' first
    | assumption | exact Keeps.refl s | apply keepsR_next | (intro) | apply State.settle_keeps
    | apply State.startDesc_keeps | apply State.pmAbort_keeps

theorem execPrepareBlockRefuse_keeps (s : State) :
    KeepsR s (execPrepareBlockRefuse s) := by
  unfold execPrepareBlockRefuse
  with_reducible repeat' first
    | exact Keeps.refl s | apply keepsR_next | apply State.settle_keeps | apply State.blockRefuses_keeps

theorem execPrepareBlockTimeout_keeps (s : State) :
    KeepsR s (execPrepareBlockTimeout s) := by
  unfold execPrepareBlockTimeout
  with_reducible repeat' first
    | exact Keeps.refl s | apply keepsR_next | apply State.settle_keeps | apply State.blockRefuses_keeps

theorem execWakeN_keeps  (s : State) :
    KeepsR s (execWakeN s) := by
  unfold execWakeN
  with_reducible repeat' first
    | exact Keeps.refl s | apply keepsR_next | (intro) | apply State.wake_keeps | apply State.fset_keeps
    | apply State.settle_keeps | apply keeps_ite

theorem execTallyWake_keeps (tally : Fin 4) (s : State) :
    KeepsR s (execTallyWake tally s) := by
  unfold execTallyWake
  with_reducible repeat' first
    | exact Keeps.refl s | apply keepsR_next | (intro) | apply State.wake_keeps | apply State.fset_keeps
    | apply State.settle_keeps | apply keeps_ite | split

theorem execTenderAlarm_keeps (s : State) :
    KeepsR s (execTenderAlarm s) := by
  unfold execTenderAlarm
  with_reducible repeat' first
    | exact Keeps.refl s | apply keepsR_next | apply State.settle_keeps | apply State.tenderAlarm_keeps

theorem execPtpAlarm_keeps (s : State) :
    KeepsR s (execPtpAlarm s) := by
  unfold execPtpAlarm
  with_reducible repeat' first
    | exact Keeps.refl s | apply keepsR_next | apply State.settle_keeps | apply State.ptpAlarm_keeps

theorem execSmbusAddressMatch_keeps  (s : State) :
    KeepsR s (execSmbusAddressMatch s) := by
  unfold execSmbusAddressMatch
  with_reducible repeat' first
    | exact Keeps.refl s | apply keepsR_next | (intro) | apply State.emit_keeps | apply State.wake_keeps
    | apply State.fset_keeps | apply State.settle_keeps | apply keeps_ite
    | (extract_lets +onlyGivenNames x; refine keeps_cut (s₀ := s₀) (x := x) ?_ ?_; rotate_left 1;
        clear_value x; intro; rotate_right 1; dsimp -zeta only [x]; try clear x)
    | (extract_lets +onlyGivenNames x; clear_value x)

theorem execTenderPowerOn_keeps (pgs : BitVec 4) (s : State) :
    KeepsR s (execTenderPowerOn pgs s) := by
  unfold execTenderPowerOn
  with_reducible repeat' first
    | exact Keeps.refl s | apply keepsR_next | apply State.settle_keeps | apply State.tenderPowerOn_keeps

theorem execPmicPgAllLow_keeps (s : State) :
    KeepsR s (execPmicPgAllLow s) := by
  unfold execPmicPgAllLow
  with_reducible repeat' first
    | assumption | exact Keeps.refl s | apply keepsR_next | apply State.settle_keeps | apply State.raiseFirst_keeps
    | apply State.bumpF_keeps | apply State.setPower_keeps | apply keeps_ite

theorem execRailRestart_keeps (s : State) :
    KeepsR s (execRailRestart s) := by
  unfold execRailRestart
  with_reducible repeat' first
    | exact Keeps.refl s | apply keepsR_next | apply State.settle_keeps | apply State.raiseFirst_keeps
    | apply keeps_ite

theorem execRailRetry_keeps (s : State) :
    KeepsR s (execRailRetry s) := by
  unfold execRailRetry
  with_reducible repeat' first
    | exact Keeps.refl s | apply keepsR_next | apply State.settle_keeps | apply State.raiseFirst_keeps
    | apply keeps_ite

theorem execPmicPowerGood_keeps (rail : Fin 4) (s : State) :
    KeepsR s (execPmicPowerGood rail s) := by
  unfold execPmicPowerGood
  with_reducible repeat' first
    | exact Keeps.refl s | apply keepsR_next | apply State.settle_keeps | apply State.powerGood_keeps

theorem execPowerGoodLate_keeps (rail : Fin 4) (s : State) :
    KeepsR s (execPowerGoodLate rail s) := by
  unfold execPowerGoodLate
  with_reducible repeat' first
    | exact Keeps.refl s | apply keepsR_next | apply State.settle_keeps | apply State.powerLate_keeps

theorem execPmicPgFall_keeps (rail : Fin 4) (s : State) :
    KeepsR s (execPmicPgFall rail s) := by
  unfold execPmicPgFall
  with_reducible repeat' first
    | exact Keeps.refl s | apply keepsR_next | apply State.settle_keeps | apply State.coldReset_keeps
    | apply keeps_ite

theorem execResetN_keeps (s : State) :
    KeepsR s (execResetN s) := by
  unfold execResetN
  with_reducible repeat' first
    | exact Keeps.refl s | apply keepsR_next | apply State.settle_keeps | apply State.coldReset_keeps

theorem execBrownoutReset_keeps (s : State) :
    KeepsR s (execBrownoutReset s) := by
  unfold execBrownoutReset
  with_reducible repeat' first
    | exact Keeps.refl s | apply keepsR_next | apply State.settle_keeps | apply State.coldReset_keeps
    | apply keeps_ite

theorem execTend32kRunning_keeps (s : State) :
    KeepsR s (execTend32kRunning s) := by
  unfold execTend32kRunning
  with_reducible repeat' first
    | assumption | exact Keeps.refl s | apply keepsR_next | apply State.settle_keeps | apply keeps_ite
    | apply keeps_mk

theorem execSlcOpComplete_keeps (s : State) :
    KeepsR s (execSlcOpComplete s) := by
  unfold execSlcOpComplete
  with_reducible repeat' first
    | exact Keeps.refl s | apply keepsR_next | apply State.settle_keeps | apply State.slcComplete_keeps

theorem execChallengeExpiry_keeps (s : State) :
    KeepsR s (execChallengeExpiry s) := by
  unfold execChallengeExpiry
  with_reducible repeat' first
    | assumption | exact Keeps.refl s | apply keepsR_next | apply State.settle_keeps | apply State.setSluice_keeps
    | apply keeps_ite

theorem execEntropyFailure_keeps (s : State) :
    KeepsR s (execEntropyFailure s) := by
  unfold execEntropyFailure
  with_reducible repeat' first
    | exact Keeps.refl s | apply keepsR_next | apply State.settle_keeps | apply State.report_keeps
    | apply State.fset_keeps | apply keeps_ite

theorem execEntropyRetest_keeps (good : Bool) (s : State) :
    KeepsR s (execEntropyRetest good s) := by
  unfold execEntropyRetest
  with_reducible repeat' first
    | exact Keeps.refl s | apply keepsR_next | apply State.settle_keeps | apply State.fset_keeps | apply keeps_ite

theorem execSluiceViolation_keeps (cause : Fin 3) (s : State) :
    KeepsR s (execSluiceViolation cause s) := by
  unfold execSluiceViolation
  with_reducible repeat' first
    | exact Keeps.refl s | apply keepsR_next | apply State.settle_keeps | apply State.violation_keeps

theorem execTransferDone_keeps (id : Nat) (s : State) :
    KeepsR s (execTransferDone id s) := by
  unfold execTransferDone
  with_reducible repeat' first
    | exact Keeps.refl s | apply keepsR_next | apply State.settle_keeps | apply State.transferEnds_keeps

theorem execUpdateChunkStore_keeps (host : HostView) (s : State) :
    KeepsR s (execUpdateChunkStore host s) := by
  unfold execUpdateChunkStore
  with_reducible repeat' first
    | assumption | exact Keeps.refl s | apply keepsR_next | (intro) | apply State.settle_keeps
    | apply State.startDesc_keeps | apply State.chunkStore_keeps

theorem execUpdateChunkVerify_keeps (host : HostView) (s : State) :
    KeepsR s (execUpdateChunkVerify host s) := by
  unfold execUpdateChunkVerify
  with_reducible repeat' first
    | assumption | exact Keeps.refl s | apply keepsR_next | (intro) | apply State.settle_keeps
    | apply State.startDesc_keeps | apply State.chunkStore_keeps

theorem execUpdateChunkInstall_keeps (host : HostView) (s : State) :
    KeepsR s (execUpdateChunkInstall host s) := by
  unfold execUpdateChunkInstall
  with_reducible repeat' first
    | assumption | exact Keeps.refl s | apply keepsR_next | (intro) | apply State.settle_keeps
    | apply State.startDesc_keeps | apply State.chunkStore_keeps

theorem execFlashSectorDone_keeps (good : Bool) (s : State) :
    KeepsR s (execFlashSectorDone good s) := by
  unfold execFlashSectorDone
  with_reducible repeat' first
    | exact Keeps.refl s | apply keepsR_next | apply State.settle_keeps | apply State.sectorDone_keeps

theorem execReservoirRowRepair_keeps (addr : BitVec 34) (uncorrectable : Bool) (s : State) :
    KeepsR s (execReservoirRowRepair addr uncorrectable s) := by
  unfold execReservoirRowRepair
  with_reducible repeat' first
    | exact Keeps.refl s | apply keepsR_next | apply State.rowTold_keeps | apply State.rowRepair_keeps
    | apply State.settle_keeps | apply keeps_ite

theorem execSelfHeatTimeout_keeps (s : State) :
    KeepsR s (execSelfHeatTimeout s) := by
  unfold execSelfHeatTimeout
  with_reducible repeat' first
    | exact Keeps.refl s | apply keepsR_next | apply State.settle_keeps | apply State.heatTimeout_keeps

theorem execSelfHeatRetry_keeps (s : State) :
    KeepsR s (execSelfHeatRetry s) := by
  unfold execSelfHeatRetry
  with_reducible repeat' first
    | exact Keeps.refl s | apply keepsR_next | apply State.settle_keeps | apply State.raiseFirst_keeps
    | apply keeps_ite

theorem execCalibrationRun_keeps (unit : Fin 259) (g : List Nat) (s : State) :
    KeepsR s (execCalibrationRun unit g s) := by
  unfold execCalibrationRun
  with_reducible repeat' first
    | exact Keeps.refl s | apply keepsR_next | apply State.settle_keeps | apply State.calRun_keeps

theorem execCalRotate_keeps (s : State) :
    KeepsR s (execCalRotate s) := by
  unfold execCalRotate
  with_reducible repeat' first
    | exact Keeps.refl s | apply keepsR_next | apply State.settle_keeps | apply State.calRotate_keeps

theorem execCalMiss_keeps (unit : Fin 258) (s : State) :
    KeepsR s (execCalMiss unit s) := by
  unfold execCalMiss
  with_reducible repeat' first
    | exact Keeps.refl s | apply keepsR_next | apply State.settle_keeps | apply State.calMiss_keeps

theorem execTendRcCalibration_keeps (s : State) :
    KeepsR s (execTendRcCalibration s) := by
  unfold execTendRcCalibration
  with_reducible repeat' first
    | exact Keeps.refl s | apply keepsR_next | apply State.settle_keeps | apply State.calCount_keeps | apply keeps_ite

theorem execSensorSample_keeps (temps : List (BitVec 16)) (vhold : BitVec 11) (s : State) :
    KeepsR s (execSensorSample temps vhold s) := by
  unfold execSensorSample
  with_reducible repeat' first
    | exact Keeps.refl s | apply keepsR_next | apply State.settle_keeps | apply State.sensorSample_keeps

theorem execThrottleUpdate_keeps (s : State) :
    KeepsR s (execThrottleUpdate s) := by
  unfold execThrottleUpdate
  with_reducible repeat' first
    | exact Keeps.refl s | apply keepsR_next | apply State.settle_keeps | apply State.throttleUpdate_keeps

theorem execRiseCheck_keeps (s : State) :
    KeepsR s (execRiseCheck s) := by
  unfold execRiseCheck
  with_reducible repeat' first
    | exact Keeps.refl s | apply keepsR_next | apply State.settle_keeps | apply State.riseCheck_keeps

theorem execHourSave_keeps (s : State) :
    KeepsR s (execHourSave s) := by
  unfold execHourSave
  with_reducible repeat' first
    | exact Keeps.refl s | apply keepsR_next | apply State.settle_keeps | apply State.saveHours_keeps

theorem execShowReached_keeps (s : State) :
    KeepsR s (execShowReached s) := by
  unfold execShowReached
  with_reducible repeat' first
    | exact Keeps.refl s | apply keepsR_next | apply State.settle_keeps | apply State.showReached_keeps

theorem execSleepStateReached_keeps (s : State) :
    KeepsR s (execSleepStateReached s) := by
  unfold execSleepStateReached
  with_reducible repeat' first
    | exact Keeps.refl s | apply keepsR_next | apply State.settle_keeps | apply State.afterState_keeps
    | apply State.sleepCore_keeps | apply keeps_ite

theorem execPrepareBlockAgree_keeps (s : State) :
    KeepsR s (execPrepareBlockAgree s) := by
  unfold execPrepareBlockAgree
  with_reducible repeat' first
    | exact Keeps.refl s | apply keepsR_next | apply State.settle_keeps | apply State.agreeStep_keeps

theorem execDramTrainingDone_keeps (good : Bool) (s : State) :
    KeepsR s (execDramTrainingDone good s) := by
  unfold execDramTrainingDone
  with_reducible repeat' first
    | assumption | exact Keeps.refl s | apply keepsR_next | apply State.trainingDone_keeps | apply State.settle_keeps
    | apply State.reapplyRepairs_keeps | apply keeps_ite

theorem execEbbEntry_keeps (s : State) :
    KeepsR s (execEbbEntry s) := by
  unfold execEbbEntry
  with_reducible repeat' first
    | exact Keeps.refl s | apply keepsR_next | apply State.settle_keeps | apply State.ebbEntry_keeps

theorem execEbbExit_keeps (s : State) :
    KeepsR s (execEbbExit s) := by
  unfold execEbbExit
  with_reducible repeat' first
    | exact Keeps.refl s | apply keepsR_next | apply State.settle_keeps | apply State.ebbExit_keeps

theorem execHoldupRetry_keeps (vhold : BitVec 11) (s : State) :
    KeepsR s (execHoldupRetry vhold s) := by
  unfold execHoldupRetry
  with_reducible repeat' first
    | assumption | exact Keeps.refl s | apply keepsR_next | apply State.setPower_keeps | apply State.settle_keeps
    | apply State.rerunStores_keeps | apply keeps_ite

theorem execCommit_keeps (s : State) :
    KeepsR s (execCommit s) := by
  unfold execCommit
  with_reducible repeat' first
    | assumption | exact Keeps.refl s | apply keepsR_next | (intro) | apply State.settle_keeps
    | apply State.startDesc_keeps | apply State.commitStart_keeps

theorem execServiceReachBegin_keeps (s : State) :
    KeepsR s (execServiceReachBegin s) := by
  unfold execServiceReachBegin
  with_reducible repeat' first
    | assumption | exact Keeps.refl s | apply keepsR_next | (intro) | apply State.settle_keeps
    | apply State.startDesc_keeps | apply State.reachBegin_keeps

theorem execServiceReachEnd_keeps (s : State) :
    KeepsR s (execServiceReachEnd s) := by
  unfold execServiceReachEnd
  with_reducible repeat' first
    | assumption | exact Keeps.refl s | apply keepsR_next | (intro) | apply State.settle_keeps
    | apply State.startDesc_keeps | apply State.reachEnd_keeps

theorem execInputCut_keeps (s : State) :
    KeepsR s (execInputCut s) := by
  unfold execInputCut
  with_reducible repeat' first
    | exact Keeps.refl s | apply keepsR_next | apply State.settle_keeps | apply State.inputCut_keeps

theorem execCueDeadline_keeps (s : State) :
    KeepsR s (execCueDeadline s) := by
  unfold execCueDeadline
  with_reducible repeat' first
    | exact Keeps.refl s | apply keepsR_next | apply State.settle_keeps | apply State.cueClose_keeps

theorem execMemberPassEnd_keeps (s : State) :
    KeepsR s (execMemberPassEnd s) := by
  unfold execMemberPassEnd
  with_reducible repeat' first
    | exact Keeps.refl s | apply keepsR_next | apply State.settle_keeps | apply State.memberPassEnd_keeps
    | apply keeps_ite

theorem execFrameStaged_keeps (host : HostView) (after : HostView) (s : State) :
    KeepsR s (execFrameStaged host after s) := by
  unfold execFrameStaged
  with_reducible repeat' first
    | exact Keeps.refl s | apply keepsR_next | apply State.settle_keeps | apply State.frameStaged_keeps

theorem execStagingDeadline_keeps (fetched : List (Fin 4 × Fin 8)) (host after : HostView) (s : State) :
    KeepsR s (execStagingDeadline fetched host after s) := by
  unfold execStagingDeadline
  with_reducible repeat' first
    | exact Keeps.refl s | apply keepsR_next | apply State.stagingDeadline_keeps | apply State.settle_keeps

theorem execFrameInstant_keeps (s : State) :
    KeepsR s (execFrameInstant s) := by
  unfold execFrameInstant
  with_reducible repeat' first
    | exact Keeps.refl s | apply keepsR_next | apply State.settle_keeps | apply State.frameInstant_keeps

theorem execBsnOpCommit_keeps (req : Requester) (value : Word) (s : State) :
    KeepsR s (execBsnOpCommit req value s) := by
  unfold execBsnOpCommit
  with_reducible repeat' first
    | assumption | exact Keeps.refl s | apply keepsR_next | (intro) | apply State.settle_keeps
    | apply State.opWrite_keeps | apply State.rootCommit_keeps

theorem execBsnOpSnapshot_keeps (req : Requester) (value : Word) (s : State) :
    KeepsR s (execBsnOpSnapshot req value s) := by
  unfold execBsnOpSnapshot
  with_reducible repeat' first
    | assumption | exact Keeps.refl s | apply keepsR_next | (intro) | apply State.settle_keeps
    | apply State.opWrite_keeps | apply State.rootSnapshot_keeps

theorem execBsnOpReset_keeps (req : Requester) (value : Word) (s : State) :
    KeepsR s (execBsnOpReset req value s) := by
  unfold execBsnOpReset
  with_reducible repeat' first
    | assumption | exact Keeps.refl s | apply keepsR_next | (intro) | apply State.settle_keeps
    | apply State.opWrite_keeps | apply State.rootReset_keeps

theorem execBasinCommit_keeps (port : Fin 17) (bytes : List Byte) (s : State) :
    KeepsR s (execBasinCommit port bytes s) := by
  unfold execBasinCommit
  with_reducible repeat' first
    | assumption | exact Keeps.refl s | apply keepsR_next | (intro) | apply State.settle_keeps
    | apply State.parentSays_keeps | apply State.takeCommit_keeps

theorem execBasinSnapshot_keeps (port : Fin 17) (bytes : List Byte) (s : State) :
    KeepsR s (execBasinSnapshot port bytes s) := by
  unfold execBasinSnapshot
  with_reducible repeat' first
    | assumption | exact Keeps.refl s | apply keepsR_next | (intro) | apply State.settle_keeps
    | apply State.parentSays_keeps | apply State.takeSnapshot_keeps

theorem execBasinReset_keeps (port : Fin 17) (bytes : List Byte) (s : State) :
    KeepsR s (execBasinReset port bytes s) := by
  unfold execBasinReset
  with_reducible repeat' first
    | assumption | exact Keeps.refl s | apply keepsR_next | (intro) | apply State.settle_keeps
    | apply State.parentSays_keeps | apply State.takeReset_keeps

theorem execSwitchover_keeps (req : Requester) (value : Word) (s : State) :
    KeepsR s (execSwitchover req value s) := by
  unfold execSwitchover
  with_reducible repeat' first
    | exact Keeps.refl s | apply keepsR_next | apply State.settle_keeps | apply State.accessErr_keeps
    | apply State.sipCtrlWrite_keeps | apply keeps_ite

theorem execTandemJoinTimer_keeps (s : State) :
    KeepsR s (execTandemJoinTimer s) := by
  unfold execTandemJoinTimer
  with_reducible repeat' first
    | exact Keeps.refl s | apply keepsR_next | apply State.settle_keeps | apply State.joinTimer_keeps

theorem execHeartbeatSend_keeps (s : State) :
    KeepsR s (execHeartbeatSend s) := by
  unfold execHeartbeatSend
  with_reducible repeat' first
    | exact Keeps.refl s | apply keepsR_next | apply State.settle_keeps | apply State.heartbeatSend_keeps

theorem execHeartbeatReceived_keeps (eth auth : Bool) (role : Fin 4) (frame : BitVec 64) (since : Int) (ahead : Option
    Int) (s : State) :
    KeepsR s (execHeartbeatReceived eth auth role frame since ahead s) := by
  unfold execHeartbeatReceived
  with_reducible repeat' first
    | assumption | exact Keeps.refl s | apply keepsR_next | (intro) | apply State.pairHears_keeps
    | apply State.heartbeatReceived_keeps | apply State.settle_keeps

theorem execHeartbeatMiss_keeps (s : State) :
    KeepsR s (execHeartbeatMiss s) := by
  unfold execHeartbeatMiss
  with_reducible repeat' first
    | exact Keeps.refl s | apply keepsR_next | apply State.settle_keeps | apply State.bumpF_keeps | apply keeps_ite

theorem execFailureDeclared_keeps (s : State) :
    KeepsR s (execFailureDeclared s) := by
  unfold execFailureDeclared
  with_reducible repeat' first
    | exact Keeps.refl s | apply keepsR_next | apply State.settle_keeps | apply State.failureDeclared_keeps

theorem execFenceReceived_keeps (auth : Bool) (s : State) :
    KeepsR s (execFenceReceived auth s) := by
  unfold execFenceReceived
  with_reducible repeat' first
    | assumption | exact Keeps.refl s | apply keepsR_next | (intro) | apply State.pairHears_keeps | apply State.fenced_keeps
    | apply State.settle_keeps | apply keeps_ite

theorem execSiphonLinkUp_keeps (nonce : List Byte) (s : State) :
    KeepsR s (execSiphonLinkUp nonce s) := by
  unfold execSiphonLinkUp
  with_reducible repeat' first
    | exact Keeps.refl s | apply keepsR_next | apply State.settle_keeps | apply State.siphonUp_keeps

theorem execSiphonLinkDown_keeps (s : State) :
    KeepsR s (execSiphonLinkDown s) := by
  unfold execSiphonLinkDown
  with_reducible repeat' first
    | exact Keeps.refl s | apply keepsR_next | apply State.settle_keeps | apply State.siphonDown_keeps

theorem execSiphonLaneChange_keeps (failed : Bool) (s : State) :
    KeepsR s (execSiphonLaneChange failed s) := by
  unfold execSiphonLaneChange
  with_reducible repeat' first
    | assumption | exact Keeps.refl s | apply keepsR_next | apply State.settle_keeps | apply State.setTandem_keeps
    | apply State.fset_keeps | apply keeps_ite

theorem execResync_keeps (auth : Bool) (s : State) :
    KeepsR s (execResync auth s) := by
  unfold execResync
  with_reducible repeat' first
    | exact Keeps.refl s | apply keepsR_next | apply State.settle_keeps | apply State.resync_keeps

theorem execCatchupPages_keeps (auth : Bool) (pages : List (BitVec 18 × List Byte)) (engine : List EngineRec)
    (s : State) :
    KeepsR s (execCatchupPages auth pages engine s) := by
  unfold execCatchupPages
  with_reducible repeat' first
    | exact Keeps.refl s | apply keepsR_next | apply State.settle_keeps | apply State.catchupPages_keeps
    | apply State.authFail_keeps | apply keeps_ite

theorem execLedgerRecordReceived_keeps (auth : Bool) (kind : Fin 256) (key : Nat) (body : List Nat) (s : State) :
    KeepsR s (execLedgerRecordReceived auth kind key body s) := by
  unfold execLedgerRecordReceived
  with_reducible repeat' first
    | exact Keeps.refl s | apply keepsR_next | apply State.settle_keeps | apply State.recordTaken_keeps
    | apply State.authFail_keeps | apply keeps_ite

theorem execStandbyFrameStart_keeps (s : State) :
    KeepsR s (execStandbyFrameStart s) := by
  unfold execStandbyFrameStart
  with_reducible repeat' first
    | exact Keeps.refl s | apply keepsR_next | apply State.settle_keeps | apply State.standbyStart_keeps

theorem execStandbyStagingDeadline_keeps (s : State) :
    KeepsR s (execStandbyStagingDeadline s) := by
  unfold execStandbyStagingDeadline
  with_reducible repeat' first
    | exact Keeps.refl s | apply keepsR_next | apply State.settle_keeps | apply State.standbyDeadline_keeps

theorem execDrLedger_keeps (core : Fin 64) (rd rs1 : Fin 32) (s : State) :
    KeepsR s (execDrLedger core rd rs1 s) := by
  unfold execDrLedger
  with_reducible repeat' first
    | exact Keeps.refl s | apply keepsR_next | apply State.drLedger_keeps | apply State.settle_keeps

theorem execDrDone_keeps (core : Fin 64) (rs1 : Fin 32) (s : State) :
    KeepsR s (execDrDone core rs1 s) := by
  unfold execDrDone
  with_reducible repeat' first
    | exact Keeps.refl s | apply keepsR_next | apply State.drDone_keeps | apply State.clusterReports_keeps
    | apply State.settle_keeps

theorem execHealthRecordSend_keeps (s : State) :
    KeepsR s (execHealthRecordSend s) := by
  unfold execHealthRecordSend
  with_reducible repeat' first
    | exact Keeps.refl s | apply keepsR_next | apply State.settle_keeps | apply State.healthSend_keeps

theorem execHealthRecordReceived_keeps (auth : Bool) (words : List Word) (s : State) :
    KeepsR s (execHealthRecordReceived auth words s) := by
  unfold execHealthRecordReceived
  with_reducible repeat' first
    | exact Keeps.refl s | apply keepsR_next | apply State.settle_keeps | apply State.healthTaken_keeps
    | apply State.authFail_keeps | apply keeps_ite

theorem execHealthRecordTimeout_keeps (s : State) :
    KeepsR s (execHealthRecordTimeout s) := by
  unfold execHealthRecordTimeout
  with_reducible repeat' first
    | assumption | exact Keeps.refl s | apply keepsR_next | apply State.settle_keeps | apply State.report_keeps
    | apply State.setTandem_keeps | apply keeps_ite

theorem execStandbySelfTest_keeps (unit : Fin 5) (good : Bool) (s : State) :
    KeepsR s (execStandbySelfTest unit good s) := by
  unfold execStandbySelfTest
  with_reducible repeat' first
    | assumption | exact Keeps.refl s | apply keepsR_next | apply State.settle_keeps | apply State.setTandem_keeps
    | apply keeps_ite

theorem execMacFrameReceive_keeps (mac : Fin 4) (bytes : List Byte) (good : Bool) (s : State) :
    KeepsR s (execMacFrameReceive mac bytes good s) := by
  unfold execMacFrameReceive
  with_reducible repeat' first
    | exact Keeps.refl s | apply keepsR_next | apply State.settle_keeps | apply State.frameArrives_keeps

theorem execNetLinkChange_keeps (mac : Fin 4) (up : Bool) (s : State) :
    KeepsR s (execNetLinkChange mac up s) := by
  unfold execNetLinkChange
  with_reducible repeat' first
    | exact Keeps.refl s | apply keepsR_next | apply State.settle_keeps | apply State.macEnds_keeps
    | apply State.linkChange_keeps

theorem execSacnDataReceived_keeps (mac : Fin 4) (s : State) :
    KeepsR s (execSacnDataReceived mac s) := by
  unfold execSacnDataReceived
  with_reducible repeat' first
    | exact Keeps.refl s | apply keepsR_next | apply State.settle_keeps | apply State.sacnArrives_keeps

theorem execTallyEdge_keeps (tally : Fin 32) (rising : Bool) (ago : Nat) (s : State) :
    KeepsR s (execTallyEdge tally rising ago s) := by
  unfold execTallyEdge
  with_reducible repeat' first
    | exact Keeps.refl s | apply keepsR_next | apply State.settle_keeps | apply State.edgeArrives_keeps

theorem execHostNudge_keeps (req : Requester) (value : Word) (s : State) :
    KeepsR s (execHostNudge req value s) := by
  unfold execHostNudge
  with_reducible repeat' first
    | exact Keeps.refl s | apply keepsR_next | apply State.settle_keeps | apply State.write1_keeps

theorem execRingEnable_keeps (req : Requester) (ring : Fin 32) (value : Word) (s : State) :
    KeepsR s (execRingEnable req ring value s) := by
  unfold execRingEnable
  with_reducible repeat' first
    | exact Keeps.refl s | apply keepsR_next | apply State.settle_keeps | apply State.write1_keeps

theorem execRingDisable_keeps (req : Requester) (ring : Fin 32) (value : Word) (s : State) :
    KeepsR s (execRingDisable req ring value s) := by
  unfold execRingDisable
  with_reducible repeat' first
    | exact Keeps.refl s | apply keepsR_next | apply State.settle_keeps | apply State.write1_keeps

theorem execDrCoreRunWrite_keeps (req : Requester) (clusterB : Bool) (value : Word) (s : State) :
    KeepsR s (execDrCoreRunWrite req clusterB value s) := by
  unfold execDrCoreRunWrite
  with_reducible repeat' first
    | exact Keeps.refl s | apply keepsR_next | apply State.settle_keeps | apply State.write1_keeps

theorem execPfFadeqTailWrite_keeps (req : Requester) (queue : Fin 64) (value : Word) (s : State) :
    KeepsR s (execPfFadeqTailWrite req queue value s) := by
  unfold execPfFadeqTailWrite
  with_reducible repeat' first
    | exact Keeps.refl s | apply keepsR_next | apply State.settle_keeps | apply State.write1_keeps

theorem execPfCtrlWrite_keeps (req : Requester) (value : Word) (s : State) :
    KeepsR s (execPfCtrlWrite req value s) := by
  unfold execPfCtrlWrite
  with_reducible repeat' first
    | exact Keeps.refl s | apply keepsR_next | apply State.settle_keeps | apply State.write1_keeps

theorem execCmpCtrlWrite_keeps (req : Requester) (value : Word) (s : State) :
    KeepsR s (execCmpCtrlWrite req value s) := by
  unfold execCmpCtrlWrite
  with_reducible repeat' first
    | exact Keeps.refl s | apply keepsR_next | apply State.settle_keeps | apply State.write1_keeps

theorem execClrCtrlWrite_keeps (req : Requester) (value : Word) (s : State) :
    KeepsR s (execClrCtrlWrite req value s) := by
  unfold execClrCtrlWrite
  with_reducible repeat' first
    | exact Keeps.refl s | apply keepsR_next | apply State.settle_keeps | apply State.write1_keeps

theorem execClrTableBaseWrite_keeps (req : Requester) (value : Word) (s : State) :
    KeepsR s (execClrTableBaseWrite req value s) := by
  unfold execClrTableBaseWrite
  with_reducible repeat' first
    | exact Keeps.refl s | apply keepsR_next | apply State.settle_keeps | apply State.write1_keeps

theorem execWmCtrlWrite_keeps (req : Requester) (value : Word) (s : State) :
    KeepsR s (execWmCtrlWrite req value s) := by
  unfold execWmCtrlWrite
  with_reducible repeat' first
    | exact Keeps.refl s | apply keepsR_next | apply State.settle_keeps | apply State.write1_keeps

theorem execWmLegAckWrite_keeps (req : Requester) (value : Word) (s : State) :
    KeepsR s (execWmLegAckWrite req value s) := by
  unfold execWmLegAckWrite
  with_reducible repeat' first
    | exact Keeps.refl s | apply keepsR_next | apply State.settle_keeps | apply State.write1_keeps

theorem execEnumGo_keeps (req : Requester) (value : Word) (s : State) :
    KeepsR s (execEnumGo req value s) := by
  unfold execEnumGo
  with_reducible repeat' first
    | exact Keeps.refl s | apply keepsR_next | apply State.settle_keeps | apply State.write1_keeps

theorem execNetMacCfgWrite_keeps (req : Requester) (mac : Fin 4) (value : Word) (s : State) :
    KeepsR s (execNetMacCfgWrite req mac value s) := by
  unfold execNetMacCfgWrite
  with_reducible repeat' first
    | exact Keeps.refl s | apply keepsR_next | apply State.settle_keeps | apply State.write1_keeps

theorem execNetTsqPop_keeps (req : Requester) (mac : Fin 4) (value : Word) (s : State) :
    KeepsR s (execNetTsqPop req mac value s) := by
  unfold execNetTsqPop
  with_reducible repeat' first
    | exact Keeps.refl s | apply keepsR_next | apply State.settle_keeps | apply State.write1_keeps

theorem execTimCapture_keeps (req : Requester) (value : Word) (s : State) :
    KeepsR s (execTimCapture req value s) := by
  unfold execTimCapture
  with_reducible repeat' first
    | exact Keeps.refl s | apply keepsR_next | apply State.settle_keeps | apply State.write1_keeps

theorem execTimTallyPop_keeps (req : Requester) (value : Word) (s : State) :
    KeepsR s (execTimTallyPop req value s) := by
  unfold execTimTallyPop
  with_reducible repeat' first
    | exact Keeps.refl s | apply keepsR_next | apply State.settle_keeps | apply State.write1_keeps

theorem execGateArm_keeps (req : Requester) (gate : Fin 8) (value : Word) (s : State) :
    KeepsR s (execGateArm req gate value s) := by
  unfold execGateArm
  with_reducible repeat' first
    | exact Keeps.refl s | apply keepsR_next | apply State.settle_keeps | apply State.write1_keeps

theorem execGateDisarm_keeps (req : Requester) (gate : Fin 8) (value : Word) (s : State) :
    KeepsR s (execGateDisarm req gate value s) := by
  unfold execGateDisarm
  with_reducible repeat' first
    | exact Keeps.refl s | apply keepsR_next | apply State.settle_keeps | apply State.write1_keeps

theorem execBsnBcastPop_keeps (req : Requester) (value : Word) (s : State) :
    KeepsR s (execBsnBcastPop req value s) := by
  unfold execBsnBcastPop
  with_reducible repeat' first
    | exact Keeps.refl s | apply keepsR_next | apply State.settle_keeps | apply State.write1_keeps

theorem execPmRequest_keeps (req : Requester) (value : Word) (s : State) :
    KeepsR s (execPmRequest req value s) := by
  unfold execPmRequest
  with_reducible repeat' first
    | exact Keeps.refl s | apply keepsR_next | apply State.settle_keeps | apply State.write1_keeps

theorem execPmRequestAbort_keeps (req : Requester) (value : Word) (s : State) :
    KeepsR s (execPmRequestAbort req value s) := by
  unfold execPmRequestAbort
  with_reducible repeat' first
    | exact Keeps.refl s | apply keepsR_next | apply State.settle_keeps | apply State.write1_keeps

theorem execUpdateAbort_keeps (req : Requester) (value : Word) (s : State) :
    KeepsR s (execUpdateAbort req value s) := by
  unfold execUpdateAbort
  with_reducible repeat' first
    | exact Keeps.refl s | apply keepsR_next | apply State.settle_keeps | apply State.write1_keeps

theorem execGaRunWrite_keeps (req : Requester) (unit : Fin 16) (value : Word) (s : State) :
    KeepsR s (execGaRunWrite req unit value s) := by
  unfold execGaRunWrite
  with_reducible repeat' first
    | exact Keeps.refl s | apply keepsR_next | apply State.settle_keeps | apply State.write1_keeps

theorem execGaDataWrite_keeps (req : Requester) (unit : Fin 16) (value : Word) (s : State) :
    KeepsR s (execGaDataWrite req unit value s) := by
  unfold execGaDataWrite
  with_reducible repeat' first
    | exact Keeps.refl s | apply keepsR_next | apply State.settle_keeps | apply State.write1_keeps

theorem execGaData8Write_keeps (req : Requester) (unit : Fin 16) (value : Word) (s : State) :
    KeepsR s (execGaData8Write req unit value s) := by
  unfold execGaData8Write
  with_reducible repeat' first
    | exact Keeps.refl s | apply keepsR_next | apply State.settle_keeps | apply State.write1_keeps

theorem execGaFinishWrite_keeps (req : Requester) (unit : Fin 16) (value : Word) (s : State) :
    KeepsR s (execGaFinishWrite req unit value s) := by
  unfold execGaFinishWrite
  with_reducible repeat' first
    | exact Keeps.refl s | apply keepsR_next | apply State.settle_keeps | apply State.write1_keeps

theorem execSltAckSeen_keeps (req : Requester) (entry : Fin 1024) (s : State) :
    KeepsR s (execSltAckSeen req entry s) := by
  unfold execSltAckSeen
  with_reducible repeat' first
    | exact Keeps.refl s | apply keepsR_next | apply State.settle_keeps | apply State.write1_keeps

theorem execSltAckRelease_keeps (req : Requester) (entry : Fin 1024) (s : State) :
    KeepsR s (execSltAckRelease req entry s) := by
  unfold execSltAckRelease
  with_reducible repeat' first
    | exact Keeps.refl s | apply keepsR_next | apply State.settle_keeps | apply State.write1_keeps

theorem execWarmReset_keeps (req : Requester) (value : Word) (s : State) :
    KeepsR s (execWarmReset req value s) := by
  unfold execWarmReset
  with_reducible repeat' first
    | exact Keeps.refl s | apply keepsR_next | apply State.settle_keeps | apply State.write1_keeps

theorem execBasinLocalReset_keeps (req : Requester) (value : Word) (s : State) :
    KeepsR s (execBasinLocalReset req value s) := by
  unfold execBasinLocalReset
  with_reducible repeat' first
    | exact Keeps.refl s | apply keepsR_next | apply State.settle_keeps | apply State.write1_keeps

theorem execRstDomainWrite_keeps (req : Requester) (value : Word) (s : State) :
    KeepsR s (execRstDomainWrite req value s) := by
  unfold execRstDomainWrite
  with_reducible repeat' first
    | exact Keeps.refl s | apply keepsR_next | apply State.settle_keeps | apply State.write1_keeps

theorem execGlbIrqTestWrite_keeps (req : Requester) (value : Word) (s : State) :
    KeepsR s (execGlbIrqTestWrite req value s) := by
  unfold execGlbIrqTestWrite
  with_reducible repeat' first
    | exact Keeps.refl s | apply keepsR_next | apply State.settle_keeps | apply State.write1_keeps

theorem execSlcClaim_keeps (req : Requester) (host : HostView) (arg : BitVec 16) (s : State) :
    KeepsR s (execSlcClaim req host arg s) := by
  unfold execSlcClaim
  with_reducible repeat' first | exact Keeps.refl s | apply keepsR_next | apply State.slcCommand_keeps

theorem execSlcReturn_keeps (req : Requester) (host : HostView) (arg : BitVec 16) (s : State) :
    KeepsR s (execSlcReturn req host arg s) := by
  unfold execSlcReturn
  with_reducible repeat' first | exact Keeps.refl s | apply keepsR_next | apply State.slcCommand_keeps

theorem execSlcVoid_keeps (req : Requester) (host : HostView) (arg : BitVec 16) (s : State) :
    KeepsR s (execSlcVoid req host arg s) := by
  unfold execSlcVoid
  with_reducible repeat' first | exact Keeps.refl s | apply keepsR_next | apply State.slcCommand_keeps

theorem execChallenge_keeps (req : Requester) (host : HostView) (arg : BitVec 16) (s : State) :
    KeepsR s (execChallenge req host arg s) := by
  unfold execChallenge
  with_reducible repeat' first | exact Keeps.refl s | apply keepsR_next | apply State.slcCommand_keeps

theorem execDebugOpen_keeps (req : Requester) (host : HostView) (arg : BitVec 16) (s : State) :
    KeepsR s (execDebugOpen req host arg s) := by
  unfold execDebugOpen
  with_reducible repeat' first | exact Keeps.refl s | apply keepsR_next | apply State.slcCommand_keeps

theorem execDebugClose_keeps (req : Requester) (host : HostView) (arg : BitVec 16) (s : State) :
    KeepsR s (execDebugClose req host arg s) := by
  unfold execDebugClose
  with_reducible repeat' first | exact Keeps.refl s | apply keepsR_next | apply State.slcCommand_keeps

theorem execKeyInstall_keeps (req : Requester) (host : HostView) (arg : BitVec 16) (s : State) :
    KeepsR s (execKeyInstall req host arg s) := by
  unfold execKeyInstall
  with_reducible repeat' first | exact Keeps.refl s | apply keepsR_next | apply State.slcCommand_keeps

theorem execKeyLoad_keeps (req : Requester) (host : HostView) (arg : BitVec 16) (s : State) :
    KeepsR s (execKeyLoad req host arg s) := by
  unfold execKeyLoad
  with_reducible repeat' first | exact Keeps.refl s | apply keepsR_next | apply State.slcCommand_keeps

theorem execKeyErase_keeps (req : Requester) (host : HostView) (arg : BitVec 16) (s : State) :
    KeepsR s (execKeyErase req host arg s) := by
  unfold execKeyErase
  with_reducible repeat' first | exact Keeps.refl s | apply keepsR_next | apply State.slcCommand_keeps

theorem execEncrypt_keeps (req : Requester) (host : HostView) (arg : BitVec 16) (s : State) :
    KeepsR s (execEncrypt req host arg s) := by
  unfold execEncrypt
  with_reducible repeat' first | exact Keeps.refl s | apply keepsR_next | apply State.slcCommand_keeps

theorem execDecrypt_keeps (req : Requester) (host : HostView) (arg : BitVec 16) (s : State) :
    KeepsR s (execDecrypt req host arg s) := by
  unfold execDecrypt
  with_reducible repeat' first | exact Keeps.refl s | apply keepsR_next | apply State.slcCommand_keeps

theorem execAttest_keeps (req : Requester) (host : HostView) (arg : BitVec 16) (s : State) :
    KeepsR s (execAttest req host arg s) := by
  unfold execAttest
  with_reducible repeat' first | exact Keeps.refl s | apply keepsR_next | apply State.slcCommand_keeps

theorem execAdvanceRollback_keeps (req : Requester) (host : HostView) (arg : BitVec 16) (s : State) :
    KeepsR s (execAdvanceRollback req host arg s) := by
  unfold execAdvanceRollback
  with_reducible repeat' first | exact Keeps.refl s | apply keepsR_next | apply State.slcCommand_keeps

theorem execPmTenderSecRead_keeps (req : Requester) (offset : BitVec 24) (bytes : Fin 9) (s : State) :
    KeepsR s (execPmTenderSecRead req offset bytes s) := by
  unfold execPmTenderSecRead
  with_reducible repeat' first | exact Keeps.refl s | apply keepsR_next | apply State.readTouching_keeps

theorem execSipLedgerMaxRead_keeps (req : Requester) (offset : BitVec 24) (bytes : Fin 9) (s : State) :
    KeepsR s (execSipLedgerMaxRead req offset bytes s) := by
  unfold execSipLedgerMaxRead
  with_reducible repeat' first | exact Keeps.refl s | apply keepsR_next | apply State.readTouching_keeps

theorem execSlcRandomRead_keeps (req : Requester) (offset : BitVec 24) (bytes : Fin 9) (s : State) :
    KeepsR s (execSlcRandomRead req offset bytes s) := by
  unfold execSlcRandomRead
  with_reducible repeat' first | exact Keeps.refl s | apply keepsR_next | apply State.readTouching_keeps

theorem execPairLoRead_keeps (req : Requester) (offset : BitVec 24) (bytes : Fin 9) (s : State) :
    KeepsR s (execPairLoRead req offset bytes s) := by
  unfold execPairLoRead
  with_reducible repeat' first
    | exact Keeps.refl s | apply keepsR_next | apply State.settle_keeps | apply State.readOut_keeps | apply keeps_ite

theorem execPairHiWrite_keeps (req : Requester) (offset : BitVec 24) (bytes : Fin 9) (value : Word) (s : State) :
    KeepsR s (execPairHiWrite req offset bytes value s) := by
  unfold execPairHiWrite
  with_reducible repeat' first
    | exact Keeps.refl s | apply keepsR_next | apply State.settle_keeps | apply State.regWrite_keeps | apply keeps_ite

theorem execPairLoWrite_keeps (req : Requester) (offset : BitVec 24) (bytes : Fin 9) (value : Word) (s : State) :
    KeepsR s (execPairLoWrite req offset bytes value s) := by
  unfold execPairLoWrite
  with_reducible repeat' first
    | exact Keeps.refl s | apply keepsR_next | apply State.settle_keeps | apply State.regWrite_keeps | apply keeps_ite

theorem execRegisterWrite_keeps (req : Requester) (offset : BitVec 24) (bytes : Fin 9) (value : Word) (s : State) :
    KeepsR s (execRegisterWrite req offset bytes value s) := by
  unfold execRegisterWrite
  with_reducible repeat' first
    | exact Keeps.refl s | apply keepsR_next | apply State.settle_keeps | apply State.regWrite_keeps

theorem execSmbusWriteRegister_keeps (offset : BitVec 24) (value : Word) (pec : Bool) (s : State) :
    KeepsR s (execSmbusWriteRegister offset value pec s) := by
  unfold execSmbusWriteRegister
  with_reducible repeat' first
    | exact Keeps.refl s | apply keepsR_next | apply State.settle_keeps | apply State.smbWrite_keeps

theorem execSmbusSetReadAddress_keeps (offset : BitVec 24) (pec : Bool) (s : State) :
    KeepsR s (execSmbusSetReadAddress offset pec s) := by
  unfold execSmbusSetReadAddress
  with_reducible repeat' first
    | assumption | exact Keeps.refl s | apply keepsR_next | apply State.settle_keeps | apply State.emit_keeps
    | apply State.setPower_keeps | apply keeps_ite

theorem execSmbusReadRegister_keeps (s : State) :
    KeepsR s (execSmbusReadRegister s) := by
  unfold execSmbusReadRegister
  with_reducible repeat' first
    | exact Keeps.refl s | apply keepsR_next | apply State.settle_keeps | apply State.smbRead_keeps

theorem execCoreMemoryAccess_keeps (core : Fin 64) (addr : Word) (access : CoreAccess) (compressed : Bool) (errors :
    Fin 3) (s : State) :
    KeepsR s (execCoreMemoryAccess core addr access compressed errors s) := by
  unfold execCoreMemoryAccess
  with_reducible repeat' first
    | exact Keeps.refl s | apply keepsR_next | apply State.meetErrors_keeps | apply State.coreAccess_keeps
    | apply State.settle_keeps | apply keeps_ite

theorem execJtagInstruction_keeps (op : JtagOp) (s : State) : KeepsR s (execJtagInstruction op s) := by
  have h : Keeps s { s with extest := false } := keeps_of_eq (Keeps.refl s) rfl rfl rfl rfl rfl
  exact keepsR_next (keeps_ite (State.settle_keeps (State.tapDo_keeps h op)) (Keeps.refl s))

end Sys2Proof.Machine
end

