-- ==== Sys2Proof/Laws/Resets.lean ====
section
/-! SUPPORT. What a reset of any domain leaves: the Tender's own state, the fuses, and which domains are on. -/

namespace Sys2Proof.Machine

open Sys2Proof

/-- `t` differs from `s` at most in registers, in the Reservoir, in what left the device, in the frame ledger, in a standby's schedule, and in the state of MSI-X, of the
rings, of the Ditchrider and of the Silt trap: what a completion, an event or a report can do, whatever ring it names. -/
structure Loose (s t : State) : Prop where
  latches : t.latches = s.latches
  heldHi : t.heldHi = s.heldHi
  tables : t.tables = s.tables
  cores : t.cores = s.cores
  gauges : t.gauges = s.gauges
  time : t.time.calm = s.time.calm
  fuses : t.fuses = s.fuses
  nodes : t.nodes = s.nodes
  fabric : t.fabric = s.fabric
  tandem : t.tandem.calm = s.tandem.calm
  cmp : t.cmp = s.cmp
  video : t.video = s.video
  net : t.net = s.net
  water : t.water = s.water
  die : t.die = s.die
  ras : t.ras = s.ras
  basin : t.basin = s.basin
  power : t.power = s.power
  sluice : t.sluice = s.sluice
  live_ : t.live_ = s.live_
  store : t.store = s.store
  thermal : t.thermal = s.thermal
  hourMs : t.hourMs = s.hourMs
  extest : t.extest = s.extest
  domains : t.domains = s.domains
  pending : t.pending = s.pending
  cistern : t.mem.cistern = s.mem.cistern
  pads : t.mem.pads = s.mem.pads
  pools : t.mem.pools = s.mem.pools
  badPads : t.mem.badPads = s.mem.badPads
  badPools : t.mem.badPools = s.mem.badPools

variable {s t u : State}

theorem Loose.refl (s : State) : Loose s s := by constructor <;> rfl

theorem Loose.trans (a : Loose s t) (b : Loose t u) : Loose s u :=
  ⟨b.latches.trans a.latches, b.heldHi.trans a.heldHi, b.tables.trans a.tables, b.cores.trans a.cores,
   b.gauges.trans a.gauges, b.time.trans a.time, b.fuses.trans a.fuses, b.nodes.trans a.nodes, b.fabric.trans
   a.fabric, b.tandem.trans a.tandem, b.cmp.trans a.cmp, b.video.trans a.video, b.net.trans a.net, b.water.trans
   a.water, b.die.trans a.die, b.ras.trans a.ras, b.basin.trans a.basin, b.power.trans a.power, b.sluice.trans
   a.sluice, b.live_.trans a.live_, b.store.trans a.store, b.thermal.trans a.thermal, b.hourMs.trans a.hourMs,
   b.extest.trans a.extest, b.domains.trans a.domains, b.pending.trans a.pending, b.cistern.trans a.cistern,
   b.pads.trans a.pads, b.pools.trans a.pools, b.badPads.trans a.badPads, b.badPools.trans a.badPools⟩

theorem Calm.loose (h : Calm s t) : Loose s t :=
  ⟨h.latches, h.heldHi, h.tables, h.cores, h.gauges, h.time, h.fuses, h.nodes, h.fabric, h.tandem, h.cmp,
   h.video, h.net, h.water, h.die, h.ras, h.basin, h.power, h.sluice, h.live_, h.store, h.thermal, h.hourMs,
   h.extest, h.domains, h.pending, h.cistern, h.pads, h.pools, h.badPads, h.badPools⟩

theorem Loose.of (h : Loose s t) (hm : u.mem = t.mem)
    (e : u = { t with regs := u.regs, mem := u.mem, pcie := u.pcie, rings := u.rings, ditch := u.ditch, silt := u.silt,
                      free := u.free, out := u.out }) : Loose s u := by
  refine h.trans ?_
  constructor <;> first
    | (rw [hm])
    | (rw [e])

theorem Loose.set (h : Loose s t) (a : Nat) (v : Word) : Loose s (t.setRg a v) := h.of rfl rfl
theorem Loose.put (h : Loose s t) (f : RF) (v i j : Nat) : Loose s (t.fset f v i j) := h.set _ _
theorem Loose.emit (h : Loose s t) (e : Emission) : Loose s (t.emit e) := h.of rfl rfl
theorem Loose.setTask (h : Loose s t) (i : Nat) (v : Option Task) : Loose s (t.setTask i v) := h.of rfl rfl
theorem Loose.setRing (h : Loose s t) (i : Nat) (v : Ring) : Loose s (t.setRing i v) := h.of rfl rfl

theorem Loose.ite {c : Prop} [Decidable c] (ht : Loose s t) (hu : Loose s u) : Loose s (if c then t else u) := by
  split <;> assumption

theorem Loose.foldl {α : Type} (l : List α) (f : State → α → State) (h : Loose s t) (hf : ∀ t a, Loose s t → Loose s (f t a)) :
    Loose s (l.foldl f t) := by
  induction l generalizing t with
  | nil => exact h
  | cons a l ih => exact ih (hf t a h)

theorem Loose.report (h : Loose s t) (c o d : Nat) : Loose s (t.report c o d) := by
  unfold State.report; exact .ite (h.of rfl rfl) h

theorem Loose.bump (h : Loose s t) (a : Nat) : Loose s (t.bump a) := by
  unfold State.bump; exact .ite h (.ite ((h.set _ _).report _ _ _) (h.set _ _))

theorem Loose.bumpF (h : Loose s t) (f : RF) (i j : Nat) : Loose s (t.bumpF f i j) := h.bump _

theorem Loose.sendVector (h : Loose s t) (v : Nat) : Loose s (t.sendVector v) := by
  unfold State.sendVector; exact .ite (.ite (h.of rfl rfl) (h.emit _)) h

theorem Loose.raise (h : Loose s t) (v : Nat) : Loose s (t.raise v) := by
  unfold State.raise; exact .ite ((h.put _ _ _ _).sendVector _) h

theorem Loose.stopShadow (h : Loose s t) : Loose s t.stopShadow := h.trans (by constructor <;> rfl)

theorem Loose.notCurrent (h : Loose s t) (c : Nat) : Loose s (t.notCurrent c) := by
  unfold State.notCurrent
  exact .ite ((((h.put _ _ _ _).put _ _ _ _).bumpF _ _ _).report _ _ _).stopShadow h

theorem Loose.lateRelease (h : Loose s t) (handle : Nat) : Loose s (t.lateRelease handle) := by
  unfold State.lateRelease
  exact .ite (.ite h (h.notCurrent _)) (h.trans (by constructor <;> rfl))

theorem Loose.releaseKept (h : Loose s t) (i : Nat) (v : Task) (f e : Nat) : Loose s (t.releaseKept i v f e) := by
  unfold State.releaseKept
  exact .ite (((((h.setTask _ _).bumpF _ _ _).bumpF _ _ _).report _ _ _).lateRelease _) (by
    unfold State.joinReady; exact h.of rfl rfl)

theorem Loose.fireSource (h : Loose s t) (n : Nat) : Loose s (t.fireSource n) := by
  unfold State.fireSource
  refine h.foldl _ _ (fun t a h => ?_)
  split
  · refine .ite ?_ h
    unfold State.fireTask
    split
    · exact h.releaseKept _ _ _ _
    · exact (h.setTask _ _).bumpF _ _ _
    · exact .ite (h.setTask _ _) ((h.setTask _ _).bumpF _ _ _)
  · exact h

theorem Loose.signalCq (h : Loose s t) (n : Nat) : Loose s (t.signalCq n) := by
  unfold State.signalCq
  exact .ite ((h.setRing _ _).fireSource _) ((h.setRing _ _).sendVector _)

theorem Loose.moderate (h : Loose s t) (n : Nat) (irq : Bool) : Loose s (t.moderate n irq) := by
  unfold State.moderate
  exact .ite ((h.setRing _ _).signalCq _) (h.setRing _ _)

theorem Loose.writeCq (h : Loose s t) (n : Nat) (c : Completion) : Loose s (t.writeCq n c) := by
  unfold State.writeCq
  simp only
  split
  · next e =>
      refine Loose.moderate (Loose.setRing ?_ _ _) _ _
      unfold State.dmaWrite at e
      split at e <;> split at e
      · exact Option.some.inj e ▸ h.trans (by constructor <;> rfl)
      · cases e
      · exact Option.some.inj e ▸ h.emit _
      · cases e
  · exact (Loose.ite ((((h.put _ _ _ _).put _ _ _ _).put _ _ _ _).bumpF _ _ _ |>.raise _) h).bumpF _ _ _

theorem Loose.postCq (h : Loose s t) (n : Nat) (c : Completion) : Loose s (t.postCq n c) := by
  unfold State.postCq
  exact .ite (h.writeCq _ _) (h.bumpF _ _ _)

theorem Loose.event (h : Loose s t) (b c : Nat) : Loose s (t.event b c) := by
  unfold State.event
  refine .ite (.ite ?_ (.ite (h.of rfl rfl) ?_)) h
  · unfold State.postEvent
    apply Loose.postCq
    exact h.of rfl rfl
  · apply Loose.bumpF
    exact h.of rfl rfl

theorem Loose.finish (h : Loose s t) (f : Flight) (st r : Nat) (n : Option Nat) (m : Bool) : Loose s (t.finish f st r n m) := by
  unfold State.finish
  have hd : Loose s (t.dropFlight f.id) := h.of rfl rfl
  exact .ite hd (.ite (hd.event _ _) (hd.postCq _ _))

theorem Loose.pmFinish (h : Loose s t) (f : Option Nat) (st r : Nat) : Loose s (t.pmFinish f st r) := by
  unfold State.pmFinish
  split
  · exact h
  · split
    · exact h.finish _ _ _ _ _
    · exact h

theorem Loose.taskDone (h : Loose s t) (v : Task) (st r : Nat) : Loose s (t.taskDone v st r) := by
  unfold State.taskDone
  split
  · exact h
  · split
    · exact h.finish _ _ _ _ _
    · exact h

theorem Loose.freeTask (h : Loose s t) (i : Nat) : Loose s (t.freeTask i) := by
  unfold State.freeTask
  apply Loose.setTask
  exact h.of rfl rfl

theorem Loose.undispatchCluster (h : Loose s t) (c : Nat) : Loose s (t.undispatchCluster c) := by
  unfold State.undispatchCluster
  refine h.foldl _ _ (fun t a h => ?_)
  split
  · refine .ite ?_ h
    unfold State.undispatch
    refine .ite ((h.bumpF _ _ _).freeTask _ |>.taskDone _ _ _) (.ite ((h.bumpF _ _ _).freeTask _) ?_)
    unfold State.releaseHeld
    exact .ite ((h.bumpF _ _ _).setTask _ _) ((h.bumpF _ _ _).releaseKept _ _ _ _)
  · exact h

/-- `t` has the Tender's state, the fuses, Tender time and the domains of `s`. -/
structure Still (s t : State) : Prop where
  power : t.power = s.power
  domains : t.domains = s.domains
  fuses : t.fuses = s.fuses
  ticks : t.time.tendTicks = s.time.tendTicks
  running : t.time.tendRunning = s.time.tendRunning
  cycles : t.time.cycles = s.time.cycles

theorem Still.refl (s : State) : Still s s := ⟨rfl, rfl, rfl, rfl, rfl, rfl⟩

theorem Still.trans (a : Still s t) (b : Still t u) : Still s u :=
  ⟨b.power.trans a.power, b.domains.trans a.domains, b.fuses.trans a.fuses, b.ticks.trans a.ticks, b.running.trans a.running,
   b.cycles.trans a.cycles⟩

theorem Still.of (h : Still s t) (hp : u.power = t.power) (hd : u.domains = t.domains) (hf : u.fuses = t.fuses)
    (ht : u.time = t.time) : Still s u :=
  h.trans ⟨hp, hd, hf, by rw [ht], by rw [ht], by rw [ht]⟩

theorem Loose.still (h : Loose t u) : Still t u :=
  ⟨h.power, h.domains, h.fuses, show u.time.calm.tendTicks = _ by rw [h.time], show u.time.calm.tendRunning = _ by rw [h.time],
   show u.time.calm.cycles = _ by rw [h.time]⟩

theorem Still.set (h : Still s t) (a : Nat) (v : Word) : Still s (t.setRg a v) := h.of rfl rfl rfl rfl
theorem Still.put (h : Still s t) (f : RF) (v i j : Nat) : Still s (t.fset f v i j) := h.set _ _

theorem Still.ite {c : Prop} [Decidable c] (ht : Still s t) (hu : Still s u) : Still s (if c then t else u) := by
  split <;> assumption

theorem Still.foldl {α : Type} (l : List α) (f : State → α → State) (h : Still s t) (hf : ∀ t a, Still s t → Still s (f t a)) :
    Still s (l.foldl f t) := by
  induction l generalizing t with
  | nil => exact h
  | cons a l ih => exact ih (hf t a h)

theorem Still.setPort (h : Still s t) (p : Nat) (v : Port) : Still s (t.setPort p v) := h.of rfl rfl rfl rfl
theorem Still.setFlume (h : Still s t) (f : Nat) (v : Flume) : Still s (t.setFlume f v) := h.of rfl rfl rfl rfl
theorem Still.setTable (h : Still s t) (c n : Nat) (v : Memory) : Still s (t.setTable c n v) := h.of rfl rfl rfl rfl

theorem Still.emptyRam (h : Still s t) (f : Nat) : Still s (t.emptyRam f) :=
  ((((h.setFlume f _).setTable 0x40 f []).put _ _ _ _).put _ _ _ _).put _ _ _ _

theorem Still.clearLaterals (h : Still s t) (half : Nat) : Still s (t.clearLaterals half) := by
  unfold State.clearLaterals
  extract_lets s1 rest d s2
  have h1 : Still s s1 := .foldl _ _ h fun _ e ht => ((ht.setPort e.1 e.2.afterReset).put _ _ _ _).put _ _ _ _
  have h2 : Still s s2 := h1.of rfl rfl rfl rfl
  exact .foldl _ _ h2 fun _ k ht => ht.emptyRam (4 * half + k)

theorem Still.clearCistern (h : Still s t) : Still s t.clearCistern := by
  unfold State.clearCistern
  extract_lets m s1 s2
  have h1 : Still s s1 := h.of rfl rfl rfl rfl
  have h2 : Still s s2 := .foldl _ _ h1 fun _ _ ht => by
    iterate 4 apply Still.put
    exact ht
  exact (h2.put _ _ _ _).put _ _ _ _

theorem Still.clearDomain (h : Still s t) (d : Domain) : Still s (t.clearDomain d) := by
  cases d with
  | coreA => exact Still.of (h.trans ((Loose.refl t).undispatchCluster 0).still) rfl rfl rfl rfl
  | coreB => exact Still.of (h.trans ((Loose.refl t).undispatchCluster 1).still) rfl rfl rfl rfl
  | latLo => exact h.clearLaterals 0
  | latHi => exact h.clearLaterals 1
  | cistern => exact h.clearCistern
  | net => exact h.trans ⟨rfl, rfl, rfl, rfl, rfl, rfl⟩
  | host =>
    show Still s (t.resetFunction.haltHostRings)
    refine Still.foldl _ _ (h.of rfl rfl rfl rfl) (fun t a h => ?_)
    exact .ite (((h.put _ _ _ _).put _ _ _ _).put _ _ _ _) h
  | _ => exact h.of rfl rfl rfl rfl

theorem Still.calBase (h : Still s t) (u : Nat) : Still s (t.calBase u) := by
  unfold State.calBase
  refine .ite ?_ (h.of rfl rfl rfl rfl)
  apply Still.set
  exact h.of rfl rfl rfl rfl

theorem Still.clearSensors (h : Still s t) (d : Domain) : Still s (t.clearSensors d) := by
  unfold State.clearSensors
  extract_lets s1 th s2
  have h1 : Still s s1 := .foldl _ _ h fun t a h => h.set _ _
  have h2 : Still s s2 := h1.of rfl rfl rfl rfl
  exact .ite h2 (.put (.foldl _ _ h2 fun _ u ht => ht.calBase u) _ _ _ _)

theorem Still.resetDomain (h : Still s t) (d : Domain) : Still s (t.resetDomain d) := by
  unfold State.resetDomain State.dropRegs
  apply Still.clearSensors
  exact Still.of (h.clearDomain d) rfl rfl rfl rfl

/-- Domains switched off, one after the other: only `domains` of what `Still` names changes. -/
theorem powerOffs_still (s : State) (l : List Domain) :
    Still { s with domains := l.foldl (fun b d => b &&& ~~~(BitVec.ofNat 12 (2 ^ domNum d))) s.domains } (s.powerOffs l) := by
  induction l generalizing s with
  | nil => exact Still.refl _
  | cons d l ih =>
    have k := (Still.refl s).resetDomain d
    have e := ih (s.powerOff d)
    refine ⟨e.power.trans k.power, ?_, e.fuses.trans k.fuses, e.ticks.trans k.ticks, e.running.trans k.running,
      e.cycles.trans k.cycles⟩
    refine e.domains.trans ?_
    show l.foldl _ ((s.resetDomain d).domains &&& _) = _
    rw [k.domains]
    rfl

theorem off_main (b : BitVec 12) : mainDomains.foldl (fun b d => b &&& ~~~(BitVec.ofNat 12 (2 ^ domNum d))) b = b &&& 1 := by
  simp only [mainDomains, List.foldl, domNum, BitVec.and_assoc]
  congr 1

theorem on_all (b : BitVec 12) : allDomains.foldl (fun b d => b ||| BitVec.ofNat 12 (2 ^ domNum d)) b = 0xFFF := by
  simp only [allDomains, List.foldl, domNum, BitVec.or_assoc]
  exact BitVec.or_allOnes (w := 12) (x := b)

theorem foldl_emit {α : Type} (l : List α) (f : α → Emission) (s : State) :
    l.foldl (fun s i => s.emit (f i)) s = { s with out := (l.foldl (fun s i => s.emit (f i)) s).out } := by
  induction l generalizing s with
  | nil => rfl
  | cons a l ih => rw [List.foldl_cons, ih]; rfl

/-- The rails dropped. -/
theorem dropRails_spec (s : State) :
    s.dropRails.power = { s.power with enables := 0, pgs := 0 } ∧ s.dropRails.domains = s.domains &&& 1 ∧
    s.dropRails.fuses = s.fuses ∧ s.dropRails.time.tendTicks = s.time.tendTicks ∧
    s.dropRails.time.cycles = s.time.cycles ∧ s.dropRails.extest = false := by
  have h := powerOffs_still s mainDomains
  rw [off_main] at h
  unfold State.dropRails
  generalize s.powerOffs mainDomains = u at h ⊢
  dsimp only
  rw [foldl_emit]
  refine ⟨?_, h.domains, h.fuses, h.ticks, h.cycles, rfl⟩
  show ({ u.power with enables := 0, pgs := 0 } : Power) = _
  rw [h.power]

theorem powerOn_spec (s : State) (l : List Domain) :
    s.powerOn l = { s with
      domains := l.foldl (fun b d => b ||| BitVec.ofNat 12 (2 ^ domNum d)) s.domains, time := (s.powerOn l).time } := by
  unfold State.powerOn
  dsimp only
  split <;> rfl

theorem calm_pow (w t : State) (p : Power) (ht : Calm { w with power := p } t) : t.power = p ∧ t.domains = w.domains ∧ t.fuses = w.fuses ∧ t.extest = w.extest ∧
   t.time.tendTicks = w.time.tendTicks ∧ ∀ o, calmOff o → t.rg o = w.rg o :=
  ⟨ht.power, ht.domains, ht.fuses, ht.extest, show t.time.calm.tendTicks = _ by rw [ht.time], fun o h => ht.regs o h⟩
theorem w_dom (u v w : State) (e1 : Counts v w) (c1 : v = { u.startFrom 1 with regs := v.regs }) : w.domains = u.domains ∧ w.fuses = u.fuses ∧ w.extest = u.extest ∧ w.time = u.time ∧ w.power = (u.startFrom 1).power := by
  rw [e1, c1]; exact ⟨rfl, rfl, rfl, rfl, rfl⟩

theorem transitionClear_spec (s : State) : s.transitionClear = { s with regs := s.transitionClear.regs } ∧
    s.transitionClear.fget R.PM_STATE_state = 0 ∧ s.transitionClear.fget R.PM_STATE_phase = 0 ∧
    s.transitionClear.fget R.PM_STATE_pending_valid = 0 := by
  unfold State.transitionClear
  refine ⟨?_, ?_, ?_, ?_⟩
  · have h := RegsIn.refl (fun _ => True) s
    exact ((((((h.put R.PM_STATE_state 0 0 0 trivial).put R.PM_STATE_target 0 0 0 trivial).put R.PM_STATE_phase 0 0 0 trivial).put R.PM_STATE_pending_valid 0 0 0 trivial).put R.PM_STATE_pending 0 0 0 trivial).put R.PM_STATE_block 0 0 0 trivial).1
  · iterate 5 rw [State.fget_fset_field _ _ _ _ _ _ _ _ (by decide) (by decide)]
    rw [State.fget_fset_same _ _ _ _ _ (by decide), Nat.zero_mod]
  · iterate 3 rw [State.fget_fset_field _ _ _ _ _ _ _ _ (by decide) (by decide)]
    rw [State.fget_fset_same _ _ _ _ _ (by decide), Nat.zero_mod]
  · iterate 2 rw [State.fget_fset_field _ _ _ _ _ _ _ _ (by decide) (by decide)]
    rw [State.fget_fset_same _ _ _ _ _ (by decide), Nat.zero_mod]

theorem recordReset_spec (s : State) (bit : RF) (last k : Nat) (h0 : bit.off = 0x1C0008) (h1 : bit.lo = bit.hi ∧ bit.hi < 32) (h2 : 7 < bit.lo)
    (hl : last < 16) (hk : k < 6) :
   ∀ t, s.recordReset bit last (some k) = t → Counts s t ∧ t.fget R.RST_CAUSE_last = last ∧ t.fbit bit = true ∧ ∀ o, o < 0x1C0000 → t.rg o = s.rg o := by
  intro t ht
  let u := (s.fset bit 1).fset R.RST_CAUSE_last last
  have hb := u.bump_spec (R.RST_COUNT.off k)
  have ht : t = u.bump (R.RST_COUNT.off k) := ht.symm
  rw [ht]
  have ne : R.RST_CAUSE_last.off ≠ R.RST_COUNT.off k := by simp only [RF.off, R.RST_CAUSE_last, R.RST_COUNT]; omega
  have ne' : bit.off ≠ R.RST_COUNT.off k := by rw [h0]; simp only [RF.off, R.RST_COUNT]; omega
  refine ⟨?_, ?_, ?_, ?_⟩
  · exact Counts.trans (t := u) rfl hb.2.2
  · unfold State.fget; rw [hb.2.1 _ ne]
    show State.fget u R.RST_CAUSE_last = _
    rw [State.fget_fset_same _ _ _ _ _ (by decide)]
    show last % 16 = _
    omega
  · unfold State.fbit State.fget; rw [hb.2.1 _ ne']
    show State.fbit u bit = _
    rw [fbit_fset_field _ _ _ _ _ _ _ _ (by decide) ⟨h1.1.le, Or.inl (by show 3 < _; omega)⟩]
    exact fbit_fset _ bit true _ _ h1
  · intro o ho
    rw [hb.2.1 _ (by simp only [RF.off, R.RST_COUNT]; omega)]
    rw [State.rg_fset_ne _ (by simp only [RF.off, R.RST_CAUSE_last]; omega), State.rg_fset_ne _ (by rw [h0]; omega)]

/-- The Tender's state that a C reset leaves. -/
theorem cold_power (u : State) :
    ({ (u.startFrom 1).power with
        waitRail := true, stores := (u.startFrom 1).power.stores.filter (· = 2), sigFails := 0 } : Power) =
      { u.power with
        start := 1, startAt := u.time.cycles, flight := none, pendFlight := none, heldReset := none, agreed := [],
        trained := false, tries := 0, heatAt := none, stopAt := none, heatRetry := false, retry := false, waitRail := true,
        stores := u.power.stores.filter (· = 2), sigFails := 0 } := rfl

theorem cold_spec (s : State) (bit : RF) (last k : Nat) (h0 : bit.off = 0x1C0008) (h1 : bit.lo = bit.hi ∧ bit.hi < 32) (h2 : 7 < bit.lo)
    (hl : last < 16) (hk : k < 6) : Answers (.next (s.coldReset bit last k).settle) (fun t =>
      t.power = { s.power with
        enables := 0, pgs := 0, start := 1, startAt := s.now, waitRail := true, trained := false, tries := 0, retry := false,
        heatRetry := false, heatAt := none, stopAt := none, flight := none, pendFlight := none, heldReset := none, agreed := [],
        stores := s.power.stores.filter (· = 2), sigFails := 0 } ∧
      t.domains = s.domains &&& 1 ∧ t.fuses = s.fuses ∧ t.extest = false ∧ t.time.tendTicks = s.time.tendTicks ∧
      t.fget R.PM_STATE_state = 0 ∧ t.fget R.PM_STATE_phase = 0 ∧ t.fbit R.PM_STATE_pending_valid = false ∧
      t.fget R.RST_CAUSE_last = last ∧ t.fbit bit = true) := by
  unfold State.coldReset
  obtain ⟨d1, d2, d3, d4, d5, d6⟩ := dropRails_spec s
  generalize s.dropRails = u at d1 d2 d3 d4 d5 d6 ⊢
  obtain ⟨c1, c2, c3, c4⟩ := transitionClear_spec (u.startFrom 1)
  generalize (u.startFrom 1).transitionClear = v at c1 c2 c3 c4 ⊢
  generalize hw : v.recordReset bit last (some k) = w
  obtain ⟨e1, e2, e3, e4⟩ := recordReset_spec v bit last k h0 h1 h2 hl hk w hw
  clear hw
  dsimp only
  apply ans_settle
  intro t ht
  obtain ⟨t1, t2, t3, t4, t5, t6⟩ := calm_pow w t _ ht
  obtain ⟨w1, w2, w3, w4, w5⟩ := w_dom u v w e1 c1
  have fg : ∀ f : RF, calmOff f.off → t.fget f = w.fget f := by
    intro f hf; unfold State.fget; rw [t6 _ hf]
  have fv : ∀ f : RF, f.off < 0x1C0000 → w.fget f = v.fget f := by
    intro f hf; unfold State.fget; rw [e4 _ hf]
  refine ⟨?_, ?_, ?_, ?_, ?_, ?_, ?_, ?_, ?_, ?_⟩
  · rw [t1, w5]
    rw [cold_power, d1, d5]; rfl
  · rw [t2, w1, d2]
  · rw [t3, w2, d3]
  · rw [t4, w3, d6]
  · rw [t5, w4, d4]
  · rw [fg _ (by decide), fv _ (by decide), c2]
  · rw [fg _ (by decide), fv _ (by decide), c3]
  · unfold State.fbit; rw [fg _ (by decide), fv _ (by decide), c4]; rfl
  · rw [fg _ (by decide)]; exact e2
  · unfold State.fbit; rw [fg _ (by rw [h0]; decide)]; exact e3

end Sys2Proof.Machine
end

