-- ==== Sys2Proof/Laws/Sleep.lean ====
section
/-! SUPPORT. What the Tender's operations do: the sleep handshake's steps, an agreement, a refusal, an abort, the end of commit,
the exits and the stores; and what no completion does to the descriptors in flight. -/

namespace Sys2Proof.Machine

open Sys2Proof

theorem beginExit_spec (u : State) (h2 : 2 ≤ u.pmState) :
    u.beginExit.fget R.PM_STATE_target = 0 ∧ u.beginExit.pmState = u.pmState ∧ u.beginExit.fbit R.PM_STATE_rail_fault = false ∧
    (∀ o, o ≠ R.PM_STATE.off → u.beginExit.rg o = u.rg o) ∧
    (u.pmState = 2 → u.beginExit = { u with regs := u.beginExit.regs, time := u.beginExit.time, domains := 0xFFF, power := { u.power with start := 2, startAt := u.now, trained := false, tries := 0, lates := 0, agreed := [] } }) ∧
    (u.pmState = 3 → u.beginExit = { u with regs := u.beginExit.regs, out := .railEnable 0 true :: u.out, power := { u.power with
          start := 4, startAt := u.now, trained := false, tries := 0, lates := 0, agreed := [],
          waitRail := false, retry := false, heatRetry := false, heatRead := false, enables := u.power.enables ||| 1 } }) := by
  unfold State.beginExit
  have g := RegsIn.refl (fun o => o = R.PM_STATE.off) u
  have g := (g.put R.PM_STATE_target pmShow 0 0 rfl).put R.PM_STATE_rail_fault 0 0 0 rfl
  have a1 : ((u.fset R.PM_STATE_target pmShow).fset R.PM_STATE_rail_fault 0).fget R.PM_STATE_target = 0 := by
    rw [State.fget_fset_field _ _ _ _ _ _ _ _ (by decide) (by decide), State.fget_fset_same _ _ _ _ _ (by decide)]; rfl
  have a2 : ((u.fset R.PM_STATE_target pmShow).fset R.PM_STATE_rail_fault 0).fget R.PM_STATE_state = u.fget R.PM_STATE_state := by
    rw [State.fget_fset_field _ _ _ _ _ _ _ _ (by decide) (by decide), State.fget_fset_field _ _ _ _ _ _ _ _ (by decide) (by decide)]
  have a3 : ((u.fset R.PM_STATE_target pmShow).fset R.PM_STATE_rail_fault 0).fbit R.PM_STATE_rail_fault = false := 
    fbit_fset _ R.PM_STATE_rail_fault false _ _ (by decide)
  generalize (u.fset R.PM_STATE_target pmShow).fset R.PM_STATE_rail_fault 0 = w at g a1 a2 a3 ⊢
  dsimp only
  have gp : w.power = u.power := by rw [g.1]
  have gd : w.domains = u.domains := by rw [g.1]
  have gt : w.time = u.time := by rw [g.1]
  by_cases h : u.pmState = 2
  · rw [if_pos (show u.pmState = pmWatch from h)]
    have e := powerOn_spec (w.setPower { w.power with startAt := u.now, trained := false, tries := 0, lates := 0, agreed := [], start := 2 }) allDomains
    rw [on_all] at e
    generalize State.powerOn _ _ = t at e ⊢
    have er : t.regs = w.regs := by rw [e]; rfl
    have rg : ∀ o, t.rg o = w.rg o := fun o => State.rg_congr er o
    have fg : ∀ f : RF, t.fget f = w.fget f := fun f => by unfold State.fget; rw [rg]
    refine ⟨(fg _).trans a1, (fg _).trans a2, by unfold State.fbit at a3 ⊢; rw [fg]; exact a3, fun o ho => (rg o).trans (g.2 o ho), fun _ => ?_, fun h3 => by omega⟩
    rw [e, gp]
    obtain ⟨r, rfl⟩ : ∃ r, w = { u with regs := r } := ⟨_, g.1⟩
    rfl
  · rw [if_neg (show ¬u.pmState = pmWatch from h)]
    generalize ht : State.raiseFirst _ = t
    have er : t.regs = w.regs := by rw [← ht]; rfl
    have rg : ∀ o, t.rg o = w.rg o := fun o => State.rg_congr er o
    have fg : ∀ f : RF, t.fget f = w.fget f := fun f => by unfold State.fget; rw [rg]
    refine ⟨(fg _).trans a1, (fg _).trans a2, by unfold State.fbit at a3 ⊢; rw [fg]; exact a3, fun o ho => (rg o).trans (g.2 o ho), fun h3 => (h h3).elim, fun _ => ?_⟩
    rw [er, ← ht]
    clear gp gd gt a1 a2 a3 rg fg
    obtain ⟨r, rfl⟩ : ∃ r, w = { u with regs := r } := ⟨_, g.1⟩
    rfl

theorem wake_of {s : State} (u : State) (f : State → State) (h : u.asleep = true) (h5 : u.ebb = false) (h6 : u.power.stopHold = false) :
    u.wake f = (f u).wakeActs := by
  unfold State.wake
  rw [if_pos h]
  dsimp only
  rw [if_neg (by rw [h5, h6]; decide)]

theorem asleep_of {s : State} (h2 : 2 ≤ s.pmState) : s.asleep = true := by
  unfold State.asleep; rw [show decide (pmWatch ≤ s.pmState) = true from decide_eq_true h2]; rfl

section fl
variable (s : State)
theorem fl_setRg (a : Nat) (v : Word) : (s.setRg a v).rings.flight = s.rings.flight := rfl
theorem fl_fset (f : RF) (v i j : Nat) : (s.fset f v i j).rings.flight = s.rings.flight := rfl
theorem fl_report (c o d : Nat) : (s.report c o d).rings.flight = s.rings.flight := by unfold State.report; split <;> rfl
theorem fl_bump (a : Nat) : (s.bump a).rings.flight = s.rings.flight := by
  unfold State.bump; dsimp only; split
  · rfl
  · split
    · rw [fl_report, fl_setRg]
    · rw [fl_setRg]
theorem fl_sendVector (v : Nat) : (s.sendVector v).rings.flight = s.rings.flight := by rw [(sendVector_spec s v).1]
theorem fl_raise (v : Nat) : (s.raise v).rings.flight = s.rings.flight := by
  unfold State.raise; split
  · rw [fl_sendVector]; exact fl_setRg _ _ _
  · rfl
theorem fl_stopShadow : s.stopShadow.rings.flight = s.rings.flight := rfl
theorem fl_lateRelease (handle : Nat) : (s.lateRelease handle).rings.flight = s.rings.flight := by
  unfold State.lateRelease; split
  · split
    · rfl
    · unfold State.notCurrent; split
      · rw [fl_stopShadow, fl_report]; unfold State.bumpF; rw [fl_bump, fl_fset, fl_fset]
      · rfl
  · rfl
theorem fl_releaseKept (i : Nat) (v : Task) (f e : Nat) : (s.releaseKept i v f e).rings.flight = s.rings.flight := by
  unfold State.releaseKept; split
  · rw [fl_lateRelease, fl_report]; unfold State.bumpF; rw [fl_bump, fl_bump]; rfl
  · rfl
theorem fl_fireTask (i : Nat) (v : Task) : (s.fireTask i v).rings.flight = s.rings.flight := by
  unfold State.fireTask; split
  · exact fl_releaseKept _ _ _ _ _
  · unfold State.bumpF; rw [fl_bump]; rfl
  · split
    · rfl
    · unfold State.bumpF; rw [fl_bump]; rfl
theorem fl_foldl {α : Type} (l : List α) (f : State → α → State) (hf : ∀ s a, (f s a).rings.flight = s.rings.flight) :
    (l.foldl f s).rings.flight = s.rings.flight := by
  induction l generalizing s with
  | nil => rfl
  | cons a l ih => rw [List.foldl_cons, ih, hf]
theorem fl_fireSource (n : Nat) : (s.fireSource n).rings.flight = s.rings.flight := by
  unfold State.fireSource
  refine fl_foldl _ _ _ (fun t a => ?_)
  split
  · split
    · exact fl_fireTask _ _ _
    · rfl
  · rfl
theorem fl_signalCq (n : Nat) : (s.signalCq n).rings.flight = s.rings.flight := by
  unfold State.signalCq; dsimp only
  split
  · rw [fl_fireSource]; rfl
  · rw [fl_sendVector]; rfl
theorem fl_moderate (n : Nat) (q : Bool) : (s.moderate n q).rings.flight = s.rings.flight := by
  unfold State.moderate; dsimp only
  split
  · rw [fl_signalCq]; rfl
  · rfl
theorem fl_writeCq (n : Nat) (c : Completion) : (s.writeCq n c).rings.flight = s.rings.flight := by
  unfold State.writeCq; dsimp only; split
  · next e =>
    rw [fl_moderate]
    unfold State.dmaWrite at e
    split at e <;> split at e
    · rw [← Option.some.inj e]; rfl
    · cases e
    · rw [← Option.some.inj e]; rfl
    · cases e
  · unfold State.loseCompletion State.ringFault State.bumpF; rw [fl_bump]; split
    · rw [fl_raise, fl_bump, fl_fset, fl_fset, fl_fset]
    · rfl
theorem fl_postCq (n : Nat) (c : Completion) : (s.postCq n c).rings.flight = s.rings.flight := by
  unfold State.postCq; split
  · exact fl_writeCq _ _ _
  · unfold State.loseCompletion State.bumpF; rw [fl_bump]
theorem fl_event (b c : Nat) : (s.event b c).rings.flight = s.rings.flight := by
  unfold State.event; split
  · split
    · unfold State.postEvent; exact fl_postCq _ _ _
    · split
      · rfl
      · unfold State.bumpF; exact fl_bump _ _
  · rfl
end fl

theorem calm_pmFinish (s : State) (f : Option Nat) (st r : Nat) (h : ∀ g, g ∈ s.rings.flight → g.ring < 32) : Calm s (s.pmFinish f st r) := by
  unfold State.pmFinish
  split
  · exact .refl _
  · split
    · next e => exact (Calm.refl s).finish (Nat.lt_trans (h _ (List.mem_of_find?_eq_some e)) (by decide)) _ _ _ _
    · exact .refl _

/-- State parts that begin a prepare step. -/
theorem askBlock_spec (s : State) (b : Nat) : s.askBlock b = { s with regs := (s.fset R.PM_STATE_block b).regs, water := (s.askBlock b).water, net := (s.askBlock b).net } := by
  unfold State.askBlock; dsimp only
  split
  · rfl
  · split
    · rfl
    · rfl

theorem askBlock_plain (s : State) (b : Nat) (h : b ≠ 7) (h8 : b ≠ 8) : s.askBlock b = s.fset R.PM_STATE_block b := by
  unfold State.askBlock; dsimp only; rw [if_neg h, if_neg h8]
theorem askNext_some (s : State) (a n : Nat) (h : (prepareList s.pmState (s.fget R.PM_STATE_target)).find? (fun b => decide (a < b)) = some n) : s.askNext a = s.askBlock n := by
  unfold State.askNext; rw [h]
theorem askNext_none (s : State) (a : Nat) (h : (prepareList s.pmState (s.fget R.PM_STATE_target)).find? (fun b => decide (a < b)) = none) : s.askNext a = s.beginCommit := by
  unfold State.askNext; rw [h]
theorem first_block : ∀ g : Fin 4, g.val ≠ 0 → (prepareList 0 g.val).find? (fun b => decide (0 < b)) = some (if g.val = 1 then 2 else 1) := by decide
theorem ps_same (s : State) (f : RF) (v : Nat) (h : f.lo ≤ f.hi ∧ f.hi < 32) : (s.fset f v).fget f = v % 2 ^ (f.hi + 1 - f.lo) := State.fget_fset_same _ _ _ _ _ h

abbrev logOff (o : Nat) : Prop := 0x1600A0 ≤ o ∧ o < 0x1600E0
theorem log_spec (s : State) (b g k : Nat) (hb : b < 256) (hg : g < 4) (hk : k < 4) : RegsIn logOff s (s.logRefusal b g k) ∧
    (s.logRefusal b g k).fget R.PM_REFUSE_LOG_0_block = b ∧ (s.logRefusal b g k).fget R.PM_REFUSE_LOG_0_target = g ∧ (s.logRefusal b g k).fget R.PM_REFUSE_LOG_0_kind = k := by
  unfold State.logRefusal
  dsimp only
  have hf : RegsIn logOff s (([7, 6, 5, 4, 3, 2, 1]).foldl (fun (a : State) i =>
    (a.setRg (R.PM_REFUSE_LOG_0.off i) (a.rg (R.PM_REFUSE_LOG_0.off (i - 1)))).setRg (R.PM_REFUSE_LOG_1.off i)
      (a.rg (R.PM_REFUSE_LOG_1.off (i - 1)))) s) := by
    refine RegsIn.foldl _ _ _ (RegsIn.refl _ _) (fun t ht x hx => ?_)
    have hx : x < 8 := by
      have := hx; simp only [List.mem_cons, List.not_mem_nil, or_false] at this; omega
    refine (ht.set _ _ ?_).set _ _ ?_
    · simp only [logOff, RF.off, R.PM_REFUSE_LOG_0]; omega
    · simp only [logOff, RF.off, R.PM_REFUSE_LOG_1]; omega
  generalize List.foldl _ s _ = u at hf ⊢
  refine ⟨?_, ?_, ?_, ?_⟩
  · exact ((((hf.put R.PM_REFUSE_LOG_0_block _ 0 0 (by decide)).put R.PM_REFUSE_LOG_0_target _ 0 0 (by decide)).put R.PM_REFUSE_LOG_0_kind _ 0 0 (by decide)).put R.PM_REFUSE_LOG_0_ticks _ 0 0 (by decide)).put R.PM_REFUSE_LOG_1 _ 0 0 (by decide)
  · unfold State.fget; rw [State.rg_fset_ne _ (by decide)]
    show State.fget _ R.PM_REFUSE_LOG_0_block = b
    rw [State.fget_fset_field _ _ _ _ _ _ _ _ (by decide) (by decide), State.fget_fset_field _ _ _ _ _ _ _ _ (by decide) (by decide), State.fget_fset_field _ _ _ _ _ _ _ _ (by decide) (by decide), ps_same _ _ _ (by decide)]
    exact Nat.mod_eq_of_lt hb
  · unfold State.fget; rw [State.rg_fset_ne _ (by decide)]
    show State.fget _ R.PM_REFUSE_LOG_0_target = g
    rw [State.fget_fset_field _ _ _ _ _ _ _ _ (by decide) (by decide), State.fget_fset_field _ _ _ _ _ _ _ _ (by decide) (by decide), ps_same _ _ _ (by decide)]
    exact Nat.mod_eq_of_lt hg
  · unfold State.fget; rw [State.rg_fset_ne _ (by decide)]
    show State.fget _ R.PM_REFUSE_LOG_0_kind = k
    rw [State.fget_fset_field _ _ _ _ _ _ _ _ (by decide) (by decide), ps_same _ _ _ (by decide)]
    exact Nat.mod_eq_of_lt hk

theorem pmEvent_calm (s : State) (c : Nat) : Calm s (s.pmEvent c) := ((Calm.refl s).event _ _).raise _
theorem pmEvent_fl (s : State) (c : Nat) : (s.pmEvent c).rings.flight = s.rings.flight := by
  unfold State.pmEvent; rw [fl_raise, fl_event]

theorem rasResume_spec (s : State) : s.rasResume = { s with ras := s.rasResume.ras } := rfl
theorem restart_regs (s : State) : s.restart.rasResume.regs = s.regs ∧
    s.restart.rasResume.power = { s.power with agreed := [], flight := none } ∧ s.restart.rasResume.rings = s.rings := by
  rw [rasResume_spec]; exact ⟨rfl, rfl, rfl⟩

structure Kept (s : State) (block kind : Nat) (u : State) : Prop where
  ps : u.pmPhase = 0 ∧ u.pmState = s.pmState ∧ u.fget R.PM_STATE_target = s.pmState ∧ u.fget R.PM_STATE_block = 0 ∧ u.fget R.PM_STATE_pending_valid = s.fget R.PM_STATE_pending_valid
  power : u.power = { s.power with agreed := [], flight := none }
  log : Counted R.PM_ABORT_COUNT.off s u ∧ u.fget R.PM_REFUSE_LOG_0_block = block ∧ u.fget R.PM_REFUSE_LOG_0_target = s.fget R.PM_STATE_target ∧
      u.fget R.PM_REFUSE_LOG_0_kind = kind
  rings : u.rings.flight = s.rings.flight

theorem fg_lt2 (s : State) (f : RF) (h : f.hi + 1 - f.lo ≤ 2) : s.fget f < 4 := by
  unfold State.fget getBits; exact Nat.lt_of_lt_of_le (Nat.mod_lt _ (Nat.two_pow_pos _)) (Nat.pow_le_pow_right (n := 2) (by decide) h)

theorem refuse_spec (s : State) (block kind status : Nat) (hf : s.power.flight = none) (hc : s.mayCount R.PM_ABORT_COUNT.off)
    (hb : block < 256) (hk : kind < 4) : ∃ u, s.endPrepare block kind status = u.pmEvent 1 ∧ Kept s block kind u := by
  unfold State.endPrepare
  dsimp only
  rw [hf]
  obtain ⟨l1, l2, l3, l4⟩ := log_spec s block (s.fget R.PM_STATE_target) kind hb (fg_lt2 _ _ (by decide)) hk
  generalize s.logRefusal block (s.fget R.PM_STATE_target) kind = l at l1 l2 l3 l4 ⊢
  have hcl : l.rg R.PM_ABORT_COUNT.off = s.rg R.PM_ABORT_COUNT.off := l1.2 _ (by decide)
  have hc' : l.mayCount R.PM_ABORT_COUNT.off := by unfold State.mayCount; rw [hcl]; exact hc
  rw [State.bumpF_may (f := R.PM_ABORT_COUNT) (i := 0) (j := 0) hc']
  have hps : l.rg R.PM_STATE.off = s.rg R.PM_STATE.off := l1.2 _ (by decide)
  show ∃ u, State.pmEvent (State.rasResume (State.restart (((State.fset (l.setRg R.PM_ABORT_COUNT.off _) R.PM_STATE_phase 0).fset R.PM_STATE_block 0).fset R.PM_STATE_target _))) 1 = _ ∧ _
  refine ⟨_, rfl, ?_⟩
  have e1 : ∀ o, o ≠ R.PM_STATE.off → o ≠ R.PM_ABORT_COUNT.off → ((((l.setRg R.PM_ABORT_COUNT.off (BitVec.ofNat 32 ((l.rg R.PM_ABORT_COUNT.off).toNat + 1))).fset R.PM_STATE_phase 0).fset R.PM_STATE_block 0).fset R.PM_STATE_target s.pmState).rg o = l.rg o := by
    intro o h1 h2
    rw [State.rg_fset_ne _ (by exact h1), State.rg_fset_ne _ (by exact h1), State.rg_fset_ne _ (by exact h1), l.rg_setRg_ne _ h2]
  have e2 : ((((l.setRg R.PM_ABORT_COUNT.off (BitVec.ofNat 32 ((l.rg R.PM_ABORT_COUNT.off).toNat + 1))).fset R.PM_STATE_phase 0).fset R.PM_STATE_block 0).fset R.PM_STATE_target s.pmState).rg R.PM_ABORT_COUNT.off = BitVec.ofNat 32 ((l.rg R.PM_ABORT_COUNT.off).toNat + 1) := by
    rw [State.rg_fset_ne _ (by decide), State.rg_fset_ne _ (by decide), State.rg_fset_ne _ (by decide), l.rg_setRg_same]
  have hl : (l.setRg R.PM_ABORT_COUNT.off (BitVec.ofNat 32 ((l.rg R.PM_ABORT_COUNT.off).toNat + 1))).rg R.PM_STATE.off = s.rg R.PM_STATE.off := by
    rw [l.rg_setRg_ne _ (by decide), hps]
  have hp : l.power = s.power := by rw [l1.1]
  have hr : l.rings = s.rings := by rw [l1.1]
  have e3 : ((((l.setRg R.PM_ABORT_COUNT.off (BitVec.ofNat 32 ((l.rg R.PM_ABORT_COUNT.off).toNat + 1))).fset R.PM_STATE_phase 0).fset R.PM_STATE_block 0).fset R.PM_STATE_target s.pmState).power = s.power := by
    rw [State.fset_power, State.fset_power, State.fset_power, State.setRg_power]; exact hp
  have e4 : ((((l.setRg R.PM_ABORT_COUNT.off (BitVec.ofNat 32 ((l.rg R.PM_ABORT_COUNT.off).toNat + 1))).fset R.PM_STATE_phase 0).fset R.PM_STATE_block 0).fset R.PM_STATE_target s.pmState).rings = s.rings := by
    rw [State.fset_rings, State.fset_rings, State.fset_rings, State.setRg_rings]; exact hr
  generalize l.setRg R.PM_ABORT_COUNT.off (BitVec.ofNat 32 ((l.rg R.PM_ABORT_COUNT.off).toNat + 1)) = m at *
  have f1 : (((m.fset R.PM_STATE_phase 0).fset R.PM_STATE_block 0).fset R.PM_STATE_target s.pmState).fget R.PM_STATE_phase = 0 := by
    rw [State.fget_fset_field _ _ _ _ _ _ _ _ (by decide) (by decide), State.fget_fset_field _ _ _ _ _ _ _ _ (by decide) (by decide), ps_same _ _ _ (by decide)]; rfl
  have f2 : (((m.fset R.PM_STATE_phase 0).fset R.PM_STATE_block 0).fset R.PM_STATE_target s.pmState).fget R.PM_STATE_block = 0 := by
    rw [State.fget_fset_field _ _ _ _ _ _ _ _ (by decide) (by decide), ps_same _ _ _ (by decide)]; rfl
  have f3 : (((m.fset R.PM_STATE_phase 0).fset R.PM_STATE_block 0).fset R.PM_STATE_target s.pmState).fget R.PM_STATE_target = s.pmState := by
    rw [ps_same _ _ _ (by decide)]; exact Nat.mod_eq_of_lt (fg_lt2 _ _ (by decide))
  have f4 : (((m.fset R.PM_STATE_phase 0).fset R.PM_STATE_block 0).fset R.PM_STATE_target s.pmState).fget R.PM_STATE_state = s.pmState := by
    rw [State.fget_fset_field _ _ _ _ _ _ _ _ (by decide) (by decide), State.fget_fset_field _ _ _ _ _ _ _ _ (by decide) (by decide), State.fget_fset_field _ _ _ _ _ _ _ _ (by decide) (by decide)]
    exact congrArg (fun w => getBits w 31 30) hl
  have f5 : (((m.fset R.PM_STATE_phase 0).fset R.PM_STATE_block 0).fset R.PM_STATE_target s.pmState).fget R.PM_STATE_pending_valid = s.fget R.PM_STATE_pending_valid := by
    rw [State.fget_fset_field _ _ _ _ _ _ _ _ (by decide) (by decide), State.fget_fset_field _ _ _ _ _ _ _ _ (by decide) (by decide), State.fget_fset_field _ _ _ _ _ _ _ _ (by decide) (by decide)]
    exact congrArg (fun w => getBits w 25 25) hl
  generalize (((m.fset R.PM_STATE_phase 0).fset R.PM_STATE_block 0).fset R.PM_STATE_target s.pmState) = u at *
  obtain ⟨r1, r2, r3⟩ := restart_regs u
  generalize u.restart.rasResume = t at r1 r2 r3 ⊢
  have rg : ∀ o, t.rg o = u.rg o := fun o => State.rg_congr r1 o
  have fg : ∀ f : RF, t.fget f = u.fget f := fun f => by unfold State.fget; rw [rg]
  have fl : ∀ f : RF, f.off ≠ R.PM_STATE.off → f.off ≠ R.PM_ABORT_COUNT.off → t.fget f = l.fget f := fun f h1 h2 => by
    unfold State.fget; rw [rg, e1 _ h1 h2]
  refine ⟨⟨(fg _).trans f1, (fg _).trans f4, (fg _).trans f3, (fg _).trans f2, (fg _).trans f5⟩, by rw [r2, e3], ⟨?_, ?_, ?_, ?_⟩, by rw [r3, e4]⟩
  · exact counted_set hc (by rw [rg, e2, hcl])
  · rw [fl _ (by decide) (by decide), l2]
  · rw [fl _ (by decide) (by decide), l3]
  · rw [fl _ (by decide) (by decide), l4]

theorem setPower_eq (s : State) (p : Power) : s.setPower p = { s with power := p } := rfl
theorem start_spec (u : State) (goal : Nat) (f : Option Nat) (h : u.pmState = 0) (hg : goal ≠ 0) (hg4 : goal < 4) :
   u.pmStart goal f = { u with regs := (u.pmStart goal f).regs, power := { u.power with flight := f, agreed := [] } } ∧ 
   (u.pmStart goal f).pmPhase = 1 ∧ (u.pmStart goal f).fget R.PM_STATE_target = goal ∧ (u.pmStart goal f).fget R.PM_STATE_block = (if goal = 1 then 2 else 1) ∧
   (u.pmStart goal f).pmState = 0 ∧ ∀ o, o ≠ R.PM_STATE.off → (u.pmStart goal f).rg o = u.rg o := by
  unfold State.pmStart
  dsimp only
  rw [h, if_neg hg, if_neg (by rw [show pmShow = 0 from rfl]; exact fun hc => hg hc.1), if_neg (by rw [show pmShow = 0 from rfl]; exact hg), if_neg (by rintro (h | ⟨h, _⟩) <;> cases h)]
  rw [setPower_eq]
  generalize hw : ({ u with power := { u.power with flight := f, agreed := [] } } : State) = w
  have wr : ∀ o, w.rg o = u.rg o := fun o => State.rg_congr (by rw [← hw]) o
  have g := RegsIn.refl (fun o => o = R.PM_STATE.off) w
  have g := (g.put R.PM_STATE_phase 1 0 0 rfl).put R.PM_STATE_target goal 0 0 rfl
  have a1 : ((w.fset R.PM_STATE_phase 1).fset R.PM_STATE_target goal).fget R.PM_STATE_phase = 1 := by
    rw [State.fget_fset_field _ _ _ _ _ _ _ _ (by decide) (by decide), ps_same _ _ _ (by decide)]; rfl
  have a2 : ((w.fset R.PM_STATE_phase 1).fset R.PM_STATE_target goal).fget R.PM_STATE_target = goal := by
    rw [ps_same _ _ _ (by decide)]; exact Nat.mod_eq_of_lt hg4
  have a3 : ((w.fset R.PM_STATE_phase 1).fset R.PM_STATE_target goal).fget R.PM_STATE_state = 0 := by
    rw [State.fget_fset_field _ _ _ _ _ _ _ _ (by decide) (by decide), State.fget_fset_field _ _ _ _ _ _ _ _ (by decide) (by decide)]
    exact (congrArg (fun w => getBits w 31 30) (wr _)).trans h
  generalize (w.fset R.PM_STATE_phase 1).fset R.PM_STATE_target goal = x at g a1 a2 a3 ⊢
  have e : x.askNext 0 = x.fset R.PM_STATE_block (if goal = 1 then 2 else 1) := by
    have k : (prepareList x.pmState (x.fget R.PM_STATE_target)).find? (fun b => decide (0 < b)) = some (if goal = 1 then 2 else 1) := by
      rw [a2, show x.pmState = 0 from a3]
      exact first_block ⟨goal, hg4⟩ hg
    exact (askNext_some _ _ _ k).trans (askBlock_plain _ _ (by split <;> decide) (by split <;> decide))
  rw [e]
  have g2 := g.put R.PM_STATE_block (if goal = 1 then 2 else 1) 0 0 rfl
  refine ⟨?_, ?_, ?_, ?_, ?_, ?_⟩
  · rw [g2.1, ← hw]
  · exact (State.fget_fset_field _ _ _ _ _ _ _ _ (by decide) (by decide)).trans a1
  · exact (State.fget_fset_field _ _ _ _ _ _ _ _ (by decide) (by decide)).trans a2
  · rw [ps_same _ _ _ (by decide)]; split <;> rfl
  · exact (State.fget_fset_field _ _ _ _ _ _ _ _ (by decide) (by decide)).trans a3
  · intro o ho; rw [g2.2 o ho, wr]

theorem pend_spec (u : State) (goal : Nat) (f : Option Nat) (h : u.power.pendFlight = none) (hg4 : goal < 4) :
   u.setPending goal f = { u with regs := (u.setPending goal f).regs, power := { u.power with pendFlight := f } } ∧ 
   (u.setPending goal f).fbit R.PM_STATE_pending_valid = true ∧ (u.setPending goal f).fget R.PM_STATE_pending = goal ∧ ∀ o, o ≠ R.PM_STATE.off → (u.setPending goal f).rg o = u.rg o := by
  have e : u.setPending goal f = (({ u with power := { u.power with pendFlight := f } } : State).fset R.PM_STATE_pending_valid 1).fset R.PM_STATE_pending goal := by
    unfold State.setPending; rw [h]; rfl
  rw [e]
  generalize hw : ({ u with power := { u.power with pendFlight := f } } : State) = w
  have wr : ∀ o, w.rg o = u.rg o := fun o => State.rg_congr (by rw [← hw]) o
  have g := RegsIn.refl (fun o => o = R.PM_STATE.off) w
  have g := (g.put R.PM_STATE_pending_valid 1 0 0 rfl).put R.PM_STATE_pending goal 0 0 rfl
  refine ⟨?_, ?_, ?_, ?_⟩
  · rw [g.1, ← hw]
  · rw [fbit_fset_field _ _ _ _ _ _ _ _ (by decide) (by decide)]; exact fbit_fset _ R.PM_STATE_pending_valid true _ _ (by decide)
  · rw [ps_same _ _ _ (by decide)]; exact Nat.mod_eq_of_lt hg4
  · intro o ho; rw [g.2 o ho, wr]

theorem mget_filter {β : Type} (d : Nat → β) (m : List (Nat × β)) (p : Nat → Bool) (k : Nat) (h : p k = true) : mget d (m.filter (fun e => p e.1)) k = mget d m k := by
  induction m with
  | nil => rfl
  | cons e m ih =>
    obtain ⟨a, b⟩ := e
    rw [List.filter_cons]
    split
    · show (if a = k then b else mget d (m.filter (fun e => p e.1)) k) = if a = k then b else mget d m k
      rw [ih]
    · next hp =>
      have : a ≠ k := fun hk => hp (hk ▸ h)
      show _ = if a = k then b else mget d m k
      rw [ih, if_neg this]

theorem regDomain_ps : regDomain R.PM_STATE.off = some .tend := by rfl
def noDisp (s : State) : Prop := ∀ i v, s.task i = some v → v.st ≠ .dispatched
theorem undisp_none (s : State) (c : Nat) (h : noDisp s) : s.undispatchCluster c = s := by
  unfold State.undispatchCluster
  have : ∀ (l : List (Nat × Option Task)), l.foldl (fun s e =>
    match s.task e.1 with
    | some t => if t.st = .dispatched ∧ clusterOf t.core = c then s.undispatch e.1 t else s
    | none => s) s = s := by
    intro l
    induction l with
    | nil => rfl
    | cons e l ih =>
      rw [List.foldl_cons]
      have : (match s.task e.1 with
        | some t => if t.st = .dispatched ∧ clusterOf t.core = c then s.undispatch e.1 t else s
        | none => s) = s := by
        split
        · next t ht => rw [if_neg (fun hc => h _ _ ht hc.1)]
        · rfl
      rw [this, ih]
  exact this _

theorem halt_ps (s : State) : s.haltHostRings.rg R.PM_STATE.off = s.rg R.PM_STATE.off ∧ s.haltHostRings.ditch = s.ditch := by
  unfold State.haltHostRings
  have : ∀ (l : List Nat) (t : State), (∀ n ∈ l, n < 32) → (l.foldl (fun s n => if s.ringLive n && s.ringPlace n = 0 then s.ringHalt n else s) t).rg R.PM_STATE.off = t.rg R.PM_STATE.off ∧ (l.foldl (fun s n => if s.ringLive n && s.ringPlace n = 0 then s.ringHalt n else s) t).ditch = t.ditch := by
    intro l
    induction l with
    | nil => exact fun _ _ => ⟨rfl, rfl⟩
    | cons n l ih =>
      intro t h
      rw [List.foldl_cons]
      obtain ⟨i1, i2⟩ := ih (if t.ringLive n && t.ringPlace n = 0 then t.ringHalt n else t) (fun m hm => h m (List.mem_cons_of_mem _ hm))
      have hn := h n (List.mem_cons_self ..)
      rw [i1, i2]
      split
      · unfold State.ringHalt
        have e1 : R.PM_STATE.off ≠ R.HOST_RING_STATUS_state.off n := by simp only [RF.off, R.PM_STATE, R.HOST_RING_STATUS_state]; omega
        have e2 : R.PM_STATE.off ≠ R.HOST_RING_STATUS_error.off n := e1
        have e3 : R.PM_STATE.off ≠ R.HOST_RING_CFG_enable.off n := by simp only [RF.off, R.PM_STATE, R.HOST_RING_CFG_enable]; omega
        rw [State.rg_fset_ne _ e3, State.rg_fset_ne _ e2, State.rg_fset_ne _ e1, State.fset_ditch, State.fset_ditch, State.fset_ditch]
        exact ⟨rfl, rfl⟩
      · exact ⟨rfl, rfl⟩
  exact this _ _ (fun n h => List.mem_range.mp h)

theorem noDisp_of {s t : State} (h : noDisp s) (e : t.ditch = s.ditch) : noDisp t := fun i v hv => h i v ((State.task_congr (by rw [e]) i).symm.trans hv)
theorem emptyRam_ditch (s : State) (f : Nat) : (s.emptyRam f).ditch = s.ditch := by
  unfold State.emptyRam
  generalize hw : (s.setFlume _ _).setTable _ _ _ = w
  unfold State.flumeStatus
  dsimp only
  rw [State.fset_ditch, State.fset_ditch, State.fset_ditch, ← hw]
  rfl

theorem laterals_ps (s : State) (half : Nat) (h : noDisp s) :
    (s.clearLaterals half).rg R.PM_STATE.off = s.rg R.PM_STATE.off ∧ noDisp (s.clearLaterals half) := by
  have hp : ∀ (l : List (Nat × Port)) (t : State), noDisp t →
      let u := l.foldl (fun s e => ((s.setPort e.1 e.2.afterReset).fset R.PT_STATUS_mode (peMode e.2.afterReset.ent) e.1).fset
        R.FUR_PORT_STATUS_enum_busy 0 e.1) t
      u.rg R.PM_STATE.off = t.rg R.PM_STATE.off ∧ noDisp u := by
    intro l
    induction l with
    | nil => exact fun t h => ⟨rfl, h⟩
    | cons e l ih =>
      intro t h
      obtain ⟨i1, i2⟩ := ih (((t.setPort e.1 e.2.afterReset).fset R.PT_STATUS_mode (peMode e.2.afterReset.ent) e.1).fset
        R.FUR_PORT_STATUS_enum_busy 0 e.1) (noDisp_of h ((State.fset_ditch ..).trans ((State.fset_ditch ..).trans rfl)))
      refine ⟨i1.trans ?_, i2⟩
      rw [State.rg_fset_ne _ (by simp only [RF.off, R.PM_STATE, R.FUR_PORT_STATUS_enum_busy]; omega),
        State.rg_fset_ne _ (by simp only [RF.off, R.PM_STATE, R.PT_STATUS_mode]; omega)]
      rfl
  have hf : ∀ (l : List Nat) (t : State), noDisp t →
      let u := l.foldl (fun s k => s.emptyRam (4 * half + k)) t
      u.rg R.PM_STATE.off = t.rg R.PM_STATE.off ∧ noDisp u := by
    intro l
    induction l with
    | nil => exact fun t h => ⟨rfl, h⟩
    | cons k l ih =>
      intro t h
      obtain ⟨i1, i2⟩ := ih (t.emptyRam (4 * half + k)) (noDisp_of h (emptyRam_ditch _ _))
      refine ⟨i1.trans ?_, i2⟩
      unfold State.emptyRam
      generalize hw : (t.setFlume _ _).setTable _ _ _ = w
      have hr : w.rg R.PM_STATE.off = t.rg R.PM_STATE.off := State.rg_congr (by rw [← hw]; rfl) _
      rw [← hr]
      unfold State.flumeStatus
      have e1 : R.PM_STATE.off ≠ R.FL_STATUS_serving.off (4 * half + k) := by
        simp only [RF.off, R.PM_STATE, R.FL_STATUS_serving]; omega
      have e2 : R.PM_STATE.off ≠ R.FL_STATUS_ucode_loaded.off (4 * half + k) := e1
      have e3 : R.PM_STATE.off ≠ R.FL_STATUS_slices_used.off (4 * half + k) := e1
      dsimp only
      rw [State.rg_fset_ne _ e3, State.rg_fset_ne _ e2, State.rg_fset_ne _ e1]
  unfold State.clearLaterals
  extract_lets s1 rest d s2
  obtain ⟨a1, a2⟩ := hp (s.die.ports.filter (fun e => decide (128 * half ≤ e.1 ∧ e.1 < 128 * half + 128))) s h
  have c2 : noDisp s2 := a2
  obtain ⟨b1, b2⟩ := hf [0, 1, 2, 3] s2 c2
  exact ⟨b1.trans a1, b2⟩

theorem cistern_ps (s : State) : s.clearCistern.rg R.PM_STATE.off = s.rg R.PM_STATE.off ∧ s.clearCistern.ditch = s.ditch := by
  unfold State.clearCistern
  extract_lets m s1 s2
  have h2 : s2.rg R.PM_STATE.off = s.rg R.PM_STATE.off ∧ s2.ditch = s.ditch := by
    have key : ∀ (l : List Nat) (t : State), (∀ r ∈ l, r < 2) →
        let u := l.foldl (fun s r => (((s.fset R.RAS_OUT_STATUS_hpd 0 r).fset R.RAS_OUT_STATUS_trained 0 r).fset
          R.RAS_OUT_STATUS_blanking 0 r).fset R.RAS_OUT_STATUS_in_service 0 r) t
        u.rg R.PM_STATE.off = t.rg R.PM_STATE.off ∧ u.ditch = t.ditch := by
      intro l
      induction l with
      | nil => exact fun t _ => ⟨rfl, rfl⟩
      | cons r l ih =>
        intro t hl
        have hr : r < 2 := hl r (List.mem_cons_self ..)
        obtain ⟨i1, i2⟩ := ih ((((t.fset R.RAS_OUT_STATUS_hpd 0 r).fset R.RAS_OUT_STATUS_trained 0 r).fset
          R.RAS_OUT_STATUS_blanking 0 r).fset R.RAS_OUT_STATUS_in_service 0 r) (fun m hm => hl m (List.mem_cons_of_mem _ hm))
        refine ⟨i1.trans ?_, i2.trans ?_⟩
        · have e : R.PM_STATE.off ≠ R.RAS_OUT_STATUS_hpd.off r := by
            show (0x160004 : Nat) + 0 * 0 + 0 * 0 ≠ R.RAS_OUT_STATUS_hpd.base + R.RAS_OUT_STATUS_hpd.s1 * r + R.RAS_OUT_STATUS_hpd.s2 * 0
            simp only [R.RAS_OUT_STATUS_hpd]; omega
          have e1 : R.PM_STATE.off ≠ R.RAS_OUT_STATUS_trained.off r := e
          have e2 : R.PM_STATE.off ≠ R.RAS_OUT_STATUS_blanking.off r := e
          have e3 : R.PM_STATE.off ≠ R.RAS_OUT_STATUS_in_service.off r := e
          rw [State.rg_fset_ne _ e3, State.rg_fset_ne _ e2, State.rg_fset_ne _ e1, State.rg_fset_ne _ e]
        · rw [State.fset_ditch, State.fset_ditch, State.fset_ditch, State.fset_ditch]
    exact key (List.range 2) s1 (fun n h => List.mem_range.mp h)
  refine ⟨?_, ?_⟩
  · rw [State.rg_fset_ne _ (by decide), State.rg_fset_ne _ (by decide)]; exact h2.1
  · rw [State.fset_ditch, State.fset_ditch]; exact h2.2

theorem clear_ps (s : State) (d : Domain) (h : noDisp s) : (s.clearDomain d).rg R.PM_STATE.off = s.rg R.PM_STATE.off ∧ noDisp (s.clearDomain d) := by
  cases d
  case sys => exact ⟨rfl, fun i v hv => by cases hv⟩
  case coreA => unfold State.clearDomain; dsimp only; rw [undisp_none _ _ h]; exact ⟨rfl, h⟩
  case coreB => unfold State.clearDomain; dsimp only; rw [undisp_none _ _ h]; exact ⟨rfl, h⟩
  case host =>
    show (s.resetFunction.haltHostRings).rg _ = _ ∧ noDisp (s.resetFunction.haltHostRings)
    obtain ⟨h1, h2⟩ := halt_ps s.resetFunction
    exact ⟨h1, fun i v hv => h i v ((State.task_congr (by rw [h2]; rfl) i).symm.trans hv)⟩
  case cistern => exact ⟨(cistern_ps s).1, noDisp_of h (cistern_ps s).2⟩
  case pix => exact ⟨State.rg_fset_ne _ (by decide), noDisp_of h (State.fset_ditch s R.PF_HISTORY_USED_records 0 0 0)⟩
  case latLo => exact laterals_ps s 0 h
  case latHi => exact laterals_ps s 1 h
  all_goals exact ⟨rfl, h⟩

theorem rg_def (s : State) (o : Nat) : s.rg o = mget regReset s.regs o := rfl
theorem drop_ps (s : State) (d : Domain) (hd : d ≠ .tend) : (s.dropRegs d).rg R.PM_STATE.off = s.rg R.PM_STATE.off := by
  unfold State.dropRegs
  rw [rg_def, rg_def]
  exact mget_filter _ _ (fun o => decide (regDomain o ≠ some d)) _ (by rw [regDomain_ps]; exact decide_eq_true (fun h => hd (Option.some.inj h).symm))

theorem calBase_ps (s : State) (u : Nat) : (s.calBase u).rg R.PM_STATE.off = s.rg R.PM_STATE.off ∧ (s.calBase u).ditch = s.ditch := by
  unfold State.calBase; dsimp only
  split
  · refine ⟨(State.rg_setRg_ne _ _ ?_).trans rfl, rfl⟩
    simp only [RF.off, R.PM_STATE, R.CAL_PORT_STATUS]; omega
  · exact ⟨rfl, rfl⟩
theorem fold_ps {α : Type} (l : List α) (f : State → α → State) (s : State)
   (hf : ∀ s, ∀ a ∈ l, (f s a).rg R.PM_STATE.off = s.rg R.PM_STATE.off ∧ (f s a).ditch = s.ditch) :
   (l.foldl f s).rg R.PM_STATE.off = s.rg R.PM_STATE.off ∧ (l.foldl f s).ditch = s.ditch := by
  induction l generalizing s with
  | nil => exact ⟨rfl, rfl⟩
  | cons a l ih =>
    rw [List.foldl_cons]
    obtain ⟨i1, i2⟩ := ih (f s a) (fun s b hb => hf s b (List.mem_cons_of_mem _ hb))
    obtain ⟨k1, k2⟩ := hf s a (List.mem_cons_self ..)
    exact ⟨i1.trans k1, i2.trans k2⟩
theorem sens_ps (s : State) (d : Domain) : (s.clearSensors d).rg R.PM_STATE.off = s.rg R.PM_STATE.off ∧ (s.clearSensors d).ditch = s.ditch := by
  unfold State.clearSensors
  extract_lets s1 th s2
  obtain ⟨j1, j2⟩ := fold_ps (domSensors d) (fun s k => s.setRg (R.TH_SENSOR.off k) (regReset (R.TH_SENSOR.off k))) s (fun s a _ => by
    refine ⟨State.rg_setRg_ne _ _ ?_, State.setRg_ditch ..⟩
    simp only [RF.off, R.PM_STATE, R.TH_SENSOR]; omega)
  have h2 : s2.rg R.PM_STATE.off = s.rg R.PM_STATE.off ∧ s2.ditch = s.ditch := ⟨j1, j2⟩
  clear_value s2
  obtain ⟨i1, i2⟩ := fold_ps (domUnits d) (fun s u => s.calBase u) s2 (fun s a _ => calBase_ps s a)
  split
  · exact h2
  · refine ⟨(State.rg_fset_ne _ (by decide)).trans (i1.trans h2.1), (State.fset_ditch ..).trans (i2.trans h2.2)⟩

theorem resetDomain_ps (s : State) (d : Domain) (hd : d ≠ .tend) (h : noDisp s) : (s.resetDomain d).rg R.PM_STATE.off = s.rg R.PM_STATE.off ∧ noDisp (s.resetDomain d) := by
  unfold State.resetDomain
  obtain ⟨a1, a2⟩ := clear_ps s d h
  obtain ⟨b1, b2⟩ := sens_ps ((s.clearDomain d).dropRegs d) d
  exact ⟨(b1.trans (drop_ps _ _ hd)).trans a1, noDisp_of a2 b2⟩

theorem powerOffs_ps (s : State) (l : List Domain) (hl : ∀ d ∈ l, d ≠ .tend) (h : noDisp s) : (s.powerOffs l).rg R.PM_STATE.off = s.rg R.PM_STATE.off := by
  induction l generalizing s with
  | nil => rfl
  | cons d l ih =>
    obtain ⟨a1, a2⟩ := resetDomain_ps s d (hl d (List.mem_cons_self ..)) h
    show ((s.powerOff d).powerOffs l).rg _ = _
    rw [ih (s.powerOff d) (fun d hd => hl d (List.mem_cons_of_mem _ hd)) a2]
    exact a1

theorem pmreq_row : findReg R.PM_REQUEST.off = some (((findReg R.PM_REQUEST.off).get rfl).1, 0, 0) := rfl
theorem pmreq_goal (v : Word) : getBits (putBits v 31 31 0) 29 28 = v.toNat / 2 ^ 28 % 4 := by
  rw [getBits_putBits_below _ _ _ _ _ _ (by decide) (by decide) (by decide) (by decide)]; rfl
theorem ask_start (s : State) (goal : Nat) (f : Option Nat) (h1 : s.power.stopAt = none) (h2 : s.pmPhase = 0) (h3 : s.power.start = 0)
    (h4 : s.power.stopHold = false) : s.pmAsk goal f = s.pmStart goal f := by
  unfold State.pmAsk State.pmMoving
  rw [h1, h2, h3, h4, if_neg (by decide), if_neg (by simp), if_neg (by decide)]
theorem ask_pend (s : State) (goal : Nat) (f : Option Nat) (h1 : s.power.stopAt = none) (h2 : s.pmPhase ≠ 0 ∨ s.power.start ≠ 0) : s.pmAsk goal f = s.setPending goal f := by
  unfold State.pmAsk
  have hm : s.pmMoving = true := by unfold State.pmMoving; simpa using h2
  rw [h1, hm, if_neg (by decide), if_neg (by simp), if_pos rfl]

theorem clearPending_spec (s : State) : s.clearPending = { s with regs := s.clearPending.regs, power := { s.power with pendFlight := none } } ∧
    s.clearPending.fget R.PM_STATE_pending_valid = 0 ∧ (∀ f : RF, f.lo ≤ f.hi → f.off ≠ R.PM_STATE.off ∨ f.hi < 23 ∨ 25 < f.lo → s.clearPending.fget f = s.fget f) ∧
    ∀ o, o ≠ R.PM_STATE.off → s.clearPending.rg o = s.rg o := by
  have e : s.clearPending = (({ s with power := { s.power with pendFlight := none } } : State).fset R.PM_STATE_pending_valid 0).fset R.PM_STATE_pending 0 := rfl
  rw [e]
  generalize hw : ({ s with power := { s.power with pendFlight := none } } : State) = w
  have wr : ∀ o, w.rg o = s.rg o := fun o => State.rg_congr (by rw [← hw]) o
  have g := RegsIn.refl (fun o => o = R.PM_STATE.off) w
  have g := (g.put R.PM_STATE_pending_valid 0 0 0 rfl).put R.PM_STATE_pending 0 0 0 rfl
  have k : ∀ o, o ≠ R.PM_STATE.off → ((w.fset R.PM_STATE_pending_valid 0).fset R.PM_STATE_pending 0).rg o = s.rg o := fun o ho => by rw [g.2 o ho, wr]
  refine ⟨by rw [g.1, ← hw], ?_, ?_, k⟩
  · rw [State.fget_fset_field _ _ _ _ _ _ _ _ (by decide) (by decide), ps_same _ _ _ (by decide)]; rfl
  · intro f hf h
    by_cases ho : f.off = R.PM_STATE.off
    · have h : f.hi < 23 ∨ 25 < f.lo := h.resolve_left (fun hc => hc ho)
      rw [State.fget_fset_field _ _ _ _ _ _ _ _ (by decide) ⟨hf, by show 24 < f.lo ∨ f.hi < 23; omega⟩, State.fget_fset_field _ _ _ _ _ _ _ _ (by decide) ⟨hf, by show 25 < f.lo ∨ f.hi < 25; omega⟩]
      unfold State.fget; rw [wr]
    · unfold State.fget; rw [k _ ho]

theorem refuse_state (s u x : State) (block kind : Nat) (ku : Kept s block kind u) (c : Calm u x)  :
   x.pmPhase = 0 ∧ x.pmState = s.pmState ∧ x.fget R.PM_STATE_target = s.pmState ∧ x.fget R.PM_STATE_block = 0 ∧
   x.fget R.PM_STATE_pending_valid = s.fget R.PM_STATE_pending_valid ∧ x.power = { s.power with agreed := [], flight := none } ∧
   Counted R.PM_ABORT_COUNT.off s x ∧ x.fget R.PM_REFUSE_LOG_0_block = block ∧ x.fget R.PM_REFUSE_LOG_0_target = s.fget R.PM_STATE_target ∧
      x.fget R.PM_REFUSE_LOG_0_kind = kind := by
  have fg : ∀ f : RF, calmOff f.off → x.fget f = u.fget f := by
    intro f hf; unfold State.fget; rw [c.regs _ hf]
  obtain ⟨⟨p1, p2, p3, p4, p5⟩, p6, ⟨p7, p8, p9, p10⟩, _⟩ := ku
  refine ⟨(fg _ (by decide)).trans p1, (fg _ (by decide)).trans p2, (fg _ (by decide)).trans p3, (fg _ (by decide)).trans p4, (fg _ (by decide)).trans p5, c.power.trans p6, ?_, (fg _ (by decide)).trans p8, (fg _ (by decide)).trans p9, (fg _ (by decide)).trans p10⟩
  unfold Counted at p7 ⊢; rw [c.regs _ (by decide)]; exact p7

theorem abort_final (s : State) (hf : s.power.flight = none) (hp : s.power.pendFlight = none) (h1 : s.pmPhase = 1) (hc : s.mayCount R.PM_ABORT_COUNT.off) :
   (s.abortPrepare 0).rings.flight = s.rings.flight ∧ ∀ t, Calm (s.abortPrepare 0) t → t.pmPhase = 0 ∧ t.pmState = s.pmState ∧ t.fget R.PM_STATE_target = s.pmState ∧ t.fget R.PM_STATE_block = 0 ∧
      t.fbit R.PM_STATE_pending_valid = false ∧ t.power = { s.power with agreed := [], flight := none, pendFlight := none } ∧
      Counted R.PM_ABORT_COUNT.off s t ∧ t.fget R.PM_REFUSE_LOG_0_block = 0 ∧ t.fget R.PM_REFUSE_LOG_0_target = s.fget R.PM_STATE_target ∧
      t.fget R.PM_REFUSE_LOG_0_kind = kAborted := by
  unfold State.abortPrepare
  rw [if_pos h1]
  obtain ⟨u, e, ku⟩ := refuse_spec s 0 kAborted stSuperseded hf hc (by decide) (by decide)
  rw [e]
  have c := pmEvent_calm u 1
  have efl := pmEvent_fl u 1
  generalize u.pmEvent 1 = x at c efl ⊢
  have hx := refuse_state s u x _ _ ku c
  unfold State.dropPending
  obtain ⟨x1, x2, x3, x4, x5, x6, x7, x8, x9, x10⟩ := hx
  have xp : x.power.pendFlight = none := by rw [x6]; exact hp
  rw [xp]
  show (State.clearPending x).rings.flight = _ ∧ ∀ t, Calm (State.clearPending x) t → _
  obtain ⟨q1, q2, q3, q4⟩ := clearPending_spec x
  generalize x.clearPending = y at q1 q2 q3 q4 ⊢
  have yp : y.power = { x.power with pendFlight := none } := by rw [q1]
  have yf : y.rings = x.rings := by rw [q1]
  refine ⟨by rw [yf, efl, ku.rings], ?_⟩
  intro t ht
  have fg : ∀ f : RF, calmOff f.off → t.fget f = y.fget f := by
    intro f hf; unfold State.fget; rw [ht.regs _ hf]
  refine ⟨?_, ?_, ?_, ?_, ?_, ?_, ?_, ?_, ?_, ?_⟩
  · exact (fg _ (by decide)).trans ((q3 _ (by decide) (by decide)).trans x1)
  · exact (fg _ (by decide)).trans ((q3 _ (by decide) (by decide)).trans x2)
  · exact (fg _ (by decide)).trans ((q3 _ (by decide) (by decide)).trans x3)
  · exact (fg _ (by decide)).trans ((q3 _ (by decide) (by decide)).trans x4)
  · unfold State.fbit; rw [fg _ (by decide), q2]; rfl
  · rw [ht.power, yp, x6]
  · unfold Counted at x7 ⊢; rw [ht.regs _ (by decide), q4 _ (by decide)]; exact x7
  · exact (fg _ (by decide)).trans ((q3 _ (by decide) (by decide)).trans x8)
  · exact (fg _ (by decide)).trans ((q3 _ (by decide) (by decide)).trans x9)
  · exact (fg _ (by decide)).trans ((q3 _ (by decide) (by decide)).trans x10)

theorem take_none (s : State) (h : s.fbit R.PM_STATE_pending_valid = false) : s.takePending = s := by
  unfold State.takePending; rw [if_neg (by rw [h]; decide)]

theorem fb0 (s t : State) (f : RF) (h : t.fget f = s.fget f) (hb : s.fbit f = false) : t.fbit f = false := by
  unfold State.fbit at hb ⊢; rw [h]; exact hb

theorem refuse_final (s : State) (kind : Nat) (hk : kind < 4) (hf : s.power.flight = none) (hp : s.power.pendFlight = none) (h1 : s.pmPhase = 1) (hc : s.mayCount R.PM_ABORT_COUNT.off)
   (hv : s.fbit R.PM_STATE_pending_valid = false) :
   ∀ t, Calm (s.blockRefuses kind) t → t.pmPhase = 0 ∧ t.pmState = s.pmState ∧ t.fget R.PM_STATE_target = s.pmState ∧ t.fget R.PM_STATE_block = 0 ∧
      t.fbit R.PM_STATE_pending_valid = false ∧ t.power = { s.power with agreed := [], flight := none, pendFlight := none } ∧
      Counted R.PM_ABORT_COUNT.off s t ∧ t.fget R.PM_REFUSE_LOG_0_block = s.fget R.PM_STATE_block ∧ t.fget R.PM_REFUSE_LOG_0_target = s.fget R.PM_STATE_target ∧
      t.fget R.PM_REFUSE_LOG_0_kind = kind := by
  unfold State.blockRefuses
  rw [if_pos h1]
  have hb : s.fget R.PM_STATE_block < 256 := by unfold State.fget getBits; exact Nat.mod_lt _ (by decide)
  obtain ⟨u, e, ku⟩ := refuse_spec s (s.fget R.PM_STATE_block) kind stStateRefused hf hc hb hk
  rw [e]
  have c := pmEvent_calm u 1
  generalize u.pmEvent 1 = x at c ⊢
  obtain ⟨x1, x2, x3, x4, x5, x6, x7, x8, x9, x10⟩ := refuse_state s u x _ _ ku c
  rw [take_none x (fb0 s x _ x5 hv)]
  intro t ht
  have fg : ∀ f : RF, calmOff f.off → t.fget f = x.fget f := by
    intro f hf; unfold State.fget; rw [ht.regs _ hf]
  refine ⟨(fg _ (by decide)).trans x1, (fg _ (by decide)).trans x2, (fg _ (by decide)).trans x3, (fg _ (by decide)).trans x4, fb0 s t _ ((fg _ (by decide)).trans x5) hv, ?_, ?_, (fg _ (by decide)).trans x8, (fg _ (by decide)).trans x9, (fg _ (by decide)).trans x10⟩
  · rw [ht.power, x6, ← hp]
  · unfold Counted at x7 ⊢; rw [ht.regs _ (by decide)]; exact x7

theorem pmAbort_none (s : State) (h : s.pmPhase = 1) (h0 : s.power.stopAt = none) : s.pmAbort none = s.abortPrepare 0 := by
  unfold State.pmAbort; rw [h0, if_neg (by decide), if_pos h]; rfl
theorem pmAbort_some (s : State) (f : Nat) (h : s.pmPhase = 1) (h0 : s.power.stopAt = none) :
    s.pmAbort (some f) = (s.abortPrepare 0).pmFinish (some f) stOk (s.abortPrepare 0).pmState := by
  unfold State.pmAbort; rw [h0, if_neg (by decide), if_pos h]

theorem agree_some (s : State) (n : Nat) (h1 : s.pmPhase = 1) (hm : s.mayAgree (s.fget R.PM_STATE_block) = true) (h7 : s.fget R.PM_STATE_block = 7 → s.zonesOpen = []) : 
   s.blockAgrees = (s.setPower { s.power with agreed := s.power.agreed ++ [s.fget R.PM_STATE_block] }).askNext (s.fget R.PM_STATE_block) := by
  unfold State.blockAgrees; dsimp only
  rw [if_pos ⟨h1, hm⟩]
  by_cases h : s.fget R.PM_STATE_block = 7
  · rw [if_pos h, show s.zonesSilent = s by unfold State.zonesSilent; rw [h7 h]; rfl]
  · rw [if_neg h]

theorem agree_next (s : State) (n : Nat) (h1 : s.pmPhase = 1) (hm : s.mayAgree (s.fget R.PM_STATE_block) = true) (h7 : s.fget R.PM_STATE_block = 7 → s.zonesOpen = [])
   (hn : (prepareList s.pmState (s.fget R.PM_STATE_target)).find? (fun k => decide (s.fget R.PM_STATE_block < k)) = some n) :
   s.agreeStep = { s with regs := s.agreeStep.regs, water := s.agreeStep.water, net := s.agreeStep.net, power := { s.power with agreed := s.power.agreed ++ [s.fget R.PM_STATE_block] } } ∧
        s.agreeStep.pmPhase = 1 ∧ s.agreeStep.fget R.PM_STATE_block = n ∧ ∀ o, o ≠ R.PM_STATE.off → s.agreeStep.rg o = s.rg o := by
  have hl : n < 256 := by
    have := List.mem_of_find?_eq_some hn
    unfold prepareList at this
    have k : ∀ l : List Nat, n ∈ l → (∀ a ∈ l, a < 256) → n < 256 := fun l h hh => hh n h
    split at this
    · exact k _ this (by decide)
    · split at this
      · exact k _ this (by decide)
      · split at this
        · exact k _ this (by decide)
        · exact k _ this (by decide)
  have e0 := agree_some s n h1 hm h7
  generalize hb : s.fget R.PM_STATE_block = b at *
  rw [setPower_eq] at e0
  generalize hw : ({ s with power := { s.power with agreed := s.power.agreed ++ [b] } } : State) = w at e0
  have wr : ∀ o, w.rg o = s.rg o := fun o => State.rg_congr (by rw [← hw]) o
  have wf : ∀ f : RF, w.fget f = s.fget f := fun f => by unfold State.fget; rw [wr]
  have hn' : (prepareList w.pmState (w.fget R.PM_STATE_target)).find? (fun k => decide (b < k)) = some n := by
    rw [wf, show w.pmState = s.pmState from wf _]; exact hn
  rw [askNext_some _ _ _ hn'] at e0
  have e1 := askBlock_spec w n
  generalize w.askBlock n = x at e0 e1
  have xr : ∀ o, x.rg o = (w.fset R.PM_STATE_block n).rg o := fun o => State.rg_congr (by rw [e1]) o
  have x1 : x.fget R.PM_STATE_phase = 1 := by
    unfold State.fget; rw [xr]
    exact (State.fget_fset_field _ _ _ _ _ _ _ _ (by decide) (by decide)).trans ((wf _).trans h1)
  have x2 : x.fget R.PM_STATE_block = n := by
    unfold State.fget; rw [xr]
    exact (ps_same _ _ _ (by decide)).trans (Nat.mod_eq_of_lt hl)
  have e2 : s.agreeStep = x := by
    unfold State.agreeStep; dsimp only
    rw [e0]
    rw [if_neg]
    intro hc
    have := hc.1
    rw [show x.pmPhase = 1 from x1] at this
    cases this
  rw [e2]
  refine ⟨?_, x1, x2, ?_⟩
  · have hx : x.regs = x.regs := rfl
    have : x = { w with regs := x.regs, water := x.water, net := x.net } := by rw [e1]
    rw [this, ← hw]
  · intro o ho; rw [xr, State.rg_fset_ne _ (show o ≠ R.PM_STATE_block.off from ho), wr]

theorem commit_idle (s : State) (h1 : s.pmPhase = 1) (hm : s.mayAgree (s.fget R.PM_STATE_block) = true) (h7 : s.fget R.PM_STATE_block = 7 → s.zonesOpen = [])
   (hn : (prepareList s.pmState (s.fget R.PM_STATE_target)).find? (fun k => decide (s.fget R.PM_STATE_block < k)) = none) (hg : s.fget R.PM_STATE_target = 1) :
   s.agreeStep = { s with regs := s.agreeStep.regs, power := { s.power with agreed := s.power.agreed ++ [s.fget R.PM_STATE_block] } } ∧
        s.agreeStep.pmPhase = 2 ∧ s.agreeStep.fget R.PM_STATE_block = 0 ∧ ∀ o, o ≠ R.PM_STATE.off → s.agreeStep.rg o = s.rg o := by
  have e0 := agree_some s 0 h1 hm h7
  generalize hb : s.fget R.PM_STATE_block = b at *
  rw [setPower_eq] at e0
  generalize hw : ({ s with power := { s.power with agreed := s.power.agreed ++ [b] } } : State) = w at e0
  have wr : ∀ o, w.rg o = s.rg o := fun o => State.rg_congr (by rw [← hw]) o
  have wf : ∀ f : RF, w.fget f = s.fget f := fun f => by unfold State.fget; rw [wr]
  have hn' : (prepareList w.pmState (w.fget R.PM_STATE_target)).find? (fun k => decide (b < k)) = none := by
    rw [wf, show w.pmState = s.pmState from wf _]; exact hn
  rw [askNext_none _ _ hn'] at e0
  have e1 : w.beginCommit = (w.fset R.PM_STATE_phase 2).fset R.PM_STATE_block 0 := by
    unfold State.beginCommit; dsimp only; rw [if_pos (show w.fget R.PM_STATE_target = pmIdle from (wf _).trans hg)]
  rw [e1] at e0
  have g := RegsIn.refl (fun o => o = R.PM_STATE.off) w
  have g := (g.put R.PM_STATE_phase 2 0 0 rfl).put R.PM_STATE_block 0 0 0 rfl
  have x1 : ((w.fset R.PM_STATE_phase 2).fset R.PM_STATE_block 0).fget R.PM_STATE_phase = 2 := by
    rw [State.fget_fset_field _ _ _ _ _ _ _ _ (by decide) (by decide), ps_same _ _ _ (by decide)]; rfl
  have x2 : ((w.fset R.PM_STATE_phase 2).fset R.PM_STATE_block 0).fget R.PM_STATE_block = 0 := by
    rw [ps_same _ _ _ (by decide)]; rfl
  have x3 : ((w.fset R.PM_STATE_phase 2).fset R.PM_STATE_block 0).fget R.PM_STATE_target = 1 := by
    rw [State.fget_fset_field _ _ _ _ _ _ _ _ (by decide) (by decide), State.fget_fset_field _ _ _ _ _ _ _ _ (by decide) (by decide), wf]; exact hg
  generalize (w.fset R.PM_STATE_phase 2).fset R.PM_STATE_block 0 = x at *
  have e2 : s.agreeStep = x := by
    unfold State.agreeStep; dsimp only
    rw [e0, if_neg]
    intro hc
    have := hc.2
    rw [x3] at this
    cases this
  rw [e2]
  refine ⟨?_, x1, x2, ?_⟩
  · rw [g.1, ← hw]
  · intro o ho; rw [g.2 o ho, wr]

theorem slcFacts2 (m : State) (q : Sluice) (r : Nat) : let z := ((m.setSluice q).raise 35).event blkSlc r; z.power = m.power ∧ z.domains = m.domains ∧ z.rg R.PM_STATE.off = m.rg R.PM_STATE.off ∧ z.fuses = m.fuses := by
  intro z
  have k : Calm (m.setSluice q) z := ((Calm.refl _).raise _).event _ _
  exact ⟨k.power, k.domains, k.regs _ (by decide), k.fuses⟩
theorem slcEnd_facts (s : State) (r : Nat) : (s.slcEnd r).power = s.power ∧ (s.slcEnd r).domains = s.domains ∧ (s.slcEnd r).rg R.PM_STATE.off = s.rg R.PM_STATE.off ∧ (s.slcEnd r).fuses = s.fuses := by
  unfold State.slcEnd
  have e1 : ((s.fset R.SLC_STATUS_busy 0).fset R.SLC_STATUS_result r).power = s.power := (State.fset_power ..).trans (State.fset_power ..)
  have e2 : ((s.fset R.SLC_STATUS_busy 0).fset R.SLC_STATUS_result r).domains = s.domains := (State.fset_domains ..).trans (State.fset_domains ..)
  have e3 : ((s.fset R.SLC_STATUS_busy 0).fset R.SLC_STATUS_result r).rg R.PM_STATE.off = s.rg R.PM_STATE.off := by
    rw [State.rg_fset_ne _ (by decide), State.rg_fset_ne _ (by decide)]
  have e4 : ((s.fset R.SLC_STATUS_busy 0).fset R.SLC_STATUS_result r).fuses = s.fuses := (State.fset_fuses ..).trans (State.fset_fuses ..)
  generalize (s.fset R.SLC_STATUS_busy 0).fset R.SLC_STATUS_result r = m at *
  obtain ⟨a, b, c, d⟩ := slcFacts2 m { s.sluice with op := 0, burns := [] } (Config.eventCode blkSlc r)
  exact ⟨a.trans e1, b.trans e2, c.trans e3, d.trans e4⟩

theorem iteOr {α : Type} (c : Prop) [Decidable c] (a b : α) : (if c then a else b) = a ∨ (if c then a else b) = b := by
  by_cases h : c
  · exact .inl (if_pos h)
  · exact .inr (if_neg h)
theorem slcAbort_or (s : State) : s.slcAbort = s.slcEnd slcAborted ∨ s.slcAbort = s := by
  unfold State.slcAbort; exact iteOr _ _ _
theorem slcAbort_facts (s : State) : s.slcAbort.power = s.power ∧ s.slcAbort.domains = s.domains ∧ s.slcAbort.rg R.PM_STATE.off = s.rg R.PM_STATE.off := by
  obtain ⟨a, b, c, _⟩ := slcEnd_facts s slcAborted
  rcases slcAbort_or s with e | e
  · rw [e]; exact ⟨a, b, c⟩
  · rw [e]; exact ⟨rfl, rfl, rfl⟩

theorem off_host (b : BitVec 12) : b &&& ~~~(BitVec.ofNat 12 (2 ^ domNum .host)) = b &&& 0xBFF := by rfl

theorem host_ps (s : State) : (s.clearDomain .host).rg R.PM_STATE.off = s.rg R.PM_STATE.off := (halt_ps s.resetFunction).1

theorem powerOff_rg (s : State) (d : Domain) (o : Nat) : (s.powerOff d).rg o = (s.resetDomain d).rg o := rfl
theorem powerOff_pow (s : State) (d : Domain) : (s.powerOff d).power = (s.resetDomain d).power ∧ (s.powerOff d).domains = (s.resetDomain d).domains &&& ~~~(BitVec.ofNat 12 (2 ^ domNum d)) := ⟨rfl, rfl⟩
theorem resetHost_ps (s : State) : (s.resetDomain .host).rg R.PM_STATE.off = s.rg R.PM_STATE.off :=
  ((sens_ps _ _).1.trans (drop_ps _ _ (by decide))).trans (host_ps s)
theorem commit_sleep (s : State) (h1 : s.pmPhase = 1) (hm : s.mayAgree (s.fget R.PM_STATE_block) = true) (h7 : s.fget R.PM_STATE_block = 7 → s.zonesOpen = [])
   (hn : (prepareList s.pmState (s.fget R.PM_STATE_target)).find? (fun k => decide (s.fget R.PM_STATE_block < k)) = none) (hg : 2 ≤ s.fget R.PM_STATE_target) (hf : s.power.flight = none) :
   s.agreeStep.pmPhase = 2 ∧ s.agreeStep.fget R.PM_STATE_block = 0 ∧
          s.agreeStep.power = { s.power with agreed := s.power.agreed ++ [s.fget R.PM_STATE_block] } ∧ s.agreeStep.domains = s.domains &&& 0xBFF := by
  have e0 := agree_some s 0 h1 hm h7
  generalize hb : s.fget R.PM_STATE_block = b at *
  rw [setPower_eq] at e0
  generalize hw : ({ s with power := { s.power with agreed := s.power.agreed ++ [b] } } : State) = w at e0
  have wr : ∀ o, w.rg o = s.rg o := fun o => State.rg_congr (by rw [← hw]) o
  have wf : ∀ f : RF, w.fget f = s.fget f := fun f => by unfold State.fget; rw [wr]
  have wp : w.power = { s.power with agreed := s.power.agreed ++ [b] } := by rw [← hw]
  have wd : w.domains = s.domains := by rw [← hw]
  have hn' : (prepareList w.pmState (w.fget R.PM_STATE_target)).find? (fun k => decide (b < k)) = none := by
    rw [wf, show w.pmState = s.pmState from wf _]; exact hn
  rw [askNext_none _ _ hn'] at e0
  have g := RegsIn.refl (fun o => o = R.PM_STATE.off) w
  have g := (g.put R.PM_STATE_phase 2 0 0 rfl).put R.PM_STATE_block 0 0 0 rfl
  have x1 : ((w.fset R.PM_STATE_phase 2).fset R.PM_STATE_block 0).fget R.PM_STATE_phase = 2 := by
    rw [State.fget_fset_field _ _ _ _ _ _ _ _ (by decide) (by decide), ps_same _ _ _ (by decide)]; rfl
  have x2 : ((w.fset R.PM_STATE_phase 2).fset R.PM_STATE_block 0).fget R.PM_STATE_block = 0 := by
    rw [ps_same _ _ _ (by decide)]; rfl
  have e1 : w.beginCommit = (((w.fset R.PM_STATE_phase 2).fset R.PM_STATE_block 0).setPower { w.power with flight := none }).powerOff .host := by
    have e : ((w.fset R.PM_STATE_phase 2).fset R.PM_STATE_block 0).power = w.power := by rw [g.1]
    unfold State.beginCommit; dsimp only
    rw [if_neg (by rw [wf]; intro hc; rw [hc] at hg; exact absurd hg (by decide))]
    have ef : w.power.flight = none := by rw [wp]; exact hf
    rw [e, ef]
    show State.powerOff (State.setPower ((w.fset R.PM_STATE_phase 2).fset R.PM_STATE_block 0) { ((w.fset R.PM_STATE_phase 2).fset R.PM_STATE_block 0).power with flight := none }) _ = _
    rw [e]
  rw [e1] at e0
  have xp : ((w.fset R.PM_STATE_phase 2).fset R.PM_STATE_block 0).domains = w.domains := by rw [g.1]
  generalize (w.fset R.PM_STATE_phase 2).fset R.PM_STATE_block 0 = x at *
  rw [setPower_eq] at e0
  generalize hy : ({ x with power := { w.power with flight := none } } : State) = y at e0
  have yr : ∀ o, y.rg o = x.rg o := fun o => State.rg_congr (by rw [← hy]) o
  have yp : y.power = { s.power with agreed := s.power.agreed ++ [b] } := by rw [← hy]; show ({ w.power with flight := none } : Power) = _; rw [wp, ← hf]
  have yd : y.domains = s.domains := by rw [← hy]; exact xp.trans wd
  have st := (Still.refl y).resetDomain .host
  have zr : (y.powerOff .host).rg R.PM_STATE.off = y.rg R.PM_STATE.off := by
    rw [powerOff_rg, resetHost_ps]
  have zp : (y.powerOff .host).power = y.power := (powerOff_pow y .host).1.trans st.power
  have zd : (y.powerOff .host).domains = y.domains &&& 0xBFF := by
    rw [(powerOff_pow y .host).2, st.domains]; exact off_host _
  generalize y.powerOff .host = z at *
  have fin : ∀ q : State, q.power = z.power → q.domains = z.domains → q.rg R.PM_STATE.off = z.rg R.PM_STATE.off → q.pmPhase = 2 ∧ q.fget R.PM_STATE_block = 0 ∧
          q.power = { s.power with agreed := s.power.agreed ++ [b] } ∧ q.domains = s.domains &&& 0xBFF := by
    intro q q1 q2 q3
    have qr : q.rg R.PM_STATE.off = x.rg R.PM_STATE.off := by rw [q3, zr, yr]
    exact ⟨(congrArg (fun w => getBits w 27 26) qr).trans x1, (congrArg (fun w => getBits w 7 0) qr).trans x2, by rw [q1, zp, yp], by rw [q2, zd, yd]⟩
  unfold State.agreeStep; dsimp only
  rw [e0]
  split
  · obtain ⟨a1, a2, a3⟩ := slcAbort_facts z
    exact fin _ a1 a2 a3
  · exact fin _ rfl rfl rfl

theorem off_watch (b : BitVec 12) : watchOff.foldl (fun b d => b &&& ~~~(BitVec.ofNat 12 (2 ^ domNum d))) b = b &&& 0xE07 := by
  simp only [watchOff, List.foldl, domNum, BitVec.and_assoc]
  congr 1

theorem dropRails_ps (s : State) (h : noDisp s) : s.dropRails.rg R.PM_STATE.off = s.rg R.PM_STATE.off := by
  unfold State.dropRails
  have e := powerOffs_ps s mainDomains (by decide) h
  generalize s.powerOffs mainDomains = u at e ⊢
  dsimp only
  rw [foldl_emit]
  exact e

theorem saveHours_facts (s : State) : s.saveHours.power = { s.power with stores := s.saveHours.power.stores } ∧ s.saveHours.domains = s.domains ∧ s.saveHours.fuses = s.fuses ∧
   s.saveHours.rg R.PM_STATE.off = s.rg R.PM_STATE.off := by
  unfold State.saveHours State.askStore
  have q : ∀ (t : State) (k : Nat), (t.queueStore k).power = { t.power with stores := (t.queueStore k).power.stores } ∧ (t.queueStore k).domains = t.domains ∧ (t.queueStore k).fuses = t.fuses ∧ (t.queueStore k).rg R.PM_STATE.off = t.rg R.PM_STATE.off := by
    intro t k; unfold State.queueStore; split
    · exact ⟨rfl, rfl, rfl, rfl⟩
    · exact ⟨rfl, rfl, rfl, rfl⟩
  have bq : ∀ (t : State) (o : Nat), o ≠ R.PM_STATE.off → (t.bump o).power = t.power ∧ (t.bump o).domains = t.domains ∧ (t.bump o).fuses = t.fuses ∧ (t.bump o).rg R.PM_STATE.off = t.rg R.PM_STATE.off := by
    intro t o ho
    have e := t.bump_spec o
    exact ⟨by rw [e.2.2], by rw [e.2.2], by rw [e.2.2], e.2.1 _ ho.symm⟩
  have c1 : ∀ (t : State) (k : Nat), (t.showCheck k).power = t.power ∧ (t.showCheck k).domains = t.domains ∧ (t.showCheck k).fuses = t.fuses ∧
      (t.showCheck k).rg R.PM_STATE.off = t.rg R.PM_STATE.off := by
    intro t k
    unfold State.showCheck
    refine ⟨by rw [State.fset_power, State.fset_power, State.fset_power], by rw [State.fset_domains, State.fset_domains, State.fset_domains], by rw [State.fset_fuses, State.fset_fuses, State.fset_fuses], ?_⟩
    rw [State.rg_fset_ne _ (by decide), State.rg_fset_ne _ (by decide), State.rg_fset_ne _ (by decide)]
  have c : ∀ (l : List Nat) (t : State), (t.checkKinds l).1.power = t.power ∧ (t.checkKinds l).1.domains = t.domains ∧
      (t.checkKinds l).1.fuses = t.fuses ∧ (t.checkKinds l).1.rg R.PM_STATE.off = t.rg R.PM_STATE.off := by
    intro l
    induction l with
    | nil => exact fun t => ⟨rfl, rfl, rfl, rfl⟩
    | cons k l ih =>
      intro t
      simp only [State.checkKinds]
      obtain ⟨d1, d2, d3, d4⟩ := c1 t k
      split
      · obtain ⟨e1, e2, e3, e4⟩ := ih (t.showCheck k)
        exact ⟨e1.trans d1, e2.trans d2, e3.trans d3, e4.trans d4⟩
      · exact ⟨d1, d2, d3, d4⟩
  split
  · split
    · exact ⟨rfl, rfl, rfl, rfl⟩
    · obtain ⟨a1, a2, a3, a4⟩ := q s 2
      obtain ⟨b1, b2, b3, b4⟩ := bq (s.queueStore 2) R.PM_STORE_DEFER_COUNT.off (by decide)
      refine ⟨?_, b2.trans a2, b3.trans a3, b4.trans a4⟩
      show ((s.queueStore 2).bump R.PM_STORE_DEFER_COUNT.off).power = { s.power with stores := ((s.queueStore 2).bump R.PM_STORE_DEFER_COUNT.off).power.stores }
      rw [b1]; exact a1
  · obtain ⟨c1, c2, c3, c4⟩ := c (storeKinds 2) s
    generalize s.checkKinds (storeKinds 2) = u at c1 c2 c3 c4 ⊢
    obtain ⟨u, ok⟩ := u
    dsimp only at c1 c2 c3 c4 ⊢
    split
    · refine ⟨?_, c2, c3, c4⟩
      show ({ u.power with stores := u.power.stores.filter _ } : Power) = _
      rw [c1]; rfl
    · obtain ⟨a1, a2, a3, a4⟩ := q u 2
      obtain ⟨b1, b2, b3, b4⟩ := bq (u.queueStore 2) R.PM_HOLDUP_FAIL_COUNT.off (by decide)
      refine ⟨?_, (b2.trans a2).trans c2, (b3.trans a3).trans c3, (b4.trans a4).trans c4⟩
      show ((u.queueStore 2).bump R.PM_HOLDUP_FAIL_COUNT.off).power = { s.power with stores := ((u.queueStore 2).bump R.PM_HOLDUP_FAIL_COUNT.off).power.stores }
      rw [b1, ← c1]; exact a1

/-- The sources armed, and held after a stop: beside PM_STATE's wake_held nothing but `wakeArmed` changes. -/
theorem armed_facts (s : State) : s.armWakes.holdWakes.power = { s.power with wakeArmed := s.armWakes.power.wakeArmed } ∧
    s.armWakes.holdWakes.domains = s.domains ∧ s.armWakes.holdWakes.fuses = s.fuses ∧
    ∀ f : RF, f.off = R.PM_STATE.off → f.lo ≤ f.hi → f.hi < 21 ∨ 21 < f.lo → s.armWakes.holdWakes.fget f = s.fget f := by
  unfold State.holdWakes
  have h1 : s.armWakes.power = { s.power with wakeArmed := s.armWakes.power.wakeArmed } := rfl
  have h2 : s.armWakes.domains = s.domains := rfl
  have h3 : s.armWakes.fuses = s.fuses := rfl
  have h4 : ∀ o, s.armWakes.rg o = s.rg o := fun _ => rfl
  generalize s.armWakes = u at h1 h2 h3 h4 ⊢
  split
  · refine ⟨by rw [State.fset_power, ← h1], by rw [State.fset_domains, h2], by rw [State.fset_fuses, h3], fun f _ hl h => ?_⟩
    rw [State.fget_fset_field _ _ _ _ _ _ _ _ (by decide) ⟨hl, by show 21 < f.lo ∨ f.hi < 21; omega⟩]
    unfold State.fget; rw [h4]
  · exact ⟨h1, h2, h3, fun f _ _ _ => by unfold State.fget; rw [h4]⟩

theorem sleepCore_eq (s : State) (hf : s.power.flight = none) : let s1 := (s.fset R.PM_STATE_phase 0).fset R.PM_STATE_state (s.fget R.PM_STATE_target)
    let d := if s.fget R.PM_STATE_target = 1 then s1 else if s.fget R.PM_STATE_target = 2 then (s1.powerOffs watchOff).thermalRests.armWakes else
      s1.dropRails.saveHours.armWakes.holdWakes
    s.sleepCore = { d with power := { d.power with flight := none, agreed := [], stopAt := none } } := by
  intro s1 d
  have h1 : s1.power = s.power := (State.fset_power ..).trans (State.fset_power ..)
  have e : s1.pmFinish s1.power.flight stOk pmIdle = s1 := by rw [h1, hf]; rfl
  have : d = if s.fget R.PM_STATE_target = pmIdle then s1.pmFinish s1.power.flight stOk pmIdle else if s.fget R.PM_STATE_target = pmWatch then (s1.powerOffs watchOff).thermalRests.armWakes else
      s1.dropRails.saveHours.armWakes.holdWakes := by
    rw [e]; rfl
  rw [this]; rfl

theorem sleepCore_facts (s : State) (hf : s.power.flight = none) (hd : noDisp s) :
   let g := s.fget R.PM_STATE_target
   let t := s.sleepCore
   t.pmState = g ∧ t.pmPhase = 0 ∧ t.fget R.PM_STATE_pending_valid = s.fget R.PM_STATE_pending_valid ∧ t.power.agreed = [] ∧ t.power.stopAt = none ∧ t.power.heldReset = s.power.heldReset ∧ t.fuses = s.fuses ∧
        (g = 1 → t.domains = s.domains ∧ t.power.enables = s.power.enables) ∧
        (g = 2 → t.domains = s.domains &&& 0xE07 ∧ t.power.enables = s.power.enables) ∧
        (g = 3 → t.domains = s.domains &&& 1 ∧ t.power.enables = 0) := by
  intro g t
  have e := sleepCore_eq s hf
  dsimp only at e
  rw [show s.fget R.PM_STATE_target = g from rfl] at e
  have hg4 : g < 4 := fg_lt2 _ _ (by decide)
  have x1 : ((s.fset R.PM_STATE_phase 0).fset R.PM_STATE_state g).fget R.PM_STATE_state = g := by
    rw [ps_same _ _ _ (by decide)]; exact Nat.mod_eq_of_lt hg4
  have x2 : ((s.fset R.PM_STATE_phase 0).fset R.PM_STATE_state g).fget R.PM_STATE_phase = 0 := by
    rw [State.fget_fset_field _ _ _ _ _ _ _ _ (by decide) (by decide), ps_same _ _ _ (by decide)]; rfl
  have x3 : ((s.fset R.PM_STATE_phase 0).fset R.PM_STATE_state g).fget R.PM_STATE_pending_valid = s.fget R.PM_STATE_pending_valid := by
    rw [State.fget_fset_field _ _ _ _ _ _ _ _ (by decide) (by decide), State.fget_fset_field _ _ _ _ _ _ _ _ (by decide) (by decide)]
  have x4 : ((s.fset R.PM_STATE_phase 0).fset R.PM_STATE_state g).power = s.power := (State.fset_power ..).trans (State.fset_power ..)
  have x5 : ((s.fset R.PM_STATE_phase 0).fset R.PM_STATE_state g).domains = s.domains := (State.fset_domains ..).trans (State.fset_domains ..)
  have x6 : ((s.fset R.PM_STATE_phase 0).fset R.PM_STATE_state g).fuses = s.fuses := (State.fset_fuses ..).trans (State.fset_fuses ..)
  have x7 : noDisp ((s.fset R.PM_STATE_phase 0).fset R.PM_STATE_state g) := noDisp_of hd ((State.fset_ditch ..).trans (State.fset_ditch ..))
  generalize (s.fset R.PM_STATE_phase 0).fset R.PM_STATE_state g = x at *
  have te : t = s.sleepCore := rfl
  rw [e] at te
  clear_value t g
  subst te
  have common : ∀ d : State, (∀ f : RF, f.off = R.PM_STATE.off → f.lo ≤ f.hi → f.hi < 21 ∨ 21 < f.lo → d.fget f = x.fget f) → d.power.heldReset = s.power.heldReset → d.fuses = s.fuses →
     let t : State := { d with power := { d.power with flight := none, agreed := [], stopAt := none } }
     t.pmState = g ∧ t.pmPhase = 0 ∧ t.fget R.PM_STATE_pending_valid = s.fget R.PM_STATE_pending_valid ∧ t.power.agreed = [] ∧ t.power.stopAt = none ∧ t.power.heldReset = s.power.heldReset ∧ t.fuses = s.fuses := by
    intro d k1 k2 k3 t
    exact ⟨(k1 R.PM_STATE_state rfl (by decide) (by decide)).trans x1,
      (k1 R.PM_STATE_phase rfl (by decide) (by decide)).trans x2,
      (k1 R.PM_STATE_pending_valid rfl (by decide) (by decide)).trans x3, rfl, rfl, k2, k3⟩
  have whole : ∀ d : State, d.rg R.PM_STATE.off = x.rg R.PM_STATE.off →
      ∀ f : RF, f.off = R.PM_STATE.off → f.lo ≤ f.hi → f.hi < 21 ∨ 21 < f.lo → d.fget f = x.fget f := by
    intro d k f hf _ _
    unfold State.fget RF.off at *
    simp only [Nat.mul_zero, Nat.add_zero] at hf ⊢
    rw [hf]; exact congrArg (fun w => getBits w f.hi f.lo) k
  by_cases g1 : g = 1
  · rw [if_pos g1]
    obtain ⟨c1, c2, c3, c4, c5, c6, c7⟩ := common x (whole x rfl) (by rw [x4]) x6
    exact ⟨c1, c2, c3, c4, c5, c6, c7, fun _ => ⟨x5, by rw [x4]⟩, fun h => by omega, fun h => by omega⟩
  · rw [if_neg g1]
    by_cases g2 : g = 2
    · rw [if_pos g2]
      have k := powerOffs_still x watchOff
      rw [off_watch] at k
      have kp := powerOffs_ps x watchOff (by decide) x7
      generalize x.powerOffs watchOff = d at k kp ⊢
      have dp : d.power = s.power := k.power.trans x4
      obtain ⟨c1, c2, c3, c4, c5, c6, c7⟩ := common d.thermalRests.armWakes (whole _ kp)
        (by show d.power.heldReset = _; rw [dp]) (k.fuses.trans x6)
      exact ⟨c1, c2, c3, c4, c5, c6, c7, fun h => by omega, fun _ => ⟨k.domains.trans (congrArg (· &&& 0xE07) x5), by show d.power.enables = _; rw [dp]⟩, fun h => by omega⟩
    · rw [if_neg g2]
      obtain ⟨r1, r2, r3, r4, r5, r6⟩ := dropRails_spec x
      have rp := dropRails_ps x x7
      generalize x.dropRails = y at r1 r2 r3 r4 r5 r6 rp ⊢
      obtain ⟨s1, s2, s3, s4⟩ := saveHours_facts y
      generalize y.saveHours = d at s1 s2 s3 s4 ⊢
      have dh : d.power.heldReset = y.power.heldReset := by rw [s1]
      have de : d.power.enables = y.power.enables := by rw [s1]
      have yh : y.power.heldReset = s.power.heldReset := by rw [r1, x4]
      have ye : y.power.enables = 0 := by rw [r1]
      obtain ⟨a1, a2, a3, a4⟩ := armed_facts d
      generalize d.armWakes.holdWakes = e at a1 a2 a3 a4 ⊢
      obtain ⟨c1, c2, c3, c4, c5, c6, c7⟩ := common e (fun f h1 h2 h3 => (a4 f h1 h2 h3).trans (whole d (s4.trans rp) f h1 h2 h3))
        (by rw [a1]; exact dh.trans yh) (a3.trans (s3.trans (r3.trans x6)))
      exact ⟨c1, c2, c3, c4, c5, c6, c7, fun h => by omega, fun h => by omega, fun _ =>
        ⟨a2.trans ((s2.trans r2).trans (congrArg (· &&& 1) x5)), by rw [a1]; exact de.trans ye⟩⟩

theorem afterState_none (s : State) (h1 : s.power.heldReset = none) (h2 : s.fbit R.PM_STATE_pending_valid = false) : s.afterState = s := by
  unfold State.afterState; rw [h1]; exact take_none s h2

theorem enterShow_calm (s : State) (hf : s.power.flight = none) : 
    Calm { ((((s.fset R.PM_STATE_state pmShow).fset R.PM_STATE_target pmShow).fset R.PM_STATE_phase 0).fset R.PM_STATE_rail_fault 0) with
    power := { s.power with start := 0, agreed := [] }
    net := { s.net with ended := false } } s.enterShow := by
  unfold State.enterShow
  dsimp only
  have a : ((((s.fset R.PM_STATE_state pmShow).fset R.PM_STATE_target pmShow).fset R.PM_STATE_phase 0).fset R.PM_STATE_rail_fault 0).power = s.power :=
    (State.fset_power ..).trans ((State.fset_power ..).trans ((State.fset_power ..).trans (State.fset_power ..)))
  have b : ((((s.fset R.PM_STATE_state pmShow).fset R.PM_STATE_target pmShow).fset R.PM_STATE_phase 0).fset R.PM_STATE_rail_fault 0).net = s.net :=
    (State.fset_net ..).trans ((State.fset_net ..).trans ((State.fset_net ..).trans (State.fset_net ..)))
  rw [a, b, hf]
  exact pmEvent_calm _ _

theorem recordStart5 (s : State) : s.recordStart 5 = s := by
  unfold State.recordStart; dsimp only
  rw [if_neg (by decide), if_neg (by decide), if_neg (by decide)]

theorem show5 (s : State) (h5 : s.power.start = 5) : s.showReached = (let s2 := ({ s with ditch := { s.ditch with paused := true } } : State).enterShow; (s2.setPower { s2.power with flight := none }).coreInterrupts.afterState) := by
  unfold State.showReached
  rw [if_pos (by unfold State.startReady; rw [h5]; rfl)]
  dsimp only
  rw [h5, if_neg (by decide), if_neg (by decide), State.reenumerate, if_neg (by decide), recordStart5]

/-- Interrupts that cores take change the cores and who waits, alone. -/
theorem coreInterrupt_shape (s : State) (core : Nat) : ∃ c d, s.coreInterrupt core = { s with cores := c, ditch := d } := by
  unfold State.coreInterrupt
  dsimp only
  split
  · split
    · exact ⟨_, _, rfl⟩
    · split <;> exact ⟨_, _, rfl⟩
  · exact ⟨_, _, rfl⟩

theorem coreInterrupts_shape (s : State) : ∃ c d, s.coreInterrupts = { s with cores := c, ditch := d } := by
  unfold State.coreInterrupts
  generalize List.range 64 = l
  induction l generalizing s with
  | nil => exact ⟨_, _, rfl⟩
  | cons n l ih =>
    obtain ⟨c, d, h⟩ := coreInterrupt_shape s n
    obtain ⟨c', d', h'⟩ := ih (s.coreInterrupt n)
    exact ⟨c', d', by rw [List.foldl_cons, h', h]⟩

theorem calm_ps {x z : State} {p : Power} {n : Net} (c : Calm { x with power := p, net := n } z) : (∀ o, calmOff o → z.rg o = x.rg o) ∧ z.power = p ∧ z.domains = x.domains :=
  ⟨fun o h => c.regs o h, c.power, c.domains⟩
theorem show5_facts (s : State) (h5 : s.power.start = 5) (hr : s.power.heldReset = none) (hv : s.fbit R.PM_STATE_pending_valid = false) (hf : s.power.flight = none) :
   s.showReached.pmState = 0 ∧ s.showReached.pmPhase = 0 ∧ s.showReached.fget R.PM_STATE_target = 0 ∧
        s.showReached.power = { s.power with start := 0, agreed := [] } ∧ s.showReached.domains = s.domains := by
  rw [show5 s h5]
  generalize hw : ({ s with ditch := { s.ditch with paused := true } } : State) = w
  have wr : ∀ o, w.rg o = s.rg o := fun o => State.rg_congr (by rw [← hw]) o
  have wp : w.power = s.power := by rw [← hw]
  have wd : w.domains = s.domains := by rw [← hw]
  have c := enterShow_calm w (by rw [wp]; exact hf)
  dsimp only
  generalize w.enterShow = z at c ⊢
  have f5 : ((((w.fset R.PM_STATE_state pmShow).fset R.PM_STATE_target pmShow).fset R.PM_STATE_phase 0).fset R.PM_STATE_rail_fault 0).domains = w.domains :=
    (State.fset_domains ..).trans ((State.fset_domains ..).trans ((State.fset_domains ..).trans (State.fset_domains ..)))
  have f1 : ((((w.fset R.PM_STATE_state pmShow).fset R.PM_STATE_target pmShow).fset R.PM_STATE_phase 0).fset R.PM_STATE_rail_fault 0).fget R.PM_STATE_state = 0 := by
    iterate 3 rw [State.fget_fset_field _ _ _ _ _ _ _ _ (by decide) (by decide)]
    rw [ps_same _ _ _ (by decide)]; rfl
  have f2 : ((((w.fset R.PM_STATE_state pmShow).fset R.PM_STATE_target pmShow).fset R.PM_STATE_phase 0).fset R.PM_STATE_rail_fault 0).fget R.PM_STATE_target = 0 := by
    iterate 2 rw [State.fget_fset_field _ _ _ _ _ _ _ _ (by decide) (by decide)]
    rw [ps_same _ _ _ (by decide)]; rfl
  have f3 : ((((w.fset R.PM_STATE_state pmShow).fset R.PM_STATE_target pmShow).fset R.PM_STATE_phase 0).fset R.PM_STATE_rail_fault 0).fget R.PM_STATE_phase = 0 := by
    rw [State.fget_fset_field _ _ _ _ _ _ _ _ (by decide) (by decide)]
    rw [ps_same _ _ _ (by decide)]; rfl
  have f4 : ((((w.fset R.PM_STATE_state pmShow).fset R.PM_STATE_target pmShow).fset R.PM_STATE_phase 0).fset R.PM_STATE_rail_fault 0).fget R.PM_STATE_pending_valid = w.fget R.PM_STATE_pending_valid := by
    iterate 4 rw [State.fget_fset_field _ _ _ _ _ _ _ _ (by decide) (by decide)]
  generalize (((w.fset R.PM_STATE_state pmShow).fset R.PM_STATE_target pmShow).fset R.PM_STATE_phase 0).fset R.PM_STATE_rail_fault 0 = x at *
  obtain ⟨c1, c2, c3⟩ := calm_ps c
  have zr : z.rg R.PM_STATE.off = x.rg R.PM_STATE.off := c1 _ (by decide)
  have zp : z.power = { s.power with start := 0, agreed := [] } := by rw [c2, wp]
  have zd : z.domains = s.domains := c3.trans (f5.trans wd)
  have pv : z.fbit R.PM_STATE_pending_valid = false := by
    refine fb0 s z _ ?_ hv
    refine (congrArg (fun w => getBits w 25 25) zr).trans (f4.trans ?_)
    exact congrArg (fun w => getBits w 25 25) (wr _)
  have hz : ({ z.power with flight := none } : Power) = z.power := by rw [zp, ← hf]
  rw [hz]
  have e : z.setPower z.power = z := rfl
  obtain ⟨c, d, hc⟩ := coreInterrupts_shape z
  rw [e, hc, afterState_none { z with cores := c, ditch := d } (by show z.power.heldReset = none; rw [zp]; exact hr) pv]
  exact ⟨(congrArg (fun w => getBits w 31 30) zr).trans f1, (congrArg (fun w => getBits w 27 26) zr).trans f3, (congrArg (fun w => getBits w 29 28) zr).trans f2, zp, zd⟩


end Sys2Proof.Machine
end

