-- ==== Sys2Proof/Tests/Slice0.lean ====
section
/-! SUPPORT. The well-formedness checks each with a term that it refuses; small tests of single operations against values that
the spec or the standards it names give; and for each statement with hypotheses a state and operands that meet them, at the ends
of their ranges. -/

open Sys2Proof Sys2Proof.Machine

/-! ### A term that each check refuses -/

theorem test_wf_host_order : (Instr.hostPoll { cells := [(8, 1), (4, 1)] }).wf = false := by decide
theorem test_wf_host_zero : (Instr.hostPoll { cells := [(4, 0)] }).wf = false := by decide
theorem test_wf_host_fails : (Instr.writeTable { fails := [(2 ^ 64 - 1, 2)] }).wf = false := by decide
theorem test_wf_slc_host : (Instr.attest .host { cells := [(2 ^ 64, 1)] } 0).wf = false := by decide
theorem test_wf_staged_after : (Instr.frameStaged {} { cells := [(1, 0)] }).wf = false := by decide
theorem test_wf_alias_width : (Instr.bitSetStore 0 0 3 0).wf = false := by decide
theorem test_wf_core_width : (Instr.coreMemoryAccess 0 0 (.load 1 0 true) false 0).wf = false := by decide
theorem test_wf_ecc_pool : (Instr.eccScrub true (2 ^ 24) 1).wf = false := by decide
theorem test_wf_ecc_pad : (Instr.eccScrub false (2 ^ 27) 1).wf = false := by decide
theorem test_wf_edid (l : List Byte) (h : l.length = 513) : (Instr.hpdRise 0 0 0 l).wf = false := by
  show decide (l.length ≤ 512) = false
  rw [h]; rfl
theorem test_wf_bar2 : (Instr.bar2Write (BitVec.ofNat 27 (2 ^ 27 - 1)) [0, 0] 0).wf = false := by decide
theorem test_wf_nonce : (Instr.siphonLinkUp (List.replicate 47 0)).wf = false := by decide
theorem test_wf_vhold : (Instr.holdupRetry 1801).wf = false := by decide
theorem test_wf_sixteen : (Instr.healthRecordReceived true []).wf = false := by decide
theorem test_wf_temps : (Instr.sensorSample (List.replicate 15 0) 0).wf = false := by decide
theorem test_wf_eye : (Instr.calibrationRun 0 (List.replicate 17 0)).wf = false := by decide
theorem test_wf_access_bytes : (Instr.registerWrite .host 0 0 0).wf = false := by decide
theorem test_wf_fetch_after : (Instr.stagingDeadline [] {} { cells := [(1, 0)] }).wf = false := by decide
theorem test_wf_read_bytes : (Instr.sipLedgerMaxRead .host 0 0).wf = false := by decide
theorem test_wf_pair_bytes : (Instr.pairLoRead .host 0 0).wf = false := by decide
theorem test_wf_page (l : List Byte) (h : l.length = 65537) : (Instr.catchupPages true [(0, l)] []).wf = false := by
  show (decide (l.length ≤ 65536) && true) = false
  rw [h]; rfl

/-! ### Single operations. The values are those of R186's own sentence, of IEEE 802.3's check value and of the worked figures of
chapter 15. -/

/-- R186: for n = 8 the expansion is 257 v. -/
theorem test_expand_8 : expand16 8 0xAB = 257 * 0xAB := by decide
/-- R186: for n = 16 it is v; for n = 1 the two codes are the ends of the range. -/
theorem test_expand_ends : expand16 16 0x1234 = 0x1234 ∧ expand16 1 1 = 65535 ∧ expand16 1 0 = 0 := by decide
/-- The check value of CRC-32C: "123456789" gives E3069283H. -/
theorem test_crc32c : crcFinish crc32c ((List.range 9).foldl (fun r i => crcFeed crc32c r (BitVec.ofNat 8 (0x31 + i))) crc32c.init)
    = 0xE3069283 := by decide +kernel
/-- The 8b/10b code's comma: K28.5 is 001111 1010 at a negative running disparity and 110000 0101 at a positive one, and D21.5
101010 1010 at both. -/
theorem test_symbols : (Symbol.idle.code false = (0b0011111010, true) ∧ Symbol.idle.code true = (0b1100000101, false)) ∧
    (Symbol.data 0xB5).code false = (0b1010101010, false) ∧ (Symbol.data 0xB5).code true = (0b1010101010, true) := by decide
/-- IEEE 754: 1 + 1 = 2; 1/3 and the root of 2 round to nearest, inexact; the smallest subnormal halves to 0 by ties to even. -/
theorem test_float : fpAdd .rne (fpOf 0x3F800000) (fpOf 0x3F800000) = (0x40000000, 0) ∧
    fpDiv .rne (fpOf 0x3F800000) (fpOf 0x40400000) = (0x3EAAAAAB, fpInexact) ∧
    fpSqrt .rne (fpOf 0x40000000) = (0x3FB504F3, fpInexact) ∧
    fpMul .rne (fpOf 0x00000001) (fpOf 0x3F000000) = (0, fpInexact ||| fpUnderflow) := by decide
/-- No word spells a command: the table gives no row any bits. -/
theorem test_no_word : decodeTableWord 32 0 = none := rfl

/-! ### Witnesses -/

/-- The state after reset with registers at other values. -/
def tRegs (l : List (Nat × Word)) : State := { State.reset with regs := (0x000028, 0x40000000) :: l }

/-- Every core runs. -/
def tRun : State := tRegs [(R.DR_CORE_RUN_A.off, 0xFFFFFFFF), (R.DR_CORE_RUN_B.off, 0xFFFFFFFF)]

/-- A task, and every core running with task 0 dispatched to cores 0 and 63. -/
def tTask (st : TaskSt) (kind : Nat) : Task := { gen := 1, kind := kind, family := 5, source := 0, hint := 0, prio := 0, args := [], st := st }
def tHold (kind : Nat) : State :=
  { tRun with cores := [(0, { task := some 0 }), (63, { task := some 0 })], ditch := { pool := [(0, some (tTask .dispatched kind))] } }

/-- XhnkLaneResults, XhnkBlendResults: the first core and the last. -/
theorem witness_core_ready : tRun.coreReady 0 = true ∧ tRun.coreReady 63 = true := by decide

/-- XhnkIllegalTraps: each clause, at its first word outside the encodings. -/
theorem witness_illegal : (0x0200200B % 128 = 0x0B ∧ ¬(0x0200200B / 2 ^ 25 = 0 ∨
      (0x0200200B / 2 ^ 25 = 1 ∧ 0x0200200B / 2 ^ 12 % 8 ≤ 1 ∧ 0x0200200B / 2 ^ 20 % 32 = 0))) ∧
    (0x0000102B % 128 = 0x2B ∧ ¬(0x0000102B / 2 ^ 12 % 8 = 0 ∧ 0x0000102B / 2 ^ 25 % 4 ≤ 1)) ∧
    (0x0400002B % 128 = 0x2B ∧ ¬(0x0400002B / 2 ^ 12 % 8 = 0 ∧ 0x0400002B / 2 ^ 25 % 4 ≤ 1)) := by decide

/-- DispatchCsrs: a core with its task, one without. -/
theorem witness_dispatch_csrs : (tHold 0).coreReady 63 = true ∧ ((tHold 0).core 63).task = some 0 ∧
    (tHold 0).task 0 = some (tTask .dispatched 0) ∧ (tRun.core 63).task = none ∧ (tRun.core 63).intCause = none ∧
    tRun.fget R.DR_CTRL_dispatch_enable = 0 ∧ tRun.byHandle ((tRun.core 63).xr 31).toNat = none ∧ tRun.quiet := by decide

/-- CorePostsAndCancels: x1 of core 0 holds a PERIODIC source word, a reserved kind, or the handle of a waiting task. -/
def tPost (w : Word) (pool : List (Nat × Option Task)) : State :=
  { tRun with cores := [(0, { x := [(1, w)] })], ditch := { pool := pool } }
theorem witness_core_posts :
    (let s := tPost 0x00054000 [];
      s.coreReady 0 = true ∧ s.quiet ∧ postWordOk ((s.core 0).xr 1) = true ∧ getBits ((s.core 0).xr 1) 15 14 ≠ 0 ∧
        0 < s.poolFree ∧ s.fget R.DR_POOL_CFG_host_reserve ≤ s.poolFree) ∧
    (let s := tPost 0x0000C000 [];
      postWordOk ((s.core 0).xr 1) = false ∧ (s.rg R.DR_POST_REFUSED_COUNT.off).toNat + 1 < 0xFFFFFFFF) ∧
    (let s := tPost 0x00010000 [(0, some (tTask .waiting 1))];
      s.byHandle ((s.core 0).xr 1).toNat = some (0, tTask .waiting 1)) := by decide

/-- TaskRetires: a dispatched ONE_SHOT of a core's, one that the active has named late; a core with no task. -/
theorem witness_task_retires : (tHold 0).coreReady 0 = true ∧ (tHold 0).quiet ∧ (tHold 0).ditch.draining = [] ∧
    ((tHold 0).core 0).task = some 0 ∧ (tHold 0).task 0 = some (tTask .dispatched 0) ∧ (tTask .dispatched 0).kind = 0 ∧
    (tTask .dispatched 0).host = none ∧ ((tHold 0).core 1).task = none ∧ (tHold 0).shadows = false ∧
    (let h := knownHandle (tTask .dispatched 0) 0
      let s : State := { tHold 0 with tandem := { started := true, received := [⟨0x09, 0, [h]⟩] } };
      (s.shadows && ((s.heard 0x09).flatMap (fun r => r.body)).contains h) = true ∧ s.frameBound (tTask .dispatched 0) = true ∧
        (tTask .dispatched 0).frame = s.evalFrame ∧ (tTask .dispatched 0).late = false ∧
        (s.rg R.DR_CUE_LATE_COUNT.off).toNat + 1 < 0xFFFFFFFF) := by decide

/-- DispatchGivesHead: core 31 waits, cluster B is in service, the affinity window is 0. -/
theorem witness_dispatch :
    let s : State := { tRegs [(R.DR_CTRL_dispatch_enable.off, 0xFFFFFFFF), (R.UPD_REACH_STATUS_clusters.off, 2 <<< R.UPD_REACH_STATUS_clusters.lo)] with
      cores := [(31, { waiting := some 31 })]
      ditch := { pool := [(0, some (tTask .ready 0))], ready := [(readyKey 0 0, [0])], waiting := [31] }
      tables := [(tableKey 0x47 0, [(0, 0)])] }
    s.dispatchOn = true ∧ s.clusterOut 0 = false ∧ s.clusterOut 1 = true ∧
      s.ditch.waiting.find? (fun k => clusterOf k == 0) = some 31 ∧ (s.core 31).waiting = some 31 ∧ s.readyList 0 0 = [0] ∧
      s.task 0 = some (tTask .ready 0) ∧ bits (s.tword 0x47 0 0) 4 0 = 0 := by decide

/-- AliasStores: the last byte, halfword and word of a pool. -/
theorem witness_alias : (0x7FFFFF % 1 = 0 ∧ 0x7FFFFE % 2 = 0 ∧ 0x7FFFFC % 4 = 0) ∧ tRun.coreReady 63 = true ∧
    tRun.mem.badPools = [] := by decide

/-- CoreStoresToUnits: values 1 and 0; the last halfword of the window; a task of the frame in evaluation, one of another and a late
one. -/
theorem witness_core_stores :
    (let s := tPost 1 [];
      (s.core 0).xr 1 = 1 ∧ (s.core 0).xr 2 = 0 ∧ s.coreReady 0 = true) ∧
    0xFFFFFE % 2 = 0 ∧ ((tHold 0).core 0).task = some 0 ∧ (tTask .dispatched 0).frame = (tHold 0).evalFrame ∧ (tTask .dispatched 0).late = false ∧
    { tTask .dispatched 0 with late := true }.late = true ∧
    (tHold 0).quiet ∧ ((tHold 0).rg R.PF_CUE_MERGE_COUNT.off).toNat + 1 < 0xFFFFFFFF ∧
    ((tHold 0).rg R.DR_LATE_WRITE_COUNT.off).toNat + 1 < 0xFFFFFFFF ∧
    { tTask .dispatched 0 with frame := 1 }.frame ≠ (tHold 0).evalFrame := by decide

/-- CoreRunAndScrub: core 31 is let run. -/
theorem witness_core_run : State.reset.canWrite .host R.DR_CORE_RUN_A.off ∧ State.reset.domOn .sys = true ∧
    State.reset.ditch.draining = [] ∧ State.reset.quiet ∧
    (∀ n, n < 32 → (State.reset.rg R.DR_CORE_RUN_A.off).getLsbD n = true → (0x80000000 : Word).getLsbD n = true) ∧
    State.reset.domOn .coreA = true ∧ State.reset.domOn .coreB = true ∧
    getBits ((State.reset.core 63).csrr csrMstatus) 3 3 = 0 ∧ State.reset.mayCount (R.DR_ECC_CORRECTED_COUNT.off 1) :=
  ⟨trivial, by decide, rfl, by decide, by decide, by decide, by decide, by decide, by unfold State.mayCount; decide⟩

/-- CoreMemory: a core whose pc is the last word of its instructions, with an ADD or an `hk.addsu` there. -/
def tCode (w : Nat) : State :=
  { tRun with
    cores := [(63, { pc := 0xFFFC })]
    mem := { pads := (List.range 4).map (fun i => (63 * 2 ^ 21 + 0xFFFC + i, BitVec.ofNat 8 (w / 256 ^ i))) } }
theorem witness_core_runs : ∀ op ∈ [0x33, 0x0B], let w := op + 2 ^ 7 * 31 + 2 ^ 15 * 1 + 2 ^ 20 * 31
    let s := tCode w
    s.coreReady 63 = true ∧ s.quiet ∧ (0xFFFC : Word) = (s.core 63).pc ∧ 0xFFFC % 2 = 0 ∧ 0xFFFC + 4 ≤ 0x10000 ∧ s.mem.badPads = [] ∧
      memNat s.mem.pads (63 * 2 ^ 21 + 0xFFFC) 4 = w ∧ (s.rg (R.DR_ECC_CORRECTED_COUNT.off 1)).toNat + 1 < 0xFFFFFFFF := by decide

/-- CoreMemory: the ends of the data scratchpad, of the pool, and of what is above the map. -/
theorem witness_core_memory : tRun.coreReady 63 = true ∧ tRun.mem.badPads = [] ∧ tRun.mem.badPools = [] ∧ tRun.quiet ∧
    (0x100000 % 4 = 0 ∧ 0x11FFFC < 0x120000 ∧ 0x11FFFC % 4 = 0) ∧ (0x107FFFFC < 0x10800000 ∧ 0x107FFFFC % 4 = 0) ∧
    (0xC0000000 ≤ 0xFFFFFFFC ∧ 0xFFFFFFFC % 4 = 0) := by decide

/-- FlumeComputes, FlumeJumps: a port's context that runs the program word `w`, on ports 0 and 255, with a count in g1, and the
fields of a word. -/
def tFlow (n : Word) (line : Nat) (w : Nat := 0) : State :=
  let p : Port := { entry := [0x80000000 + line * 2 ^ 28], flow := { g := [(1, n)], running := true } }
  let f : Flume := { slices := [sliceOf 0, sliceOf 31], loaded := [(0, 4)] }
  let l : List (Nat × Byte) := (List.range 4).map (fun i => (i, BitVec.ofNat 8 (w / 256 ^ i)))
  { tRegs [(R.FL_CTRL_output_enable.off, 0xFFFFFFFF)] with
    die := { ports := [(0, p), (255, p)], flumes := [(0, f), (7, f)] }, tables := [(tableKey 0x40 0, l), (tableKey 0x40 7, l)] }
def tFl (op d a b imm : Nat) : Nat := op * 2 ^ 26 + d * 2 ^ 22 + a * 2 ^ 18 + b * 2 ^ 14 + imm
theorem witness_flow :
    (∀ p ∈ [0, 255],
      (∀ op ∈ [0x00, 0x1C], (tFlow 1 1 (tFl op 0 0 0 0)).flowLive p (isOpWord op) = true) ∧
      (∀ op ∈ [0x01, 0x02], (tFlow 1 1 (tFl op 15 0 3 16383)).flowLive p (isLoad op 15 65535) = true) ∧
      (∀ op ∈ [3, 4, 5, 6, 7, 8, 9, 0x0B, 0x0C, 0x0D], (tFlow 1 1 (tFl op 15 15 15 0)).flowLive p (isDAB op 15 15 15) = true) ∧
      (tFlow 1 1 (tFl 0x0A 15 15 0 16383)).flowLive p (isDAI 0x0A 15 15 16383) = true ∧
      (∀ op ∈ [0x15, 0x16, 0x1B], ∀ i ∈ [5, 6, 8, 15, 0x2FFF], (tFlow 1 1 (tFl op 1 0 0 i)).flowLive p (isDI op 1 i) = true) ∧
      (tFlow 1 1 (tFl 0x18 0 0 0 0x2FFF)).flowLive p (isI 0x18 0x2FFF) = true ∧
      ∀ op ∈ [0x19, 0x1A], (tFlow 1 1 (tFl op 0 1 0 0x2FFF)).flowLive p (isAI op 1 0x2FFF) = true) ∧
    (tFlow 1 1).quiet ∧ 0x2FFF < 0x3000 := by decide

/-- FlumeOutfall: the counts at the ends of their ranges, an empty outfall, an exhausted intake. -/
theorem witness_outfall :
    (∀ op ∈ [0x11, 0x12], (tFlow 1 1 (tFl op 0 1 1 0)).flowLive 0 (isAB op 1 1) = true) ∧
    (tFlow 1 1 (tFl 0x10 15 0 0 0)).flowLive 0 (isD 0x10 15) = true ∧
    (tFlow 1 1 (tFl 0x13 15 1 1 0)).flowLive 0 (isDAB 0x13 15 1 1) = true ∧
    (tFlow 1 1 (tFl 0x14 0 0 0 0)).flowLive 0 (isI 0x14 0) = true ∧
    (tFlow 1 1 (tFl 0x17 0 1 0 15)).flowLive 0 (isAI 0x17 1 15) = true ∧
    (∀ m ∈ [1, 5], (tFlow 1 m (tFl 0x1D 0 0 0 0)).flowLive 0 (isOpWord 0x1D) = true ∧
      decide (peMode ((tFlow 1 m).port 0).ent = mEXPERT) = decide (m = 5)) ∧
    (let s := tFlow 1 1;
      ((s.port 0).flow.acc < 2 ^ (s.port 0).flow.accBits ∧ (s.port 0).flow.accBits < 8) ∧ (s.port 0).flow.moved = 0 ∧
        (s.port 0).flow.intake < (s.port 0).intakeLen + 1 ∧ 1 ≤ ((s.port 0).flow.reg 1).toNat % 32 ∧ outfallLen (s.port 0).flow + 1 ≤ 131072 ∧ peLine (s.port 0).ent ≠ mFURROW) ∧
    (((tFlow 16 1).port 0).flow.reg 1).toNat % 32 = 16 ∧ (((tFlow 32 1).port 0).flow.reg 1).toNat % 64 = 32 := by decide

/-- FlumeFaults: reserved codes, an address outside, counts below and above their range, an undefined operation. -/
theorem witness_flow_faults : 2 < 3 ∧ 0x3000 ≤ 0x3FFF ∧ (((tFlow 0 1).port 0).flow.reg 1).toNat % 32 = 0 ∧
    16 < (((tFlow 17 1).port 0).flow.reg 1).toNat % 32 ∧ 32 < (((tFlow 33 1).port 0).flow.reg 1).toNat % 64 ∧
    (0x38000000 : Word).toNat / 2 ^ 26 = 0x0E ∧ (0x3C000000 : Word).toNat / 2 ^ 26 = 0x0F ∧ 0x1E < (0x7C000000 : Word).toNat / 2 ^ 26 ∧
    (tFlow 1 1).portFlume 255 = 255 / 32 ∧ peMode ((tFlow 1 1).port 255).ent ≠ mREST ∧ (0x80000000 : BitVec 32).getLsbD 31 = true := by
  decide

/-- StepRunsFront, IdleStepTicks, and the premises of the statements about every step. -/
theorem witness_step : ({ State.reset with pending := [.nop, .wakeN] } : State).pending = .nop :: [.wakeN] ∧
    State.reset.pending = [] ∧ State.reset.time.tendRunning = false := by decide
theorem witness_step_wf : State.reset.wf = true ∧ step State.reset = .next State.reset.tick := ⟨by decide, rfl⟩
theorem witness_life : lifeBit State.reset.fuses 2 = false ∧ lifeBit { State.reset.fuses with life := 0x40 } 2 = true ∧
    State.reset.lifecycle ≤ 2 := by decide

/-- FabricControls. -/
theorem witness_fabric : State.reset.quiet ∧ State.reset.mayWrite .host (R.PF_FADEQ_TAIL.off 63) ∧
    (1024 % 2048 + 2048 - State.reset.fget R.PF_FADEQ_HEAD_head 63) % 2048 ≤ 1024 ∧
    1024 < (1025 % 2048 + 2048 - State.reset.fget R.PF_FADEQ_HEAD_head 63) % 2048 ∧
    State.reset.mayCount R.PF_FADEQ_OVERFLOW_COUNT.off ∧ State.reset.mayWrite .host R.PF_CTRL.off ∧
    State.reset.mayWrite .host R.CMP_CTRL.off ∧ State.reset.mayWrite .host R.CLR_CTRL.off ∧
    State.reset.mayWrite .host R.CLR_TABLE_BASE.off ∧ State.reset.fbit R.CLR_CTRL_colour_enable = false ∧
    State.reset.mayWrite .host R.WM_CTRL.off ∧ State.reset.mayWrite .host R.WM_LEG_ACK.off ∧
    State.reset.mayWrite .host R.FUR_CTRL.off ∧ (0 : Word).getLsbD 31 = false ∧ (0 : Word).getLsbD 0 = false ∧
    peLine ((tFlow 1 2).port 255).ent = mFURROW :=
  ⟨by decide, ⟨trivial, by decide⟩, by decide, by decide, by unfold State.mayCount; decide, ⟨trivial, by decide⟩, ⟨trivial, by decide⟩,
    ⟨trivial, by decide⟩, ⟨trivial, by decide⟩, by decide, ⟨trivial, by decide⟩, ⟨trivial, by decide⟩, ⟨trivial, by decide⟩,
    by decide, by decide, by decide⟩

/-- NetAndTimeControls: the last MAC, with `rx_pause` and without, base and gate; a queue entry each; a pulse that starts now. -/
theorem witness_net_time :
    let e : TsEntry := {}
    let s : State := { tRegs [(R.TIM_GATE_WIDTH_NS.off 7, 8), (R.NET_WEIR.off 3, 1 <<< R.NET_WEIR_high_weir.lo)] with net := { macs := [(3, { tsq := [e] })] }, time := { tally := [{}] } }
    s.quiet ∧ s.mayWrite .host (R.NET_MAC_CFG.off 3) ∧ s.live_.netEnds = [] ∧ (s.mac 3).txq = [] ∧ s.rxCells 3 ≤ 8192 ∧
      (s.fbit R.NET_MAC_STATUS_wd_tx 3 = false ∧ s.fbit R.NET_MAC_STATUS_pausing 3 = false ∧
        s.occupancy 3 < s.fget R.NET_WEIR_high_weir 3 ∧ s.fbit R.NET_MAC_CFG_enable 3 = false) ∧ s.mayWrite .host (R.NET_TSQ_POP.off 3) ∧ (s.mac 3).tsq = e :: [] ∧
      (s.mac 3).tsqGap = 0 ∧ s.mayWrite .host R.TIM_CAPTURE.off ∧ s.mayWrite .host R.TIM_TALLY_POP.off ∧
      s.time.tally = {} :: [] ∧ s.time.tallyGap = 0 ∧ s.mayWrite .host (R.TIM_GATE_CFG.off 7) ∧
      getBits 0xB8000000 30 29 = 1 ∧ 8 ≤ s.fget R.TIM_GATE_WIDTH_NS 7 ∧ s.reading (getBits 0xB8000000 28 27) ≤ 0 ∧
      s.mayWrite .host R.BSN_BCAST_POP.off ∧ s.basin.bcast.length ≤ 16 ∧
      (0x04000000 : Word).getLsbD 26 = true ∧ (0xFBFFFFFF : Word).getLsbD 26 = false :=
  ⟨by decide, ⟨trivial, by decide⟩, rfl, by decide, by decide, by decide, ⟨trivial, by decide⟩, by decide, by decide,
    ⟨trivial, by decide⟩, ⟨trivial, by decide⟩, rfl, rfl, ⟨trivial, by decide⟩, by decide, by decide, by decide,
    ⟨trivial, by decide⟩, by decide⟩

/-- GaugeAndSiltRegisters: the last Gauge with source software and enabled; the last entry of the trap taken. -/
theorem witness_gauge_silt :
    let s : State := { tRegs [(R.GA_CFG.off 15, 1 <<< R.GA_CFG_source.lo ||| 1 <<< R.GA_CFG_enable.lo)] with
      silt := { entries := [(1023, { st := 1 })] } }
    s.quiet ∧ s.fget R.GA_CFG_source 15 = 1 ∧ s.fbit R.GA_CFG_enable 15 = true ∧ s.inWatch = false ∧ s.fget R.GA_CFG_compare 15 = 0 ∧
      s.mayWrite .host (R.GA_RUN.off 15) ∧ s.mayWrite .host (R.GA_DATA.off 15) ∧ s.mayWrite .host (R.GA_DATA8.off 15) ∧
      s.mayWrite .host (R.GA_FINISH.off 15) ∧ s.mayWrite .host R.SLT_ACK.off ∧ (s.entry 1023).st ≠ 0 :=
  ⟨by decide, by decide, by decide, by decide, by decide, ⟨trivial, by decide⟩, ⟨trivial, by decide⟩, ⟨trivial, by decide⟩,
    ⟨trivial, by decide⟩, ⟨trivial, by decide⟩, by decide⟩

/-- GaugeAndSiltRegisters: a unit that is disabled, and the device in WATCH. -/
theorem witness_gauge_off :
    (let s := tRegs [(R.GA_CFG.off 15, 1 <<< R.GA_CFG_source.lo)];
      s.fget R.GA_CFG_source 15 = 1 ∧ s.fbit R.GA_CFG_enable 15 = false) ∧
    (let s := tRegs [(R.GA_CFG.off 15, 1 <<< R.GA_CFG_source.lo ||| 1 <<< R.GA_CFG_enable.lo), (R.PM_STATE.off, 2 <<< R.PM_STATE_state.lo)];
      s.inWatch = true) := by decide

/-- RegisterWrites: the ends of what is discarded and of what no table names. -/
theorem witness_register_writes : State.reset.quiet ∧ State.reset.mayWrite .host R.GLB_SCRATCH.off ∧
    State.reset.domOn .sys = true ∧ State.reset.mayCount R.GLB_ACCESS_ERR_COUNT.off ∧
    ((3 : Fin 9) ≠ 4 ∧ 0x000029 % 4 ≠ 0 ∧ ({ State.reset with domains := 0xDFF } : State).offDomain R.TIM_CAPTURE.off = true) ∧
    (0x1D0000 % 4 = 0 ∧ State.reset.offDomain 0x1D0000 = false ∧ 0x1D0000 ≤ 0x1D0000) ∧ findReg 0x00FFFC = none :=
  ⟨by decide, ⟨trivial, by decide⟩, by decide, by unfold State.mayCount; decide, by decide, by decide, by decide⟩

/-- PairAccesses: a half is held. -/
theorem witness_pairs :
    let s : State := { State.reset with heldHi := [(pairKey .host R.SLC_OP_ADDR_HI.off, some 5)] }
    s.quiet ∧ s.mayWrite .host R.SLC_OP_ADDR_HI.off ∧ s.mayWrite .host R.SLC_OP_ADDR_LO.off ∧ s.domOn .net = true ∧
      s.hiHeld .host R.SLC_OP_ADDR_HI.off = some 5 :=
  ⟨by decide, ⟨trivial, by decide⟩, ⟨trivial, by decide⟩, by decide, by decide⟩

/-- ReadsAndManagementPort: the random generator ready and not; PEC asked for and not; the read address at GLB_SCRATCH. -/
theorem witness_reads :
    State.reset.quiet ∧ State.reset.domOn .tend = true ∧ State.reset.domOn .net = true ∧ State.reset.domOn .sluice = true ∧
    State.reset.fbit R.SLC_STATUS_drbg_ready = false ∧
    (tRegs [(R.SLC_STATUS_drbg_ready.off, 1 <<< R.SLC_STATUS_drbg_ready.lo)]).fbit R.SLC_STATUS_drbg_ready = true ∧
    (tRegs [(R.PM_SMB_CFG.off, 1 <<< R.PM_SMB_CFG_smb_pec.lo)]).fbit R.PM_SMB_CFG_smb_pec = true ∧
    State.reset.fbit R.PM_SMB_CFG_smb_pec = false ∧
    ({ State.reset with power := { smbRead := R.GLB_SCRATCH.off } } : State).power.smbRead = R.GLB_SCRATCH.off ∧
    State.reset.domOn .sys = true ∧ State.reset.pmState ≠ 3 :=
  ⟨by decide, by decide, by decide, by decide, by decide, by decide, by decide, by decide, by decide, by decide, by decide⟩
theorem witness_smbus_scratch : State.reset.mayWrite .smbus R.GLB_SCRATCH.off :=
  ⟨(by decide : State.reset.smbMay true R.GLB_SCRATCH.off = true), by decide⟩

/-- RailSequence: rails that wait with none and with one present, a retry, the first and the last rail, the second and the
third late power-good, and trainings in a start from WATCH, one tried already and one tried twice. -/
theorem witness_rails :
    (let s : State := { State.reset with power := { waitRail := true, pgs := 0, enables := 0 } };
      s.quiet ∧ s.power.waitRail = true ∧ s.power.pgs = 0) ∧
    (let s : State := { State.reset with power := { waitRail := true, pgs := 8, enables := 0 } };
      s.power.pgs ≠ 0 ∧ s.mayCount R.PM_RAIL_FAIL_COUNT.off) ∧
    (let s : State := { State.reset with power := { retry := true, enables := 9, pgs := 0, lates := 1 } };
      s.power.retry = true ∧ s.power.enables.getLsbD 0 = true ∧ s.power.enables.getLsbD 3 = true ∧ s.power.pgs.getLsbD 0 = false ∧
        s.power.pgs.getLsbD 3 = false ∧ s.power.lates < 2) ∧
    State.reset.time.tendRunning = false ∧
    (∀ tries : Fin 3, let s : State := { State.reset with power := { start := 2, trained := false, lates := 2, tries := tries.val } };
      s.power.start = 2 ∧ s.domOn .res = true ∧ s.power.trained = false ∧ s.power.heatAt = none ∧ 2 ≤ s.power.lates ∧
        (s.power.tries < 2 ↔ tries ≠ 2)) :=
  ⟨⟨by decide, rfl, rfl⟩, ⟨by decide, by unfold State.mayCount; decide⟩, by decide, rfl, by decide⟩

/-- ColdResets: rails 0 and 3 present, brown-out reset enabled. -/
theorem witness_cold : State.reset.power.enables.getLsbD 0 = true ∧ State.reset.power.pgs.getLsbD 3 = true ∧
    (tRegs [(R.PM_CTRL.off, 1 <<< R.PM_CTRL_brownout_reset.lo)]).fbit R.PM_CTRL_brownout_reset = true := by decide

/-- A descriptor in ring `r` with some words, fetched and next; the ring in host memory runs. -/
def tDesc (r : Nat) (w : List Word) : Fetched := { ring := r, words := w, target := 1 }
def tNext (r : Nat) (w : List Word) : State :=
  { tRegs [(R.HOST_RING_CFG.off r, 1 <<< R.HOST_RING_CFG_enable.lo), (R.HOST_RING_STATUS.off r, BitVec.ofNat 32 (rRunning * 2 ^ R.HOST_RING_STATUS_state.lo))] with
    rings := { inbox := [tDesc r w] } }
def tOp (op : Nat) : Word := BitVec.ofNat 32 (op * 2 ^ 24)

theorem next_of (r : Nat) (w : List Word) (op : Nat) (h : (tNext r w).next = some (tDesc r w, [])) (h1 : dOpcode w = op)
    (h2 : commonOk w = true) (h3 : (tNext r w).opDenied op = false) : (tNext r w).NextDesc (tDesc r w) [] op := ⟨h, h1, h2, h3⟩

/-- DescriptorsWait. A form V of 16 values that ends at the last slot, a layer, a commit of everything, both ends of a reach of
cluster B, a task, a receive buffer of 256 bytes, a frame of 60 bytes in the Reservoir, and an RDM request on the last port. -/
theorem witness_waits :
    (tNext 31 [tOp 5, 0, 0, 0, 0]).NextDesc (tDesc 31 [tOp 5, 0, 0, 0, 0]) [] 5 ∧ formVOk [tOp 5, 0, 0, 0, 0] = true ∧
    (tNext 31 []).onTime (tDesc 31 []) ∧ (tNext 31 []).domOn .pix = true ∧ (tNext 31 []).quiet ∧
    (tNext 0 [tOp 4]).NextDesc (tDesc 0 [tOp 4]) [] 4 ∧ formLOk [tOp 4] = true ∧ (tNext 0 [tOp 4]).targetStatus scCanvas 0 = none :=
  ⟨next_of _ _ _ (by decide) (by decide) (by decide) (by decide), by decide, Or.inr (by decide), by decide, by decide,
    next_of _ _ _ (by decide) (by decide) (by decide) (by decide), by decide, by decide⟩
theorem witness_waits_reach :
    (let w := [tOp 0x0D, 0, 0, 0, 0x09000001, 1];
      (tNext 0 w).NextDesc (tDesc 0 w) [] 0x0D ∧ reachOk w = true ∧ (tNext 0 w).domOn (scopeDomain (cKind w) (cIndex w)) = true ∧
        cArg w % 2 = 1 ∧ (tDesc 0 w).busy = false) ∧
    (let w := [tOp 0x06];
      (tNext 0 w).NextDesc (tDesc 0 w) [] 0x06 ∧ formTOk w = true ∧ tHandle w = 0) ∧
    (let w := [tOp 0x08, 0, 0, 0, 0, 0, 256, 0x00070003];
      (tNext 0 w).NextDesc (tDesc 0 w) [] 0x08 ∧ formAOk w = true ∧ aInst w < 4 ∧ aClass w = 7 ∧ 256 ≤ aLength w ∧
        (tNext 0 w).targetStatus scNet (aInst w) = none ∧ aScatter w = false) ∧
    (let w := [tOp 0x09, 0, 0, 0, 0, 0, 60, 0x00000003, 0, 1, 1];
      (tNext 0 w).NextDesc (tDesc 0 w) [] 0x09 ∧ formAOk w = true ∧ aClass w < 8 ∧ 60 ≤ txBytes w ∧ txBytes w ≤ 9212 ∧ aWhen w ≠ 0 ∧
        (tNext 0 w).operandOk {} w) :=
  ⟨⟨next_of _ _ _ (by decide) (by decide) (by decide) (by decide), by decide, by decide, by decide, by decide⟩,
    ⟨next_of _ _ _ (by decide) (by decide) (by decide) (by decide), by decide, by decide⟩,
    ⟨next_of _ _ _ (by decide) (by decide) (by decide) (by decide), by decide, by decide, by decide, by decide, by decide,
      by decide⟩,
    ⟨next_of _ _ _ (by decide) (by decide) (by decide) (by decide), by decide, by decide, by decide, by decide, by decide,
      ⟨by decide, by decide⟩⟩⟩
theorem witness_waits_end :
    let w := [tOp 0x0D, 0, 0, 0, 0x09000001, 0]
    let s := tNext 0 w
    let g := s.flightOf (tDesc 0 w) 1
    let u := s.withFlight [] g
    cArg w % 2 = 0 ∧ u.endRefusal { g with upTo := u.stageLatest } (u.stageInto (u.taken (cKind w) (cIndex w) u.stageLatest)).live
      (u.taken (cKind w) (cIndex w) u.stageLatest) = none := by decide
theorem witness_waits_commit :
    let w := [tOp 0x03, 0, 0, 0, 0x03000000, 0]
    let s := tNext 0 w
    let g := s.flightOf (tDesc 0 w) 1
    let u := s.withFlight [] g
    s.NextDesc (tDesc 0 w) [] 0x03 ∧ commitOk w = true ∧ s.inService (cKind w) (cIndex w) = false ∧
      s.domOn (scopeDomain (cKind w) (cIndex w)) = true ∧
      u.commitRefusal (u.stageInto (u.taken (cKind w) (cIndex w) u.stageLatest)).live
        (u.taken (cKind w) (cIndex w) u.stageLatest) (cKind w) (cIndex w) = none :=
  ⟨next_of _ _ _ (by decide) (by decide) (by decide) (by decide), by decide, by decide, by decide, by decide +kernel⟩
/-- DescriptorsWait: an RDM request of 24 bytes, in the Reservoir, for port 255, which has a DMX line with RDM. -/
theorem witness_waits_rdm :
    let w := [tOp 0x0A, 0, 0, 0, 0, 0, 260, 0x000000FF, 0, 1]
    let s : State := { tNext 0 w with die := { ports := [(255, { entry := [0x94000000] })] }, mem := { reservoir := [(0, 0xCC), (2, 24)] } }
    s.next = some (tDesc 0 w, []) ∧ dOpcode w = 0x0A ∧ commonOk w = true ∧ s.opDenied 0x0A = false ∧ formAOk w = true ∧ aInst w < 256 ∧ aClass w ≤ 2 ∧
      aOffset w = 0 ∧ 260 ≤ aLength w ∧ peLine (s.port 255).ent = mDMX ∧ peRdm (s.port 255).ent = true ∧
      s.targetStatus scLateral (255 / 32) = none ∧ aSpace w = 1 ∧ aScatter w = false ∧ s.resOk (aAddr w) (aLength w) = true ∧
      memByte s.mem.reservoir 0 = 0xCC ∧ memByte s.mem.reservoir 2 = 24 := by decide

/-- TransfersMove: each of them with an operand in the Reservoir, an update of both slots among them. -/
theorem witness_transfers :
    (let w := [tOp 0x01, 0, 0, 0, 0, 0, 4, 0x00020000, 0, 1];
      (tNext 0 w).NextDesc (tDesc 0 w) [] 0x01 ∧ formAOk w = true ∧ (tNext 0 w).tableRefusal true w = none ∧
        (tNext 0 w).stagedBytes + aLength w ≤ stagingSize ∧ (tNext 0 w).domOn .res = true ∧ (tNext 0 w).operandOk {} w) ∧
    (let w := [tOp 0x02, 0, 0, 0, 0, 0, 4, 0x00020000, 0, 0];
      (tNext 0 w).NextDesc (tDesc 0 w) [] 0x02 ∧ (tNext 0 w).tableRefusal false w = none ∧ (tNext 0 w).operandOk {} w ∧
        (tNext 0 w).targetStatus ((tNext 0 w).scopeOf (aClass w) (aInst w)).1 ((tNext 0 w).scopeOf (aClass w) (aInst w)).2 = none) ∧
    (let w := [tOp 0x0B, 0, 0, 0, 0, 0, 64];
      (tNext 0 w).NextDesc (tDesc 0 w) [] 0x0B ∧ dw w 7 = 0 ∧ dw w 8 = 0 ∧ 64 ≤ aLength w ∧ (tNext 0 w).domOn .net = true) ∧
    (let w := [tOp 0x0E, 0, 0, 0, 0, 0, 4, 0x00000001, 0, 1];
      (tNext 0 w).NextDesc (tDesc 0 w) [] 0x0E ∧ (tNext 0 w).chunkRefusal w = none ∧ aClass w = 0) ∧
    (let w := [tOp 0x0E, 0, 0, 0, 0, 0, 4, 0x00020000, 0, 1];
      (tNext 0 w).NextDesc (tDesc 0 w) [] 0x0E ∧ (tNext 0 w).chunkRefusal w = none ∧ aClass w = 2) :=
  ⟨⟨next_of _ _ _ (by decide) (by decide) (by decide) (by decide), by decide, by decide, by decide, by decide, by decide, by decide⟩,
    ⟨next_of _ _ _ (by decide) (by decide) (by decide) (by decide), by decide, ⟨by decide, by decide⟩, by decide⟩,
    ⟨next_of _ _ _ (by decide) (by decide) (by decide) (by decide), by decide, by decide, by decide, by decide⟩,
    ⟨next_of _ _ _ (by decide) (by decide) (by decide) (by decide), by decide, by decide⟩,
    ⟨next_of _ _ _ (by decide) (by decide) (by decide) (by decide), by decide, by decide⟩⟩
theorem witness_counters : let w := [tOp 0x0F, 0, 0, 0, 0, 0, 8844]
    dw w 7 = 0 ∧ dw w 8 = 0 ∧ 4 * (spillTable.map (fun e => e.2.1 * e.2.2)).sum ≤ aLength w := by decide

/-- CompletionsPosted: a ring whose CQ takes entries; NOP, an opcode past the last, one that recovery denies; a task of the host's
that waits. -/
theorem witness_posts : (tNext 31 [tOp 0]).canPost 31 ∧ (tNext 31 [tOp 0]).NextDesc (tDesc 31 [tOp 0]) [] 0 ∧ tailZero [tOp 0] 4 = true ∧
    (tNext 0 [tOp 0x10]).next = some (tDesc 0 [tOp 0x10], []) ∧ 0x0F < dOpcode [tOp 0x10] :=
  ⟨⟨by decide, by decide, by decide, rfl, by decide⟩, next_of _ _ _ (by decide) (by decide) (by decide) (by decide), by decide,
    by decide, by decide⟩
theorem witness_unknown : (tNext 0 [tOp 0x10]).opDenied 0x10 = false ∧
    (tRegs [(R.SLC_STATUS.off, 1 <<< R.SLC_STATUS_recovery.lo)]).opDenied 0x10 = true := by decide
def tFlight (op : Nat) : Flight := { id := 7, ring := 0, words := [tOp op], target := 0, applied := true }
theorem witness_cancels :
    let w := [tOp 7, 0, 0, 0, 0, 0x80000000]
    let v : Task := { tTask .waiting 0 with host := some 7, hostHandle := 0x80000000 }
    let s : State := { tNext 0 w with ditch := { pool := [(0, some v)] }, rings := { inbox := [tDesc 0 w], flight := [tFlight 6] } }
    formTOk w = true ∧ s.byHostHandle (tHandle w) = some (0, v) ∧ v.st = .waiting ∧ v.host = some 7 ∧ s.flight 7 = some (tFlight 6) ∧
      (tFlight 6).basin = false ∧ (tFlight 6).shadow = false := by decide
theorem witness_flights :
    (let s : State := { tNext 0 [] with rings := { flight := [tFlight 1] } };
      s.flight 7 = some (tFlight 1) ∧ s.canPost 0 ∧ dOpcode (tFlight 1).words = 0x01) ∧
    dOpcode (tFlight 0x02).words = 0x02 ∧ dOpcode (tFlight 0x0B).words = 0x0B ∧ dOpcode (tFlight 0x0F).words = 0x0F :=
  ⟨⟨by decide, ⟨by decide, by decide, by decide, rfl, by decide⟩, by decide⟩, by decide, by decide, by decide⟩
theorem witness_event :
    let s : State := { tRegs [(R.HOST_CTRL.off, 1 <<< R.HOST_CTRL_event_enable.lo), (R.HOST_RING_STATUS.off 0, BitVec.ofNat 32 (rRunning * 2 ^ R.HOST_RING_STATUS_state.lo))] with
      rings := { events := [(5, 0)] } }
    s.quiet ∧ s.rings.events = [(5, 0)] ∧ s.fbit R.HOST_CTRL_event_enable = true ∧ s.eventSlot = true ∧
      s.fget R.HOST_CTRL_event_ring = 0 ∧
      (s.ringLive 0 = true ∧ s.ringPlace 0 = 0 ∧ s.hostReach = true ∧ s.pcie.fails = [] ∧ s.isStandby = false) := by decide
theorem witness_moderation :
    let s : State := { tRegs [(R.HOST_CQ_MOD.off 31, 1 <<< R.HOST_CQ_MOD_time_us.lo ||| 1 <<< R.HOST_CQ_MOD_count.lo)] with
      rings := { ring := [(31, { unsignalled := 1 })] }, time := { cycles := 500 }, pcie := { msixOn := true, mask := 0 } }
    s.quiet ∧ s.fget R.HOST_CQ_MOD_time_us 31 ≠ 0 ∧ s.fget R.HOST_CQ_MOD_count 31 ≠ 0 ∧ s.pcie.msixMasked = false ∧ 0 < (s.ring 31).unsignalled ∧
      s.fget R.HOST_CQ_MOD_time_us 31 * 1000 ≤ nsSince s (s.ring 31).unsignalledSince ∧ s.ringPlace 31 = 0 ∧ s.msixReady = true ∧
      s.pcie.mask.getLsbD (s.fget R.HOST_RING_CFG_vector 31) = false := by decide

/-- RingControls: ring 31 disabled and enabled, drained, and polled with nothing new. -/
theorem witness_rings : State.reset.quiet ∧ State.reset.mayWrite .host R.HOST_NUDGE.off ∧ State.reset.mayCount R.HOST_NUDGE_COUNT.off ∧
    State.reset.mayWrite .host (R.HOST_RING_CFG.off 31) ∧
    (let cfg : Word := BitVec.ofNat 32 (4 * 2 ^ R.HOST_RING_CFG_sq_log2.lo + 4 * 2 ^ R.HOST_RING_CFG_cq_log2.lo + 2 ^ 31)
      let u := State.reset.setRg (R.HOST_RING_CFG.off 31) cfg;
      State.reset.fbit R.HOST_RING_CFG_enable 31 = false ∧ State.reset.ringState 31 ≠ rDraining ∧ u.ringAligned 31 = true ∧
        u.ringPlaced 31 = true) :=
  ⟨by decide, ⟨trivial, by decide⟩, by unfold State.mayCount; decide, ⟨trivial, by decide⟩, by decide⟩
theorem witness_drain :
    let s := tRegs [(R.HOST_RING_STATUS.off 31, BitVec.ofNat 32 (rDraining * 2 ^ R.HOST_RING_STATUS_state.lo))]
    s.ringState 31 = rDraining ∧ s.reserved 31 = 0 ∧ s.engineOn = true ∧ s.hostReach = true ∧ s.rings.inbox = [] ∧
      (tNext 31 []).fbit R.HOST_RING_CFG_enable 31 = true ∧ (tNext 31 []).ringState 31 = rRunning ∧
      (∀ n, n < 32 → State.reset.ringLive n = false) := by decide

/-- MessagesAndBar2: messages on with vector 0 clear and vector 63 masked, a source pending; the function masked; no messages; a start
that has yet to reach SHOW, and PD_HOST off; the last bytes of the Cistern and the first beyond, a byte in a buffer of output 1, and
PD_CISTERN off. -/
theorem witness_messages :
    (let s : State := { tRegs [(R.GLB_IRQ_STATUS_source.off, 0x2001)] with
        pcie := { msixOn := true, linkUp := true, mask := 0x8000000000000000 } };
      s.quiet ∧ s.mayWrite .host R.GLB_IRQ_TEST.off ∧ s.msixReady = true ∧ s.pcie.mask.getLsbD 0 = false ∧
        s.pcie.mask.getLsbD 63 = true ∧ s.domOn .host = true ∧ (s.rg R.GLB_IRQ_STATUS_source.off).getLsbD 0 = true ∧
        (s.rg R.GLB_IRQ_STATUS_source.off).getLsbD 13 = true ∧ s.configReady = true ∧ s.pcie.msixMasked = false) ∧
    ({ State.reset with pcie := { msixMasked := true } } : State).pcie.msixMasked = true ∧ State.reset.power.start = 0 ∧
    State.reset.msixReady = false ∧
    (let s : State := { State.reset with power := { start := 4 } };
      s.domOn .host = true ∧ s.configReady = false ∧ s.power.start ≠ 0 ∧ s.power.start ≠ 5) ∧
    ({ State.reset with domains := 0xBFF } : State).domOn .host = false :=
  ⟨⟨by decide, ⟨trivial, by decide⟩, by decide, by decide, by decide, by decide, by decide, by decide, by decide, by decide⟩,
    by decide, by decide, by decide, by decide, by decide⟩
theorem witness_bar2 :
    (let s : State := { State.reset with tables := [(tableKey 0x14 1, [(3, 0x80), (4, 16), (6, 16)])] };
      s.quiet ∧ s.domOn .cistern = true ∧ (s.rg R.RAS_BAR2_DROP_COUNT.off).toNat + 1 < 0xFFFFFFFF ∧
        s.inBuffer (cisternSize - 1) = false ∧ cisternSize - 1 < cisternSize ∧ s.inBuffer 767 = true ∧ s.inBuffer 768 = false) ∧
    (let s : State := { State.reset with domains := 0xFBF };
      s.domOn .cistern = false ∧ s.domOn .sys = true ∧ (s.rg R.GLB_ACCESS_ERR_COUNT.off).toNat + 2 < 0xFFFFFFFF) := by decide

/-- In a sleep state of PM_STATE, with every wake on, both alarms armed and a PTP clock that is tracked. -/
def tSleep (st : Nat) : State :=
  { tRegs [(R.PM_STATE.off, BitVec.ofNat 32 (st * 2 ^ R.PM_STATE_state.lo)), (R.PM_WAKE_CFG.off, 0xFFFFFFFF),
      (R.PM_ALARM_TICKS.off, 1 <<< R.PM_ALARM_TICKS_armed.lo), (R.PM_PTP_ALARM_HI.off, 1 <<< R.PM_PTP_ALARM_HI_armed.lo)] with
    time := { ptp := { st := 2 } }, power := { wakeArmed := 0xFFFFFFFF } }
/-- Wakes: from WATCH, from DORMANT, and awake. -/
theorem witness_wakes :
    (∀ st : Fin 4, let s := tSleep st.val;
      (2 ≤ st.val → 2 ≤ s.pmState ∧ s.asleep = true) ∧ (st.val < 2 → s.asleep = false) ∧ s.pmState = st.val ∧ s.pmPhase = 0 ∧
        s.power.start = 0 ∧ s.ebb = false ∧ s.power.stopHold = false ∧ s.quiet) ∧
    (let s := tSleep 3;
      (∀ f ∈ [R.PM_WAKE_CFG_wake_n, R.PM_WAKE_CFG_smbus, R.PM_WAKE_CFG_alarm, R.PM_WAKE_CFG_ptp_alarm],
          getBits s.power.wakeArmed f.hi f.lo = 1) ∧ (∀ i : Fin 4, s.power.wakeArmed.getLsbD i = true) ∧
        s.fbit R.PM_ALARM_TICKS_armed = true ∧
        s.fget R.PM_ALARM_SEC * 32768 + s.fget R.PM_ALARM_TICKS_ticks ≤ s.time.tendTicks) ∧
    (let s := tSleep 2;
      s.fbit R.PM_PTP_ALARM_HI_armed = true ∧ getBits s.power.wakeArmed R.PM_WAKE_CFG_ptp_alarm.hi R.PM_WAKE_CFG_ptp_alarm.lo = 1 ∧
        s.pmState = 2 ∧ s.domOn .net = true ∧ s.domOn .sys = true ∧ s.time.ptp.st = 2) ∧
    ((((tSleep 3).fget R.PM_PTP_ALARM_LO + 2 ^ 32 * (tSleep 3).fget R.PM_PTP_ALARM_HI_sec_hi : Nat) : Int) ≤
      secOf (tSleep 3).time.ptp.t) := by decide

/-- SleepHandshake: a request in SHOW, one in a transition, both by a descriptor as well, the abort by a descriptor, prepare with
a next block and at its last, and the two ends. -/
def tPhase (ph block goal : Nat) : State :=
  tRegs [(R.PM_STATE.off, BitVec.ofNat 32 (ph * 2 ^ R.PM_STATE_phase.lo + block * 2 ^ R.PM_STATE_block.lo + goal * 2 ^ R.PM_STATE_target.lo))]
theorem witness_sleep_request :
    State.reset.quiet ∧ State.reset.mayWrite .host R.PM_REQUEST.off ∧ State.reset.power.stopAt = none ∧ State.reset.pmPhase = 0 ∧
      State.reset.power.start = 0 ∧ State.reset.pmState = 0 ∧ (0x10000000 : Word).toNat / 2 ^ 28 % 4 ≠ 0 ∧
      (tPhase 1 1 1).pmPhase ≠ 0 ∧ (tPhase 1 1 1).power.pendFlight = none :=
  ⟨by decide, ⟨trivial, by decide⟩, rfl, by decide, rfl, by decide, by decide, by decide, rfl⟩
theorem witness_sleep_descriptor :
    (∀ goal : Fin 4, goal ≠ 0 → let w := [tOp 0x0C, 0, 0, 0, 0x10000000, BitVec.ofNat 32 goal.val];
      (tNext 31 w).next = some (tDesc 31 w, []) ∧ dOpcode w = 0x0C ∧ commonOk w = true ∧ (tNext 31 w).opDenied 0x0C = false ∧
        powerOk w = true ∧ (tNext 31 w).power.stopAt = none ∧ cArg w ≠ 0 ∧ cArg w ≠ 4 ∧ (tNext 31 w).pmPhase = 0 ∧
        (tNext 31 w).pmState = 0) ∧
    (let w := [tOp 0x0C, 0, 0, 0, 0x10000000, 4]
      let s : State := { tNext 31 w with regs := (R.PM_STATE.off, (1 : Word) <<< R.PM_STATE_phase.lo) :: (tNext 31 w).regs };
      s.next = some (tDesc 31 w, []) ∧ powerOk w = true ∧ s.pmPhase = 1 ∧ cArg w = 4 ∧ s.power.flight = none ∧
        s.power.pendFlight = none ∧ (s.rg R.PM_ABORT_COUNT.off).toNat + 1 < 0xFFFFFFFF ∧ (tDesc 31 w).ring < 32 ∧
        s.rings.flight = []) := by decide
/-- SleepHandshake: a request and an abort during an orderly stop. -/
theorem witness_sleep_stop :
    (∀ arg ∈ [1, 4], let w := [tOp 0x0C, 0, 0, 0, 0x10000000, BitVec.ofNat 32 arg]
      let s : State := { tNext 31 w with power := { stopAt := some 1 } };
      s.next = some (tDesc 31 w, []) ∧ dOpcode w = 0x0C ∧ commonOk w = true ∧ s.opDenied 0x0C = false ∧ powerOk w = true ∧
        s.power.stopAt ≠ none ∧ cArg w = arg ∧ s.flight s.rings.nextId = none ∧
        (s.ringLive 31 = true ∧ s.ringPlace 31 = 0 ∧ s.hostReach = true ∧ s.pcie.fails = [] ∧ s.isStandby = false)) := by decide
theorem witness_sleep_phases :
    (let s := tPhase 1 2 1;
      s.pmPhase = 1 ∧ s.fget R.PM_STATE_block = 2 ∧ s.mayAgree 2 = true ∧
        (prepareList s.pmState 1).find? (fun k => decide (2 < k)) = none ∧ s.fget R.PM_STATE_target = 1 ∧
        s.fbit R.PM_STATE_pending_valid = false ∧ s.power.flight = none ∧ s.power.pendFlight = none) ∧
    (let s := tPhase 1 1 3;
      s.mayAgree 1 = true ∧ (prepareList s.pmState 3).find? (fun k => decide (1 < k)) = some 2) ∧
    (let s : State := { tPhase 1 7 3 with water := { blackFrame := some 0 } };
      s.mayAgree 7 = true ∧ s.zonesOpen = [] ∧ (prepareList s.pmState 3).find? (fun k => decide (7 < k)) = some 8) ∧
    (let s := tPhase 1 14 2;
      s.mayAgree 14 = true ∧ (prepareList s.pmState 2).find? (fun k => decide (14 < k)) = none) ∧
    (∀ goal : Fin 4, let s := tPhase 2 0 goal.val;
      s.pmPhase = 2 ∧ s.fget R.PM_STATE_target = goal.val ∧ s.power.heldReset = none ∧ s.ditch.pool = []) ∧
    ({ State.reset with power := { start := 5 } } : State).power.start = 5 := by decide

/-- EbbAndResets: the warning enabled, an erase under way, deferred or not, and pages; a warning that ends with nothing to store, with a wake that it held in WATCH and in
DORMANT; the hold-up check with an empty capacitor's cost; the keys. -/
theorem witness_ebb :
    (let s := tRegs [(R.PM_CTRL.off, 1 <<< R.PM_CTRL_ebb_enable.lo), (R.PM_HOLDUP_CFG.off, 0xFFFF0000)];
      s.fbit R.PM_CTRL_ebb_enable = true ∧ s.ebb = false ∧ (s.rg R.PM_EBB_COUNT.off).toNat + 1 < 0xFFFFFFFF ∧
        s.live_.running = false) ∧
    (let s : State := { State.reset with live_ := { running := true } };
      s.live_.running = true ∧ s.covered 2 = false ∧ s.live_.pages = false ∧ 3 ∉ s.power.stores) ∧
    3 ∈ ({ stores := [3] } : Power).stores ∧ ({ pages := true } : Live).pages = true ∧
    (∀ st : Fin 4, let s : State := { tRegs [(R.PM_STATE.off, BitVec.ofNat 32 (st.val * 2 ^ R.PM_STATE_state.lo + 2 ^ R.PM_STATE_ebb.lo))] with
        power := { wakeWaits := true } };
      s.ebb = true ∧ s.power.stores = [] ∧ s.power.wakeWaits = true ∧ s.power.stopHold = false ∧ s.pmState = st.val ∧
        s.pmPhase = 0 ∧ s.power.start = 0) ∧
    (let u : State := { tRegs [(R.PM_HOLDUP_CFG.off, 0xFFFF4000)] with power := { stores := [2], vhold := 1800 } };
      u.ebb = false ∧ u.power.stores = [2] ∧ u.covered 2 = true ∧ u.covered 0 = true) := by decide
theorem witness_resets :
    State.reset.quiet ∧ State.reset.mayWrite .host R.RST_CTRL.off ∧ (0xA5C3 : Word).toNat % 65536 = 0xA5C3 ∧
    (0xA5C2 : Word).toNat % 65536 ≠ 0xA5C3 ∧ State.reset.pmPhase = 0 ∧ State.reset.power.start = 0 ∧ State.reset.pmState < 2 ∧
    State.reset.domOn .sys = true ∧ State.reset.mayCount R.GLB_ACCESS_ERR_COUNT.off ∧ State.reset.mayWrite .host R.RST_DOMAIN.off ∧
    State.reset.mayReset .host = true ∧ State.reset.mayReset .tend = false ∧ State.reset.ditch.pool = [] ∧
    (0x800 : Word).toNat % 4096 = 2 ^ 11 :=
  ⟨by decide, ⟨trivial, by decide⟩, by decide, by decide, by decide, rfl, by decide, by decide, by unfold State.mayCount; decide,
    ⟨trivial, by decide⟩, by decide, by decide, rfl, by decide⟩

/-- The state after reset with registers whose given fields hold values, and whose other fields hold 0: the field, its value, its index. -/
def tWord (l : List (RF × Nat × Nat)) (o : Nat) : Nat :=
  l.foldl (fun n e => if e.1.off e.2.2 = o then n + e.2.1 * 2 ^ e.1.lo else n) 0
def tSet (l : List (RF × Nat × Nat)) : State :=
  { State.reset with regs := l.map (fun e => (e.1.off e.2.2, BitVec.ofNat 32 (tWord l (e.1.off e.2.2)))) ++ State.reset.regs }

/-- ThermalRules: sensor 0 at 100.00 °C against a limit of 90.00, between that and 3.00 below, and colder; a newly rising one; 600 s
of self-heat, and its retry. -/
def tHeat (lim : Nat) : State :=
  { tSet [(R.TH_SENSOR_valid, 1, 0), (R.TH_SENSOR_temp, 10000, 0), (R.TH_WARN_THROTTLE_throttle, lim, 0), (R.TH_SELECT_sensors, 1, 0),
      (R.TH_SELECT_sel_throttle, 1, 0), (R.TH_SELECT_sel_rise, 1, 0), (R.TH_CTRL_rise_action, 1, 0), (R.TH_RISE_rise, 500, 0)] with
    thermal := { past := List.replicate 10 (some 9000 :: List.replicate 15 none) }
    power := { heatAt := some 0, heatRetry := true }
    time := { cycles := 300000000000 } }
theorem tHeat_hottest (lim : Nat) (h : (tHeat lim).hottest = some ([0].getD (Config.pick 0 % 1) 0)) : (tHeat lim).hottest = some 0 := by
  rw [h, Nat.mod_one]; rfl
theorem witness_thermal_hottest : (tHeat 9000).hottest = some 0 ∧ (tHeat 10300).hottest = some 0 ∧ (tHeat 10301).hottest = some 0 :=
  ⟨tHeat_hottest _ rfl, tHeat_hottest _ rfl, tHeat_hottest _ rfl⟩
theorem witness_thermal :
    (let s := tHeat 9000;
      s.quiet ∧ s.domOn .sys = true ∧ s.power.stopHold = false ∧ s.stopDark = false ∧ s.thermalOn = true ∧ s.power.stopAt = none ∧
        s.fbit R.TH_SELECT_sel_throttle = true ∧
        sint (s.fget R.TH_WARN_THROTTLE_throttle) 16 ≤ sint (s.fget R.TH_SENSOR_temp 0) 16 ∧ s.fget R.TH_CTRL_rise_action = 1 ∧
        s.fbit R.TH_SELECT_sel_rise = true ∧ s.senIn 0 = true ∧
        (s.thermal.past.getD 9 []).getD 0 none = some 9000 ∧
        sint (s.fget R.TH_RISE_rise) 16 < sint (s.fget R.TH_SENSOR_temp 0) 16 - 9000 ∧ s.thermal.rising = [] ∧
        (∀ j, j < 16 → j ≠ 0 → s.senIn j = false) ∧ s.power.heatAt = some 0 ∧ 600000000000 ≤ nsSince s 0 ∧
        s.power.heatRetry = true) ∧
    (let s := tHeat 10300;
      sint (s.fget R.TH_WARN_THROTTLE_throttle) 16 - 300 ≤ sint (s.fget R.TH_SENSOR_temp 0) 16 ∧
        sint (s.fget R.TH_SENSOR_temp 0) 16 < sint (s.fget R.TH_WARN_THROTTLE_throttle) 16) ∧
    (let s := tHeat 10301;
      sint (s.fget R.TH_SENSOR_temp 0) 16 < sint (s.fget R.TH_WARN_THROTTLE_throttle) 16 - 300) :=
  ⟨⟨by decide, by decide⟩, by decide, by decide⟩

/-- CalibrationAndHours: the last port and a transmitter due, the sensors' run, rotation, a unit due for 1 s; a save that the hold-up
check covers, one that it does not, and one during a warning. -/
theorem witness_calibration :
    (let s : State := { tSet [(R.CAL_CTRL_cal_enable, 1, 0), (R.CAL_CTRL_rotate, 1, 0), (R.CAL_PORT_STATUS_due, 1, 255)] with
        thermal := { units := [(256, { due := true })] }, time := { cycles := 500000000, tendRunning := true } };
      s.quiet ∧ s.domOn .sys = true ∧ s.inWatch = false ∧ s.fbit R.CAL_CTRL_cal_enable = true ∧ s.power.agreed.contains 0x0D = false ∧
        s.portGap 255 = true ∧
        (s.rg R.CAL_COUNT.off).toNat + 1 < 0xFFFFFFFF ∧ s.time.tendRunning = true ∧ s.pmState < pmWatch ∧
        s.fbit R.CAL_PORT_STATUS_due 255 = true ∧ s.domOn (unitDomain 255) = true ∧ (s.calUnit 256).due = true ∧ s.domOn .host = true ∧
        s.fbit R.CAL_CTRL_rotate = true ∧ s.thermal.turn < 258 ∧ s.unitDue 256 = true ∧ (s.calUnit 256).missed = false ∧
        1000000000 ≤ nsSince s (s.calUnit 256).since ∧ s.power.stores.contains 2 = false ∧ s.ebb = false ∧ s.covered 2 = false) ∧
    State.reset.time.tendRunning = false ∧
    (let s : State := { tSet [(R.CAL_CTRL_cal_enable, 1, 0), (R.CAL_CTRL_rotate, 1, 0)] with domains := 0xF7F };
      s.domOn .sys = true ∧ s.domOn (unitDomain s.thermal.turn) = false) ∧
    (let s : State := { tRegs [(R.PM_HOLDUP_CFG.off, 0xFFFF4000)] with power := { vhold := 1800 } };
      s.ebb = false ∧ s.covered 2 = true ∧ s.covered 0 = true) ∧
    (tSet [(R.PM_STATE_ebb, 1, 0)]).ebb = true :=
  ⟨⟨by decide, by decide⟩, by decide⟩

/-- SluiceLifecycle: the operand block at 0 of the Reservoir; FACTORY with its owner hash unburned, and OWNED with a challenge and
outputs on or off; a counter raised to its end and past it; the ends of the signatures that may fail and of the 60 s. -/
def tSluice (life fails : Nat) (l : List (RF × Nat × Nat)) : State :=
  { tSet ([(R.SLC_OP_ADDR_LO, 1, 0), (R.SLC_STATUS_drbg_ready, 1, 0), (R.PM_HOLDUP_CFG, 0xFFFF4000, 0)] ++ l) with
    power := { vhold := 1800, svn := 64, sigFails := fails }, sluice := { challenge := true }, fuses := { life := BitVec.ofNat 9 life } }
theorem witness_sluice_factory : let s := tSluice 0 7 []
    s.quiet ∧ s.mayWrite .host R.SLC_OP.off ∧ s.fbit R.SLC_STATUS_busy = false ∧ s.lifecycle = 0 ∧ s.ebb = false ∧ s.covered 3 = true ∧
      (s.slcBlock {}).isSome = true ∧ s.fuses.ownerHash = 0 ∧ s.debugLevel = 0 ∧
      ((0x0040 : BitVec 16).toNat / 256 % 4 = 0 ∧ (0x0040 : BitVec 16).toNat % 128 = 64 ∧ 64 ≤ s.power.svn) ∧
      ((0x0340 : BitVec 16).toNat / 256 % 4 ≠ 0 ∧ (0x0340 : BitVec 16).toNat % 128 ≤ 64) ∧ 64 < (0x0041 : BitVec 16).toNat % 128 ∧
      s.power.sigFails < 8 ∧ s.fbit R.SLC_STATUS_drbg_ready = true ∧ 8 ≤ (tSluice 0 8 []).power.sigFails ∧
      (tSluice 0 8 []).lifecycle ≠ 3 :=
  ⟨by decide, ⟨trivial, by decide⟩, by decide +kernel⟩
theorem witness_sluice_owned :
    (let s := tSluice 1 0 [];
      s.lifecycle = 1 ∧ s.challengeValid = true ∧ (s.slcBlock {}).isSome = true ∧ s.debugLevel = 0 ∧ s.outputsOff = true ∧
        s.tandem.link = false ∧ s.ebb = false ∧ s.covered 3 = true) ∧
    (let s := tSluice 1 0 [(R.FL_CTRL_output_enable, 1, 0)];
      s.lifecycle = 1 ∧ s.outputsOff = false) := by decide
theorem witness_sluice_events :
    (let s : State := { tSluice 0 0 [(R.SLC_STATUS_busy, 1, 0)] with time := { cycles := 30000000000 } };
      s.sluice.challenge = true ∧ 60000000000 ≤ nsSince s s.sluice.challengeAt ∧ s.sluice.burns = [] ∧ s.domOn .sys = true ∧
        s.fbit R.HOST_CTRL_event_enable = false ∧ s.domOn .sluice = true) ∧
    (let s : State := { tSluice 0 0 [] with time := { cycles := 29999999999 } };
      nsSince s s.sluice.challengeAt < 60000000000) ∧
    (tSluice 0 0 [(R.SLC_STATUS_busy, 1, 0)]).fbit R.SLC_STATUS_busy = true ∧
    State.reset.fbit R.SLC_STATUS_drbg_ready = false ∧ State.reset.domOn .sluice = true := by decide

/-- SluiceKeys: an OWNED device with and without a show key, its operand block in the Reservoir: `src` 0, `dst` the staging area, both in
the Reservoir, and the last length of one chunk, or an empty text. -/
def tKeys (len : Nat) (k : Option (List Byte)) : State :=
  { tSluice 1 0 [] with
    sluice := { showKey := k }
    mem := { reservoir := [(11, 0xF0), (12, 0x03), (16, 1), (17, 1), (28, BitVec.ofNat 8 len), (30, BitVec.ofNat 8 (len / 65536))] } }
theorem witness_keys :
    (let s := tKeys 65536 (some []);
      s.quiet ∧ s.mayWrite .host R.SLC_OP.off ∧ s.fbit R.SLC_STATUS_busy = false ∧ s.lifecycle = 1 ∧ s.debugLevel = 0 ∧
        s.slcSpace = 1 ∧ s.fbit R.SLC_STATUS_drbg_ready = true ∧ (s.rg R.SLC_AUTH_FAIL_COUNT.off).toNat + 1 < 0xFFFFFFFF ∧
        (let b := memRead s.mem.reservoir 0 512;
          s.slcBlock {} = some b ∧ leNat (b.take 8) = 0 ∧ leNat ((b.drop 8).take 8) = 0x3F0000000 ∧
            ((b.drop 16).headD 0).toNat = 1 ∧ ((b.drop 17).headD 0).toNat = 1 ∧ leNat ((b.drop 28).take 4) = 65536) ∧
        inRegions s.showRegions 9 0x3F0000000 65536 = true ∧ s.resOk 0 (80 + 65536) = true ∧ s.resOk 0x3F0000000 65536 = true ∧
        (s.rg R.SLC_DECRYPT_FAIL_COUNT.off).toNat + 1 < 0xFFFFFFFF ∧ s.sluice.showKey = some []) ∧
    (let s := tKeys 0 (some []);
      let b := memRead s.mem.reservoir 0 512
      let hdr := packageHeader (leNat ((b.drop 20).take 4)) (leNat ((b.drop 24).take 4)) 0
      s.slcBlock {} = some b ∧ leNat ((b.drop 28).take 4) = 0 ∧ s.resOk 0 0 = true ∧ ∀ key, s.resOk 0x3F0000000
        (hdr ++ sealChunks key hdr (leNat ((b.drop 20).take 4)) (leNat ((b.drop 24).take 4)) 0
          (chunksOf 65536 (cdiv 0 65536) (memRead s.mem.reservoir 0 0))).length = true) ∧
    (let s := tKeys 0 none;
      s.sluice.showKey = none ∧ s.lifecycle = 1 ∧ s.debugLevel = 0) ∧
    (let s : State := { tSet [(R.SLC_OP_ADDR_LO, 1, 0)] with fuses := { life := 1 } };
      s.lifecycle ≠ 3 ∧ s.slcSpace = 1 ∧ (s.slcBlock {}).isSome = true ∧ s.fbit R.SLC_STATUS_drbg_ready = false) :=
  ⟨⟨by decide, ⟨trivial, by decide⟩, by decide +kernel⟩, ⟨by decide +kernel, by decide +kernel, by decide +kernel, fun _ => rfl⟩,
    by decide, by decide⟩

/-- TapInstructions: DORMANT, and each debug level in SHOW. -/
theorem witness_tap :
    (tSleep 3).pmState = 3 ∧ (tSleep 3).quiet ∧
    (∀ d : Fin 3, let s := tSet [(R.SLC_STATUS_debug, d.val, 0)];
      s.debugLevel = d.val ∧ s.pmState ≠ 3 ∧ (s.rg R.SLC_AUTH_FAIL_COUNT.off).toNat + 1 < 0xFFFFFFFF ∧
        s.domOn (coreDomain 63) = true ∧ s.domOn .sys = true ∧ s.domOn .res = true) := by decide

/-- ServiceAndSilt: an update at each of its states, its sector for the second time; rows left and none; the last entry of the trap, quiet
for 1 s, and at the end of its window with and without a report waiting. -/
def tUpd (st : Nat) (again : Bool) : State :=
  { tSet [(R.UPD_STATUS_state, st, 0), (R.UPD_CTRL_auto_repair, 1, 0)] with live_ := { running := true, again := again } }
theorem witness_service :
    ((tUpd 3 true).quiet ∧ (tUpd 3 true).mayWrite .host R.UPD_CTRL.off) ∧
    (∀ st : Fin 5, (tUpd st.val true).updState = st.val) ∧ (tUpd 3 true).live_.running = true ∧ (tUpd 3 true).live_.again = true ∧
    (tUpd 3 false).live_.again = false ∧ (tUpd 3 false).live_.pages = false ∧ (tUpd 3 false).covered 0 = false ∧
    ({ tUpd 3 false with live_ := { running := true, pages := true } } : State).live_.pages = true ∧
    (let s : State := { tSet [(R.UPD_STATUS_state, 3, 0), (R.PM_HOLDUP_CFG, 0xFFFF4000, 0)] with
        live_ := { running := true }, power := { vhold := 1800 } };
      s.updState = 3 ∧ s.live_.running = true ∧ 3 ∉ s.power.stores ∧ s.ebb = false ∧ s.covered 0 = true) ∧ (tUpd 3 true).rings.flight = [] ∧ (tUpd 3 false).ebb = false ∧
    ((tUpd 2 false).rg R.GLB_ACCESS_ERR_COUNT.off).toNat + 1 < 0xFFFFFFFF ∧ (tUpd 2 false).domOn .sys = true ∧
    (tUpd 0 false).fbit R.UPD_CTRL_auto_repair = true ∧ (tUpd 0 false).domOn .res = true ∧
    (∀ q : Fin 2, (tUpd 0 false).fget R.UPD_REPAIR_USED_rows q.val < 32) ∧
    ((tUpd 0 false).rg R.UPD_REPAIR_COUNT.off).toNat + 1 < 0xFFFFFFFF ∧
    (∀ q : Fin 2, 32 ≤ (tSet [(R.UPD_REPAIR_USED_rows, 32, 0), (R.UPD_REPAIR_USED_rows, 32, 1)]).fget R.UPD_REPAIR_USED_rows q.val) :=
  ⟨⟨by decide, trivial, by decide⟩, by decide⟩
theorem witness_silt :
    (let s : State := { tSet [(R.SLT_CTRL_irq_enable, 1, 0)] with
        silt := { entries := [(0, { st := 1, window := true }), (1023, { st := 1, window := true, pending := true })] }
        time := { cycles := 500000000 } };
      (s.entry 1023).st = 1 ∧ 1000000000 ≤ nsSince s (s.entry 1023).lastTick ∧ (s.entry 0).window = true ∧
        (s.entry 0).pending = false ∧ (s.entry 1023).window = true ∧ (s.entry 1023).pending = true ∧ s.domOn .sys = true ∧
        s.siltQuietClass (s.entry 1023).cls = false ∧ s.fbit R.HOST_CTRL_event_enable = false ∧ s.ditch.pool = []) := by decide

/-- FrameEvents: the cut of frame 1 after reset; frame 1 of the lattice cut and the next one due, with the device in a sleep state that
evaluates nothing; a frame in evaluation before its deadline, after it, and staged; canvas 3 composed with its refill done; the
staging deadline and the frame instant with the pixels off, and with them on, the frame staged and not. -/
def tClock (c : FrameClock) (b : Byte) : State :=
  { State.reset with tables := [(tableKey 0x15 0, [(3, b)])], time := { clock := c } }
theorem witness_frame_evaluated : State.reset.quiet ∧ State.reset.clockRuns = true ∧
    (State.reset.openCut 1).evalOn 1 = true := by decide
theorem witness_frame_cut :
    (∀ mode : Fin 3, let s : State := { tClock { cutFrame := 1 } (BitVec.ofNat 8 (16 * mode.val)) with
        regs := [(0x000028, 0x40000000), (R.PM_STATE.off, BitVec.ofNat 32 (2 * 2 ^ R.PM_STATE_state.lo))] };
      s.quiet ∧ s.clockRuns = true ∧ (s.openCut 2).evalOn 2 = false ∧ s.isStandby = false ∧ s.basin.resetAt = none ∧
        s.basin.snaps = [] ∧ s.tword 0x15 0 0 / 2 ^ 27 % 2 = 0 ∧ 2 ≤ s.time.clock.cutFrame + 1 ∧
        (s.time.clock.tf.find? (fun e => e.1 == 1)).isSome = true ∧ s.showMode = mode.val) := by decide
theorem witness_frame_deadlines :
    (let s := tClock { cutFrame := 1, evaluating := true } 0;
      s.time.clock.evaluating = true ∧ s.time.clock.cueClosed = false ∧ s.shadows = false ∧ s.ditch.pool = [] ∧
        s.fabric.memberDone = false) ∧
    (let s : State := { tClock { cutFrame := 1, evaluating := true } 0 with fabric := { memberDone := true } };
      s.time.clock.evaluating = true ∧ s.fabric.memberDone = true ∧ s.time.clock.staged = false) ∧
    (let s : State := { tSet [(R.CMP_CTRL_compose_enable, 1, 0)] with
        tables := [(tableKey 0x08 3, [(3, 0x80)])], cmp := { canvases := [(3, { refillFrom := some 0 })] } };
      (s.canvas 3).refillFrom = some 0 ∧ s.composes 3 = true ∧ s.domOn .pix = true ∧ (s.fetchRun {} {} 3).2.2 = false) ∧
    (let s : State := { tClock { cutFrame := 1 } 0 with domains := 0xFDF };
      s.clockRuns = true ∧ s.time.clock.stageFrame + 1 ≤ s.time.clock.cutFrame ∧ s.isStandby = false ∧ s.domOn .pix = false ∧
        s.frame < s.time.clock.cutFrame ∧ s.frame + 1 < 2 ^ 64 ∧ s.basin.take = none ∧ s.time.clock.placing = none) ∧
    (∀ staged : Bool, let s := tClock { cutFrame := 1, evaluating := true, staged := staged } 0;
      s.clockRuns = true ∧ s.time.clock.stageFrame + 1 ≤ s.time.clock.cutFrame ∧ s.isStandby = false ∧ s.domOn .pix = true ∧
        s.domOn .sys = true ∧ s.tandem.started = false ∧ s.power.stopAt = none ∧ s.time.clock.evaluating = true) ∧
    (let s := tClock { cutFrame := 1 } 0;
      s.clockRuns = true ∧ s.frame < s.time.clock.cutFrame ∧ s.domOn .pix = true ∧ s.domOn .sys = true ∧ s.water.zones = [] ∧
        s.fbit R.CMP_CTRL_compose_enable = false ∧ s.fbit R.WM_CTRL_legibility_enable = false ∧
        s.fbit R.RAS_CTRL_raster_enable = false ∧ s.tandem.switching = false ∧ s.power.stopAt = none) := by decide

/-- PortLines: the last port with a pixel line, its frame ready and not, its line free and under way; one with a DMX line; one held, and one
whose lateral is in service past its frame; a new entry, a rest, and no change at the rest point, before and after the black of a sleep; an
entry that a D reset took; a domain that is off, with VIO33 and without. -/
def tLine (mode freeAt : Nat) (done lineOn : Bool) : State :=
  { tSet [(R.FL_CTRL_output_enable, 1, 0)] with
    die := { ports := [(255, { entry := [0x80000000 + mode * 2 ^ 28], flow := { done := done, buf := [1] }, freeAt := freeAt, lineOn := lineOn })] } }
theorem witness_lines :
    (∀ m : Fin 2, let s := tLine (3 + m.val) 0 true true;
      s.quiet ∧ s.rings.flight = [] ∧ s.portDrives 255 = true ∧ (peLine (s.port 255).ent = mSW ∨ peLine (s.port 255).ent = mCLOCKED) ∧
        (s.port 255).freeAt ≤ s.now ∧ s.lineState 255 = .ready [1] ∧ (s.port 255).lineOn = true ∧
        peMode (s.port 255).ent ≠ mREST ∧ s.flumeRuns 255 = true ∧ s.unserved 255 = false) ∧
    (let s : State := { tLine 3 0 false false with
        regs := (tSet [(R.FL_CTRL_output_enable, 1, 0), (R.PT_STATUS_held, 1, 255)]).regs };
      peMode (s.port 255).ent ≠ mREST ∧ s.flumeRuns 255 = true ∧ s.unserved 255 = true) ∧
    peMode ((tLine 3 0 false false).port 0).ent = mREST ∧ (tLine 3 0 false false).lineState 255 = .starved ∧ (tLine 3 1 false false).now < ((tLine 3 1 false false).port 255).freeAt ∧
    (let s := tLine 1 0 true false;
      s.portDrives 255 = true ∧ peLine (s.port 255).ent = mDMX ∧ (s.port 255).rdm = none ∧ (s.port 255).skip = false ∧
        (s.port 255).freeAt ≤ s.now ∧ s.lineState 255 = .ready [1]) ∧
    (let s : State := { tLine 1 0 true false with tables := [(tableKey 0x11 7, [(2051, 0xB0)])] };
      s.die.svc = none ∧ s.die.stale.contains 255 = false ∧ peMode (s.live.portEntry 255) = mSW ∧
        (List.range 16).map (fun w => s.live.portEntry 255 w) ≠ (s.port 255).entry) ∧
    (let s := tLine 1 0 true false;
      peMode (s.live.portEntry 255) = mREST ∧ (s.port 255).entry ≠ [] ∧ (s.port 0).entry = [] ∧
        peMode (s.live.portEntry 0) = mREST) ∧
    ({ ports := [], stale := [255] } : PortDie).stale.contains 255 = true ∧ State.reset.blackLit = false ∧
    ({ State.reset with water := { blackFrame := some 0 } } : State).blackLit = true ∧
    (∀ v : Bool, let s : State := { State.reset with domains := 1, power := { enables := if v then 8 else 0, pgs := 8 } };
      s.domOn (portDomain 255) = false ∧ s.vio33 = v) := by decide

/-- SupplyCommands: zone 255 by a Furrow port, and by a PMBus, with a rise due at the next instant, one due later, and with a fall due;
both buses with a command for it, repeated and not. -/
def tZone (z : Zone) (on rep : Nat) (w : Byte := 0xC0) : State :=
  { tSet [(R.WM_CTRL_supply_enable, on, 0), (R.GLB_FRAME_STATUS_repeat_last, rep, 0)] with
    tables := [(tableKey 0x0C 0, [(8163, w)])], water := { zones := [(255, z)] } }
theorem witness_supply :
    (∀ r : Fin 2, let s := tZone { rise := some (r.val + 1), h := 100 } 1 0;
      s.quiet ∧ s.fbit R.WM_CTRL_supply_enable = true ∧ s.live.zoneOk 255 = true ∧ (s.zone 255).rise = some (r.val + 1) ∧
        (r.val = 0 → r.val + 1 ≤ s.frame + 1) ∧ (r.val = 1 → s.frame + 1 < r.val + 1) ∧
        s.drives = true ∧ 2 ≤ s.live.zonePath 255 ∧ s.fbit R.GLB_FRAME_STATUS_repeat_last = false) ∧
    (tZone {} 0 1).fbit R.WM_CTRL_supply_enable = false ∧ (tZone {} 0 1).fbit R.GLB_FRAME_STATUS_repeat_last = true ∧
    (let s := tZone { h := 100, need := 99, prev := 98 } 1 0;
      max (s.zone 255).prev (s.zone 255).need < (s.zone 255).h ∧ (s.zone 255).rise = none) ∧
    (let s := tZone { rise := some 1, h := 100 } 1 0 0x80;
      s.live.zoneOk 255 = true ∧ s.live.zonePath 255 = 0) ∧
    (tSet [(R.WM_PMBUS_CFG_enable, 1, 0)]).fbit R.WM_PMBUS_CFG_enable 0 = true ∧
    (∀ again : Bool, let c : Supply := { zone := 255, value := 1, cmd := 0, rising := false, again := again }
      let s : State := { State.reset with water := { bus0 := [c], bus1 := [c] } };
      s.bus 0 = c :: [] ∧ s.bus 1 = c :: [] ∧ c.zone < 256 ∧ c.again = again) := by decide
theorem witness_supply_zones : 255 ∈ (tZone { rise := some 1, h := 100 } 1 0).live.zones := by
  unfold Tabs.zones; exact List.mem_filter.mpr ⟨List.mem_range.mpr (by decide), by decide⟩

/-- PortReturns: the last port with a DMX line and RDM, with no request, one of each class that fits before the break, and one that does
not, at each end of its deferrals; a request under way of each class; a Furrow port with a node to configure; an open window with an IDENT and a record; a node silent for four. -/
def tRdm (now : Int) (fl : List Flight) (p : Port) : State :=
  { tRegs [(R.FL_CTRL.off, 1 <<< R.FL_CTRL_output_enable.lo), (R.HOST_RING_STATUS.off 0, BitVec.ofNat 32 (rRunning * 2 ^ R.HOST_RING_STATUS_state.lo))] with
    die := { ports := [(255, p)] }, rings := { flight := fl }, time := { loc := { t := now } } }
def tReq (cls : Nat) (applied : Bool) : Flight :=
  { id := 7, ring := 0, words := [tOp 0x0A, 0, 0, 0, 0, 0, 260, BitVec.ofNat 32 (cls * 65536 + 255), 0, 1], target := 0, applied := applied,
    got := List.replicate 24 0, parts := [(0, 260)] }
def tDmx : Port := { entry := [0x94000000], lineOn := true }
theorem witness_rdm_start :
    (let s := tRdm 0 [] tDmx;
      s.portDrives 255 = true ∧ peLine (s.port 255).ent = mDMX ∧ peRdm (s.port 255).ent = true ∧ (s.port 255).rdm = none ∧
        (s.port 255).lineOn = true ∧ s.rdmQueue 255 = [] ∧ s.quiet) ∧
    (∀ cls : Fin 3, let f := tReq cls.val false
      let s := tRdm 0 [f] tDmx;
      s.rdmQueue 255 = f :: [] ∧ aClass f.words = cls.val ∧ f.basin = false ∧ f.shadow = false ∧
        (s.ringLive 0 = true ∧ s.ringPlace 0 = 0 ∧ s.hostReach = true ∧ s.pcie.fails = [] ∧ s.isStandby = false) ∧
        ((2 * ((s.port 255).freeAt - s.now) + rdmAllowance (s.port 255).ent f.got.length : Nat) : Int) * 65536 ≤ s.toBreak 255) ∧
    (∀ k : Fin 2, let s := tRdm 2184533333333 [tReq 0 false] { tDmx with deferred := 3 * k.val };
      s.rdmQueue 255 = tReq 0 false :: [] ∧
        ¬ ((2 * ((s.port 255).freeAt - s.now) + rdmAllowance (s.port 255).ent (tReq 0 false).got.length : Nat) : Int) * 65536 ≤
          s.toBreak 255 ∧
        (k.val = 0 → (s.port 255).deferred + 1 < peRdmDefer (s.port 255).ent) ∧
        (k.val = 1 → peRdmDefer (s.port 255).ent ≤ (s.port 255).deferred + 1)) := by decide
theorem witness_rdm_ends :
    (∀ cls : Fin 3, let f := tReq cls.val true
      let s := tRdm 0 [f] { tDmx with rdm := some 7 };
      (s.port 255).rdm = some 7 ∧ s.flight 7 = some f ∧ f.basin = false ∧ f.shadow = false ∧ f.applied = true ∧ s.rdmQueue 255 = [] ∧
        aClass f.words = cls.val ∧ f.parts = [(0, 260)] ∧ aSpace f.words = 1 ∧ 260 ≤ aLength f.words ∧ s.resOk 0 260 = true ∧
        (s.rg (R.PT_RDM_TIMEOUT_COUNT.off 255)).toNat + 1 < 0xFFFFFFFF) ∧
    (let s := tRdm 0 [tReq 2 true] { tDmx with rdm := some 7 };
      s.ringLive 0 = true ∧ s.ringPlace 0 = 0 ∧ s.hostReach = true ∧ s.pcie.fails = [] ∧ s.isStandby = false) := by decide
theorem witness_furrow :
    (let s : State := { tRdm 0 [] { entry := [0xA0000000], window := true } with
        nodes := [(255 * 1024 + 1023, { configPending := 1, configured := true, silent := 4 })]
        tables := [(tableKey 0x12 7, [(262139, 0x80)])] };
      s.portDrives 255 = true ∧ peLine (s.port 255).ent = mFURROW ∧ (s.node 255 1023).configPending = 1 ∧
        s.live.nodeOk 255 1023 = true ∧ (s.port 255).window = true ∧ (s.portNodes 255).Nodup ∧ s.live.nodesListed 255 = [1023] ∧ (s.port 255).enumPhase = 0 ∧
        (s.rg (R.FUR_RET_BAD_COUNT.off 255)).toNat + 1 < 0xFFFFFFFF ∧ (s.node 255 1023).configured = true ∧
        4 ≤ (s.node 255 1023).silent ∧ (s.node 255 1023).reported = false ∧ (s.node 255 1023).seen = false ∧
        (s.node 255 1023).configPending ≠ 2) ∧
    (let b : List Byte := 0xFF :: 0x13 :: List.replicate 22 0;
      leNat (b.take 2) % 1024 = 1023 ∧ leNat (b.take 2) / 4096 % 16 = 1) ∧
    (let b : List Byte := 0xFF :: 0x23 :: List.replicate 22 0;
      leNat (b.take 2) % 1024 = 1023 ∧ leNat (b.take 2) / 4096 % 16 ≠ 1 ∧ leNat ((b.drop 2).take 1) = 0) := by decide

/-- NetFrames: MAC 3 runs; frames of the lengths at the limits; a pause; a tag without VLAN; a destination that no test passes, and one
that `promiscuous` lets into class 2 with room for it and without; a frame of class 6 with its buffer; pause in force, its times over;
a wire with nothing, with a pause, and with a timed frame that is due. -/
def tMac (l : List (RF × Nat × Nat)) (v : NetMac) : State :=
  { tSet ([(R.NET_MAC_CFG_enable, 1, 3), (R.NET_MAC_STATUS_link, 1, 3), (R.NET_MAC_ADDR_HI, 0, 3), (R.NET_MAC_ADDR_LO, 1, 3),
      (R.NET_MAC_ADDR_HI, 0, 0), (R.NET_MAC_ADDR_LO, 0, 0), (R.NET_IPV4, 1, 3),
      (R.HOST_RING_STATUS_state, rRunning, 0)] ++ l) with
    net := { macs := [(3, v)] }, time := { cycles := 500000 } }
def tFrame (b : List Byte) : List Byte := List.replicate 12 0 ++ b ++ List.replicate (48 - b.length) 0
theorem witness_frame_lengths : 9212 < (List.replicate 9213 (0 : Byte)).length ∧ (List.replicate 9212 (0 : Byte)).length ≤ 9212 ∧
    60 ≤ (tFrame []).length := ⟨by rw [List.length_replicate]; decide, Nat.le_of_eq List.length_replicate, by decide⟩
theorem witness_mac_receive :
    (let s := tMac [(R.NET_MAC_CFG_rx_pause, 1, 3)] {};
      s.quiet ∧ s.macRuns 3 = true ∧ s.fget R.PM_WAKE_ETH_ethertype = 0 ∧
        (∀ o : Fin 5, let c := [R.NET_RX_OVERSIZE_COUNT.off 3, R.NET_RX_FCS_ERR_COUNT.off 3, R.NET_RX_VLAN_DROP_COUNT.off 3,
            R.NET_RX_FILTER_DROP_COUNT.off 3, R.NET_RX_DROP_COUNT.off 3 2].getD o.val 0;
          (s.rg c).toNat + 1 < 0xFFFFFFFF) ∧
        (let b := tFrame [0x88, 0x08, 0, 1, 0, 1];
          beNat ((b.drop 12).take 2) = 0x8808 ∧ beNat ((b.drop 14).take 2) = 1 ∧ beNat ((b.drop 16).take 2) ≠ 0) ∧
        s.fbit R.NET_MAC_CFG_rx_pause 3 = true ∧ s.fbit R.NET_MAC_STATUS_wd_rx 3 = false ∧ s.fbit R.NET_MAC_STATUS_paused 3 = false ∧
        s.untag 3 (tFrame [0x81, 0x00]) = none ∧ s.untag 3 (tFrame []) = some (tFrame [])) ∧
    (let s := tMac [(R.NET_MAC_ADDR_LO, 2, 3)] {};
      s.rxRoute 3 (tFrame []) = none) ∧
    (∀ log : Fin 2, let s : State := { tMac [(R.NET_MAC_CFG_promiscuous, 1, 3)] {} with
        regs := (R.NET_RXQ_CFG.off 3 2, BitVec.ofNat 32 (log.val * 2 ^ 16)) :: (tMac [(R.NET_MAC_CFG_promiscuous, 1, 3)] {}).regs }
      let f := tFrame [0x88, 0xB5];
      beNat ((f.drop 12).take 2) ≠ 0x8808 ∧ s.untag 3 f = some f ∧ s.rxRoute 3 f = some (5, 2) ∧ s.fbit R.NET_MAC_STATUS_wd_tx 3 = false ∧
        s.fbit R.NET_MAC_CFG_tx_pause 3 = false ∧ s.fbit R.NET_MAC_STATUS_pausing 3 = false ∧ s.rxLog 3 2 = log.val ∧ s.rxLog 3 2 ≤ 12 ∧ (f.length + 79) / 64 = 2 ∧
        2 ^ s.rxLog 3 2 - s.rxFill 3 2 = 1 + log.val ∧ s.fget R.NET_RXQ_CFG_thresh 3 2 = 0) := by decide
theorem witness_mac_host :
    let g : Flight := { id := 7, ring := 0, words := [tOp 8, 0, 0, 0, 0, 0, 256, 0x00060003, 0, 1], target := 0, parts := [(0, 256)] }
    let f : RxFrame := { bytes := tFrame [] }
    let s : State := { tMac [] { rx := [(6, [f])] } with rings := { flight := [g] } }
    s.rxq 3 6 = [f] ∧ s.rxq 3 7 = [] ∧ f.sent = 0 ∧ f.bufs = [] ∧ 0 < f.bytes.length ∧ s.freeBufs 3 6 [] = [g] ∧
      s.flight g.id = some g ∧ (s.ringLive 0 = true ∧ s.ringPlace 0 = 0 ∧ s.hostReach = true ∧ s.pcie.fails = [] ∧ s.isStandby = false) ∧
      g.basin = false ∧ g.shadow = false ∧ f.bytes.length ≤ aLength g.words ∧ aSpace g.words = 1 ∧ g.parts = [(0, 256)] ∧ f.bytes.length ≤ 256 ∧
      s.resOk 0 f.bytes.length = true ∧ s.fbit R.NET_MAC_CFG_tx_pause 3 = false := by decide
theorem witness_mac_pause :
    (let u := tMac [(R.NET_MAC_STATUS_pausing, 1, 3), (R.NET_MAC_CFG_tx_pause, 1, 3), (R.NET_PAUSE_CFG_wd_ms, 1, 3)] {}
      let s : State := { u with regs := (R.NET_RXQ_CFG.off 3 0, 0x80010000) :: (R.NET_RXQ_STATUS.off 3 0, 0x00010000) :: (R.NET_WEIR.off 3, 0) :: u.regs };
      s.fbit R.NET_MAC_STATUS_pausing 3 = true ∧ s.fbit R.NET_MAC_STATUS_wd_tx 3 = false ∧ s.fbit R.NET_MAC_CFG_tx_pause 3 = true ∧
        s.fget R.NET_WEIR_low_weir 3 < s.occupancy 3 ∧ s.macRuns 3 = true ∧ (s.mac 3).busy = false ∧ (s.mac 3).txq = [] ∧
        s.fget R.NET_PAUSE_CFG_wd_ms 3 ≠ 0 ∧
        s.fget R.NET_PAUSE_CFG_wd_ms 3 * 1000000 ≤ nsSince s (s.mac 3).pauseSince) ∧
    (let s := tMac [(R.NET_MAC_STATUS_wd_rx, 1, 3), (R.NET_PAUSE_CFG_wd_ms, 1, 3)] {};
      s.fget R.NET_PAUSE_CFG_wd_ms 3 ≠ 0 ∧ s.fbit R.NET_MAC_STATUS_wd_rx 3 = true ∧
        s.fget R.NET_PAUSE_CFG_wd_ms 3 * 1000000 ≤ nsSince s (s.mac 3).lastPause ∧ s.domOn .net = true ∧ s.live_.netEnds = []) := by
  decide
theorem witness_mac_wire :
    (let i : TxItem := { bytes := [], step := 1, kind := 4 };
      i.output = false ∧       ((tMac [] { txq := [i] }).mac 3).txq = [i] ∧ (tMac [] { txq := [i] }).macRuns 3 = true) ∧
    (let f : Flight := { id := 7, ring := 0, words := [tOp 9, 0, 0, 0, 0, 0, 60, 3, 0, 1, 1], target := 0 }
      let s : State := { tMac [] {} with rings := { flight := [f] }, time := { ptp := { t := 65536 } } };
      s.firstTimed 3 = some f ∧ s.flight f.id = some f ∧ (aWhen f.words : Int) * 65536 ≤ s.time.ptp.t ∧ s.drives = true ∧
        s.macRuns 3 = true ∧ (s.mac 3).busy = false ∧ (s.mac 3).txq = [] ∧ s.fbit R.NET_MAC_STATUS_paused 3 = false ∧
        (s.ringLive 0 = true ∧ s.ringPlace 0 = 0 ∧ s.hostReach = true ∧ s.pcie.fails = [] ∧ s.isStandby = false) ∧ f.basin = false ∧
        f.shadow = false ∧ (s.rg (R.NET_TX_LATE_COUNT.off 3)).toNat + 1 < 0xFFFFFFFF ∧
        (s.rg (R.NET_TSQ_OVERFLOW_COUNT.off 3)).toNat + 1 < 0xFFFFFFFF) := by decide

/-- SacnRules: MAC 3 sends the last internal universe, synchronized, with discovery, on a free wire, its packet due and past; the last
receive entry has no source, or one in its last place; a data packet at each end of the sequence window, terminating, and held; a
synchronization packet for what is held; 2.5 s. -/
def tSacn (v : NetMac) (l : List (Nat × SacnSrc)) : State :=
  { tMac [] v with
    net := { macs := [(3, v)], sources := l }, time := { cycles := 1250000000 }
    tables := [(tableKey 0x13 0, [(16, 1), (19, 0xA0), (135160, 1), (135163, 0xC4), (167928, 1), (167931, 0xC0)])] }
/-- A UDP datagram to 0.0.0.1, port 1. -/
def tUdp (b : List Byte) : List Byte :=
  tFrame [8, 0, 0x45, 0, 0, 0, 0, 0, 0, 0, 0, 17, 0, 0, 0, 0, 0, 0, 0, 0, 0, 1, 0, 0, 0, 1, 0, BitVec.ofNat 8 (8 + b.length), 0, 0] |>.take 42
    |> (· ++ b)
def tAcn (vector : Byte) : List Byte :=
  [0, 0x10, 0, 0, 0x41, 0x53, 0x43, 0x2D, 0x45, 0x31, 0x2E, 0x31, 0x37, 0, 0, 0, 0, 0, 0, 0, 0, vector] ++ List.replicate 18 0
def tData (sync seq options : Byte) : List Byte :=
  tUdp (tAcn 4 ++ [0, 0, 0, 2] ++ List.replicate 65 0 ++ [sync, seq] |>.take 108 |>
    (· ++ [100, 0, sync, seq, options, 0, 1, 0, 0, 2, 0, 0, 0, 0, 0, 0, 2, 0, 7]))
def tSync : List Byte := tUdp (tAcn 8 ++ [0, 0, 0, 1, 0, 0, 1, 0, 0])
theorem witness_sacn_sends :
    (let s := tSacn {} [];
      s.quiet ∧ s.domOn .net = true ∧ s.fbit R.NET_MAC_STATUS_link 3 = true ∧ s.net.ended = false ∧
        (s.live.txOn 3)[(s.mac 3).rank]? = some 16383 ∧ s.udpSends 3 = true ∧ s.macRuns 3 = true ∧ (s.mac 3).busy = false ∧
        (s.mac 3).txq = [] ∧ s.fbit R.NET_MAC_STATUS_paused 3 = false ∧ s.live.sacnTx = true ∧ s.live.sacnSync ≠ 0 ∧
        (s.live.txOn 3).any (fun u => bits (s.live.txWord u 0) 26 26 = 1) = true) ∧
    (let s := tSacn { rank := 1, synced := true } [];
      bits (s.live.sacnWord 4) 29 29 = 1 ∧ s.net.ended = false ∧ s.udpSends 3 = true ∧ s.nextDue 3 = none ∧
        (ascending ((s.live.txOn 3).map (fun u => entryUniverse (s.live.txWord u 0)))).length ≤ 512) ∧
    ({ tSacn {} [] with regs := [(R.NET_IPV4.off 3, 0)] } : State).udpSends 3 = false := by decide
theorem witness_sacn_receives :
    (∀ k : Fin 3, let b := [tData 0 1 0, tData 1 236 0, tData 0 237 0x40].getD k.val []
      let s := tSacn { rx := [(4, [{ bytes := b }])] } [];
      s.rxq 3 4 = { bytes := b } :: [] ∧ s.fbit R.NET_MAC_CFG_tx_pause 3 = false ∧ syncOf b = none ∧
        dataOf b = some {
          cid := 0, prio := 100, sync := k.val % 2, seq := [1, 236, 237].getD k.val 0, preview := false
          last := decide (k.val = 2), uni := 1, code := 0, values := [7] } ∧
        s.wakeOn R.PM_WAKE_CFG_sacn = false ∧ (s.live.rxOn 3).filter (fun r => entryUniverse (s.live.rxWord r 0) = 1) = [4095] ∧
        (∀ j, j < 4 → (s.sacnSrc 4095 j).used = false)) ∧
    (let s := tSacn {} [(4 * 4095 + 3, { used := true })];
      (List.range 4).find? (fun k => (s.sacnSrc 4095 k).used && (s.sacnSrc 4095 k).cid = 0) = some 3 ∧
        (1 + 256 - (s.sacnSrc 4095 3).seq) % 256 = 1 ∧ (236 + 256 - (s.sacnSrc 4095 3).seq) % 256 < 237 ∧
        237 ≤ (237 + 256 - (s.sacnSrc 4095 3).seq) % 256 ∧ (s.sacnSrc 4095 3).heldData = none) ∧
    (let w : SacnSrc := { used := true, heldAddr := 1, heldData := some (100, [7]) }
      let s := tSacn { rx := [(4, [{ bytes := tSync }])] } [(4 * 4095 + 3, w)];
      s.rxq 3 4 = { bytes := tSync } :: [] ∧ syncOf tSync = some 1 ∧ (s.net.sources.map Prod.fst).Nodup ∧ s.sacnSrc 4095 3 = w ∧
        2500000000 ≤ nsSince s w.heldAt ∧ 2500000000 ≤ nsSince s w.lastAt ∧ (s.sacnSrc 4095 0).heldAddr ≠ 1) := by decide +kernel

/-- MediaStreams: the last video stream on MAC 3, of one line of two pixels: a datagram that is no RTP, one of a field, a gap, a frame with
no buffer, one with a new buffer, and one with its own; the last audio stream, with RTP and without; 100 ms and 50 ms of silence. -/
def tStream (c : Nat) (b : List Byte) (frames : Nat) (v : Video) : State :=
  { tMac ([(R.NET_VID_CFG_enable, 1, 3), (R.NET_VID_CFG_mac, 3, 3), (R.NET_VID_CFG_udp_port, 1, 3), (R.NET_VID_GROUP, 1, 3),
      (R.NET_VID_SIZE_width, 2, 3), (R.NET_VID_SIZE_height, 1, 3), (R.NET_VID_HIST_BASE_frames, frames, 3),
      (R.NET_AUD_CFG_enable, 1, 7), (R.NET_AUD_CFG_mac, 3, 7), (R.NET_AUD_CFG_udp_port, 1, 7), (R.NET_AUD_CFG_channels, 1, 7),
      (R.NET_AUD_GROUP, 1, 7), (R.NET_ENV_CFG_enable, 1, 63), (R.NET_ENV_CFG_stream, 7, 63)]) { rx := [(c, [{ bytes := tUdp b }])] } with
    video := [(3, v)], time := { cycles := 50000000 }, power := { trained := true } }
def tRtp (f : Byte) : List Byte := [0x80, 0x80, 0, 5] ++ List.replicate 10 0 ++ [0, 5, f, 0, 0, 0, 1, 2, 3, 4, 5]
theorem witness_video :
    (∀ k : Fin 3, let b := [[0], tRtp 0x80, tRtp 0].getD k.val []
      let s := tStream 5 b 0 {};
      s.quiet ∧ s.rxq 3 5 = { bytes := tUdp b } :: [] ∧ s.fbit R.NET_MAC_CFG_tx_pause 3 = false ∧
        udpOf (tUdp b) = some (1, 1, b) ∧ s.videoOf 3 1 1 = some 3 ∧ ((rtpOf b).isNone = decide (k.val = 0))) ∧
    (∀ f : Fin 2, rtpOf (tRtp (BitVec.ofNat 8 (128 * f.val))) = some {
        marker := true, seq := 5, stamp := 0, payload := [0, 0, 0, 5, BitVec.ofNat 8 (128 * f.val), 0, 0, 0, 1, 2, 3, 4, 5] } ∧
      vidHeads 64 ([0, 0, 0, 5, BitVec.ofNat 8 (128 * f.val), 0, 0, 0, 1, 2, 3, 4, 5].drop 2) =
        ([(0, 0, 5, decide (f.val = 1))], [1, 2, 3, 4, 5])) ∧
    (1 ≤ (5 + 2 ^ 32 - 4) % 2 ^ 32 ∧ (5 + 2 ^ 32 - (5 + 2 ^ 31 + 1)) % 2 ^ 32 < 2 ^ 31) ∧ 5 = (4 + 1) % 2 ^ 32 :=
  ⟨by decide, by decide, by decide⟩
theorem witness_video_frames :
    mediaNear 90000 0 0 = 0 ∧
    (tStream 5 (tRtp 0) 0 { seq := some 4 }).vidTake 3 = none ∧
    (({ seq := some 4 } : Video).bufOf 0 = none ∧ (4 : Nat) < 2 ^ 32) ∧
    (let s := tStream 5 (tRtp 0) 1 { seq := some 4 };
      s.vidTake 3 = some 0 ∧ (s.vid 3).cur = none ∧ (s.vid 3).skip ≠ some 0 ∧ 0 < s.vidH 3 ∧ s.resAwake = true ∧
        0 < s.vidW 3 * vidPair (s.fget R.NET_VID_CFG_format 3) / 16) ∧
    (let s := tStream 5 (tRtp 0) 1 { seq := some 4, cur := some 0, bufs := [(0, { used := true })] };
      (s.vid 3).bufOf 0 = some 0 ∧ (mget vb0 (s.vid 3).bufs 0).media = 0 ∧ (mget vb0 (s.vid 3).bufs 0).complete = false) ∧
    (let s := tStream 5 [] 0 {};
      100000000 ≤ nsSince s (s.vid 3).lastAt) ∧ nsSince State.reset (State.reset.vid 3).lastAt < 100000000 := by decide
theorem witness_audio :
    (∀ k : Fin 2, let b := [[0], tRtp 0].getD k.val []
      let s := tStream 3 b 0 {};
      s.rxq 3 3 = { bytes := tUdp b } :: [] ∧ s.fbit R.NET_MAC_CFG_tx_pause 3 = false ∧ udpOf (tUdp b) = some (1, 1, b) ∧
        s.audioOf 3 1 1 = some 7 ∧ ((rtpOf b).isNone = decide (k.val = 0)) ∧ s.fbit R.NET_ENV_CFG_enable 63 = true ∧
        s.fget R.NET_ENV_CFG_stream 63 = 7 ∧ s.fget R.NET_ENV_CFG_channel 63 < s.fget R.NET_AUD_CFG_channels 7 ∧
        50000000 ≤ nsSince s (s.aud 7).lastAt) ∧
    nsSince State.reset (State.reset.aud 7).lastAt < 50000000 := by decide

/-- PtpMessages: MAC 3 as a LEADER and as a FOLLOWER on a free wire, and in neither role; each message that it takes, in both classes. -/
def tPtp (cfg : Byte) (c : Nat) (b : List Byte) (p : PtpPort) : State :=
  { tMac [] { rx := [(c, [{ bytes := b }])], ptp := p } with tables := [(tableKey 0x15 0, [(163, cfg)])] }
def tPtpMsg (type flags : Byte) : List Byte :=
  List.replicate 12 0 ++ [0x88, 0xF7, type, 2, 0, 0, 0, 0, flags] ++ List.replicate 22 0 ++ [1, 0, 0] ++ List.replicate 12 0 ++
    [0, 0, 0, 0xFF, 0xFE, 0, 0, 0, 0, 4] ++ List.replicate 10 0
theorem witness_ptp_due :
    (∀ k : Fin 3, let p : PtpPort := [{ lastSync := some (0, 0) }, { parent := some 1 }, {}].getD k.val {}
      let s := tPtp ([0xB0, 0x80, 0x80].getD k.val 0) 0 [] p
      let u := (s.ptpAge 3).ptpDecide;
      s.quiet ∧ s.ptpOn 3 = true ∧ u.ptpSends 3 = true ∧ (u.mac 3).busy = false ∧ (u.mac 3).txq = [] ∧
        u.fbit R.NET_MAC_STATUS_paused 3 = false ∧ u.nextDue 3 = none ∧ (u.pport 3).st = [2, 1, 0].getD k.val 0 ∧ u.drives = true ∧
        (u.pport 3).lastSync = p.lastSync ∧ bits (u.live.ptpWord 3 0) 28 28 = [1, 0, 0].getD k.val 0) := by decide
theorem witness_ptp_receives :
    (∀ c : Fin 2, ∀ k : Fin 8, let e : Byte × Byte := [(0, 2), (0, 0), (8, 0), (9, 0), (0xB, 0), (0xC, 0), (0xD, 0), (1, 0)].getD k.val (0, 0)
      let b := tPtpMsg e.1 e.2
      let p : PtpPort := { st := 1, parent := some 1, twoStep := some (0, 0), delayReq := some (0, some 0), pair := some (0, 0) }
      let s := tPtp 0x80 c.val b p;
      s.rxq 3 c.val = { bytes := b } :: [] ∧ (c = 1 → s.rxq 3 0 = []) ∧ s.fbit R.NET_MAC_CFG_tx_pause 3 = false ∧ s.ptpOn 3 = true ∧
        s.ptpOf 3 b = some (b.drop 14) ∧ (s.pport 3).st = 1 ∧ s.fromParent 3 (b.drop 14) = true ∧
        fNum (b.drop 14) 0 1 % 16 = e.1.toNat ∧ fNum (b.drop 14) 6 1 / 2 % 2 = e.2.toNat / 2 ∧ fNum (b.drop 14) 30 2 = 0 ∧
        fNum (b.drop 14) 44 10 = s.portId 3 ∧ fNum (b.drop 14) 20 10 / 65536 ≠ s.clockId) ∧
    (let b := tPtpMsg 1 0
      let s := tPtp 0xA0 0 b { st := 2 };
      (s.pport 3).st = 2 ∧ s.drives = true ∧ s.ptpSends 3 = true ∧ (s.mac 3).busy = false ∧ (s.mac 3).txq = [] ∧
        s.fbit R.NET_MAC_STATUS_paused 3 = false ∧ s.nextDue 3 = none ∧ (s.pport 3).parent = none) := by decide
/-- PtpMessages: an Announce of 255 steps, and one heard by a port that knows no leader, five others, or its sender. -/
theorem witness_ptp_announce :
    (∀ k : Fin 4, let b := (tPtpMsg 0xB 0).take 75 ++ [0, BitVec.ofNat 8 (if k.val = 3 then 255 else 254), 0]
      let l : List PtpForeign := [[], (List.range 5).map (fun i => ⟨i + 2, [], 0, none⟩), [⟨1, [], 0, none⟩], []].getD k.val []
      let s := tPtp 0x80 0 b { foreign := l };
      s.quiet ∧ s.rxq 3 0 = { bytes := b } :: [] ∧ s.ptpOn 3 = true ∧ s.ptpOf 3 b = some (b.drop 14) ∧
        fNum (b.drop 14) 0 1 % 16 = 0xB ∧ fNum (b.drop 14) 20 10 = 1 ∧ 1 / 65536 ≠ s.clockId ∧
        (255 ≤ fNum (b.drop 14) 61 2 ↔ k.val = 3) ∧ (s.pport 3).foreign = l ∧
        (k.val ≠ 2 → ∀ r ∈ l, r.id ≠ 1) ∧ (k.val = 0 → l.length < 5) ∧ (k.val = 1 → 5 ≤ l.length) ∧
        (k.val = 2 → l.find? (fun r => r.id = 1) = some ⟨1, [], 0, none⟩)) := by decide

/-- TimeBases: each base in each state, its loss time over, and not yet, the holdover limit passed; LTC off, bad, and good in each state of the base, before its run is
full and at its end, within the step threshold and beyond; a tally edge not accepted, and accepted by an empty queue and a full one; each
mode of gate 7, with one pulse left, two, the most, and without end. -/
def tBase (b : Base) (need : Byte) : State :=
  { State.reset with
    tables := [(tableKey 0x15 0, [(42, need), (43, 0x80), (48, 1)])]
    time := { cycles := 500000000, ptp := b, tcode := b, drv := b, loc := { t := 2 ^ 60 } } }
theorem witness_bases :
    (∀ w : Fin 3, ∀ st : Fin 4, let s := tBase { st := st.val, prior := 3 } 8;
      s.quiet ∧ (s.follow (followOf w)).st = st.val ∧ (s.follow (followOf w)).prior < 4 ∧
        bits (s.tword 0x15 0 12) 23 0 ≠ 0 ∧ (s.follow (followOf w)).limitSent = false ∧
        bits (s.tword 0x15 0 12) 23 0 ≤ s.holdSeconds (s.follow (followOf w)) ∧ s.baseLost (followOf w) = true) ∧
    State.reset.baseLost .tcode = false := by decide
theorem witness_ltc :
    (∀ st : Fin 4, ∀ need : Fin 2, let s := tBase { st := st.val } (BitVec.ofNat 8 (8 - 6 * need.val));
      s.domOn .net = true ∧ s.isStandby = false ∧ bits (s.tword 0x15 0 10) 31 31 = 1 ∧ bits (s.tword 0x15 0 10) 30 30 = 0 ∧
        ltcValid s.ltcRate 23 59 59 23 = true ∧ ltcValid s.ltcRate 24 0 0 0 = false ∧ ltcValid s.ltcRate 0 0 0 0 = true ∧
        (s.rg R.TIM_LTC_ERR_COUNT.off).toNat + 1 < 0xFFFFFFFF ∧ s.time.tcode.sampled = false ∧
        bits (s.tword 0x15 0 10) 20 17 = 4 - 3 * need.val ∧ s.beyondStep .tcode 0 = false ∧
        s.beyondStep .tcode (10 * sec16) = true ∧ ltcTime s.ltcRate (ltcCount s.ltcRate 0 0 0 0) = 0) ∧
    bits (State.reset.tword 0x15 0 10) 31 31 = 0 := by decide
theorem witness_tally :
    (let s := tSet [(R.TIM_CTRL_tally_enable, 1, 0), (R.TIM_TALLY_CFG, 0xFFFFFFFF, 31)];
      s.edgeAccepted 31 true 1000000000 = true ∧ s.wakeOn R.PM_WAKE_CFG_tally_watch = false ∧ s.time.tally.length < 1024) ∧
    State.reset.edgeAccepted 31 true 1000000000 = false := by decide
theorem witness_tally_full : 1024 ≤ (List.replicate 1024 ({} : TallyEntry)).length := Nat.le_of_eq List.length_replicate.symm
theorem witness_gates :
    (∀ mode : Fin 4, ∀ x : Fin 4, let y : Gate := { armed := true, left := [1, 2, 65536, 0].getD x.val 0, endless := decide (x.val = 3) }
      let s : State := { tSet [(R.TIM_GATE_CFG_mode, mode.val, 7), (R.TIM_CTRL_gate_enable, 1, 0)] with time := { gates := [(7, y)], clock := { tf := [(1, 0)] } } };
      s.gate 7 = y ∧ s.fget R.TIM_GATE_CFG_mode 7 = mode.val ∧ s.gateFrame 7 y.frame (fun t => decide (t ≤ s.clockNow)) = some 1 ∧
        s.gateFrame 7 2 (fun t => decide (t ≤ s.clockNow)) = none ∧ y.next ≤ s.reading (s.fget R.TIM_GATE_CFG_base 7) ∧
        s.reading (s.fget R.TIM_GATE_CFG_base 7) < 1 ∧ s.fget R.TIM_GATE_CFG_delay_ns 7 = 0 ∧ (s.gate 0).armed = false ∧ s.fbit R.TIM_CTRL_gate_enable = true ∧
        s.drives = true) ∧
    ({ State.reset with domains := 0xFFB } : State).domOn .sys = false ∧
      ({ State.reset with domains := 0xFFB } : State).fbit R.TIM_CTRL_gate_enable = false := by decide

/-- RasterHeads: output 1 enabled with its sink, in training and not; the Cistern off, and PD_HOST; no frame due; frame 1 due, with a change
of timing that lands on an ACTIVE device and on a standby; a picture of it; an output that is not trained, blanked and not; a raster frame
within `mult` that is due, and one beyond; an output asked to agree to a sleep, and one that has. -/
def tRas (now : Int) (v : RasOut) (l : List (RF × Nat × Nat)) : State :=
  { tSet ([(R.RAS_CTRL_raster_enable, 1, 0)] ++ l) with
    tables := [(tableKey 0x14 1, [(3, 0x80)])], ras := [(1, v)], time := { clock := { tf := [(1, 0)] }, loc := { t := now } } }
theorem witness_raster :
    (let s := tRas 0 { sink := some (4, 3), training := true } [];
      s.quiet ∧ s.domOn .cistern = true ∧ s.domOn .host = true ∧ (s.rg (R.RAS_HPD_COUNT.off 1)).toNat + 1 < 0xFFFFFFFF ∧
        s.rasEnabled 1 = true ∧ (s.ro 1).sink = some (4, 3) ∧ (s.rg (R.RAS_RETRAIN_COUNT.off 1)).toNat + 1 < 0xFFFFFFFF ∧
        (s.ro 1).training = true ∧ (s.ro 0).training = false ∧ (s.ro 0).sink = none ∧ s.rasEnabled 0 = false ∧ s.domOn .sys = true) ∧
    (let s : State := { State.reset with domains := 0xFBF };
      s.domOn .cistern = false ∧ s.rasRuns = false) ∧
    ({ State.reset with domains := 0xBFF } : State).domOn .host = false ∧
    (tRas (-1) {} []).rasDue 1 0 = none ∧
    (∀ role ∈ [roleSolo, roleStandby], let c : RasChange := { frame := 1, words := [0x80200000], clock := (1, 1) }
      let s := tRas 0 { changes := [c] } [(R.SIP_STATUS_role, role, 0)];
      s.quiet ∧ s.rasRuns = true ∧ s.rasDue 1 0 = some 1 ∧ (s.ro 1).landing 1 = some c ∧
        s.rasDrives = decide (role = roleSolo)) := by decide
theorem witness_raster_scan :
    (∀ j ∈ [0, 1, 2], let l : List Nat := [0x80200000]
      let s := tRas (2 ^ 48) { scan := l, shown := b2n (j ≠ 0), pics := [{ frame := 1, buf := 0, words := l }] }
        [(R.RAS_OUT_STATUS_trained, 1, 1)];
      s.rasRuns = true ∧ s.rasDue 1 j = some 1 ∧ s.rasDrives = true ∧ rasOn (s.ro 1).scan = true ∧
        (j < rasMult (s.ro 1).scan ↔ j ≠ 2) ∧ s.fbit R.RAS_OUT_STATUS_trained 1 = true ∧ s.quiesced 0x09 = false ∧
        s.rasShown 1 1 = some { frame := 1, buf := 0, words := l } ∧ (s.ro 1).landing 1 = none) ∧
    (∀ k : Fin 2,
      let s := tRas 0 { scan := [0x80200000], idle := decide (k.val = 1) }
        [(R.RAS_OUT_STATUS_blanking, k.val, 1), (R.PM_STATE_phase, 1, 0), (R.PM_STATE_block, 9, 0)]
      s.fbit R.RAS_OUT_STATUS_trained 1 = false ∧ s.fbit R.RAS_OUT_STATUS_blanking 1 = decide (k.val = 1) ∧
        s.rasShown 1 1 = none ∧ s.rasDue 1 0 = some 1 ∧ (s.ro 1).landing 1 = none ∧ s.quiesced 0x09 = true) ∧
    rasOn ((tRas 0 {} []).ro 1).scan = false := by decide

/-- RasterHeads, taken together: an output that scans, not trained and blanking, with nothing to show; a raster frame within `mult` of an
output that has agreed to a sleep. -/
theorem witness_raster_blank :
    (let s := tRas 0 { scan := [0x80200000] } [(R.RAS_OUT_STATUS_blanking, 1, 1)];
      s.quiet ∧ s.rasDue 1 0 = some 1 ∧ s.rasRuns = true ∧ (s.ro 1).landing 1 = none ∧ s.rasDrives = true ∧
        rasOn (s.ro 1).scan = true ∧ s.quiesced 0x09 = false ∧ s.fbit R.RAS_OUT_STATUS_trained 1 = false ∧
        s.fbit R.RAS_OUT_STATUS_blanking 1 = true ∧ (s.rg (R.RAS_BLANK_COUNT.off 1)).toNat + 1 < 0xFFFFFFFF) ∧
    (∀ idle : Bool,
      let s := tRas (2 ^ 48) { scan := [0x80200000], shown := 1, idle := idle } [(R.PM_STATE_phase, 1, 0), (R.PM_STATE_block, 9, 0)];
      s.quiet ∧ s.rasDue 1 1 = some 1 ∧ s.rasRuns = true ∧ s.rasDrives = true ∧ 1 < rasMult (s.ro 1).scan ∧
        s.quiesced 0x09 = true ∧ (s.ro 1).idle = idle ∧ s.rasShown 1 1 = none) := by decide

/-- BasinMarks and BasinOps: a device with its last down port enabled, as the root (1), joined at a depth of 3 or less (2), or alone (3),
with a child or none; a message of each type, whole and not. -/
def tBsn (kind child addr op : Nat) (b : Basin) : State :=
  { tSet [(R.BSN_CTRL_basin_enable, 1, 0), (R.BSN_CTRL_is_root, if kind = 1 then 1 else 0, 0), (R.BSN_CTRL_down_enable, 0x8000, 0),
      (R.BSN_STATUS_joined, if kind = 2 then 1 else 0, 0), (R.BSN_STATUS_address, addr, 0), (R.BSN_PORT_STATUS_child, child, 15),
      (R.BSN_PORT_STATUS_link, 1, 16), (R.BSN_OP_STATUS_op_state, op, 0), (R.BSN_OP_ARG, 7, 0)] with basin := b }
def tMsg (type : Nat) (payload : List Byte) (refused : Bool := false) : BsnMsg :=
  { type := type, refused := refused, lock := false, origin := 0, id := 7, frame := 1, payload := payload }
theorem witness_basin_parse :
    (∀ type : Fin 12, type ≠ 0 → ∀ refused : Bool,
      bsnParse (tMsg type.val [0, 0, 0, 0] refused).bytes = some (tMsg type.val [0, 0, 0, 0] refused)) ∧
    bsnParse [] = none := by decide +kernel
theorem witness_basin_marks :
    (let s := tBsn 1 1 0 0 {};
      s.quiet ∧ s.domOn .net = true ∧ s.isRoot = true ∧ s.drives = true ∧ s.children = [15] ∧ s.childOn 15 = true ∧
        s.paired = false) ∧
    (let s := tBsn 3 1 0 0 {};
      (s.joined || s.isRoot) = false ∧ s.fbit R.BSN_CTRL_basin_enable = true ∧ s.fbit R.BSN_PORT_STATUS_link 16 = true ∧
        s.paired = false) ∧
    (let s := tBsn 3 0 0 0 { barrier := some 7, arrived := true };
      s.joined = false ∧ s.isRoot = false ∧ s.basin.joins = [] ∧ s.basin.barrier = some 7 ∧ s.basin.arrived = true ∧ s.children = []) ∧
    (let s := tBsn 2 0 0x4000 0 {};
      s.joined = true ∧ s.isRoot = false ∧ s.lockSource ≠ 3 ∧ (tMsg 1 [0, 0, 0, 0]).frame = s.nextFrame ∧
        ({ tMsg 1 [0, 0, 0, 0] with frame := 2 }).frame ≠ s.nextFrame ∧ s.basin.take ≠ some 2) ∧
    ({ tBsn 2 0 0x4000 0 {} with tables := [(tableKey 0x15 0, [(3, 0xC0)])] } : State).lockSource = 3 := by decide
theorem witness_basin_joins :
    (∀ kind : Fin 3, kind ≠ 0 → ∀ d : Fin 4, let s := tBsn kind.val 0 (d.val * 2 ^ 14) 0 {};
      s.fget R.BSN_CTRL_down_enable / 2 ^ 15 % 2 = 1 ∧ s.childOn 15 = false ∧ s.fbit R.BSN_PORT_STATUS_child 15 = false ∧
        s.drives = true ∧ addrDepth s.bAddr = d.val ∧ s.basin.joins = [] ∧ s.isRoot = decide (kind = 1) ∧ s.joined = decide (kind = 2)) ∧
    (tMsg 3 []).origin = 0 ∧ ({ tMsg 3 [] with origin := 0x8FF0 }).origin ≠ 0 ∧
    (let s := tBsn 1 0 0 0 {}
      let total (n : Nat) : Nat := s.subtree + ((s.bport 15).accept (s.childAddr 15) n 2).devices;
      lNum ([0xFF, 0x0F, 2, 0] : List Byte) 0 2 = 4095 ∧ total 4095 = 4096 ∧ 4096 < total 4096 ∧ s.childOn 15 = false ∧
        lNum ([0xFF, 0x0F, 2, 0] : List Byte) 2 2 = 2 ∧ addrDepth (s.childAddr 15) + 2 = 3 ∧ 3 < addrDepth (s.childAddr 15) + 3) ∧
    (let s := tBsn 1 1 0 0 { ports := [(15, { known := [(0x4F00, 1, 0)] })] }
      let total (n : Nat) : Nat := s.subtree + ((s.bport 15).accept 0x8FF0 n 1).devices - (s.bport 15).devices;
      s.childOn 15 = true ∧ total 4094 = 4096 ∧ 4096 < total 4095 ∧ addrDepth 0x8FF0 + 1 = 3) ∧
    (∀ own : Bool, let j : JoinReq := { address := 0x8000, devices := 1, depth := 0, port := 15, own := own, sent := true }
      let s := tBsn 2 0 0x4000 0 { joins := [j] };
      s.basin.joins.find? (fun j => j.sent && j.address = lNum ([0, 0x80] : List Byte) 0 2) = some j ∧ j.port < 16) ∧
    (let s := tBsn 1 1 0 0 { ports := [(15, { missed := 4 }), (14, { missed := 3 })] };
      4 ≤ (s.bport 15).missed ∧ (s.bport 14).missed < 4 ∧ s.basin.op = 0 ∧ s.basin.barrier = none ∧ s.basin.arrived = false) := by
  decide
theorem witness_basin_starts :
    (∀ op : Fin 6, getBits (BitVec.ofNat 32 (op.val * 2 ^ 28 + 256)) 31 28 = op.val ∧
      getBits (BitVec.ofNat 32 (op.val * 2 ^ 28 + 256)) 8 0 = 256 ∧ getBits (BitVec.ofNat 32 (op.val * 2 ^ 28 + 257)) 8 0 = 257 ∧
      getBits (BitVec.ofNat 32 (op.val * 2 ^ 28)) 8 0 = 0) ∧
    (tBsn 1 1 0 opBusy {}).opState = opBusy ∧
    (∀ child : Fin 2, let s := tBsn 1 child.val 0 0 {};
      s.opState ≠ opBusy ∧ s.isRoot = true ∧ s.children = (if child = 1 then [15] else []) ∧ (s.bport 15).arrived = none ∧
        s.fget R.BSN_OP_ARG = 7 ∧ commitOk (basinWords (s.fget R.BSN_OP_ARG) 1) = false ∧ s.basin.barrier = none) ∧
    (let s := tBsn 2 0 0x4000 0 { barrier := some 6 };
      s.isRoot = false ∧ s.opState ≠ opBusy ∧ s.joined = true ∧ s.children = [] ∧ s.basin.barrier = some 6 ∧
        6 ≠ s.fget R.BSN_OP_ARG) ∧
    (tBsn 1 0 0 0 { barrier := some 7 }).basin.lost = 0 := by decide
theorem witness_basin_received :
    (∀ child : Fin 2, let s := tBsn 2 child.val 0x4000 0 {};
      s.domOn .net = true ∧ s.joined = true ∧ s.isRoot = false ∧ s.children = (if child = 1 then [15] else []) ∧
        commitOk (basinWords (lNum (tMsg 5 [7, 0, 0, 0]).payload 0 4) 1) = false ∧ s.basin.bcast.length < 16) ∧
    16 ≤ (tBsn 2 0 0x4000 0 { bcast := List.replicate 16 [] }).basin.bcast.length ∧
    (tBsn 2 0 0x4000 0 { barrier := some 7, arrived := true }).basin.barrier = some (tMsg 8 []).id ∧
    (tBsn 2 0 0x4000 0 {}).basin.barrier ≠ some (tMsg 8 []).id ∧
    (let s := tBsn 2 1 0x4000 0 { barrier := some 7, arrived := true };
      s.childOn 15 = true ∧ s.basin.barrier = some (tMsg 7 []).id ∧ s.basin.arrived = true ∧ s.children = [15] ∧ s.isRoot = false ∧
        s.joined = true) ∧
    (∀ n : Fin 2, let s := tBsn 1 1 0 0 { barrier := some 7, arrived := true, ports := [(15, { known := [(0x4F00, 1, 0)] })] };
      s.isRoot = true ∧ s.basin.barrier = some (tMsg 7 []).id ∧ s.basin.arrived = true ∧ s.children = [15] ∧ s.childOn 15 = true ∧
        s.basin.lost + ((s.bport 15).devices - n.val) = 1 - n.val) ∧
    (let s := tBsn 2 1 0x4000 0 { barrier := some 6 };
      s.basin.barrier = some 6 ∧ 6 ≠ (tMsg 7 []).id ∧ s.basin.arrived = false) ∧
    (∀ kind : Fin 3, kind ≠ 0 → let s := tBsn kind.val 1 0 0 { op := 1, opId := 7, own := some 0 };
      s.childOn 15 = true ∧ s.basin.op ≠ 0 ∧ s.basin.opId = (tMsg 0x0B []).id ∧ s.basin.own = some 0 ∧ s.children = [15] ∧
        s.isRoot = decide (kind = 1)) ∧
    (let s := { tBsn 1 1 0 0 { op := 1, opId := 7, own := some 0 } with regs := (R.BSN_CTRL.off, 0xC000C000) ::
        (R.BSN_PORT_STATUS.off 14, 0x40000000) :: (tBsn 1 1 0 0 {}).regs };
      s.children = [14, 15] ∧ (s.bport 14).report = none) := by decide

/-- TandemLink: a device of a pair in each role, with a show key and without, a peer heard now, of each role, or never; heartbeats sent and
received on the Ethernet path, and over the link alone; a heartbeat missed, a failure that may be taken over, with the frame in hand
whole, the next one, and none, and one that may not; the link up, down, and with its keys spent. -/
def tPair (role : Nat) (l : List (RF × Nat × Nat)) (key : Bool) (q : Tandem) : State :=
  { tSet ([(R.SIP_CTRL_tandem_enable, 1, 0), (R.SIP_STATUS_role, role, 0), (R.SLC_STATUS_drbg_ready, 1, 0)] ++ l) with
    tandem := q, sluice := { showKey := if key then some [] else none }, time := { cycles := 5000000 } }
theorem witness_join_timer :
    (∀ peer : Fin 4, ∀ unit : Fin 2,
      let s := tPair roleJoining [(R.SIP_CTRL_unit, unit.val, 0), (R.SIP_CTRL_prefer_active, unit.val, 0)] true
        { heardAt := some 5000000, peerRole := peer.val }
      s.quiet ∧ s.paired = true ∧ s.role = roleJoining ∧ 10000000 ≤ nsSince s s.tandem.roleAt ∧
        s.sluice.showKey.isSome = true ∧ s.within s.tandem.heardAt 250000 = true ∧ s.tandem.peerRole = peer.val ∧
        s.fbit R.SIP_CTRL_unit = decide (unit = 1) ∧ s.within s.tandem.unknownAt 250000 = false ∧
        s.fbit R.SIP_CTRL_prefer_active = decide (unit = 1)) ∧
    (let s := tPair roleJoining [] true {};
      s.within s.tandem.heardAt 250000 = false ∧ s.within s.tandem.unknownAt 250000 = false) ∧
    (tPair roleActive [] true {}).role ≠ roleJoining := by decide
/-- TandemLink, taken together: a device that hears nothing and prefers to be active; an ACTIVE device to which a younger one's heartbeat
comes on the Ethernet path; a failure taken over with the next frame in hand and no whole one. -/
theorem witness_tandem_joint :
    (let s := tPair roleJoining [(R.SIP_CTRL_prefer_active, 1, 0)] true {};
      s.quiet ∧ s.paired = true ∧ s.role = roleJoining ∧ 10000000 ≤ nsSince s s.tandem.roleAt ∧ s.sluice.showKey.isSome = true ∧
        s.within s.tandem.heardAt 250000 = false ∧ s.within s.tandem.unknownAt 250000 = false ∧
        s.fbit R.SIP_CTRL_prefer_active = true) ∧
    (let s : State := { tPair roleActive [(R.SIP_CTRL_hb_eth_enable, 1, 0), (R.SIP_CTRL_hb_mac, 3, 0)] true {} with
        net := { macs := [(3, { rx := [(2, [{ bytes := [] }])] })] } };
      s.quiet ∧ s.paired = true ∧ s.role = roleActive ∧ s.fbit R.SIP_CTRL_hb_eth_enable = true ∧
        s.rxq (s.fget R.SIP_CTRL_hb_mac) 2 ≠ [] ∧ s.sluice.showKey.isSome = true ∧ s.tandem.activeTime < 1) ∧
    (let s := tPair roleStandby [(R.SIP_CTRL_auto_takeover, 1, 0), (R.SIP_STATUS_current, 1, 0)] true
        { activeAt := some 0, link := true, incoming := [⟨1, 1, []⟩, ⟨0x0F, 0, []⟩] };
      s.quiet ∧ (s.paired && s.isStandby && !s.tandem.failed && s.tandem.activeAt.isSome &&
        !(s.within s.tandem.activeAt 250000) && !(s.within s.tandem.unknownAt 250000)) = true ∧
        s.fbit R.SIP_CTRL_auto_takeover = true ∧ s.fbit R.SIP_STATUS_current = true ∧
        s.ledgerWhole = false ∧ s.ledgerNext = true) := by decide
theorem witness_heartbeats :
    (∀ role : Fin 4, role ≠ 0 → let s := tPair role.val [] true { link := true, heardAt := some 0 };
      s.paired = true ∧ s.role = role.val ∧ s.tandem.silent = false ∧ s.fbit R.SIP_CTRL_hb_eth_enable = false ∧
        s.sluice.showKey.isSome = true ∧ s.tandem.link = true ∧ s.isStandby = decide (role = 2) ∧
        s.within s.tandem.heardAt 125000 = false ∧ s.tandem.heardAt.isSome = true ∧
        (s.rg R.SIP_HB_MISS_COUNT.off).toNat + 1 < 0xFFFFFFFF ∧ s.tandem.activeTime < 1 ∧ s.siphonOn = true) ∧
    (let s : State := { tPair roleStandby [(R.SIP_CTRL_hb_eth_enable, 1, 0), (R.SIP_CTRL_hb_mac, 3, 0)] true {} with
        net := { macs := [(3, { rx := [(2, [{ bytes := [] }])] })] } };
      s.paired = true ∧ s.fbit R.SIP_CTRL_hb_eth_enable = true ∧ s.rxq (s.fget R.SIP_CTRL_hb_mac) 2 ≠ [] ∧ s.tandem.link = false) ∧
    (let s := tPair roleActive [(R.SIP_CTRL_hb_eth_enable, 1, 0), (R.SIP_CTRL_hb_mac, 3, 0), (R.NET_MAC_CFG_enable, 1, 3),
        (R.NET_MAC_STATUS_link, 1, 3)] true {};
      s.fget R.SIP_CTRL_hb_mac = 3 ∧ s.fbit R.SIP_CTRL_hb_eth_enable = true ∧ s.macRuns 3 = true ∧ (s.mac 3).busy = false ∧
        (s.mac 3).txq = [] ∧ s.fbit R.NET_MAC_STATUS_paused 3 = false ∧ s.nextDue 3 = none) ∧
    State.reset.paired = false ∧ State.reset.tandem.link = false ∧ (tPair roleStandby [] false {}).sluice.showKey.isSome = false ∧
    (tPair roleStandby [] false {}).paired = true ∧ (tPair roleStandby [] false {}).tandem.silent = false := by decide
theorem witness_failure :
    (∀ auto : Fin 2,
      let s := tPair roleStandby [(R.SIP_CTRL_auto_takeover, auto.val, 0), (R.SIP_STATUS_current, 1, 0)] true
        { activeAt := some 0, link := true };
      (s.paired && s.isStandby && !s.tandem.failed && s.tandem.activeAt.isSome && !(s.within s.tandem.activeAt 250000) &&
        !(s.within s.tandem.unknownAt 250000)) = true ∧ s.fbit R.SIP_CTRL_auto_takeover = decide (auto = 1) ∧
        s.fbit R.SIP_STATUS_current = true ∧ s.ledgerNext = false) ∧
    (∀ started next : Bool, let close : List LedgerRec := [⟨1, 1, []⟩, ⟨0x0F, 0, []⟩]
      let s := tPair roleStandby [(R.SIP_STATUS_current, 1, 0)] true
        { started := started, received := close, incoming := if next then close else [] }
      s.ledgerWhole = started ∧ s.ledgerNext = next) ∧
    (tPair roleActive [] true {}).isStandby = false ∧ (tPair roleActive [] true {}).paired = true ∧
    ((0x80800000 : Word).getLsbD 23 = true ∧ (0x80800000 : Word).getLsbD 31 = true ∧
      (tPair roleActive [] true {}).fbit R.SIP_CTRL_tandem_enable = true ∧ (tPair roleActive [] true {}).domOn .net = true) ∧
    (let s := tPair roleActive [] true {};
      s.sluice.showKey = some [] ∧ s.tandem.link = false ∧ s.drbgReady = true ∧ s.sluice.siphUnits < 2 ^ 32) ∧
    2 ^ 32 ≤ ({ siphUnits := 2 ^ 32 } : Sluice).siphUnits ∧
    (let s := tPair roleStandby [(R.SIP_STATUS_current, 0, 0)] true { link := true };
      s.isStandby = true ∧ s.fbit R.SIP_STATUS_current = false ∧ s.tandem.link = true) ∧
    ({ State.reset with domains := 0xDFF } : State).domOn .net = false := by decide

/-- TandemLedger: a standby that hears its active, with no ledger in transfer, with one whole, and working from it, its frame's ledger
closed and not, staged early and not, the start of the next one held; the digest of a staged one, good and bad; one that catches up;
health due; self-tests. -/
def tHear (l : List (RF × Nat × Nat)) (q : Tandem) : State := tPair roleStandby l true { q with link := true }
theorem witness_ledger :
    (let s := tHear [] { started := true, reading := true, eval := 1, incoming := [⟨1, 1, []⟩] };
      s.quiet ∧ (s.paired && s.tandem.link && s.isStandby) = true ∧ s.tandem.started = true ∧ s.tandem.reading = true ∧
        s.tandem.digestHeld = none ∧ s.tandem.startHeld = false ∧ s.fbit R.SIP_STATUS_current = false ∧
        s.domOn .res = true ∧ s.clockRuns = true ∧ s.domOn .pix = true ∧
        s.tandem.received.find? (fun r => r.kind = 0x0F) = none) ∧
    (tHear [] {}).tandem.started = false ∧
    (let s := tHear [(R.SIP_STATUS_current, 1, 0)] { incoming := [⟨1, 1, []⟩, ⟨0x0B, 0, []⟩] };
      (s.paired && s.isStandby && s.clockRuns && s.domOn .pix && (s.fbit R.SIP_STATUS_current || s.tandem.catchPhase = 3)) = true ∧
        s.tandem.started = false ∧ cutShift ⟨1, 1, []⟩ = 0 ∧ s.basin.shift = 0 ∧
        s.tandem.incoming.find? (fun r => r.kind = 0x01) = some ⟨1, 1, []⟩ ∧
        s.tandem.incoming.any (fun r => decide (0x0B ≤ r.kind)) = true) ∧
    (let s := tHear [(R.SIP_STATUS_current, 1, 0)] {};
      s.tandem.incoming.find? (fun r => r.kind = 0x01) = none) ∧
    (∀ early : Bool, let s : State := { tHear [(R.SIP_STATUS_current, 1, 0)]
          { started := true, startHeld := !early, received := [⟨0x0F, 0, []⟩], incoming := [⟨1, 1, []⟩, ⟨0x0B, 0, []⟩] } with
        time := { clock := { staged := early } } };
      s.tandem.received.find? (fun r => r.kind = 0x0F) = some ⟨0x0F, 0, []⟩ ∧ s.tandem.digestHeld = none ∧ s.stageEarly = early ∧
        s.tandem.startHeld = !early ∧ s.fbit R.SIP_STATUS_current = true ∧ s.clockRuns = true ∧ s.domOn .pix = true) ∧
    (∀ same : Bool, (tHear [] { digestHeld := some same, catchPhase := 3 }).tandem.digestHeld = some same ∧
      (tHear [] { digestHeld := some same, catchPhase := 3 }).tandem.catchPhase = 3) := by decide
theorem witness_health :
    (tHear [] {}).siphonOn = true ∧ (tHear [] {}).paired = true ∧
    (let s : State := { tHear [] {} with time := { cycles := 1500000000 } };
      3000000000 ≤ nsSince s s.tandem.healthAt) ∧
    nsSince (tHear [] {}) (tHear [] {}).tandem.healthAt < 3000000000 ∧ State.reset.paired = false ∧ State.reset.siphonOn = false := by
  decide

/-- CodeExpansion: the ends of an 8-bit and a 16-bit code. SpillCounterSaturates: below, one short of the end, and at it. -/
theorem witness_codes : 0 < 8 ∧ 255 < 2 ^ 8 ∧ 0 < 16 ∧ 65535 < 2 ^ 16 ∧ tRun.coreReady 0 = true := by decide
theorem witness_spill :
    isSpill R.GLB_ACCESS_ERR_COUNT.off = true ∧ State.reset.domOn .sys = true ∧
    ((State.reset.rg R.GLB_ACCESS_ERR_COUNT.off).toNat < 0xFFFFFFFE) ∧
    ((tRegs [(R.GLB_ACCESS_ERR_COUNT.off, 0xFFFFFFFE)]).rg R.GLB_ACCESS_ERR_COUNT.off).toNat = 0xFFFFFFFE ∧
    ((tRegs [(R.GLB_ACCESS_ERR_COUNT.off, 0xFFFFFFFF)]).rg R.GLB_ACCESS_ERR_COUNT.off).toNat = 0xFFFFFFFF := by decide
end

section
/-! PROOFS. The events of a frame (R22, R588): a frame that a standby stages is dropped where the command's own report makes the
standby NOT_CURRENT. -/

namespace Sys2Proof.Machine

open Sys2Proof

/-- A current standby that has evaluated the members of its frame, its cue deadline past. Canvas 0 is composed, and its signature
rectangle 0 feeds Gauge 0, which compares with a value that the check does not give (R530). A frame-bound EVENT task waits for the
Silt trap's source 72 (R99); the ledger of the active names no late task. The trap holds an entry for each report
that comes, so that no free value picks one (R535): the Gauge's mismatch, whose window is over, the late task by its handle, and
NOT_CURRENT by its cause. -/
def mismatchStandby : State :=
  { regs := [(R.GLB_FRAME_STATUS.off, 0x40000000), (R.CMP_CTRL.off, 0x80000000), (R.SIP_STATUS.off, 0x50000000),
      (R.GA_CFG.off, 0x8E1F0000), (R.SLT_CTRL.off, 0x80000000)]
    tables := [(tableKey 0x08 0, [(3, 0x82), (4, 0x10), (6, 0x20), (224, 0x10)])]
    ditch := { pool := [(0, some { gen := 1, kind := 2, family := 0, source := 72, hint := 0, prio := 0, args := [] })] }
    silt := { entries := [(0, { st := 1, cls := 0x23, count := 1 }),
      (1, { st := 1, cls := 0x02, located := 65536, count := 1, window := true }),
      (2, { st := 1, cls := 0x14, located := causeLateTask, count := 1, window := true })] }
    time := { clock := { cutFrame := 1, evaluating := true, cueClosed := true } }
    tandem := { eval := 1, started := true }
    fabric := { memberDone := true } }

/-- Staging leaves the mismatch of the signature to the Silt trap. At the end of the command the trap takes it in and fires source 72
(R538); the release comes past the cue deadline, and the active named no such task (R105), so the standby is NOT_CURRENT and stops
evaluating (R433, R434). -/
theorem mismatchStandby_frameStaged_settle :
    (mismatchStandby.frameStaged {} {}).silt.incoming = [⟨0x23, 0, 0⟩] ∧
    (mismatchStandby.frameStaged {} {}).settle.fbit R.SIP_STATUS_current = false ∧
    (mismatchStandby.frameStaged {} {}).settle.time.clock.staged = false := by decide +kernel

/-- Refutes O45: FRAME_STAGED on a current standby. A fault that composing the frame reports can release a frame-bound task late and
so end the evaluation within the command, where the statement says that the frame is staged. -/
theorem not_frameEvents : ¬ Obligations.FrameEvents := by
  intro h
  obtain ⟨-, -, -, -, staging, -⟩ := h mismatchStandby (by decide)
  obtain ⟨t, ht, htime, -⟩ := staging (by decide) (by decide) (by decide) {} {}
  have hrun : (mismatchStandby.frameStaged {} {}).settle = t := Host.Outcome.next.inj ht
  obtain ⟨-, -, hdropped⟩ := mismatchStandby_frameStaged_settle
  have hstaged : t.time.clock.staged = true := by rw [htime]
  rw [hrun, hstaged] at hdropped
  exact absurd hdropped (by decide)

end Sys2Proof.Machine
end

section
/-! PROOFS. The widths of a canvas's codes (R186): a code as wide as a divisor of the full range expands to a multiple of itself. -/

namespace Sys2Proof.Machine

open Sys2Proof

/-- Where the full range is `k` times the range of an n-bit code, R186's half step of rounding never reaches the next code. -/
theorem expand16_of_range {n k : Nat} (v : Nat) (hn : 0 < n) (hk : (2 ^ n - 1) * k = 65535) : expand16 n v = k * v := by
  have hpow : 1 < 2 ^ n := Nat.one_lt_two_pow hn.ne'
  have hsplit : 2 * 65535 * v + 2 ^ n - 1 = 2 * (2 ^ n - 1) * (k * v) + (2 ^ n - 1) := by
    rw [← hk, Nat.add_sub_assoc hpow.le]
    ring
  unfold expand16
  rw [hsplit, Nat.mul_add_div (by omega), Nat.div_eq_of_lt (by omega), Nat.add_zero]

theorem expand16_eight (v : Nat) : expand16 8 v = 257 * v := expand16_of_range v (by decide) (by decide)

theorem expand16_sixteen (v : Nat) : expand16 16 v = v :=
  (expand16_of_range v (by decide) (k := 1) (by decide)).trans (Nat.one_mul v)

/-- R94's `hk.wid8` is R186's expansion of the two low bytes. -/
theorem hkWiden_toNat (w : Word) :
    (hkWiden w).toNat = laneWord (expand16 8 (w.toNat % 256)) (expand16 8 (w.toNat / 256 % 256)) := by
  have hlow : getBits w 7 0 = w.toNat % 256 := by simp [getBits]
  have hhigh : getBits w 15 8 = w.toNat / 256 % 256 := rfl
  unfold hkWiden
  rw [lanes_toNat (by omega) (by omega), hlow, hhigh, expand16_eight, expand16_eight, Nat.mul_comm 257, Nat.mul_comm 257]

/-- Settles O59: R186's quotient is the model's own; at 8 and 16 bits it is exact, and `hk.wid8` retires with it in each lane. -/
theorem codeExpansion : Obligations.CodeExpansion := by
  refine ⟨fun n v _ _ => ⟨rfl, ?_, ?_⟩, fun core rd rs1 s hready => ?_⟩
  · rintro rfl
    exact expand16_eight v
  · rintro rfl
    exact expand16_sixteen v
  · exact ⟨_, rfl, retired_xhnk2 hready (hkWiden_toNat _)⟩

end Sys2Proof.Machine
end

section
/-! PROOFS. Supply set-points (R246 to R248): what the sending of one set-point writes and leaves alone, said once as the order `Sends`
on states; the sending of all that are due, zone by zone; and what the end of a PMBus command leaves. -/

namespace Sys2Proof.Machine

open Sys2Proof

/-! ### Zones, buses and their starts -/

theorem State.bus_congr {s t : State} (h : t.water = s.water) (b : Nat) : t.bus b = s.bus b := by unfold State.bus; rw [h]

@[simp] theorem State.bus_setBus_same (s : State) (b : Nat) (l : List Supply) : (s.setBus b l).bus b = l := by
  unfold State.setBus State.bus
  split <;> rfl

/-- A queue is written and no other part of the state. -/
theorem State.setBus_eq (s : State) (b : Nat) (l : List Supply) :
    s.setBus b l = { s with water := { s.water with bus0 := (s.setBus b l).water.bus0, bus1 := (s.setBus b l).water.bus1 } } := by
  unfold State.setBus
  split <;> rfl

@[simp] theorem State.zone_setBus (s : State) (b : Nat) (l : List Supply) (z : Nat) : (s.setBus b l).zone z = s.zone z := by
  rw [State.setBus_eq]
  rfl

/-- A PMBus command's transfers leave the device, and nothing changes beside (R247). -/
theorem State.pmSend_eq (s : State) (b : Nat) (c : Supply) : ∃ l, s.pmSend b c = { s with out := l ++ s.out } := by
  unfold State.pmSend
  dsimp only
  split
  · exact ⟨[_], rfl⟩
  · exact ⟨[_, _], rfl⟩

/-- The start of a bus's head command marks its zone, and its transfers leave the device. -/
theorem State.busStart_cases (s : State) (b : Nat) :
    s.busStart b = s ∨ ∃ c q l, s.bus b = c :: q ∧
      s.busStart b = ({ s with out := l ++ s.out } : State).setZone c.zone ((s.zone c.zone).start c.cmd) := by
  unfold State.busStart
  split
  · exact .inl rfl
  · next c q hbus =>
    split
    · obtain ⟨l, hl⟩ := s.pmSend_eq b c
      exact .inr ⟨c, q, l, hbus, by rw [hl]⟩
    · exact .inl rfl

theorem State.busStart_eq (s : State) (b : Nat) :
    s.busStart b =
      { s with water := { s.water with zones := (s.busStart b).water.zones }, out := (s.busStart b).out } := by
  rcases s.busStart_cases b with h | ⟨c, q, l, -, h⟩
  · rw [h]
  · rw [h]
    rfl

@[simp] theorem State.bus_busStart (s : State) (b k : Nat) : (s.busStart b).bus k = s.bus k := by
  rw [State.busStart_eq]
  rfl

@[simp] theorem State.rg_busStart (s : State) (b o : Nat) : (s.busStart b).rg o = s.rg o := by
  rw [State.busStart_eq]
  rfl

/-- A start is noted in a zone's `pending` and `begun` alone. -/
theorem State.zone_busStart (s : State) (b z : Nat) :
    (s.busStart b).zone z =
      { s.zone z with pending := ((s.busStart b).zone z).pending, begun := ((s.busStart b).zone z).begun } := by
  rcases s.busStart_cases b with h | ⟨c, q, l, -, h⟩
  · rw [h]
  · rw [h]
    by_cases hz : z = c.zone
    · rw [hz, State.zone_setZone_same]
      rfl
    · rw [State.zone_setZone_ne _ _ _ hz]
      rfl

theorem State.ack_busStart (s : State) (b z : Nat) : ((s.busStart b).zone z).ack = (s.zone z).ack := by
  rw [State.zone_busStart]

theorem State.zone_busStart_ne {s : State} {b z : Nat} (hhead : ∀ c ∈ s.bus b, c.zone ≠ z) : (s.busStart b).zone z = s.zone z := by
  rcases s.busStart_cases b with h | ⟨c, q, l, hbus, h⟩
  · rw [h]
  · rw [h]
    exact State.zone_setZone_ne _ _ _ (hhead c (hbus ▸ List.mem_cons_self)).symm

/-! ### What a device drives -/

theorem State.fbit_congr {s t : State} (h : t.regs = s.regs) (f : RF) (i j : Nat) : t.fbit f i j = s.fbit f i j := by
  unfold State.fbit
  rw [State.fget_congr h]

theorem State.role_congr {s t : State} (h : t.regs = s.regs) : t.role = s.role := State.fget_congr h _ _ _

theorem State.frame_congr {s t : State} (h : t.regs = s.regs) : t.frame = s.frame := by
  unfold State.frame State.pair
  rw [State.rg_congr h, State.rg_congr h]

/-! ### The order of sending -/

/-- `t` is `s` after set-points have been sent: the zones' records, the commands that wait, the ports' disparity and what left the
device differ at most. No command that waited is lost, and what has left stands. -/
structure Sends (s t : State) : Prop where
  eq : t = { s with
    water := { s.water with
      zones := t.water.zones, bus0 := t.water.bus0, bus1 := t.water.bus1, supply := t.water.supply }
    die := { s.die with ports := t.die.ports }
    free := t.free
    out := t.out }
  entry : ∀ p, (t.port p).entry = (s.port p).entry
  out : s.out <:+ t.out
  supply : s.water.supply ⊆ t.water.supply
  bus : ∀ b, s.bus b ⊆ t.bus b

namespace Sends

variable {s t u : State}

theorem refl (s : State) : Sends s s := ⟨rfl, fun _ => rfl, List.suffix_rfl, List.Subset.refl _, fun _ => List.Subset.refl _⟩

theorem trans (a : Sends s t) (b : Sends t u) : Sends s u where
  eq := by rw [b.eq, a.eq]
  entry p := (b.entry p).trans (a.entry p)
  out := a.out.trans b.out
  supply := List.Subset.trans a.supply b.supply
  bus k := List.Subset.trans (a.bus k) (b.bus k)

theorem regs (h : Sends s t) : t.regs = s.regs := by rw [h.eq]
theorem tables (h : Sends s t) : t.tables = s.tables := by rw [h.eq]
theorem silt (h : Sends s t) : t.silt = s.silt := by rw [h.eq]
theorem rings (h : Sends s t) : t.rings = s.rings := by rw [h.eq]
theorem tandem (h : Sends s t) : t.tandem = s.tandem := by rw [h.eq]
theorem time (h : Sends s t) : t.time = s.time := by rw [h.eq]
theorem power (h : Sends s t) : t.power = s.power := by rw [h.eq]
theorem domains (h : Sends s t) : t.domains = s.domains := by rw [h.eq]
theorem minSent (h : Sends s t) : t.water.minSent = s.water.minSent := by rw [h.eq]
theorem blackFrame (h : Sends s t) : t.water.blackFrame = s.water.blackFrame := by rw [h.eq]

theorem quiet (h : Sends s t) (hq : s.quiet) : t.quiet := quiet_of h.silt h.rings hq

theorem live (h : Sends s t) : t.live = s.live := by
  unfold State.live State.table
  rw [h.tables]

theorem drives (h : Sends s t) : t.drives = s.drives := by
  unfold State.drives
  rw [State.role_congr h.regs, h.tandem]

theorem readFrame (h : Sends s t) : t.readFrame = s.readFrame := by
  unfold State.readFrame State.isStandby
  rw [State.role_congr h.regs, State.frame_congr h.regs, h.time]

theorem blackLit (h : Sends s t) : t.blackLit = s.blackLit := by
  unfold State.blackLit
  rw [State.frame_congr h.regs, h.blackFrame]

theorem portsEnded (h : Sends s t) : t.portsEnded = s.portsEnded := by
  unfold State.portsEnded
  rw [State.fget_congr h.regs, State.fget_congr h.regs, State.fbit_congr h.regs, h.power]

theorem portDrives (h : Sends s t) (p : Nat) : t.portDrives p = s.portDrives p := by
  unfold State.portDrives Port.ent
  rw [State.domOn_congr h.domains, State.fbit_congr h.regs, h.drives, h.entry, h.portsEnded]

end Sends

/-- Set-points have been sent, and of the zones' records that of zone `z` alone differs. -/
structure SendsFor (z : Nat) (s t : State) : Prop extends Sends s t where
  zone_ne : ∀ y, y ≠ z → t.zone y = s.zone y

namespace SendsFor

variable {z : Nat} {s t u : State}

theorem refl (z : Nat) (s : State) : SendsFor z s s := ⟨Sends.refl s, fun _ _ => rfl⟩

theorem trans (a : SendsFor z s t) (b : SendsFor z t u) : SendsFor z s u :=
  ⟨a.toSends.trans b.toSends, fun y hy => (b.zone_ne y hy).trans (a.zone_ne y hy)⟩

theorem setZone (z : Nat) (s : State) (v : Zone) : SendsFor z s (s.setZone z v) :=
  ⟨⟨rfl, fun _ => rfl, List.suffix_rfl, List.Subset.refl _, fun _ => List.Subset.refl _⟩,
    fun _ hy => s.zone_setZone_ne z v hy⟩

/-- A command joins a queue. -/
theorem queue (z : Nat) (s : State) (b : Nat) (c : Supply) : SendsFor z s (s.setBus b (s.bus b ++ [c])) where
  eq := by unfold State.setBus; split <;> rfl
  entry p := by rw [State.setBus_eq]; rfl
  out := by rw [State.setBus_eq]
  supply := by rw [State.setBus_eq]; exact List.Subset.refl _
  bus k := by
    by_cases hb : b = 0 <;> by_cases hk : k = 0 <;> simp [State.setBus, State.bus, hb, hk]
  zone_ne y _ := s.zone_setBus b _ y

theorem busStart {b : Nat} (hhead : ∀ c ∈ s.bus b, c.zone = z) : SendsFor z s (s.busStart b) where
  eq := by rw [State.busStart_eq]
  entry p := by rw [State.busStart_eq]; rfl
  out := by
    rcases s.busStart_cases b with h | ⟨c, q, l, -, h⟩
    · rw [h]
    · rw [h]
      exact List.suffix_append l s.out
  supply := by rw [State.busStart_eq]; exact List.Subset.refl _
  bus k := by rw [State.bus_busStart]; exact List.Subset.refl _
  zone_ne y hy := State.zone_busStart_ne fun c hc => hhead c hc ▸ hy.symm

/-- A command is held for its Furrow frame's acknowledgement. -/
theorem hold (z : Nat) (s : State) (c : Supply) :
    SendsFor z s { s with water := { s.water with supply := s.water.supply ++ [c] } } :=
  ⟨⟨rfl, fun _ => rfl, List.suffix_rfl, List.subset_append_left _ _, fun _ => List.Subset.refl _⟩, fun _ _ => rfl⟩

theorem furSend (z : Nat) (s : State) (p type flags addr : Nat) (payload : List Byte) (fill : Nat) :
    SendsFor z s (s.furSend p type flags addr payload fill) := by
  unfold State.furSend
  split
  · refine ⟨⟨rfl, fun k => ?_, List.suffix_cons _ _, List.Subset.refl _, fun _ => List.Subset.refl _⟩, fun _ _ => rfl⟩
    unfold State.sendSymbols
    show (State.port (State.setPort _ _ _) k).entry = _
    rw [State.port_setPort]
    split
    · next hk => rw [hk]; rfl
    · rfl
  · exact refl z s

end SendsFor

/-! ### A set-point is sent -/

/-- The command that carries the set-point `v` of zone `z`, numbered as the zone's next one in `s`. -/
def IsSetPoint (s : State) (z v : Nat) (rising : Bool) (c : Supply) : Prop :=
  c.zone = z ∧ c.value = v ∧ c.cmd = (s.zone z).cmds ∧ c.rising = rising

/-- From `s` on, zone `z` has been sent the set-point `v` on its path (R247), as far as the device drives its outputs. -/
def SetPointSent (s : State) (z v : Nat) (rising : Bool) (t : State) : Prop :=
  s.drives = true →
    (2 ≤ s.live.zonePath z →
      (∃ c ∈ t.water.supply, IsSetPoint s z v rising c ∧ c.seq = ((s.zone z).seq + 1) % 256) ∧
      (s.portDrives (bits (s.live.zoneW z 1) 31 24) = true →
        SentFrame (bits (s.live.zoneW z 1) 31 24)
          (furFrame 0x05 (if rising then 2 else 0) (bits (s.live.zoneW z 1) 23 14) (s.readFrame % 65536)
            (leBytes v 2 ++ leBytes (((s.zone z).seq + 1) % 256) 1 ++ [0])) 0 t)) ∧
    (s.live.zonePath z ≤ 1 → s.fbit R.WM_PMBUS_CFG_enable (s.live.zonePath z) = true →
      ∃ c ∈ t.bus (s.live.zonePath z), IsSetPoint s z v rising c)

section sent

variable {s r t u : State} {z v : Nat} {rising : Bool}

theorem SentFrame.mono {p fill : Nat} {b : List Byte} (h : SentFrame p b fill t) (hout : t.out ⊆ u.out) : SentFrame p b fill u := by
  obtain ⟨k, rd, w, hmem⟩ := h
  exact ⟨k, rd, w, hout hmem⟩

/-- What has been sent stays sent while commands only join those that wait. -/
theorem SetPointSent.mono (h : SetPointSent s z v rising t) (hout : t.out ⊆ u.out) (hsupply : t.water.supply ⊆ u.water.supply)
    (hbus : ∀ b, t.bus b ⊆ u.bus b) : SetPointSent s z v rising u := by
  intro hdrives
  obtain ⟨hfur, hpm⟩ := h hdrives
  refine ⟨fun hpath => ?_, fun hpath hon => ?_⟩
  · obtain ⟨⟨c, hc, hcmd⟩, hframe⟩ := hfur hpath
    exact ⟨⟨c, hsupply hc, hcmd⟩, fun hport => (hframe hport).mono hout⟩
  · obtain ⟨c, hc, hcmd⟩ := hpm hpath hon
    exact ⟨c, hbus _ hc, hcmd⟩

theorem SetPointSent.later (h : SetPointSent s z v rising t) (htu : Sends t u) : SetPointSent s z v rising u :=
  h.mono htu.out.subset htu.supply htu.bus

/-- The sending of other set-points before is no matter: only the zone's own numbers count. -/
theorem SetPointSent.earlier (h : SetPointSent r z v rising t) (hsr : Sends s r) (hcmds : (r.zone z).cmds = (s.zone z).cmds)
    (hseq : (r.zone z).seq = (s.zone z).seq) : SetPointSent s z v rising t := by
  unfold SetPointSent IsSetPoint at *
  rw [hsr.drives, hsr.live, hsr.readFrame, hsr.portDrives, State.fbit_congr hsr.regs, hcmds, hseq] at h
  exact h

theorem furSend_sentFrame {p : Nat} (h : s.portDrives p = true) (type flags addr : Nat) (payload : List Byte) (fill : Nat) :
    SentFrame p (furFrame type flags addr (s.readFrame % 65536) payload) fill (s.furSend p type flags addr payload fill) := by
  unfold State.furSend
  rw [if_pos h]
  exact ⟨Config.idleFill s.free, (s.port p).rd, (s.port p).wire, List.mem_cons_self⟩

end sent

/-- A zone's set-point H as its next command, and the zone's record with that command numbered. -/
def State.setPoint (s : State) (z : Nat) (rising : Bool) : Supply :=
  { zone := z, value := (s.zone z).h, cmd := (s.zone z).cmds, rising := rising }

def Zone.numbered (v : Zone) (rising : Bool) : Zone :=
  { v with cmds := v.cmds + 1, riseCmd := if rising then some v.cmds else v.riseCmd }

/-- The set-point has joined the queue of the zone's bus. -/
def State.setPointQueued (s : State) (z : Nat) (rising : Bool) : State :=
  (s.setZone z ((s.zone z).numbered rising)).setBus (s.live.zonePath z) (s.bus (s.live.zonePath z) ++ [s.setPoint z rising])

/-- The set-point as a Furrow port carries it (R311), and the state that holds it for its acknowledgement. -/
def State.furPoint (s : State) (z : Nat) (rising : Bool) : Supply :=
  { s.setPoint z rising with
    port := bits (s.live.zoneW z 1) 31 24, node := bits (s.live.zoneW z 1) 23 14, seq := ((s.zone z).seq + 1) % 256 }

def State.furPointHeld (s : State) (z : Nat) (rising : Bool) : State :=
  let u := s.setZone z (({ (s.zone z).numbered rising with seq := ((s.zone z).seq + 1) % 256 } : Zone).start (s.zone z).cmds)
  { u with water := { u.water with supply := u.water.supply ++ [s.furPoint z rising] } }

section zoneSend

variable {s : State} {z : Nat} {rising : Bool}

/-- A device that does not drive sends nothing (R255), and a bus that is not enabled runs nothing. -/
theorem State.zoneSend_of_not_drives (h : s.drives = false) : s.zoneSend z rising = s := by simp [State.zoneSend, h]

theorem State.zoneSend_of_bus_off (hpath : s.live.zonePath z ≤ 1) (hoff : s.fbit R.WM_PMBUS_CFG_enable (s.live.zonePath z) = false) :
    s.zoneSend z rising = s := by simp [State.zoneSend, hpath, hoff]

theorem State.zoneSend_of_bus_on (h : s.drives = true) (hpath : s.live.zonePath z ≤ 1)
    (hon : s.fbit R.WM_PMBUS_CFG_enable (s.live.zonePath z) = true) :
    s.zoneSend z rising =
      if s.bus (s.live.zonePath z) = [] then (s.setPointQueued z rising).busStart (s.live.zonePath z)
      else s.setPointQueued z rising := by
  unfold State.zoneSend
  rw [if_pos h]
  dsimp only
  rw [if_pos hpath, if_pos hon]
  rfl

theorem State.zoneSend_of_furrow (h : s.drives = true) (hpath : 2 ≤ s.live.zonePath z) :
    s.zoneSend z rising = (s.furPointHeld z rising).furSupply (s.furPoint z rising) := by
  unfold State.zoneSend
  rw [if_pos h]
  dsimp only
  rw [if_neg (by omega)]
  rfl

/-- What `zoneSend` comes to: zone `z` keeps H, the rise that waits and the value acknowledged, and has been sent H. -/
structure ZoneSent (z : Nat) (rising : Bool) (s t : State) : Prop extends SendsFor z s t where
  h : (t.zone z).h = (s.zone z).h
  rise : (t.zone z).rise = (s.zone z).rise
  ack : (t.zone z).ack = (s.zone z).ack
  sent : SetPointSent s z (s.zone z).h rising t

theorem ZoneSent.of_silent (hsilent : SetPointSent s z (s.zone z).h rising s) : ZoneSent z rising s s :=
  ⟨SendsFor.refl z s, rfl, rfl, rfl, hsilent⟩

/-- A set-point that joins its bus's queue is sent. -/
theorem setPointQueued_zoneSent (hpath : s.live.zonePath z ≤ 1) : ZoneSent z rising s (s.setPointQueued z rising) := by
  have hzone : (s.setPointQueued z rising).zone z = (s.zone z).numbered rising := by
    rw [State.setPointQueued, State.zone_setBus, State.zone_setZone_same]
  refine ⟨(SendsFor.setZone z s _).trans (SendsFor.queue z _ _ _), ?_, ?_, ?_, fun _ => ⟨fun h2 => by omega, fun _ _ => ?_⟩⟩
  · rw [hzone]; rfl
  · rw [hzone]; rfl
  · rw [hzone]; rfl
  · refine ⟨s.setPoint z rising, ?_, rfl, rfl, rfl, rfl⟩
    rw [State.setPointQueued, State.bus_setBus_same]
    exact List.mem_append_right _ List.mem_cons_self

/-- The start of the bus leaves the zone as `ZoneSent` says. -/
theorem ZoneSent.busStart {t : State} {b : Nat} (h : ZoneSent z rising s t) (hhead : ∀ c ∈ t.bus b, c.zone = z) :
    ZoneSent z rising s (t.busStart b) := by
  have hstart := SendsFor.busStart hhead
  have hzone := t.zone_busStart b z
  refine ⟨h.toSendsFor.trans hstart, ?_, ?_, ?_, h.sent.later hstart.toSends⟩
  · rw [hzone]; exact h.h
  · rw [hzone]; exact h.rise
  · rw [hzone]; exact h.ack

/-- A set-point that leaves in a SUPPLY frame is sent. -/
theorem furSupply_zoneSent (hpath : 2 ≤ s.live.zonePath z) :
    ZoneSent z rising s ((s.furPointHeld z rising).furSupply (s.furPoint z rising)) := by
  have hheld : SendsFor z s (s.furPointHeld z rising) := (SendsFor.setZone z s _).trans (SendsFor.hold z _ _)
  have hsend : SendsFor z (s.furPointHeld z rising) ((s.furPointHeld z rising).furSupply (s.furPoint z rising)) :=
    SendsFor.furSend z _ _ _ _ _ _ _
  have hzone : ((s.furPointHeld z rising).furSupply (s.furPoint z rising)).zone z =
      ({ (s.zone z).numbered rising with seq := ((s.zone z).seq + 1) % 256 } : Zone).start (s.zone z).cmds := by
    rw [State.zone_congr (t := (s.furPointHeld z rising).furSupply (s.furPoint z rising)) (s := s.furPointHeld z rising)]
    · exact State.zone_setZone_same _ _ _
    · unfold State.furSupply State.furSend
      split <;> rfl
  refine ⟨hheld.trans hsend, ?_, ?_, ?_, fun _ => ⟨fun _ => ⟨?_, fun hport => ?_⟩, fun h1 => by omega⟩⟩
  · rw [hzone]; rfl
  · rw [hzone]; rfl
  · rw [hzone]; rfl
  · exact ⟨s.furPoint z rising, hsend.supply (List.mem_append_right _ List.mem_cons_self), ⟨rfl, rfl, rfl, rfl⟩, rfl⟩
  · rw [← hheld.readFrame]
    exact furSend_sentFrame ((hheld.portDrives _).trans hport) _ _ _ _ _

/-- The sending of a zone's set-point H on its path (R247). -/
theorem State.zoneSend_zoneSent (s : State) (z : Nat) (rising : Bool) : ZoneSent z rising s (s.zoneSend z rising) := by
  cases hdrives : s.drives with
  | false =>
    rw [State.zoneSend_of_not_drives hdrives]
    exact .of_silent fun h => absurd (hdrives.symm.trans h) (by decide)
  | true =>
    rcases Nat.lt_or_ge 1 (s.live.zonePath z) with hpath | hpath
    · rw [State.zoneSend_of_furrow hdrives hpath]
      exact furSupply_zoneSent hpath
    · cases hon : s.fbit R.WM_PMBUS_CFG_enable (s.live.zonePath z) with
      | false =>
        rw [State.zoneSend_of_bus_off hpath hon]
        exact .of_silent fun _ => ⟨fun h2 => by omega, fun _ h => absurd (hon.symm.trans h) (by decide)⟩
      | true =>
        rw [State.zoneSend_of_bus_on hdrives hpath hon]
        have hqueued : ZoneSent z rising s (s.setPointQueued z rising) := setPointQueued_zoneSent hpath
        split
        · next hidle =>
          refine hqueued.busStart fun c hc => ?_
          rw [State.setPointQueued, State.bus_setBus_same, hidle, List.nil_append, List.mem_singleton] at hc
          rw [hc]; rfl
        · exact hqueued

end zoneSend

/-! ### Rising and falling set-points of one zone (R246) -/

section oneZone

variable (s : State) (z : Nat)

/-- A set-point sent after a change of the zone's record that leaves its numbers alone. -/
theorem setZone_zoneSend (v : Zone) (rising : Bool) (hcmds : v.cmds = (s.zone z).cmds) (hseq : v.seq = (s.zone z).seq) :
    let t := (s.setZone z v).zoneSend z rising
    SendsFor z s t ∧ (t.zone z).h = v.h ∧ (t.zone z).rise = v.rise ∧ (t.zone z).ack = v.ack ∧ SetPointSent s z v.h rising t := by
  have hset := SendsFor.setZone z s v
  obtain ⟨hsends, hh, hrise, hack, hsent⟩ := (s.setZone z v).zoneSend_zoneSent z rising
  rw [State.zone_setZone_same] at hh hrise hack hsent
  exact ⟨hset.trans hsends, hh, hrise, hack, hsent.earlier hset.toSends (by simpa using hcmds) (by simpa using hseq)⟩

theorem State.sendRise_spec :
    SendsFor z s (s.sendRise z) ∧ ((s.sendRise z).zone z).h = (s.zone z).h ∧ ((s.sendRise z).zone z).rise = none ∧
      ((s.sendRise z).zone z).ack = (s.zone z).ack ∧ SetPointSent s z (s.zone z).h true (s.sendRise z) :=
  setZone_zoneSend s z { s.zone z with rise := none } true rfl rfl

/-- A zone falls where it holds more than its latest two needs ask, and no rise waits. -/
def Zone.falls (v : Zone) : Prop := max v.prev v.need < v.h ∧ v.rise = none

theorem State.sendFall_of_not_falls (h : ¬(s.zone z).falls) : s.sendFall z = s := if_neg h

theorem State.sendFall_of_falls (h : (s.zone z).falls) :
    SendsFor z s (s.sendFall z) ∧ ((s.sendFall z).zone z).h = max (s.zone z).prev (s.zone z).need ∧
      ((s.sendFall z).zone z).rise = (s.zone z).rise ∧ ((s.sendFall z).zone z).ack = (s.zone z).ack ∧
      SetPointSent s z (max (s.zone z).prev (s.zone z).need) false (s.sendFall z) := by
  rw [show s.sendFall z = _ from if_pos h]
  exact setZone_zoneSend s z { s.zone z with h := max (s.zone z).prev (s.zone z).need } false rfl rfl

theorem State.sendFall_sendsFor : SendsFor z s (s.sendFall z) := by
  by_cases h : (s.zone z).falls
  · exact (s.sendFall_of_falls z h).1
  · rw [s.sendFall_of_not_falls z h]
    exact SendsFor.refl z s

end oneZone

/-! ### All zones, one after another -/

theorem Tabs.zones_nodup (t : Tabs) : t.zones.Nodup := List.nodup_range.filter _

section allZones

variable {f : State → Nat → State} (hf : ∀ s z, SendsFor z s (f s z))

include hf

theorem foldl_sends (l : List Nat) (s : State) : Sends s (l.foldl f s) := by
  induction l generalizing s with
  | nil => exact Sends.refl s
  | cons z l ih => exact (hf s z).toSends.trans (ih _)

theorem foldl_zone_of_not_mem {l : List Nat} {z : Nat} (hz : z ∉ l) (s : State) : (l.foldl f s).zone z = s.zone z := by
  induction l generalizing s with
  | nil => rfl
  | cons y l ih =>
    obtain ⟨hzy, hzl⟩ := not_or.1 (List.mem_cons.not.1 hz)
    exact (ih hzl _).trans ((hf s y).zone_ne z hzy)

/-- A zone of the list meets the operation once, in its own record still, and keeps what that makes of it. -/
theorem foldl_zone_of_mem {l : List Nat} (hl : l.Nodup) {z : Nat} (hz : z ∈ l) (s : State) :
    ∃ r, Sends s r ∧ r.zone z = s.zone z ∧ Sends (f r z) (l.foldl f s) ∧ (l.foldl f s).zone z = (f r z).zone z := by
  obtain ⟨a, b, rfl⟩ := List.append_of_mem hz
  obtain ⟨-, hb, hab⟩ := List.nodup_append.1 hl
  have hza : z ∉ a := fun h => hab z h z List.mem_cons_self rfl
  rw [List.foldl_append, List.foldl_cons]
  exact ⟨a.foldl f s, foldl_sends hf a s, foldl_zone_of_not_mem hf hza s, foldl_sends hf b _,
    foldl_zone_of_not_mem hf (List.nodup_cons.1 hb).1 _⟩

end allZones

/-! ### The two commands of a period (R246) -/

/-- The zones whose rise is due before the next instant. -/
def State.riseZones (s : State) : List Nat := s.live.zones.filter (fun z => s.riseDue z)

theorem State.mem_riseZones {s : State} {z : Nat} :
    z ∈ s.riseZones ↔ z ∈ s.live.zones ∧ ∃ n, (s.zone z).rise = some n ∧ n ≤ s.frame + 1 := by
  simp [State.riseZones, State.riseDue, Option.any_eq_true]

theorem State.riseZones_nodup (s : State) : s.riseZones.Nodup := s.live.zones_nodup.filter _

section period

variable {s : State}

theorem exec_supplyRiseSend (s : State) : exec .supplyRiseSend s = .next s.supplyRise.settle := rfl
theorem exec_supplyFallSend (s : State) : exec .supplyFallSend s = .next s.supplyFall.settle := rfl
theorem exec_pmbusCommandDone (b : Fin 2) (ack : Bool) (s : State) :
    exec (.pmbusCommandDone b ack) s = .next (s.pmDone b ack).settle := rfl

theorem State.supplyRise_on (h : s.fbit R.WM_CTRL_supply_enable = true) : s.supplyRise = s.riseZones.foldl State.sendRise s := if_pos h

theorem State.supplyRise_off (h : s.fbit R.WM_CTRL_supply_enable = false) : s.supplyRise = s := by simp [State.supplyRise, h]

theorem sendRise_sendsFor (s : State) (z : Nat) : SendsFor z s (s.sendRise z) := (s.sendRise_spec z).1

theorem supplyRise_of_due (hon : s.fbit R.WM_CTRL_supply_enable = true) {z : Nat} (hz : z ∈ s.riseZones) :
    (s.supplyRise.zone z).h = (s.zone z).h ∧ (s.supplyRise.zone z).rise = none ∧ (s.supplyRise.zone z).ack = (s.zone z).ack ∧
      SetPointSent s z (s.zone z).h true s.supplyRise := by
  rw [State.supplyRise_on hon]
  obtain ⟨r, hsr, hzr, hrt, hzt⟩ := foldl_zone_of_mem sendRise_sendsFor s.riseZones_nodup hz s
  obtain ⟨-, hh, hrise, hack, hsent⟩ := r.sendRise_spec z
  rw [hzr] at hh hack hsent
  rw [hzt]
  exact ⟨hh, hrise, hack, (hsent.later hrt).earlier hsr (by rw [hzr]) (by rw [hzr])⟩

theorem supplyRise_of_not_due (hon : s.fbit R.WM_CTRL_supply_enable = true) {z : Nat} (hz : z ∉ s.riseZones) :
    s.supplyRise.zone z = s.zone z := by
  rw [State.supplyRise_on hon]
  exact foldl_zone_of_not_mem sendRise_sendsFor hz s

theorem supplyRise_sends (hon : s.fbit R.WM_CTRL_supply_enable = true) : Sends s s.supplyRise := by
  rw [State.supplyRise_on hon]
  exact foldl_sends sendRise_sendsFor _ s

/-- The falling set-points of all zones, before the note that `v_min_mv` went out. -/
def State.allFalls (s : State) : State := s.live.zones.foldl State.sendFall s

theorem State.supplyFall_on (hon : s.fbit R.WM_CTRL_supply_enable = true) (hnew : s.fbit R.GLB_FRAME_STATUS_repeat_last = false) :
    s.supplyFall = s.allFalls.noteMin := by
  simp only [State.supplyFall, hon, hnew]
  rfl

theorem State.supplyFall_repeated (h : s.fbit R.GLB_FRAME_STATUS_repeat_last = true) : s.supplyFall = s := by
  simp [State.supplyFall, h]

theorem State.noteMin_eq (s : State) : s.noteMin = { s with water := { s.water with
    minSent := if s.water.minSent = none ∧ s.blackLit = true then some s.now else s.water.minSent } } := by
  unfold State.noteMin
  by_cases h : s.water.minSent = none ∧ s.blackLit = true
  · rw [if_pos h, if_pos (by simpa using h)]
  · rw [if_neg h, if_neg (by simpa using h)]

theorem allFalls_sends (s : State) : Sends s s.allFalls := foldl_sends State.sendFall_sendsFor _ s

theorem allFalls_of_falls {z : Nat} (hz : z ∈ s.live.zones) (hfall : (s.zone z).falls) :
    (s.allFalls.zone z).h = max (s.zone z).prev (s.zone z).need ∧ (s.allFalls.zone z).rise = (s.zone z).rise ∧
      (s.allFalls.zone z).ack = (s.zone z).ack ∧ SetPointSent s z (max (s.zone z).prev (s.zone z).need) false s.allFalls := by
  obtain ⟨r, hsr, hzr, hrt, hzt⟩ := foldl_zone_of_mem State.sendFall_sendsFor s.live.zones_nodup hz s
  obtain ⟨-, hh, hrise, hack, hsent⟩ := r.sendFall_of_falls z (hzr ▸ hfall)
  rw [hzr] at hh hrise hack hsent
  unfold State.allFalls
  rw [hzt]
  exact ⟨hh, hrise, hack, (hsent.later hrt).earlier hsr (by rw [hzr]) (by rw [hzr])⟩

theorem allFalls_of_not_falls {z : Nat} (h : z ∉ s.live.zones ∨ ¬(s.zone z).falls) : s.allFalls.zone z = s.zone z := by
  by_cases hz : z ∈ s.live.zones
  · obtain ⟨r, -, hzr, -, hzt⟩ := foldl_zone_of_mem State.sendFall_sendsFor s.live.zones_nodup hz s
    have hstay : ¬(s.zone z).falls := h.resolve_left (not_not_intro hz)
    unfold State.allFalls
    rw [hzt, r.sendFall_of_not_falls z (hzr ▸ hstay), hzr]
  · exact foldl_zone_of_not_mem State.sendFall_sendsFor hz s

end period

/-! ### The marks of faulted zones -/

theorem clear_bit (x k : Nat) : (x - x / 2 ^ k % 2 * 2 ^ k) / 2 ^ k % 2 = 0 := by
  have hle : 2 ^ k * (x / 2 ^ k % 2) ≤ x :=
    (Nat.mul_le_mul_left _ (Nat.mod_le _ _)).trans (Nat.mul_div_le x _)
  rw [Nat.mul_comm, Nat.sub_mul_div_of_le _ _ _ hle]
  omega

theorem set_bit (x k : Nat) : (x ||| 2 ^ k) / 2 ^ k % 2 = 1 := by
  have h : (x ||| 2 ^ k).testBit k = true := by simp
  simpa [Nat.testBit_eq_decide_div_mod_eq] using h

theorem zoneFault_lt (s : State) (i : Nat) : s.fget R.WM_ZONE_FAULT i < 2 ^ 32 := getBits_lt _ _ _

theorem fget_fset_zoneFault (s : State) {v : Nat} (i : Nat) (hv : v < 2 ^ 32) :
    (s.fset R.WM_ZONE_FAULT v i).fget R.WM_ZONE_FAULT i = v :=
  (s.fget_fset_same _ _ _ _ (by decide)).trans (Nat.mod_eq_of_lt hv)

theorem State.clearZoneFault_zoneFaulted (s : State) (z : Nat) : (s.clearZoneFault z).zoneFaulted z = false := by
  unfold State.zoneFaulted State.clearZoneFault
  rw [fget_fset_zoneFault _ _ (Nat.lt_of_le_of_lt (Nat.sub_le _ _) (zoneFault_lt s _)), clear_bit]
  rfl

/-- A zone is marked in WM_ZONE_FAULT. -/
def State.markZone (s : State) (z : Nat) : State :=
  s.fset R.WM_ZONE_FAULT (s.fget R.WM_ZONE_FAULT (z / 32) ||| 2 ^ (z % 32)) (z / 32)

theorem State.markZone_zoneFaulted (s : State) (z : Nat) : (s.markZone z).zoneFaulted z = true := by
  have hbit : 2 ^ (z % 32) < 2 ^ 32 := Nat.pow_lt_pow_right (by decide) (Nat.mod_lt _ (by decide))
  unfold State.zoneFaulted State.markZone
  rw [fget_fset_zoneFault _ _ (Nat.or_lt_two_pow (zoneFault_lt s _) hbit), set_bit]
  rfl

theorem zoneFaulted_congr {s t : State} {z : Nat} (h : t.rg (R.WM_ZONE_FAULT.off (z / 32)) = s.rg (R.WM_ZONE_FAULT.off (z / 32))) :
    t.zoneFaulted z = s.zoneFaulted z := by
  unfold State.zoneFaulted State.fget
  rw [h]

/-- The counter of failed transfers stands apart from the marks. -/
theorem nackCount_ne_zoneFault (i : Nat) : R.WM_PMBUS_NACK_COUNT.off ≠ R.WM_ZONE_FAULT.off i := by
  simp only [RF.off, R.WM_PMBUS_NACK_COUNT, R.WM_ZONE_FAULT]
  omega

/-- Neither is among the registers that the end of a command may write. -/
theorem calmOff_nackCount : calmOff R.WM_PMBUS_NACK_COUNT.off := by decide

theorem calmOff_zoneFault {z : Nat} (hz : z < 256) : calmOff (R.WM_ZONE_FAULT.off (z / 32)) := by
  simp only [calmOff, RF.off, R.WM_ZONE_FAULT]
  omega

/-! ### An acknowledgement, and a failure with its repeat (R247, R248) -/

section ends

variable (s : State) (z cmd value : Nat)

/-- An acknowledgement writes a zone's record and its mark, and enters the ledger. -/
theorem State.zoneAck_eq : s.zoneAck z cmd value =
    { s with
      regs := (s.zoneAck z cmd value).regs
      tandem := (s.zoneAck z cmd value).tandem
      water := { s.water with zones := (s.zoneAck z cmd value).water.zones } } := rfl

theorem State.zone_zoneAck : (s.zoneAck z cmd value).zone z =
    { s.zone z with
      ack := some value
      riseCmd := (s.zone z).riseCmd.filter (fun k => decide (cmd < k))
      pending := (s.zone z).pending && decide (cmd + 1 < (s.zone z).begun) } := mget_mset_same _ _ _ _

theorem State.zone_zoneAck_ne {y : Nat} (h : y ≠ z) : (s.zoneAck z cmd value).zone y = s.zone y := mget_mset_ne _ _ _ h

theorem State.zoneAck_zoneFaulted : (s.zoneAck z cmd value).zoneFaulted z = false := State.clearZoneFault_zoneFaulted _ z

/-- A zone that never acknowledged takes a free value to hold (log entries 8, 53). -/
def State.holdValue : State :=
  if (s.zone z).ack = none then
    ({ s with free := s.free + 1 } : State).setZone z { s.zone z with ack := some (Config.ackNone s.free % 65536) }
  else s

theorem State.zoneFail_eq : s.zoneFail z = (((s.holdValue z).markZone z).report 0x07 z).ledgerAdd 0x0A z [0] := rfl

theorem State.regs_holdValue : (s.holdValue z).regs = s.regs := by
  unfold State.holdValue
  split <;> rfl

theorem State.bus_holdValue (b : Nat) : (s.holdValue z).bus b = s.bus b := by
  unfold State.holdValue
  split <;> rfl

theorem State.zone_holdValue_ne {y : Nat} (h : y ≠ z) : (s.holdValue z).zone y = s.zone y := by
  unfold State.holdValue
  split
  · exact State.zone_setZone_ne _ _ _ h
  · rfl

/-- The value held: the one acknowledged last, or a free one. -/
theorem State.ack_holdValue :
    ((s.holdValue z).zone z).ack = some ((s.zone z).ack.getD (Config.ackNone s.free % 65536)) := by
  unfold State.holdValue
  cases hack : (s.zone z).ack with
  | none => rw [if_pos rfl, State.zone_setZone_same]; rfl
  | some a => rw [if_neg (by simp), hack]; rfl

theorem State.water_zoneFail : (s.zoneFail z).water = (s.holdValue z).water := by
  rw [State.zoneFail_eq]
  show (State.report _ _ _ _).water = _
  rw [(State.report_counts _ _ _ _).eq]
  rfl

theorem State.bus_zoneFail (b : Nat) : (s.zoneFail z).bus b = s.bus b := by
  rw [State.bus_congr (s.water_zoneFail z), State.bus_holdValue]

theorem State.zone_zoneFail_ne {y : Nat} (h : y ≠ z) : (s.zoneFail z).zone y = s.zone y := by
  rw [State.zone_congr (congrArg Water.zones (s.water_zoneFail z)), State.zone_holdValue_ne _ _ h]

theorem State.ack_zoneFail : ∃ n, ((s.zoneFail z).zone z).ack = some ((s.zone z).ack.getD n) := by
  rw [State.zone_congr (congrArg Water.zones (s.water_zoneFail z)), State.ack_holdValue]
  exact ⟨_, rfl⟩

theorem State.rg_zoneFail (o : Nat) : (s.zoneFail z).rg o = ((s.holdValue z).markZone z).rg o := State.rg_report _ _ _ _ _

theorem State.zoneFail_zoneFaulted : (s.zoneFail z).zoneFaulted z = true :=
  (zoneFaulted_congr (s.rg_zoneFail z _)).trans ((s.holdValue z).markZone_zoneFaulted z)

theorem State.nackCount_zoneFail : (s.zoneFail z).rg R.WM_PMBUS_NACK_COUNT.off = s.rg R.WM_PMBUS_NACK_COUNT.off := by
  rw [State.rg_zoneFail, State.markZone, State.rg_fset_ne _ (nackCount_ne_zoneFault _), State.rg_congr (s.regs_holdValue z)]

end ends

/-! ### The end of a PMBus command -/

section pmDone

variable {s : State} {b : Nat} {c : Supply} {q : List Supply}

theorem State.pmDone_acked (hbus : s.bus b = c :: q) :
    s.pmDone b true = ((s.setBus b q).zoneAck c.zone c.cmd c.value).busStart b := by
  unfold State.pmDone
  rw [hbus]
  rfl

theorem State.pmDone_first_failure (hbus : s.bus b = c :: q) (hagain : c.again = false) :
    s.pmDone b false = ((s.bumpF R.WM_PMBUS_NACK_COUNT).setBus b ({ c with again := true } :: q)).busStart b := by
  unfold State.pmDone
  rw [hbus]
  simp only [hagain, Bool.false_eq_true, if_false]

theorem State.pmDone_second_failure (hbus : s.bus b = c :: q) (hagain : c.again = true) :
    s.pmDone b false = (((s.bumpF R.WM_PMBUS_NACK_COUNT).setBus b q).zoneFail c.zone).busStart b := by
  unfold State.pmDone
  rw [hbus]
  simp only [hagain, Bool.false_eq_true, if_false, if_true]

/-- The counter counts whatever the command changes beside it, and so it does at the command's end. -/
theorem nackCounted {t u : State} (ht : t.rg R.WM_PMBUS_NACK_COUNT.off = (s.bumpF R.WM_PMBUS_NACK_COUNT).rg R.WM_PMBUS_NACK_COUNT.off)
    (hu : Calm t u) : Counted R.WM_PMBUS_NACK_COUNT.off s u := by
  obtain ⟨hcounted, -, -⟩ := s.bump_spec R.WM_PMBUS_NACK_COUNT.off
  unfold Counted at *
  rw [hu.regs _ calmOff_nackCount, ht]
  exact hcounted

theorem zone_bumpF (f : RF) (z : Nat) : (s.bumpF f).zone z = s.zone z := by
  rw [State.bumpF, (s.bump_spec (f.off 0 0)).2.2.eq]
  rfl

theorem rg_setBus (l : List Supply) (o : Nat) : (s.setBus b l).rg o = s.rg o := by
  rw [State.setBus_eq]
  rfl

theorem zoneFaulted_calm {t u : State} {z : Nat} (h : Calm t u) (hz : z < 256) : u.zoneFaulted z = t.zoneFaulted z :=
  zoneFaulted_congr (h.regs _ (calmOff_zoneFault hz))

/-- An acknowledged command: its bus goes on, and its value is its zone's acknowledged one. -/
theorem pmDone_acked_spec (hq : s.quiet) (hbus : s.bus b = c :: q) :
    let t := s.pmDone b true
    t.quiet ∧ t.bus b = q ∧ (t.zone c.zone).ack = some c.value ∧
      (t.zone c.zone).riseCmd = (s.zone c.zone).riseCmd.filter (fun k => decide (c.cmd < k)) ∧
      t.zoneFaulted c.zone = false ∧ ∀ z, z ≠ c.zone → (t.zone z).ack = (s.zone z).ack := by
  rw [State.pmDone_acked hbus]
  refine ⟨quiet_of ?_ ?_ hq, ?_, ?_, ?_, ?_, fun z hz => ?_⟩
  · rw [State.busStart_eq, State.zoneAck_eq, State.setBus_eq]
  · rw [State.busStart_eq, State.zoneAck_eq, State.setBus_eq]
  · rw [State.bus_busStart]
    exact State.bus_setBus_same s b q
  · rw [State.ack_busStart, State.zone_zoneAck]
  · rw [State.zone_busStart, State.zone_zoneAck, State.zone_setBus]
  · rw [zoneFaulted_congr (State.rg_busStart _ _ _), State.zoneAck_zoneFaulted]
  · rw [State.ack_busStart, State.zone_zoneAck_ne _ _ _ _ hz, State.zone_setBus]

/-- A failure that is the command's first: it stands at the front of its bus again. -/
theorem pmDone_first_failure_spec (hbus : s.bus b = c :: q) (hagain : c.again = false) :
    let t := s.pmDone b false
    t.bus b = { c with again := true } :: q ∧
      t.rg R.WM_PMBUS_NACK_COUNT.off = (s.bumpF R.WM_PMBUS_NACK_COUNT).rg R.WM_PMBUS_NACK_COUNT.off ∧
      ∀ z, (t.zone z).ack = (s.zone z).ack := by
  rw [State.pmDone_first_failure hbus hagain]
  refine ⟨?_, ?_, fun z => ?_⟩
  · rw [State.bus_busStart, State.bus_setBus_same]
  · rw [State.rg_busStart, rg_setBus]
  · rw [State.ack_busStart, State.zone_setBus, zone_bumpF]

/-- A failure of the repeat: the bus goes on, and the zone is marked and holds a value. -/
theorem pmDone_second_failure_spec (hbus : s.bus b = c :: q) (hagain : c.again = true) :
    let t := s.pmDone b false
    t.bus b = q ∧ t.zoneFaulted c.zone = true ∧
      t.rg R.WM_PMBUS_NACK_COUNT.off = (s.bumpF R.WM_PMBUS_NACK_COUNT).rg R.WM_PMBUS_NACK_COUNT.off ∧
      (∃ n, (t.zone c.zone).ack = some ((s.zone c.zone).ack.getD n)) ∧ ∀ z, z ≠ c.zone → (t.zone z).ack = (s.zone z).ack := by
  rw [State.pmDone_second_failure hbus hagain]
  refine ⟨?_, ?_, ?_, ?_, fun z hz => ?_⟩
  · rw [State.bus_busStart, State.bus_zoneFail, State.bus_setBus_same]
  · rw [zoneFaulted_congr (State.rg_busStart _ _ _), State.zoneFail_zoneFaulted]
  · rw [State.rg_busStart, State.nackCount_zoneFail, rg_setBus]
  · obtain ⟨n, hn⟩ := ((s.bumpF R.WM_PMBUS_NACK_COUNT).setBus b q).ack_zoneFail c.zone
    exact ⟨n, by rw [State.ack_busStart, hn, State.zone_setBus, zone_bumpF]⟩
  · rw [State.ack_busStart, State.zone_zoneFail_ne _ _ hz, State.zone_setBus, zone_bumpF]

end pmDone

/-- Settles O47. Each command's effect is `Sends` zone by zone, or one of the three ends of a PMBus command; where the end of the command
lets the Silt trap work, `Calm` keeps the Watermaster's state, the counter and the marks. That a repeated frame sends no falling set-point
is the model's choice (log entry 53), as is an acknowledgement that counts for the zone's earlier commands (log entry 92). -/
theorem supplyCommands : Obligations.SupplyCommands := by
  intro s hq sent due
  refine ⟨fun hon => ?rise, fun hoff => ?off, fun hon hnew => ?fall, fun hrepeat => ?repeated,
    fun b c q hbus hc => ⟨?acked, fun hagain => ?first, fun hagain => ?second⟩⟩
  case rise =>
    have hsends := supplyRise_sends hon
    rw [exec_supplyRiseSend]
    refine ans_quiet (hsends.quiet hq) ⟨hsends.out, fun z => ?_⟩
    have hdue : due z ↔ z ∈ s.riseZones := State.mem_riseZones.symm
    by_cases hz : z ∈ s.riseZones
    · obtain ⟨hh, hrise, hack, hsent⟩ := supplyRise_of_due hon hz
      exact ⟨fun _ => ⟨hrise, hsent⟩, fun h => absurd (hdue.2 hz) h, hh, hack⟩
    · have hzone := supplyRise_of_not_due hon hz
      exact ⟨fun h => absurd (hdue.1 h) hz, fun _ => hzone, by rw [hzone], by rw [hzone]⟩
  case off =>
    rw [exec_supplyRiseSend, State.supplyRise_off hoff]
    exact ans_quiet hq rfl
  case fall =>
    have hsends := allFalls_sends s
    rw [exec_supplyFallSend, State.supplyFall_on hon hnew, State.noteMin_eq, hsends.minSent, hsends.blackLit]
    refine ans_quiet (hsends.quiet hq) ⟨hsends.out, fun z => ?_, ?_⟩
    · by_cases hz : z ∈ s.live.zones ∧ (s.zone z).falls
      · obtain ⟨hlive, hfalls⟩ := hz
        obtain ⟨hh, hrise, hack, hsent⟩ := allFalls_of_falls hlive hfalls
        refine ⟨fun _ _ _ => ⟨hh, ?_⟩, ?_, hrise, hack⟩
        · exact hsent.mono (List.Subset.refl _) (List.Subset.refl _) fun _ => List.Subset.refl _
        · rintro (hdead | hlow | hwaits)
          · exact absurd hlive hdead
          · exact absurd hfalls.1 (Nat.not_lt.2 hlow)
          · exact absurd hfalls.2 hwaits
      · have hzone : s.allFalls.zone z = s.zone z := allFalls_of_not_falls (not_and_or.1 hz)
        exact ⟨fun hlive hless hnone => absurd ⟨hlive, hless, hnone⟩ hz, fun _ => hzone, congrArg Zone.rise hzone,
          congrArg Zone.ack hzone⟩
    · show (if _ then some s.allFalls.time.cycles else _) = _
      rw [hsends.time]
      rfl
  case repeated =>
    rw [exec_supplyFallSend, State.supplyFall_repeated hrepeat]
    exact ans_quiet hq rfl
  case acked =>
    obtain ⟨hquiet, hqueue, hack, hrise, hmark, hothers⟩ := pmDone_acked_spec hq hbus
    rw [exec_pmbusCommandDone]
    exact ans_quiet hquiet ⟨hqueue, hack, hrise, of_decide_eq_false hmark, hothers⟩
  case first =>
    obtain ⟨hqueue, hcount, hacks⟩ := pmDone_first_failure_spec hbus hagain
    rw [exec_pmbusCommandDone]
    refine ans_settle fun t ht => ⟨?_, nackCounted hcount ht, fun z => ?_⟩
    · rw [State.bus_congr ht.water, hqueue]
    · rw [State.zone_congr (congrArg Water.zones ht.water), hacks]
  case second =>
    obtain ⟨hqueue, hmark, hcount, ⟨n, hack⟩, hothers⟩ := pmDone_second_failure_spec hbus hagain
    rw [exec_pmbusCommandDone]
    refine ans_settle fun t ht => ?_
    have hzone (z : Nat) : t.zone z = (s.pmDone b false).zone z := State.zone_congr (congrArg Water.zones ht.water) z
    refine ⟨?_, of_decide_eq_true ((zoneFaulted_calm ht hc).trans hmark), nackCounted hcount ht, ?_, fun a ha => ?_, fun z hz => ?_⟩
    · rw [State.bus_congr ht.water, hqueue]
    · rw [hzone, hack]; rfl
    · rw [hzone, hack, ha]; rfl
    · rw [hzone, hothers z hz]

end Sys2Proof.Machine
end

section
/-! PROOFS. The end of a spillway counter (R541): at its last value a count changes nothing, and the count that reaches it is the one
that reports. -/

namespace Sys2Proof.Machine

open Sys2Proof

variable {s : State} {o : Nat}

theorem State.report_on (hsys : s.domOn .sys = true) (cls origin detail : Nat) :
    s.report cls origin detail = { s with silt := { s.silt with incoming := s.silt.incoming ++ [⟨cls, origin, detail⟩] } } :=
  if_pos hsys

/-- A saturated counter holds. -/
theorem State.bump_full (hfull : (s.rg o).toNat = maxWord) : s.bump o = s := if_pos hfull

/-- The count that takes a spillway counter to its last value reports it. -/
theorem State.bump_last (hspill : isSpill o = true) (hlast : (s.rg o).toNat + 1 = maxWord) :
    s.bump o = (s.setRg o (BitVec.ofNat 32 maxWord)).report 0x25 o := by
  unfold State.bump
  dsimp only
  rw [if_neg (by omega), if_pos ⟨hlast, hspill⟩, hlast]

/-- Settles O60. The three ranges of the counter's value are `bump_last`, `bump_full` and `bump_may`; the other registers stay as they
were by `bump_spec`. -/
theorem spillCounterSaturates : Obligations.SpillCounterSaturates := by
  intro o s hspill hsys t
  obtain ⟨-, hothers, -⟩ := s.bump_spec o
  refine ⟨fun hlast => ?last, fun hfull => State.bump_full hfull, fun hbelow => ?below, hothers⟩
  case last =>
    have ht : t = (s.setRg o (BitVec.ofNat 32 maxWord)).report 0x25 o := State.bump_last hspill (congrArg (· + 1) hlast)
    have hrg : t.rg o = BitVec.ofNat 32 maxWord := by rw [ht, State.rg_report, State.rg_setRg_same]
    have hon : (s.setRg o (BitVec.ofNat 32 maxWord)).domOn .sys = true := hsys
    have hsilt : t.silt.incoming = s.silt.incoming ++ [⟨0x25, o, 0⟩] := by rw [ht, State.report_on hon, State.setRg_silt]
    exact ⟨hrg, hsilt, State.bump_full (congrArg BitVec.toNat hrg)⟩
  case below =>
    have ht : t = s.setRg o (BitVec.ofNat 32 ((s.rg o).toNat + 1)) := State.bump_may (Nat.succ_lt_succ hbelow)
    refine ⟨?_, by rw [ht]; rfl⟩
    rw [ht, State.rg_setRg_same, BitVec.toNat_ofNat, Nat.mod_eq_of_lt (by omega)]

end Sys2Proof.Machine
end
